-- ==== Sys2Proof/Word.lean ====
section
/-! DEFINITION. Words of the Toertex TX9 (R8): a register is 32 bits (R49), a hart register 64 bits (R82), a cache
line 64 bytes (R82, R147), a vector register 256 bits (R82). -/

namespace Sys2Proof

/-- A byte. -/
abbrev Byte := BitVec 8
/-- A control-space register (R49). -/
abbrev Word := BitVec 32
/-- A hart register or a 64-bit counter. -/
abbrev DWord := BitVec 64
/-- The 64 bytes of one line, byte 0 in the low bits (R182: little-endian). -/
abbrev Line := BitVec 512
/-- A vector register, VLEN = 256 (R82). -/
abbrev VReg := BitVec 256

end Sys2Proof
end

