-- ==== Sys2Proof/Operand.lean ====
section
/-! DEFINITION. The operands of the commands: what a row of the opcode table names beside its mnemonic. -/

namespace Sys2Proof

/-- The source of a register access: a hart, an endpoint-presented function (R392, R395), or the Bellwether
controller (R355: its accesses obey every rule, locks included). -/
inductive Src where
  | hart (h : Nat)
  | pf0
  | pf1
  | bellwether
deriving DecidableEq, Repr

/-- The target of a control-space access. Block placement is reported only through BLOCK_BASE (R31), so a register
is named by its block and block offset. Block ids are the UNIT_IDs of R28; 513 is the instance-management block
(R415), which has no Unit Descriptor. -/
inductive CtlAddr where
  /-- A word of a Unit Descriptor (R28, R30). -/
  | desc (unit off : Nat)
  /-- A register of a block by its block offset (R54). -/
  | block (unit off : Nat)
  /-- A control-space offset that no block and no descriptor owns (R29, R31). -/
  | hole (off : Nat)
  /-- An offset of the MSI-X table or PBA of function `iid` (R379, R380, R398). -/
  | msix (iid off : Nat)
  /-- The SR-IOV control of PF0's configuration space: VF Enable in bit 0, NumVFs in bits 31:16 (R379, R391). -/
  | sriov
  /-- MSI-X Message Control of function `iid`: Enable in bit 15, Function Mask in bit 14 (R379, R382). -/
  | msixCtl (iid : Nat)
  /-- An offset of BAR0 of function `iid` (R379-R381, R398). -/
  | bar (iid off : Nat)
  /-- An offset of the configuration space of function `iid` (R379). -/
  | config (iid off : Nat)
deriving DecidableEq, Repr

/-- A ring (R70), by the kinds of the state blob (R410): receive, transmit, Shears rings of engine e, drover rings of
cluster d, and the admin ring of an instance (R275, R393). -/
inductive RingId where
  | rx (q : Nat)
  | tx (q : Nat)
  | sh (e r : Nat)
  | dv (d r : Nat)
  | adm (iid : Nat)
deriving DecidableEq, Repr

/-- A doorbell address: an offset of a block's doorbell region (R304, R333, R353) or of an instance's doorbell page
(R397, R398). -/
inductive DbAddr where
  | region (unit off : Nat)
  | page (iid off : Nat)
deriving DecidableEq, Repr

/-- The registers of an interleave set (R229). -/
inductive MsetReg where
  | base | limit | cfg | chanLo | chanHi
deriving DecidableEq, Repr

/-- An agent on the mesh (R207): a core with its L2, the home of a tile, a memory controller, an edge unit by its
UNIT_ID, the control-space bridge. -/
inductive Agent where
  | core (c : Nat)
  | home (slice : Nat)
  | mc (n : Nat)
  | unit (u : Nat)
  | bridge
deriving DecidableEq, Repr

/-- The messages of R156. -/
inductive MsgKind where
  | rdShared | rdOwn | rdOnce | upgrade | putDirty | putClean | redOp | ncRd | ncWr
  | fwdShared | fwdOwn | inval | close
  | ack | snpNoData | wbAck | wbAckStale | cmp
  | data | fwdData | wbData
deriving DecidableEq, Repr

/-- The grant of a Data or FwdData message (R156). -/
inductive Grant where
  | none | s | e | m
deriving DecidableEq, Repr

/-- MAINT of a RdOnce (R156, R173). -/
inductive Maint where
  | none | clean | flush | inval
deriving DecidableEq, Repr

/-- KEPT of a SnpNoData (R156): the responder's state afterwards. -/
inductive Kept where
  | o | s | i
deriving DecidableEq, Repr

/-- The modes of an open line (R182). -/
inductive RedMode where
  | f64Add | f32Add | i64Add | f64Min | f32Min | i64Min | f64Max | f32Max | i64Max
deriving DecidableEq, Repr

/-- What a RedOp asks of the home: a contribution (R185), one whose 16-bit elements are widened (R185), or a close
(R192). -/
inductive RedKind where
  | contrib | half | bf16 | close
deriving DecidableEq, Repr

/-- One coherence message with its attributes (R156). An attribute that a message does not list keeps its default. -/
structure Msg where
  kind    : MsgKind
  src     : Agent
  dst     : Agent
  /-- Line number pa >> 6 (R150). -/
  line    : Nat
  /-- The requester R named by a snoop or DELIVER (R156, R162). -/
  req     : Agent := .bridge
  ifetch  : Bool := false
  once    : Bool := false
  clean   : Bool := false
  rcl     : Bool := false
  keep    : Bool := false
  discard : Bool := false
  waitCmp : Bool := false
  maint   : Maint := .none
  grant   : Grant := .none
  kept    : Kept := .i
  /-- STATUS of a Cmp: true for an access error. -/
  err     : Bool := false
  stash   : Option Nat := none
  clos    : Nat := 0
  data    : Line := 0
  mask    : BitVec 64 := 0
  poison  : Bool := false
  mode    : RedMode := .f64Add
  red     : RedKind := .contrib
  /-- First byte and size of an access to an I/O region (R205). -/
  off     : Nat := 0
  size    : Nat := 0
  /-- RdOwn of a cbo.zero: ownership with no read of memory (R117; log 80). -/
  zero    : Bool := false
  /-- A WbData that pairs with a Put, not with a recall, a clean or an NcWr (R156). -/
  forPut  : Bool := false
  /-- BIRTH of R208, from which AGE is computed (R209). -/
  birth   : Nat := 0
deriving DecidableEq, Repr

/-- A scalar load: destination, whether an f register, address operands, size in bytes, sign extension (R105, R109).
`wrong` marks execution on a mispredicted path (R101). -/
structure LoadOp where
  rd     : Nat
  rs1    : Nat
  imm    : Int := 0
  size   : Nat := 8
  signed : Bool := true
  fp     : Bool := false
  wrong  : Bool := false
  /-- Length of the instruction in bytes, 2 or 4 (R92, D1). -/
  len    : Nat := 4
  /-- The load's own pc, when it executes ahead of an older store (R107) or of an older load (R113). -/
  early  : Option DWord := none
deriving DecidableEq, Repr

/-- A scalar store (R104). -/
structure StoreOp where
  rs1   : Nat
  rs2   : Nat
  imm   : Int := 0
  size  : Nat := 8
  fp    : Bool := false
  wrong : Bool := false
  len   : Nat := 4
deriving DecidableEq, Repr

/-- A unit-stride or strided vector access of `vl` elements of `eew` bytes (R104, R108, R141). -/
structure VMemOp where
  v      : Nat
  rs1    : Nat
  eew    : Nat
  stride : Option Nat := none
  index  : Option Nat := none
  masked : Bool := false
  /-- Execution on a mispredicted path (R101). -/
  wrong  : Bool := false
deriving DecidableEq, Repr

/-- An address of an I/O region (R42): control space, a doorbell, a word of an IMSIC page of a hart (R43), or an MMIO
window (R361). -/
inductive IoAddr where
  | ctl (a : CtlAddr)
  | doorbell (a : DbAddr)
  | imsic (h page off : Nat)
  | mmio (pa : Nat)
deriving DecidableEq, Repr

/-- An access to an I/O region (R102). -/
structure IoOp where
  write  : Bool
  reg    : Nat
  addr   : IoAddr
  size   : Nat
  signed : Bool := false
  len    : Nat := 4
  /-- `reg` is an f register. -/
  fp     : Bool := false
  /-- The virtual address that the access was translated from, for xtval. -/
  va     : Nat := 0
deriving DecidableEq, Repr

/-- AMO operations of the A extension (R115). -/
inductive AmoFn where
  | swap | add | and | or | xor | max | min | maxu | minu
deriving DecidableEq, Repr

/-- Integer ALU operations (R144): base, W forms, Zba, Zbb, Zbs, Zicond; and multiplies. -/
inductive AluFn where
  | add | sub | and | or | xor | sll | srl | sra | slt | sltu
  | addw | subw | sllw | srlw | sraw
  | sh1add | sh2add | sh3add | adduw | sh1adduw | sh2adduw | sh3adduw | slliuw | andn | orn | xnor
  | max | maxu | min | minu | rol | ror | rolw | rorw
  | bclr | bext | binv | bset | czeroEqz | czeroNez
  | mul | mulh | mulhsu | mulhu | mulw
deriving DecidableEq, Repr

/-- Single-source integer operations (Zbb; R144). -/
inductive UnFn where
  | clz | ctz | cpop | clzw | ctzw | cpopw | sextB | sextH | zextH | orcB | rev8
deriving DecidableEq, Repr

/-- Conditional branches. -/
inductive BrFn where
  | eq | ne | lt | ge | ltu | geu
deriving DecidableEq, Repr

/-- CSR access forms (Zicsr). -/
inductive CsrFn where
  | rw | rs | rc
deriving DecidableEq, Repr

/-- A hart instruction that has no row of its own (row INSTRUCTION, R92). -/
inductive HartOp where
  | alu (f : AluFn) (rd rs1 rs2 : Nat)
  | alui (f : AluFn) (rd rs1 : Nat) (imm : Int)
  | un (f : UnFn) (rd rs1 : Nat)
  | lui (rd : Nat) (imm : Int)
  | auipc (rd : Nat) (imm : Int)
  | jal (rd : Nat) (off : Int)
  | jalr (rd rs1 : Nat) (off : Int)
  | branch (f : BrFn) (rs1 rs2 : Nat) (off : Int)
  | csr (f : CsrFn) (rd csr : Nat) (rs1 : Nat)
  | csri (f : CsrFn) (rd csr : Nat) (imm : Nat)
  | ecall
  | ebreak
  /-- Zicbop prefetch of the line at x[rs1] (R99). -/
  | prefetch (rs1 : Nat)
  /-- An instruction of an extension that the hart does not implement (R83). -/
  | unimplemented
  /-- DRET of the debug specification: the exit from debug mode (R98). -/
  | dret
  /-- HLV and HLVX of H (R80): a load from the guest's address space. -/
  | hlv (rd rs1 size : Nat) (signed exec : Bool)
  /-- HSV of H (R80). -/
  | hsv (rs1 rs2 size : Nat)
  /-- A branch or jump on a mispredicted path (R101): what the predictor follows it as, and, for a call, its link. -/
  | wrongBranch (taken ret : Bool) (link : Option DWord)
  /-- A hint of RVA23 (PAUSE and the NTL hints): no effect. -/
  | hint
  /-- A may-be-operation (Zimop, Zcmop): 0 to rd. -/
  | mop (rd : Nat)
  /-- WRS.NTO or WRS.STO (Zawrs). -/
  | wrs (nto : Bool)
  /-- Any other instruction of RVA23, by its encoding: its result is the standard's, which the manual does not
  restate. -/
  | other (word : BitVec 32) (rd rs1 rs2 : Nat)
deriving DecidableEq, Repr

/-- SFENCE.VMA and its relatives (R114). -/
inductive SfenceFn where
  | sfenceVma | hinvalVvma | hinvalGvma | hfenceVvma | hfenceGvma
  /-- Svinval (R80). -/
  | sinvalVma | sfenceWInval | sfenceInvalIr
deriving DecidableEq, Repr

/-- The serialising instructions of the row SERIALISING_INSTRUCTION (R96). -/
inductive SerialOp where
  | csrWrite (csr : Nat) (rs1 : Nat)
  | mret
  | sret
deriving DecidableEq, Repr

/-- Scalar divides and remainders (R126). -/
inductive DivFn where
  | div | divu | rem | remu | divw | divuw | remw | remuw
deriving DecidableEq, Repr

/-- Floating-point formats (R129). -/
inductive Fmt where
  | h | bf | s | d
deriving DecidableEq, Repr

/-- Integer formats of conversions (R138). -/
inductive IFmt where
  | w | wu | l | lu
deriving DecidableEq, Repr

/-- Floating-point operations (R131-R139, R144). -/
inductive FpFn where
  | add | sub | mul | div | sqrt
  | madd | msub | nmsub | nmadd
  | min | max | minm | maxm
  | sgnj | sgnjn | sgnjx
  | eq | lt | le | ltq | leq
  | fclass
  | round | roundnx
  | cvtToInt (i : IFmt) | cvtFromInt (i : IFmt) | cvtFmt (src : Fmt) | cvtmod
  | mvToX | mvFromX | fli (bits : DWord)
deriving DecidableEq, Repr

/-- A scalar FP instruction (row FP_INSTRUCTION): rm is the 3-bit field of R130. -/
structure FpOp where
  fn  : FpFn
  fmt : Fmt
  rd  : Nat
  rs1 : Nat
  rs2 : Nat := 0
  rs3 : Nat := 0
  rm  : BitVec 3 := 7#3
deriving DecidableEq, Repr

/-- The source of AVL of vsetvl, vsetvli and vsetivli (R140). -/
inductive AvlSrc where
  | reg (rs1 : Nat)
  | imm (n : Nat)
deriving DecidableEq, Repr

/-- Second operand of a vector instruction. -/
inductive VSrc where
  | v (vs1 : Nat)
  | x (rs1 : Nat)
  | f (rs1 : Nat)
  | i (imm : Int)
deriving DecidableEq, Repr

/-- Widening integer operations (R145); the mixed forms take vs2 signed in `mulsu`, the second operand signed in `maccsu` and
vs2 signed in `maccus`. -/
inductive VWideFn where
  | addu | add | subu | sub | mulu | mul | mulsu | maccu | macc | maccsu | maccus | sll
deriving DecidableEq, Repr

/-- Logical operations on masks. -/
inductive VMaskFn where
  | and | nand | andn | or | nor | orn | xor | xnor
deriving DecidableEq, Repr

/-- Vector conversions (R138): to an integer, from an integer, between FP formats; `rtz` truncates and `rod` rounds to odd. -/
inductive VCvtFn where
  | toInt (signed rtz : Bool)
  | fromInt (signed : Bool)
  | fmt (rod : Bool)
deriving DecidableEq, Repr

/-- Widths of a conversion: SEW to SEW, SEW to 2 x SEW, 2 x SEW to SEW. -/
inductive VCvtW where
  | same | wide | narrow
deriving DecidableEq, Repr

/-- AES operations of Zvkned (R145). -/
inductive AesFn where
  | em | ef | dm | df | z | kf1 | kf2
deriving DecidableEq, Repr

/-- Vector arithmetic (R142, R145). -/
inductive VFn where
  /-- vmadd and vnmsub: the destination is a multiplicand. -/
  | madd | nmsub
  | adc | sbc | madc | msbc
  /-- A widening operation; `w2` when vs2 is already wide (the .wv and .wx forms). -/
  | wide (f : VWideFn) (w2 : Bool)
  | nsrl | nsra
  /-- vsext and vzext from SEW / k. -/
  | ext (signed : Bool) (k : Nat)
  /-- Fixed point (R142). -/
  | aaddu | aadd | asubu | asub | smul | ssrl | ssra | nclipu | nclip
  | maskOp (f : VMaskFn)
  | cpop | first | sbf | sif | sof | iota | id
  /-- vmv.x.s, vmv.s.x and vmv<n>r.v. -/
  | mvXS | mvSX | mvr (n : Nat)
  | gatherei16
  /-- Zvbb with Zvkb (R145). -/
  | andn | brev | brev8 | rev8 | clz | ctz | cpopv | rol | ror
  /-- vfrsub.vf and vfrdiv.vf. -/
  | frsub | frdiv
  /-- vfmadd, vfmsub, vfnmsub and vfnmadd: the destination is a multiplicand. -/
  | fmulAdd (fn : FpFn)
  | fne | fgt | fge
  /-- Widening FP arithmetic; the multiply-adds are the vfwmacc family. -/
  | fwide (fn : FpFn) (w2 : Bool)
  | fcvt (f : VCvtFn) (w : VCvtW)
  | frec7 | frsqrt7
  /-- Zvkned, Zvknhb and Zvkg (R81, R145); `vs` when vs2 is one element group for all. -/
  | aes (f : AesFn) (vs : Bool)
  | sha2ms | sha2ch | sha2cl
  | ghsh | gmul
  | add | sub | rsub | and | or | xor | sll | srl | sra | min | minu | max | maxu
  | mul | mulh | mulhu | mulhsu | div | divu | rem | remu | macc | nmsac
  | seq | sne | sltu | slt | sleu | sle | sgtu | sgt
  | merge | mv | saddu | sadd | ssubu | ssub
  | slideup | slidedown | slide1up | slide1down | rgather | compress
  | fp (fn : FpFn)
  | fwmaccbf16
  /-- vfncvtbf16 (R138). -/
  | fncvtbf16
  /-- Any other vector instruction, by its encoding: the standard's result, which the manual does not restate. -/
  | other (word : BitVec 32)
deriving DecidableEq, Repr

/-- A vector arithmetic instruction: destination, vs2, second operand, masked by v0. -/
structure VOp where
  fn     : VFn
  vd     : Nat
  vs2    : Nat
  src    : VSrc
  masked : Bool := false
deriving DecidableEq, Repr

/-- Vector reductions (R143). -/
inductive VRedFn where
  | sum | and | or | xor | minu | min | maxu | max
  | fosum | fusum | fwosum | fwusum | fmin | fmax
  /-- vwredsumu and vwredsum. -/
  | wsumu | wsum
deriving DecidableEq, Repr

/-- A vector reduction: vd[0] from vs1[0] and the active elements of vs2. -/
structure VRedOp where
  fn     : VRedFn
  vd     : Nat
  vs2    : Nat
  vs1    : Nat
  masked : Bool := false
deriving DecidableEq, Repr

/-- Element type field of a Molenaide reduction (R85): funct3 0b000 to 0b100. -/
inductive RedTy where
  | d | s | h | bf | l
deriving DecidableEq, Repr

/-- Operand fields of a Molenaide core instruction (R84). -/
structure MolOp where
  rd  : Nat
  vs2 : Nat
  rs1 : Nat
  /-- Execution on a mispredicted path (R101). -/
  wrong : Bool := false
deriving DecidableEq, Repr

/-- Where a redirect is taken (R100). -/
inductive RedirAt where
  | d2 | ex
deriving DecidableEq, Repr

/-- Maintenance position: every set and way, or one (R175-R177). -/
structure MaintPos where
  all : Bool
  set : Nat
  way : Nat
deriving DecidableEq, Repr

/-- A mesh link by the unit at its receiving end (R419) and a number within it. -/
structure LinkId where
  unit : Nat
  num  : Nat
deriving DecidableEq, Repr

/-- CAUSE of a rank retirement (R257). -/
inductive RetCause where
  | none | uncorrectable | ceThreshold | caParity | software
deriving DecidableEq, Repr

/-- Kinds of DIMM (R223): those that a channel accepts, and any other (x8 devices, 3DS stacks, unbuffered). -/
inductive DimmKind where
  | rdimm | mrdimm | other
deriving DecidableEq, Repr

/-- A DIMM as its SPD describes it (R223, R224): the speed grades that it supports by their encoding in SPEED (bit k), its
device density in Gb and its ranks. -/
structure Dimm where
  kind    : DimmKind
  grades  : BitVec 8
  density : Nat
  ranks   : Nat
deriving DecidableEq, Repr

/-- The modules of a channel as training finds them (R223, R224): the DIMMs by slot, and the physical ranks that train. -/
structure ChanPop where
  dimms   : List Dimm := []
  trained : BitVec 8 := 0
deriving DecidableEq, Repr

/-- A memory request TLP that arrives at a sub-link (R366, R370, R371). -/
structure Tlp where
  port  : Nat
  sub   : Nat
  rid   : Nat
  pasid : Option Nat := none
  addr  : Nat
  /-- Bytes written, or empty for a read of `len` bytes. -/
  bytes : List Byte := []
  len   : Nat := 0
  ep    : Bool := false
  ro    : Bool := false
  ido   : Bool := false
deriving DecidableEq, Repr

/-- What the sampled instruction supplies to its record (R459, R460). -/
structure SampleInfo where
  ctr     : Nat
  iaddr   : DWord
  daddr   : DWord := 0
  paddr   : DWord := 0
  latency : BitVec 16 := 0
  source  : BitVec 8 := 0
  flags   : BitVec 8 := 0
  asid    : BitVec 16 := 0
  vmid    : BitVec 16 := 0
deriving DecidableEq, Repr

/-- Functions of a drover multiply or divide (R339, R347). -/
inductive DvMul where
  | mul | mulh | mulhsu | mulhu
deriving DecidableEq, Repr

inductive DvDiv where
  | div | divu | rem | remu
deriving DecidableEq, Repr

/-- A load or store of a drover core (R337). -/
structure DvMem where
  reg    : Nat
  rs1    : Nat
  imm    : Int := 0
  size   : Nat := 4
  signed : Bool := true
deriving DecidableEq, Repr

/-- Register fields of a drover packet instruction (R347). -/
structure DvReg where
  rd  : Nat
  rs1 : Nat
  rs2 : Nat := 0
deriving DecidableEq, Repr

/-- Kinds of core-rail rise (R476). -/
inductive RampKind where
  | restWake | powerUp | oppRaise | wfiExit
deriving DecidableEq, Repr

/-- The registers of an error record that software may prepare (R518). -/
inductive RecReg where
  | status | addr | info | suppl | time
deriving DecidableEq, Repr

/-- The six AVSBus rails' readings of one poll: millivolts and milliamperes (R472). -/
structure AvsReading where
  mv : List Nat
  ma : List Nat
deriving DecidableEq, Repr

end Sys2Proof
end

