-- ==== Sys2Proof/Syntax.lean ====
section
/-! DEFINITION. The commands of the block: one constructor per row of spec/opcode_table.json, with the row's operands. -/

namespace Sys2Proof

/-- The commands (rows of the opcode table). -/
inductive Instr where
  /-- REGISTER_WRITE (R52). -/
  | registerWrite (src : Src) (a : CtlAddr) (width : Nat) (data : DWord)
  /-- READ_CLEAR (R52). -/
  | readClear (src : Src) (a : CtlAddr) (width : Nat)
  /-- BIT_ALIAS_WRITE (R58). -/
  | bitAliasWrite (src : Src) (u off : Nat) (v : Word)
  /-- COMPLEMENT_PAIR_STORE (R59). -/
  | complementPairStore (src : Src) (a : CtlAddr) (v : Word)
  /-- COMPLEMENT_PAIR_ARM (R60). -/
  | complementPairArm (src : Src) (a : CtlAddr) (v : Word)
  /-- COMPLEMENT_PAIR_COMMIT (R515). -/
  | complementPairCommit (src : Src) (a : CtlAddr) (v : Word)
  /-- INTERLEAVE_SET_COMMIT (R231). -/
  | interleaveSetCommit (src : Src) (n : Nat) (r : MsetReg) (v : Word)
  /-- MSET_LOCK (R233). -/
  | msetLock (src : Src)
  /-- BOOT_ENTRY_COMMIT (R498). -/
  | bootEntryCommit (src : Src) (v : Word)
  /-- REGISTER_PARITY_FAULT (R63). -/
  | registerParityFault (u bank off : Nat)
  /-- BLK_LOCK (R56). -/
  | blkLock (src : Src) (u : Nat)
  /-- LAST_ERR_CLEAR (R55). -/
  | lastErrClear (src : Src) (u : Nat)
  /-- MBOX_SEL (R66). -/
  | mboxSel (src : Src) (u sel : Nat)
  /-- SNAPSHOT_COMPLETE (R67). -/
  | snapshotComplete (u : Nat)
  /-- SUMMARY_PROPAGATE (R41). -/
  | summaryPropagate (u : Nat)
  /-- DOORBELL (R75). -/
  | doorbell (src : Src) (a : DbAddr) (width : Nat) (data : DWord)
  /-- COMPLETION_HEAD_DOORBELL (R77). -/
  | completionHeadDoorbell (src : Src) (a : DbAddr) (width : Nat) (data : DWord)
  /-- DOORBELL_REGION_BAD_OFFSET (R304). -/
  | doorbellRegionBadOffset (src : Src) (a : DbAddr) (width : Nat) (data : DWord)
  /-- DESCRIPTOR_FETCH (R73). -/
  | descriptorFetch (r : RingId)
  /-- COMPLETION_RECORD_WRITE (R78). -/
  | completionRecordWrite (r : RingId)
  /-- MSIX_EVENT (R382). -/
  | msixEvent (iid v : Nat)
  /-- MSIX_UNMASK (R382). -/
  | msixUnmask (iid v : Nat)
  /-- INSTRUCTION (R92). -/
  | instruction (h : Nat) (op : HartOp) (len : Nat)
  /-- LOAD (R105). -/
  | load (h : Nat) (op : LoadOp)
  /-- STORE (R104). -/
  | store (h : Nat) (op : StoreOp)
  /-- VECTOR_LOAD (R108). -/
  | vectorLoad (h : Nat) (op : VMemOp)
  /-- VECTOR_STORE (R104). -/
  | vectorStore (h : Nat) (op : VMemOp)
  /-- IO_ACCESS (R102). -/
  | ioAccess (h : Nat) (op : IoOp)
  /-- STORE_COMMIT (R104). -/
  | storeCommit (h : Nat)
  /-- HELD_LOAD_REPLAY (R106). -/
  | heldLoadReplay (h : Nat)
  /-- SAME_ADDRESS_LOAD_REDO (R113). -/
  | sameAddressLoadRedo (h line : Nat)
  /-- BRANCH_REDIRECT (R100). -/
  | branchRedirect (h : Nat) (at_ : RedirAt) (target : DWord)
  /-- HARDWARE_PREFETCH (R101). -/
  | hardwarePrefetch (h line : Nat)
  /-- AMO (R115). -/
  | amo (h : Nat) (fn : AmoFn) (rd rs1 rs2 size : Nat)
  /-- LR (R116). -/
  | lr (h : Nat) (rd rs1 size : Nat)
  /-- SC (R116). -/
  | sc (h : Nat) (rd rs1 rs2 size : Nat)
  /-- RESERVATION_SNOOP_RELEASE (R116). -/
  | reservationSnoopRelease (h : Nat)
  /-- FENCE (R114). -/
  | fence (h : Nat) (pred succ : BitVec 4) (tso : Bool)
  /-- FENCE_I (R114). -/
  | fenceI (h : Nat)
  /-- SFENCE_VMA (R114). -/
  | sfenceVma (h : Nat) (fn : SfenceFn) (rs1 rs2 : Nat)
  /-- SERIALISING_INSTRUCTION (R96). -/
  | serialisingInstruction (h : Nat) (op : SerialOp)
  /-- TRAP_ENTRY (R111). -/
  | trapEntry (h : Nat) (interrupt : Bool) (cause : Nat) (tval : DWord)
  /-- CBO_CLEAN (R173). -/
  | cboClean (h rs1 : Nat)
  /-- CBO_FLUSH (R173). -/
  | cboFlush (h rs1 : Nat)
  /-- CBO_INVAL (R173). -/
  | cboInval (h rs1 : Nat)
  /-- CBO_ZERO (R117). -/
  | cboZero (h rs1 : Nat)
  /-- PAGE_WALK (R103). -/
  | pageWalk (h : Nat)
  /-- INTEGER_DIVIDE (R127). -/
  | integerDivide (h : Nat) (fn : DivFn) (rd rs1 rs2 : Nat)
  /-- FP_INSTRUCTION (R131). -/
  | fpInstruction (h : Nat) (op : FpOp)
  /-- FRM_WRITE (R131). -/
  | frmWrite (h : Nat) (v : BitVec 3)
  /-- FFLAGS_WRITE (R131). -/
  | fflagsWrite (h : Nat) (v : BitVec 5)
  /-- VSETVL (R140). -/
  | vsetvl (h rd : Nat) (avl : AvlSrc) (vtype : DWord)
  /-- VECTOR_INSTRUCTION (R142). -/
  | vectorInstruction (h : Nat) (op : VOp)
  /-- VECTOR_REDUCTION (R143). -/
  | vectorReduction (h : Nat) (op : VRedOp)
  /-- MOL_RADD (R87). -/
  | molRadd (h : Nat) (ty : RedTy) (op : MolOp)
  /-- MOL_RMIN (R87). -/
  | molRmin (h : Nat) (ty : RedTy) (op : MolOp)
  /-- MOL_RMAX (R87). -/
  | molRmax (h : Nat) (ty : RedTy) (op : MolOp)
  /-- MOL_RCLOSE (R192). -/
  | molRclose (h : Nat) (op : MolOp)
  /-- MOL_BPCTL_WRITE (R90). -/
  | molBpctlWrite (h : Nat) (v : DWord)
  /-- BPCTL_FLUSH (R90). -/
  | bpctlFlush (h : Nat)
  /-- MOL_RESTCTL_WRITE (R91). -/
  | molRestctlWrite (h : Nat) (v : DWord)
  /-- WFI (R118). -/
  | wfi (h : Nat)
  /-- REST_ENTRY (R119). -/
  | restEntry (h : Nat)
  /-- WAKE_EVENT (R120). -/
  | wakeEvent (h : Nat) (dbg : Bool)
  /-- REST_WAKE_RESUME (R487). -/
  | restWakeResume (h : Nat)
  /-- DEBUG_HALT (R118). -/
  | debugHalt (h : Nat)
  /-- RD_SHARED (R162). -/
  | rdShared (m : Msg)
  /-- RD_OWN (R162). -/
  | rdOwn (m : Msg)
  /-- RD_ONCE (R162). -/
  | rdOnce (m : Msg) (errs : List Nat)
  /-- UPGRADE (R162). -/
  | upgrade (m : Msg)
  /-- PUT_DIRTY (R165). -/
  | putDirty (m : Msg)
  /-- PUT_CLEAN (R165). -/
  | putClean (m : Msg)
  /-- RED_OP (R185). -/
  | redOp (m : Msg)
  /-- NC_RD (R170). -/
  | ncRd (m : Msg)
  /-- NC_WR (R169). -/
  | ncWr (m : Msg)
  /-- FWD_SHARED (R162). -/
  | fwdShared (m : Msg)
  /-- FWD_OWN (R162). -/
  | fwdOwn (m : Msg)
  /-- INVAL (R164). -/
  | inval (m : Msg)
  /-- CLOSE (R194). -/
  | close (m : Msg)
  /-- ACK (R161). -/
  | ack (m : Msg)
  /-- SNP_NO_DATA (R162). -/
  | snpNoData (m : Msg)
  /-- WB_ACK (R165). -/
  | wbAck (m : Msg)
  /-- WB_ACK_STALE (R166). -/
  | wbAckStale (m : Msg)
  /-- CMP (R162). -/
  | cmp (m : Msg)
  /-- DATA (R163). -/
  | data (m : Msg)
  /-- FWD_DATA (R163). -/
  | fwdData (m : Msg)
  /-- WB_DATA (R169). -/
  | wbData (m : Msg)
  /-- WAIT_QUEUE_START (R161). -/
  | waitQueueStart (slice line : Nat)
  /-- WAIT_QUEUE_ADMIT (R161). -/
  | waitQueueAdmit (slice line : Nat)
  /-- L2_EVICTION (R165). -/
  | l2Eviction (core line : Nat)
  /-- L2_MAINT_CLEAN (R174). -/
  | l2MaintClean (src : Src) (core : Nat) (pos : MaintPos)
  /-- L2_MAINT_INVAL (R174). -/
  | l2MaintInval (src : Src) (core : Nat) (pos : MaintPos)
  /-- L2_MAINT_CLEAN_INVAL (R174). -/
  | l2MaintCleanInval (src : Src) (core : Nat) (pos : MaintPos)
  /-- L3_MAINT_CLEAN (R174). -/
  | l3MaintClean (src : Src) (slice : Nat) (pos : MaintPos)
  /-- L3_MAINT_INVAL (R174). -/
  | l3MaintInval (src : Src) (slice : Nat) (pos : MaintPos)
  /-- L3_MAINT_CLEAN_INVAL (R174). -/
  | l3MaintCleanInval (src : Src) (slice : Nat) (pos : MaintPos)
  /-- MAINT_DONE (R175). -/
  | maintDone (u : Nat)
  /-- PEN_WAIT_RESUME (R194). -/
  | penWaitResume (slice line : Nat)
  /-- RED_DRAIN (R201). -/
  | redDrain (src : Src) (slice : Nat)
  /-- LINK_RETRY (R221). -/
  | linkRetry (l : LinkId)
  /-- WIRE_SPARING (R434). -/
  | wireSparing (l : LinkId) (failing : List Nat)
  /-- BANK_ACTIVATE (R237). -/
  | bankActivate (chan sub rank bank : Nat)
  /-- WRITE_DRAIN (R238). -/
  | writeDrain (chan sub : Nat)
  /-- REFRESH_SB (R240). -/
  | refreshSb (chan rank idx : Nat)
  /-- MR4_POLL (R240). -/
  | mr4Poll (chan : Nat) (hot : Bool)
  /-- RETRAINING_PAUSE (R245). -/
  | retrainingPause (chan rank dur : Nat)
  /-- CA_PARITY_ALERT (R246). -/
  | caParityAlert (chan rank : Nat)
  /-- PATROL_READ (R248). -/
  | patrolRead (chan : Nat) (errs : List Nat)
  /-- RANK_RETIREMENT (R252). -/
  | rankRetirement (chan rank : Nat) (cause : RetCause)
  /-- COPY_OPERATION (R252). -/
  | copyOperation (chan : Nat) (errs : List Nat)
  /-- COPY_DONE (R252). -/
  | copyDone (chan : Nat)
  /-- FORCE (R258). -/
  | force (src : Src) (chan rank : Nat)
  /-- MC_SPARE_CFG_WRITE (R258). -/
  | mcSpareCfgWrite (src : Src) (chan : Nat) (v : Word)
  /-- FRAME_RECEIVE (R263). -/
  | frameReceive (port mac : Nat) (bytes : List Byte) (fcsOk : Bool)
  /-- HELD_FRAME_RESUME (R292). -/
  | heldFrameResume (port q : Nat)
  /-- XON (R293). -/
  | xon (port prio : Nat)
  /-- PAUSE_FRAME_RECEIVE (R290). -/
  | pauseFrameReceive (port mac : Nat) (prios : BitVec 8) (quanta : List Nat)
  /-- LINK_UP (R260). -/
  | linkUp (port mac : Nat)
  /-- LINK_DOWN (R291). -/
  | linkDown (port mac : Nat)
  /-- FLOW_SET (R277). -/
  | flowSet (r : RingId)
  /-- FLOW_DELETE (R277). -/
  | flowDelete (r : RingId)
  /-- RSS_SET (R275). -/
  | rssSet (r : RingId)
  /-- RX_BUF (R279). -/
  | rxBuf (r : RingId)
  /-- TX_FRAME (R285). -/
  | txFrame (r : RingId)
  /-- TX_GATHER (R285). -/
  | txGather (r : RingId)
  /-- TX_INLINE (R286). -/
  | txInline (r : RingId)
  /-- Q_HART_WRITE (R284). -/
  | qHartWrite (src : Src) (q : Nat) (v : Word)
  /-- QUEUE_ENABLE (R407). -/
  | queueEnable (src : Src) (r : RingId)
  /-- QUEUE_DISABLE (R407). -/
  | queueDisable (src : Src) (r : RingId)
  /-- QUIESCED (R407). -/
  | quiesced (r : RingId)
  /-- COPY (R311). -/
  | copy (r : RingId)
  /-- FILL (R311). -/
  | fill (r : RingId)
  /-- CRC (R311). -/
  | crc (r : RingId)
  /-- COMPARE (R311). -/
  | compare (r : RingId)
  /-- COMPRESS (R315). -/
  | compress (r : RingId)
  /-- COMPRESS_RESUME (R321). -/
  | compressResume (r : RingId)
  /-- DECOMPRESS (R316). -/
  | decompress (r : RingId)
  /-- DECOMPRESS_RESUME (R321). -/
  | decompressResume (r : RingId)
  /-- LANE_DISPATCH (R307). -/
  | laneDispatch (e : Nat)
  /-- CONTAINER_BLOCK_WRITE (R318). -/
  | containerBlockWrite (r : RingId)
  /-- LANE_FAULT (R436). -/
  | laneFault (e lane : Nat) (again : Bool)
  /-- DROVER_INSTRUCTION (R339). -/
  | droverInstruction (d k : Nat)
  /-- DROVER_APERTURE_LOAD (R343). -/
  | droverApertureLoad (d k : Nat) (op : DvMem)
  /-- DROVER_APERTURE_STORE (R345). -/
  | droverApertureStore (d k : Nat) (op : DvMem)
  /-- DROVER_FILL (R343). -/
  | droverFill (d k : Nat)
  /-- STORE_QUEUE_DRAIN (R345). -/
  | storeQueueDrain (d k : Nat)
  /-- WRITE_QUEUE_SEND (R345). -/
  | writeQueueSend (d n : Nat)
  /-- MOL_MULCT (R347). -/
  | molMulct (d k : Nat) (fn : DvMul) (r : DvReg)
  /-- MOL_DIVCT (R347). -/
  | molDivct (d k : Nat) (fn : DvDiv) (r : DvReg)
  /-- MOL_BSWAP (R347). -/
  | molBswap (d k : Nat) (r : DvReg)
  /-- MOL_CSUM (R347). -/
  | molCsum (d k : Nat) (r : DvReg)
  /-- MOL_CSFOLD (R347). -/
  | molCsfold (d k : Nat) (r : DvReg)
  /-- MOL_CRC32C_B (R347). -/
  | molCrc32cB (d k : Nat) (r : DvReg)
  /-- MOL_CRC32C_W (R347). -/
  | molCrc32cW (d k : Nat) (r : DvReg)
  /-- MOL_EXTR (R347). -/
  | molExtr (d k : Nat) (r : DvReg)
  /-- MOL_DGET (R348). -/
  | molDget (d k : Nat) (r : DvReg)
  /-- MOL_DWAIT (R348). -/
  | molDwait (d k : Nat) (r : DvReg)
  /-- MOL_CMPL (R348). -/
  | molCmpl (d k : Nat) (r : DvReg)
  /-- MOL_DPF (R344). -/
  | molDpf (d k : Nat) (r : DvReg)
  /-- MOL_DC_CLEAN (R347). -/
  | molDcClean (d k : Nat) (r : DvReg)
  /-- MOL_DC_INVAL (R347). -/
  | molDcInval (d k : Nat) (r : DvReg)
  /-- MOL_DC_FLUSH (R347). -/
  | molDcFlush (d k : Nat) (r : DvReg)
  /-- DROVER_HALT (R349). -/
  | droverHalt (d k cause : Nat)
  /-- DROVER_RUN (R349). -/
  | droverRun (src : Src) (d k : Nat)
  /-- DROVER_STOP (R349). -/
  | droverStop (src : Src) (d k : Nat)
  /-- DROVER_CLUSTER_ENABLE (R342). -/
  | droverClusterEnable (src : Src) (d : Nat)
  /-- DV_MAINT_CLEAN (R352). -/
  | dvMaintClean (src : Src) (d : Nat) (pos : MaintPos)
  /-- DV_MAINT_INVAL (R352). -/
  | dvMaintInval (src : Src) (d : Nat) (pos : MaintPos)
  /-- DV_MAINT_CLEAN_INVAL (R352). -/
  | dvMaintCleanInval (src : Src) (d : Nat) (pos : MaintPos)
  /-- UNIT_POWER_REQUEST (R37). -/
  | unitPowerRequest (src : Src) (u req : Nat)
  /-- UNIT_POWER_DONE (R37). -/
  | unitPowerDone (u : Nat)
  /-- BW_MIGRATE (R359). -/
  | bwMigrate (src : Src) (hart : Nat)
  /-- AVS_POLL (R472). -/
  | avsPoll (r : AvsReading)
  /-- AVS_STATUS_ALERT (R472). -/
  | avsStatusAlert (p : Nat)
  /-- INBOUND_MEMORY_WRITE (R370). -/
  | inboundMemoryWrite (t : Tlp)
  /-- INBOUND_MEMORY_READ (R370). -/
  | inboundMemoryRead (t : Tlp)
  /-- MSI_WRITE (R383). -/
  | msiWrite (t : Tlp)
  /-- INBOUND_COMPLETION (R373). -/
  | inboundCompletion (port sub tag : Nat) (bytes : List Byte) (ep ok : Bool)
  /-- OUTBOUND_REQUEST (R366). -/
  | outboundRequest (port : Nat) (m : Msg)
  /-- COMPLETION_TIMEOUT (R372). -/
  | completionTimeout (port sub tag : Nat)
  /-- TAG_QUARANTINE_END (R373). -/
  | tagQuarantineEnd (port sub tag : Nat)
  /-- WINDOW_COMMIT (R368). -/
  | windowCommit (src : Src) (port : Nat) (v : Word)
  /-- SUBLINK_DOWN (R374). -/
  | sublinkDown (port sub : Nat)
  /-- LINK_ENABLE (R387). -/
  | linkEnable (src : Src) (port : Nat)
  /-- RETRAIN (R387). -/
  | retrain (src : Src) (port : Nat)
  /-- L1_ENTRY (R375). -/
  | l1Entry (port sub level : Nat)
  /-- L1_EXIT (R375). -/
  | l1Exit (port sub : Nat)
  /-- CXL_MEMORY_ACTIVE (R376). -/
  | cxlMemoryActive (port cap : Nat)
  /-- CREATE (R394). -/
  | create (src : Src)
  /-- DESTROY (R401). -/
  | destroy (src : Src)
  /-- RESET (R404). -/
  | reset (src : Src)
  /-- FREEZE (R408). -/
  | freeze (src : Src)
  /-- FROZEN (R408). -/
  | frozen (iid : Nat)
  /-- SAVE (R409). -/
  | save (src : Src)
  /-- RESTORE (R411). -/
  | restore (src : Src)
  /-- UNFREEZE (R401). -/
  | unfreeze (src : Src)
  /-- DIRTY_START (R412). -/
  | dirtyStart (src : Src)
  /-- DIRTY_SWAP (R413). -/
  | dirtySwap (src : Src)
  /-- DIRTY_STOP (R413). -/
  | dirtyStop (src : Src)
  /-- FLR (R403). -/
  | flr (iid : Nat)
  /-- INSTANCE_RESET (R404). -/
  | instanceReset (iid : Nat)
  /-- SHEARS_STOP_CUT (R404). -/
  | shearsStopCut (iid : Nat)
  /-- INSTANCE_RESET_DONE (R404). -/
  | instanceResetDone (iid : Nat)
  /-- BUS_MASTER_DISABLE (R405). -/
  | busMasterDisable (f : Nat)
  /-- BUS_MASTER_ENABLE (R405). -/
  | busMasterEnable (f : Nat)
  /-- RECORD_INVALIDATE (R422). -/
  | recordInvalidate (src : Src) (u i : Nat)
  /-- RECORD_PREPARE (R518). -/
  | recordPrepare (src : Src) (u i : Nat) (r : RecReg) (v : DWord)
  /-- RECORD_INJECTION (R422). -/
  | recordInjection (src : Src) (u i : Nat) (v : DWord)
  /-- INJECTION_ARM (R442). -/
  | injectionArm (src : Src) (v : Word)
  /-- INJECTION_FIRE (R442). -/
  | injectionFire (u line : Nat)
  /-- RESIDUE_REPLAY (R424). -/
  | residueReplay (h : Nat)
  /-- HART_MIGRATION (R427). -/
  | hartMigration (h : Nat)
  /-- MIGRATION_RESTORE (R427). -/
  | migrationRestore (h : Nat)
  /-- CORE_RETIRE (R427). -/
  | coreRetire (c : Nat)
  /-- HART_STOP (R426). -/
  | hartStop (h : Nat)
  /-- FATAL_ERROR (R439). -/
  | fatalError (u struct : Nat)
  /-- COUNTER_WRITE (R446). -/
  | counterWrite (h csr : Nat) (v : DWord)
  /-- COUNTER_OVERFLOW (R452). -/
  | counterOverflow (h n rem : Nat)
  /-- SAMPLE (R457). -/
  | sample (h : Nat) (i : SampleInfo)
  /-- SAMPLE_RECORD_DONE (R458). -/
  | sampleRecordDone (h : Nat)
  /-- TSCTL_WRITE (R455). -/
  | tsctlWrite (h : Nat) (v : DWord)
  /-- TSIDX_WRITE (R456). -/
  | tsidxWrite (h : Nat) (v : DWord)
  /-- TALLY_START (R464). -/
  | tallyStart (src : Src) (b : Nat)
  /-- TALLY_STOP (R464). -/
  | tallyStop (src : Src) (b : Nat)
  /-- TALLY_WINDOW_END (R467). -/
  | tallyWindowEnd (b : Nat)
  /-- START_ALL (R468). -/
  | startAll (src : Src)
  /-- STOP_ALL (R468). -/
  | stopAll (src : Src)
  /-- COLD_BOOT (R491). -/
  | coldBoot (straps : BitVec 5) (cold : Bool)
  /-- MEMORY_TRAINING (R244). -/
  | memoryTraining (pops : List ChanPop)
  /-- DROOP_STRETCH (R479). -/
  | droopStretch (fold : Nat)
  /-- STRETCH_END (R479). -/
  | stretchEnd (fold : Nat)
  /-- OPP_REQUEST (R481). -/
  | oppRequest (src : Src) (fold : Nat) (v : Word)
  /-- OPP_CHANGE (R483). -/
  | oppChange (fold : Nat)
  /-- RAMP_GRANT (R476). -/
  | rampGrant (core : Nat) (k : RampKind)
  /-- ANNOUNCED_RAMP_START (R476). -/
  | announcedRampStart (core : Nat)
  /-- RAMP_END (R475). -/
  | rampEnd (core : Nat)
  /-- LOADCAST_DEASSERT (R477). -/
  | loadcastDeassert (p : Nat)
  /-- THERMAL_LOOP (R484). -/
  | thermalLoop (temps : List Nat)
  /-- HARDWARE_CLAMP (R485). -/
  | hardwareClamp (cause : Nat) (fold : Nat)
  /-- THERMTRIP (R486). -/
  | thermtrip (temp : Nat)
  /-- CORE_POWER_UP (R488). -/
  | corePowerUp (core : Nat)
  /-- SUBLINK_UP (R387). -/
  | sublinkUp (port sub width speed : Nat)
  /-- PAUSE_QUANTA_EXPIRY (R290). -/
  | pauseQuantaExpiry (port prio : Nat)
  /-- BW_WATCHDOG_EXPIRY (R358). -/
  | bwWatchdogExpiry
  /-- BW_RESTART_DONE (R358). -/
  | bwRestartDone
  /-- BW_HEARTBEAT (R359). -/
  | bwHeartbeat
  /-- ENDPOINT_LINK_RESET (R374). -/
  | endpointLinkReset
  /-- VF_ENABLE_CLEAR (R403). -/
  | vfEnableClear
  /-- FATAL_LOG_COPY (R439). -/
  | fatalLogCopy
  /-- FIRMWARE_AUTH (R493). -/
  | firmwareAuth
  /-- HART_RELEASE (R491). -/
  | hartRelease
  /-- WARM_RESET (R490). -/
  | warmReset
  /-- POWER_LOSS (R507). -/
  | powerLoss
  /-- CLAMP_END (R485). -/
  | clampEnd
  /-- STANDBY_POWER_UP (R491). -/
  | standbyPowerUp
  /-- PERST0_N_DEASSERT (R494). -/
  | perst0NDeassert
  /-- SENSORS_REACH_ZERO (R510). -/
  | sensorsReachZero
deriving DecidableEq, Repr

end Sys2Proof
end

