-- ==== Sys2Proof/Config.lean ====
section
/-! DEFINITION. What the manual leaves to the implementation, and the free values: constants without a body, so no
proof can learn a value of them. Each is named in the assumption log (log 9, 10, 15). -/

namespace Sys2Proof.Config

/-- Control-space offset of a register block: reported only through BLOCK_BASE (R31). Free. -/
opaque blockBase : Nat → BitVec 32
/-- Size of a register block that no chapter states (R31). Free. -/
opaque blockSize : Nat → BitVec 32
/-- VERSION of a block's register map: "per block" (R54). Free. -/
opaque blockVersion : Nat → BitVec 8
/-- A fresh value for each draw of the counter: TRNG, LFSR and undefined values. Free. -/
opaque fresh : Nat → BitVec 64
/-- A fresh choice among n ways or entries, n > 0: tree pseudo-LRU victims (R147, R155). Free; used modulo n. -/
opaque choose : Nat → Nat
/-- Core cycles that a command takes, which the manual does not bind (R13). Free. -/
opaque cycles : Nat → Nat
/-- CRC-16 of a flit over its payload, MASK and sideband (R208), whose polynomial and payload layout the manual does not give: by the
sideband and the data. Free. -/
opaque flitCrc : BitVec 48 → BitVec 64 → BitVec 512 → BitVec 16
/-- Occupancy, at a draw of the counter, of a pipeline structure that State does not hold (R450): free. -/
opaque occupancy : Nat → Nat → Nat
/-- The result of a RISC-V instruction that the manual takes from the standard and does not restate: encoding and
operands. Free. -/
opaque riscvResult : BitVec 32 → BitVec 64 → BitVec 64 → BitVec 64
/-- The element result of a vector instruction of the standard that the manual does not restate. Free. -/
opaque riscvVector : BitVec 32 → BitVec 256 → BitVec 256 → BitVec 256
/-- The flags of a vector FP instruction of the standard that the manual does not restate, by encoding and operands. Free. -/
opaque riscvVectorFlags : BitVec 32 → BitVec 256 → BitVec 256 → BitVec 5
/-- The bits of one dynamic Huffman block after its three header bits, that COMPRESS produces at a level from the input
before it in the window and its own input: the hash chain's candidate order and the code tables are not given bit for bit
(R315). Free. -/
opaque deflateBlock : Nat → List (BitVec 8) → List (BitVec 8) → List Bool
/-- The body of one zstd compressed block that COMPRESS produces likewise (R315). Free. -/
opaque zstdBlock : Nat → List (BitVec 8) → List (BitVec 8) → List (BitVec 8)
/-- Vendor, device, revision and subsystem IDs and serial number from fuses (R379), and the RERI vendor ID (R418). Free. -/
opaque vendorId : Nat → BitVec 32
/-- Data of a burst with three or more devices in error: detected or miscorrected, not guaranteed (R227). Free. -/
opaque miscorrect : Nat → Bool
/-- Data that a wrong decode returns (R227: "with the data as decoded"). Free. -/
opaque decodedLine : Nat → BitVec 512 → BitVec 512

end Sys2Proof.Config
end

