-- ==== Sys2Proof/Machine/Store.lean ====
section
/-! DEFINITION. The two containers of State: a table of records by number, and memory in its one canonical form. -/

namespace Sys2Proof.Machine

/-- A table of records by number; a number that is not listed has the reader's default. -/
abbrev Sparse (α : Type) := List (Nat × α)

/-- The record of a number, if listed. -/
def Sparse.find {α : Type} : Sparse α → Nat → Option α
  | [], _ => none
  | (k, v) :: t, n => if n = k then some v else Sparse.find t n

/-- The record of a number, or a default. -/
def Sparse.at {α : Type} (m : Sparse α) (d : α) (n : Nat) : α := (Sparse.find m n).getD d

/-- The table with the record of one number set; numbers stay in rising order. -/
def Sparse.put {α : Type} : Sparse α → Nat → α → Sparse α
  | [], n, v => [(n, v)]
  | (k, w) :: t, n, v =>
    if n < k then (n, v) :: (k, w) :: t else if n = k then (n, v) :: t else (k, w) :: Sparse.put t n v

/-- The table without one number. -/
def Sparse.del {α : Type} : Sparse α → Nat → Sparse α
  | [], _ => []
  | (k, w) :: t, n => if n = k then Sparse.del t n else (k, w) :: Sparse.del t n

/-- The table with the record of one number changed. -/
def Sparse.upd {α : Type} (m : Sparse α) (d : α) (n : Nat) (f : α → α) : Sparse α :=
  Sparse.put m n (f (Sparse.at m d n))

/-- A set of numbers, in rising order. -/
abbrev NatSet := List Nat

def NatSet.insert : NatSet → Nat → NatSet
  | [], n => [n]
  | k :: t, n => if n < k then n :: k :: t else if n = k then k :: t else k :: NatSet.insert t n

def NatSet.erase (m : NatSet) (n : Nat) : NatSet := m.filter (· ≠ n)

/-- Byte memory: addresses strictly rising, no listed byte equal to what an unlisted address reads as (0; log 4). -/
abbrev Memory := List Host.Cell

/-- What an unlisted address reads as: the manual gives DRAM no contents after power-on. DESIGN CHOICE (log 4), unsafe. -/
def Memory.unlisted : Byte := 0

/-- The byte at an address. -/
def Memory.get : Memory → Nat → Byte
  | [], _ => Memory.unlisted
  | (k, v) :: t, a => if a = k then v else Memory.get t a

/-- Memory with one byte written. -/
def Memory.set : Memory → Nat → Byte → Memory
  | [], a, b => if b = Memory.unlisted then [] else [(a, b)]
  | (k, v) :: t, a, b =>
    if a < k then (if b = Memory.unlisted then (k, v) :: t else (a, b) :: (k, v) :: t)
    else if a = k then (if b = Memory.unlisted then t else (a, b) :: t)
    else (k, v) :: Memory.set t a b

/-- Every listed address is above `lo` and rising, and no listed byte is the unlisted one. -/
def Memory.wfFrom : Nat → Memory → Bool
  | _, [] => true
  | lo, (k, v) :: t => decide (lo ≤ k) && decide (v ≠ Memory.unlisted) && Memory.wfFrom (k + 1) t

/-- The canonical form of memory. -/
def Memory.wf (m : Memory) : Bool := Memory.wfFrom 0 m

/-- `n` bytes from an address, lowest address first. -/
def Memory.read (m : Memory) (a : Nat) : Nat → List Byte
  | 0 => []
  | n + 1 => m.get a :: Memory.read m (a + 1) n

/-- Memory with a list of bytes written from an address upward. -/
def Memory.write (m : Memory) (a : Nat) : List Byte → Memory
  | [] => m
  | b :: bs => Memory.write (m.set a b) (a + 1) bs

/-- Memory with the bytes from an address upward erased to the unlisted value. -/
def Memory.clear (m : Memory) (a : Nat) (n : Nat) : Memory := m.filter fun c => !(decide (a ≤ c.1) && decide (c.1 < a + n))

/-- Byte `i` of a word, byte 0 in the low bits (R182, R48: little-endian). -/
def byteOf {w : Nat} (x : BitVec w) (i : Nat) : Byte := (x >>> (8 * i)).setWidth 8

/-- The number that a list of bytes spells, little-endian. -/
def leNat : List Byte → Nat
  | [] => 0
  | b :: bs => b.toNat + 256 * leNat bs

/-- The `n` low bytes of a number, little-endian. -/
def leBytes (x : Nat) : Nat → List Byte
  | 0 => []
  | n + 1 => BitVec.ofNat 8 x :: leBytes (x / 256) n

/-- The 64 bytes of a line. -/
def lineBytes (l : Line) : List Byte := leBytes l.toNat 64
/-- The line of up to 64 bytes. -/
def lineOf (bs : List Byte) : Line := BitVec.ofNat 512 (leNat bs)

/-- A line with the bytes that a mask selects taken from another line (R169). -/
def mergeLine (old new : Line) (mask : BitVec 64) : Line :=
  lineOf ((List.range 64).map fun i => if mask.getLsbD i then byteOf new i else byteOf old i)

/-- Mask of `n` bytes from byte `off` of a line. -/
def byteMask (off n : Nat) : BitVec 64 := BitVec.ofNat 64 ((2 ^ n - 1) * 2 ^ off)

/-- Bits hi:lo of a word as a number (R8). -/
def fld {w : Nat} (x : BitVec w) (hi lo : Nat) : Nat := x.toNat / 2 ^ lo % 2 ^ (hi + 1 - lo)

/-- A word with bits hi:lo replaced. -/
def setFld {w : Nat} (x : BitVec w) (hi lo : Nat) (v : Nat) : BitVec w :=
  BitVec.ofNat w (x.toNat - fld x hi lo * 2 ^ lo + (v % 2 ^ (hi + 1 - lo)) * 2 ^ lo)

/-- A Bool as a bit. -/
def bit (b : Bool) : Nat := if b then 1 else 0

end Sys2Proof.Machine
end

