-- ==== Sys2Proof/Machine/Topology.lean ====
section
/-! DEFINITION. The fixed places and numbers of the units: the mesh map, the unit tree, the home of a line (R17-R32,
R39, R150, R207, R210). Nothing here changes as the machine runs. -/

namespace Sys2Proof.Machine

/-- Unit kinds (R32); `instMgmt` is the instance-management block of R415, which has no Unit Descriptor. -/
inductive Kind where
  | package | paddock | fold | tile | core | l3Slice | memCtrl | busPort | ethPort | shears
  | droverCluster | droverCore | bellwether | flowTable | instMgmt
deriving DecidableEq, Repr

/-- KIND encodings (R32). -/
def Kind.code : Kind → Nat
  | .package => 0x01 | .paddock => 0x02 | .fold => 0x03 | .tile => 0x04 | .core => 0x05 | .l3Slice => 0x06
  | .memCtrl => 0x10 | .busPort => 0x11 | .ethPort => 0x12 | .shears => 0x13 | .droverCluster => 0x14
  | .droverCore => 0x15 | .bellwether => 0x16 | .flowTable => 0x17 | .instMgmt => 0x00

def uPackage : Nat := 0
def uPaddock (p : Nat) : Nat := 1 + p
def uMc (n : Nat) : Nat := 5 + n
def uPx (n : Nat) : Nat := 17 + n
def uEth (n : Nat) : Nat := 21 + n
def uShears (n : Nat) : Nat := 23 + n
def uDrover (n : Nat) : Nat := 25 + n
def uBellwether : Nat := 27
def uFlow : Nat := 28
/-- Fold n = 5p + f (R28). -/
def uFold (n : Nat) : Nat := 29 + n
def uTile (i : Nat) : Nat := 49 + i
/-- Physical core index 2i + c of R153. -/
def uCore (pc : Nat) : Nat := 149 + 3 * (pc / 2) + pc % 2
def uSlice (i : Nat) : Nat := 149 + 3 * i + 2
def uDvCore (d k : Nat) : Nat := 449 + 32 * d + k
/-- The instance-management block's number in this model. -/
def uIm : Nat := 513

/-- The kind of a unit (R28, R32). -/
def kindOf (u : Nat) : Kind :=
  if u = 0 then .package else if u ≤ 4 then .paddock else if u ≤ 16 then .memCtrl
  else if u ≤ 20 then .busPort else if u ≤ 22 then .ethPort else if u ≤ 24 then .shears
  else if u ≤ 26 then .droverCluster else if u = 27 then .bellwether else if u = 28 then .flowTable
  else if u ≤ 48 then .fold else if u ≤ 148 then .tile
  else if u ≤ 448 then (if (u - 149) % 3 = 2 then .l3Slice else .core)
  else if u ≤ 512 then .droverCore else .instMgmt

/-- LEVEL of a unit (R31). -/
def levelOf (u : Nat) : Nat :=
  match kindOf u with
  | .package => 4 | .paddock => 3 | .fold => 2 | .tile => 1 | .droverCluster => 1 | _ => 0

/-- Number of children (R31). -/
def childCount (u : Nat) : Nat :=
  match kindOf u with
  | .package => 28 | .paddock => 5 | .fold => 5 | .tile => 3 | .droverCluster => 32 | _ => 0

/-- UNIT_ID of the first child (R28); meaningful when there are children. -/
def firstChild (u : Nat) : Nat :=
  match kindOf u with
  | .package => 1 | .paddock => 29 + 5 * (u - 1) | .fold => 49 + 5 * (u - 29)
  | .tile => 149 + 3 * (u - 49) | .droverCluster => 449 + 32 * (u - 25) | _ => 0

/-- UNIT_ID of the parent (R28, R32). -/
def parentOf (u : Nat) : Nat :=
  match kindOf u with
  | .fold => 1 + (u - 29) / 5 | .tile => 29 + (u - 49) / 5
  | .core => 49 + (u - 149) / 3 | .l3Slice => 49 + (u - 149) / 3 | .droverCore => 25 + (u - 449) / 32 | _ => 0

/-- The children of a unit. -/
def childrenOf (u : Nat) : List Nat := (List.range (childCount u)).map (firstChild u + ·)

/-- The ancestors of a unit, nearest first; no tree is deeper than the five levels of R23. -/
def ancestorsOf (u : Nat) : List Nat :=
  let rec go : Nat → Nat → List Nat
    | 0, _ => []
    | fuel + 1, v => if v = 0 then [] else parentOf v :: go fuel (parentOf v)
  go 5 u

/-- Pages of 4 KiB of a register block (R31): what the block chapters state (R302, R331, R351), and elsewhere free above what the
block's registers and, in the package block, its bank pages take (R418; log 10). -/
def blockPages (u : Nat) : Nat :=
  let least := if u = 0 then 0x301 else 2
  match kindOf u with
  | .flowTable => 0x400 | .shears => 0x100 | .droverCluster => 0x40
  | _ => least + (Config.blockSize u).toNat % (0xFF000 - least)

/-- BLOCK_SIZE: a multiple of 4 KiB (R31). -/
def blockSize (u : Nat) : Nat := 0x1000 * blockPages u

/-- BLOCK_BASE: a free 4 KiB-aligned place in 0x0100_0000 to 0xFFFF_FFFF that holds the whole block (R31; log 10). -/
def blockBase (u : Nat) : Nat := 0x01000000 + 0x1000 * ((Config.blockBase u).toNat % (0xFF000 - blockPages u + 1))

/-- A group is a unit with children (R31). -/
def isGroup (u : Nat) : Bool := childCount u ≠ 0

/-- Tile index of a tile, core or slice unit. -/
def tileOfUnit (u : Nat) : Nat := if u ≤ 148 then u - 49 else (u - 149) / 3

/-- Physical core index of a core unit. -/
def coreOfUnit (u : Nat) : Nat := 2 * ((u - 149) / 3) + (u - 149) % 3

/-- Fold number 5p + f of a tile (R24). -/
def foldOfTile (i : Nat) : Nat := i / 5
/-- Paddock of a tile (R24). -/
def paddockOfTile (i : Nat) : Nat := i / 25
def foldOfCore (pc : Nat) : Nat := pc / 10
def paddockOfCore (pc : Nat) : Nat := pc / 50

/-- Mesh position of a tile (R24). -/
def tilePos (i : Nat) : Nat × Nat :=
  (1 + 5 * (i / 25 % 2) + i % 5, 1 + 5 * (i / 25 / 2) + i / 5 % 5)

/-- Mesh position of an edge unit (R18); (15, 15) for a unit without a stop of its own (R39). -/
def edgePos (u : Nat) : Nat × Nat :=
  match kindOf u with
  | .memCtrl => let n := u - 5; ((if n < 6 then 0 else 11), [2, 3, 4, 7, 8, 9].getD (n % 6) 0)
  | .busPort => let n := u - 17; ((if n % 2 = 0 then 2 else 9), (if n < 2 then 0 else 11))
  | .ethPort => (4, if u = 21 then 0 else 11)
  | .shears => (5, if u = 23 then 0 else 11)
  | .droverCluster => (6, if u = 25 then 0 else 11)
  | _ => (15, 15)

/-- The unit's reference stop (R39: MESH_X, MESH_Y). -/
def unitPos (u : Nat) : Nat × Nat :=
  match kindOf u with
  | .paddock => tilePos (25 * (u - 1))
  | .fold => tilePos (5 * (u - 29))
  | .tile => tilePos (u - 49)
  | .core => tilePos (tileOfUnit u)
  | .l3Slice => tilePos (tileOfUnit u)
  | .droverCore => edgePos (parentOf u)
  | _ => edgePos u

/-- DIE of a unit (R39). -/
def dieOf (u : Nat) : Nat :=
  match kindOf u with
  | .package => 7
  | .paddock => u - 1
  | .fold => (u - 29) / 5
  | .tile => (u - 49) / 25
  | .core => tileOfUnit u / 25
  | .l3Slice => tileOfUnit u / 25
  | _ => 4

/-- The path p, f, t, c and its depth (R39). -/
def pathOf (u : Nat) : Nat × Nat × Nat × Nat × Nat :=
  match kindOf u with
  | .paddock => (u - 1, 0, 0, 0, 1)
  | .fold => ((u - 29) / 5, (u - 29) % 5, 0, 0, 2)
  | .tile => let i := u - 49; (i / 25, i / 5 % 5, i % 5, 0, 3)
  | .l3Slice => let i := tileOfUnit u; (i / 25, i / 5 % 5, i % 5, 0, 3)
  | .core => let i := tileOfUnit u; (i / 25, i / 5 % 5, i % 5, (u - 149) % 3, 4)
  | _ => (0, 0, 0, 0, 0)

/-- UD_LOCATION (R39). -/
def udLocation (u : Nat) : Word :=
  let (x, y) := unitPos u
  let (p, f, t, c, d) := pathOf u
  BitVec.ofNat 32 (x + 16 * y + 256 * dieOf u + 2 ^ 16 * p + 2 ^ 18 * f + 2 ^ 21 * t + 2 ^ 24 * c + 2 ^ 25 * d)

/-- Home slice of a line number (R150). -/
def homeSlice (l : Nat) : Nat := ((l % 65536) ^^^ (l / 65536 % 65536) ^^^ (l / 2 ^ 32 % 0x4000)) % 100

/-- L3 and directory set of a line number (R150). -/
def homeSet (l : Nat) : Nat := (l % 2048) ^^^ (l / 2048 % 2048)

/-- L2 set of a line number (R147). -/
def l2Set (l : Nat) : Nat := l % 1024

/-- Mesh position of an agent; the Bellwether controller, the flow table and the bridge stand at (4, 0), or at (4, 11)
once the (4, 0) link is retired (R21, R211). -/
def agentPos (standby : Bool) : Agent → Nat × Nat
  | .core c => tilePos (c / 2)
  | .home i => tilePos i
  | .mc n => edgePos (5 + n)
  | .bridge => (4, if standby then 11 else 0)
  | .unit u => if u = 27 ∨ u = 28 then (4, if standby then 11 else 0) else unitPos u

/-- Agent code (R207). -/
def agentCode : Agent → Nat
  | .core c => c % 2
  | .home _ => 2
  | .bridge => 3
  | .unit u => if u = 27 then 1 else if u = 28 then 2 else 0
  | .mc _ => 0

/-- An interior column or row of an edge coordinate (R210). -/
def toInterior (v : Nat) : Nat := if v = 0 then 1 else if v ≥ 11 then 10 else v

/-- Links between two coordinates along one axis and how many of them cross the 5/6 cut (R22). -/
def axisHops (a b : Nat) : Nat × Nat :=
  ((if a ≤ b then b - a else a - b), if (a ≤ 5 ∧ 6 ≤ b) ∨ (b ≤ 5 ∧ 6 ≤ a) then 1 else 0)

/-- H and D of the path between two stops (R22, R210). -/
def pathHD (a b : Nat × Nat) : Nat × Nat :=
  let edge (p : Nat × Nat) : Nat := if p.1 = 0 ∨ p.1 ≥ 11 ∨ p.2 = 0 ∨ p.2 ≥ 11 then 1 else 0
  if a = b then (0, 0)
  else
    let (hx, dx) := axisHops (toInterior a.1) (toInterior b.1)
    let (hy, dy) := axisHops (toInterior a.2) (toInterior b.2)
    (hx + hy + edge a + edge b, dx + dy + edge a + edge b)

/-- Input port of a home through which a message of an agent arrives: 0 north, 1 east, 2 south, 3 west, 4 and 5 the
cores of the home's own tile (R160, R210). -/
def homePort (standby : Bool) (slice : Nat) (src : Agent) : Nat :=
  let (hx, hy) := tilePos slice
  let (sx, sy) := agentPos standby src
  match src with
  | .core c =>
    if c / 2 = slice then 4 + c % 2
    else if sy < hy then 0 else if sy > hy then 2 else if sx > hx then 1 else 3
  | _ =>
    if toInterior sy < hy then 0 else if toInterior sy > hy then 2
    else if toInterior sx > hx then 1 else if toInterior sx < hx then 3
    else if sy = 0 then 0 else if sy ≥ 11 then 2 else if sx ≥ 11 then 1 else 3

/-- Idle-mesh arrival time in mc of a message of n flits: its tail (R212). -/
def meshTime (a b : Nat × Nat) (flits : Nat) : Nat :=
  let (h, d) := pathHD a b
  2 * h + 2 * d + 1 + (flits - 1)

end Sys2Proof.Machine
end

