-- ==== Sys2Proof/Machine/RegMap.lean ====
section
/-! DEFINITION. The register maps: every register of every block, with its fields, access codes, reset values, locks and
ranges (R31-R54 and the register tables of the block chapters). A field's reset value that the manual leaves to fuses,
boot or training is 0 here and is written by the command that sets it (log 5). -/

namespace Sys2Proof.Machine

/-- Access codes (R52). -/
inductive Acc where
  | ro | rw | w1s | w1c | rc | wo | rsv
deriving DecidableEq, Repr

/-- A field: bits hi:lo, access code, reset value, whether it is an enable bit (R64), and its permitted ranges when its
enumeration or range does not cover every value (R53). -/
structure Fld where
  hi  : Nat
  lo  : Nat
  acc : Acc
  rst : Nat := 0
  en  : Bool := false
  ok  : List (Nat × Nat) := []
deriving DecidableEq, Repr

/-- Locks of a register (R56, R229). -/
inductive Lock where
  | free
  | lockable
  /-- Locked while any bit of a mask is 1 in the register at an offset of the same block and bank (R56). -/
  | whileOn (off mask : Nat)
  /-- The interleave sets' own lock (R229, R233). -/
  | mset
deriving DecidableEq, Repr

/-- Roles in a complement pair (R59, R60). -/
inductive Role where
  | plain
  /-- X of a 32-bit pair, and its complement. -/
  | x | xCpl
  | lo | loCpl | hi | hiCpl
deriving DecidableEq, Repr

/-- A register, or `count` of them at a stride. -/
structure RegDef where
  name   : String
  off    : Nat
  count  : Nat := 1
  stride : Nat := 4
  lock   : Lock := .free
  role   : Role := .plain
  fields : List Fld
deriving DecidableEq, Repr

/-- The common header (R54). -/
def headerRegs : List RegDef := [
  { name := "BLK_ID", off := 0x1000,
    fields := [{ hi := 15, lo := 0, acc := .ro }, { hi := 23, lo := 16, acc := .ro }, { hi := 31, lo := 24, acc := .ro }] },
  { name := "BLK_STATE", off := 0x1004,
    fields := [{ hi := 0, lo := 0, acc := .ro }, { hi := 7, lo := 1, acc := .rsv }, { hi := 15, lo := 8, acc := .ro }, { hi := 31, lo := 16, acc := .rsv }] },
  { name := "BLK_FAULT_OFFSET", off := 0x1008,
    fields := [{ hi := 31, lo := 0, acc := .ro }] },
  { name := "LAST_ERR", off := 0x100C,
    fields := [{ hi := 7, lo := 0, acc := .ro }, { hi := 15, lo := 8, acc := .ro }, { hi := 16, lo := 16, acc := .wo }, { hi := 31, lo := 17, acc := .rsv }] },
  { name := "LAST_ERR_OFFSET", off := 0x1010,
    fields := [{ hi := 31, lo := 0, acc := .ro }] },
  { name := "DB_DROPS", off := 0x1014,
    fields := [{ hi := 31, lo := 0, acc := .rc }] },
  { name := "BLK_LOCK", off := 0x1018,
    fields := [{ hi := 0, lo := 0, acc := .w1s }, { hi := 31, lo := 1, acc := .rsv }] },
  { name := "MBOX_SEL", off := 0x1020,
    fields := [{ hi := 23, lo := 0, acc := .rw }, { hi := 31, lo := 24, acc := .rsv }] },
  { name := "MBOX_CTL", off := 0x1024,
    fields := [{ hi := 0, lo := 0, acc := .ro }, { hi := 1, lo := 1, acc := .ro }, { hi := 7, lo := 2, acc := .rsv }, { hi := 15, lo := 8, acc := .ro }, { hi := 31, lo := 16, acc := .rsv }] },
  { name := "MBOX_DATA", off := 0x1030, count := 4,
    fields := [{ hi := 31, lo := 0, acc := .ro }] }]

/-- CORE (R175). -/
def coreRegs : List RegDef := [
  { name := "CORE_CLOS", off := 0x1040,
    fields := [{ hi := 3, lo := 0, acc := .rw }, { hi := 31, lo := 4, acc := .rsv }] },
  { name := "CORE_L2_MAINT_CTL", off := 0x1044,
    fields := [{ hi := 1, lo := 0, acc := .rw }, { hi := 2, lo := 2, acc := .rw }, { hi := 7, lo := 3, acc := .rsv }, { hi := 11, lo := 8, acc := .rw }, { hi := 15, lo := 12, acc := .rsv }, { hi := 25, lo := 16, acc := .rw, ok := [(0, 1023)] }, { hi := 29, lo := 26, acc := .rsv }, { hi := 30, lo := 30, acc := .wo }, { hi := 31, lo := 31, acc := .ro }] }]

/-- L3_SLICE (R176, R201). -/
def l3Regs : List RegDef := [
  { name := "L3_HURDLE", off := 0x1040, count := 16, lock := .lockable,
    fields := [{ hi := 23, lo := 0, acc := .rw, rst := 0xFFFFFF }, { hi := 31, lo := 24, acc := .rsv }] },
  { name := "L3_MAINT_CTL", off := 0x1080,
    fields := [{ hi := 1, lo := 0, acc := .rw }, { hi := 2, lo := 2, acc := .rw }, { hi := 7, lo := 3, acc := .rsv }, { hi := 12, lo := 8, acc := .rw, ok := [(0, 23)] }, { hi := 15, lo := 13, acc := .rsv }, { hi := 26, lo := 16, acc := .rw }, { hi := 29, lo := 27, acc := .rsv }, { hi := 30, lo := 30, acc := .wo }, { hi := 31, lo := 31, acc := .ro }] },
  { name := "L3_HOTLINE", off := 0x1084,
    fields := [{ hi := 31, lo := 0, acc := .rc }] },
  { name := "L3_RED_CTL", off := 0x1100,
    fields := [{ hi := 0, lo := 0, acc := .wo }, { hi := 1, lo := 1, acc := .ro }, { hi := 31, lo := 2, acc := .rsv }] },
  { name := "L3_RED_FLAGS", off := 0x1104,
    fields := [{ hi := 0, lo := 0, acc := .w1c }, { hi := 1, lo := 1, acc := .w1c }, { hi := 2, lo := 2, acc := .w1c }, { hi := 3, lo := 3, acc := .w1c }, { hi := 4, lo := 4, acc := .w1c }, { hi := 5, lo := 5, acc := .w1c }, { hi := 6, lo := 6, acc := .w1c }, { hi := 31, lo := 7, acc := .rsv }] },
  { name := "L3_RED_OCC", off := 0x1108,
    fields := [{ hi := 5, lo := 0, acc := .ro }, { hi := 15, lo := 6, acc := .ro }, { hi := 25, lo := 16, acc := .ro }, { hi := 31, lo := 26, acc := .rsv }] },
  { name := "L3_RED_SPILLS", off := 0x110C,
    fields := [{ hi := 31, lo := 0, acc := .rc }] },
  { name := "L3_RED_EARLY_CLOSES", off := 0x1110,
    fields := [{ hi := 31, lo := 0, acc := .rc }] },
  { name := "L3_RED_ACCESS_CLOSES", off := 0x1114,
    fields := [{ hi := 31, lo := 0, acc := .rc }] },
  { name := "L3_PEN", off := 0x1180, count := 32,
    fields := [{ hi := 1, lo := 0, acc := .ro }, { hi := 3, lo := 2, acc := .rsv }, { hi := 7, lo := 4, acc := .ro }, { hi := 8, lo := 8, acc := .ro }, { hi := 9, lo := 9, acc := .ro }, { hi := 15, lo := 10, acc := .rsv }, { hi := 31, lo := 16, acc := .ro }] }]

/-- PACKAGE (R229, R233, R440, R463, R468, R498). -/
def packageRegs : List RegDef := [
  { name := "MSET_BASE", off := 0x2000, count := 16, stride := 0x40, lock := .mset, role := .x,
    fields := [{ hi := 21, lo := 0, acc := .rw }, { hi := 31, lo := 22, acc := .rsv }] },
  { name := "MSET_BASE_CPL", off := 0x2004, count := 16, stride := 0x40, lock := .mset, role := .xCpl,
    fields := [{ hi := 31, lo := 0, acc := .rw, rst := 0xFFFFFFFF }] },
  { name := "MSET_LIMIT", off := 0x2008, count := 16, stride := 0x40, lock := .mset, role := .x,
    fields := [{ hi := 21, lo := 0, acc := .rw }, { hi := 31, lo := 22, acc := .rsv }] },
  { name := "MSET_LIMIT_CPL", off := 0x200C, count := 16, stride := 0x40, lock := .mset, role := .xCpl,
    fields := [{ hi := 31, lo := 0, acc := .rw, rst := 0xFFFFFFFF }] },
  { name := "MSET_CFG", off := 0x2010, count := 16, stride := 0x40, lock := .mset, role := .x,
    fields := [{ hi := 0, lo := 0, acc := .rw, en := true }, { hi := 3, lo := 1, acc := .rw, ok := [(0, 5)] }, { hi := 6, lo := 4, acc := .rw, ok := [(0, 4)] }, { hi := 7, lo := 7, acc := .rsv }, { hi := 8, lo := 8, acc := .rw }, { hi := 15, lo := 9, acc := .rsv }, { hi := 29, lo := 16, acc := .rw }, { hi := 31, lo := 30, acc := .rsv }] },
  { name := "MSET_CFG_CPL", off := 0x2014, count := 16, stride := 0x40, lock := .mset, role := .xCpl,
    fields := [{ hi := 31, lo := 0, acc := .rw, rst := 0xFFFFFFFF }] },
  { name := "MSET_CHAN_LO", off := 0x2018, count := 16, stride := 0x40, lock := .mset, role := .x,
    fields := [{ hi := 31, lo := 0, acc := .rw }] },
  { name := "MSET_CHAN_LO_CPL", off := 0x201C, count := 16, stride := 0x40, lock := .mset, role := .xCpl,
    fields := [{ hi := 31, lo := 0, acc := .rw, rst := 0xFFFFFFFF }] },
  { name := "MSET_CHAN_HI", off := 0x2020, count := 16, stride := 0x40, lock := .mset, role := .x,
    fields := [{ hi := 15, lo := 0, acc := .rw }, { hi := 31, lo := 16, acc := .rsv }] },
  { name := "MSET_CHAN_HI_CPL", off := 0x2024, count := 16, stride := 0x40, lock := .mset, role := .xCpl,
    fields := [{ hi := 31, lo := 0, acc := .rw, rst := 0xFFFFFFFF }] },
  { name := "MSET_LOCK", off := 0x2400,
    fields := [{ hi := 0, lo := 0, acc := .w1s }, { hi := 31, lo := 1, acc := .rsv }] },
  { name := "RAS_SIG_LO", off := 0x4000, lock := .lockable,
    fields := [{ hi := 15, lo := 0, acc := .rw }, { hi := 26, lo := 16, acc := .rw }, { hi := 27, lo := 27, acc := .rw }, { hi := 30, lo := 28, acc := .rsv }, { hi := 31, lo := 31, acc := .rw, en := true }] },
  { name := "RAS_SIG_HI", off := 0x4004, lock := .lockable,
    fields := [{ hi := 15, lo := 0, acc := .rw }, { hi := 26, lo := 16, acc := .rw }, { hi := 27, lo := 27, acc := .rw }, { hi := 30, lo := 28, acc := .rsv }, { hi := 31, lo := 31, acc := .rw, en := true }] },
  { name := "RAS_FATAL", off := 0x4008,
    fields := [{ hi := 0, lo := 0, acc := .ro }, { hi := 1, lo := 1, acc := .ro }, { hi := 31, lo := 2, acc := .rsv }] },
  { name := "RAS_CORE_FAULT", off := 0x400C,
    fields := [{ hi := 7, lo := 0, acc := .rw, rst := 0x8, ok := [(1, 255)] }, { hi := 31, lo := 8, acc := .rsv }] },
  { name := "RAS_INJ_UNIT", off := 0x4010, lock := .lockable,
    fields := [{ hi := 15, lo := 0, acc := .rw }, { hi := 31, lo := 16, acc := .rsv }] },
  { name := "RAS_INJ_CTL", off := 0x4014, lock := .lockable,
    fields := [{ hi := 7, lo := 0, acc := .rw }, { hi := 9, lo := 8, acc := .rw }, { hi := 10, lo := 10, acc := .rw }, { hi := 15, lo := 11, acc := .rsv }, { hi := 16, lo := 16, acc := .rw }, { hi := 17, lo := 17, acc := .w1c }, { hi := 31, lo := 18, acc := .rsv }] },
  { name := "RAS_INJ_ADDR_LO", off := 0x4018, lock := .lockable,
    fields := [{ hi := 5, lo := 0, acc := .rsv }, { hi := 31, lo := 6, acc := .rw }] },
  { name := "RAS_INJ_ADDR_HI", off := 0x401C, lock := .lockable,
    fields := [{ hi := 19, lo := 0, acc := .rw }, { hi := 31, lo := 20, acc := .rsv }] },
  { name := "RAS_INJ_COUNT", off := 0x4020, lock := .lockable,
    fields := [{ hi := 31, lo := 0, acc := .rc }] },
  { name := "TB_CTL", off := 0x5000, count := 42, stride := 0x40,
    fields := [{ hi := 1, lo := 0, acc := .rw, ok := [(0, 2)] }, { hi := 2, lo := 2, acc := .wo }, { hi := 3, lo := 3, acc := .wo }, { hi := 4, lo := 4, acc := .ro }, { hi := 5, lo := 5, acc := .w1c }, { hi := 6, lo := 6, acc := .rw, en := true }, { hi := 31, lo := 7, acc := .rsv }] },
  { name := "TB_WINDOW", off := 0x5004, count := 42, stride := 0x40,
    fields := [{ hi := 23, lo := 0, acc := .rw }, { hi := 31, lo := 24, acc := .rsv }] },
  { name := "TB_SEL", off := 0x5008, count := 42, stride := 0x40,
    fields := [{ hi := 9, lo := 0, acc := .rw, rst := 0x3FF }, { hi := 14, lo := 10, acc := .rw, rst := 0x1F }, { hi := 17, lo := 15, acc := .rw, rst := 0x7 }, { hi := 31, lo := 18, acc := .rsv }] },
  { name := "TALLY_SIG", off := 0x5C00,
    fields := [{ hi := 15, lo := 0, acc := .rw }, { hi := 26, lo := 16, acc := .rw }, { hi := 27, lo := 27, acc := .rw }, { hi := 30, lo := 28, acc := .rsv }, { hi := 31, lo := 31, acc := .rw, en := true }] },
  { name := "TALLY_CTL", off := 0x5C04,
    fields := [{ hi := 0, lo := 0, acc := .wo }, { hi := 1, lo := 1, acc := .wo }, { hi := 31, lo := 2, acc := .rsv }] },
  { name := "PWR_PLIMIT", off := 0x6000,
    fields := [{ hi := 8, lo := 0, acc := .rw, rst := 0x15E, ok := [(100, 350)] }, { hi := 31, lo := 9, acc := .rsv }] },
  { name := "PWR_TJ", off := 0x6004,
    fields := [{ hi := 6, lo := 0, acc := .rw, rst := 0x64, ok := [(70, 105)] }, { hi := 31, lo := 7, acc := .rsv }] },
  { name := "PWR_STATUS", off := 0x6008,
    fields := [{ hi := 3, lo := 0, acc := .ro }, { hi := 4, lo := 4, acc := .ro }, { hi := 5, lo := 5, acc := .ro }, { hi := 6, lo := 6, acc := .ro }, { hi := 7, lo := 7, acc := .ro }, { hi := 15, lo := 8, acc := .rsv }, { hi := 23, lo := 16, acc := .ro }, { hi := 31, lo := 24, acc := .rsv }] },
  { name := "PWR_RST", off := 0x600C,
    fields := [{ hi := 0, lo := 0, acc := .wo }, { hi := 1, lo := 1, acc := .wo }, { hi := 31, lo := 2, acc := .rsv }] },
  { name := "PWR_FOLD", off := 0x6040, count := 20,
    fields := [{ hi := 3, lo := 0, acc := .ro }, { hi := 6, lo := 4, acc := .ro }, { hi := 7, lo := 7, acc := .rsv }, { hi := 8, lo := 8, acc := .ro }, { hi := 31, lo := 9, acc := .rsv }] },
  { name := "BOOT_ENTRY_LO", off := 0x6090, lock := .lockable, role := .lo,
    fields := [{ hi := 31, lo := 0, acc := .rw }] },
  { name := "BOOT_ENTRY_LO_CPL", off := 0x6094, lock := .lockable, role := .loCpl,
    fields := [{ hi := 31, lo := 0, acc := .rw }] },
  { name := "BOOT_ENTRY_HI", off := 0x6098, lock := .lockable, role := .hi,
    fields := [{ hi := 19, lo := 0, acc := .rw }, { hi := 31, lo := 20, acc := .rsv }] },
  { name := "BOOT_ENTRY_HI_CPL", off := 0x609C, lock := .lockable, role := .hiCpl,
    fields := [{ hi := 31, lo := 0, acc := .rw }] }]

/-- MEM_CTRL (R256). -/
def memRegs : List RegDef := [
  { name := "MC_INFO", off := 0x1040,
    fields := [{ hi := 1, lo := 0, acc := .ro }, { hi := 4, lo := 2, acc := .ro }, { hi := 5, lo := 5, acc := .ro }, { hi := 6, lo := 6, acc := .ro }, { hi := 8, lo := 7, acc := .ro }, { hi := 15, lo := 9, acc := .rsv }, { hi := 23, lo := 16, acc := .ro }, { hi := 31, lo := 24, acc := .rsv }] },
  { name := "MC_SPARE_CFG", off := 0x1044, lock := .lockable,
    fields := [{ hi := 2, lo := 0, acc := .rw }, { hi := 3, lo := 3, acc := .rw, en := true }, { hi := 31, lo := 4, acc := .rsv }] },
  { name := "MC_SPARE_CTL", off := 0x1048,
    fields := [{ hi := 1, lo := 0, acc := .ro }, { hi := 3, lo := 2, acc := .rsv }, { hi := 6, lo := 4, acc := .ro }, { hi := 7, lo := 7, acc := .rsv }, { hi := 10, lo := 8, acc := .ro }, { hi := 15, lo := 11, acc := .rsv }, { hi := 18, lo := 16, acc := .rw }, { hi := 19, lo := 19, acc := .wo }, { hi := 31, lo := 20, acc := .rsv }] },
  { name := "MC_RAS_CTL", off := 0x104C, lock := .lockable,
    fields := [{ hi := 15, lo := 0, acc := .rw, rst := 0x100 }, { hi := 16, lo := 16, acc := .rw, rst := 0x1 }, { hi := 17, lo := 17, acc := .rw, rst := 0x1 }, { hi := 31, lo := 18, acc := .rsv }] },
  { name := "MC_DRFM", off := 0x1050, lock := .lockable,
    fields := [{ hi := 3, lo := 0, acc := .rw, rst := 0xA, ok := [(4, 14)] }, { hi := 4, lo := 4, acc := .rw }, { hi := 7, lo := 5, acc := .rsv }, { hi := 8, lo := 8, acc := .rw, rst := 0x1, en := true }, { hi := 31, lo := 9, acc := .rsv }] },
  { name := "MC_SCRUB", off := 0x1054,
    fields := [{ hi := 7, lo := 0, acc := .rw, rst := 0x18, ok := [(1, 255)] }, { hi := 8, lo := 8, acc := .rw, rst := 0x1, en := true }, { hi := 9, lo := 9, acc := .w1c }, { hi := 31, lo := 10, acc := .rsv }] },
  { name := "MC_STATUS", off := 0x1058,
    fields := [{ hi := 0, lo := 0, acc := .ro }, { hi := 1, lo := 1, acc := .ro }, { hi := 2, lo := 2, acc := .ro }, { hi := 7, lo := 3, acc := .rsv }, { hi := 15, lo := 8, acc := .ro }, { hi := 31, lo := 16, acc := .rsv }] },
  { name := "MC_RETRAIN", off := 0x105C,
    fields := [{ hi := 15, lo := 0, acc := .rc }, { hi := 31, lo := 16, acc := .rsv }] }]

/-- ETH_PORT (R298). -/
def ethRegs : List RegDef := [
  { name := "ETH_MODE", off := 0x1040, lock := .whileOn 0x1044 0xFF,
    fields := [{ hi := 1, lo := 0, acc := .rw }, { hi := 3, lo := 2, acc := .rw, ok := [(0, 2)] }, { hi := 4, lo := 4, acc := .rw, rst := 0x1 }, { hi := 31, lo := 5, acc := .rsv }] },
  { name := "ETH_MAC_EN", off := 0x1044,
    fields := [{ hi := 7, lo := 0, acc := .rw, en := true }, { hi := 31, lo := 8, acc := .rsv }] },
  { name := "ETH_LINK", off := 0x1048,
    fields := [{ hi := 7, lo := 0, acc := .ro }, { hi := 15, lo := 8, acc := .ro }, { hi := 31, lo := 16, acc := .rsv }] },
  { name := "ETH_FRAME", off := 0x104C, lock := .whileOn 0x1044 0xFF,
    fields := [{ hi := 13, lo := 0, acc := .rw, rst := 0x5F2, ok := [(64, 9728)] }, { hi := 31, lo := 14, acc := .rsv }] },
  { name := "ETH_PFC", off := 0x1050,
    fields := [{ hi := 7, lo := 0, acc := .rw }, { hi := 15, lo := 8, acc := .rw }, { hi := 16, lo := 16, acc := .rw }, { hi := 31, lo := 17, acc := .rsv }] },
  { name := "ETH_XOFF", off := 0x1054,
    fields := [{ hi := 10, lo := 0, acc := .rw, rst := 0x80 }, { hi := 15, lo := 11, acc := .rsv }, { hi := 26, lo := 16, acc := .rw, rst := 0x40 }, { hi := 31, lo := 27, acc := .rsv }] },
  { name := "ETH_RSS_CTX", off := 0x1058,
    fields := [{ hi := 31, lo := 0, acc := .rw }] },
  { name := "ETH_RCLASS", off := 0x1060, count := 15,
    fields := [{ hi := 13, lo := 0, acc := .rw }, { hi := 15, lo := 14, acc := .rsv }, { hi := 25, lo := 16, acc := .rw }, { hi := 30, lo := 26, acc := .rsv }, { hi := 31, lo := 31, acc := .rw, en := true }] }]

/-- FLOW_TABLE (R302). -/
def flowRegs : List RegDef := [
  { name := "FT_CTL", off := 0x1040,
    fields := [{ hi := 0, lo := 0, acc := .rw, en := true }, { hi := 1, lo := 1, acc := .rw, en := true }, { hi := 31, lo := 2, acc := .rsv }] },
  { name := "FT_DB_BASE", off := 0x1044, lock := .lockable, role := .x,
    fields := [{ hi := 31, lo := 0, acc := .rw, rst := 0x80000 }] },
  { name := "FT_DB_BASE_CPL", off := 0x1048, lock := .lockable, role := .xCpl,
    fields := [{ hi := 31, lo := 0, acc := .rw, rst := 0xFFF7FFFF }] },
  { name := "FT_OCC", off := 0x104C,
    fields := [{ hi := 20, lo := 0, acc := .ro }, { hi := 31, lo := 21, acc := .rsv }] },
  { name := "FT_ADDR_OCC", off := 0x1050,
    fields := [{ hi := 17, lo := 0, acc := .ro }, { hi := 31, lo := 18, acc := .rsv }] },
  { name := "FT_HASH_KEY", off := 0x1054, count := 10, lock := .whileOn 0x1040 0x1,
    fields := [{ hi := 31, lo := 0, acc := .rw }] },
  { name := "FT_ADMIN_CTL", off := 0x1080, lock := .whileOn 0x1040 0x2,
    fields := [{ hi := 4, lo := 0, acc := .rw, rst := 0x4, ok := [(4, 16)] }, { hi := 7, lo := 5, acc := .rsv }, { hi := 12, lo := 8, acc := .rw, rst := 0x4, ok := [(4, 16)] }, { hi := 31, lo := 13, acc := .rsv }] },
  { name := "FT_ADMIN_RING_LO", off := 0x1084, lock := .whileOn 0x1040 0x2,
    fields := [{ hi := 31, lo := 0, acc := .rw }] },
  { name := "FT_ADMIN_RING_HI", off := 0x1088, lock := .whileOn 0x1040 0x2,
    fields := [{ hi := 19, lo := 0, acc := .rw }, { hi := 31, lo := 20, acc := .rsv }] },
  { name := "FT_ADMIN_CRING_LO", off := 0x108C, lock := .whileOn 0x1040 0x2,
    fields := [{ hi := 31, lo := 0, acc := .rw }] },
  { name := "FT_ADMIN_CRING_HI", off := 0x1090, lock := .whileOn 0x1040 0x2,
    fields := [{ hi := 19, lo := 0, acc := .rw }, { hi := 31, lo := 20, acc := .rsv }] },
  { name := "Q_SEL", off := 0x1094,
    fields := [{ hi := 12, lo := 0, acc := .rw }, { hi := 15, lo := 13, acc := .rsv }, { hi := 16, lo := 16, acc := .rw }, { hi := 31, lo := 17, acc := .rsv }] },
  { name := "Q_CTL", off := 0x1098, lock := .whileOn 0x109C 0x1,
    fields := [{ hi := 0, lo := 0, acc := .rw }, { hi := 3, lo := 1, acc := .rw }, { hi := 8, lo := 4, acc := .rw, rst := 0x4, ok := [(4, 16)] }, { hi := 13, lo := 9, acc := .rw, rst := 0x4, ok := [(4, 16)] }, { hi := 14, lo := 14, acc := .rw, rst := 0x1, en := true }, { hi := 15, lo := 15, acc := .rw, rst := 0x1 }, { hi := 17, lo := 16, acc := .rw, rst := 0x1 }, { hi := 20, lo := 18, acc := .rw }, { hi := 23, lo := 21, acc := .rsv }, { hi := 31, lo := 24, acc := .rw, rst := 0x1, ok := [(1, 255)] }] },
  { name := "Q_EN", off := 0x109C,
    fields := [{ hi := 0, lo := 0, acc := .rw, en := true }, { hi := 1, lo := 1, acc := .ro, rst := 0x1 }, { hi := 31, lo := 2, acc := .rsv }] },
  { name := "Q_RING_LO", off := 0x10A0, lock := .whileOn 0x109C 0x1,
    fields := [{ hi := 31, lo := 0, acc := .rw }] },
  { name := "Q_RING_HI", off := 0x10A4, lock := .whileOn 0x109C 0x1,
    fields := [{ hi := 19, lo := 0, acc := .rw }, { hi := 31, lo := 20, acc := .rsv }] },
  { name := "Q_CRING_LO", off := 0x10A8, lock := .whileOn 0x109C 0x1,
    fields := [{ hi := 31, lo := 0, acc := .rw }] },
  { name := "Q_CRING_HI", off := 0x10AC, lock := .whileOn 0x109C 0x1,
    fields := [{ hi := 19, lo := 0, acc := .rw }, { hi := 31, lo := 20, acc := .rsv }] },
  { name := "Q_HART", off := 0x10B0,
    fields := [{ hi := 15, lo := 0, acc := .rw }, { hi := 31, lo := 16, acc := .rsv }] },
  { name := "Q_VEC", off := 0x10B4, lock := .whileOn 0x109C 0x1,
    fields := [{ hi := 10, lo := 0, acc := .rw }, { hi := 31, lo := 11, acc := .rsv }] },
  { name := "Q_PI", off := 0x10B8,
    fields := [{ hi := 31, lo := 0, acc := .ro }] },
  { name := "Q_CI", off := 0x10BC,
    fields := [{ hi := 31, lo := 0, acc := .ro }] }]

/-- SHEARS (R331). -/
def shearsRegs : List RegDef := [
  { name := "SH_CTL", off := 0x1040,
    fields := [{ hi := 0, lo := 0, acc := .rw, en := true }, { hi := 7, lo := 1, acc := .rsv }, { hi := 12, lo := 8, acc := .rw, rst := 0x10, ok := [(1, 16)] }, { hi := 31, lo := 13, acc := .rsv }] },
  { name := "SH_DB_BASE", off := 0x1044, lock := .lockable, role := .x,
    fields := [{ hi := 31, lo := 0, acc := .rw, rst := 0x80000 }] },
  { name := "SH_DB_BASE_CPL", off := 0x1048, lock := .lockable, role := .xCpl,
    fields := [{ hi := 31, lo := 0, acc := .rw, rst := 0xFFF7FFFF }] },
  { name := "SH_BUSY", off := 0x104C,
    fields := [{ hi := 4, lo := 0, acc := .ro }, { hi := 31, lo := 5, acc := .rsv }] },
  { name := "R_SEL", off := 0x1050,
    fields := [{ hi := 7, lo := 0, acc := .rw }, { hi := 31, lo := 8, acc := .rsv }] },
  { name := "R_CTL", off := 0x1054, lock := .whileOn 0x1058 0x1,
    fields := [{ hi := 4, lo := 0, acc := .rw, rst := 0x4, ok := [(4, 16)] }, { hi := 7, lo := 5, acc := .rsv }, { hi := 12, lo := 8, acc := .rw, rst := 0x4, ok := [(4, 16)] }, { hi := 15, lo := 13, acc := .rsv }, { hi := 20, lo := 16, acc := .rw, rst := 0x10, ok := [(1, 16)] }, { hi := 23, lo := 21, acc := .rsv }, { hi := 31, lo := 24, acc := .rw, rst := 0x1, ok := [(1, 255)] }] },
  { name := "R_EN", off := 0x1058,
    fields := [{ hi := 0, lo := 0, acc := .rw, en := true }, { hi := 1, lo := 1, acc := .ro, rst := 0x1 }, { hi := 31, lo := 2, acc := .rsv }] },
  { name := "R_RING_LO", off := 0x105C, lock := .whileOn 0x1058 0x1,
    fields := [{ hi := 31, lo := 0, acc := .rw }] },
  { name := "R_RING_HI", off := 0x1060, lock := .whileOn 0x1058 0x1,
    fields := [{ hi := 19, lo := 0, acc := .rw }, { hi := 31, lo := 20, acc := .rsv }] },
  { name := "R_CRING_LO", off := 0x1064, lock := .whileOn 0x1058 0x1,
    fields := [{ hi := 31, lo := 0, acc := .rw }] },
  { name := "R_CRING_HI", off := 0x1068, lock := .whileOn 0x1058 0x1,
    fields := [{ hi := 19, lo := 0, acc := .rw }, { hi := 31, lo := 20, acc := .rsv }] },
  { name := "R_VEC", off := 0x106C, lock := .whileOn 0x1058 0x1,
    fields := [{ hi := 10, lo := 0, acc := .rw }, { hi := 31, lo := 11, acc := .rsv }] },
  { name := "R_PI", off := 0x1070,
    fields := [{ hi := 31, lo := 0, acc := .ro }] },
  { name := "R_CI", off := 0x1074,
    fields := [{ hi := 31, lo := 0, acc := .ro }] }]

/-- DROVER_CLUSTER (R351). -/
def droverRegs : List RegDef := [
  { name := "DV_CTL", off := 0x1040,
    fields := [{ hi := 0, lo := 0, acc := .rw, en := true }, { hi := 15, lo := 1, acc := .rsv }, { hi := 26, lo := 16, acc := .rw }, { hi := 31, lo := 27, acc := .rsv }] },
  { name := "DV_DB_BASE", off := 0x1044, lock := .lockable, role := .x,
    fields := [{ hi := 31, lo := 0, acc := .rw, rst := 0x10000 }] },
  { name := "DV_DB_BASE_CPL", off := 0x1048, lock := .lockable, role := .xCpl,
    fields := [{ hi := 31, lo := 0, acc := .rw, rst := 0xFFFEFFFF }] },
  { name := "DV_HALTED", off := 0x104C,
    fields := [{ hi := 31, lo := 0, acc := .w1c }] },
  { name := "DV_MAINT_CTL", off := 0x1050,
    fields := [{ hi := 1, lo := 0, acc := .rw }, { hi := 2, lo := 2, acc := .rw }, { hi := 7, lo := 3, acc := .rsv }, { hi := 11, lo := 8, acc := .rw }, { hi := 15, lo := 12, acc := .rsv }, { hi := 23, lo := 16, acc := .rw }, { hi := 29, lo := 24, acc := .rsv }, { hi := 30, lo := 30, acc := .wo }, { hi := 31, lo := 31, acc := .ro }] },
  { name := "DV_SEL", off := 0x1054,
    fields := [{ hi := 4, lo := 0, acc := .rw }, { hi := 7, lo := 5, acc := .rsv }, { hi := 13, lo := 8, acc := .rw }, { hi := 31, lo := 14, acc := .rsv }] },
  { name := "DV_CORE_CTL", off := 0x1058,
    fields := [{ hi := 0, lo := 0, acc := .rw, en := true }, { hi := 1, lo := 1, acc := .ro }, { hi := 2, lo := 2, acc := .ro }, { hi := 7, lo := 3, acc := .rsv }, { hi := 11, lo := 8, acc := .ro }, { hi := 31, lo := 12, acc := .rsv }] },
  { name := "DV_HURDLE", off := 0x105C,
    fields := [{ hi := 15, lo := 0, acc := .rw, rst := 0xFFFF }, { hi := 31, lo := 16, acc := .rsv }] },
  { name := "R_CTL", off := 0x1060, lock := .whileOn 0x1064 0x1,
    fields := [{ hi := 4, lo := 0, acc := .rw, rst := 0x4, ok := [(4, 16)] }, { hi := 7, lo := 5, acc := .rsv }, { hi := 12, lo := 8, acc := .rw, rst := 0x4, ok := [(4, 16)] }, { hi := 15, lo := 13, acc := .rsv }, { hi := 20, lo := 16, acc := .rw }, { hi := 31, lo := 21, acc := .rsv }] },
  { name := "R_EN", off := 0x1064,
    fields := [{ hi := 0, lo := 0, acc := .rw, en := true }, { hi := 1, lo := 1, acc := .ro, rst := 0x1 }, { hi := 31, lo := 2, acc := .rsv }] },
  { name := "R_RING_LO", off := 0x1068, lock := .whileOn 0x1064 0x1,
    fields := [{ hi := 31, lo := 0, acc := .rw }] },
  { name := "R_RING_HI", off := 0x106C, lock := .whileOn 0x1064 0x1,
    fields := [{ hi := 19, lo := 0, acc := .rw }, { hi := 31, lo := 20, acc := .rsv }] },
  { name := "R_CRING_LO", off := 0x1070, lock := .whileOn 0x1064 0x1,
    fields := [{ hi := 31, lo := 0, acc := .rw }] },
  { name := "R_CRING_HI", off := 0x1074, lock := .whileOn 0x1064 0x1,
    fields := [{ hi := 19, lo := 0, acc := .rw }, { hi := 31, lo := 20, acc := .rsv }] },
  { name := "R_VEC", off := 0x1078, lock := .whileOn 0x1064 0x1,
    fields := [{ hi := 10, lo := 0, acc := .rw }, { hi := 31, lo := 11, acc := .rsv }] },
  { name := "R_PI", off := 0x107C,
    fields := [{ hi := 31, lo := 0, acc := .ro }] },
  { name := "R_CI", off := 0x1080,
    fields := [{ hi := 31, lo := 0, acc := .ro }] },
  { name := "DV_APa_LO", off := 0x1100, count := 8, stride := 0x10, lock := .whileOn 0x1058 0x1, role := .lo,
    fields := [{ hi := 0, lo := 0, acc := .rw, en := true }, { hi := 1, lo := 1, acc := .rw }, { hi := 27, lo := 2, acc := .rsv }, { hi := 31, lo := 28, acc := .rw }] },
  { name := "DV_APa_LO_CPL", off := 0x1104, count := 8, stride := 0x10, lock := .whileOn 0x1058 0x1, role := .loCpl,
    fields := [{ hi := 31, lo := 0, acc := .rw, rst := 0xFFFFFFFF }] },
  { name := "DV_APa_HI", off := 0x1108, count := 8, stride := 0x10, lock := .whileOn 0x1058 0x1, role := .hi,
    fields := [{ hi := 31, lo := 0, acc := .rw }] },
  { name := "DV_APa_HI_CPL", off := 0x110C, count := 8, stride := 0x10, lock := .whileOn 0x1058 0x1, role := .hiCpl,
    fields := [{ hi := 31, lo := 0, acc := .rw, rst := 0xFFFFFFFF }] }]

/-- BELLWETHER (R359). -/
def bellwetherRegs : List RegDef := [
  { name := "BW_STATE", off := 0x1040,
    fields := [{ hi := 2, lo := 0, acc := .ro }, { hi := 31, lo := 3, acc := .rsv }] },
  { name := "BW_FW_VERSION", off := 0x1044,
    fields := [{ hi := 31, lo := 0, acc := .ro }] },
  { name := "BW_HEARTBEAT", off := 0x1048,
    fields := [{ hi := 31, lo := 0, acc := .ro }] },
  { name := "BW_MIGRATE", off := 0x104C,
    fields := [{ hi := 15, lo := 0, acc := .rw }, { hi := 16, lo := 16, acc := .wo }, { hi := 17, lo := 17, acc := .ro }, { hi := 19, lo := 18, acc := .ro }, { hi := 31, lo := 20, acc := .rsv }] }]

/-- BUS_PORT (R387). -/
def busRegs : List RegDef := [
  { name := "PX_CFG", off := 0x1040, lock := .whileOn 0x1044 0x1,
    fields := [{ hi := 0, lo := 0, acc := .ro }, { hi := 2, lo := 1, acc := .rw }, { hi := 5, lo := 3, acc := .rw, rst := 0x5, ok := [(0, 5)] }, { hi := 6, lo := 6, acc := .rw, en := true }, { hi := 31, lo := 7, acc := .rsv }] },
  { name := "PX_LINK_CTL", off := 0x1044,
    fields := [{ hi := 0, lo := 0, acc := .rw, en := true }, { hi := 1, lo := 1, acc := .wo }, { hi := 31, lo := 2, acc := .rsv }] },
  { name := "PX_LINK", off := 0x1048,
    fields := [{ hi := 3, lo := 0, acc := .ro }, { hi := 4, lo := 4, acc := .ro }, { hi := 7, lo := 5, acc := .ro }, { hi := 12, lo := 8, acc := .ro }, { hi := 13, lo := 13, acc := .ro }, { hi := 31, lo := 14, acc := .rsv }] },
  { name := "PX_CTO", off := 0x104C,
    fields := [{ hi := 10, lo := 0, acc := .rw, rst := 0xC8, ok := [(1, 1280)] }, { hi := 31, lo := 11, acc := .rsv }] },
  { name := "PX_L1", off := 0x1050,
    fields := [{ hi := 7, lo := 0, acc := .rw, rst := 0x10, ok := [(1, 255)] }, { hi := 8, lo := 8, acc := .rw, en := true }, { hi := 9, lo := 9, acc := .rw, en := true }, { hi := 10, lo := 10, acc := .rw, en := true }, { hi := 31, lo := 11, acc := .rsv }] },
  { name := "PX_ERRSTAT", off := 0x1054,
    fields := [{ hi := 0, lo := 0, acc := .w1c }, { hi := 1, lo := 1, acc := .w1c }, { hi := 2, lo := 2, acc := .w1c }, { hi := 3, lo := 3, acc := .w1c }, { hi := 4, lo := 4, acc := .w1c }, { hi := 31, lo := 5, acc := .rsv }] },
  { name := "PX_WSEL", off := 0x1058,
    fields := [{ hi := 3, lo := 0, acc := .rw }, { hi := 31, lo := 4, acc := .rsv }] },
  { name := "PX_WS_CFG", off := 0x105C,
    fields := [{ hi := 0, lo := 0, acc := .rw }, { hi := 3, lo := 1, acc := .rw, ok := [(0, 3)] }, { hi := 5, lo := 4, acc := .rw }, { hi := 7, lo := 6, acc := .rsv }, { hi := 9, lo := 8, acc := .rw }, { hi := 11, lo := 10, acc := .rw }, { hi := 31, lo := 12, acc := .rsv }] },
  { name := "PX_WS_BASE_LO", off := 0x1060,
    fields := [{ hi := 11, lo := 0, acc := .rsv }, { hi := 31, lo := 12, acc := .rw }] },
  { name := "PX_WS_BASE_HI", off := 0x1064,
    fields := [{ hi := 31, lo := 0, acc := .rw }] },
  { name := "PX_WS_LIMIT_LO", off := 0x1068,
    fields := [{ hi := 11, lo := 0, acc := .rsv }, { hi := 31, lo := 12, acc := .rw }] },
  { name := "PX_WS_LIMIT_HI", off := 0x106C,
    fields := [{ hi := 31, lo := 0, acc := .rw }] },
  { name := "PX_WS_XLAT_LO", off := 0x1070,
    fields := [{ hi := 31, lo := 0, acc := .rw }] },
  { name := "PX_WS_XLAT_HI", off := 0x1074,
    fields := [{ hi := 31, lo := 0, acc := .rw }] },
  { name := "PX_WCOMMIT", off := 0x1078, role := .x,
    fields := [{ hi := 3, lo := 0, acc := .rw }, { hi := 31, lo := 4, acc := .rsv }] },
  { name := "PX_WCOMMIT_CPL", off := 0x107C, role := .xCpl,
    fields := [{ hi := 31, lo := 0, acc := .rw, rst := 0xFFFFFFFF }] }]

/-- Instance management (R415). -/
def instRegs : List RegDef := [
  { name := "IM_SEL", off := 0x1040,
    fields := [{ hi := 15, lo := 0, acc := .rw }, { hi := 31, lo := 16, acc := .rsv }] },
  { name := "IM_CMD", off := 0x1044,
    fields := [{ hi := 3, lo := 0, acc := .rw, ok := [(0, 10)] }, { hi := 7, lo := 4, acc := .rsv }, { hi := 8, lo := 8, acc := .wo }, { hi := 9, lo := 9, acc := .ro }, { hi := 11, lo := 10, acc := .rsv }, { hi := 15, lo := 12, acc := .ro }, { hi := 31, lo := 16, acc := .rsv }] },
  { name := "IM_STATE", off := 0x1048,
    fields := [{ hi := 2, lo := 0, acc := .ro }, { hi := 3, lo := 3, acc := .ro }, { hi := 4, lo := 4, acc := .w1c }, { hi := 5, lo := 5, acc := .ro, rst := 0x1 }, { hi := 7, lo := 6, acc := .rsv }, { hi := 15, lo := 8, acc := .ro }, { hi := 31, lo := 16, acc := .rsv }] },
  { name := "IM_PASID", off := 0x104C,
    fields := [{ hi := 19, lo := 0, acc := .rw }, { hi := 31, lo := 20, acc := .rsv }] },
  { name := "IM_RSEL", off := 0x1050,
    fields := [{ hi := 3, lo := 0, acc := .rw, ok := [(0, 9)] }, { hi := 31, lo := 4, acc := .rsv }] },
  { name := "IM_RBASE", off := 0x1054,
    fields := [{ hi := 12, lo := 0, acc := .rw }, { hi := 31, lo := 13, acc := .rsv }] },
  { name := "IM_RCOUNT", off := 0x1058,
    fields := [{ hi := 13, lo := 0, acc := .rw, ok := [(0, 8192)] }, { hi := 31, lo := 14, acc := .rsv }] },
  { name := "IM_FLOWQ", off := 0x105C,
    fields := [{ hi := 20, lo := 0, acc := .rw, ok := [(0, 1048576)] }, { hi := 31, lo := 21, acc := .rsv }] },
  { name := "IM_BUF_LO", off := 0x1060,
    fields := [{ hi := 31, lo := 0, acc := .rw }] },
  { name := "IM_BUF_HI", off := 0x1064,
    fields := [{ hi := 31, lo := 0, acc := .rw }] },
  { name := "IM_BUF_LEN", off := 0x1068,
    fields := [{ hi := 19, lo := 0, acc := .rw }, { hi := 31, lo := 20, acc := .rsv }] },
  { name := "IM_BLOB_SIZE", off := 0x106C,
    fields := [{ hi := 31, lo := 0, acc := .ro }] },
  { name := "IM_DIRTY_LO", off := 0x1070,
    fields := [{ hi := 31, lo := 0, acc := .rw }] },
  { name := "IM_DIRTY_HI", off := 0x1074,
    fields := [{ hi := 31, lo := 0, acc := .rw }] },
  { name := "IM_DIRTY_PAGES", off := 0x1078,
    fields := [{ hi := 31, lo := 0, acc := .rw }] },
  { name := "IM_RLSEL", off := 0x107C,
    fields := [{ hi := 11, lo := 0, acc := .rw }, { hi := 31, lo := 12, acc := .rsv }] },
  { name := "IM_RLCFG", off := 0x1080,
    fields := [{ hi := 13, lo := 0, acc := .rw, ok := [(1, 8000)] }, { hi := 15, lo := 14, acc := .rsv }, { hi := 25, lo := 16, acc := .rw, ok := [(1, 1023)] }, { hi := 30, lo := 26, acc := .rsv }, { hi := 31, lo := 31, acc := .rw, en := true }] },
  { name := "IM_RLBIND", off := 0x1084,
    fields := [{ hi := 12, lo := 0, acc := .rw }, { hi := 15, lo := 13, acc := .rsv }, { hi := 16, lo := 16, acc := .rw }, { hi := 31, lo := 17, acc := .rsv }] },
  { name := "IM_ADM_CTL", off := 0x1088, lock := .whileOn 0x109C 0x1,
    fields := [{ hi := 4, lo := 0, acc := .rw, rst := 0x4, ok := [(4, 16)] }, { hi := 7, lo := 5, acc := .rsv }, { hi := 12, lo := 8, acc := .rw, rst := 0x4, ok := [(4, 16)] }, { hi := 15, lo := 13, acc := .rsv }, { hi := 26, lo := 16, acc := .rw }, { hi := 31, lo := 27, acc := .rsv }] },
  { name := "IM_ADM_RING_LO", off := 0x108C, lock := .whileOn 0x109C 0x1,
    fields := [{ hi := 31, lo := 0, acc := .rw }] },
  { name := "IM_ADM_RING_HI", off := 0x1090, lock := .whileOn 0x109C 0x1,
    fields := [{ hi := 19, lo := 0, acc := .rw }, { hi := 31, lo := 20, acc := .rsv }] },
  { name := "IM_ADM_CRING_LO", off := 0x1094, lock := .whileOn 0x109C 0x1,
    fields := [{ hi := 31, lo := 0, acc := .rw }] },
  { name := "IM_ADM_CRING_HI", off := 0x1098, lock := .whileOn 0x109C 0x1,
    fields := [{ hi := 19, lo := 0, acc := .rw }, { hi := 31, lo := 20, acc := .rsv }] },
  { name := "IM_ADM_EN", off := 0x109C,
    fields := [{ hi := 0, lo := 0, acc := .rw, en := true }, { hi := 1, lo := 1, acc := .ro, rst := 0x1 }, { hi := 31, lo := 2, acc := .rsv }] },
  { name := "IM_DB_DROPS", off := 0x10A0,
    fields := [{ hi := 31, lo := 0, acc := .rc }] }]

/-- The registers of a block, header included. -/
def regsOf (k : Kind) : List RegDef :=
  match k with
  | .core => coreRegs | .l3Slice => l3Regs | .package => packageRegs | .memCtrl => memRegs | .ethPort => ethRegs
  | .flowTable => flowRegs | .shears => shearsRegs | .droverCluster => droverRegs | .bellwether => bellwetherRegs
  | .busPort => busRegs | .instMgmt => instRegs | _ => []

/-- The register at a block offset of a list of definitions. -/
def findReg (l : List RegDef) (off : Nat) : Option RegDef :=
  l.find? fun r => decide (r.off ≤ off) && decide ((off - r.off) % r.stride = 0) && decide ((off - r.off) / r.stride < r.count)

/-- The register at a block offset of a block of a kind. -/
def regAt (k : Kind) (off : Nat) : Option RegDef :=
  if off < 0x1040 then findReg headerRegs off else findReg (regsOf k) off

/-- The reset value of a register. -/
def RegDef.reset (r : RegDef) : Word := r.fields.foldl (fun w f => setFld w f.hi f.lo f.rst) 0

/-- Every field is RO or RSV (R52); a doorbell or RC count is treated as read-only data (R52: RC writes as RO). -/
def RegDef.readOnly (r : RegDef) : Bool := r.fields.all fun f => f.acc = .ro || f.acc = .rsv || f.acc = .rc

end Sys2Proof.Machine
end

