-- ==== Sys2Proof/Machine/Fabric.lean ====
section
/-! DEFINITION. Records of the control model, the error banks, the caches and homes, the mesh and the memory
controllers: parts of State (R31-R79, R147-R222, R223-R259, R417-R423). -/

namespace Sys2Proof.Machine

/-- What a Unit Descriptor stores for one unit beside its fixed words (R34, R36). -/
structure UnitSt where
  /-- UD_ERR_SUMMARY[4:0] of a leaf; of a group, its own records (R34). -/
  err      : BitVec 5 := 0
  req      : BitVec 2 := 0
  cur      : BitVec 2 := 2
  busy     : Bool := false
  initDone : Bool := false
  /-- UD_POWER_CTL.OPP of a fold (R36). -/
  opp      : Nat := 0
  /-- State that a transition in progress ends in (R37). -/
  target   : BitVec 2 := 0
deriving DecidableEq, Repr

/-- The summary words of a group as its ancestors' readers see them, which follow the leaves (R33, R34, R36, R41). -/
structure GroupSum where
  status : Word := 0
  err    : Word := 0xFF00#32
  cur    : BitVec 2 := 2
deriving DecidableEq, Repr

/-- LAST_ERR and LAST_ERR_OFFSET of a block (R54). -/
structure LastErr where
  code   : Nat := 0
  count  : Nat := 0
  offset : Word := 0
deriving DecidableEq, Repr

/-- The mailbox of a block (R54, R66-R68). -/
structure Mbox where
  sel   : Nat := 0
  valid : Bool := false
  pend  : Bool := false
  seq   : Nat := 0
  data  : BitVec 128 := 0
deriving DecidableEq, Repr

/-- Registers of every block and the state that the control model keeps beside them (R48-R69). -/
structure Ctl where
  /-- Registers by key, where they differ from their reset value or were written. -/
  regs    : Sparse Word := []
  /-- Pending value of a complement pair, by the key of X, X_LO or X_HI (R59). -/
  pend    : Sparse Word := []
  /-- Armed low half of a 64-bit critical value, by the key of X_LO (R60). -/
  armed   : Sparse Word := []
  /-- Registers with an outstanding parity fault (R63). -/
  faulted : NatSet := []
  last    : Sparse LastErr := []
  mbox    : Sparse Mbox := []
deriving DecidableEq, Repr

/-- Error classes, lowest first (R417). -/
inductive ErrClass where
  | corrected | deferred | uncorrected | fatal
deriving DecidableEq, Repr

def ErrClass.rank : ErrClass → Nat
  | .corrected => 0 | .deferred => 1 | .uncorrected => 2 | .fatal => 3

/-- One error record: its registers and the order in which it was written (R418, R420, R421). -/
structure ErrRec where
  /-- Reset: ELSE and CECE 1, CE and UED low priority, UEC high priority (R438; bit places log 17). -/
  control : DWord := 0x97#64
  status  : DWord := 0
  addr    : DWord := 0
  info    : DWord := 0
  suppl   : DWord := 0
  time    : DWord := 0
  /-- Order of writing, for "oldest" and "newest" of R421. -/
  order   : Nat := 0
deriving DecidableEq, Repr

/-- L2 states; I is no entry (R148). -/
inductive L2State where
  | m | o | e | s
deriving DecidableEq, Repr

/-- One L2 line; the presence bits stand for the L1 copies, whose dirty data is held here (R149; log 11). -/
structure L2Line where
  line   : Nat
  st     : L2State
  data   : Line := 0
  poison : Bool := false
  l1i    : Bool := false
  l1d    : Bool := false
deriving DecidableEq, Repr

/-- A writeback buffer entry of an L2 (R165, R166); `sent` when its Put has left (R158). -/
structure WbEnt where
  line    : Nat
  st      : L2State
  data    : Line
  poison  : Bool
  sent    : Bool
  keep    : Bool := false
  discard : Bool := false
deriving DecidableEq, Repr

/-- An outstanding request of an L2 (R93, R149, R163). -/
structure L2Req where
  line    : Nat
  kind    : MsgKind
  ifetch  : Bool := false
  maint   : Maint := .none
  gotData : Bool := false
  waitCmp : Bool := false
  gotCmp  : Bool := false
  /-- The request of a cbo.zero (R117). -/
  zero    : Bool := false
deriving DecidableEq, Repr

/-- Power and service state of a physical core (R118-R121, R426, R427, R488). -/
inductive CorePower where
  | off | poweringUp | run | rest | waking
deriving DecidableEq, Repr

/-- A set-and-way maintenance operation in progress (R174, R352). -/
structure MaintSt where
  op   : Nat
  pos  : MaintPos
  /-- The first position that a visit has still to reach, by ways x set + way. -/
  next : Nat := 0
deriving DecidableEq, Repr

/-- An L1 cache (R147): the line of each filled way, by 16 x set + way, and the tree pseudo-LRU bits of each set. The data
of its lines stands in the L2's record of them (log 11). -/
structure L1 where
  ways : Sparse Nat := []
  tree : Sparse Nat := []
deriving DecidableEq, Repr

/-- One physical core with its L1s and L2 (R33, R40, R147-R149). -/
structure Core where
  enabled   : Bool := false
  spare     : Bool := false
  retired   : Bool := false
  hartId    : Nat := 0
  hartValid : Bool := false
  power     : CorePower := .off
  /-- By 16 x set + way. -/
  l2        : Sparse L2Line := []
  /-- Tree pseudo-LRU bits of the L2, by set (R147; log 14). -/
  l2tree    : Sparse Nat := []
  l1i       : L1 := {}
  l1d       : L1 := {}
  /-- Data taken from the mesh that the L2 cannot place yet (R122, R157). -/
  fills     : List Msg := []
  wb        : List WbEnt := []
  reqs      : List L2Req := []
  /-- Snoops held against a reservation (R116). -/
  heldSnp   : List Msg := []
  maint     : Option MaintSt := none
  /-- The core empties its L2 before it is retired (R172, R427). -/
  retiring  : Bool := false
  /-- A granted current ramp of the core (R475, R476): announced or quiet, started or not, and its start in mtime. -/
  ramp      : Option RampKind := none
  rampAnn   : Bool := false
  rampOn    : Bool := false
  rampAt    : Nat := 0
  /-- mtime of the last wake event of Rest (R487). -/
  wakeAt    : Nat := 0
  /-- The answer to an uncached access, until its instruction takes it (R102, R170). -/
  nc        : Option Msg := none
  /-- mtime of the residue faults of the last second (R425). -/
  residue   : List Nat := []
deriving DecidableEq, Repr

/-- An L3 way (R178, R517). -/
structure L3Line where
  line   : Nat
  dirty  : Bool
  pen    : Bool := false
  clos   : Nat := 0
  poison : Bool := false
  data   : Line := 0
deriving DecidableEq, Repr

/-- Directory states; Uncached is no entry (R152). -/
inductive DirState where
  | shared | exclusive | owned
deriving DecidableEq, Repr

/-- A directory entry (R153, R154): with vec = false the holders in the order added, owner of an Owned line first; with
vec = true the owner alone, if any. -/
structure DirEnt where
  line  : Nat
  st    : DirState
  vec   : Bool := false
  ptrs  : List Nat
  folds : BitVec 20 := 0
  /-- Order of last use (R147: LRU). -/
  lru   : Nat := 0
deriving DecidableEq, Repr

/-- What a tracker entry waits for (R155, R161, R184, R194). -/
inductive Stage where
  /-- Every way of the directory set holds a blocked line (R155). -/
  | waitDir
  /-- A victim is being recalled (R155). -/
  | recall (victim : Nat)
  /-- Every resident pen is in a transaction, or every spilled line is blocked (R194). -/
  | waitPen
  /-- Holders are being removed or cleaned before the request's own effect (R169, R171, R173). -/
  | remove
  /-- Granted: Ack and snoop answers outstanding (R162, R163). -/
  | grant
  /-- The WbData of a Put or of an NcWr is outstanding (R161, R165, R169). -/
  | data
  /-- A stash's Ack is outstanding (R169). -/
  | stash
  /-- A spilled line is being read back, or waits for a Close entry, before the request's own effect (R187, R194). -/
  | waitClose
  /-- The value of a line that opens is outstanding (R184). -/
  | penRead
  /-- The old data of a partial write is outstanding (R169). -/
  | fetch
deriving DecidableEq, Repr

/-- A tracker entry (R159). -/
structure Txn where
  line    : Nat
  req     : Msg
  /-- 0 general, 1 reserved for Puts, 2 reserved for Close (R159). -/
  pool    : Nat := 0
  stage   : Stage
  /-- Cores whose SnpNoData or WbData is awaited. -/
  await   : List Nat := []
  needAck : Bool := false
  /-- A Cmp is due to the requester when the last answer arrives (R162). -/
  cmpDue  : Bool := false
  /-- Dirty data that a holder returned. -/
  got     : Option (Line × Bool) := none
  /-- The WbData of an NcWr, in the entry's data buffer (R159). -/
  wb      : Option Msg := none
deriving DecidableEq, Repr

/-- Pen states (R202). -/
inductive PenState where
  | opening | opened | leaving
deriving DecidableEq, Repr

/-- One element of an accumulator: the two's-complement integer, and the four state bits (R183). The integer modes hold
their value in `acc`. -/
structure PenElem where
  acc  : Int := 0
  qnan : Bool := false
  snan : Bool := false
  pinf : Bool := false
  ninf : Bool := false
  zneg : Bool := false
deriving DecidableEq, Repr

/-- An open line: its accumulators, count and flags, resident or spilled (R181-R183, R190, R193). -/
structure Pen where
  line   : Nat
  mode   : RedMode
  elems  : List PenElem
  cnt    : Nat := 0
  nv     : Bool := false
  poison : Bool := false
  clos   : Nat := 0
  /-- Order of the last contribution (R194). -/
  last   : Nat := 0
  st     : PenState := .opened
deriving DecidableEq, Repr

/-- Causes of a close (R187). -/
inductive CloseBy where
  | access | rclose | otherMode | drain | early
deriving DecidableEq, Repr

/-- What an entry reserved for Close does (R159, R185, R194): a resident pen goes to a slot; a slot is read for a close, or for
a refill into a pen that it has taken; or a slot is read into the slice's swap buffer, where its line then waits while the pen that
it takes goes to the slot it left. -/
inductive CloseKind where
  | spill
  | close (by_ : CloseBy)
  | refill
  | exchange (held : Option Pen)
deriving DecidableEq, Repr

/-- A tracker entry reserved for Close (R159, R194). -/
structure CloseOp where
  kind : CloseKind
  /-- The open line that is spilled, closed or refilled. -/
  line : Nat
  slot : Nat
  /-- The pen that is spilled, or that a refill has taken. -/
  pen  : Nat := 0
  /-- Lines of the slot whose WbAck or Data is still out. -/
  left : List Nat := []
  /-- The slot's lines that have come. -/
  got  : Sparse (Line × Bool) := []
  /-- The line whose transaction goes on afterwards. -/
  next : Option Nat := none
deriving DecidableEq, Repr

/-- A write of a home to memory, until its WbAck (R156, R157). -/
structure MemWr where
  line   : Nat
  data   : Line
  poison : Bool
  sent   : Bool := false
deriving DecidableEq, Repr

/-- A home: L3 slice, directory, tracker and pens (R147, R153, R159-R161, R181, R193). -/
structure Home where
  /-- By 32 x set + way. -/
  l3     : Sparse L3Line := []
  /-- Tree pseudo-LRU bits of the L3, by set (R147; log 14). -/
  l3tree : Sparse Nat := []
  dir    : Sparse DirEnt := []
  txns   : List Txn := []
  /-- Wait queues by line, oldest first (R161). -/
  waitq  : Sparse (List Msg) := []
  /-- Port entries, oldest first (R160). -/
  ports  : List (Nat × Msg) := []
  /-- Port of the last winner (R160). -/
  rr     : Nat := 5
  /-- Writeback slots, by physical core (R157). -/
  slots  : Sparse Msg := []
  /-- Resident pens by number 0-31, and those not OPEN (R202). -/
  pens   : Sparse Pen := []
  /-- Spilled lines by slot of the slice's share, oldest spill first (R193, R194). -/
  spill  : List (Nat × Pen) := []
  /-- The entries reserved for Close in use, at most four (R159). -/
  closes : List CloseOp := []
  /-- Writes to memory that no WbAck has answered, oldest first (R157). -/
  mwr    : List MemWr := []
  /-- Lines that a DRAIN still has to close (R201, R203). -/
  drain  : List Nat := []
  clock  : Nat := 0
  recalls : DWord := 0
  stale   : DWord := 0
  maint  : Option MaintSt := none
deriving DecidableEq, Repr

/-- A mesh link's error state (R211, R221, R434). -/
structure LinkSt where
  /-- mtime of the flits retried in the last millisecond. -/
  retries  : List Nat := []
  spared   : Nat := 0
  /-- mtime at which the pause of wire sparing ends. -/
  pause    : Nat := 0
  /-- The link is to be retired once the messages in flight to its stop are delivered. -/
  retiring : Bool := false
  down     : Bool := false
deriving DecidableEq, Repr

/-- A flit in a router (R206, R208, R215): its number in its message; the stop of the path in whose input buffer it is, or to
which it is on its way; its VC there; and the mc from which it may leave. -/
structure Flit where
  idx   : Nat
  hop   : Nat
  vc    : Nat
  ready : Nat
deriving DecidableEq, Repr

/-- A message's way through the routers (R206, R210): its path by stops, the VC that its head took at each, its flits that have
left the source, those in routers, and those that have left the mesh. -/
structure Worm where
  msg   : Msg
  path  : List (Nat × Nat)
  vcs   : List Nat := []
  sent  : Nat := 0
  done  : Nat := 0
  flits : List Flit := []
deriving DecidableEq, Repr

/-- What an interface between an agent and its stop sees in one mc (R466): the stop, the agent's code, the counter of a Tally bank
that it moves, and the mc. -/
structure FlitSeen where
  pos   : Nat × Nat
  agent : Nat
  ctr   : Nat
  at_   : Nat
deriving DecidableEq, Repr

/-- The routers of the four networks (R204-R218). -/
structure MeshNet where
  /-- Mc counted while some message is in the mesh. -/
  now   : Nat := 0
  /-- Oldest first. -/
  worms : List Worm := []
  /-- Last winner of each output and each local port, by its key (R216). -/
  last  : Sparse Nat := []
  /-- Credits on their way back: the buffer's key and the mc in which they arrive (R215). -/
  owed  : List (Nat × Nat) := []
  /-- What the agents' interfaces saw in the last tick (R466). -/
  seen  : List FlitSeen := []
deriving DecidableEq, Repr

/-- A request that waits in a bank queue or the admission buffer (R236). -/
structure McReq where
  msg  : Msg
  /-- Channel-local line number (R234). -/
  loc  : Nat
  errs : List Nat := []
deriving DecidableEq, Repr

/-- A line in a write buffer (R238): physical rank, rank-local index, data. -/
structure McWr where
  rank   : Nat
  idx    : Nat
  data   : Line
  poison : Bool
deriving DecidableEq, Repr

/-- Error counts of a physical rank (R259). -/
structure RankCnt where
  period : Nat := 0
  ce     : Nat := 0
  ue     : Nat := 0
  /-- CA parity retries in a row (R246). -/
  cap    : Nat := 0
deriving DecidableEq, Repr

/-- One memory controller (R236-R259). -/
structure Mc where
  /-- Physical rank of each logical rank; the even rank of a pair on an MRDIMM (R225). -/
  logical  : List Nat := []
  /-- Admission buffer: reads that no bank queue has taken, oldest first; eight entries for each home (R157, R236). -/
  adm      : List McReq := []
  /-- Bank queues as one list, oldest first; eight requests for each bank (R236). -/
  queue    : List McReq := []
  /-- Writes admitted whose WbData is still to come, and WbData that came first (R157, R238). -/
  puts     : List Msg := []
  wbd      : List Msg := []
  /-- The rank in a retraining pause, and the mtime of the pause's end (R245). -/
  pause    : Option (Nat × Nat) := none
  /-- Retirement triggers that have occurred in READY (R250). -/
  trig     : List (Nat × RetCause) := []
  /-- Write buffers of subchannels A and B, oldest first (R238). -/
  wbufA    : List McWr := []
  wbufB    : List McWr := []
  drainA   : Bool := false
  drainB   : Bool := false
  /-- Bank after which the rotating pick starts, per subchannel (R237). -/
  lastA    : Nat := 0
  lastB    : Nat := 0
  /-- Pending DRFM samples, by 4 x physical rank + bank index (R242). -/
  sampled  : NatSet := []
  seedA    : Word := 0
  seedB    : Word := 0
  drfm     : DWord := 0
  /-- Blast radius, in rows to each side, of the last DRFMsb (R241). -/
  drfmBrc  : Nat := 0
  acts     : DWord := 0
  refIdx   : Sparse Nat := []
  ranks    : Sparse RankCnt := []
  patrol   : Nat := 0
  passes   : Nat := 0
  /-- PERIOD as the present pass uses it (R258). -/
  period   : Nat := 24
  cp       : Nat := 0
  poisoned : Nat := 0
  notices  : Nat := 0
  lastCe   : BitVec 48 := 0
  /-- Standing device errors of a stored line, by line key (R227, R442); an entry above 9 is a wrong address (R226). -/
  bad      : Sparse (List Nat) := []
deriving DecidableEq, Repr

end Sys2Proof.Machine
end

