-- ==== Sys2Proof/Machine/HartState.lean ====
section
/-! DEFINITION. The records of a hart: registers, CSRs, store buffer, translation and run state (R80-R125, R444-R461). -/

namespace Sys2Proof.Machine

/-- Privilege levels of the privileged ISA. -/
inductive Priv where
  | u | s | m
deriving DecidableEq, Repr

def Priv.code : Priv → Nat
  | .u => 0 | .s => 1 | .m => 3

/-- Run state of a hart (R118-R121, R426, R427, R491). -/
inductive RunState where
  /-- No hart has been released (R491). -/
  | off
  | running
  /-- WFI stall with clocks gated (R118). -/
  | wfi
  | rest
  /-- Between the wake event and the first instruction after WFI (R120); true when a debug halt request woke it. -/
  | waking (dbg : Bool)
  | debug
  /-- Stopped until reset (R426). -/
  | stopped
  /-- Halted before the failing instruction while it migrates (R427). -/
  | migrating (toCore : Nat)
deriving DecidableEq, Repr

/-- What a store-buffer entry holds (R87, R104). -/
inductive SbKind where
  | scalar
  | vector
  /-- A store to a page of Svpbmt type NC (R102, R170). -/
  | nc
  /-- A store to a page of Svpbmt type IO (R102, R105, R170). -/
  | io
  /-- An entry of a reduction or of mol.rclose (R87). -/
  | red
deriving DecidableEq, Repr

/-- A store-buffer entry (R104): the bytes at a physical address. `wrong` marks a wrong-path entry (R101), `sent` a
reduction whose RedOp has left, `pair` an entry that commits with the next one (R87, R109). -/
structure SbEnt where
  kind  : SbKind
  pa    : Nat
  bytes : List Byte
  wrong : Bool := false
  sent  : Bool := false
  pair  : Bool := false
  /-- Carried by a hart migration: it commits before the spare fetches (R427). -/
  moved : Bool := false
  mode  : RedMode := .f64Add
  red   : RedKind := .contrib
deriving DecidableEq, Repr

/-- A load that has been performed ahead of program order (R107, R113): its pc, itself, its addresses and its bytes; `lost`
once an Inval or FwdOwn has reached one of its lines. -/
structure EarlyLoad where
  pc    : DWord
  op    : LoadOp
  va    : Nat
  spans : List (Nat × Nat)
  bytes : List Byte
  hit   : Bool
  lost  : Bool := false
deriving DecidableEq, Repr

/-- The last control transfer that retired (R99). -/
inductive CfKind where
  | jal | jalr
  | branch (taken : Bool)
deriving DecidableEq, Repr

/-- A load held under R106. -/
inductive HeldLoad where
  | scalar (op : LoadOp) (va : Nat)
  | vector (op : VMemOp)
deriving DecidableEq, Repr

/-- Kinds of access for translation and its exceptions. -/
inductive Access where
  | fetch | load | store
deriving DecidableEq, Repr

/-- A page walk that an access waits for (R103); `wrong` for a wrong-path walk. -/
structure Walk where
  va    : Nat
  acc   : Access
  wrong : Bool := false
  /-- The access of a cache-block management operation: allowed as a load, and its faults are those of a store. -/
  cbo   : Bool := false
  /-- HLV and HSV: the privilege of the guest's access; `exec` for HLVX, which needs X in place of R. -/
  guest : Option Priv := none
  exec  : Bool := false
deriving DecidableEq, Repr

/-- Page memory types of Svpbmt (R102). -/
inductive MemType where
  | pma | nc | io
deriving DecidableEq, Repr

/-- A TLB entry (R125): page base and size as powers of two, permissions of both stages combined. -/
structure TlbEnt where
  asid   : Nat
  vmid   : Nat
  virt   : Bool
  global : Bool
  vpn    : Nat
  /-- log2 of the page size in bytes. -/
  size   : Nat
  pa     : Nat
  r      : Bool
  w      : Bool
  x      : Bool
  u      : Bool
  d      : Bool
  mt     : MemType
  /-- R and X of the G-stage leaf. -/
  gr     : Bool := true
  gx     : Bool := true
  /-- log2 of the first-stage and of the G-stage leaf's page, and the guest physical page: what fences match (R114). -/
  vsz    : Nat := 64
  gsz    : Nat := 64
  gpa    : Nat := 0
deriving DecidableEq, Repr

/-- A page-walk cache entry: a non-leaf PTE by its address (R93). -/
structure PwcEnt where
  asid : Nat
  vmid : Nat
  addr : Nat
  pte  : DWord
  /-- The stage walked, the address walked in it, and log2 of what the entry covers. -/
  virt  : Bool := false
  gst   : Bool := false
  va    : Nat := 0
  cover : Nat := 64
deriving DecidableEq, Repr

/-- Prediction and prefetcher state (R97, R98). Which entry an address takes in a table is the model's (log 81). -/
structure Pred where
  /-- Micro-BTB: pc and target by entry, 64. -/
  ubtb  : Sparse (DWord × DWord) := []
  /-- Main BTB: the up to 4 ways of each of 2,048 sets, latest first. -/
  btb   : Sparse (List (DWord × DWord)) := []
  /-- Base table: 16,384 two-bit counters. -/
  base  : Sparse Nat := []
  /-- Tagged tables: pc and counter by 2,048 x table + entry. -/
  tags  : Sparse (DWord × Nat) := []
  /-- Taken history, latest in the low bit, of up to 640 branches. -/
  hist  : Nat := 0
  /-- Indirect targets, 2,048, by pc and path. -/
  ind   : Sparse DWord := []
  ras   : List DWord := []
  /-- History and return address stack before the first wrong-path branch, for their repair (R97). -/
  saved : Option (Nat × List DWord) := none
  /-- Store-set entries of the memory-dependence predictor that hold a load linked to an older store (R107): 2,048. -/
  dep   : NatSet := []
  /-- Last line that trained a prefetcher (R98). -/
  train : NatSet := []
deriving DecidableEq, Repr

/-- One hart (R80-R125). -/
structure Hart where
  /-- The core that runs the hart (R26, R27). -/
  core  : Nat := 0
  x     : Sparse DWord := []
  f     : Sparse DWord := []
  v     : Sparse VReg := []
  pc    : DWord := 0
  priv  : Priv := .m
  virt  : Bool := false
  /-- CSRs by number, where written. -/
  csrs  : Sparse DWord := []
  run   : RunState := .off
  sb    : List SbEnt := []
  held  : Option HeldLoad := none
  walk  : Option Walk := none
  /-- A cache-block operation whose Cmp is awaited (R173). -/
  cbo   : Option Nat := none
  /-- A store to a page of type NC or IO has been issued and is awaited (R102, R170). -/
  ioSt  : Bool := false
  /-- Bytes of the first half of a split uncached load (R109). -/
  ncGot : List Byte := []
  /-- Store-buffer entries that a vector store too long for the buffer has entered already (R104). -/
  vst   : Nat := 0
  /-- Loads performed ahead of program order (R107, R113). -/
  early : List EarlyLoad := []
  /-- The last control transfer that retired (R99). -/
  cf    : Option CfKind := none
  /-- Last occupancy that each programmable counter saw (R449: RISE). -/
  occ   : Sparse Nat := []
  /-- ITLB, DTLB and L2 TLB (R93, R125), latest fill first. -/
  itlb  : List TlbEnt := []
  dtlb  : List TlbEnt := []
  tlb   : List TlbEnt := []
  pwc   : List PwcEnt := []
  /-- Reserved line (R116). -/
  resv  : Option Nat := none
  pred  : Pred := {}
  /-- Time of the last instruction in cc (log 5, log 7). -/
  lat   : Nat := 0
  /-- Sample records written and not yet acknowledged, oldest first (R458). -/
  tsFly : List SampleInfo := []
  /-- Instruction-side: the next fetch must be refetched (R96, R114). -/
  refetch : Bool := false
deriving DecidableEq, Repr

/-- One IMSIC interrupt file (R43, R81, R383): pending and enabled identities, threshold and delivery. -/
structure ImsicFile where
  pend     : BitVec 2048 := 0
  enabled  : BitVec 2048 := 0
  thr      : Nat := 0
  delivery : Nat := 0
deriving DecidableEq, Repr

end Sys2Proof.Machine
end

