-- ==== Sys2Proof/Machine/PowerState.lean ====
section
/-! DEFINITION. Records of lands, rails, clocks, operating points, boot and boot flash (R469-R510, R355-R359). -/

namespace Sys2Proof.Machine

/-- Why a fold's clock is stretched (R479, R482, R485), since when, and the counts of R500. -/
structure StretchSt where
  droop : Bool := false
  wake  : Bool := false
  clamp : Bool := false
  since : DWord := 0
  count : Nat := 0
  mc    : Nat := 0
deriving DecidableEq, Repr

/-- Last AVSBus reading of a rail, and its energy in nJ (R472, R500). -/
structure RailSt where
  mv : Nat := 0
  ma : Nat := 0
  nj : Nat := 0
deriving DecidableEq, Repr

/-- Lands and power state of the package (R475-R486, R502-R507). Reset: the PWRGOOD-low row of R504. -/
structure Power where
  pwrgood   : Bool := false
  /-- PROCHOT_N is asserted by the board. -/
  prochot   : Bool := false
  /-- PERST0_N is asserted by the host. -/
  perst0    : Bool := true
  /-- Every clock but the Bellwether clock runs (R486, R507). -/
  clocks    : Bool := false
  thermtrip : Bool := false
  errFatal  : Bool := false
  flashRst  : Bool := true
  /-- Channels whose DRAM_RESET_N is high. -/
  dramUp    : NatSet := []
  /-- Sub-links, by 4 x port + number, whose PXn_PERST_N is released. -/
  perstUp   : NatSet := []
  /-- Paddocks whose LOADCAST land is high. -/
  loadcast  : NatSet := []
  straps    : BitVec 5 := 0
  /-- VCORE of a paddock, by the OPP whose fused voltage it is (R480, R481). -/
  vcore     : Sparse Nat := []
  /-- Thermal ceiling of a paddock as steps below 3.6 GHz, and the package power ceiling (R484). -/
  thermal   : Sparse Nat := []
  plimit    : Nat := 0
  /-- Paddocks under the hardware clamp of a sensor (R485). -/
  clampT    : NatSet := []
  stretch   : Sparse StretchSt := []
  rails     : Sparse RailSt := []
  /-- Some die sensor reads below 0 °C (R510). -/
  cold      : Bool := false
deriving DecidableEq, Repr

/-- One entry of the boot status (R496, R497). -/
structure BootEntry where
  code   : Nat
  unit   : Nat
  detail : Nat
deriving DecidableEq, Repr

/-- Boot progress and the boot status (R491-R497), and the requests that wait for a Bellwether restart (R358). -/
structure Boot where
  copyB     : Bool := false
  entries   : List BootEntry := []
  msToRun   : Nat := 0
  lastPhase : Nat := 0
  /-- HART_LOAD and HART_ENTRY of the passing copy. -/
  load      : Nat := 0
  entry     : Nat := 0
  image     : Nat := 0
  digest    : BitVec 384 := 0
  /-- Ranks that each channel trained and their modules at the last cold boot, restored by a warm reset (R490). -/
  pops      : List ChanPop := []
  restart   : Bool := false
  waiting   : List Nat := []
  /-- The Bellwether controller is awake: VSTBY is good. -/
  standby   : Bool := false
deriving DecidableEq, Repr

/-- An adoption in the retirement list (R27). -/
structure CoreRet where
  core  : Nat
  spare : Nat
deriving DecidableEq, Repr

/-- A rank retirement in the retirement list (R255): its source rank, its spare, its cause and whether its copy is done. -/
structure RankRet where
  chan  : Nat
  rank  : Nat
  spare : Nat
  cause : RetCause
  done  : Bool
deriving DecidableEq, Repr

/-- An entry of the error log of the boot flash (R439, R486). -/
inductive LogEntry where
  | record (unit : Nat) (status addr info suppl time : DWord)
  | thermtrip
deriving DecidableEq, Repr

/-- What boot configuration supplies (R193, R225, R231): sizes, spare ranks, interleave sets. -/
structure BootCfg where
  spillLines : Nat := 32768
  /-- Address of the spill area. -/
  spillBase  : Nat := 0
  spares     : Sparse Nat := []
  /-- BASE, LIMIT, CFG, CHAN_LO and CHAN_HI of each set. -/
  msets      : Sparse (List Word) := []
deriving DecidableEq, Repr

/-- The boot flash (R492): its bytes, and the structured contents of the retirement list and error log. -/
structure Flash where
  bytes     : Memory := []
  cores     : List CoreRet := []
  ranks     : List RankRet := []
  log       : List LogEntry := []
  cfg       : BootCfg := {}
deriving DecidableEq, Repr

end Sys2Proof.Machine
end

