-- ==== Sys2Proof/Machine/BusState.lean ====
section
/-! DEFINITION. Records of the bus ports, the IOMMU, MSI-X, the rings and the instances (R70-R79, R360-R416). -/

namespace Sys2Proof.Machine

/-! Bus ports. -/

/-- Window types (R366). -/
inductive WinType where
  | outMem | outCfg | inDma | peer
deriving DecidableEq, Repr

/-- An active window (R366, R368). -/
structure Window where
  en    : Bool := false
  type  : WinType := .outMem
  sub   : Nat := 0
  pport : Nat := 0
  psub  : Nat := 0
  base  : Nat := 0
  limit : Nat := 0
  xlat  : Nat := 0
  /-- The active PX_WS_CFG value (R390). -/
  cfg   : Word := 0
deriving DecidableEq, Repr

/-- Kinds of TLPs that leave a sub-link, CXL.mem requests among them (R366, R377). -/
inductive TlpKind where
  | memWrite | memRead | cfgRead0 | cfgRead1 | cfgWrite0 | cfgWrite1 | cxlRead | cxlWrite | cpl | unsupported | msg
deriving DecidableEq, Repr

/-- A TLP or CXL.mem request handed to a sub-link's wire. -/
structure TlpOut where
  sub   : Nat
  kind  : TlpKind
  addr  : Nat
  bytes : List Byte := []
  len   : Nat := 0
  tag   : Nat := 0
  rid   : Nat := 0
  pasid : Option Nat := none
  ep    : Bool := false
deriving DecidableEq, Repr

/-- Who waits for a non-posted request's completion (R372). -/
inductive NpFor where
  /-- A message at the port: an NcRd or NcWr of a hart, or a home's RdOnce or PutDirty to CXL memory. -/
  | mesh (m : Msg)
  /-- A read forwarded for a peer: its port, sub-link, requester and tag. -/
  | peer (port sub rid tag : Nat)
deriving DecidableEq, Repr

/-- An outstanding non-posted request of a sub-link (R372, R373). -/
structure NpReq where
  sub : Nat
  tag : Nat
  who : NpFor
  len : Nat := 0
  /-- A read of the Vendor ID in an OUT_CFG window (R367). -/
  vid : Bool := false
deriving DecidableEq, Repr

/-- A sub-link (R362, R374, R375, R390). L1: 0 none, 1 L1, 2 L1.1, 3 L1.2. -/
structure Sub where
  up      : Bool := false
  width   : Nat := 0
  speed   : Nat := 0
  l1      : Nat := 0
  l1Count : Nat := 0
  cto     : Nat := 0
  unexp   : Nat := 0
  epRx    : Nat := 0
  discard : Nat := 0
  nextTag : Nat := 0
  /-- Posted TLPs that wait for the link (R374, R375). -/
  waiting : List TlpOut := []
deriving DecidableEq, Repr

/-- A bus port (R360-R390). -/
structure Px where
  wins : Sparse Window := []
  subs : Sparse Sub := []
  np   : List NpReq := []
  /-- Quarantined tags by sub-link and tag (R373). -/
  quar : List (Nat × Nat) := []
  sent : List TlpOut := []
  /-- WbData of homes' writes to CXL memory, until their PutDirty is taken (R157). -/
  wbd  : List Msg := []
  /-- Capacity of the CXL Type 3 device in lines, once CXL.mem is active (R376). -/
  cap  : Nat := 0
  /-- AER Uncorrectable Error Status of the function on PX0 (R372, R373; bits of PCIe: 14 Completion Timeout, 16 Unexpected
  Completion; log 19). -/
  aer  : Word := 0
deriving DecidableEq, Repr

/-- A translation held in an IOTLB: agent 0-3 a port, 4 the function (R386). -/
structure IoTlbEnt where
  agent : Nat
  dev   : Nat
  pasid : Option Nat
  vpn   : Nat
  size  : Nat
  pa    : Nat
  r     : Bool
  w     : Bool
deriving DecidableEq, Repr

/-- A device context that an agent holds: its eight words (R386). -/
structure DcEnt where
  agent : Nat
  dev   : Nat
  words : List Nat
deriving DecidableEq, Repr

/-- A process context that an agent holds: MODE and root of its first stage, none for Bare (R386). -/
structure PcEnt where
  agent : Nat
  dev   : Nat
  pasid : Option Nat
  root  : Option (Nat × Nat)
deriving DecidableEq, Repr

/-- The IOMMU (R384, R386): its register page by 32-bit words, the IOTLBs, and the contexts that its agents hold. -/
structure Iommu where
  regs : Sparse Word := []
  tlb  : List IoTlbEnt := []
  dcs  : List DcEnt := []
  pcs  : List PcEnt := []
deriving DecidableEq, Repr

/-! Functions and MSI-X. -/

/-- An MSI-X table entry: address, data, vector mask; reset masked (R382). -/
structure MsixEnt where
  addr : DWord := 0
  data : Word := 0
  mask : Bool := true
deriving DecidableEq, Repr

/-- A function's configuration bits and MSI-X structures, by IID (R382, R391, R403, R405). -/
structure Func where
  bme      : Bool := true
  msixEn   : Bool := false
  fmask    : Bool := false
  table    : Sparse MsixEnt := []
  pba      : NatSet := []
  /-- The address in BAR0 and BAR1 (R379). -/
  bar      : DWord := 0
deriving DecidableEq, Repr

/-! Rings. -/

/-- A fetched descriptor (R70, R73): its fetch index, its slots and its bytes; what its checks found; whether its data
movement has started; its counts so far, and whether it has completed. -/
structure Desc where
  idx      : Nat
  slots    : Nat := 1
  bytes    : List Byte
  /-- CMPL or IRQ, and IRQ, of a header that passed step 1 of R73. -/
  cmpl     : Bool := false
  irq      : Bool := false
  started  : Bool := false
  consumed : Nat := 0
  produced : Nat := 0
  info     : Nat := 0
  fin      : Option Nat := none
  /-- Taken by mol.dget (R348). -/
  taken    : Bool := false
  /-- The lane has run the job's blocks, which wait to be written in order (R318). -/
  ready    : Bool := false
  poison   : Bool := false
  /-- Frames of a started transmit job that the MAC has not taken (R290, R291). -/
  left     : List (List Byte) := []
deriving DecidableEq, Repr

/-- A completion record that waits to be written (R77, R78). -/
structure CRec where
  status   : Nat
  idx      : Nat
  consumed : Nat := 0
  produced : Nat := 0
  info     : Nat := 0
  irq      : Bool := false
deriving DecidableEq, Repr

/-- A ring and its completion ring (R70, R75, R77, R407). -/
structure Ring where
  en       : Bool := false
  quiesced : Bool := true
  acc      : Nat := 0
  ci       : Nat := 0
  head     : Nat := 0
  wi       : Nat := 0
  descs    : List Desc := []
  /-- A record write failed: no further record is written (R407). -/
  failed   : Bool := false
  /-- Records held while Bus Master Enable is 0 (R405). -/
  held     : List CRec := []
deriving DecidableEq, Repr

/-! Instances. -/

/-- Instance states (R400). -/
inductive InstState where
  | absent | active | freezing | frozen | resetting | stopped
deriving DecidableEq, Repr

def InstState.code : InstState → Nat
  | .absent => 0 | .active => 1 | .freezing => 2 | .frozen => 3 | .resetting => 4 | .stopped => 5

/-- Dirty tracking of an instance (R412): the bitmap's IOVA, the tracked range. -/
structure Dirty where
  buf   : Nat
  base  : Nat
  pages : Nat
deriving DecidableEq, Repr

/-- An instance (R391-R416). -/
structure Inst where
  st     : InstState := .absent
  /-- State to return to when Bus Master Enable returns (R405). -/
  back   : InstState := .active
  /-- Base and count by KIND (R393). -/
  ranges : Sparse (Nat × Nat) := []
  quota  : Nat := 0
  pasid  : Nat := 0
  /-- A DESTROY ends ABSENT (R404). -/
  gone   : Bool := false
  dirty  : Option Dirty := none
deriving DecidableEq, Repr

/-- Key of a ring: its kind in the state blob's order (R410), and its number. -/
def ringKey : RingId → Nat
  | .rx q => q
  | .tx q => 2 ^ 16 + q
  | .sh e r => 2 * 2 ^ 16 + e * 2 ^ 12 + r
  | .dv d r => 3 * 2 ^ 16 + d * 2 ^ 12 + r
  | .adm i => 4 * 2 ^ 16 + i

end Sys2Proof.Machine
end

