-- ==== Sys2Proof/Machine/EngineState.lean ====
section
/-! DEFINITION. Records of the Ethernet ports, the flow table, the Shears engines, the drover clusters, the Tally banks
and hart migrations (R260-R354, R427, R462-R468). -/

namespace Sys2Proof.Machine

/-! Ethernet. -/

/-- A token bucket: tokens in bits, as of an mtime (R292, R300, R416). -/
structure Bucket where
  tokens : Int := 0
  last   : Nat := 0
deriving DecidableEq, Repr

/-- What a MAC has handed to the wire (R262, R291, R293). -/
inductive Wire where
  | frame (bytes : List Byte) (badFcs : Bool)
  /-- PFC with the priorities that are paused, or PAUSE as every priority. -/
  | pause (prios : BitVec 8) (xoff : Bool)
deriving DecidableEq, Repr

/-- A logical MAC: counts by 4 x ITEM + place (R301), paused priorities, and its deficit round robin in bytes (R290). -/
structure EthMac where
  cnt     : Sparse Nat := []
  paused  : BitVec 8 := 0
  cur     : Nat := 0
  deficit : Sparse Int := []
  wire    : List Wire := []
deriving DecidableEq, Repr

/-- A frame in the port buffer that waits for a descriptor, with what steering found (R292). -/
structure HeldFrame where
  q     : Nat
  mac   : Nat
  prio  : Nat
  bytes : List Byte
  dsize : Nat
  info  : Nat
deriving DecidableEq, Repr

/-- An Ethernet port (R260-R301). -/
structure EthPort where
  macs    : Sparse EthMac := []
  held    : List HeldFrame := []
  /-- Priorities for which XOFF was sent (R293). -/
  xoff    : BitVec 8 := 0
  /-- Rate-class buckets by class (R292). -/
  buckets : Sparse Bucket := []
deriving DecidableEq, Repr

/-- An address slot (R269). -/
structure AddrSlot where
  fam6 : Bool
  addr : BitVec 128
  vni  : Nat
  refs : Nat
deriving DecidableEq, Repr

/-- A flow entry as its fields (R270), and the instance whose quota it counts against (R404, R414). -/
structure FlowEnt where
  udp    : Bool
  src    : Nat
  dst    : Nat
  sport  : Nat
  dport  : Nat
  action : Nat
  owner  : Nat
deriving DecidableEq, Repr

/-- The flow table, address table and RSS contexts (R268-R273). -/
structure FlowTab where
  /-- By 8 x bucket + way. -/
  ents    : Sparse FlowEnt := []
  slots   : Sparse AddrSlot := []
  /-- By 512 x context + entry. -/
  rss     : Sparse Nat := []
  lookups : Nat := 0
  hits    : Nat := 0
  /-- Admin descriptors in the order of their fetch: instance and fetch index (R277). -/
  order   : List (Nat × Nat) := []
deriving DecidableEq, Repr

/-! Shears. -/

/-- A lane: the ring and fetch index of its work item, its counts, faults of its present work item, and whether it is
retired (R307, R334, R436). -/
structure Lane where
  job     : Option (Nat × Nat) := none
  cycles  : Nat := 0
  items   : Nat := 0
  faulted : Bool := false
  retired : Bool := false
deriving DecidableEq, Repr

/-- What a context area holds after OUT_FULL (R320, R321; log 33). -/
structure StreamCtx where
  iid    : Nat
  addr   : Nat
  comp   : Bool
  format : Nat
  level  : Nat
  log2   : Nat
  ratio  : Nat
  limit  : Nat
  /-- Unconsumed input that the resume must bring. -/
  left   : Nat
  /-- Input taken in so far, and output written so far. -/
  hist   : List Byte
  out    : Nat
  /-- SRC_LEN of the first descriptor. -/
  total  : Nat
  /-- The bytes written at the start of the context area: free values. -/
  tag    : List Byte
  poison : Bool := false
deriving DecidableEq, Repr

/-- A Shears engine (R306-R334). -/
structure Engine where
  lanes  : Sparse Lane := []
  cur    : Nat := 0
  credit : Nat := 0
  /-- Descriptors completed, and completed with a status other than OK, by ring. -/
  counts : Sparse (Nat × Nat) := []
  inB    : Nat := 0
  outB   : Nat := 0
deriving DecidableEq, Repr

/-! Drover clusters. -/

/-- A line of the cluster cache (R342). -/
structure DvLine where
  line : Nat
  data : Line
  lru  : Nat
deriving DecidableEq, Repr

/-- A prefetch-buffer entry; none while its fill is pending (R344). -/
structure DvPf where
  line : Nat
  data : Option Line
deriving DecidableEq, Repr

/-- A write-queue entry: the core that opened it, its line, its bytes, the T at which it opened, and whether it is
closed to further merges (R345). -/
structure DvWq where
  core   : Nat
  line   : Nat
  /-- IOVA of the line, for dirty tracking (R412). -/
  iova   : Nat
  data   : Line
  mask   : BitVec 64
  opened : Nat
  closed : Bool := false
deriving DecidableEq, Repr

/-- A pending aperture load (R343). -/
structure DvMiss where
  reg    : Nat
  pa     : Nat
  size   : Nat
  signed : Bool
deriving DecidableEq, Repr

/-- A drover core (R335-R350). IMEM and LDM are bytes from offset 0. -/
structure DvCore where
  run     : Bool := false
  halted  : Bool := false
  waiting : Bool := false
  cause   : Nat := 0
  pc      : Nat := 0
  x       : Sparse Word := []
  imem    : Memory := []
  ldm     : Memory := []
  instret : Nat := 0
  waits   : Nat := 0
  /-- Store queue, oldest first: physical address, IOVA and bytes. -/
  sq      : List (Nat × Nat × List Byte) := []
  /-- dvc at which the next instruction enters EX (R339), and the register that the last instruction loaded from LDM. -/
  now     : Nat := 0
  ldReg   : Nat := 0
  miss    : Option DvMiss := none
  /-- Inbox: ring and fetch index, oldest first. -/
  inbox   : List (Nat × Nat) := []
  /-- Loop-closing branch and its taken executions (R341). -/
  loop    : Option (Nat × Nat) := none
  /-- dvc of the slots in which its last stores drain, oldest first (R345). -/
  drains  : List Nat := []
  /-- The instruction at PC waits for something outside the core (R340). -/
  stalled : Bool := false
deriving DecidableEq, Repr

/-- A drover cluster (R335-R354). -/
structure Drover where
  t     : Nat := 0
  cores : Sparse DvCore := []
  /-- By 16 x set + way. -/
  cache : Sparse DvLine := []
  clock : Nat := 0
  pfb   : List DvPf := []
  wq    : List DvWq := []
  /-- Round-robin position over the rings of each core (R348). -/
  rr    : Sparse Nat := []
  maint : Option MaintSt := none
deriving DecidableEq, Repr

/-! Tally, migration, instance commands. -/

/-- An uncore Tally bank (R463-R467). -/
structure Bank where
  run  : Bool := false
  done : Bool := false
  c0   : DWord := 0
  c1   : DWord := 0
  c2   : DWord := 0
  c3   : DWord := 0
  /-- mtime at which a window ends. -/
  stop : Option Nat := none
deriving DecidableEq, Repr

/-- A hart migration in progress (R427): from a core to a spare; `moved` once the hart runs on the spare. -/
structure Mig where
  hart  : Nat
  old   : Nat
  new   : Nat
  moved : Bool := false
  /-- It serves BW_MIGRATE (R359). -/
  asked : Bool := false
  /-- Run state that the hart has on the spare: the WFI stall for a hart that waited there or in Rest (R359). -/
  back  : RunState := .running
deriving DecidableEq, Repr

end Sys2Proof.Machine
end

