-- ==== Sys2Proof/Machine/State.lean ====
section
/-! DEFINITION. The state of the machine. -/

namespace Sys2Proof.Machine

/-- What fuses fix (R2, R25, R31). -/
structure Fuses where
  /-- Enabled cores of the member: 192, 160 or 128. -/
  member  : Nat := 192
  /-- Ethernet ports: 2, 1 or 0. -/
  eth     : Nat := 2
  epCap   : Bool := true
  /-- Physical core indexes of the spares, two per paddock (R25). -/
  spares  : NatSet := [48, 49, 98, 99, 148, 149, 198, 199]
  /-- Physical core indexes that fuses turn off, where the member has fewer cores than silicon (R2). -/
  offCores : NatSet := []
  /-- Key hash and rollback count (R493). -/
  keyHash  : BitVec 384 := 0
  rollback : Nat := 0
deriving DecidableEq, Repr

/-- The device: every part of State but the queue of waiting commands. -/
structure Chip where
  fresh    : Nat := 0
  lastRead : DWord := 0
  fuse     : Fuses := {}
  mtime    : DWord := 0
  mt       : Nat := 0
  units    : Sparse UnitSt := []
  sums     : Sparse GroupSum := []
  ctl      : Ctl := {}
  /-- Error records by 4 x UNIT_ID + record (R418). -/
  errs     : Sparse ErrRec := []
  errSeq   : Nat := 0
  harts    : Sparse Hart := []
  cores    : Sparse Core := []
  homes    : Sparse Home := []
  mesh     : List Msg := []
  /-- The flits of those messages in the routers (R204-R218). -/
  net      : MeshNet := {}
  links    : Sparse LinkSt := []
  /-- The (4, 0) edge link is retired (R211). -/
  standby  : Bool := false
  mcs      : Sparse Mc := []
  /-- Spill area (R40, R193); 0 until boot step 6 (log 5). -/
  spillBase  : Nat := 0
  spillLines : Nat := 0
  mem      : Memory := []
  /-- Stored lines with the poison bit set, by line key (R228). -/
  poison   : NatSet := []
  /-- By 16 x hart ID + page (R43). -/
  imsic    : Sparse ImsicFile := []
  /-- MSIs dropped (R383). -/
  msiDrops : DWord := 0
  pwr      : Power := {}
  boot     : Boot := {}
  flash    : Flash := {}
  pxs      : Sparse Px := []
  iommu    : Iommu := {}
  /-- Functions by IID (R391). -/
  funcs    : Sparse Func := []
  /-- VF Enable and NumVFs of PF0 (R391). -/
  vfEnable : Bool := false
  numVfs   : Nat := 0
  rings    : Sparse Ring := []
  insts    : Sparse Inst := []
  /-- IM_CMD: the instance and OP of the command in progress, and RESULT of the last one (R401, R402). -/
  imBusy   : Option (Nat × Nat) := none
  imResult : Nat := 0
  eths     : Sparse EthPort := []
  flow     : FlowTab := {}
  /-- Rate-limiter buckets (R416). -/
  limiters : Sparse Bucket := []
  engines  : Sparse Engine := []
  ctxs     : List StreamCtx := []
  drovers  : Sparse Drover := []
  banks    : Sparse Bank := []
  migs     : List Mig := []
  /-- BW_MIGRATE.RESULT (R359). -/
  migRes   : Nat := 0
deriving DecidableEq, Repr

/-- What a command may name. -/
inductive Part where
  | hart | core | slice | channel | ethPort | mac | busPort | subLink | engine | lane | cluster | droverCore | fold | paddock
  | bank | rail | queue | mset | record | unit
deriving DecidableEq, Repr

/-- The state of the block: the device, and the commands that wait, oldest first. -/
structure State where
  pending : List Instr
  chip    : Chip
deriving DecidableEq, Repr

/-- Faults. -/
inductive Fault where
  /-- A command names a part that the device does not have (R2-R5, R26, R28): raised by the guard of each command. Safe:
  the manual gives such a command no meaning. -/
  | noSuchPart (p : Part) (n : Nat)
deriving DecidableEq, Repr

/-- Refusals. -/
inductive Refusal where
  /-- The command of a mnemonic has no meaning in this model: raised by the dispatcher. Safe. -/
  | notModelled (mnemonic : String)
deriving DecidableEq, Repr

/-- The device before standby power: PWRGOOD low, the lands as R504 gives them, PF0 the one instance (R394), every register
at its reset value (log 1, 2, 5). -/
def Chip.reset : Chip := { insts := [(0, { st := .active })] }

/-- The state right after reset: nothing commanded yet. -/
def State.reset : State := { pending := [], chip := Chip.reset }

end Sys2Proof.Machine
end

