-- ==== Sys2Proof/Machine/Ops.lean ====
section
/-! DEFINITION. The named operations over State that every command uses: records by number, registers, error records,
interrupt files, messages and free values. -/

namespace Sys2Proof.Machine

/-! Free values (log 9). -/

/-- The next free 64-bit value, and the state that has drawn it. -/
def Chip.draw (c : Chip) : DWord × Chip := (Config.fresh c.fresh, { c with fresh := c.fresh + 1 })

/-- A free choice among n > 0, and the state that has drawn it. -/
def Chip.pick (c : Chip) (n : Nat) : Nat × Chip := (Config.choose c.fresh % n, { c with fresh := c.fresh + 1 })

/-! Records by number. -/

def Chip.unit (c : Chip) (u : Nat) : UnitSt := Sparse.at c.units {} u
def Chip.modUnit (c : Chip) (u : Nat) (f : UnitSt → UnitSt) : Chip := { c with units := Sparse.upd c.units {} u f }
def Chip.hart (c : Chip) (h : Nat) : Hart := Sparse.at c.harts {} h
def Chip.modHart (c : Chip) (h : Nat) (f : Hart → Hart) : Chip := { c with harts := Sparse.upd c.harts {} h f }
def Chip.core (c : Chip) (n : Nat) : Core := Sparse.at c.cores {} n
def Chip.modCore (c : Chip) (n : Nat) (f : Core → Core) : Chip := { c with cores := Sparse.upd c.cores {} n f }
def Chip.home (c : Chip) (i : Nat) : Home := Sparse.at c.homes {} i
def Chip.modHome (c : Chip) (i : Nat) (f : Home → Home) : Chip := { c with homes := Sparse.upd c.homes {} i f }
def Chip.mc (c : Chip) (n : Nat) : Mc := Sparse.at c.mcs {} n
def Chip.modMc (c : Chip) (n : Nat) (f : Mc → Mc) : Chip := { c with mcs := Sparse.upd c.mcs {} n f }

/-! Presence (R2-R5, R33). -/

/-- Cores that fuses enable in a fold of a member, spares aside (R2). -/
def Fuses.quota (f : Fuses) (fold : Nat) : Nat :=
  if f.member = 160 then 8 else if f.member = 128 then (if fold % 5 = 4 then 4 else 7) else 10

/-- The cores that fuses enable in a fold and do not choose as spares: as many as the member has there, those that fuses do not
name as off before any other (R2, R25, R26). -/
def Fuses.enabledIn (f : Fuses) (fold : Nat) : List Nat :=
  let l := ((List.range 10).map (10 * fold + ·)).filter fun k => !f.spares.contains k
  ((l.filter fun k => !f.offCores.contains k) ++ l.filter fun k => f.offCores.contains k).take (f.quota fold)

/-- The core is fused off (R2, R4). -/
def Fuses.coreOff (f : Fuses) (k : Nat) : Bool := !f.spares.contains k && !(f.enabledIn (k / 10)).contains k

/-- The unit exists in this member (R4, R33: PRESENT); a group when a child does. -/
def Chip.present (c : Chip) (u : Nat) : Bool :=
  match kindOf u with
  | .core => !c.fuse.coreOff (coreOfUnit u)
  | .ethPort => decide (u - 21 < c.fuse.eth)
  | .flowTable => decide (0 < c.fuse.eth)
  | .instMgmt => true
  | _ => decide (u ≤ 512)

/-- Enabled harts, 4 x E (R2, R26). -/
def Chip.nHarts (c : Chip) : Nat := if c.fuse.member = 160 then 160 else if c.fuse.member = 128 then 128 else 192

/-! Registers. -/

/-- Key of a register: block, bank of a selected structure, block offset. -/
def regKey (u bank off : Nat) : Nat := (u * 2 ^ 20 + bank) * 2 ^ 28 + off

/-- The stored value of a register (R52), its reset value while nothing has written it. -/
def Chip.reg (c : Chip) (u bank off : Nat) : Word :=
  match Sparse.find c.ctl.regs (regKey u bank off) with
  | some w => w
  | none => match regAt (kindOf u) off with
    | some r => r.reset
    | none => 0

def Chip.setReg (c : Chip) (u bank off : Nat) (w : Word) : Chip :=
  { c with ctl := { c.ctl with regs := Sparse.put c.ctl.regs (regKey u bank off) w } }

/-- Bits hi:lo of a register. -/
def Chip.regFld (c : Chip) (u bank off hi lo : Nat) : Nat := fld (c.reg u bank off) hi lo

/-- A register with bits hi:lo replaced by the device itself. -/
def Chip.setRegFld (c : Chip) (u bank off hi lo v : Nat) : Chip :=
  c.setReg u bank off (setFld (c.reg u bank off) hi lo v)

/-- A register's field set to 1s by the device: sticky bits (R203). -/
def Chip.orReg (c : Chip) (u bank off : Nat) (m : Word) : Chip := c.setReg u bank off (c.reg u bank off ||| m)

/-- A 32-bit count incremented, saturating (R54, R201). -/
def Chip.countReg (c : Chip) (u bank off : Nat) (n : Nat := 1) : Chip :=
  c.setReg u bank off (BitVec.ofNat 32 (min (2 ^ 32 - 1) ((c.reg u bank off).toNat + n)))

/-- Registers of a block at their reset values: stored values, pending and armed halves, faults, LAST_ERR and mailbox
are lost (R61, R65, R37). -/
def Chip.resetBlock (c : Chip) (u : Nat) : Chip :=
  let mine (k : Nat) : Bool := k / 2 ^ 48 = u
  let n : Ctl := {
    regs := c.ctl.regs.filter fun e => !mine e.1,
    pend := c.ctl.pend.filter fun e => !mine e.1,
    armed := c.ctl.armed.filter fun e => !mine e.1,
    faulted := c.ctl.faulted.filter fun k => !mine k,
    last := Sparse.del c.ctl.last u,
    mbox := Sparse.del c.ctl.mbox u }
  { c with ctl := n }

/-- Registers with an outstanding parity fault in a block (R63). -/
def Chip.faultsOf (c : Chip) (u : Nat) : List Nat := c.ctl.faulted.filter fun k => k / 2 ^ 48 = u

/-- The block is in the Held state (R63, R65). -/
def Chip.held (c : Chip) (u : Nat) : Bool := !(c.faultsOf u).isEmpty

/-- The register holds a faulted value, which the hardware never uses (R63). -/
def Chip.faulty (c : Chip) (u bank off : Nat) : Bool := c.ctl.faulted.contains (regKey u bank off)

/-- A rejection or access error recorded in a block (R50, R51, R54): code, count saturating at 0xFF, and the
control-space offset of the access. -/
def Chip.recordErr (c : Chip) (u code : Nat) (offset : Word) : Chip :=
  let e := Sparse.at c.ctl.last {} u
  let n : LastErr := { code := code, count := min 255 (e.count + 1), offset := offset }
  { c with ctl := { c.ctl with last := Sparse.put c.ctl.last u n } }

/-- A dropped doorbell counted in DB_DROPS (R54, R75). -/
def Chip.dropDoorbell (c : Chip) (u : Nat) : Chip := c.countReg u 0 0x1014

/-- Rejection codes (R514). -/
def errBadOffset : Nat := 1
def errBadWidth : Nat := 2
def errBadValue : Nat := 3
def errPairMismatch : Nat := 4
def errLocked : Nat := 5
def errBusy : Nat := 6
def errHeld : Nat := 7
def errNotPresent : Nat := 8

/-! Interrupt files (R43, R383). -/

/-- An MSI of an identity recorded in a file page of a hart; identity 0 and identities above 2,047 are no interrupt. -/
def Chip.imsicSet (c : Chip) (h page id : Nat) : Chip :=
  if 0 < id ∧ id < 2048 ∧ page ≤ 8 ∧ h < c.nHarts then
    { c with imsic := Sparse.upd c.imsic {} (16 * h + page) fun f => { f with pend := f.pend ||| BitVec.twoPow 2048 id } }
  else { c with msiDrops := c.msiDrops + 1 }

/-- A message to the target that a register of the RAS_SIG_LO format names, when its EN is 1 and the register holds no
parity fault (R440, R468, R63). -/
def Chip.sigMessage (c : Chip) (off : Nat) : Chip :=
  if c.regFld 0 0 off 31 31 = 1 ∧ c.faulty 0 0 off = false then
    c.imsicSet (c.regFld 0 0 off 15 0) (c.regFld 0 0 off 27 27) (c.regFld 0 0 off 26 16)
  else c

/-! Error records (R417-R422). -/

/-- What an error record reports (R420). -/
structure ErrInfo where
  cls      : ErrClass
  struct   : Nat
  indexA   : Nat := 0
  indexB   : Nat := 0
  addr     : Nat := 0
  /-- Address type: 0 none, 1 SPA, 4 component-specific (R420; encodings of RERI, log 17). -/
  at_      : Nat := 0
  owner    : Nat := 0
  bits     : Nat := 0
  migrated : Bool := false
  injected : Bool := false
deriving DecidableEq, Repr

/-- RERI error code of a structure (R423; values of the RERI specification, log 17). -/
def reriCode (struct : Nat) : Nat :=
  match struct with
  | 0x01 => 3 | 0x02 => 3 | 0x03 => 5 | 0x04 => 9 | 0x05 => 12 | 0x06 => 18 | 0x07 => 3 | 0x08 => 5 | 0x09 => 3
  | 0x0A => 5 | 0x0B => 7 | 0x0C => 3 | 0x0D => 15 | 0x0E => 15 | 0x0F => 21 | 0x10 => 19 | 0x11 => 18 | 0x12 => 18
  | 0x13 => 18 | 0x14 => 18 | 0x15 => 18 | 0x16 => 3 | 0x17 => 28 | 0x18 => 18 | 0x19 => 17 | 0x1A => 2 | 0x1B => 1
  | 0x1C => 26 | 0x1D => 2 | _ => 0

/-- status_i of a new record: v, ce, ued, uec, mo, c, iv, at, siv, tsv, ec, cec (layout of RERI, log 17). -/
def mkStatus (e : ErrInfo) (mo : Bool) : DWord :=
  BitVec.ofNat 64 (1 + (match e.cls with | .corrected => 2 | .deferred => 4 | .uncorrected => 8 + 2 ^ 7 | .fatal => 8)
    + bit mo * 2 ^ 6 + 2 ^ 11 + e.at_ * 2 ^ 12 + 2 ^ 16 + 2 ^ 17 + reriCode e.struct * 2 ^ 24
    + (if e.cls = .corrected then 2 ^ 32 else 0))

def ErrRec.valid (r : ErrRec) : Bool := r.status.getLsbD 0

/-- Class of a valid record, from its severity bits (R417). -/
def ErrRec.cls (r : ErrRec) : ErrClass :=
  if r.status.getLsbD 3 then (if r.status.getLsbD 7 then .uncorrected else .fatal)
  else if r.status.getLsbD 2 then .deferred else .corrected

def ErrRec.migrated (r : ErrRec) : Bool := r.info.getLsbD 49
def ErrRec.struct (r : ErrRec) : Nat := fld r.info 23 16
def ErrRec.indexA (r : ErrRec) : Nat := fld r.info 31 24

def Chip.errRec (c : Chip) (u i : Nat) : ErrRec := Sparse.at c.errs {} (4 * u + i)
def Chip.setErrRec (c : Chip) (u i : Nat) (r : ErrRec) : Chip := { c with errs := Sparse.put c.errs (4 * u + i) r }

/-- ERR_FATAL_N asserts, as RAS_FATAL.ASSERTED shows (R439, R440). -/
def Chip.assertFatal (c : Chip) : Chip := ({ c with pwr := { c.pwr with errFatal := true } }).orReg 0 0 0x4008 1

/-- Signalling of a written record by its control_i (R438): NONE, LOW, HIGH or PLATFORM. A fatal record asserts ERR_FATAL_N
and sends the high-priority message whatever its encoding (R439). -/
def Chip.signalRec (c : Chip) (r : ErrRec) : Chip :=
  let enc := match r.cls with
    | .corrected => fld r.control 3 2
    | .deferred => fld r.control 5 4
    | .uncorrected => fld r.control 7 6
    | .fatal => 2
  let c := if r.cls = .fatal then c.assertFatal else c
  if enc = 1 then c.sigMessage 0x4000 else if enc = 2 then c.sigMessage 0x4004 else c

/-- The record i of a unit written with an error, its status last (R420, R422), and signalled (R438). -/
def Chip.writeRec (c : Chip) (u i : Nat) (e : ErrInfo) (mo : Bool) : Chip :=
  let old := c.errRec u i
  let r : ErrRec :=
    { control := old.control
      status := mkStatus e mo
      addr := BitVec.ofNat 64 e.addr
      info := BitVec.ofNat 64 (u + e.struct * 2 ^ 16 + e.indexA % 256 * 2 ^ 24 + e.indexB % 65536 * 2 ^ 32
        + bit e.injected * 2 ^ 48 + bit e.migrated * 2 ^ 49)
      suppl := BitVec.ofNat 64 (e.owner % 65536 + min 255 e.bits * 2 ^ 16)
      time := c.mtime
      order := c.errSeq }
  ({ c.setErrRec u i r with errSeq := c.errSeq + 1 }).signalRec r

/-- Index of the record that a key orders first among those that a test selects. -/
def bestRec (rs : List (Nat × ErrRec)) (p : ErrRec → Bool) (key : ErrRec → Nat) : Option Nat :=
  ((rs.filter fun e => p e.2).foldl (fun (b : Option (Nat × Nat)) e =>
    match b with
    | none => some (e.1, key e.2)
    | some (i, k) => if key e.2 < k then some (e.1, key e.2) else some (i, k)) none).map (·.1)

/-- UD_ERR_SUMMARY bits of a record: that of its class, and REGFAULT for a register fault (R34, R63). -/
def summaryBit (e : ErrInfo) : BitVec 5 :=
  match e.cls with
  | .corrected => 1 | .deferred => 2 | .uncorrected => if e.struct = 0x18 then 20 else 4 | .fatal => 8

/-- An error logged in a unit's bank by the first rule of R421 that applies; UD_ERR_SUMMARY sets whatever the rule. A
record slot whose ELSE bit is clear logs nothing (R438). -/
def Chip.logErr (c0 : Chip) (u : Nat) (e : ErrInfo) : Chip :=
  let c := c0.modUnit u fun x => { x with err := x.err ||| summaryBit e }
  let rs := (List.range 4).map fun i => (i, c.errRec u i)
  let rs := rs.filter fun r => r.2.control.getLsbD 0
  let vs := rs.filter fun r => r.2.valid
  let same (r : ErrRec) : Bool := decide (r.cls = .corrected) && decide (r.struct = e.struct)
    && decide (r.indexA = e.indexA % 256) && decide (r.addr = BitVec.ofNat 64 e.addr) && !r.migrated
  match (if e.cls = .corrected ∧ e.migrated = false then bestRec vs same (·.order) else none) with
  | some i =>
    let r := c.errRec u i
    if r.control.getLsbD 1 then
      c.setErrRec u i { r with status := setFld r.status 47 32 (min 65535 (fld r.status 47 32 + 1)) }
    else c
  | none =>
    match bestRec rs (fun r => !r.valid) (fun _ => 0) with
    | some i => c.writeRec u i e false
    | none =>
      match bestRec vs (fun r => decide (r.cls.rank < e.cls.rank)) (fun r => r.cls.rank * 2 ^ 64 + r.order) with
      | some i => c.writeRec u i e true
      | none =>
        if e.cls = .fatal then
          match bestRec vs (fun _ => true) (·.order) with
          | some i => c.writeRec u i e true
          | none => c
        else
          let newest (p : ErrRec → Bool) := bestRec vs p (fun r => 2 ^ 64 - r.order)
          let lowest := vs.foldl (fun m r => min m r.2.cls.rank) 3
          match (newest fun r => decide (r.cls = e.cls)) <|> (newest fun r => decide (r.cls.rank = lowest)) with
          | some i => let r := c.errRec u i; c.setErrRec u i { r with status := r.status ||| 0x40#64 }
          | none => c

/-! Messages (R156, R204-R209, R219). -/

/-- A bus port. -/
def Chip.px (c : Chip) (p : Nat) : Px := Sparse.at c.pxs {} p
def Chip.modPx (c : Chip) (p : Nat) (f : Px → Px) : Chip := { c with pxs := Sparse.upd c.pxs {} p f }

/-- A message injected into the mesh with its BIRTH (R208); the mesh keeps no order (R219). -/
def Chip.send (c : Chip) (m : Msg) : Chip := { c with mesh := c.mesh ++ [{ m with birth := c.mt / 32 }] }

def Chip.sendAll (c : Chip) (ms : List Msg) : Chip := ms.foldl Chip.send c

/-- The mesh without one message that arrives. -/
def Chip.take (c : Chip) (m : Msg) : Chip := { c with mesh := c.mesh.erase m }

/-- AGE of a message (R209). -/
def Chip.age (c : Chip) (m : Msg) : Nat :=
  let a := (c.mt / 32 + 65536 - m.birth % 65536) % 65536
  if 32768 ≤ a then 32767 else a

end Sys2Proof.Machine
end

