-- ==== Sys2Proof/Machine/Descs.lean ====
section
/-! DEFINITION. Unit Descriptors: their words, the summaries of groups, and the propagation of a leaf's change (R28-R41). -/

namespace Sys2Proof.Machine

/-- UD_STATUS of a leaf (R33). -/
def Chip.leafStatus (c : Chip) (u : Nat) : Word :=
  let x := c.unit u
  let off := decide (x.cur = 2)
  let k := c.core (coreOfUnit u)
  let core := decide (kindOf u = .core)
  let enabled := if core then k.enabled else c.present u && !off
  let spare := core && k.spare
  BitVec.ofNat 32 (bit (c.present u) + 2 * bit enabled + 4 * bit spare + 8 * bit (core && k.retired) + 16 * bit (c.held u)
    + 32 * bit (x.initDone && !off) + 2 ^ 16 * bit spare + 2 ^ 24 * bit (core && k.enabled))

/-- UD_STATUS of any unit as an ancestor's summary takes it: live in a leaf, the summary of a group. -/
def Chip.statusOf (c : Chip) (u : Nat) : Word := if isGroup u then (Sparse.at c.sums {} u).status else c.leafStatus u

/-- UD_ERR_SUMMARY[4:0] of any unit as an ancestor's summary takes it. -/
def Chip.errOf (c : Chip) (u : Nat) : Nat :=
  if isGroup u then fld (Sparse.at c.sums {} u).err 4 0 else (c.unit u).err.toNat

/-- CUR of any unit (R36): a drover cluster has its own. -/
def Chip.curOf (c : Chip) (u : Nat) : BitVec 2 :=
  if isGroup u ∧ kindOf u ≠ .droverCluster then (Sparse.at c.sums {} u).cur else (c.unit u).cur

/-- The summary of a group from its children (R33, R34, R36). The group's own bits set when its own block logs a record, and nothing
clears them: R34 gives no clear of a read-only bit, and clearing a record clears none (R35; DESIGN CHOICE, log 87). -/
def Chip.groupSum (c : Chip) (u : Nat) : GroupSum :=
  let cs := childrenOf u
  let st := cs.map fun v => c.statusOf v
  let any (i : Nat) : Nat := bit (st.any fun s => s.getLsbD i)
  let sum (hi lo : Nat) : Nat := (st.map fun s => fld s hi lo).sum
  let present := cs.filter fun v => (c.statusOf v).getLsbD 0
  let live := present.filter fun v => decide (c.curOf v ≠ 2)
  let done := live.all (fun v => (c.statusOf v).getLsbD 5) && !(decide (kindOf u = .droverCluster) && decide ((c.unit u).cur = 2))
  let free := sum 19 16
  let held := c.held u || st.any fun s => s.getLsbD 4
  let err := cs.foldl (fun a v => a ||| c.errOf v) (c.unit u).err.toNat
  let first := (cs.findIdx? fun v => decide (c.errOf v ≠ 0)).getD 0xFF
  { status := BitVec.ofNat 32 (any 0 + 2 * any 1 + 4 * bit (decide (0 < free)) + 8 * any 3 + 16 * bit held + 32 * bit done
      + 2 ^ 8 * present.length + 2 ^ 16 * free + 2 ^ 24 * sum 31 24)
    err := BitVec.ofNat 32 (err + 2 ^ 8 * first)
    cur := if present.any fun v => decide (c.curOf v = 0) then 0 else if present.any fun v => decide (c.curOf v = 1) then 1 else 2 }

def Chip.sumUnit (c : Chip) (u : Nat) : Chip := { c with sums := Sparse.put c.sums u (c.groupSum u) }

/-- SUMMARY_PROPAGATE (R41): a change in a unit appears in every ancestor's summary, the nearest first. -/
def Chip.propagate (c : Chip) (u : Nat) : Chip :=
  ((if isGroup u then [u] else []) ++ ancestorsOf u).foldl Chip.sumUnit c

/-- Every group, lower levels first: what the Bellwether controller leaves before it releases a hart (R31). -/
def Chip.allSums (c : Chip) : Chip :=
  (((List.range 100).map (uTile ·)) ++ [uDrover 0, uDrover 1] ++ ((List.range 20).map (uFold ·)) ++ ((List.range 4).map (uPaddock ·)) ++ [0]).foldl
    Chip.sumUnit c

/-- REQ of the unit is writable (R36). -/
def reqWritable (u : Nat) : Bool :=
  match kindOf u with
  | .busPort => true | .ethPort => true | .shears => true | .droverCluster => true | .droverCore => true | _ => false

/-- UD_INFO words (R40). -/
def Chip.udInfo (c : Chip) (u n : Nat) : Word :=
  let k := c.core (coreOfUnit u)
  let eth := c.fuse.eth
  match kindOf u, n with
  | .package, 0 => BitVec.ofNat 32 (c.spillBase / 2 ^ 11 * 2 ^ 11)
  | .package, 1 => BitVec.ofNat 32 (c.spillBase / 2 ^ 32 % 2 ^ 20)
  | .package, 2 => BitVec.ofNat 32 c.spillLines
  | .package, 3 => BitVec.ofNat 32 (c.nHarts + 2 ^ 8 * eth + 2 ^ 10 * bit c.fuse.epCap + 2 ^ 11 * bit (c.pwr.straps.getLsbD 0))
  | .core, 0 => BitVec.ofNat 32 (k.hartId + 2 ^ 16 * bit k.hartValid)
  | .l3Slice, 0 => BitVec.ofNat 32 (tileOfUnit u)
  | .memCtrl, 0 => BitVec.ofNat 32 (u - 5)
  | .busPort, 0 => BitVec.ofNat 32 (u - 17)
  | .ethPort, 0 => BitVec.ofNat 32 (u - 21)
  | .shears, 0 => BitVec.ofNat 32 (u - 23)
  | .droverCluster, 0 => BitVec.ofNat 32 (u - 25)
  | .droverCore, 0 => BitVec.ofNat 32 ((u - 449) % 32 + 32 * ((u - 449) / 32))
  | _, _ => 0

/-- UD_POWER_CTL (R36); a fused-off unit reads REQ 0 and CUR Off (R4). -/
def Chip.udPower (c : Chip) (u : Nat) : Word :=
  let x := c.unit u
  let cur : BitVec 2 := if isGroup u || c.present u then c.curOf u else 2
  let req : BitVec 2 := if c.present u && reqWritable u then x.req else 0
  BitVec.ofNat 32 (req.toNat + 16 * cur.toNat + 64 * bit x.busy + (if kindOf u = .fold then 256 * (x.opp % 16) else 0))

/-- The unit has a register block (R31). -/
def hasBlock (k : Kind) : Bool :=
  match k with
  | .paddock => false | .fold => false | .tile => false | .droverCore => false | _ => true

/-- A word of a Unit Descriptor (R30, R31). -/
def Chip.descWord (c : Chip) (u off : Nat) : Word :=
  match off / 4 with
  | 0 => BitVec.ofNat 32 (u + 2 ^ 16 * (kindOf u).code + 2 ^ 24 * levelOf u)
  | 1 => BitVec.ofNat 32 (childCount u)
  | 2 => BitVec.ofNat 32 (0x40 * firstChild u)
  | 3 => BitVec.ofNat 32 (0x40 * parentOf u)
  | 4 => c.statusOf u
  | 5 => if isGroup u then (Sparse.at c.sums {} u).err else BitVec.ofNat 32 ((c.unit u).err.toNat + 0xFF00)
  | 6 => c.udPower u
  | 7 => udLocation u
  | 8 => if hasBlock (kindOf u) then BitVec.ofNat 32 (blockBase u) else 0
  | 9 => if hasBlock (kindOf u) then BitVec.ofNat 32 (blockSize u) else 0
  | 12 => c.udInfo u 0
  | 13 => c.udInfo u 1
  | 14 => c.udInfo u 2
  | 15 => c.udInfo u 3
  | _ => 0

end Sys2Proof.Machine
end

