-- ==== Sys2Proof/Machine/Flags.lean ====
section
/-! DEFINITION. Floating-point values, rounding and exception flags of R129-R139 and R188: every operation is computed
exactly on integers and rounded once. -/

namespace Sys2Proof.Machine

/-- Parameters of a format (R129). -/
structure FmtPar where
  p    : Nat
  emin : Int
  emax : Int
  w    : Nat
deriving DecidableEq, Repr

def fmtPar : Fmt → FmtPar
  | .h  => ⟨11, -14, 15, 16⟩
  | .bf => ⟨8, -126, 127, 16⟩
  | .s  => ⟨24, -126, 127, 32⟩
  | .d  => ⟨53, -1022, 1023, 64⟩

/-- Flag bits of fflags: NV, DZ, OF, UF, NX from bit 4 to bit 0. -/
def fNX : BitVec 5 := 1
def fUF : BitVec 5 := 2
def fOF : BitVec 5 := 4
def fDZ : BitVec 5 := 8
def fNV : BitVec 5 := 16

/-- Rounding modes (R130). -/
inductive Rm where
  | rne | rtz | rdn | rup | rmm
deriving DecidableEq, Repr

/-- The rounding mode of an encoding, none where it is reserved (R130). -/
def rmOf (n : Nat) : Option Rm :=
  match n with
  | 0 => some .rne | 1 => some .rtz | 2 => some .rdn | 3 => some .rup | 4 => some .rmm | _ => none

/-- A value: a NaN, an infinity, or (-1)^neg x m x 2^e. -/
inductive FVal where
  | nan (sig : Bool)
  | inf (neg : Bool)
  | fin (neg : Bool) (m : Nat) (e : Int)
deriving DecidableEq, Repr

/-- Number of significant bits. -/
def bitLen (n : Nat) : Nat := if n = 0 then 0 else Nat.log2 n + 1

/-- Encodings of the edge values (R129). -/
def fInf (f : Fmt) (neg : Bool) : Nat :=
  let q := fmtPar f
  bit neg * 2 ^ (q.w - 1) + (2 ^ (q.w - q.p) - 1) * 2 ^ (q.p - 1)
def fCanon (f : Fmt) : Nat := let q := fmtPar f; (2 ^ (q.w - q.p + 1) - 1) * 2 ^ (q.p - 2)
def fMax (f : Fmt) (neg : Bool) : Nat := fInf f neg - 1
def fZero (f : Fmt) (neg : Bool) : Nat := bit neg * 2 ^ ((fmtPar f).w - 1)

/-- The value that an encoding stands for. -/
def unpack (f : Fmt) (x : Nat) : FVal :=
  let q := fmtPar f
  let neg := x / 2 ^ (q.w - 1) % 2 = 1
  let ef := x / 2 ^ (q.p - 1) % 2 ^ (q.w - q.p)
  let fr := x % 2 ^ (q.p - 1)
  if ef = 2 ^ (q.w - q.p) - 1 then
    if fr = 0 then .inf neg else .nan (fr / 2 ^ (q.p - 2) % 2 = 0)
  else if ef = 0 then .fin neg fr (q.emin - (q.p - 1))
  else .fin neg (fr + 2 ^ (q.p - 1)) (q.emin - (q.p - 1) + (ef - 1))

/-- An integer rounded from r + rem / 2^k, with the sign and mode (R130). -/
def roundUp (rm : Rm) (neg : Bool) (r rem k : Nat) : Nat :=
  let half := 2 ^ k
  let up : Bool :=
    match rm with
    | .rne => decide (half < 2 * rem) || (decide (2 * rem = half) && decide (r % 2 = 1))
    | .rmm => decide (half ≤ 2 * rem)
    | .rtz => false
    | .rdn => neg && decide (0 < rem)
    | .rup => !neg && decide (0 < rem)
  if up then r + 1 else r

/-- m x 2^e rounded to a multiple of 2^q: the multiple, and whether it is inexact. -/
def roundAt (rm : Rm) (neg : Bool) (m : Nat) (e q : Int) : Nat × Bool :=
  if q ≤ e then (m * 2 ^ (e - q).toNat, false)
  else
    let k := (q - e).toNat
    let rem := m % 2 ^ k
    (roundUp rm neg (m / 2 ^ k) rem k, decide (rem ≠ 0))

/-- The encoding and flags of a nonzero exact value (R132: tininess after rounding, UF only when inexact). -/
def roundPack (f : Fmt) (rm : Rm) (neg : Bool) (m : Nat) (e : Int) : Nat × BitVec 5 :=
  let q := fmtPar f
  if m = 0 then (fZero f neg, 0)
  else
    let top : Int := e + (bitLen m : Int) - 1
    let qmin : Int := q.emin - (q.p - 1)
    let qu : Int := top - (q.p - 1)
    let qb : Int := if qu < qmin then qmin else qu
    let (r, inx) := roundAt rm neg m e qb
    let (ru, _) := roundAt rm neg m e qu
    -- tiny: the value rounded with unbounded exponent range lies below 2^emin
    let tiny : Bool := decide (qu + (bitLen ru : Int) - 1 < q.emin)
    let ef : Int := qb - qmin + 1
    let enc : Int := if r < 2 ^ (q.p - 1) then (r : Int) else ef * 2 ^ (q.p - 1) + ((r : Int) - 2 ^ (q.p - 1))
    if enc ≥ (fInf f false : Int) then
      let toInf : Bool := match rm with
        | .rne => true | .rmm => true | .rtz => false | .rdn => neg | .rup => !neg
      ((if toInf then fInf f neg else fMax f neg), fOF ||| fNX)
    else
      (bit neg * 2 ^ (q.w - 1) + enc.toNat, if inx then (if tiny then fUF ||| fNX else fNX) else 0)

/-- Sign of an exact zero sum (IEEE 754-2019): minus only under RDN, or when both terms are minus. -/
def zeroSign (rm : Rm) (a b : Bool) : Bool := if a = b then a else decide (rm = .rdn)

def isSig : FVal → Bool
  | .nan s => s | _ => false
def isNan : FVal → Bool
  | .nan _ => true | _ => false

/-- Flags of NaN operands: NV for a signalling one (R133). -/
def nanFlags (vs : List FVal) : BitVec 5 := if vs.any isSig then fNV else 0

def FVal.negate : FVal → FVal
  | .nan s => .nan s | .inf n => .inf (!n) | .fin n m e => .fin (!n) m e

def FVal.isNeg : FVal → Bool
  | .nan _ => false | .inf n => n | .fin n _ _ => n

/-- Signed integer of a finite value at exponent e0 no greater than its own. -/
def sAt (neg : Bool) (m : Nat) (e e0 : Int) : Int :=
  let v : Int := (m * 2 ^ (e - e0).toNat : Nat)
  if neg then -v else v

/-- x + y (R135). -/
def fAdd (f : Fmt) (rm : Rm) (x y : FVal) : Nat × BitVec 5 :=
  match x, y with
  | .nan _, _ => (fCanon f, nanFlags [x, y])
  | _, .nan _ => (fCanon f, nanFlags [x, y])
  | .inf a, .inf b => if a = b then (fInf f a, 0) else (fCanon f, fNV)
  | .inf a, _ => (fInf f a, 0)
  | _, .inf b => (fInf f b, 0)
  | .fin a m e, .fin b n g =>
    let e0 := min e g
    let s := sAt a m e e0 + sAt b n g e0
    if s = 0 then (fZero f (zeroSign rm a b), 0)
    else roundPack f rm (decide (s < 0)) s.natAbs e0

/-- x × y (R135). -/
def fMul (f : Fmt) (rm : Rm) (x y : FVal) : Nat × BitVec 5 :=
  match x, y with
  | .nan _, _ => (fCanon f, nanFlags [x, y])
  | _, .nan _ => (fCanon f, nanFlags [x, y])
  | .inf a, .inf b => (fInf f (a != b), 0)
  | .inf a, .fin b n _ => if n = 0 then (fCanon f, fNV) else (fInf f (a != b), 0)
  | .fin a m _, .inf b => if m = 0 then (fCanon f, fNV) else (fInf f (a != b), 0)
  | .fin a m e, .fin b n g => roundPack f rm (a != b) (m * n) (e + g)

/-- x × y + z, rounded once (R133, R135). -/
def fMa (f : Fmt) (rm : Rm) (x y z : FVal) : Nat × BitVec 5 :=
  let inv : Bool := match x, y with
    | .inf _, .fin _ n _ => decide (n = 0)
    | .fin _ m _, .inf _ => decide (m = 0)
    | _, _ => false
  if inv then (fCanon f, fNV)
  else if isNan x || isNan y || isNan z then (fCanon f, nanFlags [x, y, z])
  else
    match x, y, z with
    | .fin a m e, .fin b n g, .fin c k h =>
      let p := a != b
      let e0 := min (e + g) h
      let s := sAt p (m * n) (e + g) e0 + sAt c k h e0
      if s = 0 then (fZero f (zeroSign rm p c), 0)
      else roundPack f rm (decide (s < 0)) s.natAbs e0
    | .fin _ _ _, .fin _ _ _, .inf c => (fInf f c, 0)
    | _, _, .inf c => if (x.isNeg != y.isNeg) = c then (fInf f c, 0) else (fCanon f, fNV)
    | _, _, _ => (fInf f (x.isNeg != y.isNeg), 0)

/-- x ÷ y (R135). -/
def fDiv (f : Fmt) (rm : Rm) (x y : FVal) : Nat × BitVec 5 :=
  match x, y with
  | .nan _, _ => (fCanon f, nanFlags [x, y])
  | _, .nan _ => (fCanon f, nanFlags [x, y])
  | .inf _, .inf _ => (fCanon f, fNV)
  | .inf a, .fin b _ _ => (fInf f (a != b), 0)
  | .fin a _ _, .inf b => (fZero f (a != b), 0)
  | .fin a m e, .fin b n g =>
    if n = 0 then (if m = 0 then (fCanon f, fNV) else (fInf f (a != b), fDZ))
    else if m = 0 then (fZero f (a != b), 0)
    else
      let k := bitLen n + 2 * (fmtPar f).p + 2
      let q := m * 2 ^ k / n
      let s := if m * 2 ^ k % n = 0 then 0 else 1
      roundPack f rm (a != b) (2 * q + s) (e - g - k - 1)

/-- Integer square root by bits, highest first: the greatest r with r² ≤ n and r below 2^bits. -/
def isqrt (n : Nat) : Nat → Nat → Nat
  | 0, r => r
  | b + 1, r => let r' := r + 2 ^ b; isqrt n b (if r' * r' ≤ n then r' else r)

/-- √x (R135, R136). -/
def fSqrt (f : Fmt) (rm : Rm) (x : FVal) : Nat × BitVec 5 :=
  match x with
  | .nan s => (fCanon f, if s then fNV else 0)
  | .inf a => if a then (fCanon f, fNV) else (fInf f false, 0)
  | .fin a m e =>
    if m = 0 then (fZero f a, 0)
    else if a then (fCanon f, fNV)
    else
      let p := (fmtPar f).p
      let k := 2 * p + 4 + (if (e - (2 * p + 4 : Nat)) % 2 = 0 then 0 else 1)
      let n := m * 2 ^ k
      let r := isqrt n (bitLen n / 2 + 1) 0
      let s := if r * r = n then 0 else 1
      roundPack f rm false (2 * r + s) ((e - k) / 2 - 1)

/-- x < y for values that are not NaNs, -0 and +0 equal. -/
def fLtv : FVal → FVal → Bool
  | .inf a, .inf b => a && !b
  | .inf a, _ => a
  | _, .inf b => !b
  | .fin a m e, .fin b n g => let e0 := min e g; decide (sAt a m e e0 < sAt b n g e0)
  | _, _ => false

/-- x = y for values that are not NaNs. -/
def fEqv : FVal → FVal → Bool
  | .inf a, .inf b => a = b
  | .fin a m e, .fin b n g => let e0 := min e g; decide (sAt a m e e0 = sAt b n g e0)
  | _, _ => false

/-- x below y with -0 below +0 (R134). -/
def fBelow (x y : FVal) : Bool := fLtv x y || (fEqv x y && x.isNeg && !y.isNeg)

/-- fmin or fmax of encodings (R134): the other operand when one is a NaN. -/
def fMinMax (f : Fmt) (max : Bool) (a b : Nat) : Nat × BitVec 5 :=
  let x := unpack f a
  let y := unpack f b
  let fl := nanFlags [x, y]
  if isNan x && isNan y then (fCanon f, fl)
  else if isNan x then (b, fl)
  else if isNan y then (a, fl)
  else if (if max then fBelow x y else fBelow y x) then (b, fl) else (a, fl)

/-- fminm or fmaxm (R134): the canonical NaN when either operand is a NaN. -/
def fMinMaxM (f : Fmt) (max : Bool) (a b : Nat) : Nat × BitVec 5 :=
  let x := unpack f a
  let y := unpack f b
  if isNan x || isNan y then (fCanon f, nanFlags [x, y]) else fMinMax f max a b

/-- Comparison kinds (R134). -/
inductive FCmp where
  | eq | lt | le | ltq | leq
deriving DecidableEq, Repr

/-- A comparison's result and flags (R134, R137). -/
def fCompare (k : FCmp) (x y : FVal) : Bool × BitVec 5 :=
  if isNan x || isNan y then
    (false, match k with | .lt => fNV | .le => fNV | _ => nanFlags [x, y])
  else
    (match k with
      | .eq => fEqv x y | .lt => fLtv x y | .ltq => fLtv x y
      | _ => fLtv x y || fEqv x y, 0)

/-- fclass (R137, privileged numbering of the RISC-V F extension: PRESUMED, log 6). -/
def fClass (f : Fmt) (a : Nat) : Nat :=
  match unpack f a with
  | .nan true => 0x100
  | .nan false => 0x200
  | .inf true => 0x001
  | .inf false => 0x080
  | .fin neg m _ =>
    if m = 0 then (if neg then 0x008 else 0x010)
    else if m < 2 ^ ((fmtPar f).p - 1) then (if neg then 0x004 else 0x020)
    else (if neg then 0x002 else 0x040)

/-- An exact value rounded to an integer (R130). -/
def roundInt (rm : Rm) (neg : Bool) (m : Nat) (e : Int) : Int × Bool :=
  let (r, inx) := roundAt rm neg m e 0
  ((if neg then -(r : Int) else r), inx)

/-- Range of an integer format (R138). -/
def iRange : IFmt → Int × Int
  | .w => (-2147483648, 2147483647)
  | .wu => (0, 4294967295)
  | .l => (-9223372036854775808, 9223372036854775807)
  | .lu => (0, 18446744073709551615)

/-- Conversion to an integer between two bounds (R133, R138). -/
def fToRange (lo hi : Int) (rm : Rm) (x : FVal) : Int × BitVec 5 :=
  match x with
  | .nan _ => (hi, fNV)
  | .inf neg => ((if neg then lo else hi), fNV)
  | .fin neg m e =>
    let (v, inx) := roundInt rm neg m e
    if v < lo then (lo, fNV) else if hi < v then (hi, fNV) else (v, if inx then fNX else 0)

/-- Conversion to an integer format (R138). -/
def fToInt (i : IFmt) (rm : Rm) (x : FVal) : Int × BitVec 5 := fToRange (iRange i).1 (iRange i).2 rm x

/-- fcvtmod.w.d (R138): truncation modulo 2^32. A NaN gives 0 as Zfa says (R80; DEDUCED, log 84). -/
def fToIntMod (x : FVal) : Int × BitVec 5 :=
  match x with
  | .nan _ => (0, fNV)
  | .inf _ => (0, fNV)
  | .fin neg m e =>
    let (v, inx) := roundInt .rtz neg m e
    let r := (v % 4294967296)
    let r' := if r < 2147483648 then r else r - 4294967296
    (r', if v < -2147483648 ∨ 2147483647 < v then fNV else if inx then fNX else 0)

/-- Conversion from an integer. -/
def fFromInt (f : Fmt) (rm : Rm) (v : Int) : Nat × BitVec 5 :=
  if v = 0 then (fZero f false, 0) else roundPack f rm (decide (v < 0)) v.natAbs 0

/-- Conversion between formats (R138). -/
def fConvert (f : Fmt) (rm : Rm) (x : FVal) : Nat × BitVec 5 :=
  match x with
  | .nan s => (fCanon f, if s then fNV else 0)
  | .inf n => (fInf f n, 0)
  | .fin n m e => roundPack f rm n m e

/-- fround and froundnx (R135): to an integer in the same format; only froundnx raises NX. -/
def fRound (f : Fmt) (rm : Rm) (nx : Bool) (a : Nat) : Nat × BitVec 5 :=
  match unpack f a with
  | .nan s => (fCanon f, if s then fNV else 0)
  | .inf n => (fInf f n, 0)
  | .fin n m e =>
    if 0 ≤ e then (a, 0)
    else
      let (r, inx) := roundAt rm n m e 0
      ((roundPack f .rne n r 0).1, if nx && inx then fNX else 0)

/-- Conversion between formats by round-to-odd (vfncvt.rod of the V extension, log 6): truncated, and an inexact result made
odd. -/
def fConvertOdd (f : Fmt) (x : FVal) : Nat × BitVec 5 :=
  let (r, fl) := fConvert f .rtz x
  (if fl &&& fNX = 0 || isNan x then r else r ||| 1, fl)

/-! Seven-bit estimates (vfrec7 and vfrsqrt7 of the V extension, log 6). -/

/-- Biased exponent and fraction of a finite nonzero encoding, a subnormal one normalised to a leading one. -/
def normParts (f : Fmt) (a : Nat) : Int × Nat :=
  let s := (fmtPar f).p - 1
  let ef := a / 2 ^ s % 2 ^ ((fmtPar f).w - (fmtPar f).p)
  let fr := a % 2 ^ s
  if ef = 0 then
    let lz := s - bitLen fr
    (-(lz : Int), fr * 2 ^ (lz + 1) % 2 ^ s)
  else ((ef : Int), fr)

/-- Entry of the reciprocal table: 2 / x - 1 at the middle of interval i of [1, 2), to seven bits. -/
def rec7Entry (i : Nat) : Nat := (256 * (255 - 2 * i) + (257 + 2 * i)) / (2 * (257 + 2 * i))

/-- Entry of the reciprocal square root table: 64 intervals of [2, 4), then 64 of [1, 2). -/
def rsqrt7Entry (i : Nat) : Nat :=
  (isqrt ((if i < 64 then 2 ^ 24 else 2 ^ 25) / (129 + 2 * (i % 64))) 10 0 + 1) / 2 - 128

/-- vfrec7. -/
def fRec7 (f : Fmt) (rm : Rm) (a : Nat) : Nat × BitVec 5 :=
  match unpack f a with
  | .nan s => (fCanon f, if s then fNV else 0)
  | .inf neg => (fZero f neg, 0)
  | .fin neg m _ =>
    let q := fmtPar f
    let s := q.p - 1
    let (ex, sig) := normParts f a
    if m = 0 then (fInf f neg, fDZ)
    else if ex < -1 then
      let big : Bool := match rm with | .rtz => true | .rdn => !neg | .rup => neg | _ => false
      (if big then fMax f neg else fInf f neg, fOF ||| fNX)
    else
      let t := rec7Entry (sig / 2 ^ (s - 7)) * 2 ^ (s - 7)
      let oe : Int := 2 * q.emax - 1 - ex
      let half := t / 2 + 2 ^ (s - 1)
      let enc := if oe = 0 then half else if oe < 0 then half / 2 else oe.toNat * 2 ^ s + t
      (bit neg * 2 ^ (q.w - 1) + enc, 0)

/-- vfrsqrt7. -/
def fRsqrt7 (f : Fmt) (a : Nat) : Nat × BitVec 5 :=
  match unpack f a with
  | .nan s => (fCanon f, if s then fNV else 0)
  | .inf neg => if neg then (fCanon f, fNV) else (fZero f false, 0)
  | .fin neg m _ =>
    let q := fmtPar f
    let s := q.p - 1
    let (ex, sig) := normParts f a
    if m = 0 then (fInf f neg, fDZ)
    else if neg then (fCanon f, fNV)
    else
      let t := rsqrt7Entry ((ex % 2).toNat * 64 + sig / 2 ^ (s - 6)) * 2 ^ (s - 7)
      (((3 * q.emax - 1 - ex) / 2).toNat * 2 ^ s + t, 0)

end Sys2Proof.Machine
end

