-- ==== Sys2Proof/Machine/Operands.lean ====
section
/-! DEFINITION. A hart's operands: integer, FP and vector registers, CSR storage, retirement and the counters that
retirement and events move (R82, R88-R92, R131, R133, R140, R444-R452). -/

namespace Sys2Proof.Machine

/-! Integer and FP registers. -/

/-- x[r]; x0 reads 0 (RISC-V, log 6). -/
def Hart.getX (h : Hart) (r : Nat) : DWord := if r % 32 = 0 then 0 else Sparse.at h.x 0 (r % 32)

/-- x[r] written; a write of x0 is discarded. -/
def Hart.setX (h : Hart) (r : Nat) (v : DWord) : Hart :=
  if r % 32 = 0 then h else { h with x := Sparse.put h.x (r % 32) v }

def Hart.getF (h : Hart) (r : Nat) : DWord := Sparse.at h.f 0 (r % 32)
def Hart.getV (h : Hart) (r : Nat) : VReg := Sparse.at h.v 0 (r % 32)
def Hart.setV (h : Hart) (r : Nat) (v : VReg) : Hart := { h with v := Sparse.put h.v (r % 32) v }

/-! CSR storage. -/

/-- Reset values of the CSRs that do not reset to 0: mol.restctl (R91), mol.tsctl (R455), and the RISC-V reset values of
mstatus.UXL and SXL, hstatus.VSXL, vsstatus.UXL, vtype.vill, misa, vlenb, and the type of each trigger (PRESUMED, log 6). -/
def csrReset (n : Nat) : DWord :=
  match n with
  | 0x7C1 => 0xA#64
  | 0x5C0 => 0x0001000000000060#64
  | 0x300 => 0x0000000A00000000#64
  | 0x600 => 0x0000000200000000#64
  | 0x200 => 0x0000000200000000#64
  | 0xC21 => 0x8000000000000000#64
  | 0x301 => 0x80000000003411AF#64
  | 0xC22 => 32#64
  | _ => if 0x10000 ≤ n ∧ n % 4 = 1 then 0x6000000000000000#64 else 0

/-- A CSR's stored value. -/
def Hart.csr (h : Hart) (n : Nat) : DWord := (Sparse.find h.csrs n).getD (csrReset n)
def Hart.setCsr (h : Hart) (n : Nat) (v : DWord) : Hart := { h with csrs := Sparse.put h.csrs n v }
/-- Bits hi:lo of a CSR. -/
def Hart.csrFld (h : Hart) (n hi lo : Nat) : Nat := fld (h.csr n) hi lo
def Hart.setCsrFld (h : Hart) (n hi lo v : Nat) : Hart := h.setCsr n (setFld (h.csr n) hi lo v)

/-! Standard CSR numbers. -/
def cFflags : Nat := 0x001
def cFrm : Nat := 0x002
def cVstart : Nat := 0x008
def cVxsat : Nat := 0x009
def cVxrm : Nat := 0x00A
def cVl : Nat := 0xC20
def cVtype : Nat := 0xC21
def cMstatus : Nat := 0x300
def cVsstatus : Nat := 0x200
def cHstatus : Nat := 0x600
def cMip : Nat := 0x344
def cMie : Nat := 0x304
def cSatp : Nat := 0x180
def cVsatp : Nat := 0x280
def cHgatp : Nat := 0x680
def cMenvcfg : Nat := 0x30A
def cSenvcfg : Nat := 0x10A
def cHenvcfg : Nat := 0x60A
def cBpctl : Nat := 0x7C0
def cRestctl : Nat := 0x7C1
def cTsctl : Nat := 0x5C0
def cTsbase : Nat := 0x5C1
def cTsidx : Nat := 0x5C2
def cTsdrops : Nat := 0x5C3
def cMinstret : Nat := 0xB02
def cMcycle : Nat := 0xB00

/-! FP state (mstatus.FS and VS: 14:13 and 10:9; PRESUMED from the privileged ISA, log 6). -/

/-- FP instructions are enabled: FS is not Off, in vsstatus too when V = 1. -/
def Hart.fsOn (h : Hart) : Bool := decide (h.csrFld cMstatus 14 13 ≠ 0) && (!h.virt || decide (h.csrFld cVsstatus 14 13 ≠ 0))
/-- Vector instructions are enabled (R86, R141). -/
def Hart.vsOn (h : Hart) : Bool := decide (h.csrFld cMstatus 10 9 ≠ 0) && (!h.virt || decide (h.csrFld cVsstatus 10 9 ≠ 0))

/-- FS marked Dirty. -/
def Hart.fsDirty (h : Hart) : Hart :=
  let h := h.setCsr cMstatus (setFld (setFld (h.csr cMstatus) 14 13 3) 63 63 1)
  if h.virt then h.setCsr cVsstatus (setFld (setFld (h.csr cVsstatus) 14 13 3) 63 63 1) else h
/-- VS marked Dirty. -/
def Hart.vsDirty (h : Hart) : Hart :=
  let h := h.setCsr cMstatus (setFld (setFld (h.csr cMstatus) 10 9 3) 63 63 1)
  if h.virt then h.setCsr cVsstatus (setFld (setFld (h.csr cVsstatus) 10 9 3) 63 63 1) else h

/-- f[r] written. -/
def Hart.setF (h : Hart) (r : Nat) (v : DWord) : Hart := { h with f := Sparse.put h.f (r % 32) v }.fsDirty

/-- An operand of a format, NaN-boxing checked (R133): an improperly boxed value reads as the canonical NaN. -/
def unbox (f : Fmt) (v : DWord) : Nat :=
  match f with
  | .d => v.toNat
  | .s => if fld v 63 32 = 2 ^ 32 - 1 then fld v 31 0 else fCanon .s
  | g => if fld v 63 16 = 2 ^ 48 - 1 then fld v 15 0 else fCanon g

/-- A result of a format as an f register holds it: NaN-boxed. -/
def boxed (f : Fmt) (x : Nat) : DWord :=
  match f with
  | .d => BitVec.ofNat 64 x
  | .s => BitVec.ofNat 64 (x % 2 ^ 32 + (2 ^ 32 - 1) * 2 ^ 32)
  | _ => BitVec.ofNat 64 (x % 2 ^ 16 + (2 ^ 48 - 1) * 2 ^ 16)

def Hart.getFmt (h : Hart) (f : Fmt) (r : Nat) : Nat := unbox f (h.getF r)

/-- Flags accrued (R131): an instruction's flags are ORed into fflags at retirement. -/
def Hart.accrue (h : Hart) (fl : BitVec 5) : Hart :=
  if fl = 0 then h else (h.setCsr cFflags (h.csr cFflags ||| fl.setWidth 64)).fsDirty

/-- The rounding mode of an rm field; none raises an illegal-instruction exception (R130). -/
def Hart.rm (h : Hart) (rm : BitVec 3) : Option Rm :=
  if rm = 7#3 then rmOf (h.csrFld cFrm 2 0) else rmOf rm.toNat

/-! Vector registers (R140, R141). -/

/-- SEW in bits. -/
def Hart.sew (h : Hart) : Nat := 8 * 2 ^ (h.csrFld cVtype 5 3)
def Hart.vill (h : Hart) : Bool := h.csrFld cVtype 63 63 = 1
def Hart.vl (h : Hart) : Nat := (h.csr cVl).toNat
def Hart.vstart (h : Hart) : Nat := (h.csr cVstart).toNat
/-- LMUL times 8. -/
def lmul8 (enc : Nat) : Nat := match enc with
  | 0 => 8 | 1 => 16 | 2 => 32 | 3 => 64 | 5 => 1 | 6 => 2 | 7 => 4 | _ => 0
def Hart.lmul8 (h : Hart) : Nat := Sys2Proof.Machine.lmul8 (h.csrFld cVtype 2 0)
/-- VLMAX = LMUL x 256 / SEW (R140). -/
def Hart.vlmax (h : Hart) : Nat := h.lmul8 * 256 / 8 / h.sew

/-- Element i of width w bits of the group that starts at register r. -/
def Hart.elem (h : Hart) (r w i : Nat) : Nat :=
  let per := 256 / w
  (h.getV (r + i / per)).toNat / 2 ^ (w * (i % per)) % 2 ^ w

/-- Element i of a group written. -/
def Hart.setElem (h : Hart) (r w i x : Nat) : Hart :=
  let per := 256 / w
  h.setV (r + i / per) (setFld (h.getV (r + i / per)) (w * (i % per) + w - 1) (w * (i % per)) x)

/-- Mask bit i of v0. -/
def Hart.maskBit (h : Hart) (i : Nat) : Bool := (h.getV 0).getLsbD i

/-- Element i is active: below vl, at or above vstart, and its mask bit set when the instruction is masked. -/
def Hart.active (h : Hart) (masked : Bool) : List Nat :=
  (List.range h.vl).filter fun i => decide (h.vstart ≤ i) && (!masked || h.maskBit i)

/-- The operands of a full line in registers v and v + 1 (R86). -/
def Hart.pairLine (h : Hart) (r : Nat) : Line := (h.getV (r + 1)) ++ (h.getV r)

/-! Event counters (R444-R452). -/

/-- Mode inhibit bit of mhpmevent for the present mode (R447). -/
def Hart.inhBit (h : Hart) : Nat :=
  match h.priv, h.virt with
  | .m, _ => 62 | .s, false => 61 | .u, false => 60 | .s, true => 59 | .u, true => 58

/-- The sampling counter's number, while sampling is on (R457). -/
def Hart.sampling (h : Hart) : Option Nat :=
  if h.csrFld cTsctl 0 0 = 1 then some (h.csrFld cTsctl 3 1 + 3) else none

/-- The event of a counter is of the Retired class (R450, R451). -/
def retiredClass (e : DWord) : Bool :=
  [0x002, 0x004, 0x101, 0x102, 0x201, 0x202, 0x206, 0x305, 0x501, 0x601].contains (fld e 11 0)
    || (decide (fld e 11 0 = 0x007) && decide (fld e 19 12 = 1))

/-- Counter n is the sampling counter, and its event is of the Retired class; with another event it behaves as any other
counter (R457, item 3; DEDUCED, log 43). -/
def Hart.samples (h : Hart) (n : Nat) : Bool := decide (h.sampling = some n) && retiredClass (h.csr (0x320 + n))

/-- The local counter-overflow interrupt raised (R452, R458, R461). -/
def Hart.raiseLcofi (h : Hart) : Hart := h.setCsrFld cMip 13 13 1

/-- A wrap of a programmable counter that samples nothing (R452): OF, and the interrupt when OF was 0. -/
def Hart.overflow (h : Hart) (n : Nat) : Hart :=
  let was := h.csrFld (0x320 + n) 63 63
  let h := h.setCsrFld (0x320 + n) 63 63 1
  if was = 0 then h.raiseLcofi else h

/-- Programmable counter n after `k` occurrences: a wrap sets OF, and raises the local counter-overflow interrupt if OF
was 0, except in a counter that samples (R452, R457). -/
def Hart.bump (h : Hart) (n k : Nat) : Hart :=
  let v := (h.csr (0xB00 + n)).toNat + k
  let h := h.setCsr (0xB00 + n) (BitVec.ofNat 64 v)
  if decide (2 ^ 64 ≤ v) && !h.samples n then h.overflow n else h

/-- Occurrences of an event with its selected conditions (R447, R450): a counter counts when its EVENT is the code, a
selected UMASK condition holds (`um` 0 for an event without conditions), no inhibit applies, and its clock runs (R445). -/
def Hart.event (h : Hart) (code um : Nat) (k : Nat := 1) : Hart :=
  (List.range 8).foldl (fun h i =>
    let n := i + 3
    let e := h.csr (0x320 + n)
    if fld e 11 0 = code ∧ (um = 0 ∨ fld e 19 12 &&& um ≠ 0) ∧ fld e h.inhBit h.inhBit = 0
      ∧ h.csrFld 0x320 n n = 0 then h.bump n k else h) h

/-- Value of an occupancy event (R448, R450): the structures that State holds; the others, which it does not, are free within
their range (log 82). -/
def Hart.occupancy (h : Hart) (reqs seed code : Nat) : Option Nat :=
  match code with
  | 0x005 => some (Config.occupancy code seed % 385)
  | 0x006 => some (Config.occupancy code seed % 225)
  | 0x204 => some (min 192 (h.early.length + bit h.held.isSome))
  | 0x205 => some (min 96 h.sb.length)
  | 0x303 => some (Config.occupancy code seed % 25)
  | 0x304 => some (min 48 reqs)
  | 0x403 => some (bit h.walk.isSome)
  | 0x502 => some (Config.occupancy code seed % 5)
  | _ => none

/-- What an occupancy event adds in `cyc` cycles of value v, after the value `prev` (R449). -/
def occAdds (cmp thr v prev cyc : Nat) : Nat :=
  match cmp with
  | 0 => v * cyc
  | 1 => if thr < v then cyc else 0
  | 2 => if v ≤ thr then cyc else 0
  | _ => if thr < v ∧ prev ≤ thr ∧ 0 < cyc then 1 else 0

/-- What a programmable counter of an event adds when an instruction of `uops` µops retires after `cyc` cycles (R448-R450):
one instruction, its µops, the cycles, or what the occupancies of those cycles give. -/
def Hart.tallyAdds (h : Hart) (e : DWord) (n reqs seed cyc uops : Nat) : Nat :=
  match fld e 11 0 with
  | 0x001 => cyc
  | 0x002 => 1
  | 0x003 => uops
  | 0x004 => uops
  | 0x007 => if fld e 12 12 = 1 then uops else 0
  | code => match h.occupancy reqs seed code with
    | some v => occAdds (fld e 53 52) (fld e 49 40) v (Sparse.at h.occ 0 n) cyc
    | none => 0

/-- Programmable counter n at a retirement, unless an inhibit applies (R447). -/
def Hart.tallyOne (reqs seed cyc uops : Nat) (h : Hart) (i : Nat) : Hart :=
  let n := i + 3
  let e := h.csr (0x320 + n)
  if fld e 11 0 = 0 ∨ fld e h.inhBit h.inhBit = 1 ∨ h.csrFld 0x320 n n = 1 then h
  else
    let k := h.tallyAdds e n reqs seed cyc uops
    let h := match h.occupancy reqs seed (fld e 11 0) with
      | some v => { h with occ := Sparse.put h.occ n v }
      | none => h
    if k = 0 then h else h.bump n k

/-- Programmable counters at a retirement. -/
def Hart.tally (h : Hart) (reqs seed cyc uops : Nat) : Hart := (List.range 8).foldl (Hart.tallyOne reqs seed cyc uops) h

/-- An instruction of `uops` µops retires (R92, R95, R444): the pc moves on, minstret, INST_RETIRED and UOPS_RETIRED count
it, mcycle advances by the cycles it took, which the manual does not fix (free, log 7, log 9), and every other event of
machine state counts those cycles. -/
def Chip.retire (c : Chip) (h : Nat) (len : Nat) (lat : Nat) (uops : Nat := 1) : Chip :=
  let cyc := Config.cycles c.fresh
  let reqs := (c.core (c.hart h).core).reqs.length
  ({ c with fresh := c.fresh + 1 }).modHart h fun x =>
    let x := { x with pc := x.pc + BitVec.ofNat 64 len, lat := lat }
    let x := if x.csrFld 0x320 2 2 = 0 then x.setCsr cMinstret (x.csr cMinstret + 1) else x
    let x := if x.csrFld 0x320 0 0 = 0 then x.setCsr cMcycle (x.csr cMcycle + BitVec.ofNat 64 cyc) else x
    x.tally reqs c.fresh cyc uops

/-- The hart runs instructions. -/
def Hart.live (h : Hart) : Bool := decide (h.run = .running) && !(h.sb.any fun e => e.moved)

/-- The core of a hart, where HART_VALID says that it runs there (R40, R41). -/
def Chip.coreOfHart (c : Chip) (h : Nat) : Option Nat :=
  (c.cores.find? fun e => e.2.hartValid && decide (e.2.hartId = h)).map (·.1)

end Sys2Proof.Machine
end

