-- ==== Sys2Proof/Machine/MemCtl.lean ====
section
/-! DEFINITION. Interleave sets, channel addresses, the symbol code, write buffers, rank sparing and scrubbing
(R223-R259, R430). -/

namespace Sys2Proof.Machine

/-! Interleave sets (R229-R232). -/

/-- Number of ways of a WAYS encoding (R230). -/
def waysOf (enc : Nat) : Nat := [1, 2, 3, 4, 6, 12].getD enc 1

/-- A committed interleave set. -/
structure Mset where
  base  : Nat
  limit : Nat
  w     : Nat
  g     : Nat
  cxl   : Bool
  lbase : Nat
  chan  : List Nat
deriving DecidableEq, Repr

def msetOff (n r : Nat) : Nat := 0x2000 + 0x40 * n + r

/-- The set that five committed words describe (R229). -/
def msetOfWords (base limit cfg lo hi : Word) : Mset :=
  { base := fld base 21 0, limit := fld limit 21 0, w := waysOf (fld cfg 3 1), g := 8 + fld cfg 6 4,
    cxl := fld cfg 8 8 = 1, lbase := fld cfg 29 16,
    chan := ((List.range 8).map fun k => fld lo (4 * k + 3) (4 * k)) ++ ((List.range 4).map fun k => fld hi (4 * k + 3) (4 * k)) }

/-- Set n as committed. -/
def Chip.mset (c : Chip) (n : Nat) : Mset :=
  msetOfWords (c.reg 0 0 (msetOff n 0)) (c.reg 0 0 (msetOff n 8)) (c.reg 0 0 (msetOff n 0x10))
    (c.reg 0 0 (msetOff n 0x18)) (c.reg 0 0 (msetOff n 0x20))

/-- Set n maps addresses: EN = 1, and no register of it holds a parity fault, since a faulted value is never used (R63). -/
def Chip.msetOn (c : Chip) (n : Nat) : Bool :=
  decide (c.regFld 0 0 (msetOff n 0x10) 0 0 = 1)
    && [0, 8, 0x10, 0x18, 0x20].all fun r => !c.faulty 0 0 (msetOff n r)

/-- The numbers of the enabled sets. -/
def Chip.msetsOn (c : Chip) : List Nat := (List.range 16).filter c.msetOn

/-- Target and target-local address of a physical address in a set (R232). -/
def Mset.map (s : Mset) (pa : Nat) : Nat × Nat :=
  let o := pa - s.base * 2 ^ 30
  let chunk := o / 2 ^ s.g
  (s.chan.getD (chunk % s.w) 0, s.lbase * 2 ^ 30 + chunk / s.w * 2 ^ s.g + o % 2 ^ s.g)

/-- Where an address lives: CXL or DDR5, target, target-local byte address; none where no enabled set covers it (R44,
R232). -/
def Chip.mapAddr (c : Chip) (pa : Nat) : Option (Bool × Nat × Nat) :=
  match c.msetsOn.find? fun n => decide ((c.mset n).base ≤ pa / 2 ^ 30) && decide (pa / 2 ^ 30 < (c.mset n).limit) with
  | some n => let s := c.mset n; let (t, l) := s.map pa; some (s.cxl, t, l)
  | none => none

/-- The address lies in the reduction spill area (R193). -/
def Chip.inSpill (c : Chip) (pa : Nat) : Bool :=
  decide (c.spillBase ≤ pa) && decide (pa < c.spillBase + 2048 * c.spillLines)

/-- The address is DRAM or CXL memory that a core or device may reach (R44, R193). -/
def Chip.isMemory (c : Chip) (pa : Nat) : Bool := (c.mapAddr pa).isSome && !c.inSpill pa

/-! Channel addresses (R225, R234, R235). -/

def Chip.mrdimm (c : Chip) (n : Nat) : Bool := c.regFld (uMc n) 0 0x1040 1 0 = 2
/-- NR of R234. -/
def Chip.rowBits (c : Chip) (n : Nat) : Nat := 16 + c.regFld (uMc n) 0 0x1040 6 6
/-- q of R234. -/
def Chip.qBits (c : Chip) (n : Nat) : Nat := if c.mrdimm n then 1 else 0
/-- Lines of a logical rank. -/
def Chip.rankLines (c : Chip) (n : Nat) : Nat := 2 ^ (13 + c.qBits n + c.rowBits n)

/-- DRAM coordinates of a channel-local line (R234, R235). -/
structure Coord where
  sub  : Nat
  rank : Nat
  idx  : Nat
  bg   : Nat
  ba   : Nat
  row  : Nat
  col  : Nat
deriving DecidableEq, Repr

/-- The coordinates of channel-local line number `l`; the rank is the physical one (R225). -/
def Chip.coord (c : Chip) (n l : Nat) : Coord :=
  let q := c.qBits n
  let row := l / 2 ^ (13 + q) % 2 ^ c.rowBits n
  let lr := l / c.rankLines n
  { sub := l % 2, rank := (c.mc n).logical.getD lr 0 + (if c.mrdimm n then l / 2 % 2 else 0), idx := l % c.rankLines n,
    bg := (l / 2 ^ (1 + q) % 8) ^^^ (row % 8), ba := (l / 2 ^ (4 + q) % 4) ^^^ (row / 8 % 4), row := row,
    col := l / 2 ^ (6 + q) % 128 }

/-- A channel-local line lies within the channel's active capacity (R235). -/
def Chip.activeLine (c : Chip) (n l : Nat) : Bool := decide (l / c.rankLines n < (c.mc n).logical.length)

/-- Physical ranks in service: logical ones, both of a pair on an MRDIMM (R225). -/
def Chip.activeRanks (c : Chip) (n : Nat) : List Nat :=
  if c.mrdimm n then (c.mc n).logical.flatMap fun r => [r, r + 1] else (c.mc n).logical

/-- Logical ranks numbered by R225: trained ranks without the spare, ascending; on an MRDIMM the pairs both of whose
ranks trained. -/
def logicalRanks (type : Nat) (trained : Nat) (spare : Option Nat) (retired : Nat) : List Nat :=
  let up (r : Nat) : Bool := decide (trained / 2 ^ r % 2 = 1) && decide (spare ≠ some r) && decide (retired / 2 ^ r % 2 = 0)
  if type = 2 then (List.range 4).filterMap fun k => if up (2 * k) && up (2 * k + 1) then some (2 * k) else none
  else (List.range 8).filter up

/-! Stored lines and the symbol code (R226-R228). -/

/-- Byte address in memory of a line of a physical rank; CXL Type 3 memory of port p lies under channel 12 + p. -/
def memKey (chan rank idx : Nat) : Nat := (chan * 8 + rank) * 2 ^ 42 + idx * 64

/-- A stored line and its poison bit. -/
def Chip.rawLine (c : Chip) (key : Nat) : Line × Bool := (lineOf (c.mem.read key 64), c.poison.contains key)

/-- A line stored with its poison bit: a write without poison clears it (R228). -/
def Chip.storeLine (c : Chip) (key : Nat) (d : Line) (p : Bool) : Chip :=
  { c with mem := c.mem.write key (lineBytes d), poison := if p then NatSet.insert c.poison key else NatSet.erase c.poison key }

/-- Decoder outcomes (R227). -/
inductive Decode where
  | clean | corrected (dev : Nat) | detected | wrong
deriving DecidableEq, Repr

/-- Outcome of decoding a burst with errors in the devices listed, 0 to 9 (R227); an entry above 9 says that the burst comes
from another channel-local address, which the check bits cover (R226). `choice` decides the outcome that the manual does not
guarantee. -/
def decodeBurst (devs : List Nat) (choice : Bool) : Decode :=
  if devs.any fun d => decide (9 < d) then .detected
  else match devs.eraseDups with
  | [] => .clean
  | [d] => .corrected d
  | [_, _] => .detected
  | _ => if choice then .wrong else .detected

/-! Rank sparing (R250-R255). -/

def Chip.spareState (c : Chip) (n : Nat) : Nat := c.regFld (uMc n) 0 0x1048 1 0
def Chip.spareRank (c : Chip) (n : Nat) : Nat := c.regFld (uMc n) 0 0x1044 2 0
def Chip.spareSource (c : Chip) (n : Nat) : Nat := c.regFld (uMc n) 0 0x1048 6 4

/-- The line of the source rank has been copied (R252: CP is the lowest index not yet copied). -/
def Mc.lineCopied (m : Mc) (idx : Nat) : Bool := decide (idx < m.cp)

def retCauseCode : RetCause → Nat
  | .none => 0 | .uncorrectable => 1 | .ceThreshold => 2 | .caParity => 3 | .software => 4

/-- Step 1 of R252: a trigger in READY on an active rank starts the copy and logs a corrected record, and the retirement
list holds the retirement as pending (R255); in any other state the trigger is only logged by its own event (R250). -/
def Chip.retireRank (c : Chip) (n rank : Nat) (cause : RetCause) : Chip :=
  if c.spareState n = 1 ∧ rank ∈ c.activeRanks n then
    let w := c.reg (uMc n) 0 0x1048
    let c := c.setReg (uMc n) 0 0x1048 (setFld (setFld (setFld w 1 0 2) 6 4 rank) 10 8 (retCauseCode cause))
    let c := c.modMc n fun m => { m with cp := 0, poisoned := 0, trig := [] }
    let e : RankRet := { chan := n, rank := rank, spare := c.spareRank n, cause := cause, done := false }
    let c := { c with flash := { c.flash with ranks := (c.flash.ranks.filter fun (r : RankRet) => r.chan ≠ n) ++ [e] } }
    c.logErr (uMc n) { cls := .corrected, struct := 0x0F, indexB := rank }
  else c

/-- A retirement trigger that occurs on an active rank: in READY it is due, and RANK_RETIREMENT starts it; in any other state
it is only logged by its own event (R250). -/
def Chip.trigger (c : Chip) (n rank : Nat) (cause : RetCause) : Chip :=
  if c.spareState n = 1 ∧ rank ∈ c.activeRanks n then
    c.modMc n fun m => { m with trig := if m.trig.contains (rank, cause) then m.trig else m.trig ++ [(rank, cause)] }
  else c

/-- Counts of a rank after one corrected error; a count at or above the threshold is a trigger, also where the threshold has
been lowered to it or the count passed it while no spare was READY (R247, R250; DESIGN CHOICE, log 85). -/
def Chip.countCe (c : Chip) (n rank : Nat) : Chip :=
  let c := c.modMc n fun m => { m with ranks := Sparse.upd m.ranks {} rank fun r =>
    { r with period := min (2 ^ 32 - 1) (r.period + 1), ce := min (2 ^ 32 - 1) (r.ce + 1) } }
  let th := c.regFld (uMc n) 0 0x104C 15 0
  if 0 < th ∧ c.faulty (uMc n) 0 0x104C = false ∧ th ≤ (Sparse.at (c.mc n).ranks {} rank).period then
    c.trigger n rank .ceThreshold
  else c

/-- Counts of a rank after one uncorrectable decode, a trigger with UE_RETIRE (R250). -/
def Chip.countUe (c : Chip) (n rank : Nat) : Chip :=
  let c := c.modMc n fun m => { m with ranks := Sparse.upd m.ranks {} rank fun r => { r with ue := min (2 ^ 32 - 1) (r.ue + 1) } }
  if c.regFld (uMc n) 0 0x104C 16 16 = 1 ∧ c.faulty (uMc n) 0 0x104C = false then c.trigger n rank .uncorrectable else c

/-- Who reads a stored line, which decides the address that a record carries (R433). -/
inductive ReadBy where
  | demand (pa : Nat) | patrol (loc : Nat) | copy (loc : Nat)
deriving DecidableEq, Repr

def ReadBy.addr : ReadBy → Nat × Nat
  | .demand pa => (pa, 1) | .patrol l => (l, 4) | .copy l => (l, 4)

/-- Reads that write a corrected or poisoned line back (R228, R247, R248). -/
def ReadBy.rewrites : ReadBy → Bool
  | .copy _ => false
  | _ => true

/-- The record of a DRAM data error (R423, R433). -/
def dramErr (cls : ErrClass) (co : Coord) (dev : Nat) (by_ : ReadBy) : ErrInfo :=
  { cls := cls, struct := 0x0F, indexA := dev, indexB := co.rank + 8 * co.sub, addr := by_.addr.1, at_ := by_.addr.2,
    bits := if cls = .corrected then 1 else 0 }

/-- A bank's number within its subchannel, by rank, bank group and bank. -/
def Coord.bankNo (co : Coord) : Nat := 32 * co.rank + 4 * co.bg + co.ba

/-- One ACT of a bank: a pending sample of the bank index issues its DRFMsb first, with the blast radius of BRC, and the ACT
is sampled with probability 2^-K (R237, R241, R242). The LFSR's draw is free. -/
def Chip.activate (c : Chip) (n : Nat) (co : Coord) : Chip :=
  let key := 4 * co.rank + co.ba
  let c := if (c.mc n).sampled.contains key then
    c.modMc n fun m => { m with sampled := NatSet.erase m.sampled key, drfm := m.drfm + 1, drfmBrc := 1 + c.regFld (uMc n) 0 0x1050 4 4 } else c
  let c := c.modMc n fun m =>
    let m := { m with acts := m.acts + 1, ranks := Sparse.upd m.ranks {} co.rank fun r => { r with cap := 0 } }
    if co.sub = 0 then { m with lastA := co.bankNo } else { m with lastB := co.bankNo }
  if c.regFld (uMc n) 0 0x1050 8 8 = 1 ∧ c.faulty (uMc n) 0 0x1050 = false then
    let (v, c) := c.pick (2 ^ c.regFld (uMc n) 0 0x1050 3 0)
    if v = 0 then c.modMc n fun m => { m with sampled := NatSet.insert m.sampled key } else c
  else c

/-- A line as a write buffer holds it, latest write first (R238). -/
def Mc.buffered (m : Mc) (rank idx : Nat) : Option McWr :=
  ((m.wbufA ++ m.wbufB).reverse.find? fun w => decide (w.rank = rank) && decide (w.idx = idx))

/-- A line read from DRAM and decoded with transient errors in the devices listed beside the stored ones (R227, R228,
R247): the data, its poison, whether the decode was uncorrectable, and the state after correction or poisoning. A demand or
patrol read rewrites the line, with the data as decoded where that is uncorrectable, unless a write of it is in the write
buffer (R247, R249). -/
def Chip.readDram (c : Chip) (n l : Nat) (co : Coord) (devs : List Nat) (by_ : ReadBy) : Line × Bool × Bool × Chip :=
  let key := memKey n co.rank co.idx
  let c := c.activate n co
  let (d, p) := c.rawLine key
  let rewrites := by_.rewrites && ((c.mc n).buffered co.rank co.idx).isNone
  let (ch, c) := (Config.miscorrect c.fresh, { c with fresh := c.fresh + 1 })
  match decodeBurst (devs ++ Sparse.at (c.mc n).bad [] key) ch with
  | .clean => (d, p, false, c)
  | .corrected dev =>
    let c := if rewrites then (c.storeLine key d p).modMc n fun m => { m with bad := Sparse.del m.bad key } else c
    let c := c.modMc n fun m => { m with
      lastCe := BitVec.ofNat 48 (l % 2 ^ 40 + co.rank * 2 ^ 40 + co.sub * 2 ^ 43 + dev % 16 * 2 ^ 44) }
    let c := c.logErr (uMc n) (dramErr .corrected co dev by_)
    (d, p, false, c.countCe n co.rank)
  | .detected =>
    let (x, c) := (Config.decodedLine c.fresh d, { c with fresh := c.fresh + 1 })
    let c := if rewrites then (c.storeLine key x true).modMc n fun m => { m with bad := Sparse.del m.bad key } else c
    let c := if p then c else c.logErr (uMc n) (dramErr .deferred co 0 by_)
    (x, true, true, c.countUe n co.rank)
  | .wrong => (Config.decodedLine c.fresh d, p, false, { c with fresh := c.fresh + 1 })

/-- A read of a rank's line: from the write buffer, or from the devices (R238). -/
def Chip.rankRead (c : Chip) (n l : Nat) (co : Coord) (devs : List Nat) (by_ : ReadBy) : Line × Bool × Bool × Chip :=
  match (c.mc n).buffered co.rank co.idx with
  | some w => (w.data, w.poison, false, c)
  | none => c.readDram n l co devs by_

/-- The rank that holds the newest copy of a line's address: the spare for a copied line of the source rank (R253). -/
def Chip.servingRank (c : Chip) (n : Nat) (co : Coord) : Nat :=
  if c.spareState n = 2 ∧ c.spareSource n = co.rank ∧ (c.mc n).lineCopied co.idx = true then c.spareRank n else co.rank

/-- A read of a channel-local line from the rank that serves it; where the spare decodes as uncorrectable the source is read
(R238, R253). -/
def Chip.chanRead (c : Chip) (n l : Nat) (devs : List Nat) (by_ : ReadBy) : Line × Bool × Chip :=
  let co := c.coord n l
  let r := c.servingRank n co
  let (d, p, bad, c) := c.rankRead n l { co with rank := r } devs by_
  if bad && decide (r ≠ co.rank) then let (d, p, _, c) := c.rankRead n l co [] by_; (d, p, c) else (d, p, c)

/-- One write-buffer entry written to its rank with an ACT; the errors stored with the old line are gone (R226, R237). -/
def Chip.commitWr (c : Chip) (n : Nat) (w : McWr) : Chip :=
  let key := memKey n w.rank w.idx
  ((c.activate n { c.coord n w.idx with rank := w.rank }).storeLine key w.data w.poison).modMc n fun m =>
    { m with bad := Sparse.del m.bad key }

/-- A subchannel's write buffer written oldest first until at most `left` lines remain (R238). -/
def Chip.drainBuf (c : Chip) (n sub left : Nat) : Chip :=
  let b := if sub = 0 then (c.mc n).wbufA else (c.mc n).wbufB
  let k := b.length - left
  let c := (b.take k).foldl (fun c w => c.commitWr n w) c
  c.modMc n fun m => if sub = 0 then { m with wbufA := b.drop k, drainA := false }
    else { m with wbufB := b.drop k, drainB := false }

/-- A line placed in a subchannel's write buffer; 48 lines begin a drain (R238). -/
def Chip.pushWr (c : Chip) (n sub : Nat) (w : McWr) : Chip :=
  c.modMc n fun m =>
    if sub = 0 then { m with wbufA := m.wbufA ++ [w], drainA := m.drainA || decide (48 ≤ m.wbufA.length + 1) }
    else { m with wbufB := m.wbufB ++ [w], drainB := m.drainB || decide (48 ≤ m.wbufB.length + 1) }

/-- Write-buffer lines of a subchannel in use, those kept for admitted writes whose WbData is to come included (R157, R238). -/
def Chip.wrUsed (c : Chip) (n sub : Nat) : Nat :=
  let m := c.mc n
  (if sub = 0 then m.wbufA else m.wbufB).length
    + (m.puts.filter fun p => match c.mapAddr (p.line * 64) with
        | some (false, _, l) => decide (l / 64 % 2 = sub)
        | _ => false).length

/-- A write of a channel-local line: into the write buffer, and for a copied line of the source rank into the spare's as
well (R238, R253). -/
def Chip.chanWrite (c : Chip) (n l : Nat) (d : Line) (p : Bool) : Chip :=
  let co := c.coord n l
  let c := c.pushWr n co.sub ⟨co.rank, co.idx, d, p⟩
  if c.spareState n = 2 ∧ c.spareSource n = co.rank ∧ (c.mc n).lineCopied co.idx = true then
    c.pushWr n co.sub ⟨c.spareRank n, co.idx, d, p⟩
  else c

/-- Sub-link 0 of a port is up (R387). -/
def Chip.cxlUp (c : Chip) (p : Nat) : Bool := (c.reg (uPx p) 0 0x1048).getLsbD 0

/-- A line of CXL memory read: what the device holds, or poison with a deferred record while sub-link 0 is down (R378). -/
def Chip.cxlRead (c : Chip) (p l : Nat) : Line × Bool × Chip :=
  let (d, q) := c.rawLine (memKey (12 + p) 0 l)
  if c.cxlUp p then (d, q, c)
  else (d, true, c.logErr (uPx p) { cls := .deferred, struct := 0x17 })

/-- A line of CXL memory written; while sub-link 0 is down the write is discarded with an uncorrected-contained record
that names its line (R378). -/
def Chip.cxlWrite (c : Chip) (p l line : Nat) (d : Line) (q : Bool) : Chip :=
  if c.cxlUp p then c.storeLine (memKey (12 + p) 0 l) d q
  else c.logErr (uPx p) { cls := .uncorrected, struct := 0x17, addr := line * 64, at_ := 1 }

/-- A line read for its home: data, poison; none where no enabled set covers it (R44). -/
def Chip.memRead (c : Chip) (line : Nat) (devs : List Nat := []) : Option (Line × Bool × Chip) :=
  match c.mapAddr (line * 64) with
  | none => none
  | some (true, port, l) => some (c.cxlRead port (l / 64))
  | some (false, n, l) => some (c.chanRead n (l / 64) devs (.demand (line * 64)))

/-- Data from a memory controller straight to the agent that DELIVER names (R156, R162). -/
def Chip.deliver (c : Chip) (n : Agent) (m : Msg) (d : Line) (p : Bool) : Chip :=
  c.send { kind := .data, src := n, dst := m.req, line := m.line, grant := m.grant, waitCmp := m.waitCmp, data := d, poison := p, ifetch := m.ifetch, once := m.once }

/-- The access of a queued read: ACT, decode, Data (R236, R237, R239). -/
def Chip.serveRead (c : Chip) (n : Nat) (r : McReq) : Chip :=
  let (d, p, c) := c.chanRead n r.loc r.errs (.demand (r.msg.line * 64))
  c.deliver (.mc n) r.msg d p

/-- Bank of a queued read, by subchannel and number within it. -/
def Chip.reqBank (c : Chip) (n : Nat) (r : McReq) : Nat × Nat := let co := c.coord n r.loc; (co.sub, co.bankNo)

/-- Admitted reads move into their banks' queues, oldest first, while these have room; one whose queue is full does not hold
up the others (R236). -/
def Chip.promote (c : Chip) (n : Nat) : Chip :=
  (c.mc n).adm.foldl (fun (c : Chip) r =>
    if ((c.mc n).queue.filter fun q => decide (c.reqBank n q = c.reqBank n r)).length < 8 then
      c.modMc n fun m => { m with adm := m.adm.erase r, queue := m.queue ++ [r] }
    else c) c

/-- The eight admission entries of a home are in use (R157, R236). -/
def Mc.admFull (m : Mc) (src : Agent) : Bool :=
  decide (8 ≤ (m.adm.filter fun r => decide (r.msg.src = src)).length + (m.puts.filter fun p => decide (p.src = src)).length)

/-- A RdOnce at a memory controller (R156, R236, R238): a line in the write buffer is served from it; any other read waits in
its bank's queue for BANK_ACTIVATE. A REQ that finds its home's entries in use stays in the mesh. -/
def Chip.mcRdOnce (c : Chip) (n : Nat) (m : Msg) (errs : List Nat) : Chip :=
  match c.mapAddr (m.line * 64) with
  | some (false, ch, l) =>
    let r : McReq := ⟨m, l / 64, errs⟩
    let co := c.coord n (l / 64)
    if ch ≠ n then c.take m
    else if ((c.mc n).buffered (c.servingRank n co) co.idx).isSome then (c.take m).serveRead n r
    else if (c.mc n).admFull m.src then c
    else ((c.take m).modMc n fun x => { x with adm := x.adm ++ [r] }).promote n
  | _ => (c.take m).send { kind := .cmp, src := .mc n, dst := m.req, line := m.line, err := true }

/-- WbData of a home's write in the write buffer, and WbAck (R238); a line that no set covers any more is lost with its set
(R44). -/
def Chip.mcStore (c : Chip) (n : Nat) (m : Msg) : Chip :=
  (match c.mapAddr (m.line * 64) with
  | some (false, ch, l) => if ch = n then c.chanWrite n (l / 64) m.data m.poison else c
  | _ => c).send { kind := .wbAck, src := .mc n, dst := m.src, line := m.line }

/-- A PutDirty of a home at a memory controller (R157, R238): admitted while its home has an entry free and its subchannel's
write buffer room, else it stays in the mesh; stored once its WbData is there. -/
def Chip.mcPutDirty (c : Chip) (n : Nat) (m : Msg) : Chip :=
  let sub := match c.mapAddr (m.line * 64) with
    | some (_, _, l) => l / 64 % 2
    | none => 0
  if (c.mc n).admFull m.src || decide (64 ≤ c.wrUsed n sub) then c
  else match (c.mc n).wbd.find? fun w => decide (w.line = m.line ∧ w.src = m.src) with
    | some w => ((c.take m).modMc n fun x => { x with wbd := x.wbd.erase w }).mcStore n w
    | none => (c.take m).modMc n fun x => { x with puts := x.puts ++ [m] }

/-- WbData of a home at a memory controller (R157, R238): it never waits, and one that comes before its PutDirty is kept. -/
def Chip.mcWbData (c : Chip) (n : Nat) (m : Msg) : Chip :=
  let c := c.take m
  match (c.mc n).puts.find? fun p => decide (p.line = m.line ∧ p.src = m.src) with
  | some p => (c.modMc n fun x => { x with puts := x.puts.erase p }).mcStore n m
  | none => c.modMc n fun x => { x with wbd := x.wbd ++ [m] }

/-- Close at a memory controller (R194): each line of the 2 KiB slot that it serves is read and returned as Data. `line` is the
slot's first line; a slot that an interleave set spreads over channels is asked of each (log 86). -/
def Chip.mcClose (c : Chip) (n : Nat) (m : Msg) : Chip :=
  (List.range 32).foldl (fun (c : Chip) k =>
    let line := m.line + k
    match c.mapAddr (line * 64) with
    | some (false, ch, l) =>
      if ch = n then
        let (d, p, c) := c.chanRead n (l / 64) [] (.demand (line * 64))
        c.send { kind := .data, src := .mc n, dst := m.src, line := line, data := d, poison := p }
      else c
    | _ => c) (c.take m)

/-! Non-posted requests of a port (R363, R372, R373, R377). -/

/-- The first tag from `t` on, modulo 16,384, that is neither in use nor in quarantine, among the next n (R373). -/
def tagFrom (used : Nat → Bool) (t : Nat) : Nat → Option Nat
  | 0 => none
  | n + 1 => if used (t % 16384) then tagFrom used (t + 1) n else some (t % 16384)

/-- The next free tag of a sub-link: ascending modulo 16,384, skipping tags in use or in quarantine; none while 1,024
requests are out (R363, R373). -/
def Px.freeTag (x : Px) (s : Nat) : Option Nat :=
  if 1024 ≤ (x.np.filter fun r => decide (r.sub = s)).length then none
  else tagFrom (fun t => (x.np.any fun r => decide (r.sub = s ∧ r.tag = t)) || x.quar.contains (s, t)) (Sparse.at x.subs {} s).nextTag 16384

/-- A TLP handed to a sub-link: on the wire, or waiting while the link is down or in L1 (R374, R375). -/
def Px.put (x : Px) (t : TlpOut) : Px :=
  let s := Sparse.at x.subs {} t.sub
  if s.up ∧ s.l1 = 0 then { x with sent := x.sent ++ [t] }
  else { x with subs := Sparse.put x.subs t.sub { s with waiting := s.waiting ++ [t] } }

/-- A non-posted request sent; none when no tag is free, and it waits (R373). -/
def Px.request (x : Px) (t : TlpOut) (who : NpFor) (len : Nat) (vid : Bool) : Option Px :=
  match x.freeTag t.sub with
  | none => none
  | some tag =>
    let x := x.put { t with tag := tag }
    some { x with np := x.np ++ [{ sub := t.sub, tag := tag, who := who, len := len, vid := vid }],
                  subs := Sparse.upd x.subs {} t.sub fun s => { s with nextTag := (tag + 1) % 16384 } }

/-- A RdOnce or PutDirty of a home at a bus port that hosts CXL Type 3 memory: a MemRd or MemWr on sub-link 0, answered when
the device completes it (R377); at once while the link is down (R378). A PutDirty waits in the mesh for its WbData. -/
def Chip.cxlMessage (c : Chip) (p : Nat) (req : Msg) : Chip :=
  let wb := (c.px p).wbd.find? fun w => decide (w.line = req.line ∧ w.src = req.src)
  let m := match wb with
    | some w => if req.kind = .putDirty then { req with data := w.data, poison := w.poison } else req
    | none => req
  let paid (c : Chip) : Chip :=
    let c := c.take req
    match wb with
    | some w => if req.kind = .putDirty then c.modPx p fun x => { x with wbd := x.wbd.erase w } else c
    | none => c
  if req.kind = .putDirty ∧ wb.isNone then c
  else match c.mapAddr (m.line * 64) with
  | some (true, port, l) =>
    if port ≠ p then c
    else if c.cxlUp p = false then
      if m.kind = .putDirty then
        ((paid c).cxlWrite p (l / 64) m.line m.data m.poison).send { kind := .wbAck, src := .unit (uPx p), dst := m.src, line := m.line }
      else
        let (d, q, c) := (paid c).cxlRead p (l / 64)
        c.deliver (.unit (uPx p)) m d q
    else
      let t : TlpOut := { sub := 0, kind := if m.kind = .putDirty then .cxlWrite else .cxlRead, addr := l,
                          bytes := if m.kind = .putDirty then lineBytes m.data else [], len := 64, ep := m.poison }
      let x := Sparse.at c.pxs {} p
      if 512 ≤ x.np.length then c
      else match x.request t (.mesh m) 64 false with
        | some x => (paid c).modPx p fun y => { x with wbd := y.wbd }
        | none => c
  | _ => (paid c).send { kind := .cmp, src := .unit (uPx p), dst := m.req, line := m.line, err := true }

end Sys2Proof.Machine
end

