-- ==== Sys2Proof/Machine/Caches.lean ====
section
/-! DEFINITION. Lookups and updates of the L2s, the L3 slices and the directory (R147-R155, R165, R178, R517). -/

namespace Sys2Proof.Machine

/-! Tree pseudo-LRU (R147; log 14): bit n of a set's tree points from node n to the half that was used longer ago, 0 the
lower half; the root is node 1 and the halves of node n are nodes 2n and 2n + 1. -/

/-- The tree of 2^k ways after a use of way w: every node on its path points away from it. -/
def plruTouch (k tree w : Nat) : Nat :=
  (List.range k).foldl (fun t j =>
    let n := 2 ^ j + w / 2 ^ (k - j)
    let t := t - t / 2 ^ n % 2 * 2 ^ n
    if w / 2 ^ (k - 1 - j) % 2 = 0 then t + 2 ^ n else t) tree

/-- The way that the tree points to, among those allowed: below a node whose pointed half has none, the other half. -/
def plruVictim (ok : Nat → Bool) (tree : Nat) : Nat → Nat → Nat → Option Nat
  | 0, _, w => if ok w then some w else none
  | k + 1, n, w =>
    let lo := plruVictim ok tree k (2 * n) w
    let hi := plruVictim ok tree k (2 * n + 1) (w + 2 ^ k)
    if tree / 2 ^ n % 2 = 1 then hi <|> lo else lo <|> hi

/-! L1I and L1D (R147, R149). -/

def L1.find (a : L1) (line : Nat) : Option Nat := (a.ways.find? fun e => decide (e.2 = line)).map (·.1)

/-- A way marked as used. -/
def L1.use (a : L1) (k : Nat) : L1 :=
  { a with tree := Sparse.put a.tree (k / 16) (plruTouch 4 (Sparse.at a.tree 0 (k / 16)) (k % 16)) }

/-- The way that a fill of a set takes: an empty one first, else the tree's. -/
def L1.way (a : L1) (set : Nat) : Nat :=
  (((List.range 16).find? fun w => (Sparse.find a.ways (16 * set + w)).isNone)
    <|> plruVictim (fun _ => true) (Sparse.at a.tree 0 set) 4 1 0).getD 0

/-- An access to a line: a hit marks its way, a miss fills one (R147: the set is the line's low six bits) and gives the line
that leaves. -/
def L1.fill (a : L1) (line : Nat) : L1 × Option Nat :=
  match a.find line with
  | some k => (a.use k, none)
  | none =>
    let k := 16 * (line % 64) + a.way (line % 64)
    (({ a with ways := Sparse.put a.ways k line } : L1).use k, Sparse.find a.ways k)

def L1.drop (a : L1) (line : Nat) : L1 := { a with ways := a.ways.filter fun e => !decide (e.2 = line) }

/-! L2 (R147-R149). -/

/-- Key and record of a line in an L2. -/
def Core.find (x : Core) (line : Nat) : Option (Nat × L2Line) :=
  (x.l2.find? fun e => decide (e.2.line = line))

def Core.line (x : Core) (line : Nat) : Option L2Line := (x.find line).map (·.2)

/-- An L2 with one line's record changed, or dropped on none with its L1 copies (R149). -/
def Core.setLine (x : Core) (line : Nat) (f : L2Line → Option L2Line) : Core :=
  match x.find line with
  | none => x
  | some (k, l) => match f l with
    | some l' => { x with l2 := Sparse.put x.l2 k l' }
    | none => { x with l2 := Sparse.del x.l2 k, l1i := x.l1i.drop line, l1d := x.l1d.drop line }

/-- A writeback buffer entry of a line (R166). -/
def Core.buffered (x : Core) (line : Nat) : Option WbEnt := x.wb.find? fun w => decide (w.line = line)

/-- An outstanding request for a line. -/
def Core.pending (x : Core) (line : Nat) : Option L2Req := x.reqs.find? fun r => decide (r.line = line)

def L2State.dirty : L2State → Bool
  | .m => true | .o => true | _ => false

/-- Held with permission to write (R104, R115). -/
def L2State.owned : L2State → Bool
  | .m => true | .e => true | _ => false

/-- A Put of a line for its home (R165, R174): PutDirty from M or O, PutClean from E or S; its WbData carries the line
and its poison. A discarded line's data is not stored. -/
def putMsgs (core : Nat) (w : WbEnt) : List Msg :=
  let k := if w.st.dirty && !w.discard then MsgKind.putDirty else .putClean
  let home := Agent.home (homeSlice w.line)
  [{ kind := k, src := .core core, dst := home, line := w.line, keep := w.keep, discard := w.discard },
   { kind := .wbData, src := .core core, dst := home, line := w.line, data := w.data, poison := w.poison,
     mask := BitVec.allOnes 64, forPut := true }]

/-- CLOS that a core's REQ carries (R156, R175); a faulted register's value is never used (R63). -/
def Chip.coreClos (c : Chip) (core : Nat) : Nat :=
  if c.faulty (uCore core) 0 0x1040 then 0 else c.regFld (uCore core) 0 0x1040 3 0

/-- Writeback buffer entries whose Put may leave: one Put outstanding to each home (R158). -/
def Chip.sendPuts (c : Chip) (core : Nat) : Chip :=
  let x := c.core core
  let (wb, ms) := x.wb.foldl (fun (acc : List WbEnt × List Msg) w =>
    if w.sent || (acc.1.any fun v => v.sent && decide (homeSlice v.line = homeSlice w.line))
      || (x.wb.any fun v => v.sent && decide (homeSlice v.line = homeSlice w.line)) then (acc.1 ++ [w], acc.2)
    else (acc.1 ++ [{ w with sent := true }], acc.2 ++ (putMsgs core w).map fun m => { m with clos := c.coreClos core }))
    ([], [])
  (c.modCore core fun x => { x with wb := wb }).sendAll ms

/-- A reservation on the line is lost, with the L1D copy, for every hart that the core runs (R116). -/
def Chip.dropResv (c : Chip) (x line : Nat) : Chip :=
  if (c.core x).hartValid then
    c.modHart (c.core x).hartId fun h => if h.resv = some line then { h with resv := none } else h
  else c

/-- An L2 line moved into the writeback buffer; the copies in L1 go with it, and a reservation on
them (R116, R149, R165). Refused while the buffer's 16
lines are in use (R149), and while a request for the line is outstanding (log 14). -/
def Chip.evict (c : Chip) (core line : Nat) (discard : Bool := false) : Chip :=
  let x := c.core core
  match x.line line with
  | some l =>
    if 16 ≤ x.wb.length || (x.pending line).isSome then c
    else
      let w : WbEnt := { line := line, st := l.st, data := l.data, poison := l.poison, sent := false, discard := discard }
      ((c.modCore core fun x => { x.setLine line (fun _ => none) with wb := x.wb ++ [w] }).sendPuts core).dropResv core line
  | none => c

/-- A dirty line cleaned in place with PutDirty KEEP: M becomes E and O becomes S (R165, R174). -/
def Chip.cleanKeep (c : Chip) (core line : Nat) : Chip :=
  let x := c.core core
  match x.line line with
  | some l =>
    if l.st.dirty && decide (x.wb.length < 16) then
      let w : WbEnt := { line := line, st := l.st, data := l.data, poison := l.poison, sent := false, keep := true }
      (c.modCore core fun x =>
        { x.setLine line (fun l => some { l with st := if l.st = .m then .e else .s }) with wb := x.wb ++ [w] }).sendPuts core
    else c
  | none => c

/-- A free way of an L2 set for a line, if any. -/
def Core.freeWay (x : Core) (set : Nat) : Option Nat :=
  (List.range 16).find? fun w => (Sparse.find x.l2 (16 * set + w)).isNone

/-- The way that a fill of an L2 set takes (R147): an empty way first, else the tree's, never that of a line with an
outstanding request (log 14). -/
def Core.l2Way (x : Core) (set : Nat) : Option Nat :=
  x.freeWay set <|> plruVictim (fun w => match Sparse.find x.l2 (16 * set + w) with
    | some l => (x.pending l.line).isNone
    | none => true) (Sparse.at x.l2tree 0 set) 4 1 0

/-- The L2 can place a line at once: over its own copy, in a free way, or over a victim that the writeback buffer has room
for (R149, R165). -/
def Core.canFill (x : Core) (line : Nat) : Bool :=
  (x.line line).isSome || (x.freeWay (l2Set line)).isSome || ((x.l2Way (l2Set line)).isSome && decide (x.wb.length < 16))

/-- An L2 position marked as used. -/
def Core.use2 (x : Core) (k : Nat) : Core :=
  { x with l2tree := Sparse.put x.l2tree (k / 16) (plruTouch 4 (Sparse.at x.l2tree 0 (k / 16)) (k % 16)) }

/-- A line placed in an L2 that can take it (R149, R163): over its own copy, whose L1 copies stay, else in the way of
`l2Way`, whose line is evicted first. -/
def Chip.l2Fill (c : Chip) (core : Nat) (l : L2Line) : Chip :=
  let x := c.core core
  match x.find l.line with
  | some (k, o) => c.modCore core fun x =>
      ({ x with l2 := Sparse.put x.l2 k { l with l1i := l.l1i || o.l1i, l1d := l.l1d || o.l1d } } : Core).use2 k
  | none =>
    match x.l2Way (l2Set l.line) with
    | none => c
    | some w =>
      let k := 16 * l2Set l.line + w
      let c := match Sparse.find x.l2 k with | some v => c.evict core v.line | none => c
      c.modCore core fun x => ({ x with l2 := Sparse.put x.l2 k l } : Core).use2 k

/-- An L2 without the presence bit of a line that leaves an L1 (R149). -/
def Core.leaves (x : Core) (v : Option Nat) (f : L2Line → L2Line) : Core :=
  match v with
  | some n => { x with l2 := x.l2.map fun e => if e.2.line = n then (e.1, f e.2) else e }
  | none => x

/-- An access that misses L1 uses the line's way of the L2. -/
def Core.missL1 (x : Core) (a : L1) (line : Nat) : Core :=
  match a.find line, x.find line with
  | none, some (k, _) => x.use2 k
  | _, _ => x

/-- An access to a line of the L2 through L1D (R147, R149): a hit, or a fill whose victim leaves L1D, and with it a
reservation on that line (R116). -/
def Chip.useD (c : Chip) (core line : Nat) : Chip :=
  let (a, v) := (c.core core).l1d.fill line
  let c := c.modCore core fun x =>
    let y := (x.missL1 x.l1d line).setLine line fun l => some { l with l1d := true }
    ({ y with l1d := a } : Core).leaves v fun l => { l with l1d := false }
  match v with
  | some n => c.dropResv core n
  | none => c

/-- An instruction fetch of a line of the L2 through L1I (R147, R149). -/
def Chip.useI (c : Chip) (core line : Nat) : Chip :=
  let (a, v) := (c.core core).l1i.fill line
  c.modCore core fun x =>
    let y := (x.missL1 x.l1i line).setLine line fun l => some { l with l1i := true }
    ({ y with l1i := a } : Core).leaves v fun l => { l with l1i := false }

/-- L1I emptied (R114, R119). -/
def Core.emptyI (x : Core) : Core := { x with l1i := {}, l2 := x.l2.map fun e => (e.1, { e.2 with l1i := false }) }

/-- Both L1s emptied, dirty lines into the L2 (R119, R149). -/
def Core.emptyL1 (x : Core) : Core :=
  { x with l1i := {}, l1d := {}, l2 := x.l2.map fun e => (e.1, { e.2 with l1i := false, l1d := false }) }

/-! Writes of a home to memory (R156, R157). -/

/-- The agent that serves a line's memory: its channel's controller, or the bus port of its CXL memory. -/
def Chip.memAgent (c : Chip) (line : Nat) : Agent :=
  match c.mapAddr (line * 64) with
  | some (true, p, _) => .unit (uPx p)
  | some (false, n, _) => .mc n
  | none => .bridge

/-- The writes of a home that may leave: PutDirty and WbData for each whose line no earlier write is out for. -/
def Chip.sendMwr (c : Chip) (i : Nat) : Chip :=
  let (ws, ms) := (c.home i).mwr.foldl (fun (acc : List MemWr × List Msg) w =>
    if w.sent || acc.1.any fun v => decide (v.line = w.line) then (acc.1 ++ [w], acc.2)
    else
      let to_ := c.memAgent w.line
      (acc.1 ++ [{ w with sent := true }], acc.2 ++
        [{ kind := .putDirty, src := .home i, dst := to_, line := w.line },
         { kind := .wbData, src := .home i, dst := to_, line := w.line, data := w.data, poison := w.poison, mask := BitVec.allOnes 64 }])) ([], [])
  (c.modHome i fun x => { x with mwr := ws }).sendAll ms

/-- A line written to memory by its home, which keeps the data until the WbAck; a line that no set covers any more is lost with
its set (R44). -/
def Chip.memPut (c : Chip) (i line : Nat) (d : Line) (p : Bool) : Chip :=
  if (c.mapAddr (line * 64)).isNone then c
  else (c.modHome i fun x => { x with mwr := x.mwr ++ [{ line := line, data := d, poison := p }] }).sendMwr i

/-- The newest data of a line among a home's writes that are still out. -/
def Home.writing (hm : Home) (line : Nat) : Option MemWr := hm.mwr.reverse.find? fun w => decide (w.line = line)

/-- WbAck of a memory controller at a home (R156): the oldest write of the line is done. -/
def Chip.mwrAck (c : Chip) (i line : Nat) : Chip :=
  (c.modHome i fun x => { x with mwr := x.mwr.eraseP fun w => w.sent && decide (w.line = line) }).sendMwr i

/-! L3 (R147, R151, R178, R517). -/

def Home.l3Find (hm : Home) (line : Nat) : Option (Nat × L3Line) := hm.l3.find? fun e => decide (e.2.line = line)

/-- The ways in which a class may allocate (R178): all 24 while the register holds a parity fault. -/
def Chip.hurdle (c : Chip) (slice clos : Nat) : Nat :=
  let off := 0x1040 + 4 * (clos % 16)
  if c.faulty (uSlice slice) 0 off then 0xFFFFFF else c.regFld (uSlice slice) 0 off 23 0

/-- The way that an allocation of a class takes in a set, and the state after its victim is written or dropped: never a
placeholder's way, an empty way first, else the tree's within the hurdle (R147, R517, log 14). None when every way of the
hurdle is a placeholder. -/
def Chip.l3Way (c : Chip) (slice set clos : Nat) : Option (Nat × Chip) :=
  let hm := c.home slice
  let mask := c.hurdle slice clos
  let ways := (List.range 24).filter fun w => decide (mask / 2 ^ w % 2 = 1) &&
    match Sparse.find hm.l3 (32 * set + w) with | some l => !l.pen | none => true
  match ways.find? fun w => (Sparse.find hm.l3 (32 * set + w)).isNone with
  | some w => some (w, c)
  | none =>
    match plruVictim (fun w => ways.contains w) (Sparse.at hm.l3tree 0 set) 5 1 0 with
    | none => none
    | some w =>
      match Sparse.find hm.l3 (32 * set + w) with
      | some v =>
        let c := if v.dirty then c.memPut slice v.line v.data v.poison else c
        some (w, c.modHome slice fun x => { x with l3 := Sparse.del x.l3 (32 * set + w) })
      | none => some (w, c)

/-- An L3 position marked as used (R147; log 14). -/
def Home.use3 (hm : Home) (k : Nat) : Home :=
  { hm with l3tree := Sparse.put hm.l3tree (k / 32) (plruTouch 5 (Sparse.at hm.l3tree 0 (k / 32)) (k % 32)) }

/-- A line written into the L3 (R151): over its own copy, which takes the writer's class (R169; log 78), or in a way
allocated in its class; with no way to take, dirty data goes to memory and clean data is dropped (R517). -/
def Chip.l3Fill (c : Chip) (slice line : Nat) (d : Line) (p dirty : Bool) (clos : Nat) : Chip :=
  match (c.home slice).l3Find line with
  | some (k, o) => c.modHome slice fun x =>
      ({ x with l3 := Sparse.put x.l3 k { o with data := d, poison := p, dirty := dirty || (o.dirty && !o.pen), pen := false, clos := clos } } : Home).use3 k
  | none =>
    match c.l3Way slice (homeSet line) clos with
    | some (w, c) => c.modHome slice fun x =>
        ({ x with l3 := Sparse.put x.l3 (32 * homeSet line + w) { line := line, dirty := dirty, clos := clos, poison := p, data := d } } : Home).use3 (32 * homeSet line + w)
    | none => if dirty then c.memPut slice line d p else c

/-- A line's L3 copy dropped. -/
def Chip.l3Drop (c : Chip) (slice line : Nat) : Chip :=
  c.modHome slice fun x => { x with l3 := x.l3.filter fun e => !decide (e.2.line = line) }

/-- A line's way of the L3 marked as used by a hit (R147). -/
def Chip.l3Hit (c : Chip) (slice line : Nat) : Chip :=
  match (c.home slice).l3Find line with
  | some (k, _) => c.modHome slice fun x => x.use3 k
  | none => c

/-- An L3 copy with data, if any: a placeholder holds none (R517). -/
def Home.l3Data (hm : Home) (line : Nat) : Option L3Line :=
  match hm.l3Find line with
  | some (_, l) => if l.pen then none else some l
  | none => none

/-! Directory (R152-R155). -/

def Home.dirFind (hm : Home) (line : Nat) : Option (Nat × DirEnt) := hm.dir.find? fun e => decide (e.2.line = line)

/-- A free way of a directory set, if any (R147: 20 ways). -/
def Home.dirWay (hm : Home) (set : Nat) : Option Nat :=
  (List.range 20).find? fun w => (Sparse.find hm.dir (32 * set + w)).isNone

/-- The directory with a line's entry replaced, or a new entry in a free way, marked most recently used. A use of an entry,
for the LRU of R147, is a write of it: a lookup that changes nothing does not count (DESIGN CHOICE, log 78). -/
def Home.setDir (hm : Home) (e : DirEnt) : Home :=
  let e := { e with lru := hm.clock }
  match hm.dirFind e.line with
  | some (k, _) => { hm with dir := Sparse.put hm.dir k e, clock := hm.clock + 1 }
  | none => match hm.dirWay (homeSet e.line) with
    | some w => { hm with dir := Sparse.put hm.dir (32 * homeSet e.line + w) e, clock := hm.clock + 1 }
    | none => hm

/-- The line becomes Uncached (R152). -/
def Home.dropDir (hm : Home) (line : Nat) : Home := { hm with dir := hm.dir.filter fun e => !decide (e.2.line = line) }

/-- Fold bits of a list of cores (R154). -/
def foldBits (cs : List Nat) : BitVec 20 := cs.foldl (fun b k => b ||| BitVec.twoPow 20 (foldOfCore k)) 0

/-- A sharer added to an entry (R154): the fifth holder converts it to the fold vector. -/
def DirEnt.add (e : DirEnt) (r : Nat) : DirEnt :=
  if e.vec then { e with folds := e.folds ||| foldBits [r] }
  else if r ∈ e.ptrs then e
  else if e.ptrs.length < 4 then { e with ptrs := e.ptrs ++ [r] }
  else
    match e.st with
    | .owned => { e with vec := true, ptrs := e.ptrs.take 1, folds := foldBits (e.ptrs.drop 1 ++ [r]) }
    | _ => { e with vec := true, ptrs := [], folds := foldBits (e.ptrs ++ [r]) }

/-- A holder removed from an entry; none when the last holder leaves (R154, R165). A sharer of a fold vector leaves it
unchanged. -/
def DirEnt.remove (e : DirEnt) (r : Nat) : Option DirEnt :=
  match e.st with
  | .exclusive => if e.ptrs = [r] then none else some e
  | .owned =>
    if e.ptrs.head? = some r then
      if e.vec then some { e with st := .shared, ptrs := [] }
      else if (e.ptrs.drop 1).isEmpty then none else some { e with st := .shared, ptrs := e.ptrs.drop 1 }
    else if e.vec then some e else some { e with ptrs := e.ptrs.filter (· ≠ r) }
  | .shared =>
    if e.vec then some e
    else if (e.ptrs.filter (· ≠ r)).isEmpty then none else some { e with ptrs := e.ptrs.filter (· ≠ r) }

/-- Enabled cores of the folds of a vector (R154). -/
def Chip.foldCores (c : Chip) (f : BitVec 20) : List Nat :=
  (List.range 200).filter fun k => f.getLsbD (foldOfCore k) && (c.core k).enabled

/-- Cores that a snoop to every sharer reaches, without those listed (R154). -/
def Chip.sharers (c : Chip) (e : DirEnt) (but : List Nat) : List Nat :=
  (if e.vec then c.foldCores e.folds else (if e.st = .owned then e.ptrs.drop 1 else e.ptrs)).filter (· ∉ but)

/-- Every core that may hold a line: owner and sharers. -/
def Chip.holders (c : Chip) (e : DirEnt) (but : List Nat) : List Nat :=
  let own := match e.st with | .shared => [] | _ => (e.ptrs.take 1).filter (· ∉ but)
  own ++ match e.st with | .exclusive => [] | _ => c.sharers e (but ++ own)

/-- A core is listed as a holder (R165): by a pointer, or, in a fold vector, by its fold's bit. -/
def DirEnt.lists (e : DirEnt) (r : Nat) : Bool :=
  e.ptrs.contains r || (e.vec && e.folds.getLsbD (foldOfCore r))

/-- Owner of an Exclusive or Owned line. -/
def DirEnt.owner (e : DirEnt) : Option Nat := if e.st = .shared then none else e.ptrs.head?

/-! Blocked lines (R155, R161). -/

/-- The line of a transaction or the victim that one recalls. -/
def Txn.blocks (t : Txn) (line : Nat) : Bool :=
  decide (t.line = line) || match t.stage with | .recall v => decide (v = line) | _ => false

/-- A line is blocked: in a transaction (R161), or in an entry reserved for Close (R194). -/
def Home.blocked (hm : Home) (line : Nat) : Bool :=
  (hm.txns.any fun t => t.blocks line) || (hm.closes.any fun o => decide (o.line = line))
    || hm.pens.any fun e => decide (e.2.line = line) && decide (e.2.st = PenState.leaving)

/-- Number of tracker entries of a pool in use (R159); 2 are those reserved for Close. A wait queue lies in its line's entry: a line that is unblocked and
whose queue is not empty keeps a general entry (log 79). -/
def Home.inPool (hm : Home) (p : Nat) : Nat :=
  if p = 2 then hm.closes.length
  else (hm.txns.filter fun t => decide (t.pool = p)).length
    + (if p = 0 then (hm.waitq.filter fun e => !e.2.isEmpty && hm.txns.all fun t => !decide (t.line = e.1)).length else 0)

/-- The least recently used directory entry of a set whose line is not blocked (R147, R155). -/
def Home.dirVictim (hm : Home) (set : Nat) : Option DirEnt :=
  (hm.dir.filter fun e => decide (e.1 / 32 = set) && !hm.blocked e.2.line).foldl
    (fun b e => match b with
      | none => some e.2
      | some v => if e.2.lru < v.lru then some e.2 else some v) none

end Sys2Proof.Machine
end

