-- ==== Sys2Proof/Machine/Reduction.lean ====
section
/-! DEFINITION. Home reductions: pens, the spill index, opens, contributions and closes (R181-R203, R517). -/

namespace Sys2Proof.Machine

/-! Elements (R182, R183). -/

/-- Element width in bytes of a mode (R182). -/
def redBytes : RedMode → Nat
  | .f64Add => 8 | .i64Add => 8 | .f64Min => 8 | .i64Min => 8 | .f64Max => 8 | .i64Max => 8
  | .f32Add => 4 | .f32Min => 4 | .f32Max => 4

/-- Encoding of a mode (R182). -/
def redCode : RedMode → Nat
  | .f64Add => 0 | .f32Add => 1 | .i64Add => 2 | .f64Min => 3 | .f32Min => 4 | .i64Min => 5
  | .f64Max => 6 | .f32Max => 7 | .i64Max => 8

/-- What a mode does with its elements. -/
inductive RedArith where
  | fadd (f : Fmt) | iadd | fminmax (f : Fmt) (max : Bool) | iminmax (max : Bool)
deriving DecidableEq, Repr

def redArith : RedMode → RedArith
  | .f64Add => .fadd .d | .f32Add => .fadd .s | .i64Add => .iadd
  | .f64Min => .fminmax .d false | .f32Min => .fminmax .s false | .i64Min => .iminmax false
  | .f64Max => .fminmax .d true | .f32Max => .fminmax .s true | .i64Max => .iminmax true

/-- Bits of an add accumulator (R183). -/
def accBits : Fmt → Nat
  | .d => 2112 | _ => 320
/-- Exponent of the weight of bit 0 (R183). -/
def accWeight : Fmt → Int
  | .d => -1074 | _ => -149

/-- A two's-complement value of n bits: carries out of the top bit are discarded (R183). -/
def wrapTo (n : Nat) (x : Int) : Int := Int.bmod x (2 ^ n)

/-- A signed value of an encoding of w bits. -/
def signedOf (w : Nat) (x : Nat) : Int := if x % 2 ^ w < 2 ^ (w - 1) then (x % 2 ^ w : Nat) else ((x % 2 ^ w : Nat) : Int) - 2 ^ w

/-- The element that a line's value starts with (R184 step 4). -/
def elemOpen (m : RedMode) (x : Nat) : PenElem :=
  match redArith m with
  | .fadd f => match unpack f x with
    | .nan s => { qnan := !s, snan := s }
    | .inf n => { pinf := !n, ninf := n }
    | .fin n v e => { acc := wrapTo (accBits f) (sAt n v e (accWeight f)), zneg := n && decide (v = 0) }
  | .iadd => { acc := signedOf 64 x }
  | .iminmax _ => { acc := signedOf 64 x }
  | .fminmax _ _ => { acc := (x : Int) }

/-- A signalling NaN in a mode that looks at NaNs (R189). -/
def elemSig (m : RedMode) (x : Nat) : Bool :=
  match redArith m with
  | .fminmax f _ => isSig (unpack f x)
  | _ => false

/-- An element after one contribution (R183, R185, R189). -/
def elemApply (m : RedMode) (e : PenElem) (x : Nat) : PenElem :=
  match redArith m with
  | .fadd f => match unpack f x with
    | .nan s => { e with qnan := e.qnan || !s, snan := e.snan || s, zneg := false }
    | .inf n => { e with pinf := e.pinf || !n, ninf := e.ninf || n, zneg := false }
    | .fin n v g => { e with acc := wrapTo (accBits f) (e.acc + sAt n v g (accWeight f)), zneg := e.zneg && n && decide (v = 0) }
  | .iadd => { e with acc := wrapTo 64 (e.acc + signedOf 64 x) }
  | .iminmax mx => { e with acc := if mx then max e.acc (signedOf 64 x) else min e.acc (signedOf 64 x) }
  | .fminmax f mx => { e with acc := ((fMinMax f mx e.acc.toNat x).1 : Int) }

/-- The result and flags of one element at close (R188, R189). -/
def elemClose (m : RedMode) (e : PenElem) : Nat × BitVec 5 :=
  match redArith m with
  | .fadd f =>
    if e.qnan || e.snan then (fCanon f, if e.snan then fNV else 0)
    else if e.pinf && e.ninf then (fCanon f, fNV)
    else if e.pinf then (fInf f false, 0)
    else if e.ninf then (fInf f true, 0)
    else if e.acc = 0 then (fZero f e.zneg, 0)
    else roundPack f .rne (decide (e.acc < 0)) e.acc.natAbs (accWeight f)
  | .iadd => ((e.acc % 2 ^ 64).toNat, 0)
  | .iminmax _ => ((e.acc % 2 ^ 64).toNat, 0)
  | .fminmax f _ => (if isNan (unpack f e.acc.toNat) then fCanon f else e.acc.toNat, 0)

/-- Element i of a line in a mode (R182). -/
def lineElem (m : RedMode) (l : Line) (i : Nat) : Nat := l.toNat / 2 ^ (8 * redBytes m * i) % 2 ^ (8 * redBytes m)

/-- Operand element i of a RedOp, 16-bit elements widened exactly (R185). -/
def redElem (m : Msg) (i : Nat) : Nat :=
  let h := m.data.toNat / 2 ^ (16 * i) % 65536
  match m.red with
  | .half => (fConvert .s .rne (unpack .h h)).1
  | .bf16 => (fConvert .s .rne (unpack .bf h)).1
  | _ => lineElem m.mode m.data i

/-- A signalling 16-bit NaN keeps its kind through the widening of R185: the pen's SNAN sets (DEDUCED, log 20). -/
def redSigHalf (m : Msg) (i : Nat) : Bool :=
  let h := m.data.toNat / 2 ^ (16 * i) % 65536
  match m.red with
  | .half => isSig (unpack .h h)
  | .bf16 => isSig (unpack .bf h)
  | _ => false

/-- NV of the open line so far, as L3_PEN shows it (R201): it stays once an element's result at the close would raise it (R190;
log 86). -/
def Pen.nvNow (p : Pen) : Bool := p.nv || p.elems.any fun e => (elemClose p.mode e).2.getLsbD 4

/-- A pen opened on a line's value (R184). -/
def Pen.opened (line : Nat) (m : RedMode) (d : Line) (p : Bool) (clos : Nat) : Pen :=
  let n := 64 / (redBytes m)
  { line := line, mode := m, clos := clos, poison := p,
    elems := (List.range n).map fun i => elemOpen m (lineElem m d i),
    nv := (List.range n).any fun i => elemSig m (lineElem m d i) }

/-- A pen after one contribution (R185, R191: CNT saturates at 2^43 - 1). -/
def Pen.apply (p : Pen) (m : Msg) (now : Nat) : Pen :=
  { p with
    elems := p.elems.mapIdx fun i e =>
      let e' := elemApply p.mode e (redElem m i)
      if redSigHalf m i then { e' with snan := true, qnan := e.qnan } else e'
    nv := p.nvNow || (List.range p.elems.length).any fun i => elemSig p.mode (redElem m i)
    cnt := min (2 ^ 43 - 1) (p.cnt + 1)
    last := now }

/-- Count above which RANGE sets at close (R191). -/
def rangeLimit : RedMode → Option Nat
  | .f64Add => some 8191
  | .f32Add => some (2 ^ 42 - 1)
  | _ => none

/-- Line, and L3_RED_FLAGS bits NX, UF, OF, NV, RANGE and POISON, of a close (R188-R191, R201). -/
def Pen.result (p : Pen) : Line × Word :=
  let rs := p.elems.map (elemClose p.mode)
  let d := BitVec.ofNat 512 (rs.foldr (fun r acc => r.1 + 2 ^ (8 * redBytes p.mode) * acc) 0)
  let fl : BitVec 5 := rs.foldl (fun f r => f ||| r.2) 0
  let w := fld fl 0 0 + 2 * fld fl 1 1 + 4 * fld fl 2 2 + 8 * bit p.nvNow
    + 16 * (match rangeLimit p.mode with | some n => bit (decide (n < p.cnt)) | none => 0) + 64 * bit p.poison
  (d, BitVec.ofNat 32 w)

/-! Pens of a home. -/

def Home.penOf (hm : Home) (line : Nat) : Option (Nat × Pen) := hm.pens.find? fun e => decide (e.2.line = line)
def Home.spilled (hm : Home) (line : Nat) : Option (Nat × Pen) := hm.spill.find? fun e => decide (e.2.line = line)

/-- The open line's accumulator, resident or spilled (R181). -/
def Home.openPen (hm : Home) (line : Nat) : Option Pen := ((hm.penOf line) <|> (hm.spilled line)).map (·.2)

/-- Slots that a slice owns (R193), at most the spill index's 512. -/
def Chip.slotsOf (c : Chip) (slice : Nat) : Nat :=
  if slice < c.spillLines then min 512 ((c.spillLines - 1 - slice) / 100 + 1) else 0

/-! Slots (R193, R194). What a slot holds is internal: here the low bits of each element's accumulator, elements in order from
bit 0, while the rest of the open line stays in the spill index (DESIGN CHOICE, log 86). -/

/-- Bits of a slot that an element has. -/
def Pen.slotBits (p : Pen) : Nat := 16384 / max 1 p.elems.length

/-- What of an open line a slot holds. -/
def Pen.low (p : Pen) : Nat := p.elems.foldr (fun e acc => (e.acc % 2 ^ p.slotBits).toNat + 2 ^ p.slotBits * acc) 0

/-- What of an open line the spill index holds. -/
def Pen.high (p : Pen) : Pen := { p with st := .opened, elems := p.elems.map fun e => { e with acc := e.acc / 2 ^ p.slotBits } }

/-- An open line from the spill index and its slot. A slot that reads back with poison sets POISON (R197). -/
def Pen.join (p : Pen) (w : Nat) (bad : Bool) : Pen :=
  { p with poison := p.poison || bad, elems := p.elems.mapIdx fun i e =>
      { e with acc := e.acc * 2 ^ p.slotBits + ((w / 2 ^ (p.slotBits * i) % 2 ^ p.slotBits : Nat) : Int) } }

/-- The lines of a slice's slot j (R193): its share's j-th slot is slot 100 j + slice of the area. -/
def Chip.slotLines (c : Chip) (slice j : Nat) : List Nat :=
  (List.range 32).map fun k => (c.spillBase + 2048 * (100 * j + slice)) / 64 + k

/-- A line of the spill area that a memory controller serves. -/
def Chip.slotServed (c : Chip) (line : Nat) : Bool := match c.memAgent line with | .mc _ => true | _ => false

/-- Line k of a slot's contents. -/
def slotLine (w k : Nat) : Line := BitVec.ofNat 512 (w / 2 ^ (512 * k))

/-- A slot's contents from its lines, and whether one of them is poisoned or missing. -/
def slotValue (ls : List Nat) (got : Sparse (Line × Bool)) : Nat × Bool :=
  (ls.foldr (fun l acc => (Sparse.at got (0, true) l).1.toNat + 2 ^ 512 * acc) 0, ls.any fun l => (Sparse.at got (0, true) l).2)

/-- An open line loaded from its slot; POISON that the slot brings logs a deferred record (R197, R430). -/
def Chip.joined (c : Chip) (slice : Nat) (p : Pen) (w : Nat × Bool) : Pen × Chip :=
  (p.join w.1 w.2, if w.2 then c.logErr (uSlice slice) { cls := .deferred, struct := 0x0C, addr := p.line * 64, at_ := 1 } else c)

/-! Closes (R187, R194). -/

/-- An open line closes with the pen given (R187): its result in the L3 as a dirty line, in its placeholder or in a way of its
CLOS; flags gathered; pen or slot freed; a non-reduction access and an early close counted, an early close logged (R194). -/
def Chip.closeWith (c : Chip) (slice : Nat) (p : Pen) (by_ : CloseBy) : Chip :=
  let (d, fl) := p.result
  let c := c.modHome slice fun x =>
    let dr := x.drain.filter (· ≠ p.line)
    { x with pens := x.pens.filter (fun e => !decide (e.2.line = p.line)), spill := x.spill.filter (fun e => !decide (e.2.line = p.line)), drain := dr }
  let c := c.l3Fill slice p.line d p.poison true p.clos
  let u := uSlice slice
  let c := c.orReg u 0 0x1104 (if by_ = .early then fl ||| 0x20#32 else fl)
  let c := match by_ with
    | .access => c.countReg u 0 0x1114
    | .early => (c.countReg u 0 0x1110).logErr u { cls := .corrected, struct := 0x1B, addr := p.line * 64, at_ := 1 }
    | _ => c
  if (c.home slice).drain.isEmpty then c.setRegFld u 0 0x1100 1 1 0 else c

/-- A resident line closes; one that is still opening has nothing to close. -/
def Chip.closePen (c : Chip) (slice line : Nat) (by_ : CloseBy) : Chip :=
  match (c.home slice).penOf line with
  | some (_, p) => if p.st = .opening then c else c.closeWith slice p by_
  | none => c

/-- A tracker entry reserved for Close is free (R159). -/
def Home.closeFree (hm : Home) : Bool := decide (hm.closes.length < 4)

/-- A Close entry begun (R194): the slot's lines asked of the controllers that serve them; a line that none serves comes back as
an error. `pen` is the pen that a refill has taken. -/
def Chip.startClose (c : Chip) (slice slot pen line : Nat) (k : CloseKind) (next : Option Nat) : Chip :=
  let ls := c.slotLines slice slot
  let out := ls.filter c.slotServed
  let c := c.modHome slice fun x => { x with closes := x.closes ++
    [{ kind := k, line := line, slot := slot, pen := pen, left := out,
       got := (ls.filter fun l => !out.contains l).foldl (fun (s : Sparse (Line × Bool)) l => Sparse.put s l (0, true)) [], next := next }] }
  c.sendAll ((out.map c.memAgent).eraseDups.map fun a =>
    { kind := .close, src := .home slice, dst := a, line := ls.headD 0 })

/-- A slot written with the low part of a pen by PutDirty and WbData (R157, R194); the lines that a controller serves. -/
def Chip.writeSlot (c : Chip) (slice slot : Nat) (p : Pen) : List Nat × Chip :=
  let ls := c.slotLines slice slot
  (ls.filter c.slotServed, (List.range 32).foldl (fun (c : Chip) k =>
    let l := ls.getD k 0
    if c.slotServed l then c.memPut slice l (slotLine p.low k) false else c) c)

/-- PEN_SPILL begun (R194): the pen leaves, and its slot is written. -/
def Chip.startSpill (c : Chip) (slice n slot : Nat) (p : Pen) (next : Option Nat) : Chip :=
  let (out, c) := c.writeSlot slice slot p
  let op : CloseOp := { kind := .spill, line := p.line, slot := slot, pen := n, left := out, next := next }
  c.modHome slice fun x => { x with pens := Sparse.put x.pens n { p with st := .leaving }, closes := x.closes ++ [op] }

/-- A resident pen whose slot has been written: its placeholder is freed and the spill counted (R194, R201, R517). -/
def Chip.spillTo (c : Chip) (slice n slot : Nat) (p : Pen) : Chip :=
  let c := c.modHome slice fun x =>
    { x with pens := Sparse.del x.pens n, spill := x.spill ++ [(slot, p.high)],
             l3 := x.l3.filter fun e => !(decide (e.2.line = p.line) && e.2.pen) }
  c.countReg (uSlice slice) 0 0x110C

/-- The resident pen whose last contribution is oldest and whose line is not in a transaction (R194 step 1); `self` is
the line that needs the pen. -/
def Home.oldestPen (hm : Home) (self : Nat) : Option (Nat × Pen) :=
  (hm.pens.filter fun e => !hm.blocked e.2.line && decide (e.2.line ≠ self) && decide (e.2.st = PenState.opened)).foldl
    (fun b e => match b with
      | none => some e
      | some v => if e.2.last < v.2.last then some e else some v) none

/-- The lowest free slot of a slice's share (DESIGN CHOICE, log 86: R194 says a free slot). -/
def Chip.freeSlot (c : Chip) (slice : Nat) : Option Nat :=
  (List.range (c.slotsOf slice)).find? fun j => !((c.home slice).spill.any fun e => decide (e.1 = j))
    && !((c.home slice).closes.any fun o => decide (o.slot = j))

/-- The lowest-numbered free pen of a slice, if any (R181: 32 pens; DESIGN CHOICE, log 86: R184 says a free pen). -/
def Home.freePen (hm : Home) : Option Nat := (List.range 32).find? fun n => (Sparse.find hm.pens n).isNone

/-- Pressure on the pens (R194), for a line that needs one while none is free. A slice without slots closes the chosen pen early
at once; else the pen's spill begins, in a free slot or, when there is none, in that of the line spilled longest ago, which first
closes early. Nothing happens while every resident pen or every spilled line is in a transaction, while no Close entry is
free, and while the line already waits for one. -/
def Chip.makePen (c : Chip) (slice self : Nat) : Chip :=
  let hm := c.home slice
  if hm.closes.any fun o => decide (o.next = some self) then c
  else match hm.oldestPen self with
    | none => c
    | some (n, p) =>
      if c.slotsOf slice = 0 then c.closePen slice p.line .early
      else if !hm.closeFree then c
      else match c.freeSlot slice with
        | some j => c.startSpill slice n j p (some self)
        | none => match hm.spill.find? fun e => !hm.blocked e.2.line with
          | some e => c.startClose slice e.1 0 e.2.line (.close .early) (some self)
          | none => c

/-- The placeholder of a line that opens or refills: the way of its own copy, or a way allocated in the opening RedOp's
class; none when every way of the hurdle is a placeholder (R517). -/
def Chip.placeholder (c : Chip) (slice line clos : Nat) : Chip :=
  match (c.home slice).l3Find line with
  | some (k, _) => c.modHome slice fun x =>
      { x with l3 := Sparse.put x.l3 k { line := line, dirty := false, pen := true, clos := clos } }
  | none =>
    match c.l3Way slice (homeSet line) clos with
    | some (w, c) => c.modHome slice fun x =>
        { x with l3 := Sparse.put x.l3 (32 * homeSet line + w) { line := line, dirty := false, pen := true, clos := clos } }
    | none => c

/-- A line that its home holds itself: in the L3, or in a write that is still out (R156). -/
def Home.here (hm : Home) (line : Nat) : Option (Line × Bool) :=
  match hm.l3Data line with
  | some l => some (l.data, l.poison)
  | none => (hm.writing line).map fun w => (w.data, w.poison)

/-- A line read for a whole device transfer (log 8): as its home holds it, or from memory at once. -/
def Chip.homeRead (c : Chip) (slice line : Nat) : Line × Bool × Chip :=
  match (c.home slice).here line with
  | some (d, p) => (d, p, c)
  | none => (c.memRead line).getD (0, false, c)

/-- The opened pen n of a line whose value has come (R184 steps 3 and 4). A value that carries poison sets POISON and logs a
deferred record (R197, R430). -/
def Chip.penValue (c : Chip) (slice n : Nat) (m : Msg) (d : Line) (p : Bool) : Chip :=
  let c := c.placeholder slice m.line m.clos
  let c := c.modHome slice fun x =>
    { x with pens := Sparse.put x.pens n { Pen.opened m.line m.mode d p m.clos with last := x.clock }, clock := x.clock + 1 }
  if p then c.logErr (uSlice slice) { cls := .deferred, struct := 0x0C, addr := m.line * 64, at_ := 1 } else c

/-- The pen n of a line whose value memory still has to give (R184 step 3, R202): the home reads it for itself, and allocates the
placeholder. -/
def Chip.penReads (c : Chip) (slice n : Nat) (m : Msg) : Chip :=
  let c := c.placeholder slice m.line m.clos
  let c := c.modHome slice fun x =>
    { x with pens := Sparse.put x.pens n { line := m.line, mode := m.mode, elems := [], clos := m.clos, st := .opening } }
  c.send { kind := .rdOnce, src := .home slice, dst := c.memAgent m.line, line := m.line, req := .home slice, clos := m.clos }

/-- A refill's line in its pen (R185, R517). -/
def Chip.penBack (c : Chip) (slice n : Nat) (p : Pen) : Chip :=
  (c.placeholder slice p.line p.clos).modHome slice fun x => { x with pens := Sparse.put x.pens n { p with st := .opened } }

/-- PEN_REFILL begun (R185, R194), for a spilled line: into a free pen, else through the swap buffer, which serves one exchange
at a time. -/
def Chip.startRefill (c : Chip) (slice slot : Nat) (p : Pen) : Chip :=
  let hm := c.home slice
  if !hm.closeFree || (hm.closes.any fun o => decide (o.line = p.line)) then c
  else match hm.freePen with
    | some n =>
      let rest := hm.spill.filter fun e => !decide (e.2.line = p.line)
      (c.modHome slice fun x => { x with pens := Sparse.put x.pens n { p with st := .opening }, spill := rest }).startClose
        slice slot n p.line .refill (some p.line)
    | none =>
      if hm.closes.any fun o => match o.kind with | .exchange _ => true | _ => false then c
      else c.startClose slice slot 0 p.line (.exchange none) (some p.line)

/-- A contribution applied to a resident pen of its mode (R185). -/
def Chip.contribute (c : Chip) (slice : Nat) (m : Msg) : Chip :=
  match (c.home slice).penOf m.line with
  | some (n, p) => c.modHome slice fun x => { x with pens := Sparse.put x.pens n (p.apply m x.clock), clock := x.clock + 1 }
  | none => c

/-- Why a request closes an open line, if it does (R171, R186, R187). -/
def closeCause (m : Msg) (p : Pen) : Option CloseBy :=
  if m.kind ≠ .redOp then some .access
  else if m.red = .close then some .rclose
  else if p.mode = m.mode then none else some .otherMode

/-- A resident open line closed by a visit of set-and-way maintenance to its placeholder (R174, R187). -/
def Chip.closeForAccess (c : Chip) (slice line : Nat) : Chip := c.closePen slice line .access

/-- Every open line of a slice (R201). -/
def Home.openLines (hm : Home) : List Nat := hm.pens.map (·.2.line) ++ hm.spill.map (·.2.line)

/-- Lines that a drain may close now: those not in a transaction, a spilled one while a Close entry is free (R194, R201, R203). -/
def Chip.drainStep (c : Chip) (slice : Nat) : Chip :=
  let c := (c.home slice).drain.foldl (fun (c : Chip) l =>
    let hm := c.home slice
    if hm.blocked l then c
    else match hm.penOf l, hm.spilled l with
      | some _, _ => c.closePen slice l .drain
      | none, some (j, _) => if hm.closeFree then c.startClose slice j 0 l (.close .drain) none else c
      | none, none => c) c
  let c := c.modHome slice fun x => { x with drain := x.drain.filter fun l => (x.openPen l).isSome }
  if (c.home slice).drain.isEmpty then c.setRegFld (uSlice slice) 0 0x1100 1 1 0 else c

/-- DRAIN (R201, R203): every line open at the write is to close, and DRAIN_BUSY sets until the last has. -/
def Chip.startDrain (c : Chip) (slice : Nat) : Chip :=
  let c := c.modHome slice fun x => { x with drain := x.openLines }
  (c.setRegFld (uSlice slice) 0 0x1100 1 1 1).drainStep slice

/-- STATE of a pen (R202). -/
def penCode : PenState → Nat
  | .opening => 1 | .opened => 2 | .leaving => 3

/-- L3_PENn as it reads (R201, R202). -/
def Chip.penReg (c : Chip) (slice n : Nat) : Word :=
  match Sparse.find (c.home slice).pens n with
  | none => 0
  | some p => BitVec.ofNat 32 (penCode p.st + 16 * redCode p.mode
      + 256 * bit p.nvNow + 512 * bit p.poison + 65536 * min 65535 p.cnt)

/-- L3_RED_OCC as it reads (R201). -/
def Chip.redOcc (c : Chip) (slice : Nat) : Word :=
  BitVec.ofNat 32 ((c.home slice).pens.length + 64 * (c.home slice).spill.length + 65536 * c.slotsOf slice)

end Sys2Proof.Machine
end

