-- ==== Sys2Proof/Machine/Coherence.lean ====
section
/-! DEFINITION. Transactions at the homes, and the L2s' side of them (R151-R173, R429). -/

namespace Sys2Proof.Machine

/-- Physical core index of an agent that is a core. -/
def coreIx : Agent → Option Nat
  | .core k => some k | _ => none

/-! Tracker entries. -/

/-- A tracker entry replaced, or added (R159): a line has at most one. -/
def Home.putTxn (hm : Home) (t : Txn) : Home :=
  { hm with txns := hm.txns.filter (fun x => !decide (x.line = t.line)) ++ [t] }

def Home.txnOf (hm : Home) (line : Nat) : Option Txn := hm.txns.find? fun t => decide (t.line = line)

def Chip.putTxn (c : Chip) (i : Nat) (t : Txn) : Chip := c.modHome i fun x => x.putTxn t

/-- The line unblocks (R161): its tracker entry is freed, and a drain closes what it still has to (R203). -/
def Chip.endTxn (c : Chip) (i line : Nat) : Chip :=
  let c := c.modHome i fun x => { x with txns := x.txns.filter fun t => !decide (t.line = line) }
  if (c.home i).drain.isEmpty then c else c.drainStep i

/-- Cmp of a home (R156). -/
def cmpMsg (i : Nat) (m : Msg) (err : Bool) : Msg := { kind := .cmp, src := .home i, dst := m.src, line := m.line, err := err }

/-- A snoop of a home on behalf of a request (R156). -/
def snoop (i : Nat) (k : MsgKind) (x : Nat) (m : Msg) : Msg :=
  { kind := k, src := .home i, dst := .core x, line := m.line, req := m.src, clos := m.clos }

/-- Inval to a list of cores, with RECALL when dirty data is to come back (R155, R156). -/
def Chip.invalAll (c : Chip) (i : Nat) (m : Msg) (xs : List Nat) (rcl : Bool) : Chip :=
  c.sendAll (xs.map fun x => { snoop i .inval x m with rcl := rcl })

/-- Data for a requester: from the L3, from a write of the home that is still out, or from memory by RdOnce with DELIVER
(R162). A copy that the L3 supplies to a RdOwn leaves the L3 (R151). -/
def Chip.supply (c : Chip) (i : Nat) (m : Msg) (g : Grant) (waitCmp : Bool) : Chip :=
  match (c.home i).l3Data m.line with
  | some l =>
    let c := if g = .m then c.l3Drop i m.line else c.l3Hit i m.line
    c.send { kind := .data, src := .home i, dst := m.src, line := m.line, grant := g, waitCmp := waitCmp, data := l.data,
             poison := l.poison, ifetch := m.ifetch }
  | none => match (c.home i).writing m.line with
    | some w =>
      c.send { kind := .data, src := .home i, dst := m.src, line := m.line, grant := g, waitCmp := waitCmp, data := w.data,
               poison := w.poison, ifetch := m.ifetch }
    | none =>
      c.send { kind := .rdOnce, src := .home i, dst := c.memAgent m.line, line := m.line, req := m.src, grant := g,
               waitCmp := waitCmp, clos := m.clos, ifetch := m.ifetch }

/-! Grants (R162). -/

/-- Ownership without data: every other holder is invalidated, and Cmp grants M (R162); `e` is the entry, if any. -/
def Chip.grantOwn (c : Chip) (i : Nat) (m : Msg) (e : Option DirEnt) : Chip :=
  let r := (coreIx m.src).getD 0
  let xs := (e.map fun e => c.holders e [r]).getD []
  let c := c.modHome i fun x => x.setDir { line := m.line, st := .exclusive, ptrs := [r] }
  let c := c.putTxn i { line := m.line, req := m, stage := .grant, await := xs, needAck := true, cmpDue := !xs.isEmpty }
  let c := c.invalAll i m xs false
  if xs.isEmpty then c.send (cmpMsg i m false) else c

/-- RdShared, RdOwn, and an Upgrade whose sender is not listed, once the directory has room. The RdOwn of a cbo.zero reads
nothing: a copy in the L3 leaves it, and Cmp grants M (R117; log 80). -/
def Chip.performRd (c : Chip) (i : Nat) (m : Msg) : Chip :=
  let hm := c.home i
  let r := (coreIx m.src).getD 0
  let t : Txn := { line := m.line, req := m, stage := .grant, needAck := true }
  if m.zero then (c.l3Drop i m.line).grantOwn i m ((hm.dirFind m.line).map (·.2))
  else if m.kind = .rdShared then
    match hm.dirFind m.line with
    | none =>
      let c := c.modHome i fun x => x.setDir { line := m.line, st := if m.ifetch then .shared else .exclusive, ptrs := [r] }
      (c.putTxn i t).supply i m (if m.ifetch then .s else .e) false
    | some (_, e) =>
      match e.owner with
      | none => ((c.modHome i fun x => x.setDir (e.add r)).putTxn i t).supply i m .s false
      | some x => (c.putTxn i { t with await := [x] }).send { snoop i .fwdShared x m with grant := .s }
  else
    let ex : DirEnt := { line := m.line, st := .exclusive, ptrs := [r] }
    match hm.dirFind m.line with
    | none => ((c.modHome i fun x => x.setDir ex).putTxn i t).supply i m .m false
    | some (_, e) =>
      match e.owner with
      | none =>
        let xs := c.sharers e [r]
        let c := ((c.modHome i fun x => x.setDir ex).putTxn i { t with await := xs, cmpDue := !xs.isEmpty })
        (c.invalAll i m xs false).supply i m .m (!xs.isEmpty)
      | some x =>
        let xs := if e.st = DirState.owned then c.sharers e [r, x] else []
        let c := ((c.modHome i fun h => h.setDir ex).putTxn i { t with await := xs, cmpDue := !xs.isEmpty })
        (c.invalAll i m xs false).send { snoop i .fwdOwn x m with grant := .m, waitCmp := !xs.isEmpty }

/-- The record Exclusive(target) of a stash, and its Data with GRANT = E, which carries the line as the home holds it (R169
step 4). -/
def Chip.stashData (c : Chip) (i : Nat) (t : Txn) (tgt : Nat) : Chip :=
  let c := c.modHome i fun x => x.setDir { line := t.line, st := .exclusive, ptrs := [tgt] }
  (c.putTxn i { t with stage := .stash, await := [], got := none, needAck := true }).supply i
    { t.req with src := .core tgt, line := t.line } .e false

/-- A recall whose last answer has come (R155 step 3): dirty data into the L3, in class 0 (DESIGN CHOICE, log 78), the entry
freed, and the transaction that needed it goes on. -/
def Chip.recallDone (c : Chip) (i : Nat) (t : Txn) (v : Nat) : Chip :=
  let c := match t.got with
    | some (d, p) => c.l3Fill i v d p true 0
    | none => c
  let c := c.modHome i fun x =>
    { x.dropDir v with recalls := x.recalls + 1, txns := x.txns.filter fun y => !decide (y.line = t.line) }
  match t.req.kind, t.req.stash with
  | .ncWr, some k => c.stashData i t k
  | _, _ => c.performRd i t.req

/-- A recall of a directory entry in the tracker entry of the transaction that needs its way (R155): Inval RECALL to every
holder. -/
def Chip.recall (c : Chip) (i : Nat) (t : Txn) (v : DirEnt) : Chip :=
  let xs := c.holders v []
  let t := { t with stage := .recall v.line, await := xs, got := none }
  if xs.isEmpty then c.recallDone i t v.line else (c.putTxn i t).invalAll i { t.req with line := v.line } xs true

/-- Upgrade of a listed sender (R162). -/
def Chip.performUpgrade (c : Chip) (i : Nat) (m : Msg) (e : DirEnt) : Chip := c.grantOwn i m (some e)

/-- A transaction that needs a directory entry: performed when there is room, else after the recall of the LRU entry, or
once an entry of the set is no longer blocked (R155). -/
def Chip.withDir (c : Chip) (i : Nat) (m : Msg) : Chip :=
  let hm := c.home i
  let set := homeSet m.line
  if (hm.dirFind m.line).isSome || (hm.dirWay set).isSome then c.performRd i m
  else
    match hm.dirVictim set with
    | none => c.putTxn i { line := m.line, req := m, stage := .waitDir }
    | some v => c.recall i { line := m.line, req := m, stage := .waitDir } v

/-- RdOnce without MAINT, and NcRd to memory (R162, R169, R170): current data, no cached state change. -/
def Chip.performOnce (c : Chip) (i : Nat) (m : Msg) : Chip :=
  let t : Txn := { line := m.line, req := m, stage := .grant, needAck := true }
  match ((c.home i).dirFind m.line).bind fun e => e.2.owner with
  | some x => (c.putTxn i { t with await := [x] }).send { snoop i .fwdShared x m with once := true }
  | none => (c.putTxn i t).supply i m .none false

/-! Maintenance (R173). -/

/-- A clean copy of a line in the L3 after memory has been written. -/
def Chip.l3Clean (c : Chip) (i line : Nat) (d : Line) (p : Bool) : Chip :=
  match (c.home i).l3Find line with
  | some (k, o) => c.modHome i fun x => { x with l3 := Sparse.put x.l3 k { o with data := d, poison := p, dirty := false } }
  | none => c

/-- Memory made current from a holder's dirty data, else from a dirty L3 copy. -/
def Chip.writeBackNow (c : Chip) (i line : Nat) (got : Option (Line × Bool)) : Chip :=
  match got with
  | some (d, p) => (c.memPut i line d p).l3Clean i line d p
  | none => match (c.home i).l3Data line with
    | some l => if l.dirty then (c.memPut i line l.data l.poison).l3Clean i line l.data l.poison else c
    | none => c

/-- An Owned entry whose owner has cleaned its line: Shared, the owner a sharer like the others; in a fold vector by its
fold's bit (R154, R165, R173). -/
def DirEnt.cleaned (e : DirEnt) : DirEnt :=
  if e.vec then { e with st := .shared, ptrs := [], folds := e.folds ||| foldBits (e.ptrs.take 1) } else { e with st := .shared }

/-- A cache-block operation's effect once its snoops have answered, and its Cmp (R173). -/
def Chip.maintFinish (c : Chip) (i : Nat) (m : Msg) (got : Option (Line × Bool)) : Chip :=
  let c := match m.maint with
    | .clean =>
      (c.writeBackNow i m.line got).modHome i fun (x : Home) =>
        match x.dirFind m.line with
        | some (_, e) => if e.st = DirState.owned then x.setDir e.cleaned else x
        | none => x
    | .flush => ((c.writeBackNow i m.line got).l3Drop i m.line).modHome i fun x => x.dropDir m.line
    | _ => (c.l3Drop i m.line).modHome i fun x => x.dropDir m.line
  (c.send (cmpMsg i m false)).endTxn i m.line

/-- RdOnce with MAINT (R173). -/
def Chip.performMaint (c : Chip) (i : Nat) (m : Msg) : Chip :=
  match (c.home i).dirFind m.line with
  | none => c.maintFinish i m none
  | some (_, e) =>
    if m.maint = .clean then
      match e.owner with
      | some x =>
        let c := c.putTxn i { line := m.line, req := m, stage := .remove, await := [x] }
        c.send { snoop i .fwdShared x m with clean := true }
      | none => c.maintFinish i m none
    else
      let xs := c.holders e []
      if xs.isEmpty then c.maintFinish i m none
      else
        let c := c.putTxn i { line := m.line, req := m, stage := .remove, await := xs }
        c.invalAll i m xs (decide (m.maint = .flush))

/-! Puts (R165, R166). -/

/-- A Put taken with its WbData: accepted from a listed holder, refused as stale from any other (R165). -/
def Chip.performPut (c : Chip) (i : Nat) (m wb : Msg) : Chip :=
  let r := (coreIx m.src).getD 0
  let c := match (c.home i).dirFind m.line with
    | some (_, e) =>
      if e.lists r then
        let c := if m.discard then c
          else if m.kind = MsgKind.putDirty then c.l3Fill i m.line wb.data wb.poison true m.clos
          else c.l3Fill i m.line wb.data wb.poison false m.clos
        let c := c.modHome i fun x =>
          if m.keep then (if e.st = DirState.owned then x.setDir e.cleaned else x.setDir e)
          else match e.remove r with
            | some e' => x.setDir e'
            | none => x.dropDir m.line
        c.send { kind := .wbAck, src := .home i, dst := m.src, line := m.line }
      else (c.modHome i fun x => { x with stale := x.stale + 1 }).send
        { kind := .wbAckStale, src := .home i, dst := m.src, line := m.line }
    | none => (c.modHome i fun x => { x with stale := x.stale + 1 }).send
        { kind := .wbAckStale, src := .home i, dst := m.src, line := m.line }
  (c.modHome i fun x => { x with slots := Sparse.del x.slots r }).endTxn i m.line

/-! Device writes (R169). -/

/-- The holders are gone: Cmp asks the writer for its WbData. -/
def Chip.ncGrant (c : Chip) (i : Nat) (t : Txn) : Chip :=
  let c := c.modHome i fun x => x.dropDir t.line
  (c.putTxn i { t with stage := .data, await := [] }).send (cmpMsg i t.req false)

/-- An NcWr to memory: every holder is invalidated; dirty data comes back when the mask is not full. -/
def Chip.performNcWr (c : Chip) (i : Nat) (m : Msg) : Chip :=
  let t : Txn := { line := m.line, req := m, stage := .remove }
  match (c.home i).dirFind m.line with
  | none => c.ncGrant i t
  | some (_, e) =>
    let xs := c.holders e []
    if xs.isEmpty then c.ncGrant i t
    else (c.putTxn i { t with await := xs }).invalAll i m xs (decide (m.mask ≠ BitVec.allOnes 64))

/-- A core that can take a stash: in service, not in Rest or waking, and running a hart (R120, R169 step 4). -/
def Core.takesStash (x : Core) : Bool := decide (x.power = .run) && x.enabled && x.hartValid

/-- Room for a directory entry of a line without waiting: true, or an unblocked entry of the set to recall (R169). -/
def Home.stashRoom (hm : Home) (line : Nat) : Bool :=
  (hm.dirFind line).isSome || (hm.dirWay (homeSet line)).isSome || (hm.dirVictim (homeSet line)).isSome

/-- The line that a device write leaves: merged, poisoned when either part is, unless the whole line is written (R169,
R429). -/
def mergedLine (old : Line × Bool) (new : Line) (mask : BitVec 64) (poison : Bool) : Line × Bool :=
  if mask = BitVec.allOnes 64 then (new, poison) else (mergeLine old.1 new mask, old.2 || poison)

/-- A directory entry recalled at once, for a whole device transfer (R155, R169 step 4; log 8): as `recall`, with the
holders' answers in hand. -/
def Chip.recallNow (c : Chip) (i : Nat) (e : DirEnt) : Chip :=
  let c := (c.holders e []).foldl (fun (c : Chip) x =>
    let c := c.dropResv x e.line
    let l := ((c.core x).line e.line)
    let c := match l with
      | some l => if l.st.dirty then c.l3Fill i e.line l.data l.poison true 0 else c
      | none => match (c.core x).buffered e.line with
        | some w => if w.st.dirty && !w.discard then c.l3Fill i e.line w.data w.poison true 0 else c
        | none => c
    c.modCore x fun k => k.setLine e.line fun _ => none) c
  c.modHome i fun x => { x.dropDir e.line with recalls := x.recalls + 1 }

/-- STASH (R169 step 4): Data with GRANT = E to the target, which then is the exclusive holder; a full directory set is
recalled by R155 first. -/
def Chip.stash (c : Chip) (i : Nat) (t : Txn) (tgt : Nat) : Chip :=
  let hm := c.home i
  if (hm.dirFind t.line).isSome || (hm.dirWay (homeSet t.line)).isSome then c.stashData i t tgt
  else match hm.dirVictim (homeSet t.line) with
    | some v => c.recall i t v
    | none => c.endTxn i t.line

/-- The data of an NcWr, merged into the line, in the L3 in the device's class; WbAck, and the stash (R169 steps 3 and 4). -/
def Chip.ncMerge (c : Chip) (i : Nat) (t : Txn) (wb : Msg) (old : Line × Bool) : Chip :=
  let (d, p) := mergedLine old wb.data wb.mask wb.poison
  let c := c.l3Fill i t.line d p true t.req.clos
  let c := c.send { kind := .wbAck, src := .home i, dst := t.req.src, line := t.line }
  match t.req.stash with
  | some k =>
    if decide (wb.mask = BitVec.allOnes 64) && (c.core k).takesStash && (c.home i).stashRoom t.line then c.stash i t k
    else c.endTxn i t.line
  | none => c.endTxn i t.line

/-- The WbData of an NcWr taken (R169 step 3). A partial write needs the line's bytes: a holder's, the home's own, or those that the
home reads from memory while the tracker entry keeps the WbData. -/
def Chip.ncData (c : Chip) (i : Nat) (t : Txn) (wb : Msg) : Chip :=
  if wb.mask = BitVec.allOnes 64 then c.ncMerge i t wb (0, false)
  else match t.got <|> (c.home i).here t.line with
    | some g => c.ncMerge i t wb g
    | none => (c.putTxn i { t with stage := .fetch, wb := some wb }).send
        { kind := .rdOnce, src := .home i, dst := c.memAgent t.line, line := t.line, req := .home i }

/-! Reductions (R171, R184-R186, R192). -/

/-- The end of a RedOp: its contribution, Cmp, and the line unblocks (R185). -/
def Chip.redDone (c : Chip) (i : Nat) (m : Msg) : Chip := ((c.contribute i m).send (cmpMsg i m false)).endTxn i m.line

/-- A RedOp's line opens in a free pen (R184): with the value that the home holds, or after a read of memory. -/
def Chip.penOpen (c : Chip) (i n : Nat) (m : Msg) : Chip :=
  match (c.home i).here m.line with
  | some (d, p) => (c.penValue i n m d p).redDone i m
  | none => (c.penReads i n m).putTxn i { line := m.line, req := m, stage := .penRead }

/-- A RedOp once no L2 holds its line (R184, R185, R194): the contribution to a resident pen; else a refill or an open, which
waits in the tracker entry while no pen can be had. -/
def Chip.redFinish (c : Chip) (i : Nat) (m : Msg) : Chip :=
  let wait (c : Chip) : Chip := c.putTxn i { line := m.line, req := m, stage := .waitPen }
  match (c.home i).penOf m.line, (c.home i).spilled m.line with
  | some (_, p), _ => if p.st = .opened then c.redDone i m else wait c
  | none, some (j, p) => wait (c.startRefill i j p)
  | none, none =>
    let c := if (c.home i).freePen.isSome then c else c.makePen i m.line
    match (c.home i).freePen with
    | some n => c.penOpen i n m
    | none => wait c

/-- A RedOp taken by the home, once a line that it must close is closed (R171, R184-R186): copies in L2s are removed. -/
def Chip.performRed (c : Chip) (i : Nat) (m : Msg) : Chip :=
  if m.red = .close then c.send (cmpMsg i m false)
  else
    match (c.home i).dirFind m.line with
    | none => c.redFinish i m
    | some (_, e) =>
      let xs := c.holders e []
      if xs.isEmpty then (c.modHome i fun x => x.dropDir m.line).redFinish i m
      else (c.putTxn i { line := m.line, req := m, stage := .remove, await := xs }).invalAll i m xs true

/-! Starting a request, and its answers. -/

/-- The effect of a request to a line that is not open, or of a RedOp of its mode (R162-R173). -/
def Chip.perform (c : Chip) (i : Nat) (m : Msg) (pool : Nat) : Chip :=
  match m.kind with
  | .rdShared => c.withDir i m
  | .rdOwn => c.withDir i m
  | .upgrade =>
    match (c.home i).dirFind m.line with
    | some (_, e) =>
      if e.lists ((coreIx m.src).getD 0) && decide (e.st ≠ .exclusive) then c.performUpgrade i m e else c.withDir i m
    | none => c.withDir i m
  | .rdOnce => if m.maint = .none then c.performOnce i m else c.performMaint i m
  | .ncRd => c.performOnce i m
  | .ncWr => c.performNcWr i m
  | .redOp => c.performRed i m
  | _ =>
    match (coreIx m.src).bind (Sparse.find (c.home i).slots) with
    | some wb =>
      if wb.line = m.line then c.performPut i m wb
      else c.putTxn i { line := m.line, req := m, pool := pool, stage := .data }
    | none => c.putTxn i { line := m.line, req := m, pool := pool, stage := .data }

/-- A spilled line that a request must close first (R187, R194): the request waits in its tracker entry while the slot is read. -/
def Chip.closeFirst (c : Chip) (i : Nat) (m : Msg) (pool slot : Nat) (by_ : CloseBy) : Chip :=
  let hm := c.home i
  let c := if !hm.closeFree || hm.blocked m.line then c else c.startClose i slot 0 m.line (.close by_) (some m.line)
  c.putTxn i { line := m.line, req := m, pool := pool, stage := .waitClose }

/-- A request that the home starts: an address outside memory, or in the spill area, is answered with an access error
(R44, R193); any request but a RedOp of its mode first closes an open line (R171, R186, R187). -/
def Chip.startReq (c : Chip) (i : Nat) (m : Msg) (pool : Nat) : Chip :=
  if !c.isMemory (m.line * 64) then c.send (cmpMsg i m true)
  else match ((c.home i).openPen m.line).bind (closeCause m), (c.home i).spilled m.line with
    | none, _ => c.perform i m pool
    | some b, some (j, _) => c.closeFirst i m pool j b
    | some b, none => (c.closePen i m.line b).perform i m pool

/-! Close entries (R159, R185, R194). -/

/-- A transaction that waits for a pen or for a Close entry tries again. -/
def Chip.retry (c : Chip) (i line : Nat) : Chip :=
  match (c.home i).txnOf line with
  | none => c
  | some t =>
    let free (c : Chip) : Chip := c.modHome i fun x => { x with txns := x.txns.filter fun y => !decide (y.line = line) }
    match t.stage with
    | .waitPen => (free c).redFinish i t.req
    | .waitClose => if (c.home i).closes.any fun o => decide (o.line = line) then c else (free c).startReq i t.req t.pool
    | _ => c

/-- A Close entry freed: the transaction that it served goes on, then those that wait for an entry or a pen, then a drain. -/
def Chip.opFreed (c : Chip) (i : Nat) (o : CloseOp) : Chip :=
  let c := match o.next with
    | some line => c.retry i line
    | none => c
  let c := ((c.home i).txns.map (·.line)).foldl (fun c line => c.retry i line) c
  if (c.home i).drain.isEmpty then c else c.drainStep i

/-- A Close entry with nothing outstanding (R185, R187, R194): the pen has gone to its slot; the slot's line closes, or is back in
its pen; or the exchange goes on with the spill, once a pen can be had, and ends with the refilled line in that pen. A line
that a device has closed meanwhile needs nothing more. -/
def Chip.opDone (c : Chip) (i : Nat) (o : CloseOp) : Chip :=
  let w := slotValue (c.slotLines i o.slot) o.got
  let drop (c : Chip) : Chip := c.modHome i fun x => { x with closes := x.closes.erase o }
  let spill (c : Chip) : Chip := match Sparse.find (c.home i).pens o.pen with
    | some p => c.spillTo i o.pen o.slot p
    | none => c
  match o.kind with
  | .spill => (drop (spill c)).opFreed i o
  | .close b => (drop (match (c.home i).spilled o.line with
    | some (_, p) => let (p, c) := c.joined i p w; c.closeWith i p b
    | none => c)).opFreed i o
  | .refill => (drop (match (c.home i).penOf o.line with
    | some (n, p) => let (p, c) := c.joined i p w; c.penBack i n p
    | none => c)).opFreed i o
  | .exchange (some p) => (drop ((spill c).penBack i o.pen p)).opFreed i o
  | .exchange none =>
    match (c.home i).spilled o.line with
    | none => (drop c).opFreed i o
    | some (_, p) =>
      let gone (c : Chip) : Chip := c.modHome i fun x => { x with spill := x.spill.filter fun e => !decide (e.2.line = o.line) }
      match (c.home i).freePen, (c.home i).oldestPen o.line with
      | some n, _ =>
        let (p, c) := c.joined i p w
        (drop ((gone c).penBack i n p)).opFreed i o
      | none, some (n, v) =>
        let (p, c) := (gone c).joined i p w
        let (out, c) := c.writeSlot i o.slot v
        c.modHome i fun x => { x with
          pens := Sparse.put x.pens n { v with st := .leaving }
          closes := x.closes.map fun q => if q = o then { o with kind := .exchange (some p), pen := n, left := out, got := [] } else q }
      | none, none => c

/-- A Close entry after one of its lines' WbAck or Data. -/
def Chip.opLine (c : Chip) (i line : Nat) (data : Option (Line × Bool)) : Chip :=
  match (c.home i).closes.find? fun o => o.left.contains line with
  | none => c
  | some o =>
    let o' := { o with left := o.left.erase line, got := match data with | some g => Sparse.put o.got line g | none => o.got }
    let c := c.modHome i fun x => { x with closes := x.closes.map fun q => if q = o then o' else q }
    if o'.left.isEmpty then c.opDone i o' else c

/-- An entry of a Close reads its slot: it waits for Data. -/
def CloseOp.reads (o : CloseOp) : Bool := match o.kind with
  | .spill => false | .exchange (some _) => false | _ => true

/-- WbAck of a memory controller at a home (R156): the write is done, and with the last of a slot its spill. -/
def Chip.homeWbAck (c : Chip) (i line : Nat) : Chip :=
  let c := c.mwrAck i line
  if ((c.home i).writing line).isSome || (c.home i).closes.any fun o => o.reads && o.left.contains line then c else c.opLine i line none

/-- Data that a home has asked for itself (R169, R184, R194): a line of a slot, the value of a line that opens, or the bytes that a
partial write leaves; a device's write since (log 8) is in the L3. -/
def Chip.homeData (c : Chip) (i : Nat) (m : Msg) : Chip :=
  if (c.home i).closes.any fun o => o.reads && o.left.contains m.line then c.opLine i m.line (some (m.data, m.poison))
  else match (c.home i).txnOf m.line with
    | none => c
    | some t =>
      let (d, p) := ((c.home i).here m.line).getD (m.data, m.poison)
      match t.stage, t.wb, (c.home i).penOf m.line with
      | .penRead, _, some (n, _) => (c.penValue i n t.req d p).redDone i t.req
      | .fetch, some wb, _ => c.ncMerge i t wb (d, p)
      | _, _, _ => c

/-- PEN_WAIT_RESUME (R194): what waited for a pen to leave its transaction, or for a spilled line to unblock, goes on: the line's
transaction, and an exchange of it that has its slot's data. -/
def Chip.penResume (c : Chip) (i line : Nat) : Chip :=
  match (c.home i).closes.find? fun o => decide (o.line = line) && o.left.isEmpty with
  | some o => c.opDone i o
  | none => c.retry i line

/-- An open line closed at once for a whole device transfer (R187; log 8), whatever a Close entry does with it; a line that is
still opening has nothing to close. -/
def Chip.closeAtOnce (c : Chip) (i line : Nat) : Chip :=
  let slot (c : Chip) (j : Nat) : Nat × Bool :=
    let ls := c.slotLines i j
    slotValue ls (ls.foldl (fun (s : Sparse (Line × Bool)) l => Sparse.put s l
      (((c.home i).writing l).map (fun w => (w.data, w.poison)) |>.getD (((c.memRead l).map fun r => (r.1, r.2.1)).getD (0, true)))) [])
  match (c.home i).closes.find? fun o => decide (o.line = line) with
  | none => match (c.home i).spilled line with
    | some (j, p) => let (p, c) := c.joined i p (slot c j); c.closeWith i p .access
    | none => c.closePen i line .access
  | some o => match o.kind, (c.home i).spilled line, (c.home i).penOf line with
    | .exchange (some p), _, _ => (c.modHome i fun x =>
        { x with closes := x.closes.map fun q => if q = o then { o with kind := .spill } else q }).closeWith i p .access
    | _, some (j, p), _ => let (p, c) := c.joined i p (slot c j); c.closeWith i p .access
    | .refill, none, some (_, p) => let (p, c) := c.joined i p (slot c o.slot); c.closeWith i p .access
    | .spill, none, some _ => (c.modHome i fun x => { x with closes := x.closes.erase o }).closePen i line .access
    | _, _, _ => c

/-- A request is a Put. -/
def isPut (m : Msg) : Bool := decide (m.kind = .putDirty) || decide (m.kind = .putClean)

/-- The pool whose entry a request takes, if one is free (R159). -/
def Home.poolFor (hm : Home) (m : Msg) : Option Nat :=
  if hm.inPool 0 < 52 then some 0 else if isPut m && decide (hm.inPool 1 < 8) then some 1 else none

/-- A port entry can be accepted (R160): its line's wait queue has a free slot while the line is blocked or requests wait for
it, else a tracker entry of its kind is free. -/
def Home.accepts (hm : Home) (m : Msg) : Bool :=
  let q := Sparse.at hm.waitq [] m.line
  if hm.blocked m.line || !q.isEmpty then decide (q.length < 16) else (hm.poolFor m).isSome

/-- The arbiter's pick (R160): from the port after the last winner, in port order, the oldest entry of the first port that
has one to accept. -/
def Home.winner (hm : Home) : Option (Nat × Msg) :=
  ((List.range 6).map fun j => (hm.rr + 1 + j) % 6).findSome? fun p =>
    hm.ports.find? fun e => decide (e.1 = p) && hm.accepts e.2

/-- A port entry accepted (R160, R161): its request starts, or joins its line's wait queue. -/
def Chip.accept (c : Chip) (i : Nat) (e : Nat × Msg) : Chip :=
  let hm := c.home i
  let q := Sparse.at hm.waitq [] e.2.line
  let c := c.modHome i fun x => { x with ports := x.ports.erase e, rr := e.1 }
  if hm.blocked e.2.line || !q.isEmpty then
    c.modHome i fun x => { x with waitq := Sparse.put x.waitq e.2.line (q ++ [e.2]) }
  else c.startReq i e.2 ((hm.poolFor e.2).getD 0)

/-- Up to n picks of the arbiter, one a mc, up to the one that takes a message (R160). -/
def Chip.arbitrate (c : Chip) (i : Nat) (m : Msg) : Nat → Chip
  | 0 => c
  | n + 1 => match (c.home i).winner with
    | none => c
    | some e => if e.2 = m then c.accept i e else Chip.arbitrate (c.accept i e) i m n

/-- A REQ at a home (R160, R161): into its port, whose 8 entries keep their order of arrival, and from there as the arbiter
picks; a full port returns no credit and the message stays in the mesh. A message that waits in its port already is picked
again. -/
def Chip.homeReq (c : Chip) (i : Nat) (m : Msg) : Chip :=
  let port := homePort c.standby i m.src
  let ps := (c.home i).ports
  let c := c.take m
  if ps.contains (port, m) then c.arbitrate i m 49
  else if 8 ≤ (ps.filter fun e => decide (e.1 = port)).length then { c with mesh := c.mesh ++ [m] }
  else (c.modHome i fun x => { x with ports := x.ports ++ [(port, m)] }).arbitrate i m 49

/-- A transaction whose last awaited answer may have come goes on (R155, R161, R162). -/
def Chip.advance (c : Chip) (i : Nat) (t : Txn) : Chip :=
  if !t.await.isEmpty then c.putTxn i t
  else match t.stage with
    | .recall v => c.recallDone i t v
    | .remove =>
      if t.req.kind = .redOp then
        let c := match t.got with
          | some (d, p) => c.l3Fill i t.line d p true t.req.clos
          | none => c
        (c.modHome i fun x => { x.dropDir t.line with txns := x.txns.filter fun y => !decide (y.line = t.line) }).redFinish i t.req
      else if t.req.kind = .ncWr then c.ncGrant i t
      else c.maintFinish i t.req t.got
    | .grant =>
      let c := if t.cmpDue then c.send (cmpMsg i t.req false) else c
      if t.needAck then c.putTxn i { t with cmpDue := false } else c.endTxn i t.line
    | _ => c.putTxn i t

/-- The directory after an owner's answer to a FwdShared of a RdShared (R162). -/
def Home.afterFwd (hm : Home) (line x r : Nat) (k : Kept) : Home :=
  match hm.dirFind line with
  | some (_, e) =>
    match k with
    | .o => hm.setDir (({ e with st := .owned } : DirEnt).add r)
    | .s => hm.setDir (({ e with st := .shared } : DirEnt).add r)
    | .i => match e.remove x with
      | some e' => hm.setDir (e'.add r)
      | none => hm.setDir { line := line, st := .shared, ptrs := [r] }
  | none => hm

/-- A SnpNoData at the home (R161, R162). An owner that no longer holds the line sent no data: the home supplies it. -/
def Chip.snpAnswer (c : Chip) (i line x : Nat) (k : Kept) : Chip :=
  match (c.home i).txns.find? fun t => t.blocks line with
  | none => c
  | some t =>
    let listed := t.await.contains x
    let c := if t.stage = .grant ∧ listed ∧ t.req.kind = .rdShared then
        let c := c.modHome i fun h => h.afterFwd line x ((coreIx t.req.src).getD 0) k
        if k = .i then c.supply i t.req .s false else c
      else if t.stage = .grant ∧ listed ∧ (t.req.kind = .rdOnce ∨ t.req.kind = .ncRd) ∧ k = .i then c.supply i t.req .none false
      else if t.stage = .grant ∧ ¬ listed ∧ k = .i then c.supply i t.req .m t.cmpDue
      else c
    if listed then c.advance i { t with await := t.await.erase x } else c

/-- Dirty data that a holder returns to its home (R155, R169, R171, R173). -/
def Chip.wbAnswer (c : Chip) (i line x : Nat) (d : Line) (p : Bool) : Chip :=
  match (c.home i).txns.find? fun t => t.blocks line && t.await.contains x with
  | none => c
  | some t => c.advance i { t with await := t.await.erase x, got := some (d, p) }

/-- An Ack at the home (R161, R163). -/
def Chip.ackAnswer (c : Chip) (i line : Nat) (src : Agent) : Chip :=
  match (c.home i).txnOf line with
  | none => c
  | some t =>
    let from_ := match t.stage with
      | .stash => decide (some src = t.req.stash.map Agent.core)
      | _ => decide (src = t.req.src)
    if from_ && t.needAck then
      if t.stage = .stash then c.endTxn i line
      else if t.await.isEmpty && !t.cmpDue then c.endTxn i line
      else c.putTxn i { t with needAck := false }
    else c

/-- WbData at the home (R155, R157, R161, R165, R169). That of a Put goes to the Put's transaction, or waits in its L2's
writeback slot; any other is the data of the NcWr under way, or the answer of a holder that a snoop reached. -/
def Chip.homeWbData (c : Chip) (i : Nat) (m : Msg) : Chip :=
  let c := c.take m
  let t := (c.home i).txnOf m.line
  if m.forPut then
    match t, coreIx m.src with
    | some t, some x =>
      if t.stage = .data ∧ isPut t.req ∧ t.req.src = m.src then c.performPut i t.req m
      else c.modHome i fun h => { h with slots := Sparse.put h.slots x m }
    | none, some x => c.modHome i fun h => { h with slots := Sparse.put h.slots x m }
    | _, none => c
  else
    match t with
    | some t =>
      if t.stage = .data ∧ ¬ isPut t.req ∧ t.req.src = m.src then c.ncData i t m
      else c.wbAnswer i m.line ((coreIx m.src).getD 200) m.data m.poison
    | none => c.wbAnswer i m.line ((coreIx m.src).getD 200) m.data m.poison

/-- A freed slot of a wait queue taken by the port entry of greatest AGE, equal ages in port order from the round-robin
position (R160, R161). -/
def Chip.admitQueued (c : Chip) (i line : Nat) : Chip :=
  let hm := c.home i
  let q := Sparse.at hm.waitq [] line
  let cand := hm.ports.filter fun e => decide (e.2.line = line)
  let rank (e : Nat × Msg) : Nat := (32767 - c.age e.2) * 8 + (e.1 + 6 - (hm.rr + 1) % 6) % 6
  if 16 ≤ q.length || !(hm.blocked line || !q.isEmpty) then c
  else match cand.foldl (fun (b : Option (Nat × Msg)) e => match b with
      | none => some e
      | some v => if rank e < rank v then some e else some v) none with
    | some e => c.modHome i fun x =>
        { x with waitq := Sparse.put x.waitq line (q ++ [e.2]), ports := x.ports.erase e, rr := e.1 }
    | none => c

/-- The head of a line's wait queue starts once the line is not blocked and a tracker entry of its kind is free, which its
line's own entry is (R159, R161); a slot of a full queue that frees is filled at once. A transaction that waits for a
directory entry tries again (R155). -/
def Chip.startQueued (c : Chip) (i line : Nat) : Chip :=
  match (c.home i).txnOf line with
  | some t => if t.stage = .waitDir then
      (c.modHome i fun x => { x with txns := x.txns.filter fun y => !decide (y.line = line) }).withDir i t.req else c
  | none =>
    let hm := c.home i
    match Sparse.at hm.waitq [] line with
    | [] => c
    | m :: q =>
      if hm.blocked line then c
      else match ({ hm with waitq := Sparse.del hm.waitq line } : Home).poolFor m with
        | none => c
        | some p =>
          let c := (c.modHome i fun x => { x with waitq := if q.isEmpty then Sparse.del x.waitq line else Sparse.put x.waitq line q }).startReq i m p
          if q.length = 15 then c.admitQueued i line else c

/-! The L2's side (R163-R166, R516). -/

/-- A snoop as the hart's SNOOP_RECEIVED event counts it (R450). -/
def Chip.countSnoop (c : Chip) (x um : Nat) : Chip :=
  if (c.core x).hartValid then c.modHart (c.core x).hartId fun h => h.event 0x306 um else c

/-- Early loads of a line that an Inval or FwdOwn has reached may not stand (R113). -/
def Chip.loseEarly (c : Chip) (x line : Nat) : Chip :=
  if (c.core x).hartValid then
    c.modHart (c.core x).hartId fun h =>
      { h with early := h.early.map fun e => if e.spans.any fun s => decide (s.1 / 64 = line) then { e with lost := true } else e }
  else c

/-- SnpNoData of a core. -/
def snpNo (x : Nat) (m : Msg) (k : Kept) : Msg :=
  { kind := .snpNoData, src := .core x, dst := .home (homeSlice m.line), line := m.line, kept := k }

/-- FwdData of an owner to the requester that the snoop names. -/
def fwdMsg (x : Nat) (m : Msg) (g : Grant) (d : Line) (p : Bool) : Msg :=
  { kind := .fwdData, src := .core x, dst := m.req, line := m.line, grant := g, waitCmp := m.waitCmp, data := d, poison := p }

/-- What a snoop finds of a line (R166): the cached line, or the writeback buffer's entry with the state before eviction,
which also stands for a line that the cache keeps clean while its PutDirty KEEP is out. -/
def Core.found (x : Core) (line : Nat) : Option (L2State × Line × Bool) :=
  match x.line line, x.buffered line with
  | some l, some w => if l.st.dirty then some (l.st, l.data, l.poison) else some (w.st, w.data, w.poison)
  | some l, none => some (l.st, l.data, l.poison)
  | none, some w => some (w.st, w.data, w.poison)
  | none, none => none

/-- The state of a line changed in the cache and in the writeback buffer (R166). -/
def Core.restate (x : Core) (line : Nat) (f : L2State → L2State) : Core :=
  let x := x.setLine line fun l => some { l with st := f l.st }
  { x with wb := x.wb.map fun w => if w.line = line then { w with st := f w.st } else w }

/-- A copy kept clean (R156: CLEAN), and one that another reader now shares (R163). -/
def L2State.cleaned : L2State → L2State
  | .m => .e | .o => .s | z => z
def L2State.forwarded : L2State → L2State
  | .m => .o | .e => .s | z => z

/-- WbData of a holder for its home (R155, R173). -/
def snpData (x : Nat) (line : Nat) (d : Line) (p : Bool) : Msg :=
  { kind := .wbData, src := .core x, dst := .home (homeSlice line), line := line, data := d, poison := p, mask := BitVec.allOnes 64 }

/-- FwdShared at an L2 (R156, R163, R166): from the cache, or from the writeback buffer with the state before eviction. Under
ONCE the owner keeps its state, and KEPT, which has no value for M and E, tells O where the line is dirty and S where it is
clean (DESIGN CHOICE, log 78). -/
def Chip.l2FwdShared (c : Chip) (x : Nat) (m : Msg) : Chip :=
  let c := (c.take m).countSnoop x 1
  match (c.core x).found m.line with
  | none => c.send (snpNo x m .i)
  | some (st, d, p) =>
    if m.clean then
      let c := c.modCore x fun k => k.restate m.line L2State.cleaned
      c.send (if st.dirty then snpData x m.line d p else snpNo x m .s)
    else if m.once then
      (c.send (fwdMsg x m .none d p)).send (snpNo x m (if st.dirty then .o else .s))
    else
      let c := c.modCore x fun k => k.restate m.line L2State.forwarded
      (c.send (fwdMsg x m .s d p)).send (snpNo x m (if st.dirty then .o else .s))

/-! Fills (R122, R149, R157, R162-R164). -/

/-- Ack of a requester (R163). -/
def ackMsg (src : Agent) (line : Nat) : Msg := { kind := .ack, src := src, dst := .home (homeSlice line), line := line }

/-- State of a filled line by its grant (R162). -/
def grantState : Grant → L2State
  | .m => .m | .e => .e | _ => .s

/-- A request of an L2 that has ended. -/
def Core.dropReq (x : Core) (line : Nat) : Core := { x with reqs := x.reqs.filter fun q => !decide (q.line = line) }

/-- Data placed in an L2 that can take it (R163, R164), in L1 for a request of its own hart. A WAIT_CMP grant serves loads
from now on and stores only after the Cmp (R162): until then the line is in S. Ack goes out once all has come. -/
def Chip.l2Place (c : Chip) (x : Nat) (m : Msg) : Chip :=
  let rq := (c.core x).pending m.line
  let wait := m.waitCmp && rq.any fun r => !r.gotCmp
  let c := c.l2Fill x { line := m.line, st := if wait then .s else grantState m.grant, data := m.data, poison := m.poison }
  match rq with
  | some r =>
    let c := if r.ifetch then c.useI x m.line else c.useD x m.line
    if wait then
      c.modCore x fun k => { k with reqs := k.reqs.map fun q => if q.line = m.line then { q with gotData := true, waitCmp := true } else q }
    else (c.modCore x fun k => k.dropReq m.line).send (ackMsg (.core x) m.line)
  | none => c.send (ackMsg (.core x) m.line)

/-- The L2 places a line now: it has room, and no fill enters the L2 of a core in Rest or on its way out of it (R120,
R122). -/
def Core.takesFill (x : Core) (line : Nat) : Bool :=
  x.canFill line && decide (x.power ≠ .rest) && decide (x.power ≠ .waking)

/-- The Data that waits in a core's request entries is placed where it now fits. -/
def Chip.refills (c : Chip) (x : Nat) : Chip :=
  (c.core x).fills.foldl (fun (c : Chip) m =>
    if (c.core x).takesFill m.line then (c.modCore x fun k => { k with fills := k.fills.erase m }).l2Place x m else c) c

/-- FwdOwn at an L2 (R163, R166): FwdData to the requester, nothing to the home, and the line goes to I. -/
def Chip.l2FwdOwn (c : Chip) (x : Nat) (m : Msg) : Chip :=
  let c := (((c.take m).countSnoop x 2).dropResv x m.line).loseEarly x m.line
  match (c.core x).found m.line with
  | some (_, d, p) => ((c.modCore x fun k => k.setLine m.line fun _ => none).send (fwdMsg x m .m d p)).refills x
  | none => c.send (snpNo x m .i)

/-- Inval at an L2 (R155, R164, R166): the line goes to I. Under RECALL a dirty line, in the cache or in the writeback
buffer, is the answer as WbData; every other answer is SnpNoData (DEDUCED, log 21). -/
def Chip.l2Inval (c : Chip) (x : Nat) (m : Msg) : Chip :=
  let c := (((c.take m).countSnoop x 4).dropResv x m.line).loseEarly x m.line
  let src := (c.core x).found m.line
  let c := c.modCore x fun k => k.setLine m.line fun _ => none
  (match src with
  | some (st, d, p) => c.send (if m.rcl && st.dirty then snpData x m.line d p else snpNo x m .i)
  | none => c.send (snpNo x m .i)).refills x

/-- An Inval or FwdOwn against the reserved line of a hart is held (R116). -/
def Chip.resvHolds (c : Chip) (x line : Nat) : Bool :=
  (c.core x).hartValid && decide ((c.hart (c.core x).hartId).resv = some line)

/-- Data or FwdData at an L2 (R157, R163, R164): the answer to an NcRd is kept for its load and fills nothing (R102, R170);
any other is placed, or, since DAT never waits, is held in its request's entry until the L2 can place it. -/
def Chip.l2Data (c : Chip) (x : Nat) (m : Msg) : Chip :=
  let k := c.core x
  let c := c.take m
  if (k.pending m.line).map (·.kind) = some .ncRd then
    let c := c.modCore x fun k => { k.dropReq m.line with nc := some m }
    match m.src with
    | .bridge => c
    | .unit _ => c
    | _ => c.send (ackMsg (.core x) m.line)
  else if k.takesFill m.line then c.l2Place x m
  else c.modCore x fun k => { k with fills := k.fills ++ [m] }

/-- A store-buffer entry of a hart freed by the Cmp or WbAck of its line (R87, R170). -/
def Hart.freeSb (h : Hart) (line : Nat) : Hart :=
  match h.sb with
  | e :: rest =>
    if e.sent && decide (e.pa / 64 = line) then { h with sb := if e.pair then rest.drop 1 else rest } else h
  | [] => h

/-- Cmp at a core (R162-R164, R169, R171): the grant of an Upgrade or of a WAIT_CMP line, the end of a cache-block
operation or of a reduction, leave to send WbData, or an access error. The Cmp of an Upgrade whose line has gone is that of
the RdOwn it became (R164), and is kept for its Data; that of a cbo.zero's RdOwn grants a line of zeros (R117). -/
def Chip.l2Cmp (c : Chip) (x : Nat) (m : Msg) : Chip :=
  let c := c.take m
  let k := c.core x
  match k.pending m.line with
  | some r =>
    let drop (c : Chip) : Chip := c.modCore x fun k => k.dropReq m.line
    let early (c : Chip) : Chip :=
      c.modCore x fun k => { k with reqs := k.reqs.map fun q => if q.line = m.line then { q with gotCmp := true } else q }
    let granted (c : Chip) : Chip :=
      (drop (c.modCore x fun k => k.setLine m.line fun l => some { l with st := .m })).send (ackMsg (.core x) m.line)
    if m.err || decide (m.src ≠ .home (homeSlice m.line)) then (drop c).modCore x fun k => { k with nc := some m }
    else if r.zero then
      let d : Msg := { kind := .data, src := m.src, dst := m.dst, line := m.line, grant := .m }
      if k.takesFill m.line then c.l2Place x d else c.modCore x fun k => { k with fills := k.fills ++ [d] }
    else match r.kind with
      | .upgrade => if (k.line m.line).isSome then granted c else early c
      | .rdOnce => drop c
      | .redOp => (drop c).modHart k.hartId fun h => h.freeSb m.line
      | .ncWr =>
        match ((c.hart k.hartId).sb.find? fun e => e.sent && decide (e.pa / 64 = m.line)) with
        | some e =>
          let d : Line := (lineOf e.bytes) <<< (8 * (e.pa % 64))
          let w : Msg := { kind := .wbData, src := .core x, dst := .home (homeSlice m.line), line := m.line, data := d,
                           mask := byteMask (e.pa % 64) e.bytes.length }
          c.send w
        | none => c
      | _ => if r.gotData then granted c else early c
  | none => c

/-- WbAck or WbAckStale at a core (R165, R166, R170): the buffer entry is freed, a held eviction to that home leaves, Data
that waits for room is placed, and an uncached store retires. -/
def Chip.l2WbAck (c : Chip) (x : Nat) (m : Msg) : Chip :=
  let c := c.take m
  let k := c.core x
  if (k.pending m.line).map (·.kind) = some .ncWr then
    (c.modCore x fun k => k.dropReq m.line).modHart k.hartId fun h => h.freeSb m.line
  else
    ((c.modCore x fun k => { k with wb := k.wb.filter fun w => !(decide (w.line = m.line) && w.sent) }).sendPuts x).refills x

/-- An L2 asks its home for a line (R93, R149, R158): not while 48 requests are out, nor for a line already asked for or
in the writeback buffer. -/
def Chip.ask (c : Chip) (x line : Nat) (k : MsgKind) (ifetch : Bool := false) (maint : Maint := .none) : Chip :=
  let y := c.core x
  if 48 ≤ y.reqs.length || (y.pending line).isSome || (y.buffered line).isSome then c
  else
    (c.modCore x fun y => { y with reqs := y.reqs ++ [{ line := line, kind := k, ifetch := ifetch, maint := maint }] }).send
      { kind := k, src := .core x, dst := .home (homeSlice line), line := line, ifetch := ifetch, maint := maint, clos := c.coreClos x }

/-! Reads and writes of devices, whole (R169; log 8): the messages of one transfer happen together. -/

/-- Data of a line in flight to a core (R163). -/
def Chip.inFlight (c : Chip) (line : Nat) : Option Msg :=
  (c.mesh ++ c.cores.flatMap fun e => e.2.fills).find? fun m =>
    decide (m.line = line) && (decide (m.kind = .data) || decide (m.kind = .fwdData)) && (coreIx m.dst).isSome

/-- A message with its line's data replaced: Data, and WbData of a whole line from an L2. -/
def patchMsg (m : Msg) (line : Nat) (d : Line) (p : Bool) : Msg :=
  if m.line = line ∧ (m.kind = .data ∨ m.kind = .fwdData ∨ (m.kind = .wbData ∧ m.mask = BitVec.allOnes 64 ∧ (coreIx m.src).isSome)) then
    { m with data := d, poison := p } else m

/-- Every copy of a line replaced wherever it is, for a device write that meets another transaction's line (log 8): in the
mesh, in L2s, writeback buffers and held fills, in writeback slots and tracker entries. -/
def Chip.patchLine (c : Chip) (i line : Nat) (d : Line) (p : Bool) : Chip :=
  let core (k : Core) : Core :=
    { k.setLine line fun l => some { l with data := d, poison := p } with
      wb := k.wb.map fun w => if w.line = line then { w with data := d, poison := p } else w
      fills := k.fills.map fun m => patchMsg m line d p }
  let c := { c with mesh := c.mesh.map fun m => patchMsg m line d p, cores := c.cores.map fun (e : Nat × Core) => (e.1, core e.2) }
  c.modHome i fun x => { x with
    slots := x.slots.map fun (e : Nat × Msg) => (e.1, patchMsg e.2 line d p)
    txns := x.txns.map fun (t : Txn) => if t.blocks line then { t with got := t.got.map fun _ => (d, p) } else t }

/-- A line's current data wherever it is: the owner's L2 or writeback buffer, a grant in flight, the L3, memory. None
outside memory (R44). An open line closes first (R187). -/
def Chip.devRead (c : Chip) (line : Nat) : Option (Line × Bool × Chip) :=
  if !c.isMemory (line * 64) then none
  else
    let i := homeSlice line
    let c := c.closeAtOnce i line
    let own := ((c.home i).dirFind line).bind fun e => e.2.owner
    match own with
    | some x =>
      match (c.core x).line line with
      | some l => some (l.data, l.poison, c)
      | none => match (c.core x).buffered line with
        | some w => some (w.data, w.poison, c)
        | none => match c.inFlight line with
          | some m => some (m.data, m.poison, c)
          | none => some (c.homeRead i line)
    | none => some (c.homeRead i line)

/-- A device write of up to a line, stored as R169 says: holders invalidated, data merged, line in the L3 in the device's
class, and stashed; an L2 that cannot take the stash at once gets its Data by message. While another transaction blocks the
line, the write is ordered before it, and its bytes land wherever the line's data is (log 8). -/
def Chip.devWrite (c : Chip) (line : Nat) (d : Line) (mask : BitVec 64) (poison : Bool) (clos : Nat) (tgt : Option Nat) : Chip :=
  if !c.isMemory (line * 64) then c
  else
    let i := homeSlice line
    match c.devRead line with
    | none => c
    | some (o, op, c) =>
      let (d, p) := mergedLine (o, op) d mask poison
      if (c.home i).blocked line then
        let hs : List Nat := (((c.home i).dirFind line).map (fun e => c.holders e.2 [])).getD []
        let c := hs.foldl (fun (c : Chip) x => c.dropResv x line) c
        (c.patchLine i line d p).l3Fill i line d p true clos
      else
        let c := match (c.home i).dirFind line with
          | some (_, e) => (c.holders e []).foldl (fun (c : Chip) x => (c.modCore x fun k => k.setLine line fun _ => none).dropResv x line) c
          | none => c
        let c := (c.modHome i fun x => x.dropDir line).l3Fill i line d p true clos
        match tgt with
        | some k =>
          if decide (mask = BitVec.allOnes 64) && (c.core k).takesStash && (c.home i).stashRoom line then
            let hm := c.home i
            let c := if (hm.dirWay (homeSet line)).isSome then c
              else match hm.dirVictim (homeSet line) with | some v => c.recallNow i v | none => c
            if (c.core k).canFill line then
              (c.modHome i fun x => x.setDir { line := line, st := .exclusive, ptrs := [k] }).l2Fill k
                { line := line, st := .e, data := d, poison := p }
            else
              let m : Msg := { kind := .ncWr, src := .bridge, dst := .home i, line := line, stash := some k }
              c.stashData i { line := line, req := m, stage := .stash } k
          else c
        | none => c

/-- `n` bytes read by a device from a physical address; none when some byte lies outside memory; the poison of any line
read. -/
def Chip.devReadBytes (c : Chip) (pa n : Nat) : Option (List Byte × Bool × Chip) :=
  let rec go (c : Chip) (a : Nat) (left : Nat) (fuel : Nat) (acc : List Byte) (p : Bool) : Option (List Byte × Bool × Chip) :=
    match fuel with
    | 0 => some (acc, p, c)
    | fuel + 1 =>
      if left = 0 then some (acc, p, c)
      else
        let k := min left (64 - a % 64)
        match c.devRead (a / 64) with
        | none => none
        | some (d, q, c) => go c (a + k) (left - k) fuel (acc ++ ((lineBytes d).drop (a % 64)).take k) (p || q)
  go c pa n (n / 64 + 2) [] false

/-- Bytes written by a device from a physical address, line by line (R169). -/
def Chip.devWriteBytes (c : Chip) (pa : Nat) (bs : List Byte) (poison : Bool) (clos : Nat) (tgt : Nat → Option Nat) : Chip :=
  let rec go (c : Chip) (a : Nat) (bs : List Byte) (fuel : Nat) : Chip :=
    match fuel with
    | 0 => c
    | fuel + 1 =>
      if bs.isEmpty then c
      else
        let k := min bs.length (64 - a % 64)
        let d : Line := (lineOf (bs.take k)) <<< (8 * (a % 64))
        go (c.devWrite (a / 64) d (byteMask (a % 64) k) poison clos (tgt (a / 64))) (a + k) (bs.drop k) fuel
  go c pa bs (bs.length / 64 + 2)

end Sys2Proof.Machine
end

