-- ==== Sys2Proof/Machine/Trap.lean ====
section
/-! DEFINITION. Taking an exception or interrupt and returning from one: ONE shared operation each (R98, R111, R116; the
registers are those of the RISC-V privileged ISA that R80 names, log 6). -/

namespace Sys2Proof.Machine

/-! Exception causes of the privileged ISA (log 6); 19 is R431's hardware error. -/
def xIllegal : Nat := 2
def xBreak : Nat := 3
def xLoadMis : Nat := 4
def xLoadAcc : Nat := 5
def xStoreMis : Nat := 6
def xStoreAcc : Nat := 7
def xLoadPage : Nat := 13
def xStorePage : Nat := 15
def xHardware : Nat := 19
def xVirtual : Nat := 22

/-- The page-fault cause of an access. -/
def Access.pageFault : Access → Nat
  | .fetch => 12 | .load => 13 | .store => 15
def Access.guestFault : Access → Nat
  | .fetch => 20 | .load => 21 | .store => 23
def Access.accessFault : Access → Nat
  | .fetch => 1 | .load => 5 | .store => 7
def Access.misaligned : Access → Nat
  | .fetch => 0 | .load => 4 | .store => 6

/-- All prediction and prefetcher training state discarded (R98). -/
def Hart.flushPred (h : Hart) : Hart := { h with pred := {} }

/-- Where a trap is handled: M, HS or VS. -/
inductive TrapLevel where
  | m | hs | vs
deriving DecidableEq, Repr

/-- The level of a trap by mideleg, medeleg, hideleg and hedeleg. -/
def Hart.trapLevel (h : Hart) (interrupt : Bool) (cause : Nat) : TrapLevel :=
  let d := if interrupt then 0x303 else 0x302
  let hd := if interrupt then 0x603 else 0x602
  if h.priv = .m ∨ h.csrFld d cause cause = 0 then .m
  else if h.virt ∧ h.csrFld hd cause cause = 1 then .vs else .hs

/-- Address of a handler: the base, or the vector of an interrupt when MODE is 1. -/
def handlerPc (tvec : DWord) (interrupt : Bool) (cause : Nat) : DWord :=
  let base := (tvec >>> 2) <<< 2
  if interrupt && decide (fld tvec 1 0 = 1) then base + BitVec.ofNat 64 (4 * cause) else base

/-- cause register value: the interrupt bit and the code. -/
def causeWord (interrupt : Bool) (cause : Nat) : DWord := BitVec.ofNat 64 (cause + bit interrupt * 2 ^ 63)

/-- A load cause as the store cause that a cache-block operation raises. -/
def asStore (cause : Nat) : Nat := if cause = 5 then 7 else if cause = 13 then 15 else if cause = 21 then 23 else cause

/-- Loads and stores of the present mode are virtualised: MPRV applies in M-mode. -/
def Hart.dataVirt (h : Hart) : Bool :=
  if h.priv = .m ∧ h.csrFld cMstatus 17 17 = 1 then decide (h.csrFld cMstatus 12 11 ≠ 3) && decide (h.csrFld cMstatus 39 39 = 1)
  else h.virt

/-- xtval holds a guest virtual address, for the GVA bits: of the hart's mode for a fetch, of MPRV's for data. -/
def Hart.guestAddr (h : Hart) (interrupt : Bool) (cause : Nat) : Bool :=
  !interrupt && ((h.virt && [0, 1, 12, 20].contains cause) || (h.dataVirt && [4, 5, 6, 7, 13, 15, 19, 21, 23].contains cause))

/-- Trap entry: pc, cause, xtval and the previous mode saved at the handling level, interrupts of that level disabled, the
reservation lost (R116), all prediction state flushed (R98), and the pc at the handler. `gpa` is the guest physical address
of a guest-page fault, `ins` the pseudoinstruction of a fault on a page-table entry of the guest, `gv` whether the address
is a guest's for another reason (HLV, HSV). What the interrupted instruction had begun is forgotten. -/
def Hart.enterTrap (h0 : Hart) (interrupt : Bool) (cause : Nat) (tval : DWord) (gpa : Nat := 0) (ins : Nat := 0)
    (gv : Bool := false) : Hart :=
  let h := { h0 with resv := none, held := none, walk := none, run := .running, ioSt := false, cbo := none, ncGot := [], vst := 0,
                     early := [] }.flushPred
  let gva := gv || h.guestAddr interrupt cause
  match h.trapLevel interrupt cause with
  | .m =>
    let s := h.csr cMstatus
    let s := setFld s 7 7 (fld s 3 3)
    let s := setFld (setFld (setFld (setFld s 3 3 0) 12 11 h.priv.code) 39 39 (bit h.virt)) 38 38 (bit gva)
    let h := (((h.setCsr cMstatus s).setCsr 0x341 h.pc).setCsr 0x342 (causeWord interrupt cause)).setCsr 0x343 tval
    let h := (h.setCsr 0x34B (BitVec.ofNat 64 (gpa / 4))).setCsr 0x34A (BitVec.ofNat 64 ins)
    { h with priv := .m, virt := false, pc := handlerPc (h.csr 0x305) interrupt cause }
  | .hs =>
    let s := h.csr cMstatus
    let s := setFld s 5 5 (fld s 1 1)
    let s := setFld (setFld s 1 1 0) 8 8 (if h.priv = .u then 0 else 1)
    let t := setFld (setFld (h.csr cHstatus) 7 7 (bit h.virt)) 6 6 (bit gva)
    let t := if h.virt then setFld t 8 8 (if h.priv = .u then 0 else 1) else t
    let h := (((h.setCsr cMstatus s).setCsr cHstatus t).setCsr 0x141 h.pc).setCsr 0x142 (causeWord interrupt cause)
    let h := ((h.setCsr 0x143 tval).setCsr 0x643 (BitVec.ofNat 64 (gpa / 4))).setCsr 0x64A (BitVec.ofNat 64 ins)
    { h with priv := .s, virt := false, pc := handlerPc (h.csr 0x105) interrupt cause }
  | .vs =>
    let cz := if interrupt && [2, 6, 10].contains cause then cause - 1 else cause
    let s := h.csr cVsstatus
    let s := setFld s 5 5 (fld s 1 1)
    let s := setFld (setFld s 1 1 0) 8 8 (if h.priv = .u then 0 else 1)
    let h := (((h.setCsr cVsstatus s).setCsr 0x241 h.pc).setCsr 0x242 (causeWord interrupt cz)).setCsr 0x243 tval
    { h with priv := .s, pc := handlerPc (h.csr 0x205) interrupt cz }

/-- An exception of a hart, on the instruction at its pc. -/
def Chip.raise (c : Chip) (h cause : Nat) (tval : DWord) (gpa : Nat := 0) (ins : Nat := 0) (gv : Bool := false) : Chip :=
  c.modHart h fun x => x.enterTrap false cause tval gpa ins gv

/-- xtval of an exception that reports an instruction (Sstvala of RVA23S64, R80): the instruction's bits, which are free where
the command does not carry them (log 80). -/
def Chip.insBits (c : Chip) (word : Option (BitVec 32)) : DWord × Chip :=
  match word with
  | some w => (w.setWidth 64, c)
  | none => let (t, c) := c.draw; (t &&& 0xFFFFFFFF#64, c)

/-- The illegal-instruction exception, or the virtual-instruction exception where the privileged ISA requires one. -/
def Chip.illegal (c : Chip) (h : Nat) (word : Option (BitVec 32) := none) : Chip :=
  let (t, c) := c.insBits word
  c.raise h xIllegal t
def Chip.virtualIns (c : Chip) (h : Nat) (word : Option (BitVec 32) := none) : Chip :=
  let (t, c) := c.insBits word
  c.raise h xVirtual t

/-- MRET in M-mode. -/
def Hart.mret (h : Hart) : Hart :=
  let s := h.csr cMstatus
  let mpp := fld s 12 11
  let p : Priv := if mpp = 3 then .m else if mpp = 1 then .s else .u
  let v := decide (p ≠ .m) && decide (fld s 39 39 = 1)
  let s := setFld s 3 3 (fld s 7 7)
  let s := setFld (setFld (setFld s 7 7 1) 12 11 0) 39 39 0
  let s := if p = .m then s else setFld s 17 17 0
  let h := (h.setCsr cMstatus s).flushPred
  { h with priv := p, virt := v, pc := (h.csr 0x341 >>> 1) <<< 1 }

/-- SRET in HS-mode or M-mode, and in VS-mode. -/
def Hart.sret (h : Hart) : Hart :=
  if h.virt then
    let s := h.csr cVsstatus
    let p : Priv := if fld s 8 8 = 1 then .s else .u
    let s := setFld s 1 1 (fld s 5 5)
    let h := (h.setCsr cVsstatus (setFld (setFld s 5 5 1) 8 8 0)).flushPred
    { h with priv := p, pc := (h.csr 0x241 >>> 1) <<< 1 }
  else
    let s := h.csr cMstatus
    let p : Priv := if fld s 8 8 = 1 then .s else .u
    let v := decide (h.csrFld cHstatus 7 7 = 1)
    let s := setFld s 1 1 (fld s 5 5)
    let s := setFld (setFld (setFld s 5 5 1) 8 8 0) 17 17 0
    let h := ((h.setCsr cMstatus s).setCsrFld cHstatus 7 7 0).flushPred
    { h with priv := p, virt := v, pc := (h.csr 0x141 >>> 1) <<< 1 }

/-- Loads performed ahead of program order are discarded, to be executed again (R96, R107, R113). -/
def Hart.dropEarly (h : Hart) : Hart := { h with early := [] }

/-- Wrong-path entries of the store buffer discarded (R101). -/
def Hart.dropWrong (h : Hart) : Hart := { h with sb := h.sb.filter fun e => !e.wrong }

/-- Nothing but wrong-path entries is in the store buffer: it is empty for the oldest instruction (R96, R114, R115). -/
def Hart.sbEmpty (h : Hart) : Bool := h.sb.all fun e => e.wrong

end Sys2Proof.Machine
end

