-- ==== Sys2Proof/Machine/Csr.lean ====
section
/-! DEFINITION. CSR accesses: presence, privilege, views and write masks (R81, R83, R88-R91, R96, R98, R117, R130, R131,
R444-R447, R453-R456). The manual's own CSRs follow its tables under R89; the standard ones follow the privileged ISA
that R80 names (PRESUMED, log 6). -/

namespace Sys2Proof.Machine

/-- What a CSR access does: its value, or an exception. -/
inductive CsrRes where
  | ok (v : DWord)
  | illegal
  | virt
deriving DecidableEq, Repr

/-- CSRs that the hart implements (R81, R82, R88, R444, R454; log 6). -/
def csrExists (n : Nat) : Bool :=
  [0x001, 0x002, 0x003, 0x008, 0x009, 0x00A, 0x00F, 0x015, 0xC20, 0xC21, 0xC22,
   0x100, 0x104, 0x105, 0x106, 0x10A, 0x10C, 0x120, 0x140, 0x141, 0x142, 0x143, 0x144, 0x14D, 0x150, 0x151, 0x15C, 0x180, 0xDA0, 0xDB0,
   0x200, 0x204, 0x205, 0x240, 0x241, 0x242, 0x243, 0x244, 0x24D, 0x250, 0x251, 0x25C, 0x280, 0xEB0].contains n
  || [0x300, 0x301, 0x302, 0x303, 0x304, 0x305, 0x306, 0x308, 0x309, 0x30A, 0x30C, 0x320, 0x340, 0x341, 0x342, 0x343, 0x344,
   0x34A, 0x34B, 0x350, 0x351, 0x35C, 0x747, 0xF11, 0xF12, 0xF13, 0xF14, 0xF15, 0xFB0, 0xB00, 0xB02, 0xC00, 0xC01, 0xC02].contains n
  || [0x600, 0x602, 0x603, 0x604, 0x605, 0x606, 0x607, 0x608, 0x609, 0x60A, 0x60C, 0x643, 0x644, 0x645, 0x646, 0x647, 0x64A,
   0x680, 0xE12, 0x7A0, 0x7A1, 0x7A2, 0x7A4, 0x5C0, 0x5C1, 0x5C2, 0x5C3, 0x7C0, 0x7C1].contains n
  || (decide (0x323 ≤ n) && decide (n ≤ 0x33F)) || (decide (0xB03 ≤ n) && decide (n ≤ 0xB1F))
  || (decide (0xC03 ≤ n) && decide (n ≤ 0xC1F))
  || (decide (0x3A0 ≤ n) && decide (n ≤ 0x3AE) && decide (n % 2 = 0)) || (decide (0x3B0 ≤ n) && decide (n ≤ 0x3EF))

/-- VS-mode names a supervisor CSR for its own copy. -/
def vsAlias (n : Nat) : Nat :=
  if [0x100, 0x104, 0x105, 0x140, 0x141, 0x142, 0x143, 0x144, 0x14D, 0x150, 0x151, 0x15C, 0x180].contains n then n + 0x100
  else if n = 0xDB0 then 0xEB0 else n

/-- Bits of mstatus that sstatus shows: SIE SPIE UBE SPP VS FS XS SUM MXR SPELP(0) UXL SD. -/
def sstatusMask : DWord := 0x80000003000DE762#64
/-- Writable bits of mstatus, of sstatus and of vsstatus. -/
def mstatusWr : DWord := 0x000000C0007E7FEA#64 &&& ~~~0x0000000000000040#64
def sstatusWr : DWord := 0x00000000000C6722#64

/-- The hpmcounter and mhpmcounter numbers that do not exist: they read 0 and ignore writes (R444). -/
def deadCounter (n : Nat) : Bool :=
  (decide (0x32B ≤ n) && decide (n ≤ 0x33F)) || (decide (0xB0B ≤ n) && decide (n ≤ 0xB1F)) || (decide (0xC0B ≤ n) && decide (n ≤ 0xC1F))

/-- Permission of a counter read by mcounteren, hcounteren and scounteren (R453). -/
def Hart.counterOk (h : Hart) (i : Nat) : CsrRes :=
  let m := h.csrFld 0x306 i i = 1
  let hc := h.csrFld 0x606 i i = 1
  let sc := h.csrFld 0x106 i i = 1
  match h.priv, h.virt with
  | .m, _ => .ok 0
  | .s, false => if m then .ok 0 else .illegal
  | .u, false => if m ∧ sc then .ok 0 else .illegal
  | .s, true => if ¬ m then .illegal else if hc then .ok 0 else .virt
  | .u, true => if ¬ m then .illegal else if ¬ hc then .virt else if sc then .ok 0 else .virt

/-- The bit of mstateen0 and hstateen0 that a CSR needs, if any (Smstateen, Ssstateen; log 6). -/
def stateenBit (n : Nat) : Option Nat :=
  if [0x10A, 0x60A].contains n then some 62
  else if [0x10C, 0x60C].contains n then some 63
  else if [0x150, 0x151, 0x250, 0x251].contains n then some 60
  else if [0x15C, 0x25C].contains n then some 58
  else if [0xDB0, 0xEB0, 0x608, 0x609, 0x646, 0x647].contains n then some 59
  else none

/-- Access to a CSR below M-mode by the state-enable registers. -/
def Hart.stateenOk (h : Hart) (n : Nat) : CsrRes :=
  match stateenBit n with
  | none => .ok 0
  | some b =>
    if h.priv = .m then .ok 0
    else if h.csrFld 0x30C b b = 0 then .illegal
    else if h.virt && decide (h.csrFld 0x60C b b = 0) then .virt
    else .ok 0

/-- Whether the present mode may access a CSR: existence, privilege, FP and vector state, and the traps of the
virtual-machine and counter enables. -/
def Hart.csrAccess (h : Hart) (n : Nat) (write : Bool) : CsrRes :=
  let lvl := n / 256 % 4
  if !csrExists n then .illegal
  else if write && decide (n / 1024 % 4 = 3) then .illegal
  else if h.priv ≠ .m ∧ lvl = 3 then .illegal
  else if [0x5C0, 0x5C1, 0x5C2, 0x5C3].contains n then
    (if h.priv = .u then .illegal else if h.virt then .virt else .ok 0)
  else if h.priv = .u ∧ (lvl = 1 ∨ lvl = 2) then (if h.virt then .virt else .illegal)
  else if h.virt ∧ lvl = 2 then .virt
  else if [0x001, 0x002, 0x003].contains n ∧ h.fsOn = false then .illegal
  else if [0x008, 0x009, 0x00A, 0x00F, 0xC20, 0xC21, 0xC22].contains n ∧ h.vsOn = false then .illegal
  else if n = 0x015 then
    (if !write then .illegal else if h.priv = .m then .ok 0
     else if h.csrFld 0x747 9 9 = 1 ∧ h.priv = .s ∧ h.virt = false then .ok 0
     else if h.csrFld 0x747 8 8 = 1 ∧ h.priv = .u ∧ h.virt = false then .ok 0
     else if h.virt ∧ (h.csrFld 0x747 9 9 = 1 ∨ h.csrFld 0x747 8 8 = 1) then .virt else .illegal)
  else if 0xC00 ≤ n ∧ n ≤ 0xC1F then h.counterOk (n - 0xC00)
  else if n = 0x180 ∧ h.priv = .s ∧ h.virt = false ∧ h.csrFld cMstatus 20 20 = 1 then .illegal
  else if n = 0x180 ∧ h.virt ∧ h.csrFld cHstatus 20 20 = 1 then .virt
  else if n = 0x680 ∧ h.priv = .s ∧ h.csrFld cMstatus 20 20 = 1 then .illegal
  else if (n = 0x14D ∨ n = 0x24D) ∧ h.priv ≠ .m ∧ (h.csrFld cMenvcfg 63 63 = 0 ∨ h.csrFld 0x306 1 1 = 0) then .illegal
  else if n = 0x14D ∧ h.virt ∧ (h.csrFld cHenvcfg 63 63 = 0 ∨ h.csrFld 0x606 1 1 = 0) then .virt
  else h.stateenOk n

/-- Dirty summaries of FS, VS in a status word: SD. -/
def withSd (s : DWord) : DWord := setFld s 63 63 (if fld s 14 13 = 3 ∨ fld s 10 9 = 3 then 1 else 0)

/-- An interrupt file delivers: an enabled identity is pending, below its threshold where that is not 0 (AIA; R81). -/
def Chip.fileOn (c : Chip) (hid page : Nat) : Bool :=
  let f := Sparse.at c.imsic {} (16 * hid + page)
  let act := f.pend &&& f.enabled
  decide (f.delivery = 1) && (if f.thr = 0 then decide (act ≠ 0) else decide (act.toNat % 2 ^ f.thr ≠ 0))

/-- hgeip: bit g for guest interrupt file g, 1 to GEILEN = 7 (R82). -/
def Chip.hgeip (c : Chip) (hid : Nat) : Nat := (List.range 7).foldl (fun a i => a + bit (c.fileOn hid (i + 2)) * 2 ^ (i + 1)) 0

/-- mip with the timer interrupts that stimecmp and vstimecmp hold pending against mtime, the external bits of the
interrupt files, and SGEI (Sstc, AIA, H; R81). -/
def Chip.mip (c : Chip) (hid : Nat) : DWord :=
  let h := c.hart hid
  let st := if h.csrFld cMenvcfg 63 63 = 1 then bit (decide ((h.csr 0x14D).toNat ≤ c.mtime.toNat)) * 32 else 0
  let vt := if h.csrFld cHenvcfg 63 63 = 1 then bit (decide ((h.csr 0x24D).toNat ≤ (c.mtime + h.csr 0x605).toNat)) * 64 else 0
  let vg := h.csrFld cHstatus 17 12
  let ve := if 1 ≤ vg ∧ vg ≤ 7 then bit (c.fileOn hid (vg + 1)) * 1024 else 0
  let sg := if (h.csr 0x607).toNat = 0 then 0 else bit (decide (c.hgeip hid &&& (h.csr 0x607).toNat ≠ 0)) * 4096
  h.csr cMip ||| BitVec.ofNat 64 (bit (c.fileOn hid 0) * 2048 ||| bit (c.fileOn hid 1) * 512 ||| st ||| vt ||| ve ||| sg)

/-- Interrupt codes in the default order of priority, highest first (privileged ISA, Sscofpmf, AIA; log 6). -/
def intOrder : List Nat := [11, 3, 7, 9, 1, 5, 12, 10, 2, 6, 13]

/-- mtopi, stopi and vstopi: the code of the highest-priority interrupt of a set in bits 27:16, and priority 1; 0 for none
(AIA: every priority number is a read-only 0, log 6). -/
def topInt (m : DWord) (codes : List Nat) : DWord :=
  match codes.find? fun i => decide (fld m i i = 1) with
  | some i => BitVec.ofNat 64 (i * 65536 + 1)
  | none => 0

/-- The value that a CSR read returns, by its storage number; reads have no side effect but those of `csrRead`. -/
def Chip.csrValue (c : Chip) (hid : Nat) (n : Nat) : DWord :=
  let h := c.hart hid
  if deadCounter n then 0
  else if n = 0x001 then h.csr cFflags &&& 0x1F
  else if n = 0x003 then ((h.csr cFrm &&& 7) <<< 5) ||| (h.csr cFflags &&& 0x1F)
  else if n = 0x00F then ((h.csr cVxrm &&& 3) <<< 1) ||| (h.csr cVxsat &&& 1)
  else if n = 0x100 then h.csr cMstatus &&& sstatusMask
  else if n = 0x104 then h.csr cMie &&& h.csr 0x303
  else if n = 0x144 then c.mip hid &&& h.csr 0x303
  else if n = 0x204 then (h.csr cMie &&& h.csr 0x603) >>> 1
  else if n = 0x244 then (c.mip hid &&& h.csr 0x603) >>> 1
  else if n = 0x344 then c.mip hid
  else if n = 0x604 then h.csr cMie &&& 0x1444#64
  else if n = 0x644 then c.mip hid &&& 0x1444#64
  else if n = 0x645 then h.csr cMip &&& 0x444#64
  else if n = 0xC00 then h.csr cMcycle
  else if n = 0xC01 then (if h.virt then c.mtime + h.csr 0x605 else c.mtime)
  else if n = 0xC02 then h.csr cMinstret
  else if 0xC03 ≤ n ∧ n ≤ 0xC0A then h.csr (n - 0x100)
  else if n = 0xDA0 then BitVec.ofNat 64 ((List.range 8).foldl (fun a i => a + h.csrFld (0x323 + i) 63 63 * 2 ^ (i + 3)) 0)
  else if n = 0xF14 then BitVec.ofNat 64 hid
  else if n = 0xFB0 then topInt (c.mip hid &&& h.csr cMie &&& ~~~ h.csr 0x303) intOrder
  else if n = 0xDB0 then topInt (c.mip hid &&& h.csr cMie &&& h.csr 0x303 &&& ~~~ h.csr 0x603) intOrder
  else if n = 0xEB0 then topInt ((c.mip hid &&& h.csr cMie &&& h.csr 0x603) >>> 1) [9, 1, 5, 12]
  else if n = 0xE12 then BitVec.ofNat 64 (c.hgeip hid)
  else if 0x3B0 ≤ n ∧ n ≤ 0x3EF then
    let a := fld (h.csr (0x3A0 + (n - 0x3B0) / 8 * 2)) (8 * ((n - 0x3B0) % 8) + 4) (8 * ((n - 0x3B0) % 8) + 3)
    if a = 3 then h.csr n ||| 0x1FF#64 else h.csr n &&& ~~~ 0x3FF#64
  else if n = 0x7A1 ∨ n = 0x7A2 then h.csr (0x10000 + 4 * h.csrFld 0x7A0 2 0 + (n - 0x7A0))
  else if n = 0x7A4 then 0x01000040#64
  else h.csr n

/-- The interrupt identity that mtopei, stopei and vstopei show of a file: the lowest that is pending, enabled and below the
threshold, in both halves (AIA). -/
def ImsicFile.top (f : ImsicFile) : DWord :=
  let act := f.pend &&& f.enabled
  match (List.range 2048).find? fun i => act.getLsbD i && (decide (f.thr = 0) || decide (i < f.thr)) with
  | some i => BitVec.ofNat 64 (i * 65536 + i)
  | none => 0

/-- EVENT codes of R450, with the UMASK bits that each defines (R447). -/
def eventUmask (code : Nat) : Option Nat :=
  match code with
  | 0x000 => some 0xFF | 0x001 => some 0 | 0x002 => some 0 | 0x003 => some 0 | 0x004 => some 0 | 0x005 => some 0 | 0x006 => some 7
  | 0x007 => some 15 | 0x101 => some 15 | 0x102 => some 15 | 0x103 => some 15 | 0x104 => some 15 | 0x105 => some 0
  | 0x201 => some 3 | 0x202 => some 7 | 0x203 => some 3 | 0x204 => some 0 | 0x205 => some 0 | 0x206 => some 3 | 0x207 => some 3
  | 0x301 => some 7 | 0x302 => some 7 | 0x303 => some 0 | 0x304 => some 0 | 0x305 => some 0xFF | 0x306 => some 7
  | 0x401 => some 0 | 0x402 => some 3 | 0x403 => some 0 | 0x501 => some 3 | 0x502 => some 3 | 0x601 => some 7 | _ => none

/-- mhpmevent after a write: reserved bits ignored, an unlisted EVENT or an undefined UMASK bit leaves its field
unchanged (R89, R447). -/
def hpmEventWrite (old v : DWord) : DWord :=
  let code := if (eventUmask (fld v 11 0)).isSome then fld v 11 0 else fld old 11 0
  let um := if fld v 19 12 &&& (255 - (eventUmask code).getD 0) = 0 then fld v 19 12 else fld old 19 12
  BitVec.ofNat 64 (code + um * 2 ^ 12) ||| (v &&& 0xFC33FF0000000000#64)

/-- mol.tsctl after a write (R455): W1C of WM_PEND and FAULT, ranges of LOG2, JITTER and PERIOD, LOG2 fixed while EN = 1. -/
def tsctlNext (old v : DWord) : DWord :=
  let log2 := if 6 ≤ fld v 8 4 ∧ fld v 8 4 ≤ 20 ∧ (fld old 0 0 = 0 ∨ fld v 8 4 = fld old 8 4) then fld v 8 4 else fld old 8 4
  let jit := if fld v 12 9 ≤ 12 then fld v 12 9 else fld old 12 9
  let per := if fld v 63 32 = 0 then fld old 63 32 else fld v 63 32
  BitVec.ofNat 64 (fld v 3 0 + log2 * 2 ^ 4 + jit * 2 ^ 9 + fld v 14 13 * 2 ^ 13 + per * 2 ^ 32)
    ||| ((old &&& ~~~ v) &&& 0x18000#64)

/-- Legalised address-translation roots: an unknown MODE leaves the register unchanged (WARL; R81: modes 0, 8, 9, 10). -/
def atpNext (old v : DWord) : DWord := if [0, 8, 9, 10].contains (fld v 63 60) then v else old

/-- A PMM field after a write: 0 and 2 (PMLEN 0 and 7) are its values (Ssnpm; log 6). -/
def pmmNext (old v : DWord) (hi lo : Nat) : DWord :=
  BitVec.ofNat 64 ((if fld v hi lo = 0 ∨ fld v hi lo = 2 then fld v hi lo else fld old hi lo) * 2 ^ lo)

/-- tdata1 after a write (R81: type 6 only; log 6): the mode and access bits and MATCH 0 to 3; every other field reads 0, and
a write of another type disables the trigger. -/
def tdata1Next (v : DWord) : DWord :=
  if fld v 63 60 = 6 then 0x6000000000000000#64 ||| (v &&& 0x180005F#64) ||| (if fld v 10 7 ≤ 3 then v &&& 0x780#64 else 0)
  else 0x6000000000000000#64

/-- The stored value of a CSR after a write, by storage number. -/
def csrNext (n : Nat) (old v : DWord) : DWord :=
  if deadCounter n then old
  else if 0x323 ≤ n ∧ n ≤ 0x32A then hpmEventWrite old v
  else if 0x3A0 ≤ n ∧ n ≤ 0x3AE then
    BitVec.ofNat 64 ((List.range 8).foldl (fun a i =>
      let o := fld old (8 * i + 7) (8 * i)
      let w := fld v (8 * i + 7) (8 * i) &&& 0x9F
      let w := if o / 128 % 2 = 1 then o
        else if (w % 4 = 2) ∨ (w / 8 % 4 = 2) then o &&& 0x1F else w
      a + w * 2 ^ (8 * i)) 0)
  else match n with
    | 0x001 => v &&& 0x1F#64
    | 0x002 => v &&& 7#64
    | 0x008 => v &&& 0xFF#64
    | 0x009 => v &&& 1#64
    | 0x00A => v &&& 3#64
    | 0x300 =>
      let w := withSd ((old &&& ~~~ mstatusWr) ||| (v &&& mstatusWr))
      if fld w 12 11 = 2 then setFld w 12 11 (fld old 12 11) else w
    | 0x200 => withSd ((old &&& ~~~ sstatusWr) ||| (v &&& sstatusWr))
    | 0x600 =>
      let vg := if fld v 17 12 ≤ 7 then v &&& 0x3F000#64 else old &&& 0x3F000#64
      (old &&& ~~~ 0x300000071F3C0#64) ||| (v &&& 0x7003C0#64) ||| vg ||| pmmNext old v 49 48
    | 0x301 => old
    | 0x302 => v &&& 0xFCB7FF#64
    | 0x303 => (v &&& 0x2222#64) ||| 0x1444#64
    | 0x304 => v &&& 0x3EEE#64
    | 0x344 => (old &&& ~~~ 0x2666#64) ||| (v &&& 0x2666#64)
    | 0x305 => if fld v 1 0 ≤ 1 then v else old
    | 0x105 => if fld v 1 0 ≤ 1 then v else old
    | 0x205 => if fld v 1 0 ≤ 1 then v else old
    | 0x306 => v &&& 0x7FF#64
    | 0x106 => v &&& 0x7FF#64
    | 0x606 => v &&& 0x7FF#64
    | 0x320 => v &&& 0x7FD#64
    | 0x30A => (v &&& 0xE0000000000000C1#64) ||| (if fld v 5 4 = 2 then old &&& 0x30#64 else v &&& 0x30#64)
    | 0x60A => (v &&& 0xE0000000000000C1#64) ||| pmmNext old v 33 32 ||| (if fld v 5 4 = 2 then old &&& 0x30#64 else v &&& 0x30#64)
    | 0x10A => (v &&& 0x00000000000000C1#64) ||| pmmNext old v 33 32 ||| (if fld v 5 4 = 2 then old &&& 0x30#64 else v &&& 0x30#64)
    | 0x341 => v &&& ~~~ 1#64
    | 0x141 => v &&& ~~~ 1#64
    | 0x241 => v &&& ~~~ 1#64
    | 0x180 => atpNext old v
    | 0x280 => atpNext old v
    | 0x680 => atpNext old v &&& 0xF3FFFFFFFFFFFFFF#64
    | 0x747 => v &&& 0x300#64
    | 0x607 => v &&& 0xFE#64
    | 0x30C => v &&& 0xDC00000000000000#64
    | 0x60C => v &&& 0xDC00000000000000#64
    | 0x10C => 0
    | 0x7A0 => if v.toNat < 8 then v else old
    | 0x7C0 => v &&& 3#64
    | 0x7C1 => (old &&& 0x10000#64) ||| (v &&& 0xFFFF#64)
    | 0x5C0 => tsctlNext old v
    | 0x5C1 => v &&& 0x000FFFFFFFFFF000#64
    | _ => v

/-- A write of mol.tsidx: RD, unless the ring would hold more than its size (R456). -/
def Hart.writeTsidx (h : Hart) (v : DWord) : Hart :=
  let wr := h.csrFld cTsidx 31 0
  let rd := fld v 63 32
  if (wr + 2 ^ 32 - rd) % 2 ^ 32 ≤ 2 ^ h.csrFld cTsctl 8 4 then h.setCsrFld cTsidx 63 32 rd else h

/-- A CSR's storage written with its side effects: the views write their registers, FP and vector writes mark their state
dirty (log 6), and a translation root or DET change flushes the predictors (R98). -/
def Hart.writeCsr (h : Hart) (n : Nat) (v : DWord) : Hart :=
  let put (h : Hart) (k : Nat) (w : DWord) : Hart := h.setCsr k (csrNext k (h.csr k) w)
  let under (h : Hart) (k : Nat) (m w : DWord) : Hart := put h k ((h.csr k &&& ~~~ m) ||| (w &&& m))
  if n = 0x001 ∨ n = 0x002 then (put h n v).fsDirty
  else if n = 0x003 then (put (put h cFflags v) cFrm (v >>> 5)).fsDirty
  else if n = 0x008 ∨ n = 0x009 ∨ n = 0x00A then (put h n v).vsDirty
  else if n = 0x00F then (put (put h cVxsat v) cVxrm (v >>> 1)).vsDirty
  else if n = 0x100 then under h cMstatus sstatusWr v
  else if n = 0x104 then under h cMie (h.csr 0x303) v
  else if n = 0x144 then under h cMip (h.csr 0x303 &&& 0x2002#64) v
  else if n = 0x204 then under h cMie (h.csr 0x603) (v <<< 1)
  else if n = 0x244 then under h cMip (h.csr 0x603 &&& 0x4#64) (v <<< 1)
  else if n = 0x604 then under h cMie 0x1444#64 v
  else if n = 0x644 then under h cMip 0x4#64 v
  else if n = 0x645 then under h cMip 0x444#64 v
  else if n = 0xB00 ∨ n = 0xB02 then put h n v
  else if n = cTsidx then h.writeTsidx v
  else if n = cTsdrops ∨ n = 0x015 then h
  else if n = cTsbase then (if h.csrFld cTsctl 0 0 = 1 then h else put h n v)
  else if n = cSatp ∨ n = cVsatp ∨ n = cHgatp then (put h n v).flushPred
  else if n = 0x7A1 then h.setCsr (0x10000 + 4 * h.csrFld 0x7A0 2 0 + 1) (tdata1Next v)
  else if n = 0x7A2 then h.setCsr (0x10000 + 4 * h.csrFld 0x7A0 2 0 + 2) v
  else if n = 0x7A4 then h
  else if 0x3B0 ≤ n ∧ n ≤ 0x3EF then
    let cfg (i : Nat) : Nat := h.csrFld (0x3A0 + i / 8 * 2) (8 * (i % 8) + 7) (8 * (i % 8))
    let i := n - 0x3B0
    if cfg i / 128 = 1 ∨ (i < 63 ∧ cfg (i + 1) / 128 = 1 ∧ cfg (i + 1) / 8 % 4 = 1) then h
    else h.setCsr n (v &&& 0x0003FFFFFFFFFFFF#64)
  else if n = cBpctl then
    let h' := put h n v
    if h'.csrFld cBpctl 0 0 ≠ h.csrFld cBpctl 0 0 ∨ fld v 2 2 = 1 then h'.flushPred else h'
  else put h n v

/-- A read's side effect: mol.tsdrops clears (RC, R456); a claim of a top external interrupt does not happen on a read. -/
def Hart.readCsr (h : Hart) (n : Nat) : Hart := if n = cTsdrops then h.setCsr cTsdrops 0 else h

/-- CSRs whose writes are serialising (R96). -/
def serialCsr (n : Nat) : Bool := [0x180, 0x280, 0x680, 0x300, 0x100, 0x200, 0x7C0, 0x7C1].contains n

/-- The indirect interrupt-file registers of AIA (R81): EIDELIVERY 0x70, EITHRESHOLD 0x72, EIP 0x80-0xBF and EIE
0xC0-0xFF, 64 bits at each even number, of the file that a CSR pair names. -/
def Chip.indirect (c : Chip) (hid page sel : Nat) : DWord :=
  let f := Sparse.at c.imsic {} (16 * hid + page)
  if sel = 0x70 then BitVec.ofNat 64 f.delivery
  else if sel = 0x72 then BitVec.ofNat 64 f.thr
  else if 0x80 ≤ sel ∧ sel ≤ 0xBF ∧ sel % 2 = 0 then (f.pend >>> (32 * (sel - 0x80))).setWidth 64
  else if 0xC0 ≤ sel ∧ sel ≤ 0xFF ∧ sel % 2 = 0 then (f.enabled >>> (32 * (sel - 0xC0))).setWidth 64
  else 0

def Chip.setIndirect (c : Chip) (hid page sel : Nat) (v : DWord) : Chip :=
  let part (old : BitVec 2048) (i : Nat) : BitVec 2048 := setFld old (32 * i + 63) (32 * i) v.toNat &&& ~~~ 1#2048
  let g (f : ImsicFile) : ImsicFile :=
    if sel = 0x70 then { f with delivery := fld v 0 0 }
    else if sel = 0x72 then { f with thr := fld v 10 0 }
    else if 0x80 ≤ sel ∧ sel ≤ 0xBF ∧ sel % 2 = 0 then { f with pend := part f.pend (sel - 0x80) }
    else if 0xC0 ≤ sel ∧ sel ≤ 0xFF ∧ sel % 2 = 0 then { f with enabled := part f.enabled (sel - 0xC0) }
    else f
  { c with imsic := Sparse.upd c.imsic {} (16 * hid + page) g }

/-- The file page that an indirect or top-interrupt CSR names, if any: mireg, sireg, vsireg; mtopei, stopei, vstopei. -/
def Hart.filePage (h : Hart) (n : Nat) : Option Nat :=
  let vg := h.csrFld cHstatus 17 12
  if n = 0x351 ∨ n = 0x35C then some 0
  else if n = 0x151 ∨ n = 0x15C then some 1
  else if (n = 0x251 ∨ n = 0x25C) ∧ 1 ≤ vg ∧ vg ≤ 7 then some (vg + 1)
  else none

/-- A CSR instruction's access (Zicsr): read, then write when `write` holds, with the seed's free entropy (R81). -/
def Chip.csrOp (c : Chip) (hid n0 : Nat) (write : Bool) (f : DWord → DWord) : CsrRes × Chip :=
  let h := c.hart hid
  match h.csrAccess n0 write with
  | .illegal => (.illegal, c)
  | .virt => (.virt, c)
  | .ok _ =>
    let n := if h.virt then vsAlias n0 else n0
    if n = 0x015 then
      let (e, c) := c.draw
      (.ok (BitVec.ofNat 64 (2 ^ 31 + e.toNat % 65536)), c)
    else match h.filePage n with
      | some page =>
        let top := n % 256 = 0x5C
        let sel := (h.csr (n - 1)).toNat
        if top then
          let v := (Sparse.at c.imsic {} (16 * hid + page)).top
          let c := if write then { c with imsic := Sparse.upd c.imsic {} (16 * hid + page) fun x =>
            { x with pend := x.pend &&& ~~~ (BitVec.twoPow 2048 (fld v 26 16)) } } else c
          (.ok v, c)
        else
          let v := c.indirect hid page sel
          (.ok v, if write then c.setIndirect hid page sel (f v) else c)
      | none =>
        let v := c.csrValue hid n
        let c := c.modHart hid fun x => x.readCsr n
        (.ok v, if write then c.modHart hid fun x => x.writeCsr n (f v) else c)

end Sys2Proof.Machine
end

