-- ==== Sys2Proof/Machine/Translate.lean ====
section
/-! DEFINITION. Physical regions, PMP, TLB lookup and page walks (R42-R44, R81, R82, R96, R101-R103, R110, R125). The
formats of page tables, PMP and Svpbmt are those of the privileged ISA that R80 names (PRESUMED, log 6). -/

namespace Sys2Proof.Machine

/-- What a physical address is (R42-R44). -/
inductive Region where
  | memory | control | imsic | mmio | unmapped
deriving DecidableEq, Repr

def Chip.region (c : Chip) (pa : Nat) : Region :=
  if pa < 0x000F000000000000 then (if c.isMemory pa then .memory else .unmapped)
  else if pa < 0x000F000100000000 then .control
  else if pa < 0x000F000101000000 then
    (if (pa - 0x000F000100000000) / 0x10000 < c.nHarts ∧ pa / 0x1000 % 16 ≤ 8 then .imsic else .unmapped)
  else if 0x000F100000000000 ≤ pa ∧ pa < 2 ^ 52 then .mmio
  else .unmapped

/-- The privilege and virtualisation of a load or store: MPRV applies. -/
def Hart.effective (h : Hart) (acc : Access) : Priv × Bool :=
  if acc ≠ .fetch ∧ h.priv = .m ∧ h.csrFld cMstatus 17 17 = 1 then
    let mpp := h.csrFld cMstatus 12 11
    (if mpp = 3 then .m else if mpp = 1 then .s else .u, decide (mpp ≠ 3) && decide (h.csrFld cMstatus 39 39 = 1))
  else (h.priv, h.virt)

/-- pmpcfg byte i. -/
def Hart.pmpcfg (h : Hart) (i : Nat) : Nat := h.csrFld (0x3A0 + i / 8 * 2) (8 * (i % 8) + 7) (8 * (i % 8))

/-- Entry i matches an address, with a granularity of 4 KiB (R82). -/
def Hart.pmpMatch (h : Hart) (i pa : Nat) : Bool :=
  let cfg := h.pmpcfg i
  let a := (h.csr (0x3B0 + i)).toNat % 2 ^ 54
  match cfg / 8 % 4 with
  | 1 =>
    let lo := if i = 0 then 0 else (h.csr (0x3B0 + i - 1)).toNat % 2 ^ 54
    decide (lo / 1024 * 4096 ≤ pa) && decide (pa < a / 1024 * 4096)
  | 3 =>
    let ones := (List.range 54).takeWhile fun k => decide (k < 9) || decide (a / 2 ^ k % 2 = 1)
    let sz := 3 + ones.length
    decide (pa / 2 ^ sz = a * 4 / 2 ^ sz)
  | _ => false

/-- PMP permits an access of a privilege level: the lowest matching entry decides; without one only M-mode passes. -/
def Hart.pmpOk (h : Hart) (p : Priv) (acc : Access) (pa : Nat) : Bool :=
  match (List.range 64).find? fun i => h.pmpMatch i pa with
  | some i =>
    let cfg := h.pmpcfg i
    if p = .m ∧ cfg / 128 % 2 = 0 then true
    else match acc with
      | .load => cfg % 2 = 1
      | .store => cfg / 2 % 2 = 1
      | .fetch => cfg / 4 % 2 = 1
  | none => decide (p = .m)

/-- Result of a translation: an address and its memory type, a TLB miss, or an exception. -/
inductive Tr where
  | ok (pa : Nat) (mt : MemType)
  | miss
  | trap (cause : Nat) (tval : DWord) (gpa : Nat)
deriving DecidableEq, Repr

/-- Neither stage translates: physical addresses. -/
def Hart.bare (h : Hart) (p : Priv) (v : Bool) : Bool :=
  decide (p = .m) || (if v then decide (h.csrFld cVsatp 63 60 = 0) && decide (h.csrFld cHgatp 63 60 = 0) else decide (h.csrFld cSatp 63 60 = 0))

/-- ASID and VMID of the present address space (R125). -/
def Hart.asid (h : Hart) (v : Bool) : Nat := if v then h.csrFld cVsatp 59 44 else h.csrFld cSatp 59 44
def Hart.vmid (h : Hart) (v : Bool) : Nat := if v then h.csrFld cHgatp 57 44 else 0

/-! Pointer masking (Ssnpm and Supm of RVA23, R80; the privileged ISA, log 6): PMM of senvcfg for U-mode and VU-mode, of henvcfg
for VS-mode; PMLEN is 0 or 7, and MXR turns masking off. -/

def Hart.pmm (h : Hart) (p : Priv) (v : Bool) : Nat :=
  match p, v with
  | .u, _ => h.csrFld cSenvcfg 33 32
  | .s, true => h.csrFld cHenvcfg 33 32
  | _, _ => 0

/-- The address that an access of a mode uses: its top seven bits replaced by copies of bit 56, or by 0 where the first stage
does not translate. -/
def Hart.maskVa (h : Hart) (pmm : Nat) (v : Bool) (va : Nat) : Nat :=
  if pmm ≠ 2 ∨ h.csrFld cMstatus 19 19 = 1 ∨ (v ∧ h.csrFld cVsstatus 19 19 = 1) then va
  else if h.csrFld (if v then cVsatp else cSatp) 63 60 = 0 ∨ va / 2 ^ 56 % 2 = 0 then va % 2 ^ 57
  else va % 2 ^ 57 + (2 ^ 64 - 2 ^ 57)

/-- Address operand of a load or store (R80, log 6). -/
def Hart.addr (h : Hart) (rs1 : Nat) (imm : Int) : Nat :=
  let (p, v) := h.effective .load
  h.maskVa (h.pmm p v) v (h.getX rs1 + BitVec.ofInt 64 imm).toNat

/-! Triggers (Sdtrig, R81): eight of type 6 whose match raises a breakpoint exception (the debug specification, log 6). -/

/-- Storage number of tdata`k` of trigger t. -/
def trigCsr (t k : Nat) : Nat := 0x10000 + 4 * t + k

/-- A trigger's mode bits select the present mode, and its exception could be taken there. -/
def Hart.trigMode (h : Hart) (t : Nat) : Bool :=
  let on (b : Nat) : Bool := decide (h.csrFld (trigCsr t 1) b b = 1)
  match h.priv, h.virt with
  | .m, _ => on 6 && decide (h.csrFld cMstatus 3 3 = 1)
  | .s, false => on 4 && (decide (h.csrFld 0x302 3 3 = 0) || decide (h.csrFld cMstatus 1 1 = 1))
  | .u, false => on 3
  | .s, true => on 24 && (decide (h.csrFld 0x602 3 3 = 0) || decide (h.csrFld cVsstatus 1 1 = 1))
  | .u, true => on 23

/-- A trigger matches an access to an address: equal, in a NAPOT range, at or above, below. -/
def Hart.trigMatch (h : Hart) (t : Nat) (acc : Access) (va : Nat) : Bool :=
  let b := match acc with | .fetch => 2 | .store => 1 | .load => 0
  let a := (h.csr (trigCsr t 2)).toNat
  decide (h.csrFld (trigCsr t 1) b b = 1) && h.trigMode t && match h.csrFld (trigCsr t 1) 10 7 with
    | 0 => decide (va = a)
    | 1 =>
      let sz := 1 + ((List.range 63).takeWhile fun k => decide (a / 2 ^ k % 2 = 1)).length
      decide (va / 2 ^ sz = a / 2 ^ sz)
    | 2 => decide (a ≤ va)
    | _ => decide (va < a)

/-- Some trigger fires on an access. -/
def Hart.trigFires (h : Hart) (acc : Access) (va : Nat) : Bool := (List.range 8).any fun t => h.trigMatch t acc va

/-! The TLBs (R93, R125). -/

/-- The entries that an access looks up: its first-level TLB, then the L2 TLB. -/
def Hart.tlbs (h : Hart) (acc : Access) : List TlbEnt := (if acc = .fetch then h.itlb else h.dtlb) ++ h.tlb

/-- A TLB entry serves an access: its page, address space and permissions (SUM and MXR in mstatus or vsstatus); `exec` for
HLVX, which needs X. -/
def Hart.tlbServes (h : Hart) (e : TlbEnt) (p : Priv) (v : Bool) (acc : Access) (va : Nat) (exec : Bool := false) : Bool :=
  let st := if v then h.csr cVsstatus ||| (h.csr cMstatus &&& 0x80000#64) else h.csr cMstatus
  decide (e.vpn = va / 2 ^ e.size) && decide (e.virt = v) && (e.global || decide (e.asid = h.asid v)) && decide (e.vmid = h.vmid v)
    && (match acc with
      | .load => if exec then e.x && e.gx
          else (e.r || (e.x && decide (fld st 19 19 = 1))) && (e.gr || (e.gx && decide (h.csrFld cMstatus 19 19 = 1)))
      | .store => e.w && e.d
      | .fetch => e.x && e.gx)
    && (if p = .u then e.u else (!e.u || (decide (fld st 18 18 = 1) && decide (acc ≠ .fetch))))

/-- Translation of an access in a mode by the TLBs (R103, R125), then PMP and the region (R42-R44): the entry that serves it,
or a miss that a walk decides. Pages of type IO and NC keep their type (R102). A trigger fires first. -/
def Chip.translateIn (c : Chip) (hid va : Nat) (acc : Access) (p : Priv) (v exec : Bool) : Tr :=
  let h := c.hart hid
  let fin (pa : Nat) (mt : MemType) : Tr :=
    if pa < 2 ^ 52 ∧ h.pmpOk p (if exec then .fetch else acc) pa ∧ c.region pa ≠ .unmapped then .ok pa mt
    else .trap acc.accessFault (BitVec.ofNat 64 va) 0
  if acc ≠ .fetch ∧ h.trigFires acc va = true then .trap xBreak (BitVec.ofNat 64 va) 0
  else if h.bare p v then fin va .pma
  else match (h.tlbs acc).find? fun e => h.tlbServes e p v acc va exec with
    | some e => fin (e.pa + va % 2 ^ e.size) e.mt
    | none => .miss

/-- Translation of an access of the hart's own mode, or of the mode that MPRV gives it. -/
def Chip.translate (c : Chip) (hid va : Nat) (acc : Access) : Tr :=
  let (p, v) := (c.hart hid).effective acc
  c.translateIn hid va acc p v false

/-! Page walks (R103). -/

/-- What one stage of a walk finds. -/
inductive Walked where
  | leaf (pa size : Nat) (pte : DWord)
  | fault
  | access
  | poison (pa : Nat)
  /-- The second stage refuses a page-table entry of the first: its address there, and whether A or D was to be set. -/
  | guest (gpa : Nat) (write : Bool)
  /-- A wrong-path walk that finds A or D clear ends (R103). -/
  | quit
deriving DecidableEq, Repr

/-- The page-walk cache holds the entry at an address for a walk of a stage (R93, R125). -/
def Hart.pwcHas (h : Hart) (v gst : Bool) (pa va : Nat) (e : PwcEnt) : Bool :=
  decide (e.addr = pa) && decide (e.virt = v) && decide (e.gst = gst) && decide (e.vmid = h.vmid v)
    && (gst || decide (e.asid = h.asid v)) && decide (va / 2 ^ e.cover = e.va / 2 ^ e.cover)

/-- A page-table entry: from the page-walk cache where it holds it, else read by the hart, coherently, where PMP allows
an S-mode load (R93). -/
def Chip.readPte (c : Chip) (hid : Nat) (v gst : Bool) (pa va : Nat) : Option (DWord × Bool × Chip) :=
  let h := c.hart hid
  match h.pwc.find? (h.pwcHas v gst pa va) with
  | some e => some (e.pte, false, c)
  | none =>
    if !h.pmpOk .s .load pa then none
    else match c.devReadBytes pa 8 with
      | some (bs, p, c) => some (BitVec.ofNat 64 (leNat bs), p, c)
      | none => none

/-- A non-leaf entry kept in the page-walk cache of 64 entries (R93), with the addresses that it serves. -/
def Chip.fillPwc (c : Chip) (hid : Nat) (v gst : Bool) (pa va cover : Nat) (pte : DWord) : Chip :=
  c.modHart hid fun h =>
    let e : PwcEnt := { asid := h.asid v, vmid := h.vmid v, addr := pa, pte := pte, virt := v, gst := gst,
                        va := va / 2 ^ cover * 2 ^ cover, cover := cover }
    { h with pwc := (e :: h.pwc.filter fun x => !decide (x = e)).take 64 }

/-- Virtual address bits of a MODE beyond the page offset, in levels. -/
def levelsOf (mode : Nat) : Nat := if mode = 8 then 3 else if mode = 9 then 4 else 5

/-- What a walk looks like from outside: how it reads an entry for an address and may write one, its cache of non-leaf entries
with the address and the reach of each, and the translation of a table's address for a read or a write (the second stage under first-stage tables). -/
structure WalkBy where
  read  : Chip → Nat → Nat → Option (DWord × Bool × Chip)
  write : Chip → Nat → Bool
  keep  : Chip → Nat → Nat → Nat → DWord → Chip
  phys  : Chip → Nat → Bool → Walked × Chip

/-- A table's address that no further stage translates. -/
def samePhys (c : Chip) (a : Nat) (_ : Bool) : Walked × Chip := (.leaf (a / 4096 * 4096) 12 0xDF#64, c)

/-- A second-stage refusal of a table's address, as the walk of the first stage ends with it. -/
def Walked.under (w : Walked) (gpa : Nat) (write : Bool) : Walked :=
  match w with | .fault => .guest gpa write | w => w

/-- A one-stage walk from a root: `top` extra index bits for the G-stage root, `adue` whether the walker may set A and D,
`pb` whether Svpbmt applies, `leafOk` the permission check. -/
def Chip.walkStage (c : Chip) (by_ : WalkBy) (root levels top : Nat) (va : Nat) (store wrong adue pb : Bool)
    (leafOk : DWord → Bool) : Walked × Chip :=
  let rec go (c : Chip) (table : Nat) (lvl : Nat) : Walked × Chip :=
    let bits := 9 + (if lvl + 1 = levels then top else 0)
    let ix := va / 2 ^ (12 + 9 * lvl) % 2 ^ bits
    let at_ := table + 8 * ix
    match by_.phys c at_ false with
    | (.leaf tb ts _, c) =>
      let pa := tb + at_ % 2 ^ ts
      match by_.read c pa va with
      | none => (.access, c)
      | some (pte, pois, c) =>
        if pois then (.poison pa, c)
        else
          let r := pte.getLsbD 1
          let w := pte.getLsbD 2
          let x := pte.getLsbD 3
          let ppn := fld pte 53 10
          let n := pte.getLsbD 63
          let mt := fld pte 62 61
          if pte.getLsbD 0 = false ∨ (w ∧ r = false) ∨ fld pte 60 54 ≠ 0 ∨ mt = 3 ∨ (pb = false ∧ mt ≠ 0) then (.fault, c)
          else if r || x then
            let size := if n then 16 else 12 + 9 * lvl
            let napotOk := !n || (decide (lvl = 0) && decide (ppn % 16 = 8))
            let base := if n then ppn / 16 * 2 ^ 16 else ppn * 4096
            if !napotOk || decide (base % 2 ^ size ≠ 0) || !leafOk pte then (.fault, c)
            else if pte.getLsbD 6 = false ∨ (store ∧ pte.getLsbD 7 = false) then
              if wrong then (.quit, c)
              else if adue then
                let pte' := pte ||| (if store then 0xC0#64 else 0x40#64)
                match by_.phys c at_ true with
                | (.leaf _ _ _, c) =>
                  if by_.write c pa then (.leaf base size pte', c.devWriteBytes pa (leBytes pte'.toNat 8) false 0 fun _ => none)
                  else (.access, c)
                | (x, c) => (x.under at_ true, c)
              else (.fault, c)
            else (.leaf base size pte, c)
          else if fld pte 7 6 ≠ 0 ∨ pte.getLsbD 4 ∨ mt ≠ 0 ∨ n then (.fault, c)
          else match lvl with
            | 0 => (.fault, c)
            | l + 1 => go (by_.keep c pa va (12 + 9 * lvl) pte) (ppn * 4096) l
    | (x, c) => (x.under at_ false, c)
  go c root (levels - 1)

/-- A hart's walk of a stage: through its page-walk cache and PMP (R93). -/
def hartWalk (hid : Nat) (v gst : Bool) (phys : Chip → Nat → Bool → Walked × Chip) : WalkBy where
  read c a va := c.readPte hid v gst a va
  write c a := (c.hart hid).pmpOk .s .store a
  keep c a va cover p := c.fillPwc hid v gst a va cover p
  phys := phys

/-- The G-stage translation of a guest physical address: identity when hgatp is Bare. -/
def Chip.gStage (c : Chip) (hid gpa : Nat) (store wrong : Bool) (need : DWord → Bool) : Walked × Chip :=
  let h := c.hart hid
  let mode := h.csrFld cHgatp 63 60
  if mode = 0 then (.leaf 0 64 0xDF#64, c)
  else
    let levels := levelsOf mode
    if 2 ^ (12 + 9 * levels + 2) ≤ gpa then (.fault, c)
    else c.walkStage (hartWalk hid true true samePhys) (h.csrFld cHgatp 43 0 * 4096 / 16384 * 16384) levels 2 gpa store wrong
      (h.csrFld cMenvcfg 61 61 = 1) (h.csrFld cMenvcfg 62 62 = 1) fun pte => pte.getLsbD 4 && need pte

/-- Sign extension of a virtual address: the bits above the MODE's width equal its top bit. -/
def vaCanonical (va bits : Nat) : Bool := decide (va / 2 ^ (bits - 1) = 0) || decide (va / 2 ^ (bits - 1) = 2 ^ (65 - bits) - 1)

/-- Permission of a leaf PTE for an access, by U, SUM and MXR. -/
def pteOk (st : DWord) (p : Priv) (acc : Access) (pte : DWord) : Bool :=
  (match acc with
    | .load => pte.getLsbD 1 || (pte.getLsbD 3 && decide (fld st 19 19 = 1))
    | .store => pte.getLsbD 2
    | .fetch => pte.getLsbD 3)
  && (if p = .u then pte.getLsbD 4 else (!pte.getLsbD 4 || (decide (fld st 18 18 = 1) && decide (acc ≠ .fetch))))

/-- The memory type that PBMT names when Svpbmt is enabled (R102). -/
def pbmt (on : Bool) (pte : DWord) : MemType :=
  if !on then .pma else if fld pte 62 61 = 1 then .nc else if fld pte 62 61 = 2 then .io else .pma

/-- What a whole walk does: fill a TLB entry, take an exception, or end without a fill. -/
inductive WalkEnd where
  | fill (e : TlbEnt)
  | trap (cause : Nat) (gpa : Nat)
  /-- A guest-page fault on an entry of the guest's own tables, and whether A or D was to be set there. -/
  | implicit (cause : Nat) (gpa : Nat) (write : Bool)
  | hardware (pa : Nat)
  | quit
deriving DecidableEq, Repr

/-- The mode of an access that walks: the guest's for HLV and HSV. -/
def Hart.walkMode (h : Hart) (acc : Access) (guest : Option Priv) : Priv × Bool :=
  match guest with
  | some p => (p, true)
  | none => h.effective acc

/-- The walk of both stages for an access (R103). -/
def Chip.fullWalk (c : Chip) (hid va : Nat) (acc : Access) (wrong : Bool) (guest : Option Priv := none) (exec : Bool := false) :
    WalkEnd × Chip :=
  let h := c.hart hid
  let (p, v) := h.walkMode acc guest
  let store := decide (acc = .store)
  let st := if v then h.csr cVsstatus ||| (h.csr cMstatus &&& 0x80000#64) else h.csr cMstatus
  let root := if v then cVsatp else cSatp
  let mode := h.csrFld root 63 60
  let adue := if v then decide (h.csrFld cHenvcfg 61 61 = 1) else decide (h.csrFld cMenvcfg 61 61 = 1)
  let pbOn := decide (h.csrFld cMenvcfg 62 62 = 1) && (!v || decide (h.csrFld cHenvcfg 62 62 = 1))
  let pbG := decide (h.csrFld cMenvcfg 62 62 = 1)
  let phys (c : Chip) (a : Nat) (wr : Bool) : Walked × Chip :=
    if v then c.gStage hid a wr wrong fun pte => if wr then pte.getLsbD 2 else pte.getLsbD 1 else samePhys c a wr
  let first : Walked × Chip :=
    if mode = 0 then (.leaf 0 64 0xDF#64, c)
    else if !vaCanonical va (12 + 9 * levelsOf mode) then (.fault, c)
    else c.walkStage (hartWalk hid v false phys) (h.csrFld root 43 0 * 4096) (levelsOf mode) 0 va store wrong adue pbOn
      fun q => pteOk st p (if exec then .fetch else acc) q || (exec && pteOk st p .load q && q.getLsbD 3)
  match first with
  | (.fault, c) => (.trap acc.pageFault 0, c)
  | (.access, c) => (.trap acc.accessFault 0, c)
  | (.poison pa, c) => (.hardware pa, c)
  | (.quit, c) => (.quit, c)
  | (.guest gpa wr, c) => (.implicit acc.guestFault gpa wr, c)
  | (.leaf base size pte, c) =>
    let ent (pa sz : Nat) (gp : DWord) (w : Bool) (gs gpa : Nat) : TlbEnt :=
      { vsz := size, gsz := gs, gpa := gpa, asid := h.asid v, vmid := h.vmid v, virt := v, global := pte.getLsbD 5 && decide (mode ≠ 0), vpn := va / 2 ^ sz, size := sz, pa := pa,
        r := pte.getLsbD 1, w := pte.getLsbD 2 && w, x := pte.getLsbD 3,
        u := if mode = 0 then decide (p = .u) else pte.getLsbD 4, d := pte.getLsbD 7, mt := if fld pte 62 61 = 0 then pbmt pbG gp else pbmt pbOn pte,
        gr := gp.getLsbD 1, gx := gp.getLsbD 3 }
    if !v then (.fill (ent base size 0xDF#64 true 64 0), c)
    else
      let gpa := base + va % 2 ^ size
      let need (q : DWord) : Bool := match acc with
        | .load => if exec then q.getLsbD 3 else q.getLsbD 1 || (q.getLsbD 3 && decide (fld (h.csr cMstatus) 19 19 = 1))
        | .store => q.getLsbD 2
        | .fetch => q.getLsbD 3
      match c.gStage hid gpa store wrong need with
      | (.fault, c) => (.trap acc.guestFault gpa, c)
      | (.guest a wr, c) => (.implicit acc.guestFault a wr, c)
      | (.access, c) => (.trap acc.accessFault 0, c)
      | (.poison pa, c) => (.hardware pa, c)
      | (.quit, c) => (.quit, c)
      | (.leaf gb gs gp, c) =>
        let sz := min size gs
        let pa := gb + gpa % 2 ^ gs
        (.fill (ent (pa / 2 ^ sz * 2 ^ sz) sz gp (gp.getLsbD 2 && (store || gp.getLsbD 7)) gs gpa), c)

/-- An uncorrected record of poison consumption (R431): STRUCT 0x1A with the physical address. -/
def Chip.logPoison (c : Chip) (hid pa : Nat) : Chip :=
  match c.coreOfHart hid with
  | some k => c.logErr (uCore k) { cls := .uncorrected, struct := 0x1A, addr := pa, at_ := 1, owner := hid }
  | none => c

/-- A precise hardware-error exception (R431). -/
def Chip.hwError (c : Chip) (hid va pa : Nat) : Chip := (c.logPoison hid pa).raise hid xHardware (BitVec.ofNat 64 va)

/-- Two entries of one page in one address space. -/
def TlbEnt.same (x e : TlbEnt) : Bool :=
  decide (x.vpn * 2 ^ x.size = e.vpn * 2 ^ e.size) && decide (x.asid = e.asid) && decide (x.vmid = e.vmid) && decide (x.virt = e.virt)

/-- A set of the L2 TLB: 256 of 12 ways (R93); which set a page takes is the model's (log 81). -/
def TlbEnt.set (e : TlbEnt) : Nat := e.vpn % 256

/-- The L2 TLB with a new entry: the oldest of its set's 12 leaves. -/
def fillL2Tlb (l : List TlbEnt) (e : TlbEnt) : List TlbEnt :=
  let rest := l.filter fun x => !x.same e
  let keep := (rest.filter fun x => decide (x.set = e.set)).take 11
  e :: rest.filter fun x => decide (x.set ≠ e.set) || keep.contains x

/-- A TLB entry placed in the ITLB or DTLB of 64 and 96 entries, and in the L2 TLB of 3,072 (R93); the oldest leaves. -/
def Hart.fillTlb (h : Hart) (acc : Access) (e : TlbEnt) : Hart :=
  let rest (l : List TlbEnt) : List TlbEnt := l.filter fun x => !x.same e
  let h := { h with tlb := fillL2Tlb h.tlb e, walk := none }
  if acc = .fetch then { h with itlb := (e :: rest h.itlb).take 64 } else { h with dtlb := (e :: rest h.dtlb).take 96 }

/-- A walk that a hart waits for is performed (R103). -/
def Chip.doWalk (c : Chip) (hid : Nat) (w : Walk) : Chip :=
  let as (x : Nat) : Nat := if w.cbo then asStore x else x
  let gv := w.guest.isSome
  match c.fullWalk hid w.va w.acc w.wrong w.guest w.exec with
  | (.fill e, c) => c.modHart hid fun h => h.fillTlb w.acc e
  | (.quit, c) => c.modHart hid fun h => { h with walk := none }
  | (.trap cause gpa, c) =>
    if w.wrong then c.modHart hid fun h => { h with walk := none } else c.raise hid (as cause) (BitVec.ofNat 64 w.va) gpa 0 gv
  | (.implicit cause gpa wr, c) =>
    if w.wrong then c.modHart hid fun h => { h with walk := none }
    else c.raise hid (as cause) (BitVec.ofNat 64 w.va) gpa (if wr then 0x3020 else 0x3000) gv
  | (.hardware pa, c) =>
    if w.wrong then c.modHart hid fun h => { h with walk := none } else c.hwError hid w.va pa

/-- A TLB miss leaves a walk to be done, and the instruction does not complete (R103). -/
def Chip.missTlb (c : Chip) (hid va : Nat) (acc : Access) (wrong : Bool) (cbo : Bool := false) (guest : Option Priv := none)
    (exec : Bool := false) : Chip :=
  c.modHart hid fun h =>
    { (if acc = .fetch then h.event 0x402 2 else (h.event 0x401 0).event 0x402 1) with
      walk := some { va := va, acc := acc, wrong := wrong, cbo := cbo, guest := guest, exec := exec } }

end Sys2Proof.Machine
end

