-- ==== Sys2Proof/Machine/Iommu.lean ====
section
/-! DEFINITION. Identities of device accesses, the IOMMU and physical accesses of devices (R44, R365, R366, R383-R386,
R391, R392). The IOMMU's register page and memory structures are those of the RISC-V IOMMU architecture that R384 names
(PRESUMED, log 19). -/

namespace Sys2Proof.Machine

def Px.subAt (x : Px) (s : Nat) : Sub := Sparse.at x.subs {} s
def Px.modSub (x : Px) (s : Nat) (f : Sub → Sub) : Px := { x with subs := Sparse.upd x.subs {} s f }
def Chip.func (c : Chip) (iid : Nat) : Func := Sparse.at c.funcs {} iid
def Chip.modFunc (c : Chip) (iid : Nat) (f : Func → Func) : Chip := { c with funcs := Sparse.upd c.funcs {} iid f }
def Chip.inst (c : Chip) (iid : Nat) : Inst := Sparse.at c.insts {} iid
def Chip.modInst (c : Chip) (iid : Nat) (f : Inst → Inst) : Chip := { c with insts := Sparse.upd c.insts {} iid f }

/-- PX0 runs in the ENDPOINT role (R360, R387). -/
def Chip.endpoint (c : Chip) : Bool := decide (c.regFld (uPx 0) 0 0x1040 0 0 = 1)

/-! Outbound windows (R365, R366). -/

/-- The port whose slice holds an MMIO address (R365). -/
def mmioPort (pa : Nat) : Nat := (pa - 0x000F100000000000) / 0x00003C0000000000

def WinType.outbound : WinType → Bool
  | .outMem => true | .outCfg => true | _ => false

/-- The enabled outbound window of a port that matches an address. -/
def Chip.outWindow (c : Chip) (p pa : Nat) : Option Window :=
  ((c.px p).wins.find? fun e => e.2.en && e.2.type.outbound && decide (e.2.base ≤ pa) && decide (pa < e.2.limit)).map (·.2)

/-- Address after a window (R366). -/
def Window.map (w : Window) (a : Nat) : Nat := (a - w.base + w.xlat) % 2 ^ 64

/-! IMSIC and MSI delivery (R43, R383). -/

/-- An MSI at a physical address inside the package (R383): an interrupt file's seteipnum_le, DRAM, or dropped with no change of
state (R44). -/
def Chip.msiDeliver (c : Chip) (pa data : Nat) : Chip :=
  match c.region pa with
  | .imsic =>
    if pa % 4096 = 0 then c.imsicSet ((pa - 0x000F000100000000) / 0x10000) (pa / 4096 % 16) data
    else c
  | .memory => c.devWriteBytes pa (leBytes data 4) false 0 fun _ => none
  | _ => c

/-! IOMMU registers (RISC-V IOMMU, log 19). -/

def Iommu.reg (m : Iommu) (off : Nat) : Word := Sparse.at m.regs 0 off
def Chip.io32 (c : Chip) (off : Nat) : Word := c.iommu.reg off
def Chip.io64 (c : Chip) (off : Nat) : Nat := (c.io32 off).toNat + 2 ^ 32 * (c.io32 (off + 4)).toNat
def Chip.setIo32 (c : Chip) (off : Nat) (v : Word) : Chip :=
  { c with iommu := { c.iommu with regs := Sparse.put c.iommu.regs off v } }

/-- An IOMMU interrupt: pending bit and message of its vector's entry (fctl.WSI is 0: MSI generation, R384). -/
def Chip.iommuInt (c : Chip) (bitNo vecLo : Nat) : Chip :=
  if fld (c.io32 0x54) bitNo bitNo = 1 then c
  else
    let c := c.setIo32 0x54 (setFld (c.io32 0x54) bitNo bitNo 1)
    let v := fld (c.io32 0x2F8) (vecLo + 3) vecLo
    if fld (c.io32 (0x300 + 16 * v + 12)) 0 0 = 1 then c
    else c.msiDeliver (c.io64 (0x300 + 16 * v)) (c.io32 (0x300 + 16 * v + 8)).toNat

/-- The features that R384 lists, in the architecture's capabilities register: version 1.0, Sv39 to Sv57 of both stages,
MSI_FLAT, hardware A and D updates, MSI generation, the physical address width of R82, and PD8 to PD20. -/
def Chip.iommuReg (c : Chip) (off : Nat) : Word :=
  if off = 0 then 0x014E0E10 else if off = 4 then 0x1F4 else c.io32 off

/-- The fault queue's condition bits, and its interrupt where fqcsr.fie is 1. -/
def Chip.fqInt (c : Chip) : Chip := if fld (c.io32 0x4C) 1 1 = 1 then c.iommuInt 1 4 else c

/-- The command queue's interrupt where cqcsr.cie is 1. -/
def Chip.cqInt (c : Chip) : Chip := if fld (c.io32 0x48) 1 1 = 1 then c.iommuInt 0 0 else c

/-- An entry in the fault queue (R386): cause, requester, PASID, address and the guest physical address of a second-stage
fault; nothing more is recorded after an overflow or a memory fault of the queue. -/
def Chip.iommuFault (c : Chip) (cause dev : Nat) (pasid : Option Nat) (write : Bool) (iova : Nat) (iova2 : Nat := 0) : Chip :=
  if fld (c.io32 0x4C) 16 16 = 0 ∨ fld (c.io32 0x4C) 9 8 ≠ 0 then c
  else
    let size := 2 ^ (fld (c.io32 0x28) 4 0 + 1)
    let base := (c.io64 0x28) / 2 ^ 10 % 2 ^ 44 * 4096
    let t := (c.io32 0x34).toNat
    let at_ := base + 32 * (t % size)
    if (t + 1) % size = (c.io32 0x30).toNat % size then (c.setIo32 0x4C (setFld (c.io32 0x4C) 9 9 1)).fqInt
    else if c.region at_ ≠ .memory then (c.setIo32 0x4C (setFld (c.io32 0x4C) 8 8 1)).fqInt
    else
      let hdr := cause + (pasid.getD 0) * 2 ^ 12 + bit pasid.isSome * 2 ^ 32 + (if write then 3 else 2) * 2 ^ 34 + dev * 2 ^ 40
      let c := c.devWriteBytes at_ (leBytes hdr 8 ++ leBytes 0 8 ++ leBytes iova 8 ++ leBytes iova2 8) false 0 fun _ => none
      (c.setIo32 0x34 (BitVec.ofNat 32 ((t + 1) % size))).fqInt

/-- A structure of the IOMMU read from memory: 8-byte words; a poisoned line is reported by R423. -/
def Chip.ioRead (c : Chip) (pa n : Nat) : Option (List Nat × Bool × Chip) :=
  match c.devReadBytes pa (8 * n) with
  | some (bs, p, c) => some ((List.range n).map fun i => leNat ((bs.drop (8 * i)).take 8), p, c)
  | none => none

/-- MODE of a first or second stage that R384 supports. -/
def ioMode (m : Nat) : Bool := m = 0 || m = 8 || m = 9 || m = 10

/-- A device context without reserved bits and unsupported features (R384): ATS, PRI and T2GPA off, little-endian and
64-bit, a supported MODE of each structure. -/
def contextOk (ws : List Nat) : Bool :=
  let w (i : Nat) : Nat := ws.getD i 0
  let tc := w 0
  let pdtv := decide (tc / 32 % 2 = 1)
  let g := w 1 / 2 ^ 60
  let f := w 3 / 2 ^ 60
  decide (tc / 2 % 8 = 0) && decide (tc / 64 % 2 = 0) && decide (tc / 1024 % 2 ^ 14 = 0) && decide (tc / 2 ^ 32 = 0)
    && (pdtv || decide (tc / 512 % 2 = 0))
    && ioMode g && (decide (g = 0) || decide (w 1 % 4 = 0))
    && decide (w 2 % 4096 = 0) && decide (w 2 / 2 ^ 32 = 0)
    && (if pdtv then decide (f ≤ 3) else ioMode f) && decide (w 3 / 2 ^ 44 % 2 ^ 16 = 0)
    && decide (w 4 / 2 ^ 60 ≤ 1) && decide (w 4 / 2 ^ 44 % 2 ^ 16 = 0)
    && decide (w 5 / 2 ^ 52 = 0) && decide (w 6 / 2 ^ 52 = 0) && decide (w 7 = 0)

/-- A non-leaf entry of a directory: its reserved bits are 0. -/
def directoryOk (w : Nat) : Bool := decide (w / 2 % 512 = 0) && decide (w / 2 ^ 54 = 0)

/-- What a device directory walk finds: the extended device context's eight words, or a cause. A Device ID wider than the
directory's levels is refused. -/
def Chip.deviceContext (c : Chip) (dev : Nat) : Except Nat (List Nat) × Chip :=
  let mode := c.io64 0x10 % 16
  let ix (lvl : Nat) : Nat := match lvl with | 0 => dev % 64 | 1 => dev / 64 % 512 | _ => dev / 2 ^ 15 % 512
  let rec go (c : Chip) (table : Nat) (lvl : Nat) : Except Nat (List Nat) × Chip :=
    match lvl with
    | 0 =>
      match c.ioRead (table + 64 * ix 0) 8 with
      | some (ws, p, c) =>
        if p then (.error 268, c) else if ws.getD 0 0 % 2 = 0 then (.error 258, c)
        else if contextOk ws then (.ok ws, c) else (.error 259, c)
      | none => (.error 257, c)
    | l + 1 =>
      match c.ioRead (table + 8 * ix (l + 1)) 1 with
      | some (ws, p, c) =>
        let w := ws.getD 0 0
        if p then (.error 268, c) else if w % 2 = 0 then (.error 258, c)
        else if directoryOk w then go c (w / 2 ^ 10 % 2 ^ 44 * 4096) l else (.error 259, c)
      | none => (.error 257, c)
  if (mode = 2 ∧ 64 ≤ dev) ∨ (mode = 3 ∧ 2 ^ 15 ≤ dev) then (.error 260, c)
  else go c ((c.io64 0x10) / 2 ^ 10 % 2 ^ 44 * 4096) (mode - 2)

/-- The address of a process directory entry, or the cause that its second stage gives. -/
def Walked.entryAt (w : Walked) (a : Nat) : Except Nat Nat :=
  match w with
  | .leaf b s _ => .ok (b + a % 2 ^ s)
  | .access => .error 265
  | .poison _ => .error 274
  | _ => .error 21

/-- The first-stage root of a request: from the context, or from its process context; `none` for no first stage. -/
def Chip.firstStage (c : Chip) (dc : List Nat) (pasid : Option Nat) (phys : Chip → Nat → Bool → Walked × Chip) :
    Except Nat (Option (Nat × Nat)) × Chip :=
  let tc := dc.getD 0 0
  let fsc := dc.getD 3 0
  let root (x : Nat) : Option (Nat × Nat) := if x / 2 ^ 60 = 0 then none else some (x / 2 ^ 60, x % 2 ^ 44 * 4096)
  if tc / 32 % 2 = 0 then
    if pasid.isSome then (.error 260, c) else (.ok (root fsc), c)
  else
    let pid : Option Nat := match pasid with | some p => some p | none => if tc / 512 % 2 = 1 then some 0 else none
    match pid with
    | none => (.ok none, c)
    | some p =>
      let mode := fsc / 2 ^ 60
      if mode = 0 then (if pasid.isSome then (.error 260, c) else (.ok none, c))
      else
        let entry (c : Chip) (a n : Nat) : Except Nat (List Nat) × Chip :=
          let (x, c) := phys c a false
          match x.entryAt a with
          | .error k => (.error k, c)
          | .ok pa => match c.ioRead pa n with
            | some (ws, poi, c) => (if poi then .error 269 else if ws.getD 0 0 % 2 = 0 then .error 266 else .ok ws, c)
            | none => (.error 265, c)
        let rec go (c : Chip) (table : Nat) (lvl : Nat) : Except Nat (Option (Nat × Nat)) × Chip :=
          match lvl with
          | 0 =>
            match entry c (table + 16 * (p % 256)) 2 with
            | (.error k, c) => (.error k, c)
            | (.ok ws, c) =>
              let ta := ws.getD 0 0
              let f := ws.getD 1 0
              if ta / 8 % 512 = 0 ∧ ta / 2 ^ 32 = 0 ∧ ioMode (f / 2 ^ 60) ∧ f / 2 ^ 44 % 2 ^ 16 = 0 then (.ok (root f), c) else (.error 267, c)
          | l + 1 =>
            match entry c (table + 8 * (p / 2 ^ (8 + 9 * l) % 512)) 1 with
            | (.error k, c) => (.error k, c)
            | (.ok ws, c) =>
              let w := ws.getD 0 0
              if directoryOk w then go c (w / 2 ^ 10 % 2 ^ 44 * 4096) l else (.error 267, c)
        if 2 ^ (8 + 9 * (mode - 1)) ≤ p then (.error 260, c) else go c (fsc % 2 ^ 44 * 4096) (mode - 1)

/-- A walk of the IOMMU: no page-walk cache and no Svpbmt, entries read as memory (R384, R386). -/
def ioWalkBy (phys : Chip → Nat → Bool → Walked × Chip) : WalkBy where
  read c a _ := match c.ioRead a 1 with | some (ws, p, c) => some (BitVec.ofNat 64 (ws.getD 0 0), p, c) | none => none
  write c a := c.isMemory a
  keep c _ _ _ _ := c
  phys := phys

/-- A page walk of the IOMMU; `ad` lets it set A and D (SADE and GADE of the context, R384). -/
def Chip.ioWalk (c : Chip) (mode root top va : Nat) (write ad : Bool) (phys : Chip → Nat → Bool → Walked × Chip) : Walked × Chip :=
  c.walkStage (ioWalkBy phys) root (levelsOf mode) top va write false ad false fun pte =>
    (if write then pte.getLsbD 2 else pte.getLsbD 1) && pte.getLsbD 4

/-- The second stage of a device context: identity when iohgatp is Bare. -/
def Chip.ioSecond (c : Chip) (dc : List Nat) (gpa : Nat) (write : Bool) : Walked × Chip :=
  let g := dc.getD 1 0
  let mode := g / 2 ^ 60
  if mode = 0 then (.leaf (gpa / 4096 * 4096) 12 0xDF#64, c)
  else if 2 ^ (14 + 9 * levelsOf mode) ≤ gpa then (.fault, c)
  else c.ioWalk mode (g % 2 ^ 44 * 4096 / 16384 * 16384) 2 gpa write (dc.getD 0 0 / 128 % 2 = 1) samePhys

/-- The interrupt-file page that a context's flat MSI page table gives for an address, if it has one and the address is
one of its interrupt files: M = 3 is a basic translation; MRIF entries are not supported (R383, R384). -/
def Chip.msiTable (c : Chip) (dc : List Nat) (gpa : Nat) : Option (Except Nat Nat × Chip) :=
  let msiptp := dc.getD 4 0
  let mask := dc.getD 5 0 % 2 ^ 52
  let pat := dc.getD 6 0 % 2 ^ 52
  let page := gpa / 4096
  if msiptp / 2 ^ 60 ≠ 1 ∨ (page ||| mask) ≠ (pat ||| mask) then none
  else
    let index := ((List.range 52).foldl (fun (a : Nat × Nat) i =>
      if mask / 2 ^ i % 2 = 1 then (a.1 + page / 2 ^ i % 2 * 2 ^ a.2, a.2 + 1) else a) (0, 0)).1
    match c.ioRead (msiptp % 2 ^ 44 * 4096 + 16 * index) 2 with
    | some (ws, p, c) =>
      let w := ws.getD 0 0
      if p then some (.error 270, c)
      else if w % 2 = 0 then some (.error 262, c)
      else if w / 2 % 4 ≠ 3 ∨ w / 8 % 128 ≠ 0 ∨ w / 2 ^ 54 ≠ 0 then some (.error 263, c)
      else some (.ok (w / 2 ^ 10 % 2 ^ 44 * 4096 + gpa % 4096), c)
    | none => some (.error 261, c)

/-- An entry put into one agent's part of a cache, which holds `n` of them, the oldest leaving first (R386; the entry that leaves
is the model's choice, log 19). -/
def keepEntry {α : Type} (mine : α → Bool) (n : Nat) (e : α) (l : List α) : List α :=
  (l.filter fun x => !mine x) ++ (e :: l.filter mine).take n

/-- The device context of a requester: one of the 64 that its agent holds, or from the directory (R386). -/
def Chip.heldContext (c : Chip) (agent dev : Nat) : Except Nat (List Nat) × Chip :=
  match c.iommu.dcs.find? fun e => decide (e.agent = agent) && decide (e.dev = dev) with
  | some e => (.ok e.words, c)
  | none => match c.deviceContext dev with
    | (.ok ws, c) =>
      let e : DcEnt := { agent := agent, dev := dev, words := ws }
      (.ok ws, { c with iommu := { c.iommu with dcs := keepEntry (fun (x : DcEnt) => decide (x.agent = agent)) 64 e c.iommu.dcs } })
    | x => x

/-- The first stage of a request: from one of the 256 process contexts that its agent holds, or walked (R386). -/
def Chip.heldStage (c : Chip) (agent dev : Nat) (dc : List Nat) (pasid : Option Nat) (phys : Chip → Nat → Bool → Walked × Chip) :
    Except Nat (Option (Nat × Nat)) × Chip :=
  if dc.getD 0 0 / 32 % 2 = 0 then c.firstStage dc pasid phys
  else match c.iommu.pcs.find? fun e => decide (e.agent = agent) && decide (e.dev = dev) && decide (e.pasid = pasid) with
    | some e => (.ok e.root, c)
    | none => match c.firstStage dc pasid phys with
      | (.ok r, c) =>
        let e : PcEnt := { agent := agent, dev := dev, pasid := pasid, root := r }
        (.ok r, { c with iommu := { c.iommu with pcs := keepEntry (fun (x : PcEnt) => decide (x.agent = agent)) 256 e c.iommu.pcs } })
      | x => x

/-- Translation of a device's address (R386); none after a fault, which has its entry in the fault queue. Also true when
the address was an interrupt file of the context's MSI table (R383). -/
def Chip.ioTranslate (c : Chip) (agent dev : Nat) (pasid : Option Nat) (iova : Nat) (write : Bool) : Option Nat × Chip :=
  let mode := c.io64 0x10 % 16
  let fail (c : Chip) (cause : Nat) : Option Nat × Chip := (none, c.iommuFault cause dev pasid write iova)
  let poisoned (c : Chip) : Chip := c.logErr 0 { cls := .uncorrected, struct := 0x1D, addr := iova }
  if mode = 1 then (some iova, c)
  else if mode < 2 ∨ 4 < mode then fail c 256
  else match c.iommu.tlb.find? fun e => decide (e.agent = agent) && decide (e.dev = dev) && decide (e.pasid = pasid)
      && decide (e.vpn = iova / 2 ^ e.size) && (if write then e.w else e.r) with
    | some e => (some (e.pa + iova % 2 ^ e.size), c)
    | none =>
      match c.heldContext agent dev with
      | (.error k, c) => fail (if k = 268 then poisoned c else c) k
      | (.ok dc, c) =>
        let quiet := decide (dc.getD 0 0 / 16 % 2 = 1)
        let fail (c : Chip) (cause : Nat) (a : Nat := 0) : Option Nat × Chip :=
          (none, if quiet then c else c.iommuFault cause dev pasid write iova a)
        let stop (w : Walked) (c : Chip) (fault : Nat) (gpa : Nat) : Option Nat × Chip :=
          match w with
          | .access => fail c (if write then 7 else 5)
          | .poison _ => fail (poisoned c) 274
          | .guest a wr => fail c (if write then 23 else 21) (a / 4 * 4 + 1 + 2 * bit wr)
          | _ => fail c fault (gpa / 4 * 4)
        let phys (c : Chip) (a : Nat) (wr : Bool) : Walked × Chip := c.ioSecond dc a wr
        match c.heldStage agent dev dc pasid phys with
        | (.error k, c) => fail (if k = 269 ∨ k = 274 then poisoned c else c) k
        | (.ok fs, c) =>
          let first : Walked × Chip := match fs with
            | none => (.leaf (iova / 4096 * 4096) 12 0xDF#64, c)
            | some (m, root) =>
              if !vaCanonical iova (12 + 9 * levelsOf m) then (.fault, c)
              else c.ioWalk m root 0 iova write (dc.getD 0 0 / 256 % 2 = 1) phys
          match first with
          | (.leaf base size _, c) =>
            let gpa := base + iova % 2 ^ size
            match (if write then c.msiTable dc gpa else none) with
            | some (.ok pa, c) => (some pa, c)
            | some (.error k, c) => fail (if k = 270 then poisoned c else c) k
            | none =>
              match c.ioSecond dc gpa write with
              | (.leaf gb gs _, c) =>
                let sz := min size gs
                let pa := gb + gpa % 2 ^ gs
                let e : IoTlbEnt := { agent := agent, dev := dev, pasid := pasid, vpn := iova / 2 ^ sz, size := sz, pa := pa / 2 ^ sz * 2 ^ sz,
                                      r := !write, w := write }
                let n := if agent = 4 then 8192 else 2048
                (some pa, { c with iommu := { c.iommu with tlb := keepEntry (fun (x : IoTlbEnt) => decide (x.agent = agent)) n e c.iommu.tlb } })
              | (x, c) => stop x c (if write then 23 else 21) gpa
          | (x, c) => stop x c (if write then 15 else 13) 0

/-- The command queue worked off after a write of its tail (log 19): IOTINVAL empties the IOTLBs, IODIR.INVAL_DDT the held
contexts, IODIR.INVAL_PDT the held process contexts, and IOFENCE writes its word. -/
def Chip.ioCommands (c : Chip) : Chip :=
  let rec go (c : Chip) (fuel : Nat) : Chip :=
    match fuel with
    | 0 => c
    | fuel + 1 =>
      let size := 2 ^ (fld (c.io32 0x18) 4 0 + 1)
      let h := (c.io32 0x20).toNat % size
      if fld (c.io32 0x48) 16 16 = 0 ∨ fld (c.io32 0x48) 10 8 ≠ 0 ∨ h = (c.io32 0x24).toNat % size then c
      else
        match c.ioRead ((c.io64 0x18) / 2 ^ 10 % 2 ^ 44 * 4096 + 16 * h) 2 with
        | some (ws, false, c) =>
          let w := ws.getD 0 0
          let op := w % 128
          let f3 := w / 128 % 8
          let next (c : Chip) : Chip := c.setIo32 0x20 (BitVec.ofNat 32 ((h + 1) % size))
          if op = 1 then go (next { c with iommu := { c.iommu with tlb := [] } }) fuel
          else if op = 3 ∧ f3 ≤ 1 then
            go (next { c with iommu := { c.iommu with dcs := if f3 = 0 then [] else c.iommu.dcs, pcs := [] } }) fuel
          else if op = 2 ∧ f3 = 0 then
            let c := if w / 2 ^ 10 % 2 = 1 then
                c.devWriteBytes (ws.getD 1 0 % 2 ^ 62 * 4) (leBytes (w / 2 ^ 32) 4) false 0 fun _ => none else c
            let c := if w / 2 ^ 11 % 2 = 1 then (c.setIo32 0x48 (setFld (c.io32 0x48) 11 11 1)).cqInt else c
            go (next c) fuel
          else (c.setIo32 0x48 (setFld (c.io32 0x48) 10 10 1)).cqInt
        | some (_, true, c) => (c.setIo32 0x48 (setFld (c.io32 0x48) 8 8 1)).cqInt
        | none => (c.setIo32 0x48 (setFld (c.io32 0x48) 8 8 1)).cqInt
  go c 65536

/-- The word of the register page holds writable bits, which parity protects (R62, R384). -/
def ioRw (off : Nat) : Bool :=
  [0x10, 0x14, 0x18, 0x1C, 0x24, 0x28, 0x2C, 0x30, 0x48, 0x4C, 0x2F8].contains off
    || decide (0x300 ≤ off) && decide (off < 0x400) && decide (off % 4 = 0)

/-- A write of the IOMMU's register page (R384; the access codes of its architecture, log 19). -/
def Chip.iommuWrite (c : Chip) (off : Nat) (v : Word) : Chip :=
  let put (m : Word) : Chip := c.setIo32 off ((c.io32 off &&& ~~~ m) ||| (v &&& m))
  if off = 0x10 then
    let v := if 4 < fld v 3 0 then setFld v 3 0 (fld (c.io32 off) 3 0) else v
    ({ c with iommu := { c.iommu with tlb := [], dcs := [], pcs := [] } }).setIo32 off (v &&& 0xFFFFFC0F#32)
  else if off = 0x14 then put 0x3FFFFF
  else if off = 0x18 ∨ off = 0x28 then put 0xFFFFFC1F
  else if off = 0x1C ∨ off = 0x2C then put 0x3FFFFF
  else if off = 0x24 then (put 0xFFFFFFFF).ioCommands
  else if off = 0x30 then put 0xFFFFFFFF
  else if off = 0x48 then
    let start := decide (fld v 0 0 = 1 ∧ fld (c.io32 0x48) 16 16 = 0)
    let s := (c.io32 0x48 &&& ~~~ 3#32 &&& ~~~ (if start then 0xF00#32 else v &&& 0xF00#32)) ||| (v &&& 3#32)
    let c := if start then c.setIo32 0x20 0 else c
    (c.setIo32 0x48 (setFld s 16 16 (fld v 0 0))).ioCommands
  else if off = 0x4C then
    let start := decide (fld v 0 0 = 1 ∧ fld (c.io32 0x4C) 16 16 = 0)
    let s := (c.io32 0x4C &&& ~~~ 3#32 &&& ~~~ (if start then 0x300#32 else v &&& 0x300#32)) ||| (v &&& 3#32)
    let c := if start then c.setIo32 0x34 0 else c
    c.setIo32 0x4C (setFld s 16 16 (fld v 0 0))
  else if off = 0x54 then c.setIo32 0x54 (c.io32 0x54 &&& ~~~ v)
  else if off = 0x2F8 then put 0xFF
  else if 0x300 ≤ off ∧ off < 0x400 then
    (if off % 16 = 12 then put 1 else if off % 16 = 0 then put 0xFFFFFFFC else if off % 16 = 4 then put 0xFFFFFF else put 0xFFFFFFFF)
  else c

/-! Reads through a port (R71, R371-R374). -/

/-- A bit of PX_ERRSTAT set: 0 CTO, 1 UNEXP_CPL, 2 POISON_RX, 3 UR_SENT, 4 LINK_DOWN. -/
def Chip.pxErr (c : Chip) (p i : Nat) : Chip := c.orReg (uPx p) 0 0x1054 (BitVec.ofNat 32 (2 ^ i))

def Chip.modSub (c : Chip) (p s : Nat) (f : Sub → Sub) : Chip := c.modPx p fun x => x.modSub s f

def Chip.pxPut (c : Chip) (p : Nat) (t : TlpOut) : Chip := c.modPx p fun x => x.put t

/-- A TLP with EP = 1 noted (R371, R390). -/
def Chip.noteEp (c : Chip) (p s : Nat) (ep : Bool) : Chip :=
  if ep then (c.pxErr p 2).modSub p s fun x => { x with epRx := min (2 ^ 32 - 1) (x.epRx + 1) } else c

/-- An error that PX0 in the ENDPOINT role also logs in PF0's AER capability, by its status bit (R372, R373). -/
def Chip.aerLog (c : Chip) (p bitNo : Nat) : Chip :=
  if p = 0 ∧ c.endpoint = true then c.modPx 0 fun x => { x with aer := x.aer ||| BitVec.ofNat 32 (2 ^ bitNo) } else c

/-- The report of an expired request of a sub-link (R372, R373): CTO, an uncorrected-contained record, its count, AER, and its
tag in quarantine. -/
def Chip.reportCto (c : Chip) (p s tag : Nat) : Chip :=
  (((c.pxErr p 0).logErr (uPx p) { cls := .uncorrected, struct := 0x17 }).aerLog p 14).modPx p fun x =>
    { x.modSub s fun y => { y with cto := min (2 ^ 32 - 1) (y.cto + 1) } with quar := x.quar ++ [(s, tag)] }

/-- Result of a device read. -/
inductive DevRead where
  | ok (bytes : List Byte) (poison : Bool)
  /-- Refused: a translation fault, Unsupported Request or another access error (R44, R386). -/
  | fault
  /-- No completion came before the timer of the port ran out (R372). -/
  | timeout
deriving DecidableEq, Repr

/-- A memory read that an engine of the package sends through a port, with its tag (R372, R373). What the other side answers is
free: data, poisoned data, a refusal, or nothing until the timer runs out; over a link that is down the read is refused at
once (log 30). -/
def Chip.portRead (c : Chip) (p : Nat) (t : TlpOut) : DevRead × Chip :=
  let x := c.px p
  if !(x.subAt t.sub).up then (.fault, c)
  else
    let tag := (x.freeTag t.sub).getD 0
    let c := (c.pxPut p { t with tag := tag }).modSub p t.sub fun y => { y with nextTag := (tag + 1) % 16384 }
    let (k, c) := c.pick 4
    let bytes := (List.range t.len).map fun i => (Config.fresh (c.fresh + i)).setWidth 8
    match k with
    | 0 => (.ok bytes false, { c with fresh := c.fresh + t.len })
    | 1 => (.ok bytes true, { c with fresh := c.fresh + t.len }.noteEp p t.sub true)
    | 2 => (.fault, c)
    | _ => (.timeout, c.reportCto p t.sub tag)

/-! Physical accesses of devices. -/

/-- Bytes read by a device at a physical address: memory, or a device behind an OUT_MEM window (R44, R365, R366). -/
def Chip.busRead (c : Chip) (pa n : Nat) : DevRead × Chip :=
  match c.region pa with
  | .memory => match c.devReadBytes pa n with
    | some (bs, p, c) => (.ok bs p, c)
    | none => (.fault, c)
  | .mmio =>
    match c.outWindow (mmioPort pa) pa with
    | some w =>
      if w.type = .outMem then c.portRead (mmioPort pa) { sub := w.sub, kind := .memRead, addr := w.map pa, len := n }
      else (.fault, c)
    | none => (.fault, c)
  | _ => (.fault, c)

/-- Bytes written by a device at a physical address (R169, R366); none where refused. -/
def Chip.physWrite (c : Chip) (pa : Nat) (bs : List Byte) (poison : Bool) (clos : Nat) (tgt : Nat → Option Nat) : Option Chip :=
  match c.region pa with
  | .memory =>
    if c.isMemory (pa + bs.length - 1) then some (c.devWriteBytes pa bs poison clos tgt) else none
  | .mmio =>
    match c.outWindow (mmioPort pa) pa with
    | some w =>
      if w.type = .outMem then
        some (c.pxPut (mmioPort pa) { sub := w.sub, kind := .memWrite, addr := w.map pa, bytes := bs, ep := poison })
      else none
    | none => none
  | _ => none

/-! Identities (R391, R392). -/

/-- How an instance's accesses leave: through the internal IOMMU, or to the external host through PX0. -/
inductive Dma where
  | int (dev : Nat) (pasid : Option Nat)
  | host (rid : Nat)
deriving DecidableEq, Repr

/-- DMA identity of an instance (R391; a VF's Routing ID is its IID, DESIGN CHOICE, log 22). -/
def Chip.dmaOf (c : Chip) (iid : Nat) : Dma :=
  let rc := 4 * 2 ^ 16
  if iid = 0 then (if c.endpoint then .host 0 else .int rc none)
  else if iid = 1 then .int rc none
  else if iid < 0x1000 then (if c.endpoint then .host iid else .int (rc + iid) none)
  else .int rc (some (c.inst iid).pasid)

/-- `n` bytes read for an instance from an IOVA, page by page (R73 step 4, R386), or from an external host's memory (R392). -/
def Chip.instRead (c : Chip) (iid iova n : Nat) : DevRead × Chip :=
  match c.dmaOf iid with
  | .host rid => c.portRead 0 { sub := 0, kind := .memRead, addr := iova, len := n, rid := rid }
  | .int dev pasid =>
    let rec go (c : Chip) (a left fuel : Nat) (acc : List Byte) (p : Bool) : DevRead × Chip :=
      match fuel with
      | 0 => (.ok acc p, c)
      | fuel + 1 =>
        if left = 0 then (.ok acc p, c)
        else
          let k := min left (4096 - a % 4096)
          match c.ioTranslate 4 dev pasid a false with
          | (none, c) => (.fault, c)
          | (some pa, c) => match c.busRead pa k with
            | (.ok bs q, c) => go c (a + k) (left - k) fuel (acc ++ bs) (p || q)
            | (e, c) => (e, c)
    go c iova n (n / 4096 + 2) [] false

/-- Dirty tracking of a write (R412): the page's bit in the bitmap, or DIRTY_OVF outside the range. The bitmap lies in
PF0's context. -/
def Chip.markDirty (c : Chip) (iid iova : Nat) : Chip :=
  match (c.inst iid).dirty with
  | none => c
  | some d =>
    if d.base ≤ iova ∧ iova < d.base + 4096 * d.pages then
      let p := (iova - d.base) / 4096
      match c.dmaOf 0 with
      | .int dev pasid =>
        match c.ioTranslate 4 dev pasid (d.buf + p / 8) true with
        | (some pa, c) => match c.busRead pa 1 with
          | (.ok bs _, c) => (c.physWrite pa [(bs.getD 0 0) ||| BitVec.ofNat 8 (2 ^ (p % 8))] false 0 fun _ => none).getD c
          | (_, c) => c
        | (none, c) => c
      | .host rid =>
        match c.portRead 0 { sub := 0, kind := .memRead, addr := d.buf + p / 8, len := 1, rid := rid } with
        | (.ok bs _, c) => c.pxPut 0 { sub := 0, kind := .memWrite, addr := d.buf + p / 8, rid := rid, bytes := [(bs.getD 0 0) ||| BitVec.ofNat 8 (2 ^ (p % 8))] }
        | (_, c) => c
    else c.setRegFld uIm iid 0x1048 4 4 1

/-- Bytes written for an instance to an IOVA (R169, R386, R412); false when some page faults, with the pages before it
written. -/
def Chip.instWrite (c : Chip) (iid iova : Nat) (bs : List Byte) (poison : Bool := false) (clos : Nat := 0)
    (tgt : Nat → Option Nat := fun _ => none) : Bool × Chip :=
  match c.dmaOf iid with
  | .host rid =>
    (true, (c.pxPut 0 { sub := 0, kind := .memWrite, addr := iova, bytes := bs, rid := rid, ep := poison }).markDirty iid iova)
  | .int dev pasid =>
    let rec go (c : Chip) (a : Nat) (bs : List Byte) (fuel : Nat) : Bool × Chip :=
      match fuel with
      | 0 => (true, c)
      | fuel + 1 =>
        if bs.isEmpty then (true, c)
        else
          let k := min bs.length (4096 - a % 4096)
          match c.ioTranslate 4 dev pasid a true with
          | (none, c) => (false, c)
          | (some pa, c) => match c.physWrite pa (bs.take k) poison clos tgt with
            | none => (false, c)
            | some c => go (c.markDirty iid a) (a + k) (bs.drop k) fuel
    go c iova bs (bs.length / 4096 + 2)

/-- An address of a descriptor translates, is permitted, and lies in memory or an MMIO window outside the spill area
(R73 step 4); nothing is checked for an instance of an external host. -/
def Chip.addrOk (c : Chip) (iid iova : Nat) (write : Bool) : Bool × Chip :=
  match c.dmaOf iid with
  | .host _ => (true, c)
  | .int dev pasid =>
    match c.ioTranslate 4 dev pasid iova write with
    | (none, c) => (false, c)
    | (some pa, c) =>
      match c.region pa with
      | .memory => (true, c)
      | .mmio => ((c.outWindow (mmioPort pa) pa).isSome, c)
      | _ => (false, c)

end Sys2Proof.Machine
end

