-- ==== Sys2Proof/Machine/Rings.lean ====
section
/-! DEFINITION. Rings, doorbells, descriptors, completion records and MSI-X events (R70-R79, R275, R279, R285-R287,
R308-R314, R348, R382, R393, R397, R404-R407). -/

namespace Sys2Proof.Machine

def Chip.ring (c : Chip) (r : RingId) : Ring := Sparse.at c.rings {} (ringKey r)
def Chip.modRing (c : Chip) (r : RingId) (f : Ring → Ring) : Chip := { c with rings := Sparse.upd c.rings {} (ringKey r) f }
def Chip.drover (c : Chip) (d : Nat) : Drover := Sparse.at c.drovers {} d
def Chip.modDrover (c : Chip) (d : Nat) (f : Drover → Drover) : Chip := { c with drovers := Sparse.upd c.drovers {} d f }
def Chip.dvCore (c : Chip) (d k : Nat) : DvCore := Sparse.at (c.drover d).cores {} k
def Chip.modDvCore (c : Chip) (d k : Nat) (f : DvCore → DvCore) : Chip :=
  c.modDrover d fun x => { x with cores := Sparse.upd x.cores {} k f }
def Chip.engine (c : Chip) (e : Nat) : Engine := Sparse.at c.engines {} e
def Chip.modEngine (c : Chip) (e : Nat) (f : Engine → Engine) : Chip := { c with engines := Sparse.upd c.engines {} e f }
def Chip.eth (c : Chip) (p : Nat) : EthPort := Sparse.at c.eths {} p
def Chip.modEth (c : Chip) (p : Nat) (f : EthPort → EthPort) : Chip := { c with eths := Sparse.upd c.eths {} p f }
def Chip.mac (c : Chip) (p m : Nat) : EthMac := Sparse.at (c.eth p).macs {} m
def Chip.modMac (c : Chip) (p m : Nat) (f : EthMac → EthMac) : Chip :=
  c.modEth p fun x => { x with macs := Sparse.upd x.macs {} m f }

/-- The link of a MAC is up (R298: ETH_LINK.UP). -/
def Chip.macUp (c : Chip) (p m : Nat) : Bool := (c.reg (uEth p) 0 0x1048).getLsbD m

/-- The unit is powered and in service (R37). -/
def Chip.unitRuns (c : Chip) (u : Nat) : Bool := decide ((c.unit u).cur = 0)

/-! Where a ring's registers lie. -/

/-- Block and bank of a ring's registers, their offsets, and the places of LOG2, CLOG2 and the vector (R302, R331, R351,
R415). The admin ring of an instance is held in the instance-management block; FT_ADMIN_ registers are the view of it
that the accessing function has (R395; DEDUCED, log 24). -/
structure RingRegs where
  unit  : Nat
  bank  : Nat
  ctl   : Nat
  log   : Nat × Nat
  clog  : Nat × Nat
  base  : Nat
  cbase : Nat
  vec   : Nat
  vlo   : Nat
deriving DecidableEq, Repr

def ringRegs : RingId → RingRegs
  | .rx q => { unit := uFlow, bank := q, ctl := 0x1098, log := (8, 4), clog := (13, 9), base := 0x10A0, cbase := 0x10A8, vec := 0x10B4, vlo := 0 }
  | .tx q => { unit := uFlow, bank := 8192 + q, ctl := 0x1098, log := (8, 4), clog := (13, 9), base := 0x10A0, cbase := 0x10A8, vec := 0x10B4, vlo := 0 }
  | .sh e r => { unit := uShears e, bank := r, ctl := 0x1054, log := (4, 0), clog := (12, 8), base := 0x105C, cbase := 0x1064, vec := 0x106C, vlo := 0 }
  | .dv d r => { unit := uDrover d, bank := r, ctl := 0x1060, log := (4, 0), clog := (12, 8), base := 0x1068, cbase := 0x1070, vec := 0x1078, vlo := 0 }
  | .adm i => { unit := uIm, bank := i, ctl := 0x1088, log := (4, 0), clog := (12, 8), base := 0x108C, cbase := 0x1094, vec := 0x1088, vlo := 16 }

/-- The block whose state governs a ring. -/
def ringUnit : RingId → Nat
  | .adm _ => uFlow
  | r => (ringRegs r).unit

/-- A block whose registers a ring uses is Held (R63, R64): its own, the instance-management block for an admin ring, and its port
for a transmit queue. -/
def Chip.ringHeld (c : Chip) (r : RingId) : Bool :=
  c.held (ringUnit r) ||
    match r with
    | .adm _ => c.held uIm
    | .tx q => c.held (uEth (c.regFld uFlow (8192 + q) 0x1098 0 0))
    | _ => false

/-- A register that places or signals the ring's records is faulted: its value is not used, and records wait (R63, R64; log 90). -/
def Chip.recordFaulted (c : Chip) (r : RingId) : Bool :=
  let g := ringRegs r
  [g.ctl, g.cbase, g.cbase + 4, g.vec].any fun o => c.faulty g.unit g.bank o

/-- Descriptors that a ring holds, 2^n (R70). -/
def Chip.ringSize (c : Chip) (r : RingId) : Nat :=
  let g := ringRegs r
  2 ^ c.regFld g.unit g.bank g.ctl g.log.1 g.log.2

/-- Records that its completion ring holds, 2^m (R77). -/
def Chip.cringSize (c : Chip) (r : RingId) : Nat :=
  let g := ringRegs r
  2 ^ c.regFld g.unit g.bank g.ctl g.clog.1 g.clog.2

def Chip.ringBase (c : Chip) (r : RingId) : Nat :=
  let g := ringRegs r
  (c.reg g.unit g.bank g.base).toNat + 2 ^ 32 * (c.reg g.unit g.bank (g.base + 4)).toNat

def Chip.cringBase (c : Chip) (r : RingId) : Nat :=
  let g := ringRegs r
  (c.reg g.unit g.bank g.cbase).toNat + 2 ^ 32 * (c.reg g.unit g.bank (g.cbase + 4)).toNat

def Chip.ringVector (c : Chip) (r : RingId) : Nat :=
  let g := ringRegs r
  c.regFld g.unit g.bank g.vec (g.vlo + 10) g.vlo

/-! Owners (R393, R394). -/

/-- KIND and global number of a ring (R393); none for an admin ring. -/
def ringKind : RingId → Option (Nat × Nat)
  | .rx q => some (0, q)
  | .tx q => some (1, q)
  | .sh e r => some (2 + e, r)
  | .dv d r => some (4 + d, r)
  | .adm _ => none

/-- The range of a KIND that an instance holds: base and count. -/
def Inst.range (x : Inst) (kind : Nat) : Nat × Nat := Sparse.at x.ranges (0, 0) kind

def Inst.holds (x : Inst) (kind n : Nat) : Bool :=
  let r := x.range kind
  decide (x.st ≠ .absent) && decide (r.1 ≤ n) && decide (n < r.1 + r.2)

/-- The instance that holds a resource: PF0 when no other does (R394). -/
def Chip.ownerOf (c : Chip) (kind n : Nat) : Nat :=
  match c.insts.find? fun e => decide (e.1 ≠ 0) && e.2.holds kind n with
  | some e => e.1
  | none => 0

def Chip.ringOwner (c : Chip) (r : RingId) : Nat :=
  match r with
  | .adm i => i
  | _ => match ringKind r with
    | some (k, n) => c.ownerOf k n
    | none => 0

/-- The parent of an instance (R392). -/
def Chip.parentInst (c : Chip) (iid : Nat) : Nat := if 0x1000 ≤ iid ∧ c.endpoint then 1 else 0

/-! MSI-X (R382, R383, R405). -/

/-- The function whose table an instance's vectors use (R393). -/
def Chip.vecFunc (c : Chip) (iid : Nat) : Nat := if 0x1000 ≤ iid then c.parentInst iid else iid

/-- A message built from the entry as it reads now (R382): through the MSI page table inside the package, or upstream
through PX0 (R383). -/
def Chip.msixSend (c : Chip) (f v : Nat) : Chip :=
  let e := Sparse.at (c.func f).table {} v
  match c.dmaOf f with
  | .host rid => c.pxPut 0 { sub := 0, kind := .memWrite, addr := e.addr.toNat, bytes := leBytes e.data.toNat 4, rid := rid }
  | .int dev _ =>
    match c.ioTranslate 4 dev none e.addr.toNat true with
    | (some pa, c) => c.msiDeliver pa e.data.toNat
    | (none, c) => c

/-- An event on vector v of a function (R382); the events of a stopped instance set PBA bits (R405). -/
def Chip.msixFunc (c : Chip) (f v : Nat) (stopped : Bool) : Chip :=
  let x := c.func f
  if x.msixEn && !x.fmask && !(Sparse.at x.table {} v).mask && !stopped then c.msixSend f v
  else c.modFunc f fun x => { x with pba := NatSet.insert x.pba v }

/-- An event on vector v of an instance's function. -/
def Chip.msixEvent (c : Chip) (iid v : Nat) : Chip :=
  c.msixFunc (c.vecFunc iid) v (decide ((c.inst iid).st = .stopped))

/-- Masks of a vector cleared: a pending event sends one message and its bit clears (R382). -/
def Chip.msixFlush (c : Chip) (f v : Nat) : Chip :=
  let x := c.func f
  if x.msixEn && !x.fmask && !(Sparse.at x.table {} v).mask && x.pba.contains v && !decide ((c.inst f).st = .stopped) then
    (c.modFunc f fun x => { x with pba := NatSet.erase x.pba v }).msixSend f v
  else c

/-- The configuration write that clears the masks of vector v of a function: MSI-X Enable 1, Function Mask 0, the entry's
mask 0 (R382; the row stands for that write, DESIGN CHOICE, log 25). -/
def Chip.msixUnmask (c : Chip) (f v : Nat) : Chip :=
  (c.modFunc f fun x =>
    { x with msixEn := true, fmask := false, table := Sparse.upd x.table {} v fun e => { e with mask := false } }).msixFlush f v

/-! Doorbells (R75-R77). -/

/-- PI of a doorbell whose halves are complements (R75). -/
def doorbellIndex (data : DWord) : Option Nat :=
  if fld data 63 32 = 2 ^ 32 - 1 - fld data 31 0 then some (fld data 31 0) else none

def sub32 (a b : Nat) : Nat := (a + 2 ^ 32 - b) % 2 ^ 32

/-- The doorbells of a ring are taken: it is enabled and its instance is in service, frozen or stopped (R75, R400, R404). -/
def Chip.ringHears (c : Chip) (r : RingId) : Bool :=
  (c.ring r).en && (match (c.inst (c.ringOwner r)).st with | .absent => false | .resetting => false | _ => true)

/-- A doorbell of one 64-bit write at a ring's address (R75); `drop` counts it. -/
def Chip.ringDoorbell (c : Chip) (r : RingId) (data : DWord) (drop : Chip → Chip) : Chip :=
  match doorbellIndex data with
  | none => drop c
  | some pi =>
    let x := c.ring r
    if !c.ringHears r then drop c
    else if pi = x.acc then c
    else if c.ringSize r < sub32 pi x.acc ∨ c.ringSize r < sub32 pi x.ci then drop c
    else c.modRing r fun x => { x with acc := pi }

/-- A head doorbell of a completion ring (R77); it is heard until QUIESCED sets (R407). -/
def Chip.headDoorbell (c : Chip) (r : RingId) (data : DWord) (drop : Chip → Chip) : Chip :=
  match doorbellIndex data with
  | none => drop c
  | some pi =>
    let x := c.ring r
    let heard := match (c.inst (c.ringOwner r)).st with | .absent => false | .resetting => false | _ => x.en || !x.quiesced
    if !heard then drop c
    else if pi = x.head then c
    else if sub32 pi x.head ≤ sub32 x.wi x.head then c.modRing r fun x => { x with head := pi }
    else drop c

/-- The completion ring has no free slot (R78). -/
def Chip.cringFull (c : Chip) (r : RingId) : Bool := decide (c.cringSize r ≤ sub32 (c.ring r).wi (c.ring r).head)

/-- What a doorbell offset names: a ring, and whether it is the head doorbell (R304, R333, R353, R397). -/
def regionRing (u off : Nat) (adm : Nat) : Option (RingId × Bool) :=
  let w := off / 8
  let hd := decide (w % 2 = 1)
  match kindOf u with
  | .flowTable =>
    if off < 0x20000 then some (.rx (w / 2), hd)
    else if off < 0x40000 then some (.tx (w / 2 - 8192), hd)
    else if off < 0x40010 then some (.adm adm, hd) else none
  | .shears => if w / 2 < 256 then some (.sh (u - 23) (w / 2), hd) else none
  | .droverCluster => if w / 2 < 64 then some (.dv (u - 25) (w / 2), hd) else none
  | _ => none

/-- Ring kinds in slot order, with their KINDs (R397). -/
def slotRing (kind n : Nat) : RingId :=
  match kind with
  | 0 => .rx n | 1 => .tx n | 2 => .sh 0 n | 3 => .sh 1 n | 4 => .dv 0 n | _ => .dv 1 n

/-- The ring in a slot of an instance's doorbell page (R397). -/
def Inst.slot (x : Inst) (iid k : Nat) : Option RingId :=
  if k = 255 then (if 0 < x.quota then some (.adm iid) else none)
  else
    let rec go (kinds : List Nat) (k : Nat) : Option RingId :=
      match kinds with
      | [] => none
      | kd :: t => if k < (x.range kd).2 then some (slotRing kd ((x.range kd).1 + k)) else go t (k - (x.range kd).2)
    go [0, 1, 2, 3, 4, 5] k

/-- Ring slots that an instance holds, the admin ring excluded (R415). -/
def Inst.slots (x : Inst) : Nat := ([0, 1, 2, 3, 4, 5].map fun k => (x.range k).2).sum

/-- PF1 reaches its own resources and those of the queue sets (R392); every other source reaches all of a region. -/
def Chip.reaches (c : Chip) (src : Src) (owner : Nat) : Bool :=
  match src with
  | .pf1 => decide (owner = 1) || (decide (0x1000 ≤ owner) && c.endpoint)
  | _ => true

/-- Control-space offset of a block offset: the block's place is free (R31, log 10). -/
def ctlOffset (u off : Nat) : Word := BitVec.ofNat 32 (blockBase u + off)

/-- Block offset of a block's doorbell region, and its size (R304, R333, R353). -/
def Chip.dbBase (c : Chip) (u : Nat) : Nat := (c.reg u 0 0x1044).toNat
def dbSize (u : Nat) : Nat :=
  match kindOf u with
  | .flowTable => 0x80000 | .shears => 0x10000 | .droverCluster => 0x1000 | _ => 0

/-- A write in a block's doorbell region (R75, R77, R304, R333, R353, R395). -/
def Chip.regionWrite (c : Chip) (src : Src) (u off width : Nat) (data : DWord) : Chip :=
  match regionRing u off (if src = .pf1 then 1 else 0) with
  | none => (c.dropDoorbell u).recordErr u errBadOffset (ctlOffset u (c.dbBase u + off))
  | some (r, hd) =>
    if width ≠ 8 ∨ off % 8 ≠ 0 then (c.dropDoorbell u).recordErr u errBadWidth (ctlOffset u (c.dbBase u + off))
    else if !c.reaches src (c.ringOwner r) then c.dropDoorbell u
    else if hd then c.headDoorbell r data (·.dropDoorbell u)
    else c.ringDoorbell r data (·.dropDoorbell u)

/-- A write in an instance's doorbell page (R397, R398): one that names no slot of the instance is counted in its IM_DB_DROPS; a
doorbell is handled, and counted, as R75 and R77 say of its ring's block. -/
def Chip.pageWrite (c : Chip) (iid off width : Nat) (data : DWord) : Chip :=
  match (if (c.inst iid).st = .absent ∨ 4096 ≤ off then none else (c.inst iid).slot iid (off / 16)) with
  | none => c.countReg uIm iid 0x10A0
  | some r =>
    let u := ringUnit r
    if width ≠ 8 ∨ off % 8 ≠ 0 then (c.dropDoorbell u).recordErr u errBadWidth (BitVec.ofNat 32 off)
    else if off % 16 = 8 then c.headDoorbell r data (·.dropDoorbell u)
    else c.ringDoorbell r data (·.dropDoorbell u)

/-- A write at a doorbell address (R75). -/
def Chip.doorbellWrite (c : Chip) (src : Src) (a : DbAddr) (width : Nat) (data : DWord) : Chip :=
  match a with
  | .region u off => if c.present u then c.regionWrite src u off width data else c.recordErr 0 errNotPresent (ctlOffset u (c.dbBase u + off))
  | .page iid off => c.pageWrite iid off width data

/-! Descriptor checks (R72, R73). -/

def bsNat (bs : List Byte) (off n : Nat) : Nat := leNat ((bs.drop off).take n)
def Desc.fld (d : Desc) (off n : Nat) : Nat := bsNat d.bytes off n
def Desc.opcode (d : Desc) : Nat := d.fld 0 1
/-- BFLAGS bit i, 11 to 15. -/
def Desc.bflag (d : Desc) (i : Nat) : Bool := decide (d.fld 0 2 / 2 ^ i % 2 = 1)
def Desc.fence (d : Desc) : Bool := d.bflag 10
def Desc.length (d : Desc) : Nat := d.fld 2 2

/-- Opcodes that a ring accepts (R275, R279, R285, R308, R348). -/
def opDefined (r : RingId) (op : Nat) : Bool :=
  match r with
  | .rx _ => op = 0 ∨ op = 0x20
  | .tx _ => op = 0 ∨ op = 0x10 ∨ op = 0x11 ∨ op = 0x12
  | .sh _ _ => op ≤ 4 ∨ op = 0x10 ∨ op = 0x11
  | .dv _ _ => op = 0 ∨ 0x80 ≤ op
  | .adm _ => op ≤ 3

/-- Slots that a descriptor takes (R286, R309). A TX_INLINE whose LENGTH is out of range takes one (DEDUCED, log 26). -/
def descSlots (r : RingId) (op len : Nat) : Nat :=
  match r with
  | .tx _ => if op = 0x12 ∧ 24 < len ∧ len ≤ 248 then 1 + (len - 24 + 31) / 32 else 1
  | .sh _ _ => if op = 0x10 ∨ op = 0x11 then 2 else 1
  | _ => 1

def zeroFrom (bs : List Byte) (off n : Nat) : Bool := decide (bsNat bs off n = 0)

/-- The first failing check of a list: its status. -/
def firstBad (l : List (Bool × Nat)) : Option Nat := ((l.find? fun e => !e.1).map (·.2))

def stBadField : Nat := 0x0B
def stBadLength : Nat := 0x0C

/-- Fields of an admin descriptor (R275). -/
def admFields (d : Desc) : Option Nat :=
  let common := [(decide (d.fld 1 1 / 8 = 0), stBadField), (decide (d.length = 0), stBadLength)]
  match d.opcode with
  | 0 => firstBad common
  | 3 => firstBad (common ++ [
      (decide (d.fld 8 1 < 16), stBadField), (decide (d.fld 9 1 = 0), stBadField),
      (decide (d.fld 10 2 % 8 = 0 ∧ d.fld 10 2 ≤ 504), stBadField)]
      ++ ((List.range 8).map fun i => (decide (d.fld (12 + 2 * i) 2 < 8192), stBadField))
      ++ [(zeroFrom d.bytes 28 4, stBadField)])
  | _ => firstBad (common ++ [(decide (d.fld 8 8 % 64 = 0), stBadField), (zeroFrom d.bytes 16 16, stBadField)])

/-- Fields of a receive descriptor (R279). -/
def rxFields (d : Desc) : Option Nat :=
  let bf := (decide (d.fld 1 1 / 8 = 0), stBadField)
  if d.opcode = 0 then firstBad [bf]
  else firstBad [
    bf, (d.bflag 8, stBadField),
    (decide (d.length = 64 ∨ d.length = 128 ∨ d.length = 192 ∨ d.length = 256), stBadLength),
    (decide (d.fld 8 8 % 64 = 0), stBadField), (decide (d.fld 16 8 % 64 = 0), stBadField),
    (decide (d.fld 24 4 % 64 = 0 ∧ d.fld 24 4 ≤ 16384), stBadField), (zeroFrom d.bytes 28 4, stBadField)]

/-- Fields of a transmit descriptor (R285-R287); `mf` is MAX_FRAME of its port. -/
def txFields (d : Desc) (mf : Nat) : Option Nat :=
  let bf := (decide (d.fld 1 1 / 64 = 0), stBadField)
  let seg := d.bflag 13
  let mss := d.fld 16 2
  let mssOk := (if seg then decide (mss ≠ 0) else decide (mss = 0), stBadField)
  match d.opcode with
  | 0 => firstBad [bf]
  | 0x10 => firstBad [
      bf, (decide (1 ≤ d.length ∧ (seg = true ∨ d.length + 4 ≤ mf)), stBadLength), mssOk, (zeroFrom d.bytes 18 14, stBadField)]
  | 0x11 => firstBad [
      bf, (decide (1 ≤ d.length), stBadLength), mssOk, (zeroFrom d.bytes 18 2, stBadField),
      (decide (1 ≤ d.fld 20 4 ∧ d.fld 20 4 + d.length ≤ 65535 ∧ (seg = true ∨ d.length + d.fld 20 4 + 4 ≤ mf)), stBadLength)]
  | _ => firstBad [bf, (!seg, stBadField), (decide (1 ≤ d.length ∧ d.length ≤ 248), stBadLength)]

/-- Two ranges of n bytes overlap. -/
def rangesMeet (a b n : Nat) : Bool := decide (a < b + n) && decide (b < a + n)

/-- Fields of a Shears descriptor (R308-R314). -/
def shFields (d : Desc) : Option Nat :=
  let op := d.opcode
  let bf := d.fld 1 1 / 8
  let common := [
    (decide (if op = 3 then bf < 4 else if op = 0x10 ∨ op = 0x11 then bf < 2 else bf = 0), stBadField),
    (decide (d.length = 0), stBadLength)]
  if op = 0 then firstBad common
  else if op ≤ 4 then
    firstBad (common ++ [(decide (d.fld 24 4 ≠ 0), stBadLength), (zeroFrom d.bytes 28 4, stBadField),
      (!(decide (op = 1) && rangesMeet (d.fld 8 8) (d.fld 16 8) (d.fld 24 4)), stBadField)])
  else
    let comp := decide (op = 0x10)
    let resume := d.bflag 11
    let fmt := d.fld 48 1 % 16
    let level := d.fld 48 1 / 16 % 4
    let cont := decide (4 ≤ fmt)
    let bl := d.fld 49 1
    let l2 := d.fld 51 1
    let minL2 := if comp then (if fmt = 3 then 21 else 17) else 17
    firstBad (common ++ [
      (decide (d.fld 24 4 ≠ 0 ∨ resume = true), stBadLength),
      (decide (d.fld 28 4 ≠ 0), stBadLength),
      (!(comp && cont && decide (12 ≤ bl) && decide (bl ≤ 20) && decide (d.fld 28 4 < 2 ^ bl + 32)), stBadLength),
      (if cont then decide (d.fld 32 8 = 0) else decide (d.fld 32 8 % 4096 = 0), stBadField),
      (if comp && cont then decide (d.fld 40 8 % 16 = 0) else decide (d.fld 40 8 = 0), stBadField),
      (decide (d.fld 48 1 < 64 ∧ fmt ≤ 5 ∧ level ≠ 3 ∧ (comp = true ∨ level = 0)), stBadField),
      (!(resume && cont), stBadField),
      (if comp && cont then decide (12 ≤ bl ∧ bl ≤ 20) else decide (bl = 0), stBadField),
      (decide (comp = false ∨ d.fld 50 1 = 0), stBadField),
      (if cont then decide (l2 = 0) else decide (minL2 ≤ l2 ∧ l2 ≤ 24), stBadField),
      (decide (comp = false ∨ d.fld 52 4 = 0), stBadField),
      (decide ((comp = true ∧ cont = true) ∨ d.fld 56 8 = 0), stBadField)])

/-- Step 3 of R73: the status of the first field that holds no defined value. -/
def Chip.badFields (c : Chip) (r : RingId) (d : Desc) : Option Nat :=
  match r with
  | .adm _ => admFields d
  | .rx _ => rxFields d
  | .tx q => txFields d (c.regFld (uEth (c.regFld uFlow (8192 + q) 0x1098 0 0)) 0 0x104C 13 0)
  | .sh _ _ => shFields d
  | .dv _ _ => none

/-- The addresses of a descriptor and whether they are written (R73, step 4). -/
def descAddrs (r : RingId) (d : Desc) : List (Nat × Bool) :=
  let op := d.opcode
  match r with
  | .adm _ => if op = 1 ∨ op = 2 then [(d.fld 8 8, false)] else []
  | .rx _ => if op = 0x20 then [(d.fld 8 8, true), (d.fld 16 8, true)] else []
  | .tx _ => if op = 0x10 then [(d.fld 8 8, false)] else if op = 0x11 then [(d.fld 8 8, false), (d.fld 24 8, false)] else []
  | .sh _ _ =>
    if op = 1 then [(d.fld 8 8, false), (d.fld 16 8, true)]
    else if op = 2 then [(d.fld 16 8, true)]
    else if op = 3 then [(d.fld 8 8, false)]
    else if op = 4 then [(d.fld 8 8, false), (d.fld 16 8, false)]
    else if op = 0x10 ∨ op = 0x11 then
      [(d.fld 8 8, false), (d.fld 16 8, true)]
        ++ (if d.fld 48 1 % 16 < 4 then [(d.fld 32 8, true)] else [])
        ++ (if d.fld 40 8 ≠ 0 then [(d.fld 40 8, true)] else [])
    else []
  | .dv _ _ => []

/-- Every address passes step 4. -/
def Chip.addrsOk (c : Chip) (iid : Nat) (l : List (Nat × Bool)) : Bool × Chip :=
  l.foldl (fun (s : Bool × Chip) a => if s.1 then s.2.addrOk iid a.1 a.2 else s) (true, c)

/-! Disable and quiesce (R407). -/

/-- A fetched descriptor whose data movement has not started and that has not completed. -/
def Desc.idle (d : Desc) : Bool := !d.started && !d.taken && d.fin.isNone

/-- Disable of a ring: fetch stops, and every descriptor not started completes with a status; a drover core's inbox
gives its descriptors up. -/
def Chip.ringStop (c : Chip) (r : RingId) (status : Nat := 0x08) : Chip :=
  let c := match r with
    | .dv d n => c.modDrover d fun x => { x with cores := x.cores.map fun (e : Nat × DvCore) => (e.1, { e.2 with inbox := e.2.inbox.filter fun i => i.1 ≠ n }) }
    | .adm i => { c with flow := { c.flow with order := c.flow.order.filter fun e => e.1 ≠ i } }
    | _ => c
  c.modRing r fun x => { x with en := false, descs := x.descs.map fun (d : Desc) => if d.idle then { d with fin := some status } else d }

/-- QUIESCED sets when nothing of a disabled ring remains (R407, step 4). -/
def Chip.ringQuiesce (c : Chip) (r : RingId) : Chip :=
  let x := c.ring r
  if !x.en && x.descs.isEmpty && x.held.isEmpty then c.modRing r fun x => { x with quiesced := true } else c

/-- An accepted enable: ACC and CI 0 (R407). -/
def Chip.ringEnable (c : Chip) (r : RingId) : Chip :=
  c.modRing r fun _ => { en := true, quiesced := false }

/-! Fetch (R70, R73, R279, R286, R291, R309, R348). -/

/-- Rings bound to a drover core that have something to fetch, in ring order. -/
def Chip.ringsOfCore (c : Chip) (d k : Nat) : List Nat :=
  (List.range 64).filter fun n =>
    let x := c.ring (.dv d n)
    x.en && decide (x.acc ≠ x.ci) && decide (c.regFld (uDrover d) n 0x1060 20 16 = k)

/-- Round robin over a core's rings: the ring after the last one served comes first (R348). -/
def nextRing (l : List Nat) (last : Nat) : Option Nat := (l.find? fun n => decide (last < n)) <|> l.head?

/-- The ring may fetch now (R64, R73, R291, R348, R400, R407). -/
def Chip.mayFetch (c : Chip) (r : RingId) : Bool :=
  let x := c.ring r
  let base := x.en && decide (x.acc ≠ x.ci) && decide ((c.inst (c.ringOwner r)).st = .active)
    && !c.ringHeld r && c.unitRuns (ringUnit r)
  match r with
  | .rx _ => base && decide ((x.descs.filter Desc.idle).length < 8)
  | .tx q => base && c.macUp (c.regFld uFlow (8192 + q) 0x1098 0 0) (c.regFld uFlow (8192 + q) 0x1098 3 1)
  | .dv d n =>
    let k := c.regFld (uDrover d) n 0x1060 20 16
    base && decide (c.regFld (uDrover d) 0 0x1040 0 0 = 1) && decide ((c.dvCore d k).inbox.length < 4)
      && decide (nextRing (c.ringsOfCore d k) (Sparse.at (c.drover d).rr 64 k) = some n)
  | _ => base

/-- Further slots of a descriptor, read one by one. -/
def Chip.readSlots (c : Chip) (iid : Nat) (r : RingId) : Nat → Nat → List Byte → Bool → DevRead × Chip
  | _, 0, acc, p => (.ok acc p, c)
  | k, n + 1, acc, p =>
    match c.instRead iid (c.ringBase r + 32 * (k % c.ringSize r)) 32 with
    | (.ok bs q, c) => Chip.readSlots c iid r (k + 1) n (acc ++ bs) (p || q)
    | (e, c) => (e, c)

/-- The descriptor at CI fetched, checked by R73 and placed in its ring; a failing one and a NOP have their status at
once. A fetch whose access fails disables the ring (R407). -/
def Chip.fetchDesc (c : Chip) (r : RingId) : Chip :=
  if !c.mayFetch r then c
  else
    let x := c.ring r
    let iid := c.ringOwner r
    match c.instRead iid (c.ringBase r + 32 * (x.ci % c.ringSize r)) 32 with
    | (.fault, c) => c.ringStop r
    | (.timeout, c) => c.ringStop r
    | (.ok bs poison, c1) =>
      let take (c : Chip) (n : Nat) (d : Desc) : Chip :=
        c.modRing r fun x => { x with ci := (x.ci + n) % 2 ^ 32, descs := x.descs ++ [d] }
      let idx := x.ci % 65536
      if poison then take c1 1 { idx := x.ci, bytes := bs, fin := some 0x0A }
      else if bsNat bs 4 2 ≠ idx ∨ bsNat bs 6 2 ≠ 65535 - idx then take c1 1 { idx := x.ci, bytes := bs, fin := some 0x01 }
      else
        let d : Desc := { idx := x.ci, bytes := bs, cmpl := bsNat bs 0 2 / 256 % 4 ≠ 0, irq := bsNat bs 0 2 / 512 % 2 = 1 }
        if !opDefined r d.opcode then take c1 1 { d with fin := some 0x02 }
        else
          let n := descSlots r d.opcode d.length
          if sub32 x.acc x.ci < n then c
          else
            match c1.readSlots iid r (x.ci + 1) (n - 1) [] false with
            | (.fault, c) => c.ringStop r
            | (.timeout, c) => c.ringStop r
            | (.ok more p2, c) =>
              let d := { d with slots := n, bytes := bs ++ more }
              if p2 then take c n { d with fin := some 0x0A }
              else match r with
                | .dv dd m =>
                  if d.opcode = 0 then take c n { d with fin := some 0 }
                  else if d.fence && !(x.descs.all fun e => e.fin.isSome) then
                    -- A fenced descriptor is delivered once every earlier one has completed (R348).
                    c1
                  else
                    let k := c.regFld (uDrover dd) m 0x1060 20 16
                    ((take c n d).modDvCore dd k fun y => { y with inbox := y.inbox ++ [(m, x.ci)] }).modDrover dd
                      fun y => { y with rr := Sparse.put y.rr k m }
                | _ =>
                  match c.badFields r d with
                  | some st => take c n { d with fin := some st }
                  | none =>
                    match c.addrsOk iid (descAddrs r d) with
                    | (false, c) => take c n { d with fin := some 0x03 }
                    | (true, c) =>
                      if d.opcode = 0 then take c n { d with fin := some 0 }
                      else
                        let c := take c n d
                        match r with
                        | .adm i => { c with flow := { c.flow with order := c.flow.order ++ [(i, x.ci)] } }
                        | _ => c

/-! Completion records (R77-R79, R407). -/

/-- The 16 bytes of a record. -/
def recordBytes (wi m : Nat) (r : CRec) : List Byte :=
  leBytes (r.status + (1 - wi / m % 2) * 256 + r.idx % 65536 * 65536) 4 ++ leBytes r.consumed 4 ++ leBytes r.produced 4 ++ leBytes r.info 4

/-- One record written into a ring's completion ring; a write whose access fails disables the ring (R78). -/
def Chip.putRecord (c : Chip) (r : RingId) (x : CRec) : Chip :=
  let g := c.ring r
  let m := c.cringSize r
  match c.instWrite (c.ringOwner r) (c.cringBase r + 16 * (g.wi % m)) (recordBytes g.wi m x) with
  | (true, c) =>
    let c := c.modRing r fun g => { g with wi := (g.wi + 1) % 2 ^ 32 }
    if x.irq then c.msixEvent (c.ringOwner r) (c.ringVector r) else c
  | (false, c) => (c.ringStop r).modRing r fun g => { g with failed := true }

/-- The record of a finished descriptor. -/
def Desc.record (d : Desc) (status : Nat) : CRec :=
  { status := status, idx := d.idx, consumed := d.consumed, produced := d.produced, info := d.info, irq := d.irq }

/-- Shears counts of completed descriptors (R334). -/
def Chip.countDone (c : Chip) (r : RingId) (status : Nat) : Chip :=
  match r with
  | .sh e n => c.modEngine e fun x => { x with counts := Sparse.upd x.counts (0, 0) n fun p => ((p.1 + 1) % 2 ^ 64, (p.2 + (if status = 0 then 0 else 1)) % 2 ^ 64) }
  | _ => c

/-- Records held while Bus Master Enable was 0, written in order while a slot is free (R405). -/
def Chip.writeHeld (c : Chip) (r : RingId) : Nat → Chip
  | 0 => c
  | n + 1 =>
    match (c.ring r).held with
    | [] => c
    | x :: rest =>
      let pop (c : Chip) : Chip := c.modRing r fun g => { g with held := rest }
      if (c.ring r).failed then Chip.writeHeld (pop c) r n
      else if c.cringFull r then c
      else Chip.writeHeld ((pop c).putRecord r x) r n

/-- The finished descriptors at the head of a ring complete: with their records, or, with status OK and neither CMPL nor
IRQ, without one; with no free slot nothing is written (R78). Records appear in descriptor order. -/
def Chip.writeFinished (c : Chip) (r : RingId) : Nat → Chip
  | 0 => c
  | n + 1 =>
    match (c.ring r).descs with
    | [] => c
    | d :: rest =>
      match d.fin with
      | none => c
      | some s =>
        let pop (c : Chip) : Chip := (c.modRing r fun x => { x with descs := rest }).countDone r s
        if s = 0 ∧ d.cmpl = false then Chip.writeFinished (pop c) r n
        else if (c.ring r).failed then Chip.writeFinished (pop c) r n
        else if c.cringFull r then c
        else Chip.writeFinished ((pop c).putRecord r (d.record s)) r n

/-- Every record that a ring can write now. -/
def Chip.writeRecords (c : Chip) (r : RingId) : Chip :=
  let c := c.writeHeld r (c.ring r).held.length
  if (c.ring r).held.isEmpty then c.writeFinished r (c.ring r).descs.length else c

/-- COMPLETION_RECORD_WRITE (R78): records are written while the instance is in service, or, of those held, FROZEN (R405), and no
register that they need is faulted (R63). -/
def Chip.recordWrite (c : Chip) (r : RingId) : Chip :=
  if c.recordFaulted r then c
  else match (c.inst (c.ringOwner r)).st with
    | .active => c.writeRecords r
    | .freezing => c.writeRecords r
    | .frozen => c.writeHeld r (c.ring r).held.length
    | _ => c

/-! The work of a ring's oldest startable descriptor. -/

/-- Descriptors before an index have all completed (FENCE, R72). -/
def Ring.clearBefore (x : Ring) (idx : Nat) : Bool :=
  (x.descs.takeWhile fun d => decide (d.idx ≠ idx)).all fun d => d.fin.isSome

/-- The oldest descriptor of a ring that may start now: its ring completes into a ring with a free slot, its block is not
Held, its instance is in service, and a FENCE is met (R64, R72, R78). -/
def Chip.startable (c : Chip) (r : RingId) : Option Desc :=
  let x := c.ring r
  if c.cringFull r ∨ c.ringHeld r = true ∨ (c.inst (c.ringOwner r)).st ≠ .active then none
  else match x.descs.find? Desc.idle with
    | some d => if d.fence && !x.clearBefore d.idx then none else some d
    | none => none

/-- A descriptor of a ring changed, by its fetch index. -/
def Chip.modDesc (c : Chip) (r : RingId) (idx : Nat) (f : Desc → Desc) : Chip :=
  c.modRing r fun x => { x with descs := x.descs.map fun (d : Desc) => if d.idx = idx then f d else d }

/-- A descriptor finishes with a status, its counts and INFO. -/
def Chip.finish (c : Chip) (r : RingId) (idx status consumed produced info : Nat) : Chip :=
  c.modDesc r idx fun d => { d with started := true, fin := some status, consumed := consumed, produced := produced, info := info }

end Sys2Proof.Machine
end

