-- ==== Sys2Proof/Machine/Packet.lean ====
section
/-! DEFINITION. Check values, the frame parser, hash, checksums and segmentation (R264-R267, R283, R285-R289, R311). -/

namespace Sys2Proof.Machine

/-! Cyclic redundancy checks and checksums. -/

/-- One step of a reflected CRC of width 32 over a bit. -/
def crcBit (poly c : Nat) (b : Bool) : Nat :=
  let x := (c % 2 = 1) != b
  if x then (c / 2) ^^^ poly else c / 2

/-- A reflected CRC register after one byte, no inversion. -/
def crcByte (poly c : Nat) (b : Byte) : Nat := (List.range 8).foldl (fun c i => crcBit poly c (b.getLsbD i)) c

def polyC : Nat := 0x82F63B78
def poly32 : Nat := 0xEDB88320

/-- CRC-32 or CRC-32C of bytes, continued from a seed (R311). -/
def crcOf (poly seed : Nat) (bs : List Byte) : Nat := (bs.foldl (crcByte poly) (seed ^^^ 0xFFFFFFFF)) ^^^ 0xFFFFFFFF

/-- Adler-32 (RFC 1950). -/
def adler32 (bs : List Byte) : Nat :=
  let s := bs.foldl (fun (s : Nat × Nat) b => let a := (s.1 + b.toNat) % 65521; (a, (s.2 + a) % 65521)) (1, 0)
  s.2 * 65536 + s.1

/-- XXH64 with seed 0, the Content_Checksum of zstd (RFC 8878). -/
def xxh64 (bs : List Byte) : Nat :=
  let w := 2 ^ 64
  let p1 := 0x9E3779B185EBCA87
  let p2 := 0xC2B2AE3D27D4EB4F
  let p3 := 0x165667B19E3779F9
  let p4 := 0x85EBCA77C2B2AE63
  let p5 := 0x27D4EB2F165667C5
  let rotl (x k : Nat) : Nat := (x * 2 ^ k + x / 2 ^ (64 - k)) % w
  let round (a x : Nat) : Nat := rotl ((a + x * p2) % w) 31 * p1 % w
  let merge (h v : Nat) : Nat := ((h ^^^ round 0 v) * p1 + p4) % w
  let rec stripes (bs : List Byte) (a b c d : Nat) (fuel : Nat) : List Byte × Nat × Nat × Nat × Nat :=
    match fuel with
    | 0 => (bs, a, b, c, d)
    | fuel + 1 =>
      if bs.length < 32 then (bs, a, b, c, d)
      else stripes (bs.drop 32) (round a (bsNat bs 0 8)) (round b (bsNat bs 8 8)) (round c (bsNat bs 16 8)) (round d (bsNat bs 24 8)) fuel
  let rec tail (bs : List Byte) (h : Nat) (fuel : Nat) : Nat :=
    match fuel with
    | 0 => h
    | fuel + 1 =>
      if 8 ≤ bs.length then tail (bs.drop 8) ((rotl (h ^^^ round 0 (bsNat bs 0 8)) 27 * p1 + p4) % w) fuel
      else if 4 ≤ bs.length then tail (bs.drop 4) ((rotl (h ^^^ (bsNat bs 0 4 * p1 % w)) 23 * p2 + p3) % w) fuel
      else if 1 ≤ bs.length then tail (bs.drop 1) (rotl (h ^^^ (bsNat bs 0 1 * p5 % w)) 11 * p1 % w) fuel
      else h
  let (rest, a, b, c, d) := stripes bs ((p1 + p2) % w) p2 0 (w - p1) (bs.length / 32 + 1)
  let h := if bs.length < 32 then p5
    else merge (merge (merge (merge ((rotl a 1 + rotl b 7 + rotl c 12 + rotl d 18) % w) a) b) c) d
  let h := tail rest ((h + bs.length) % w) (rest.length + 1)
  let h := (h ^^^ (h / 2 ^ 33)) * p2 % w
  let h := (h ^^^ (h / 2 ^ 29)) * p3 % w
  h ^^^ (h / 2 ^ 32)

/-- Number that bytes spell in network byte order. -/
def beNat (bs : List Byte) (off n : Nat) : Nat := ((bs.drop off).take n).foldl (fun a b => a * 256 + b.toNat) 0
def beBytes (x n : Nat) : List Byte := (leBytes x n).reverse

/-- Ones'-complement sum of 16-bit words in network byte order. -/
def onesSum : List Byte → Nat
  | [] => 0
  | [b] => b.toNat * 256
  | a :: b :: t =>
    let s := a.toNat * 256 + b.toNat + onesSum t
    s % 65536 + s / 65536

/-- The Internet checksum of bytes. -/
def inetSum (bs : List Byte) : Nat := 65535 - onesSum bs

/-- Bytes with a part replaced. -/
def patch (bs : List Byte) (off : Nat) (new : List Byte) : List Byte := bs.take off ++ new ++ bs.drop (off + new.length)

/-! The parser (R264, R265). -/

/-- A recognised IP header. `proto` is the protocol after extension headers, `l4` where it starts, `len` its bytes by the
header's length field. -/
structure IpHdr where
  v6    : Bool
  off   : Nat
  src   : Nat
  dst   : Nat
  proto : Nat
  frag  : Bool
  ext   : Bool
  l4    : Nat
  len   : Nat
deriving DecidableEq, Repr

/-- A recognised TCP or UDP header. -/
structure L4Hdr where
  udp   : Bool
  off   : Nat
  size  : Nat
  sport : Nat
  dport : Nat
deriving DecidableEq, Repr

/-- One stack of headers: Ethernet, IP, L4. -/
structure Stack where
  l2  : Bool := false
  pcp : Nat := 0
  ip  : Option IpHdr := none
  l4  : Option L4Hdr := none
deriving DecidableEq, Repr

/-- A parse: the outer stack, and the inner one with its VNI when a tunnel is recognised. -/
structure Parse where
  outer : Stack
  vni   : Nat := 0
  inner : Option Stack := none
deriving DecidableEq, Repr

def ipv4Mapped (a : Nat) : Nat := 0xFFFF * 2 ^ 32 + a

/-- IPv4 at an offset (R264): complete within `lim`, its lengths consistent with the frame's `n` bytes. -/
def parseV4 (bs : List Byte) (n lim o : Nat) : Option IpHdr :=
  let ihl := beNat bs o 1 % 16 * 4
  let tot := beNat bs (o + 2) 2
  if lim < o + 20 ∨ beNat bs o 1 / 16 ≠ 4 ∨ ihl < 20 ∨ lim < o + ihl ∨ tot < ihl ∨ n < o + tot then none
  else some {
    v6 := false, off := o, src := ipv4Mapped (beNat bs (o + 12) 4), dst := ipv4Mapped (beNat bs (o + 16) 4),
    proto := beNat bs (o + 9) 1, frag := beNat bs (o + 6) 2 % 0x4000 ≠ 0, ext := 20 < ihl, l4 := o + ihl, len := tot - ihl }

/-- The extension headers of an IPv6 header, up to four (R264): the protocol, where it starts, and whether it is a
fragment. -/
def parseExt (bs : List Byte) (lim stop : Nat) : Nat → Nat → Nat → Bool → Nat × Nat × Bool
  | 0, o, p, f => (p, o, f)
  | k + 1, o, p, f =>
    if p = 0 ∨ p = 43 ∨ p = 60 then
      let size := (beNat bs (o + 1) 1 + 1) * 8
      if lim < o + 8 ∨ lim < o + size ∨ stop < o + size then (p, o, f) else parseExt bs lim stop k (o + size) (beNat bs o 1) f
    else if p = 44 then
      if lim < o + 8 ∨ stop < o + 8 then (p, o, f)
      else parseExt bs lim stop k (o + 8) (beNat bs o 1) (f || decide (beNat bs (o + 2) 2 / 8 ≠ 0) || decide (beNat bs (o + 2) 2 % 2 = 1))
    else (p, o, f)

def parseV6 (bs : List Byte) (n lim o : Nat) : Option IpHdr :=
  let plen := beNat bs (o + 4) 2
  if lim < o + 40 ∨ beNat bs o 1 / 16 ≠ 6 ∨ n < o + 40 + plen then none
  else
    let (p, l4, f) := parseExt bs lim (o + 40 + plen) 4 (o + 40) (beNat bs (o + 6) 1) false
    some { v6 := true, off := o, src := beNat bs (o + 8) 16, dst := beNat bs (o + 24) 16, proto := p, frag := f,
           ext := decide (l4 ≠ o + 40), l4 := l4, len := o + 40 + plen - l4 }

def parseL4 (bs : List Byte) (lim : Nat) (ip : IpHdr) : Option L4Hdr :=
  if ip.frag then none
  else if ip.proto = 6 then
    let size := beNat bs (ip.l4 + 12) 1 / 16 * 4
    if lim < ip.l4 + 20 ∨ ip.len < 20 ∨ size < 20 ∨ lim < ip.l4 + size ∨ ip.len < size then none
    else some { udp := false, off := ip.l4, size := size, sport := beNat bs ip.l4 2, dport := beNat bs (ip.l4 + 2) 2 }
  else if ip.proto = 17 then
    let len := beNat bs (ip.l4 + 4) 2
    if lim < ip.l4 + 8 ∨ ip.len < 8 ∨ len < 8 ∨ ip.len < len then none
    else some { udp := true, off := ip.l4, size := 8, sport := beNat bs ip.l4 2, dport := beNat bs (ip.l4 + 2) 2 }
  else none

/-- Ethernet II with up to two tags, and what follows (R264). -/
def parseStack (bs : List Byte) (n lim o : Nat) : Stack :=
  if lim < o + 14 then {}
  else
    let tag (p : Nat) : Bool := (decide (beNat bs p 2 = 0x8100) || decide (beNat bs p 2 = 0x88A8)) && decide (p + 6 ≤ lim)
    let e := o + 12
    let t1 := tag e
    let e2 := if t1 then e + 4 else e
    let e3 := if t1 && tag e2 then e2 + 4 else e2
    let pcp := if t1 then beNat bs (e + 2) 1 / 32 else 0
    let ip := if beNat bs e3 2 = 0x0800 then parseV4 bs n lim (e3 + 2) else if beNat bs e3 2 = 0x86DD then parseV6 bs n lim (e3 + 2) else none
    { l2 := true, pcp := pcp, ip := ip, l4 := ip.bind (parseL4 bs lim) }

/-- The parse of a frame: at most its first 256 bytes are inspected (R264). -/
def parseFrame (bs : List Byte) : Parse :=
  let n := bs.length
  let lim := min n 256
  let s := parseStack bs n lim 0
  match s.l4 with
  | some l =>
    let stop := (s.ip.map fun i => i.l4 + i.len).getD n
    let start : Option Nat :=
      if l.udp ∧ l.dport = 4789 ∧ l.off + 16 ≤ lim ∧ l.off + 16 ≤ stop then some (l.off + 16)
      else if l.udp ∧ l.dport = 6081 ∧ l.off + 16 ≤ lim then
        let opt := beNat bs (l.off + 8) 1 % 64 * 4
        if opt ≤ 124 ∧ beNat bs (l.off + 10) 2 = 0x6558 ∧ l.off + 16 + opt ≤ lim ∧ l.off + 16 + opt ≤ stop then some (l.off + 16 + opt) else none
      else none
    match start with
    | some o =>
      let i := parseStack bs (min n stop) (min lim stop) o
      { outer := s, vni := beNat bs (l.off + 12) 3, inner := some i }
    | none => { outer := s }
  | none => { outer := s }

/-- The innermost recognised headers. -/
def Parse.top (p : Parse) : Stack := p.inner.getD p.outer

/-- Every IP header, outer first. -/
def Parse.ips (p : Parse) : List IpHdr := p.outer.ip.toList ++ ((p.inner.bind fun s => s.ip).toList)

/-- The headers that the flow key is taken from: those that hold the innermost recognised IP header (R265). -/
def Parse.keySrc (p : Parse) : Stack :=
  match p.inner with
  | some s => if s.ip.isSome then s else p.outer
  | none => p.outer

/-- Searched in the flow table: TCP or UDP, not a fragment (R265). -/
def Parse.keyed (p : Parse) : Option (IpHdr × L4Hdr) :=
  match p.keySrc.ip, p.keySrc.l4 with
  | some i, some l => some (i, l)
  | _, _ => none

/-- The innermost TCP or UDP header, in which the parse ends (R283, R287, R288). -/
def Parse.searched (p : Parse) : Option (IpHdr × L4Hdr) :=
  match p.top.ip, p.top.l4 with
  | some i, some l => some (i, l)
  | _, _ => none

/-! Hash (R266, R267). -/

/-- The hash input of a frame; empty when it is not IP. -/
def hashInput (p : Parse) : List Byte :=
  match p.keySrc.ip with
  | none => []
  | some i =>
    let (sp, dp) := match p.keySrc.l4 with | some l => (l.sport, l.dport) | none => (0, 0)
    let n := if i.v6 then 16 else 4
    beBytes i.src n ++ beBytes i.dst n ++ beBytes sp 2 ++ beBytes dp 2 ++ beBytes p.vni 3 ++ beBytes i.proto 1

/-- Key bit j: the most significant bit of key byte 0 is bit 0 (R266). -/
def keyBit (key : List Byte) (j : Nat) : Bool := (key.getD (j % 320 / 8) 0).getLsbD (7 - j % 8)

def keyWindow (key : List Byte) (i : Nat) : Nat := (List.range 32).foldl (fun w k => w * 2 + bit (keyBit key (i + k))) 0

def toeplitz (key input : List Byte) : Nat :=
  (List.range (8 * input.length)).foldl (fun h i =>
    if (input.getD (i / 8) 0).getLsbD (7 - i % 8) then h ^^^ keyWindow key (i % 320) else h) 0

/-! Checksums of a parsed frame (R283, R288, R289). -/

/-- The pseudo-header of an L4 checksum. -/
def pseudo (i : IpHdr) (len : Nat) : List Byte :=
  if i.v6 then beBytes i.src 16 ++ beBytes i.dst 16 ++ beBytes len 4 ++ beBytes i.proto 4
  else beBytes (i.src % 2 ^ 32) 4 ++ beBytes (i.dst % 2 ^ 32) 4 ++ beBytes i.proto 2 ++ beBytes len 2

/-- Bytes that an L4 checksum covers: the UDP length, or the rest of the packet. -/
def l4Span (bs : List Byte) (i : IpHdr) (l : L4Hdr) : Nat := if l.udp then beNat bs (l.off + 4) 2 else i.len

def l4Place (l : L4Hdr) : Nat := if l.udp then l.off + 6 else l.off + 16

/-- The checksum of a TCP or UDP header over its pseudo-header, its own field taken as 0; UDP writes 0 as all ones. -/
def l4Sum (bs : List Byte) (i : IpHdr) (l : L4Hdr) : Nat :=
  let n := l4Span bs i l
  let c := inetSum (pseudo i n ++ ((patch bs (l4Place l) [0, 0]).drop l.off).take n)
  if l.udp ∧ c = 0 then 65535 else c

/-- IPCSUM of R283. -/
def ipCsum (bs : List Byte) (p : Parse) : Nat :=
  let v4 := p.ips.filter fun i => !i.v6
  if v4.isEmpty then 0
  else if v4.all fun i => inetSum ((bs.drop i.off).take (beNat bs i.off 1 % 16 * 4)) = 0 then 1 else 2

/-- L4CSUM of R283. -/
def l4Csum (bs : List Byte) (p : Parse) : Nat :=
  match p.searched with
  | none => 0
  | some (i, l) =>
    let f := beNat bs (l4Place l) 2
    if l.udp ∧ f = 0 then 3
    else
      let c := l4Sum bs i l
      if f = c ∨ (l.udp = false ∧ (f + 65535 - c) % 65535 = 0) then 1 else 2

/-- INFO of a receive record but for HASH, MARK, DSIZE and FLOW_HIT (R283). -/
def rxSummary (bs : List Byte) (p : Parse) : Nat :=
  let l3 := match p.top.ip with
    | none => 0
    | some i => if i.v6 then (if i.ext then 4 else 3) else if i.ext then 2 else 1
  let l4 := match p.top.ip with
    | none => 0
    | some i => if i.frag then 3 else match p.top.l4 with | some l => if l.udp then 2 else 1 | none => 0
  l3 + l4 * 16 + bit p.inner.isSome * 64 + ipCsum bs p * 128 + l4Csum bs p * 512

/-- Every IPv4 header checksum written (R288). -/
def writeIpSums (p : Parse) (bs : List Byte) : List Byte :=
  (p.ips.filter fun i => !i.v6).foldl (fun bs i =>
    let bs := patch bs (i.off + 10) [0, 0]
    patch bs (i.off + 10) (beBytes (inetSum ((bs.drop i.off).take (beNat bs i.off 1 % 16 * 4))) 2)) bs

/-- The innermost L4 checksum written (R288). -/
def writeL4Sum (p : Parse) (bs : List Byte) : List Byte :=
  match p.searched with
  | some (i, l) => patch bs (l4Place l) (beBytes (l4Sum bs i l) 2)
  | none => bs

/-- The outer UDP header of a tunnel. -/
def Parse.outerUdp (p : Parse) : Option (IpHdr × L4Hdr) :=
  match p.inner, p.outer.ip, p.outer.l4 with
  | some _, some i, some l => some (i, l)
  | _, _, _ => none

/-- One segment (R289): number s, payload offset, its payload, first and last. -/
def segment (p : Parse) (i : IpHdr) (l : L4Hdr) (hdr : List Byte) (s off : Nat) (pay : List Byte) (last : Bool) : List Byte :=
  let n := hdr.length + pay.length
  let f := hdr ++ pay
  let f := p.ips.foldl (fun f (i : IpHdr) =>
    if i.v6 then patch f (i.off + 4) (beBytes (n - (i.off + 40)) 2)
    else patch (patch f (i.off + 2) (beBytes (n - i.off) 2)) (i.off + 4) (beBytes (beNat f (i.off + 4) 2 + s) 2)) f
  let f := if l.udp then patch f (l.off + 4) (beBytes (n - l.off) 2)
    else
      let fl := beNat f (l.off + 13) 1
      let fl := if last then fl else fl - fl / 8 % 2 * 8 - fl % 2
      let fl := if s = 0 then fl else fl - fl / 128 % 2 * 128
      patch (patch f (l.off + 4) (beBytes (beNat f (l.off + 4) 4 + off) 4)) (l.off + 13) [BitVec.ofNat 8 fl]
  let f := match p.outerUdp with
    | some (_, u) => patch f (u.off + 4) (beBytes (n - u.off) 2)
    | none => f
  let q : IpHdr := { i with len := n - i.l4 }
  let f := patch f (l4Place l) (beBytes (l4Sum f q l) 2)
  let f := match p.outerUdp with
    | some (oi, u) =>
      if oi.v6 then patch f (u.off + 6) (beBytes (l4Sum f { oi with len := n - oi.l4 } u) 2) else patch f (u.off + 6) [0, 0]
    | none => f
  writeIpSums p f

/-- The frames of a segmentation job (R289): MSS > 0. -/
def segments (p : Parse) (i : IpHdr) (l : L4Hdr) (bs : List Byte) (mss : Nat) : List (List Byte) :=
  let h := l.off + l.size
  let hdr := bs.take h
  let stop := i.l4 + i.len
  let pay := (bs.take stop).drop h
  let k := max 1 ((pay.length + mss - 1) / mss)
  (List.range k).map fun s => segment p i l hdr s (s * mss) ((pay.drop (s * mss)).take mss) (decide (s + 1 = k))

/-- A frame shorter than 60 bytes padded with zero bytes (R262). -/
def pad60 (bs : List Byte) : List Byte := bs ++ List.replicate (60 - bs.length) 0

end Sys2Proof.Machine
end

