-- ==== Sys2Proof/Machine/Sha.lean ====
section
/-! DEFINITION. The digest and signature of firmware authentication: SHA-384 (FIPS 180-4) and ECDSA over P-384
(FIPS 186-5), which R492 and R493 name and do not restate (the tables and steps are the standards', PRESUMED, log 18). -/

namespace Sys2Proof.Machine

/-! SHA-384. -/

/-- Round constants: the fractions of the cube roots of the first 80 primes. -/
def shaK0 : List (BitVec 64) := [
0x428A2F98D728AE22, 0x7137449123EF65CD, 0xB5C0FBCFEC4D3B2F, 0xE9B5DBA58189DBBC,
  0x3956C25BF348B538, 0x59F111F1B605D019, 0x923F82A4AF194F9B, 0xAB1C5ED5DA6D8118,
  0xD807AA98A3030242, 0x12835B0145706FBE, 0x243185BE4EE4B28C, 0x550C7DC3D5FFB4E2,
  0x72BE5D74F27B896F, 0x80DEB1FE3B1696B1, 0x9BDC06A725C71235, 0xC19BF174CF692694,
  0xE49B69C19EF14AD2, 0xEFBE4786384F25E3, 0x0FC19DC68B8CD5B5, 0x240CA1CC77AC9C65]

def shaK1 : List (BitVec 64) := [
  0x2DE92C6F592B0275, 0x4A7484AA6EA6E483, 0x5CB0A9DCBD41FBD4, 0x76F988DA831153B5,
  0x983E5152EE66DFAB, 0xA831C66D2DB43210, 0xB00327C898FB213F, 0xBF597FC7BEEF0EE4,
  0xC6E00BF33DA88FC2, 0xD5A79147930AA725, 0x06CA6351E003826F, 0x142929670A0E6E70,
  0x27B70A8546D22FFC, 0x2E1B21385C26C926, 0x4D2C6DFC5AC42AED, 0x53380D139D95B3DF,
  0x650A73548BAF63DE, 0x766A0ABB3C77B2A8, 0x81C2C92E47EDAEE6, 0x92722C851482353B]

def shaK2 : List (BitVec 64) := [
  0xA2BFE8A14CF10364, 0xA81A664BBC423001, 0xC24B8B70D0F89791, 0xC76C51A30654BE30,
  0xD192E819D6EF5218, 0xD69906245565A910, 0xF40E35855771202A, 0x106AA07032BBD1B8,
  0x19A4C116B8D2D0C8, 0x1E376C085141AB53, 0x2748774CDF8EEB99, 0x34B0BCB5E19B48A8,
  0x391C0CB3C5C95A63, 0x4ED8AA4AE3418ACB, 0x5B9CCA4F7763E373, 0x682E6FF3D6B2B8A3,
  0x748F82EE5DEFB2FC, 0x78A5636F43172F60, 0x84C87814A1F0AB72, 0x8CC702081A6439EC]

def shaK3 : List (BitVec 64) := [
  0x90BEFFFA23631E28, 0xA4506CEBDE82BDE9, 0xBEF9A3F7B2C67915, 0xC67178F2E372532B,
  0xCA273ECEEA26619C, 0xD186B8C721C0C207, 0xEADA7DD6CDE0EB1E, 0xF57D4F7FEE6ED178,
  0x06F067AA72176FBA, 0x0A637DC5A2C898A6, 0x113F9804BEF90DAE, 0x1B710B35131C471B,
  0x28DB77F523047D84, 0x32CAAB7B40C72493, 0x3C9EBE0A15C9BEBC, 0x431D67C49C100D4C,
  0x4CC5D4BECB3E42B6, 0x597F299CFC657E2A, 0x5FCB6FAB3AD6FAEC, 0x6C44198C4A475817]

def shaK : List (BitVec 64) := shaK0 ++ shaK1 ++ shaK2 ++ shaK3

/-- The eight working words. -/
structure Sha where
  a : BitVec 64
  b : BitVec 64
  c : BitVec 64
  d : BitVec 64
  e : BitVec 64
  f : BitVec 64
  g : BitVec 64
  h : BitVec 64
  deriving DecidableEq, Repr

/-- Initial words: the fractions of the square roots of the ninth to sixteenth primes. -/
def shaInit : Sha :=
  { a := 0xCBBB9D5DC1059ED8, b := 0x629A292A367CD507, c := 0x9159015A3070DD17, d := 0x152FECD8F70E5939,
    e := 0x67332667FFC00B31, f := 0x8EB44A8768581511, g := 0xDB0C2E0D64F98FA7, h := 0x47B5481DBEFA4FA4 }

/-- One round, with the schedule's word w and the round constant k. -/
def Sha.round (s : Sha) (k w : BitVec 64) : Sha :=
  let t := s.h + (s.e.rotateRight 14 ^^^ s.e.rotateRight 18 ^^^ s.e.rotateRight 41) + ((s.e &&& s.f) ^^^ (~~~s.e &&& s.g)) + k + w
  let u := (s.a.rotateRight 28 ^^^ s.a.rotateRight 34 ^^^ s.a.rotateRight 39) + ((s.a &&& s.b) ^^^ (s.a &&& s.c) ^^^ (s.b &&& s.c))
  { a := t + u, b := s.a, c := s.b, d := s.c, e := s.d + t, f := s.e, g := s.f, h := s.g }

/-- The word that follows a window of sixteen words of the schedule. -/
def shaNext (w : List (BitVec 64)) : BitVec 64 :=
  let x := w.getD 1 0
  let y := w.getD 14 0
  w.getD 0 0 + (x.rotateRight 1 ^^^ x.rotateRight 8 ^^^ x >>> 7) + w.getD 9 0 + (y.rotateRight 19 ^^^ y.rotateRight 61 ^^^ y >>> 6)

/-- Rounds over the round constants that are left. -/
def shaRounds : List (BitVec 64) → List (BitVec 64) → Sha → Sha
  | [], _, s => s
  | k :: ks, w, s => shaRounds ks (w.drop 1 ++ [shaNext w]) (s.round k (w.getD 0 0))

/-- One block of 128 bytes. -/
def Sha.block (s : Sha) (bs : List Byte) : Sha :=
  let t := shaRounds shaK ((List.range 16).map fun i => BitVec.ofNat 64 (beNat bs (8 * i) 8)) s
  { a := s.a + t.a, b := s.b + t.b, c := s.c + t.c, d := s.d + t.d, e := s.e + t.e, f := s.f + t.f, g := s.g + t.g, h := s.h + t.h }

/-- The message with its padding: a 1, zeros, and its length in bits in the last 16 bytes. -/
def shaPad (m : List Byte) : List Byte :=
  m ++ [0x80] ++ List.replicate ((239 - m.length % 128) % 128) 0 ++ (leBytes (8 * m.length) 16).reverse

/-- The digest's 48 bytes. -/
def shaBytes (m : List Byte) : List Byte :=
  let p := shaPad m
  let s := (List.range (p.length / 128)).foldl (fun (s : Sha) i => s.block ((p.drop (128 * i)).take 128)) shaInit
  [s.a, s.b, s.c, s.d, s.e, s.f].flatMap fun w => (leBytes w.toNat 8).reverse

/-- The digest as the header of R492 holds its 48 bytes. -/
def sha384 (m : List Byte) : BitVec 384 := BitVec.ofNat 384 (leNat (shaBytes m))

/-! P-384. -/

def ecP : Nat := 2 ^ 384 - 2 ^ 128 - 2 ^ 96 + 2 ^ 32 - 1
def ecB : Nat := 0xb3312fa7e23ee7e4988e056be3f82d19181d9c6efe8141120314088f5013875ac656398d8a2ed19d2a85c8edd3ec2aef
def ecN : Nat := 0xffffffffffffffffffffffffffffffffffffffffffffffffc7634d81f4372ddf581a0db248b0a77aecec196accc52973

/-- A point in Jacobian coordinates, x / z^2 and y / z^3; z = 0 is the point at infinity. -/
structure EcPoint where
  x : Nat
  y : Nat
  z : Nat
  deriving DecidableEq, Repr

def ecG : EcPoint :=
  { x := 0xaa87ca22be8b05378eb1c71ef320ad746e1d3b628ba79b9859f741e082542a385502f25dbf55296c3a545e3872760ab7,
    y := 0x3617de4a96262c6f5d9e98bf9292dc29f8f41dbd289a147ce9da3113b5f0b8c00a60b1ce1d7e819d7a431d7c90ea0e5f, z := 1 }

/-- The point is on the curve y^2 = x^3 - 3 x + b, and its coordinates are below the prime. -/
def ecOnCurve (x y : Nat) : Bool :=
  decide (x < ecP) && decide (y < ecP) && y * y % ecP == (x * x * x + (ecP - 3) * x + ecB) % ecP

/-- Twice a point (the curve has a = -3). -/
def EcPoint.dbl (q : EcPoint) : EcPoint :=
  let zz := q.z * q.z % ecP
  let m := 3 * (q.x + zz) * (q.x + ecP - zz) % ecP
  let yy := q.y * q.y % ecP
  let v := 4 * q.x * yy % ecP
  let x := (m * m + 2 * (ecP - v)) % ecP
  { x := x, y := (m * (v + ecP - x) + 8 * (ecP - yy * yy % ecP)) % ecP, z := 2 * q.y * q.z % ecP }

/-- The sum of two points. -/
def EcPoint.add (q r : EcPoint) : EcPoint :=
  if q.z = 0 then r
  else if r.z = 0 then q
  else
    let zq := q.z * q.z % ecP
    let zr := r.z * r.z % ecP
    let u := q.x * zr % ecP
    let s := q.y * (zr * r.z % ecP) % ecP
    let h := (r.x * zq + ecP - u) % ecP
    let d := (r.y * (zq * q.z % ecP) + ecP - s) % ecP
    if h = 0 then if d = 0 then q.dbl else { x := 1, y := 1, z := 0 }
    else
      let hh := h * h % ecP
      let hhh := hh * h % ecP
      let v := u * hh % ecP
      let x := (d * d + (ecP - hhh) + 2 * (ecP - v)) % ecP
      { x := x, y := (d * (v + ecP - x) + s * (ecP - hhh)) % ecP, z := q.z * r.z % ecP * h % ecP }

/-- The low bits of a number, most significant first. -/
def bitsDown (n : Nat) : Nat → List Bool
  | 0 => []
  | k + 1 => n.testBit k :: bitsDown n k

/-- A multiple of a point, by its bits from the most significant. -/
def ecTimes (q : EcPoint) : List Bool → EcPoint → EcPoint
  | [], a => a
  | b :: t, a => ecTimes q t (if b then a.dbl.add q else a.dbl)

/-- A power modulo m, by the exponent's bits from the most significant. -/
def powMod (x m : Nat) : List Bool → Nat → Nat
  | [], a => a
  | b :: t, a => powMod x m t (if b then a * a % m * x % m else a * a % m)

/-- The inverse modulo a prime below 2^384 (Fermat). -/
def invMod (x m : Nat) : Nat := powMod x m (bitsDown (m - 2) 384) 1

/-- ECDSA P-384 verification of a signature (r, s) over a message hashed with SHA-384, under the key (x, y). -/
def ecdsaOk (x y r s : Nat) (m : List Byte) : Bool :=
  if ecOnCurve x y = false ∨ r = 0 ∨ ecN ≤ r ∨ s = 0 ∨ ecN ≤ s then false
  else
    let z := beNat (shaBytes m) 0 48
    let w := invMod s ecN
    let inf : EcPoint := { x := 1, y := 1, z := 0 }
    let q := (ecTimes ecG (bitsDown (z * w % ecN) 384) inf).add (ecTimes { x := x, y := y, z := 1 } (bitsDown (r * w % ecN) 384) inf)
    q.z ≠ 0 && q.x * invMod (q.z * q.z % ecP) ecP % ecP % ecN == r

end Sys2Proof.Machine
end

