-- ==== Sys2Proof/Machine/McOps.lean ====
section
/-! DEFINITION. Memory controllers: scheduling, refresh, retraining, CA parity, scrubbing, retirement and the sparing copy
(R236-R259). -/

namespace Sys2Proof.Machine

/-- MC_STATUS.TRAINED (R244). -/
def Chip.trained (c : Chip) (n : Nat) : Bool := decide (c.regFld (uMc n) 0 0x1058 0 0 = 1)
/-- MC_INFO.PRESENT. -/
def Chip.ranksPresent (c : Chip) (n : Nat) : Nat := c.regFld (uMc n) 0 0x1040 23 16

/-- Banks of a subchannel with a request that may be served: a queued read or a buffered write, of a rank that no retraining
pause holds (R237, R238, R245). -/
def Chip.bankWaits (c : Chip) (n sub bank : Nat) : Bool :=
  let m := c.mc n
  let paused := match m.pause with | some (r, _) => decide (r = bank / 32) | none => false
  !paused && ((m.queue.any fun r => decide (c.reqBank n r = (sub, bank)))
    || (if sub = 0 then m.wbufA else m.wbufB).any fun w => decide (({ c.coord n w.idx with rank := w.rank } : Coord).bankNo = bank))

/-- The bank that the scheduler picks (R237): the one named, which the command's timing favours, or, where that has no request
to serve, the first with one in rotating order from the bank after the last ACT (log 7). -/
def Chip.bankPick (c : Chip) (n sub bank : Nat) : Option Nat :=
  if c.bankWaits n sub bank then some bank
  else
    let last := if sub = 0 then (c.mc n).lastA else (c.mc n).lastB
    ((List.range 256).map fun k => (last + 1 + k) % 256).find? fun b => c.bankWaits n sub b

/-- A buffered write of a bank written to its rank. -/
def Chip.serveWrite (c : Chip) (n sub : Nat) (w : McWr) : Chip :=
  (c.modMc n fun m => if sub = 0 then { m with wbufA := m.wbufA.erase w } else { m with wbufB := m.wbufB.erase w }).commitWr n w

/-- BANK_ACTIVATE (R236, R237): the oldest request of the picked bank is served with an ACT, its bank given as 4 BG + BA; reads
before writes, but writes first in write drain. The queue's free place is taken from the admission buffer. -/
def Chip.bankActivate (c : Chip) (n sub rank bank : Nat) : Chip :=
  match c.bankPick n sub (32 * rank + bank) with
  | none => c
  | some b =>
    let m := c.mc n
    let rd := m.queue.find? fun r => decide (c.reqBank n r = (sub, b))
    let wr := (if sub = 0 then m.wbufA else m.wbufB).find? fun w =>
      decide (({ c.coord n w.idx with rank := w.rank } : Coord).bankNo = b)
    match rd, wr, (if sub = 0 then m.drainA else m.drainB) with
    | _, some w, true => c.serveWrite n sub w
    | some r, _, _ => ((c.modMc n fun m => { m with queue := m.queue.erase r }).serveRead n r).promote n
    | none, some w, _ => c.serveWrite n sub w
    | none, none, _ => c

/-- WRITE_DRAIN (R238): a buffer that reached 48 lines drains to 16. -/
def Chip.writeDrain (c : Chip) (n sub : Nat) : Chip :=
  let m := c.mc n
  if (if sub = 0 then m.drainA else m.drainB) then c.drainBuf n sub 16 else c

/-- REFRESH_SB (R240): the bank index of the rank that is due, 0 to 3 in turn. -/
def Chip.refreshSb (c : Chip) (n rank idx : Nat) : Chip :=
  if c.trained n ∧ Sparse.at (c.mc n).refIdx 0 rank = idx ∧ idx < 4 then
    c.modMc n fun m => { m with refIdx := Sparse.put m.refIdx rank ((idx + 1) % 4) }
  else c

/-- MR4_POLL (R240). -/
def Chip.mr4Poll (c : Chip) (n : Nat) (hot : Bool) : Chip := if c.trained n then c.setRegFld (uMc n) 0 0x1058 1 1 (bit hot) else c

/-- 350 ns in dc by SPEED (R239, R245). -/
def pauseLimit (speed : Nat) : Nat := [420, 490, 560, 700, 770].getD speed 770

/-- Ticks of 10 ns that a pause of d dc lasts, by SPEED (R239). -/
def pauseTicks (speed d : Nat) : Nat := (d * 100 + [120, 140, 160, 200, 220].getD speed 220 * 10 - 1) / ([120, 140, 160, 200, 220].getD speed 220 * 10)

/-- RETRAINING_PAUSE (R241, R245): PAUSE sets, and the rank's requests wait until the pause has passed; MAX_PAUSE keeps the
longest, and both LFSRs are reseeded. -/
def Chip.retrainPause (c : Chip) (n rank dur : Nat) : Chip :=
  if c.trained n ∧ c.ranksPresent n / 2 ^ rank % 2 = 1 then
    let speed := c.regFld (uMc n) 0 0x1040 4 2
    let d := min dur (pauseLimit speed)
    let c := c.setRegFld (uMc n) 0 0x105C 15 0 (max d (c.regFld (uMc n) 0 0x105C 15 0))
    let c := c.setRegFld (uMc n) 0 0x1058 2 2 1
    let (v, c) := c.draw
    c.modMc n fun m => { m with seedA := v.setWidth 32, seedB := (v >>> 32).setWidth 32,
                                pause := some (rank, c.mtime.toNat + pauseTicks speed d) }
  else c

/-- Pauses whose end has come (R245). -/
def Chip.pauseTick (c : Chip) : Chip :=
  (List.range 12).foldl (fun (c : Chip) n => match (c.mc n).pause with
    | some (_, t) => if t ≤ c.mtime.toNat then (c.modMc n fun m => { m with pause := none }).setRegFld (uMc n) 0 0x1058 2 2 0 else c
    | none => c) c

/-- CA_PARITY_ALERT (R246): the third in a row on a rank is persistent. Which of its held requests cannot then complete is
free: such a read returns poison with a deferred record, such a write is lost with an uncorrected-contained record. -/
def Chip.caParity (c : Chip) (n rank : Nat) : Chip :=
  let c := c.logErr (uMc n) { cls := .corrected, struct := 0x10, indexB := rank }
  let c := c.modMc n fun m => { m with
    ranks := (Sparse.upd m.ranks {} rank fun r => r).map fun (e : Nat × RankCnt) => (e.1, { e.2 with cap := if e.1 = rank then e.2.cap + 1 else 0 }) }
  if (Sparse.at (c.mc n).ranks {} rank).cap < 3 then c
  else
    let c := (c.mc n).queue.foldl (fun (c : Chip) r =>
      if (c.coord n r.loc).rank ≠ rank then c
      else
        let (v, c) := c.pick 2
        if v = 0 then c
        else ((c.modMc n fun m => { m with queue := m.queue.erase r }).logErr (uMc n)
          { cls := .deferred, struct := 0x10, indexB := rank, addr := r.msg.line * 64, at_ := 1 }).deliver (.mc n) r.msg 0 true) c
    let lose (c : Chip) (w : McWr) : Chip :=
      if w.rank ≠ rank then c
      else
        let (v, c) := c.pick 2
        if v = 0 then c
        else (c.modMc n fun m => { m with wbufA := m.wbufA.erase w, wbufB := m.wbufB.erase w }).logErr (uMc n)
          { cls := .uncorrected, struct := 0x10, indexB := rank }
    let c := (((c.mc n).wbufA ++ (c.mc n).wbufB).foldl lose c).promote n
    if c.regFld (uMc n) 0 0x104C 17 17 = 1 ∧ c.faulty (uMc n) 0 0x104C = false then c.trigger n rank .caParity else c

/-- The end of a patrol pass (R248, R258). -/
def Chip.patrolWrap (c : Chip) (n : Nat) : Chip :=
  (c.orReg (uMc n) 0 0x1054 0x200).modMc n fun m =>
    { m with patrol := 0, passes := m.passes + 1, period := c.regFld (uMc n) 0 0x1054 7 0,
             ranks := m.ranks.map fun (e : Nat × RankCnt) => (e.1, { e.2 with period := 0 }) }

/-- PATROL_READ (R248, R249, R254): the next line of the active ranks, then of a READY spare; source and spare are skipped
while COPYING. -/
def Chip.patrolRead (c : Chip) (n : Nat) (errs : List Nat) : Chip :=
  if c.trained n = false ∨ c.regFld (uMc n) 0 0x1054 8 8 = 0 ∨ c.faulty (uMc n) 0 0x1054 = true then c
  else
    let act := (c.mc n).logical.length * c.rankLines n
    let total := act + (if c.spareState n = 1 then c.rankLines n else 0)
    let l := (c.mc n).patrol
    if total ≤ l then c.patrolWrap n
    else
      let co := c.coord n l
      let co := if l < act then co else { co with rank := c.spareRank n }
      let skip := decide (c.spareState n = 2) && decide (co.rank = c.spareSource n)
      let c := if skip then c else (c.readDram n l co errs (.patrol l)).2.2.2
      let c := c.modMc n fun m => { m with patrol := l + 1 }
      if total ≤ l + 1 then c.patrolWrap n else c

/-- RANK_RETIREMENT (R250, R252): a trigger that has occurred in READY starts the retirement; of several, the one on the
lowest-numbered rank. -/
def Chip.rankRetirement (c : Chip) (n rank : Nat) (cause : RetCause) : Chip :=
  if (c.mc n).trig.contains (rank, cause) && (c.mc n).trig.all fun t => decide (rank ≤ t.1) then c.retireRank n rank cause else c

/-- A notice of the copy to the Bellwether controller (R255). -/
def Chip.copyNotice (c : Chip) (n : Nat) : Chip :=
  (c.modMc n fun m => { m with notices := m.notices + 1 }).send { kind := .ncWr, src := .mc n, dst := .unit uBellwether, line := 0, size := 8 }

/-- COPY_OPERATION (R252-R255): the line at CP goes to the spare's write buffer, once that has room. -/
def Chip.copyOp (c : Chip) (n : Nat) (errs : List Nat) : Chip :=
  let i := (c.mc n).cp
  if c.spareState n ≠ 2 ∨ c.rankLines n ≤ i ∨ 64 ≤ c.wrUsed n (i % 2) then c
  else
    let src := c.spareSource n
    let lr := ((c.mc n).logical.findIdx? (· = src)).getD 0
    let l := lr * c.rankLines n + i
    let co := c.coord n l
    let (d, p, _, c) := c.rankRead n l { co with rank := src } errs (.copy l)
    let c := c.pushWr n co.sub ⟨c.spareRank n, i, d, p⟩
    let c := c.modMc n fun m => { m with cp := i + 1, poisoned := if p then m.poisoned + 1 else m.poisoned }
    let c := if p then c.copyNotice n else c
    if (i + 1) % 2 ^ 20 = 0 then c.copyNotice n else c

/-- COPY_DONE (R252, steps 4 and 5): no command goes to the source rank any more, the writes still buffered for it included,
which the spare has too. -/
def Chip.copyDone (c : Chip) (n : Nat) : Chip :=
  if c.spareState n ≠ 2 ∨ (c.mc n).cp < c.rankLines n then c
  else
    let src := c.spareSource n
    let c := c.setRegFld (uMc n) 0 0x1048 1 0 3
    let c := c.orReg (uMc n) 0 0x1058 (BitVec.ofNat 32 (2 ^ (8 + src)))
    let c := c.modMc n fun m => { m with
      logical := m.logical.map fun r => if r = src then c.spareRank n else r
      wbufA := m.wbufA.filter fun w => !decide (w.rank = src), wbufB := m.wbufB.filter fun w => !decide (w.rank = src) }
    let ranks := c.flash.ranks.map fun (r : RankRet) => if r.chan = n then { r with done := true } else r
    ({ c with flash := { c.flash with ranks := ranks } }).copyNotice n

/-- The spare of a channel set or removed by MC_SPARE_CFG: STATE and the logical ranks follow (R258). -/
def Chip.spareSet (c : Chip) (n : Nat) : Chip :=
  let on := decide (c.regFld (uMc n) 0 0x1044 3 3 = 1)
  let c := c.setRegFld (uMc n) 0 0x1048 1 0 (bit on)
  let lr := logicalRanks (c.regFld (uMc n) 0 0x1040 1 0) (c.ranksPresent n) (if on then some (c.spareRank n) else none)
    (c.regFld (uMc n) 0 0x1058 15 8)
  c.modMc n fun m => { m with logical := lr }

/-- An enabled interleave set names a channel (R258). -/
def Chip.setNamesChan (c : Chip) (n : Nat) : Bool :=
  c.msetsOn.any fun k => !(c.mset k).cxl && ((c.mset k).chan.take (c.mset k).w).contains n

end Sys2Proof.Machine
end

