-- ==== Sys2Proof/Machine/Mesh.lean ====
section
/-! DEFINITION. The routers of the mesh: networks, flits, paths, virtual channels, credits and arbitration (R204-R218, R221,
R434). They move the flits of the messages in `Chip.mesh` as ticks pass; a command that brings a message to its destination is its
arrival, at whatever time it comes (log 7). -/

namespace Sys2Proof.Machine

/-! Networks, flits and their sideband (R204-R209). -/

/-- The four networks (R204). -/
inductive MeshClass where
  | req | snp | rsp | dat
deriving DecidableEq, Repr

/-- The network of a message (R156, R204). -/
def classOf : MsgKind → MeshClass
  | .rdShared => .req | .rdOwn => .req | .rdOnce => .req | .upgrade => .req | .putDirty => .req | .putClean => .req
  | .redOp => .req | .ncRd => .req | .ncWr => .req
  | .fwdShared => .snp | .fwdOwn => .snp | .inval => .snp | .close => .snp
  | .ack => .rsp | .snpNoData => .rsp | .wbAck => .rsp | .wbAckStale => .rsp | .cmp => .rsp
  | .data => .dat | .fwdData => .dat | .wbData => .dat

/-- Number of a network, in the order of R204. -/
def MeshClass.num : MeshClass → Nat
  | .req => 0 | .snp => 1 | .rsp => 2 | .dat => 3

/-- Payload bytes of a flit (R204). -/
def MeshClass.payload : MeshClass → Nat
  | .req => 16 | .snp => 16 | .rsp => 8 | .dat => 64

/-- Flits of a message (R205). -/
def flitsOf (k : MsgKind) : Nat := if k = .redOp then 5 else 1

/-- A message is of a privileged agent (R214): the Bellwether controller, a rank-sparing notice of a memory controller, and the Close,
spill and refill traffic of a home. -/
def Chip.privMsg (c : Chip) (m : Msg) : Bool :=
  decide (m.src = .unit uBellwether) || decide (m.kind = .close) || c.inSpill (m.line * 64)
    || (match m.src with | .mc _ => decide (m.kind = .ncWr) | _ => false)

/-- PRIO of a message (R213). -/
def prioOf (m : Msg) : Nat :=
  let eth := match m.src with | .unit u => decide (kindOf u = .ethPort) | _ => false
  let shears := match m.src with | .unit u => decide (kindOf u = .shears) | _ => false
  let mcReq := match m.src with | .mc _ => decide (m.kind = .ncWr) | _ => false
  let home := match m.src with | .home _ => true | _ => false
  if m.src = .unit uBellwether then 1
  else if shears || mcReq then 0
  else if classOf m.kind ≠ .req then 2
  else if home then 2
  else if eth && decide (m.kind = .ncWr) && m.stash.isSome then 2
  else 1

/-- Urgency at an arbitration (R214). -/
def urgency (prio : Nat) (priv : Bool) (age : Nat) : Nat :=
  if !priv then prio
  else if 128 ≤ age then 3 else if 32 ≤ age then max prio 2 else if 8 ≤ age then max prio 1 else prio

/-- The VC that an urgency requests (R215). -/
def vcFor (u : Nat) : Nat := if u ≤ 1 then 0 else if u = 2 then 1 else 2

/-- Bits 47:0 of a flit's sideband (R208). -/
def Chip.sideband (c : Chip) (m : Msg) (idx vc : Nat) : BitVec 48 :=
  let d := agentPos c.standby m.dst
  let s := agentPos c.standby m.src
  BitVec.ofNat 48 (d.1 % 16 + 16 * (d.2 % 16) + 2 ^ 8 * agentCode m.dst + 2 ^ 10 * (s.1 % 16) + 2 ^ 14 * (s.2 % 16) + 2 ^ 18 * agentCode m.src
    + 2 ^ 20 * (vc % 4) + 2 ^ 22 * prioOf m + 2 ^ 24 * bit (c.privMsg m) + 2 ^ 25 * (m.birth % 65536)
    + 2 ^ 41 * bit (decide (idx = 0)) + 2 ^ 42 * bit (decide (idx + 1 = flitsOf m.kind)))

/-- A flit's 64-bit sideband, its CRC on top (R208). -/
def Chip.sideband64 (c : Chip) (m : Msg) (idx vc : Nat) : BitVec 64 :=
  Config.flitCrc (c.sideband m idx vc) m.mask m.data ++ c.sideband m idx vc

/-! Paths (R210). -/

/-- Coordinates from a to b, both included. -/
def axisPath (a b : Nat) : List Nat :=
  if a ≤ b then (List.range (b - a + 1)).map (a + ·) else (List.range (a - b + 1)).map (a - ·)

/-- The stops that a message passes, its own first (R210): the edge link, the row, the column, the edge link. -/
def meshPath (a b : Nat × Nat) : List (Nat × Nat) :=
  if a = b then [a]
  else
    let ai := (toInterior a.1, toInterior a.2)
    let bi := (toInterior b.1, toInterior b.2)
    (if a = ai then [] else [a]) ++ (axisPath ai.1 bi.1).map (fun x => (x, ai.2)) ++ ((axisPath ai.2 bi.2).drop 1).map (fun y => (bi.1, y))
      ++ (if b = bi then [] else [b])

/-- A link crosses dies (R22): an edge link, and one across the cut between 5 and 6. -/
def hopCrosses (a b : Nat × Nat) : Bool := decide ((pathHD a b).2 ≠ 0)

/-- Direction from which a stop is entered: 0 north, 1 east, 2 south, 3 west. -/
def sideOf (at_ from_ : Nat × Nat) : Nat :=
  if from_.2 < at_.2 then 0 else if at_.1 < from_.1 then 1 else if at_.2 < from_.2 then 2 else 3

/-- The link into a stop, on a network (R419: by the unit at its receiving end). -/
def linkInto (k : MeshClass) (at_ from_ : Nat × Nat) : LinkId :=
  let u := if at_ = (toInterior at_.1, toInterior at_.2) then
      uTile (25 * ((at_.1 - 1) / 5 + 2 * ((at_.2 - 1) / 5)) + 5 * ((at_.2 - 1) % 5) + (at_.1 - 1) % 5)
    else ((List.range 27).find? fun u => decide (5 ≤ u) && decide (edgePos u = at_)).getD 0
  { unit := u, num := 4 * k.num + sideOf at_ from_ }

/-! Keys of buffers, outputs and local ports. -/

def stopKey (k : MeshClass) (p : Nat × Nat) : Nat := (k.num * 16 + p.1) * 16 + p.2
/-- An input buffer by network, stop, side and VC. -/
def bufKey (k : MeshClass) (p : Nat × Nat) (side vc : Nat) : Nat := (stopKey k p * 8 + side) * 4 + vc

/-- The link state of a link; the fault commands change it (R221, R434). -/
def linkKey (l : LinkId) : Nat := l.unit * 2 ^ 16 + l.num
def Chip.link (c : Chip) (l : LinkId) : LinkSt := Sparse.at c.links {} (linkKey l)
def Chip.modLink (c : Chip) (l : LinkId) (f : LinkSt → LinkSt) : Chip := { c with links := Sparse.upd c.links {} (linkKey l) f }

def Worm.stop (w : Worm) (h : Nat) : Nat × Nat := w.path.getD h (15, 15)

/-- The buffer that a flit holds: at its stop, on the side of the stop before. -/
def Worm.bufOf (w : Worm) (f : Flit) : Nat :=
  bufKey (classOf w.msg.kind) (w.stop f.hop) (sideOf (w.stop f.hop) (w.stop (f.hop - 1))) f.vc

/-- Flits of a worm that have passed a stop of its path. -/
def Worm.passed (w : Worm) (h : Nat) : Nat := if h = 0 then w.sent else (w.flits.filter fun f => decide (h < f.hop)).length + w.done

/-! One mc (R206, R215, R216). -/

/-- A flit that asks for an output: the worm's place in the list, the flit's number, the stop's place in the path, the side it comes
from (4 and up: the agents of the stop), the VC it asks for, its urgency and its AGE. -/
structure Bid where
  worm : Nat
  idx  : Nat
  hop  : Nat
  side : Nat
  vc   : Nat
  urg  : Nat
  age  : Nat
deriving DecidableEq, Repr

/-- Bids of one worm: its next flit at the source, and the first of its flits in each input buffer that has come and that no other
worm's flit stands before. -/
def MeshNet.bidsOf (n : MeshNet) (c : Chip) (i : Nat) (w : Worm) : List Bid :=
  let age := c.age w.msg
  let urg := urgency (prioOf w.msg) (c.privMsg w.msg) age
  let bid (idx hop side : Nat) : Bid :=
    { worm := i, idx := idx, hop := hop, side := side, vc := if idx = 0 then vcFor urg else w.vcs.getD hop 0, urg := urg, age := age }
  let first := (n.worms.take i).all fun v =>
    v.msg.src ≠ w.msg.src || decide (classOf v.msg.kind ≠ classOf w.msg.kind) || decide (flitsOf v.msg.kind ≤ v.sent)
  (if first && decide (w.sent < flitsOf w.msg.kind) then [bid w.sent 0 (4 + agentCode w.msg.src)] else [])
    ++ (w.flits.filter fun f => decide (f.ready ≤ n.now)
        && (n.worms.all fun v => v.flits.all fun g => decide (v.bufOf g ≠ w.bufOf f) || decide (f.ready ≤ g.ready))).map fun f =>
      bid f.idx f.hop (sideOf (w.stop f.hop) (w.stop (f.hop - 1)))

/-- Flits that an input buffer holds: 8 on a priority VC; on the escape VC 4, or 8 behind a die crossing (R215). -/
def bufDepth (vc : Nat) (crosses : Bool) : Nat := if vc = 2 && !crosses then 4 else 8

/-- The next input has a credit for the VC of a bid, or the bid stands at its last stop (R215). -/
def MeshNet.credit (n : MeshNet) (b : Bid) : Bool :=
  match n.worms[b.worm]? with
  | none => false
  | some w =>
    let at_ := w.stop b.hop
    let next := w.stop (b.hop + 1)
    let key := bufKey (classOf w.msg.kind) next (sideOf next at_) b.vc
    let used := (n.worms.flatMap fun v => v.flits.map v.bufOf).count key + (n.owed.map (·.1)).count key
    decide (b.hop + 1 = w.path.length) || decide (used < bufDepth b.vc (hopCrosses at_ next))

/-- A bid may win (R206, R215): the next input has a credit for its VC, no other message holds that VC of the link, and the link works
and is not in a pause. At its last stop RSP and DAT sink; REQ and SNP stay until their destination takes them. -/
def MeshNet.mayWin (n : MeshNet) (c : Chip) (b : Bid) : Bool :=
  match n.worms[b.worm]? with
  | none => false
  | some w =>
    let k := classOf w.msg.kind
    let at_ := w.stop b.hop
    if b.hop + 1 = w.path.length then decide (k = .rsp) || decide (k = .dat)
    else
      let next := w.stop (b.hop + 1)
      let l := c.link (linkInto k next at_)
      let held := n.worms.any fun v => decide (v ≠ w) && decide (classOf v.msg.kind = k) && (List.range v.path.length).any fun h =>
        decide (v.stop h = at_) && decide (v.stop (h + 1) = next) && decide (v.vcs[h]? = some b.vc)
          && decide (v.passed h < flitsOf v.msg.kind)
      n.credit b && !l.down && decide (l.pause ≤ c.mtime.toNat) && (b.idx ≠ 0 || !held)

/-- Round-robin distance of an input after the last winner. -/
def MeshNet.turn (n : MeshNet) (key side : Nat) : Nat := (side + 8 - (Sparse.at n.last 7 key + 1) % 8) % 8

/-- The better of two bids for an output (R216). -/
def MeshNet.better (n : MeshNet) (oldest : Bool) (key : Nat) (a b : Bid) : Bool :=
  if !oldest && decide (a.urg ≠ b.urg) then decide (b.urg < a.urg)
  else if a.age ≠ b.age then decide (b.age < a.age)
  else decide (n.turn key a.side ≤ n.turn key b.side)

def MeshNet.best (n : MeshNet) (oldest : Bool) (key : Nat) (bs : List Bid) : Option Bid :=
  bs.foldl (fun b x => match b with
    | none => some x
    | some v => if n.better oldest key v x then some v else some x) none

/-- The output that a bid asks for, by network, stop and next stop; at the last stop, the agent's. -/
def MeshNet.outKey (n : MeshNet) (b : Bid) : Nat :=
  match n.worms[b.worm]? with
  | none => 0
  | some w =>
    let k := classOf w.msg.kind
    2 * (8 * stopKey k (w.stop b.hop) + if b.hop + 1 = w.path.length then 4 + agentCode w.msg.dst
      else sideOf (w.stop b.hop) (w.stop (b.hop + 1)))

/-- The local port of a stop, which its agents share, by network. -/
def MeshNet.portKey (n : MeshNet) (b : Bid) : Nat :=
  match n.worms[b.worm]? with
  | none => 0
  | some w => 2 * (8 * stopKey (classOf w.msg.kind) (w.stop 0)) + 1

/-- A winner leaves its stop (R212, R215): it reaches the next in 2 mc, 4 over a die crossing, and the credit of the place that it
leaves goes back over the link that it came by. -/
def MeshNet.win (n : MeshNet) (b : Bid) : MeshNet :=
  match n.worms[b.worm]? with
  | none => n
  | some w =>
    let at_ := w.stop b.hop
    let back : List (Nat × Nat) := match w.flits.find? fun f => decide (f.idx = b.idx) with
      | some f => [(w.bufOf f, n.now + if hopCrosses (w.stop (b.hop - 1)) at_ then 4 else 2)]
      | none => []
    let out := b.hop + 1 = w.path.length
    let on : List Flit := if out then [] else
      [{ idx := b.idx, hop := b.hop + 1, vc := b.vc, ready := n.now + if hopCrosses at_ (w.stop (b.hop + 1)) then 4 else 2 }]
    let w' : Worm := { w with
      vcs := if b.idx = 0 then w.vcs ++ [b.vc] else w.vcs
      sent := if b.hop = 0 then w.sent + 1 else w.sent
      done := if out then w.done + 1 else w.done
      flits := w.flits.filter (fun f => f.idx ≠ b.idx) ++ on }
    { n with worms := n.worms.set b.worm w', owed := n.owed ++ back,
             last := Sparse.put (if b.hop = 0 then Sparse.put n.last (n.portKey b) b.side else n.last) (n.outKey b) b.side }

/-- What the agents' interfaces see of the winners, and of the head flits without a credit (R466). -/
def MeshNet.sees (n : MeshNet) (wins stuck : List Bid) : List FlitSeen :=
  wins.flatMap (fun b => match n.worms[b.worm]? with
    | none => []
    | some w =>
      let dat := decide (classOf w.msg.kind = .dat)
      (if b.hop = 0 then [{ pos := w.stop 0, agent := agentCode w.msg.src, ctr := if dat then 0 else 2, at_ := n.now }] else [])
        ++ if dat && decide (b.hop + 1 = w.path.length) then
          [{ pos := w.stop b.hop, agent := agentCode w.msg.dst, ctr := 1, at_ := n.now }] else [])
    ++ stuck.filterMap fun b => (n.worms[b.worm]?).map fun w =>
      { pos := w.stop 0, agent := agentCode w.msg.src, ctr := 3, at_ := n.now }

/-- One mc: each local port picks a bid, each output picks one among the ports and the inputs, and the winners move. -/
def Chip.meshCycle (c : Chip) : Chip :=
  let n := { c.net with owed := c.net.owed.filter fun o => decide (c.net.now < o.2) }
  let oldest := decide (c.mt % 8 = 7)
  let asks := (List.range n.worms.length).flatMap fun i => match n.worms[i]? with
    | some w => n.bidsOf c i w
    | none => []
  let bids := asks.filter fun b => n.mayWin c b
  let stuck := asks.filter fun b => decide (b.hop = 0) && decide (b.idx = 0) && !n.credit b
  let local_ := bids.filter fun b => decide (b.hop = 0)
  let ports := ((local_.map n.portKey).eraseDups).filterMap fun k => n.best oldest k (local_.filter fun b => decide (n.portKey b = k))
  let all := ports ++ bids.filter fun b => decide (b.hop ≠ 0)
  let wins := ((all.map n.outKey).eraseDups).filterMap fun k => n.best oldest k (all.filter fun b => decide (n.outKey b = k))
  let seen := n.seen ++ n.sees wins stuck
  let n := wins.foldl MeshNet.win n
  { c with net := { n with now := n.now + 1, seen := seen }, mt := (c.mt + 1) % 2 ^ 21 }

/-- A worm is that of a message in the mesh. -/
def Worm.isOf (w : Worm) (m : Msg) : Bool :=
  decide (w.msg.kind = m.kind) && decide (w.msg.src = m.src) && decide (w.msg.dst = m.dst) && decide (w.msg.line = m.line)
    && decide (w.msg.birth = m.birth)

/-- The worms of the messages in the mesh: a message that has arrived leaves no flit, and one that was sent since waits at its source
(R218). -/
def Chip.meshSync (c : Chip) : List Worm :=
  let (kept, new) := c.mesh.foldl (fun (acc : List Worm × List Worm) m =>
    match c.net.worms.find? fun w => w.isOf m && !acc.1.contains w with
    | some w => (acc.1 ++ [w], acc.2)
    | none => (acc.1, acc.2 ++ [{ msg := m, path := meshPath (agentPos c.standby m.src) (agentPos c.standby m.dst) }])) ([], [])
  (c.net.worms.filter fun w => kept.contains w) ++ new

/-- No message in flight goes to the stop at (4, 0) (R211). -/
def Chip.edge40Clear (c : Chip) : Bool := c.mesh.all fun m => decide (agentPos c.standby m.dst ≠ (4, 0))

/-- A retiring (4, 0) edge link goes out of use once what was in flight to its stop has been delivered; the standby stop takes over
(R211). -/
def Chip.edgeRetired (c : Chip) : Chip :=
  if (c.links.any fun e => e.2.retiring) && c.edge40Clear then
    { c with standby := true, links := c.links.map fun (e : Nat × LinkSt) =>
        (e.1, if e.2.retiring then { e.2 with retiring := false, down := true } else e.2) }
  else c

/-- The mesh through n mc (R209, R215, R216); nothing but MT moves while it is empty. -/
def Chip.meshRun (c : Chip) (n : Nat) : Chip :=
  let c := c.edgeRetired
  if c.mesh.isEmpty then { c with mt := (c.mt + n) % 2 ^ 21, net := { c.net with worms := [], owed := [], seen := [] } }
  else (List.range n).foldl (fun (c : Chip) _ => c.meshCycle) { c with net := { c.net with worms := c.meshSync, seen := [] } }

/-- A retried flit holds up the flits on its link by 8 mc, 12 on a die crossing (R221). -/
def Chip.delayLink (c : Chip) (l : LinkId) : Chip :=
  let late (w : Worm) (f : Flit) : Flit :=
    let a := w.stop (f.hop - 1)
    let b := w.stop f.hop
    if linkInto (classOf w.msg.kind) b a = l ∧ c.net.now < f.ready then { f with ready := f.ready + if hopCrosses a b then 12 else 8 } else f
  { c with net := { c.net with worms := c.net.worms.map fun w => { w with flits := w.flits.map (late w) } } }

end Sys2Proof.Machine
end

