-- ==== Sys2Proof/Machine/BusPort.lean ====
section
/-! DEFINITION. PCIe and CXL ports: windows, inbound and outbound requests, completions, timeouts, link states (R360-R378,
R383, R387). The registers PX_LINK and PX_ERRSTAT of port p are at 0x1048 and 0x1054 of its block. -/

namespace Sys2Proof.Machine

/-- Sub-links of a BIFUR setting: lanes of each (R362). -/
def sublinkLanes (bifur : Nat) : List Nat :=
  match bifur with
  | 0 => [16] | 1 => [8, 8] | 2 => [8, 4, 4] | _ => [4, 4, 4, 4]

def Chip.sublinks (c : Chip) (p : Nat) : List Nat :=
  if p = 0 ∧ c.endpoint then [16] else sublinkLanes (c.regFld (uPx p) 0 0x1040 2 1)

/-! Windows (R366, R368, R369). -/

/-- The shadow of a window as a Window. -/
def Chip.shadow (c : Chip) (p w : Nat) : Window :=
  let u := uPx p
  let cfg := c.reg u w 0x105C
  let r64 (o : Nat) : Nat := (c.reg u w o).toNat + 2 ^ 32 * (c.reg u w (o + 4)).toNat
  { en := fld cfg 0 0 = 1
    type := match fld cfg 3 1 with | 0 => .outMem | 1 => .outCfg | 2 => .inDma | _ => .peer
    sub := fld cfg 5 4, pport := fld cfg 9 8, psub := fld cfg 11 10
    base := r64 0x1060, limit := r64 0x1068, xlat := r64 0x1070, cfg := cfg }

def Window.overlaps (a b : Window) : Bool := decide (a.base < b.limit) && decide (b.base < a.limit)

/-- The commit checks of R368; a shadow with EN = 0 passes. -/
def Chip.windowOk (c : Chip) (p w : Nat) : Bool :=
  let s := c.shadow p w
  let others := ((c.px p).wins.filter fun e => decide (e.1 ≠ w) && e.2.en).map (·.2)
  let lo := 0x000F100000000000 + p * 0x00003C0000000000
  let root (q : Nat) : Bool := !(decide (q = 0) && c.endpoint)
  !s.en || (
    decide (s.base < s.limit)
    && (!s.type.outbound || (decide (lo ≤ s.base) && decide (s.limit ≤ lo + 0x00003C0000000000)
        && !(others.any fun o => o.type.outbound && o.overlaps s)))
    && (decide (s.type ≠ .outCfg) || (decide (s.limit - s.base ≤ 2 ^ 28) && decide (s.xlat % 256 ≤ s.xlat / 256 % 256) && decide (s.xlat / 2 ^ 16 = 0)))
    && (decide (s.type = .outCfg) || decide (s.xlat % 4096 = 0))
    && (s.type.outbound || !(others.any fun o => !o.type.outbound && decide (o.sub = s.sub) && o.overlaps s))
    && (decide (s.type ≠ .peer) || (decide (s.psub < (c.sublinks s.pport).length) && decide (s.pport ≠ p ∨ s.psub ≠ s.sub) && root p && root s.pport))
    && decide (s.sub < (c.sublinks p).length)
    && (root p || decide (s.type = .outMem)))

/-- The commit: every shadow field becomes active at once (R368, R369). -/
def Chip.windowSet (c : Chip) (p w : Nat) : Chip := c.modPx p fun x => { x with wins := Sparse.put x.wins w (c.shadow p w) }

/-- The enabled inbound window of a sub-link that matches an address (R366). -/
def Chip.inWindow (c : Chip) (p s a : Nat) : Option Window :=
  ((c.px p).wins.find? fun e => e.2.en && !e.2.type.outbound && decide (e.2.sub = s) && decide (e.2.base ≤ a) && decide (a < e.2.limit)).map (·.2)

/-! Inbound requests (R366, R370, R371, R383, R386). -/

/-- Device ID of a requester on a port (R385). -/
def deviceId (p rid : Nat) : Nat := p * 2 ^ 16 + rid % 2 ^ 16

/-- A TLP arrives at a running port over a link that is up. -/
def Chip.arrives (c : Chip) (t : Tlp) : Bool :=
  c.unitRuns (uPx t.port) && !c.held (uPx t.port) && ((c.px t.port).subAt t.sub).up

/-- An inbound write to translated pages: memory, a window of a port, or an interrupt file; false when some page is refused
(R366, R370, R383). -/
def Chip.inboundPages (c : Chip) (t : Tlp) (iova : Nat) (bs : List Byte) : Bool × Chip :=
  let dev := deviceId t.port t.rid
  let rec go (c : Chip) (a : Nat) (bs : List Byte) (fuel : Nat) : Bool × Chip :=
    match fuel with
    | 0 => (true, c)
    | fuel + 1 =>
      if bs.isEmpty then (true, c)
      else
        let k := min bs.length (4096 - a % 4096)
        match c.ioTranslate t.port dev t.pasid a true with
        | (none, c) => (false, c)
        | (some pa, c) =>
          match c.region pa with
          | .imsic => if pa % 4096 = 0 then (true, c.msiDeliver pa (leNat (bs.take 4))) else (false, c)
          | _ => match c.physWrite pa (bs.take k) t.ep 0 fun _ => none with
            | none => (false, c)
            | some c => go c (a + k) (bs.drop k) fuel
  go c iova bs (bs.length / 4096 + 2)

/-- An inbound posted memory write (R366, R370, R371). -/
def Chip.inboundWrite (c : Chip) (t : Tlp) : Chip :=
  if !c.arrives t then c
  else
    let c := c.noteEp t.port t.sub t.ep
    match c.inWindow t.port t.sub t.addr with
    | none => c.pxErr t.port 3
    | some w =>
      if w.type = .peer then c.pxPut w.pport { sub := w.psub, kind := .memWrite, addr := w.map t.addr, bytes := t.bytes, rid := t.rid, pasid := t.pasid, ep := t.ep }
      else
        let (ok, c) := c.inboundPages t (w.map t.addr) t.bytes
        let c := if t.ep && ok then c.logErr (uPx t.port) { cls := .deferred, struct := 0x17 } else c
        if ok then c else c.pxErr t.port 3

/-- An inbound memory read and its completion (R366, R370, R371). -/
def Chip.inboundRead (c : Chip) (t : Tlp) : Chip :=
  if !c.arrives t then c
  else
    let ur (c : Chip) : Chip := (c.pxErr t.port 3).pxPut t.port { sub := t.sub, kind := .unsupported, addr := t.addr, rid := t.rid }
    match c.inWindow t.port t.sub t.addr with
    | none => ur c
    | some w =>
      if w.type = .peer then
        match (c.px w.pport).request { sub := w.psub, kind := .memRead, addr := w.map t.addr, len := t.len, rid := t.rid, pasid := t.pasid }
            (.peer t.port t.sub t.rid 0) t.len false with
        | some x => c.modPx w.pport fun _ => x
        | none => c
      else
        let dev := deviceId t.port t.rid
        let rec go (c : Chip) (a left : Nat) (acc : List Byte) (p : Bool) (fuel : Nat) : Option (List Byte × Bool) × Chip :=
          match fuel with
          | 0 => (some (acc, p), c)
          | fuel + 1 =>
            if left = 0 then (some (acc, p), c)
            else
              let k := min left (4096 - a % 4096)
              match c.ioTranslate t.port dev t.pasid a false with
              | (none, c) => (none, c)
              | (some pa, c) => match c.busRead pa k with
                | (.ok bs q, c) => go c (a + k) (left - k) (acc ++ bs) (p || q) fuel
                | (_, c) => (none, c)
        match go c (w.map t.addr) t.len [] false (t.len / 4096 + 2) with
        | (none, c) => ur c
        | (some (bs, p), c) => c.pxPut t.port { sub := t.sub, kind := .cpl, addr := t.addr, bytes := bs, len := t.len, rid := t.rid, ep := p }

/-- An MSI write of a device (R383): translated through the MSI page table of its context when it has one. -/
def Chip.msiIn (c : Chip) (t : Tlp) : Chip :=
  if !c.arrives t then c
  else match c.inWindow t.port t.sub t.addr with
    | none => c.pxErr t.port 3
    | some w =>
      if w.type = .peer then c.pxPut w.pport { sub := w.psub, kind := .memWrite, addr := w.map t.addr, bytes := t.bytes, rid := t.rid }
      else match c.ioTranslate t.port (deviceId t.port t.rid) t.pasid (w.map t.addr) true with
        | (none, c) => c.pxErr t.port 3
        | (some pa, c) => match c.region pa with
          | .imsic => if pa % 4096 = 0 then c.msiDeliver pa (leNat (t.bytes.take 4)) else c.pxErr t.port 3
          | .memory => c.msiDeliver pa (leNat (t.bytes.take 4))
          | _ => c.pxErr t.port 3

/-! Outbound requests (R365-R367). -/

/-- Data of a read answered to the agent that asked, in its place in the line (R170). -/
def Chip.answerRead (c : Chip) (p : Nat) (m : Msg) (bs : List Byte) (poison : Bool) : Chip :=
  c.send { kind := .data, src := .unit (uPx p), dst := m.src, line := m.line, off := m.off, size := m.size,
           data := lineOf bs <<< (8 * m.off), poison := poison }

/-- The Cmp that ends an access, with STATUS (R44, R156). -/
def Chip.answerCmp (c : Chip) (p : Nat) (m : Msg) (err : Bool) : Chip :=
  c.send { kind := .cmp, src := .unit (uPx p), dst := m.src, line := m.line, off := m.off, size := m.size, err := err }

/-- Bytes that a write carries. -/
def msgPayload (m : Msg) : List Byte := ((lineBytes m.data).drop m.off).take m.size

/-- An NcRd or NcWr at a port (R366, R367): sent through the outbound window that matches, or refused (R365). -/
def Chip.outbound (c : Chip) (p : Nat) (m : Msg) : Chip :=
  if m.dst ≠ .unit (uPx p) ∨ (m.kind ≠ .ncRd ∧ m.kind ≠ .ncWr) then c
  else
    let pa := m.line * 64 + m.off
    match (if c.unitRuns (uPx p) then c.outWindow p pa else none) with
    | none => (c.take m).answerCmp p m true
    | some w =>
      let s := w.sub
      let up := ((c.px p).subAt s).up
      let o := pa - w.base
      let bus := o / 2 ^ 20 % 256
      let dev := o / 2 ^ 15 % 32
      let sec := w.xlat % 256
      let sub_ := w.xlat / 256 % 256
      let write := decide (m.kind = .ncWr)
      let np (t : TlpOut) (vid : Bool) : Chip :=
        match (c.px p).request t (.mesh m) m.size vid with
        | some x => (c.take m).modPx p fun _ => x
        | none => c
      if w.type = .outMem then
        if write then
          ((c.take m).pxPut p { sub := s, kind := .memWrite, addr := w.map pa, bytes := msgPayload m, ep := m.poison }).answerCmp p m false
        else if !up then (c.take m).answerCmp p m true
        else np { sub := s, kind := .memRead, addr := w.map pa, len := m.size } false
      else if bus = sec ∧ dev ≠ 0 then
        if write then (c.take m).answerCmp p m false
        else (c.take m).answerRead p m (List.replicate m.size 0xFF) false
      else if bus ≠ sec ∧ ¬ (sec < bus ∧ bus ≤ sub_) then (c.take m).answerCmp p m true
      else if !up then (c.take m).answerCmp p m true
      else
        let kind : TlpKind := if bus = sec then (if write then .cfgWrite0 else .cfgRead0) else (if write then .cfgWrite1 else .cfgRead1)
        np { sub := s, kind := kind, addr := o, bytes := if write then msgPayload m else [], len := m.size } (!write && decide (o % 4096 = 0))

/-! Completions and timeouts (R372-R374, R377, R378). -/

/-- A request answered with its completion: `data` from the device, poisoned or not, or an error. -/
def Chip.npAnswer (c : Chip) (p : Nat) (r : NpReq) (bs : List Byte) (ep ok : Bool) : Chip :=
  match r.who with
  | .peer q s rid tag => c.pxPut q { sub := s, kind := if ok then .cpl else .unsupported, addr := 0, bytes := bs, len := r.len, tag := tag, rid := rid, ep := ep }
  | .mesh m =>
    match m.kind with
    | .ncRd => if ok then c.answerRead p m bs ep else c.answerCmp p m true
    | .ncWr => c.answerCmp p m (!ok)
    | .putDirty =>
      let c := match c.mapAddr (m.line * 64) with
        | some (true, q, l) => if ok then c.cxlWrite q (l / 64) m.line m.data m.poison
            else c.logErr (uPx p) { cls := .uncorrected, struct := 0x17, addr := m.line * 64, at_ := 1 }
        | _ => c
      c.send { kind := .wbAck, src := .unit (uPx p), dst := m.src, line := m.line }
    | _ =>
      match c.mapAddr (m.line * 64) with
      | some (true, q, l) =>
        let (d, z, c) := c.cxlRead q (l / 64)
        let c := if ok then c else c.logErr (uPx p) { cls := .deferred, struct := 0x17, addr := m.line * 64, at_ := 1 }
        c.deliver (.unit (uPx p)) m d (z || ep || !ok)
      | _ => c.send { kind := .cmp, src := .unit (uPx p), dst := m.req, line := m.line, err := true }

def Chip.dropNp (c : Chip) (p : Nat) (r : NpReq) : Chip := c.modPx p fun x => { x with np := x.np.erase r }

/-- A completion at a sub-link (R367, R371, R373): routed by tag, or discarded as unexpected. With `ok` false, `ep` tells an
error completion from a Request Retry Status (DESIGN CHOICE, log 30). -/
def Chip.completion (c : Chip) (p s tag : Nat) (bs : List Byte) (ep ok : Bool) : Chip :=
  if !c.unitRuns (uPx p) || !((c.px p).subAt s).up then c
  else
    match (c.px p).np.find? fun r => decide (r.sub = s ∧ r.tag = tag) with
    | none =>
      ((c.pxErr p 1).modSub p s fun x => { x with unexp := min (2 ^ 32 - 1) (x.unexp + 1) }).logErr (uPx p) { cls := .corrected, struct := 0x17 } |>.aerLog p 16
    | some r =>
      let config := match r.who with
        | .mesh m => decide (m.kind = .ncRd ∨ m.kind = .ncWr) && ((c.px p).sent.any fun t => decide (t.tag = tag ∧ t.sub = s) && decide (t.kind = .cfgRead0 ∨ t.kind = .cfgRead1 ∨ t.kind = .cfgWrite0 ∨ t.kind = .cfgWrite1))
        | _ => false
      if !ok && !ep && config then
        if r.vid then (c.dropNp p r).npAnswer p r ([0x01, 0x00] ++ List.replicate (r.len - 2) 0xFF) false true
        else match (c.px p).sent.reverse.find? fun t => decide (t.tag = tag ∧ t.sub = s) with
          | some t => c.pxPut p t
          | none => c
      else
        let c := c.noteEp p s (ep && ok)
        (c.dropNp p r).npAnswer p r bs (ep && ok) ok

/-- Expiry of a request (R372): its requester is answered with an error, and the port reports it. -/
def Chip.expire (c : Chip) (p : Nat) (r : NpReq) : Chip := ((c.dropNp p r).npAnswer p r [] true false).reportCto p r.sub r.tag

def Chip.timeout (c : Chip) (p s tag : Nat) : Chip :=
  match (c.px p).np.find? fun r => decide (r.sub = s ∧ r.tag = tag) with
  | some r => c.expire p r
  | none => c

def Chip.quarantineEnd (c : Chip) (p s tag : Nat) : Chip := c.modPx p fun x => { x with quar := x.quar.filter fun q => q ≠ (s, tag) }

/-! Links (R361, R362, R374-R376, R387). -/

/-- PX_LINK.L1 follows sub-link 0. -/
def Chip.setL1 (c : Chip) (p s level : Nat) : Chip :=
  let c := c.modSub p s fun x => { x with l1 := level }
  if s = 0 then c.setRegFld (uPx p) 0 0x1048 13 13 (if level = 0 then 0 else 1) else c

/-- A sub-link goes down (R374): its requests expire at once and its waiting posted TLPs are discarded. -/
def Chip.linkDown (c : Chip) (p s : Nat) : Chip :=
  let x := (c.px p).subAt s
  if !x.up then c
  else
    let c := (c.modSub p s fun y => { y with up := false, discard := min (2 ^ 32 - 1) (y.discard + y.waiting.length), waiting := [] }).setL1 p s 0
    let c := if s < 4 then c.setRegFld (uPx p) 0 0x1048 s s 0 else c
    let c := if s = 0 then c.setRegFld (uPx p) 0 0x1048 4 4 0 else c
    let c := ((c.px p).np.filter fun r => decide (r.sub = s)).foldl (fun (c : Chip) r => c.expire p r) c
    c.pxErr p 4

/-- Waiting TLPs of a sub-link leave (R375). -/
def Chip.flushSub (c : Chip) (p s : Nat) : Chip :=
  let w := ((c.px p).subAt s).waiting
  (c.modSub p s fun x => { x with waiting := [] }).modPx p fun x => { x with sent := x.sent ++ w }

/-- Training completes (R361, R362, R387, R494): a sub-link of an enabled port, or PX0 in the ENDPOINT role with PERST0_N
high, no wider and no faster than its settings. -/
def Chip.linkUp (c : Chip) (p s width speed : Nat) : Chip :=
  let lanes := (c.sublinks p).getD s 0
  if !c.unitRuns (uPx p) ∨ (c.regFld (uPx p) 0 0x1044 0 0 = 0 ∧ ¬ (p = 0 ∧ c.endpoint = true)) ∨ lanes = 0 ∨ lanes < width ∨ width = 0
      ∨ c.regFld (uPx p) 0 0x1040 5 3 < speed ∨ (p = 0 ∧ c.endpoint = true ∧ c.pwr.perst0 = true) then c
  else
    let c := c.modSub p s fun x => { x with up := true, width := width, speed := speed, l1 := 0 }
    let c := c.orReg (uPx p) 0 0x1048 (BitVec.ofNat 32 (2 ^ s))
    let c := if s = 0 then (c.setRegFld (uPx p) 0 0x1048 7 5 speed).setRegFld (uPx p) 0 0x1048 12 8 width else c
    c.flushSub p s

/-- CXL.mem becomes active on sub-link 0 (R360, R376). -/
def Chip.cxlActive (c : Chip) (p cap : Nat) : Chip :=
  if c.cxlUp p && decide (c.regFld (uPx p) 0 0x1040 6 6 = 1) && !(decide (p = 0) && c.endpoint) && decide (8 ≤ (c.sublinks p).getD 0 0) then
    (c.setRegFld (uPx p) 0 0x1048 4 4 1).modPx p fun x => { x with cap := cap }
  else c

/-- An enabled interleave set names a bus port (R375, R389). -/
def Chip.setNames (c : Chip) (p : Nat) : Bool :=
  c.msetsOn.any fun n => (c.mset n).cxl && ((c.mset n).chan.take (c.mset n).w).contains p

/-- A sub-link enters L1 or a substate (R375). -/
def Chip.l1Enter (c : Chip) (p s level : Nat) : Chip :=
  let x := (c.px p).subAt s
  let r := c.reg (uPx p) 0 0x1050
  let allowed := match level with
    | 1 => decide (fld r 8 8 = 1) | 2 => decide (fld r 9 9 = 1) | 3 => decide (fld r 10 10 = 1) | _ => false
  let from0 := decide (level = 1) && decide (x.l1 = 0)
  let from1 := decide (1 < level) && decide (x.l1 = 1)
  if x.up && allowed && (from0 || from1) && decide (fld r 8 8 = 1) && x.waiting.isEmpty
      && !((c.px p).np.any fun q => decide (q.sub = s)) && !(decide (s = 0) && decide (c.regFld (uPx p) 0 0x1048 4 4 = 1) && c.setNames p) then
    (c.modSub p s fun y => { y with l1Count := min (2 ^ 32 - 1) (if level = 1 then y.l1Count + 1 else y.l1Count) }).setL1 p s level
  else c

/-- L1 ends for a TLP that needs the link (R375). -/
def Chip.l1Leave (c : Chip) (p s : Nat) : Chip :=
  if ((c.px p).subAt s).l1 = 0 then c else (c.setL1 p s 0).flushSub p s

end Sys2Proof.Machine
end

