-- ==== Sys2Proof/Machine/HartMem.lean ====
section
/-! DEFINITION. A hart's memory accesses: loads, stores, atomics, fences, cache-block operations, reductions and the store
buffer (R84-R87, R101-R117, R123, R173, R185, R192, R431). A hart retires its instructions in order, and a load may execute
ahead of them (log 80); an access that misses asks for its line and does not complete, and the same command completes it later
(log 13). -/

namespace Sys2Proof.Machine

/-- The core that runs a hart that executes instructions now. -/
def Chip.liveCore (c : Chip) (hid : Nat) : Option Nat :=
  if (c.hart hid).live then c.coreOfHart hid else none

/-- Where an access goes: physical pieces, split at a line (R109), or what stops it. -/
inductive Spans where
  | ok (l : List (Nat × Nat)) (mt : MemType)
  | miss (va : Nat)
  | trap (cause : Nat) (tval : DWord) (gpa : Nat)
deriving DecidableEq, Repr

/-- The pieces of an access of n bytes (R109, R110): one within a line; two when it crosses a line; both pages of a
page-crossing access are translated and checked before either half, the lower fault first. -/
def Chip.spans (c : Chip) (hid va n : Nat) (acc : Access) : Spans :=
  match c.translate hid va acc with
  | .miss => .miss va
  | .trap k t g => .trap k t g
  | .ok pa mt =>
    let k := 64 - va % 64
    if n ≤ k then .ok [(pa, n)] mt
    else if va / 4096 = (va + k) / 4096 then .ok [(pa, k), (pa + k, n - k)] mt
    else match c.translate hid (va + k) acc with
      | .miss => .miss (va + k)
      | .trap x t g => .trap x t g
      | .ok pb mt2 => .ok [(pa, k), (pb, n - k)] (if mt = .pma then mt2 else mt)

/-- The bytes that a store-buffer entry claims: a reduction claims its whole line (R87). -/
def SbEnt.covers (e : SbEnt) (a : Nat) : Bool :=
  match e.kind with
  | .red => decide (a / 64 = e.pa / 64)
  | _ => decide (e.pa ≤ a) && decide (a < e.pa + e.bytes.length)

/-- The youngest older entry that claims a byte, by its place in the buffer. -/
def Hart.storeOf (h : Hart) (wrong : Bool) (a : Nat) : Option (Nat × SbEnt) :=
  ((h.sb.zipIdx.filter fun e => (wrong || !e.1.wrong) && e.1.covers a).getLast?).map fun e => (e.2, e.1)

/-- How a load meets the store buffer (R105). -/
inductive Overlap where
  | none
  | forward (bytes : List Byte)
  | held
deriving DecidableEq, Repr

/-- Addresses of the bytes of an access. -/
def spanAddrs (l : List (Nat × Nat)) : List Nat := l.flatMap fun s => (List.range s.2).map (s.1 + ·)

/-- Overlap of a load with the older buffered stores (R105): forwarded when every byte comes from one scalar store. -/
def Hart.overlap (h : Hart) (wrong : Bool) (l : List (Nat × Nat)) : Overlap :=
  let as_ := spanAddrs l
  let ss := as_.map (h.storeOf wrong)
  if ss.all (·.isNone) then .none
  else match ss.head? with
    | some (some (i, e)) =>
      if (e.kind = .scalar ∨ e.kind = .nc) ∧ ss.all (fun s => s.map (·.1) = some i) then
        .forward (as_.map fun a => e.bytes.getD (a - e.pa) 0)
      else .held
    | _ => .held

/-- What the core's caches give for a piece: its bytes, a poisoned line, an access error, or nothing yet. -/
inductive Got where
  | bytes (bs : List Byte) (hit : Bool)
  | poison (pa : Nat)
  | error
  | wait
deriving DecidableEq, Repr

/-- The answer in a core's hands is an access error for a line (R44, R156). -/
def Core.errFor (x : Core) (line : Nat) : Bool := x.nc.any fun m => m.err && decide (m.line = line)

/-- A piece read from L1D or L2 of a core (R105, R123, R149); a line that is in neither is asked for (R149), and an access
error that its home has answered is taken (R44). -/
def Chip.readPiece (c : Chip) (k hid : Nat) (s : Nat × Nat) : Got × Chip :=
  let line := s.1 / 64
  match (c.core k).line line with
  | some l =>
    if l.poison then (.poison s.1, c)
    else (.bytes (((lineBytes l.data).drop (s.1 % 64)).take s.2) l.l1d,
      (if l.l1d then c else c.modHart hid fun h => h.event 0x301 1).useD k line)
  | none =>
    if (c.core k).errFor line then (.error, c.modCore k fun x => { x with nc := none })
    else (.wait, (c.ask k line .rdShared).modHart hid fun h => (h.event 0x301 1).event 0x302 1)

/-- A whole piece list read, or the first thing that stops it; both hits tell the latency. -/
def Chip.readPieces (c : Chip) (k hid : Nat) : List (Nat × Nat) → Got × Chip
  | [] => (.bytes [] true, c)
  | s :: t =>
    match c.readPiece k hid s with
    | (.bytes bs hit, c) =>
      match c.readPieces k hid t with
      | (.bytes cs h2, c) => (.bytes (bs ++ cs) (hit && h2), c)
      | r => r
    | r => r

/-- An uncached read of a page of type NC or IO (R102, R109, R170): the line of each half asked for with NcRd, one after the
other, and each answer taken once. Where one half lies in such a page, both are read so (log 80). -/
def Chip.readUncached (c : Chip) (k hid : Nat) (l : List (Nat × Nat)) : Got × Chip :=
  let have_ := (c.hart hid).ncGot
  let s := if have_.isEmpty then l.headD (0, 0) else (l.drop 1).headD (0, 0)
  match (c.core k).nc with
  | some m =>
    let c := c.modCore k fun x => { x with nc := none }
    if m.line ≠ s.1 / 64 then (.wait, c)
    else
      let end_ (c : Chip) : Chip := c.modHart hid fun h => { h with ncGot := [] }
      if m.err then (.error, end_ c)
      else if m.poison then (.poison s.1, end_ c)
      else
        let bs := ((lineBytes m.data).drop (s.1 % 64)).take s.2
        match l, have_ with
        | [_, t], [] => (.wait, (c.modHart hid fun h => { h with ncGot := bs }).ask k (t.1 / 64) .ncRd)
        | _, _ => (.bytes (have_ ++ bs) false, end_ c)
  | none => (.wait, c.ask k (s.1 / 64) .ncRd)

/-- The value of loaded bytes, extended to 64 bits. -/
def loadValue (bs : List Byte) (signed : Bool) : DWord :=
  let n := leNat bs
  let w := 8 * bs.length
  if signed ∧ 2 ^ (w - 1) ≤ n then BitVec.ofInt 64 ((n : Int) - 2 ^ w) else BitVec.ofNat 64 n

/-- The format of an FP load or store of a size. -/
def fmtOfSize (n : Nat) : Fmt := if n = 2 then .h else if n = 4 then .s else .d

/-- A load's destination written and the load retired (R92, R123). -/
def Chip.finishLoad (c : Chip) (hid : Nat) (op : LoadOp) (bs : List Byte) (lat : Nat) (pieces : Nat) (va : Nat) : Chip :=
  let c := c.modHart hid fun h =>
    let h := { h with held := none, early := h.early.filter fun e => !(decide (e.pc = h.pc) && decide (e.op = op)) }
    let h := if op.fp then h.setF op.rd (boxed (fmtOfSize op.size) (leNat bs)) else h.setX op.rd (loadValue bs op.signed)
    let h := h.event 0x201 1
    if 1 < pieces then h.event 0x206 (if va / 4096 = (va + op.size - 1) / 4096 then 1 else 2) else h
  c.retire hid op.len (lat + (if 1 < pieces then 2 else 0) + bit op.fp)

/-- A scalar load at a virtual address (R44, R105, R106, R109, R110, R431). -/
def Chip.loadAt (c : Chip) (k hid : Nat) (op : LoadOp) (va : Nat) : Chip :=
  match c.spans hid va op.size .load with
  | .miss a => c.missTlb hid a .load op.wrong
  | .trap x t g => if op.wrong then c else c.raise hid x t g
  | .ok l mt =>
    if l.any fun s => decide (c.region s.1 ≠ .memory) then c
    else match (c.hart hid).overlap op.wrong l with
      | .forward bs => if op.wrong then c else c.finishLoad hid op bs 4 l.length va
      | .held =>
        if op.wrong then c
        else c.modHart hid fun h => if h.held.isSome then h else { h.event 0x203 1 with held := some (.scalar op va) }
      | .none =>
        let (got, c) := if mt = .pma then c.readPieces k hid l else if op.wrong then (.wait, c) else c.readUncached k hid l
        if op.wrong then c
        else match got with
          | .wait => c
          | .poison pa => c.hwError hid va pa
          | .error => c.raise hid xLoadAcc (BitVec.ofNat 64 va)
          | .bytes bs hit => c.finishLoad hid op bs (if (c.hart hid).held.isSome then 8 else if hit then 4 else 14) l.length va

/-! Loads ahead of program order (R99, R107, R113; log 80). -/

/-- The store-set entry of a load's pc (R97). -/
def depIndex (pc : DWord) : Nat := pc.toNat / 2 % 2048

/-- A load performed ahead of older instructions, which changes no register: cacheable memory only (R102), not while DET = 1
(R99), not while the predictor links it to an older store (R107), and in a load queue of 192 entries (R93). A fault is that
of its execution in order. -/
def Chip.loadEarly (c : Chip) (k hid : Nat) (op : LoadOp) (pc : DWord) : Chip :=
  let h := c.hart hid
  let va := h.addr op.rs1 op.imm
  if h.csrFld cBpctl 0 0 = 1 ∨ h.pred.dep.contains (depIndex pc) = true ∨ 192 ≤ h.early.length then c
  else match c.spans hid va op.size .load with
    | .miss a => c.missTlb hid a .load true
    | .trap _ _ _ => c
    | .ok l mt =>
      if mt ≠ .pma ∨ l.any (fun s => decide (c.region s.1 ≠ .memory)) = true then c
      else
        let put (c : Chip) (bs : List Byte) (hit : Bool) : Chip := c.modHart hid fun h =>
          { h with early := h.early ++ [{ pc := pc, op := { op with early := none }, va := va, spans := l, bytes := bs, hit := hit }] }
        match h.overlap false l with
        | .forward bs => put c bs true
        | .held => c
        | .none => match c.readPieces k hid l with
          | (.bytes bs hit, c) => put c bs hit
          | (_, c) => c

/-- The record of a load at the pc that has been performed already and may stand (R107, R113). -/
def Hart.earlyOf (h : Hart) (op : LoadOp) (va : Nat) : Option EarlyLoad :=
  h.early.find? fun e => decide (e.pc = h.pc) && decide (e.op = op) && decide (e.va = va) && !e.lost

/-- A store's bytes overlap a load that has executed ahead of it (R107): that load and everything younger is discarded, and
the predictor learns the pair. -/
def Hart.violated (h : Hart) (l : List (Nat × Nat)) : Hart :=
  match h.early.filter fun e => (spanAddrs e.spans).any fun a => (spanAddrs l).contains a with
  | [] => h
  | es =>
    let h := (h.event 0x207 1).event 0x104 4
    let dep := if h.csrFld cBpctl 0 0 = 1 then h.pred.dep else es.foldl (fun s e => NatSet.insert s (depIndex e.pc)) h.pred.dep
    { h.dropEarly with refetch := true, pred := { h.pred with dep := dep } }

/-- LOAD (R105): illegal with FP state off; the row performs loads of memory, and what it does at an I/O region is
`Chip.loadIo` (R102). -/
def Chip.load (c : Chip) (hid : Nat) (op : LoadOp) : Chip :=
  match c.liveCore hid with
  | none => c
  | some k =>
    let h := c.hart hid
    if h.held.isSome then c
    else if op.fp && !h.fsOn then (if op.wrong || op.early.isSome then c else c.illegal hid)
    else match op.early with
      | some pc => if op.wrong then c else c.loadEarly k hid op pc
      | none =>
        let va := h.addr op.rs1 op.imm
        match (if op.wrong then none else h.earlyOf op va) with
        | some e => c.finishLoad hid op e.bytes (if e.hit then 4 else 14) e.spans.length va
        | none => c.loadAt k hid op va

/-! Vector accesses (R104, R108, R141). -/

/-- Element width in bytes of the data, and the register group's EMUL x 8. -/
def VMemOp.dataBytes (h : Hart) (op : VMemOp) : Nat := if op.index.isSome then h.sew / 8 else op.eew
def vmemGroup (h : Hart) (op : VMemOp) : Nat := VMemOp.dataBytes h op * 8 * h.lmul8 / h.sew

/-- A vector access is legal: vector state on, vill clear, a legal EMUL and an aligned group (RISC-V, log 6). -/
def Hart.vmemLegal (h : Hart) (op : VMemOp) : Bool :=
  h.vsOn && !h.vill && decide (1 ≤ vmemGroup h op) && decide (vmemGroup h op ≤ 64)
    && decide (op.v % (max 1 (vmemGroup h op / 8)) = 0) && [1, 2, 4, 8].contains op.eew

/-- Virtual address of element i. -/
def Hart.vmemAddr (h : Hart) (op : VMemOp) (i : Nat) : Nat :=
  h.addr op.rs1 (match op.index, op.stride with
  | some r, _ => (h.elem r (8 * op.eew) i : Int)
  | none, some r => (i * (h.getX r).toNat : Int)
  | none, none => (i * op.eew : Int))

/-- Translations of the active elements in order: pieces of each, up to the first that stops. An element in an I/O region, or
in a page of type NC or IO, raises an access fault of its kind (DESIGN CHOICE, log 22: the manual gives vector accesses no
meaning there). -/
def Chip.vmemSpans (c : Chip) (hid : Nat) (op : VMemOp) (acc : Access) : List Nat → List (Nat × List (Nat × Nat)) × Option (Nat × Spans)
  | [] => ([], none)
  | i :: t =>
    let h := c.hart hid
    match c.spans hid (h.vmemAddr op i) (VMemOp.dataBytes h op) acc with
    | .ok l .pma =>
      if l.all fun s => decide (c.region s.1 = .memory) then
        let (r, e) := c.vmemSpans hid op acc t
        ((i, l) :: r, e)
      else ([], some (i, .trap acc.accessFault (BitVec.ofNat 64 (h.vmemAddr op i)) 0))
    | .ok _ _ => ([], some (i, .trap acc.accessFault (BitVec.ofNat 64 (h.vmemAddr op i)) 0))
    | s => ([], some (i, s))

/-- The elements' bytes read in order; stops at the first that is poisoned or missing. -/
def Chip.vmemRead (c : Chip) (k hid : Nat) : List (Nat × List (Nat × Nat)) → List (Nat × List Byte) × Option (Nat × Got) × Chip
  | [] => ([], none, c)
  | (i, l) :: t =>
    match c.readPieces k hid l with
    | (.bytes bs _, c) =>
      let (r, e, c) := c.vmemRead k hid t
      ((i, bs) :: r, e, c)
    | (g, c) => ([], some (i, g), c)

/-- µops of a vector access: one per register of the group (R95). -/
def vmemUops (h : Hart) (op : VMemOp) : Nat := max 1 (vmemGroup h op / 8)

/-- Vector load at its addresses: held as a whole over any older store (R108); a fault at element i leaves the elements
before it loaded and vstart = i. On a wrong path it only reads (R101). -/
def Chip.vecLoadGo (c : Chip) (k hid : Nat) (op : VMemOp) : Chip :=
  let h := c.hart hid
  let (spans, stop) := c.vmemSpans hid op .load (h.active op.masked)
  match stop with
  | some (_, .miss a) => c.missTlb hid a .load op.wrong
  | _ =>
    if op.wrong then (c.vmemRead k hid spans).2.2
    else if spans.any fun e => (spanAddrs e.2).any fun a => (h.storeOf false a).isSome then
      c.modHart hid fun h => if h.held.isSome then h else { h.event 0x203 2 with held := some (.vector op) }
    else
      let (vals, bad, c) := c.vmemRead k hid spans
      let w := 8 * VMemOp.dataBytes h op
      let put (c : Chip) : Chip := c.modHart hid fun h =>
        vals.foldl (fun (h : Hart) e => h.setElem op.v w e.1 (leNat e.2)) { h with held := none }
      match bad with
      | some (_, .wait) => c
      | some (i, .poison pa) =>
        ((put c).modHart hid fun h => h.setCsr cVstart (BitVec.ofNat 64 i)).hwError hid (h.vmemAddr op i) pa
      | some (i, .error) =>
        ((put c).modHart hid fun h => h.setCsr cVstart (BitVec.ofNat 64 i)).raise hid xLoadAcc (BitVec.ofNat 64 (h.vmemAddr op i))
      | _ =>
        match stop with
        | some (i, .trap x t g) => ((put c).modHart hid fun h => h.setCsr cVstart (BitVec.ofNat 64 i)).raise hid x t g
        | _ =>
          let c := (put c).modHart hid fun h => (h.setCsr cVstart 0).vsDirty.event 0x201 2
          c.retire hid 4 (vmemUops h op) (vmemUops h op)

/-- VECTOR_LOAD (R108, R141). -/
def Chip.vectorLoad (c : Chip) (hid : Nat) (op : VMemOp) : Chip :=
  match c.liveCore hid with
  | none => c
  | some k =>
    let h := c.hart hid
    if h.held.isSome then c
    else if !h.vmemLegal op then (if op.wrong then c else c.illegal hid)
    else if h.vl = 0 then (if op.wrong then c else (c.modHart hid fun h => h.setCsr cVstart 0).retire hid 4 1)
    else c.vecLoadGo k hid op

/-- Room for n more entries in the store buffer (R93). -/
def Hart.sbRoom (h : Hart) (n : Nat) : Bool := decide (h.sb.length + n ≤ 96)

/-- The store-buffer entries of a scalar store or of one vector element (R104, R109). The halves of a split store commit
together, except that those of an uncached one each have their own NcWr (R170). -/
def storeEntries (kind : SbKind) (l : List (Nat × Nat)) (bs : List Byte) (wrong : Bool) : List SbEnt :=
  match l with
  | [(a, n), (b, m)] =>
    [{ kind := kind, pa := a, bytes := bs.take n, wrong := wrong, pair := decide (kind ≠ .nc ∧ kind ≠ .io) },
     { kind := kind, pa := b, bytes := (bs.drop n).take m, wrong := wrong }]
  | (a, _) :: _ => [{ kind := kind, pa := a, bytes := bs, wrong := wrong }]
  | [] => []

/-- A store retires (R92): its events, and the loads that it finds executed ahead of it (R107). -/
def Chip.storeDone (c : Chip) (hid : Nat) (op : StoreOp) (va : Nat) (l : List (Nat × Nat)) : Chip :=
  (c.modHart hid fun h =>
    let h := ({ h with ioSt := false }.violated l).event 0x202 1
    if 1 < l.length then h.event 0x206 (if va / 4096 = (va + op.size - 1) / 4096 then 1 else 2) else h).retire hid op.len 1

/-- A store to a page of type NC or IO (R102, R170): issued once, when it is the oldest and the store buffer is empty, and
retired when the WbAck of each of its halves has come; an access error is a precise exception. -/
def Chip.storeUncached (c : Chip) (k hid : Nat) (op : StoreOp) (va : Nat) (l : List (Nat × Nat)) (es : List SbEnt) : Chip :=
  let h := c.hart hid
  if h.ioSt then
    if l.any fun s => (c.core k).errFor (s.1 / 64) then
      ((c.modCore k fun x => { x with nc := none }).modHart hid fun h =>
        { h with sb := h.sb.filter fun e => !(decide (e.kind = .nc) || decide (e.kind = .io)) }).raise hid xStoreAcc (BitVec.ofNat 64 va)
    else if h.sbEmpty then c.storeDone hid op va l
    else c
  else if h.sbEmpty then c.modHart hid fun h => { h with sb := h.sb ++ es, ioSt := true }
  else c

/-- STORE (R104, R109, R110, R44): translated and checked, entered in the store buffer, and retired. -/
def Chip.store (c : Chip) (hid : Nat) (op : StoreOp) : Chip :=
  match c.liveCore hid with
  | none => c
  | some k =>
    let h := c.hart hid
    let va := h.addr op.rs1 op.imm
    if h.held.isSome then c
    else if op.fp && !h.fsOn then (if op.wrong then c else c.illegal hid)
    else match c.spans hid va op.size .store with
      | .miss a => c.missTlb hid a .store op.wrong
      | .trap x t g => if op.wrong then c else c.raise hid x t g
      | .ok l mt =>
        if l.any fun s => decide (c.region s.1 ≠ .memory) then c
        else
          let v := if op.fp then h.getF op.rs2 else h.getX op.rs2
          let kind : SbKind := match mt with | .pma => .scalar | .nc => .nc | .io => .io
          let es := storeEntries kind l (leBytes v.toNat op.size) op.wrong
          if mt ≠ .pma ∧ op.wrong = false then c.storeUncached k hid op va l es
          else if !h.sbRoom es.length then c
          else
            let c := c.modHart hid fun h => { h with sb := h.sb ++ es }
            if op.wrong then c else c.storeDone hid op va l

/-- 32-byte entries of a vector store (R104): each element's pieces, cut at 32 bytes. -/
def vecEntries (kind : SbKind) (l : List (Nat × Nat)) (bs : List Byte) (wrong : Bool := false) : List SbEnt :=
  storeEntries kind l bs wrong

/-- Consecutive elements of a unit-stride store joined into one entry while they stay within 32 bytes. -/
def joinEntries (l : List SbEnt) : List SbEnt :=
  l.foldl (fun (acc : List SbEnt) e =>
    match acc.getLast? with
    | some p => if p.pa + p.bytes.length = e.pa ∧ p.pa / 32 = e.pa / 32 ∧ ¬ p.pair ∧ ¬ e.pair then
        acc.dropLast ++ [{ p with bytes := p.bytes ++ e.bytes }] else acc ++ [e]
    | none => [e]) []

/-- A vector store ends (R141): the elements before a fault are stored, and vstart names it. -/
def Chip.vectorStored (c : Chip) (hid : Nat) (op : VMemOp) (spans : List (Nat × List (Nat × Nat))) (stop : Option (Nat × Spans)) : Chip :=
  let u := vmemUops (c.hart hid) op
  match stop with
  | some (i, .trap x t g) => (c.modHart hid fun h => h.setCsr cVstart (BitVec.ofNat 64 i)).raise hid x t g
  | _ => (c.modHart hid fun h =>
      ({ (h.setCsr cVstart 0).vsDirty with vst := 0 }.violated (spans.flatMap fun (e : Nat × List (Nat × Nat)) => e.2)).event 0x202 2).retire hid 4 u u

/-- VECTOR_STORE (R104, R141): its entries go into the store buffer together where they fit in it; a store of more than 96
enters as room comes, and keeps what it has entered. -/
def Chip.vectorStore (c : Chip) (hid : Nat) (op : VMemOp) : Chip :=
  match c.liveCore hid with
  | none => c
  | some _ =>
    let h := c.hart hid
    if h.held.isSome then c
    else if !h.vmemLegal op then (if op.wrong then c else c.illegal hid)
    else if h.vl = 0 then (if op.wrong then c else (c.modHart hid fun h => h.setCsr cVstart 0).retire hid 4 1)
    else
      let (spans, stop) := c.vmemSpans hid op .store (h.active op.masked)
      let w := VMemOp.dataBytes h op
      let es := joinEntries (spans.flatMap fun e => vecEntries .vector e.2 (leBytes (h.elem op.v (8 * w) e.1) w) op.wrong)
      match stop with
      | some (_, .miss a) => c.missTlb hid a .store op.wrong
      | _ =>
        if op.wrong then c.modHart hid fun h => { h with sb := h.sb ++ es.take (96 - h.sb.length) }
        else
          let left := es.drop h.vst
          if h.sbRoom left.length then (c.modHart hid fun h => { h with sb := h.sb ++ left }).vectorStored hid op spans stop
          else if es.length ≤ 96 then c
          else c.modHart hid fun h => { h with sb := h.sb ++ left.take (96 - h.sb.length), vst := h.vst + (96 - h.sb.length) }

/-- HELD_LOAD_REPLAY (R106, R108): the held load performs once every store it overlaps has committed. -/
def Chip.heldReplay (c : Chip) (hid : Nat) : Chip :=
  match c.liveCore hid with
  | none => c
  | some k =>
    match (c.hart hid).held with
    | some (.scalar op va) =>
      match c.spans hid va op.size .load with
      | .ok l _ => if (c.hart hid).overlap false l = .none then c.loadAt k hid op va else c
      | .miss a => c.missTlb hid a .load false
      | .trap x t g => c.raise hid x t g
    | some (.vector op) => c.vecLoadGo k hid op
    | none => c

/-! The store buffer drains (R87, R104, R170). -/

/-- The operand of a reduction's entries: one 64-byte line, or 32 bytes of 16-bit elements. -/
def redData (e : SbEnt) (nxt : Option SbEnt) : Line :=
  lineOf (e.bytes ++ (if e.pair then (nxt.map (·.bytes)).getD [] else []))

/-- Ownership asked for a line that the core does not hold in M or E (R104). -/
def Chip.own (c : Chip) (k line : Nat) : Chip :=
  match (c.core k).line line with
  | some l => if l.st.owned then c else c.ask k line .upgrade
  | none => c.ask k line .rdOwn

/-- A line that a store may be performed on: held in M or E, and not on its way to its home as the data of a PutDirty KEEP
(R104, R148; log 79). -/
def Core.writable (x : Core) (line : Nat) : Option L2Line :=
  (x.line line).filter fun l => l.st.owned && (x.buffered line).isNone

/-- A message that carries more than `ask` gives, with its outstanding request (R93). -/
def Chip.askWith (c : Chip) (k : Nat) (m : Msg) : Option Chip :=
  let y := c.core k
  if 48 ≤ y.reqs.length || (y.pending m.line).isSome || (y.buffered m.line).isSome then none
  else some ((c.modCore k fun y => { y with reqs := y.reqs ++ [{ line := m.line, kind := m.kind }] }).send m)

/-- The oldest entry that is not on a wrong path, its place, and the entry after it. -/
def Hart.sbHead (h : Hart) : Option (Nat × SbEnt × Option SbEnt) :=
  match h.sb.findIdx? fun e => !e.wrong with
  | some i => match h.sb[i]? with
    | some e => some (i, e, h.sb[i + 1]?)
    | none => none
  | none => none

/-- Bytes of a line replaced in the core's cache by a committed store: state M; poison stays (R104, R429). -/
def Chip.writeL1 (c : Chip) (k line off : Nat) (bs : List Byte) : Chip :=
  (c.modCore k fun x => x.setLine line fun l =>
    some { l with st := .m, data := mergeLine l.data ((lineOf bs) <<< (8 * off)) (byteMask off bs.length) }).useD k line

/-- An uncached entry's NcWr sent once (R170). -/
def Chip.commitNc (c : Chip) (k hid i : Nat) (e : SbEnt) : Chip :=
  if e.sent then c
  else
    let line := e.pa / 64
    let m : Msg := { kind := .ncWr, src := .core k, dst := .home (homeSlice line), line := line, clos := c.coreClos k,
                     mask := byteMask (e.pa % 64) e.bytes.length }
    match c.askWith k m with
    | some c => c.modHart hid fun h => { h with sb := h.sb.modify i fun x => { x with sent := true } }
    | none => c

/-- One store-buffer head handled for a core: a store committed to its line in M or E and freed, a line asked for, an
NcWr or a RedOp sent once (R87, R104, R170). Nothing stored while the present answer is outstanding. -/
def Chip.commitHead (c : Chip) (k hid : Nat) : Chip :=
  match (c.hart hid).sbHead with
  | none => c
  | some (i, e, nxt) =>
    let line := e.pa / 64
    let home := Agent.home (homeSlice line)
    let sent (c : Chip) : Chip := c.modHart hid fun h => { h with sb := h.sb.modify i fun x => { x with sent := true } }
    match e.kind with
    | .red =>
      if e.sent then c
      else
        let m : Msg := { kind := .redOp, src := .core k, dst := home, line := line, clos := c.coreClos k, data := redData e nxt,
                         mode := e.mode, red := e.red }
        match c.askWith k m with
        | some c => sent c
        | none => c
    | .nc => c.commitNc k hid i e
    | .io => c.commitNc k hid i e
    | _ =>
      match (c.core k).writable line with
      | some _ => (c.writeL1 k line (e.pa % 64) e.bytes).modHart hid fun h => { h with sb := h.sb.eraseIdx i }
      | none =>
        if ((c.core k).line line).isSome then c.own k line
        else (c.own k line).modHart hid fun h => (h.event 0x301 2).event 0x302 1

/-- An entry that a store puts into L1D. -/
def SbEnt.cached (e : SbEnt) : Bool := decide (e.kind = .scalar) || decide (e.kind = .vector)

/-- STORE_COMMIT (R104): up to two entries, in program order; while the head is a store that lacks its line, ownership
requests for it and for up to 16 younger stores. -/
def Chip.storeCommit (c : Chip) (hid : Nat) : Chip :=
  match c.coreOfHart hid with
  | none => c
  | some k =>
    let n := (c.hart hid).sb.length
    let c := c.commitHead k hid
    let c := if (c.hart hid).sb.length < n then c.commitHead k hid else c
    match (c.hart hid).sbHead with
    | some (i, e, _) =>
      if e.cached && ((c.core k).writable (e.pa / 64)).isNone then
        ((((c.hart hid).sb.drop (i + 1)).filter fun e => !e.wrong && e.cached).take 16).foldl
          (fun (c : Chip) e => c.own k (e.pa / 64)) c
      else c
    | none => c

/-! Atomics (R112, R115, R116). -/

/-- The result that an AMO stores. -/
def amoResult (f : AmoFn) (w a b : Nat) : Nat :=
  let s (x : Nat) : Int := if 2 ^ (w - 1) ≤ x then (x : Int) - 2 ^ w else x
  match f with
  | .swap => b
  | .add => (a + b) % 2 ^ w
  | .and => a &&& b
  | .or => a ||| b
  | .xor => a ^^^ b
  | .max => if s a < s b then b else a
  | .min => if s b < s a then b else a
  | .maxu => max a b
  | .minu => min a b

/-- Checks of an atomic (R112, R115): alignment first, then translation, then the region and page type. -/
def Chip.atomicAddr (c : Chip) (hid va size : Nat) (acc : Access) : Spans :=
  if va % size ≠ 0 then .trap acc.misaligned (BitVec.ofNat 64 va) 0
  else match c.translate hid va acc with
    | .miss => .miss va
    | .trap x t g => .trap x t g
    | .ok pa mt =>
      if c.region pa ≠ .memory ∨ mt ≠ .pma then .trap acc.accessFault (BitVec.ofNat 64 va) 0 else .ok [(pa, size)] .pma

/-- AMO (R115): as the oldest instruction with the store buffer empty, on its line in M or E. -/
def Chip.amo (c : Chip) (hid : Nat) (fn : AmoFn) (rd rs1 rs2 size : Nat) : Chip :=
  match c.liveCore hid with
  | none => c
  | some k =>
    let h := c.hart hid
    let va := h.addr rs1 0
    if size ≠ 4 ∧ size ≠ 8 then c.illegal hid
    else if !h.sbEmpty || h.held.isSome then c
    else match c.atomicAddr hid va size .store with
      | .miss a => c.missTlb hid a .store false
      | .trap x t g => c.raise hid x t g
      | .ok l _ =>
        let pa := (l.headD (0, 0)).1
        match (c.core k).writable (pa / 64) with
        | some li =>
          if li.poison then c.hwError hid va pa
          else
            let old := ((lineBytes li.data).drop (pa % 64)).take size
            let new := amoResult fn (8 * size) (leNat old) ((h.getX rs2).toNat % 2 ^ (8 * size))
            let c := c.writeL1 k (pa / 64) (pa % 64) (leBytes new size)
            (c.modHart hid fun h => (h.violated l).dropEarly.setX rd (loadValue old true)).retire hid 4 4 2
        | none => c.own k (pa / 64)

/-- LR (R116): the load, and a reservation on its line. -/
def Chip.lr (c : Chip) (hid rd rs1 size : Nat) : Chip :=
  match c.liveCore hid with
  | none => c
  | some k =>
    let h := c.hart hid
    let va := h.addr rs1 0
    if size ≠ 4 ∧ size ≠ 8 then c.illegal hid
    else if h.held.isSome then c
    else match c.atomicAddr hid va size .load with
      | .miss a => c.missTlb hid a .load false
      | .trap x t g => c.raise hid x t g
      | .ok l _ =>
        if h.overlap false l ≠ .none then c
        else match c.readPieces k hid l with
          | (.wait, c) => c
          | (.poison pa, c) => c.hwError hid va pa
          | (.error, c) => c.raise hid xLoadAcc (BitVec.ofNat 64 va)
          | (.bytes bs hit, c) =>
            (c.modHart hid fun h => { h.dropEarly.setX rd (loadValue bs true) with resv := some ((l.headD (0, 0)).1 / 64) }).retire hid 4
              (if hit then 4 else 14)

/-- Snoops that a reservation held proceed (R116). -/
def Chip.releaseSnoops (c : Chip) (k : Nat) : Chip :=
  let ms := (c.core k).heldSnp
  let c := c.modCore k fun x => { x with heldSnp := [] }
  ms.foldl (fun (c : Chip) m => if m.kind = .inval then c.l2Inval k m else c.l2FwdOwn k m) c

/-- SC (R116): 0 in rd and the store done when the reservation holds, else 1; the reservation ends either way. -/
def Chip.sc (c : Chip) (hid rd rs1 rs2 size : Nat) : Chip :=
  match c.liveCore hid with
  | none => c
  | some k =>
    let h := c.hart hid
    let va := h.addr rs1 0
    let fin (c : Chip) (r : DWord) : Chip :=
      ((c.modHart hid fun h => { h.dropEarly.setX rd r with resv := none }).retire hid 4 4 2).releaseSnoops k
    if size ≠ 4 ∧ size ≠ 8 then c.illegal hid
    else if !h.sbEmpty || h.held.isSome then c
    else match c.atomicAddr hid va size .store with
      | .miss a => c.missTlb hid a .store false
      | .trap x t g => c.raise hid x t g
      | .ok l _ =>
        let pa := (l.headD (0, 0)).1
        if h.resv ≠ some (pa / 64) then fin c 1
        else match (c.core k).writable (pa / 64) with
          | some _ =>
            fin ((c.writeL1 k (pa / 64) (pa % 64) (leBytes (h.getX rs2).toNat size)).modHart hid fun h => h.violated l) 0
          | none => c.own k (pa / 64)

/-! Fences (R96, R114). -/

/-- FENCE (R114): waits for an empty store buffer when W precedes R, and for older loads when R precedes. -/
def Chip.fence (c : Chip) (hid : Nat) (pred succ : BitVec 4) (tso : Bool) : Chip :=
  match c.liveCore hid with
  | none => c
  | some _ =>
    let h := c.hart hid
    if h.held.isSome ∨ (tso = false ∧ pred.getLsbD 0 ∧ succ.getLsbD 1 ∧ h.sbEmpty = false) then c
    else (if succ.getLsbD 1 then c.modHart hid Hart.dropEarly else c).retire hid 4 1

/-- FENCE.I (R114, R117): with the store buffer empty, L1I and the fetch queue are invalidated and fetch restarts. -/
def Chip.fenceI (c : Chip) (hid : Nat) : Chip :=
  match c.liveCore hid with
  | none => c
  | some k =>
    if !(c.hart hid).sbEmpty || (c.hart hid).held.isSome then c
    else ((c.modCore k Core.emptyI).modHart hid fun h => { h.dropEarly with refetch := true }).retire hid 4 1

/-- What a fence names: an address of the guest's physical space or of a virtual one, an address space, a guest (R114). -/
structure FenceArg where
  gst  : Bool
  virt : Bool
  addr : Option Nat
  asid : Option Nat
  vmid : Option Nat
deriving DecidableEq, Repr

/-- A TLB entry matches a fence: by the leaf page of the stage that the fence names. -/
def FenceArg.tlb (f : FenceArg) (e : TlbEnt) : Bool :=
  decide (e.virt = f.virt)
    && (match f.addr with
      | some a => if f.gst then decide (e.gpa / 2 ^ e.gsz = a / 2 ^ e.gsz) else decide (e.vpn * 2 ^ e.size / 2 ^ e.vsz = a / 2 ^ e.vsz)
      | none => true)
    && (match f.asid with | some s => decide (e.asid = s) && !e.global | none => true)
    && (match f.vmid with | some s => decide (e.vmid = s) | none => true)

/-- An entry of the page-walk cache matches a fence. -/
def FenceArg.pwc (f : FenceArg) (e : PwcEnt) : Bool :=
  decide (e.virt = f.virt) && decide (e.gst = f.gst)
    && (match f.addr with | some a => decide (e.va / 2 ^ e.cover = a / 2 ^ e.cover) | none => true)
    && (match f.asid with | some s => decide (e.asid = s) | none => true)
    && (match f.vmid with | some s => decide (e.vmid = s) | none => true)

/-- Matching entries of the TLBs and the page-walk cache gone (R114). -/
def Hart.fenced (h : Hart) (f : FenceArg) : Hart :=
  { h with itlb := h.itlb.filter fun e => !f.tlb e, dtlb := h.dtlb.filter fun e => !f.tlb e, tlb := h.tlb.filter fun e => !f.tlb e,
           pwc := h.pwc.filter fun e => !f.pwc e }

/-- What a fence instruction names in its operands, by the mode that executes it. -/
def Hart.fenceArg (h : Hart) (fn : SfenceFn) (rs1 rs2 : Nat) : FenceArg :=
  let a := if rs1 % 32 = 0 then none else some (h.getX rs1).toNat
  let id := if rs2 % 32 = 0 then none else some (h.getX rs2).toNat
  match fn with
  | .hinvalGvma => { gst := true, virt := true, addr := a.map (4 * ·), asid := none, vmid := id.map (· % 2 ^ 14) }
  | .hfenceGvma => { gst := true, virt := true, addr := a.map (4 * ·), asid := none, vmid := id.map (· % 2 ^ 14) }
  | .hinvalVvma => { gst := false, virt := true, addr := a, asid := id.map (· % 2 ^ 16), vmid := some (h.vmid true) }
  | .hfenceVvma => { gst := false, virt := true, addr := a, asid := id.map (· % 2 ^ 16), vmid := some (h.vmid true) }
  | _ => { gst := false, virt := h.virt, addr := a, asid := id.map (· % 2 ^ 16), vmid := if h.virt then some (h.vmid true) else none }

/-- What stops a fence in the present mode (privileged ISA, log 6): none, or an illegal (false) or virtual (true) instruction. -/
def Hart.fenceStop (h : Hart) (fn : SfenceFn) : Option Bool :=
  let hyp := [SfenceFn.hinvalVvma, .hinvalGvma, .hfenceVvma, .hfenceGvma].contains fn
  let order := decide (fn = .sfenceWInval) || decide (fn = .sfenceInvalIr)
  if hyp && h.virt then some true
  else if h.priv = .u then some h.virt
  else if order then none
  else if !hyp && h.virt && decide (h.csrFld cHstatus 20 20 = 1) then some true
  else if !h.virt && decide (h.priv = .s) && decide (h.csrFld cMstatus 20 20 = 1)
      && (!hyp || decide (fn = .hinvalGvma) || decide (fn = .hfenceGvma)) then some false
  else none

/-- SFENCE.VMA, HFENCE, HINVAL and Svinval (R80, R96, R114): privilege, then matching entries of the TLBs and page-walk cache
go. SFENCE.VMA and HFENCE are serialising; SFENCE.W.INVAL waits for the stores that SINVAL and HINVAL must follow, and
SFENCE.INVAL.IR refetches what follows it. -/
def Chip.sfence (c : Chip) (hid : Nat) (fn : SfenceFn) (rs1 rs2 : Nat) : Chip :=
  match c.liveCore hid with
  | none => c
  | some _ =>
    let h := c.hart hid
    match h.fenceStop fn with
    | some true => c.virtualIns hid
    | some false => c.illegal hid
    | none =>
      let serial := [SfenceFn.sfenceVma, .hfenceVvma, .hfenceGvma].contains fn
      if h.held.isSome || ((serial || decide (fn = .sfenceWInval)) && !h.sbEmpty) then c
      else if fn = .sfenceWInval then (c.modHart hid Hart.dropEarly).retire hid 4 1
      else if fn = .sfenceInvalIr then (c.modHart hid fun h => { h.dropEarly with refetch := true }).retire hid 4 1
      else (c.modHart hid fun h => { (h.fenced (h.fenceArg fn rs1 rs2)).dropEarly with refetch := h.refetch || serial }).retire hid 4 1

/-! Cache-block operations (R117, R173). -/

/-- How an envcfg chain treats a cache-block operation: the field at bits hi:lo of menvcfg, henvcfg and senvcfg. The
smallest permission decides: 0 traps; for CBIE, 1 performs a flush and 3 an invalidation. -/
def Hart.cboField (h : Hart) (hi lo : Nat) : Option Nat × Bool :=
  let m := h.csrFld cMenvcfg hi lo
  let hv := h.csrFld cHenvcfg hi lo
  let s := h.csrFld cSenvcfg hi lo
  match h.priv, h.virt with
  | .m, _ => (some (2 ^ (hi + 1 - lo) - 1), false)
  | .s, false => (if m = 0 then none else some m, false)
  | .u, false => (if m = 0 ∨ s = 0 then none else some (min m s), false)
  | .s, true => (if m = 0 ∨ hv = 0 then none else some (min m hv), decide (m ≠ 0))
  | .u, true => (if m = 0 ∨ hv = 0 ∨ s = 0 then none else some (min m (min hv s)), decide (m ≠ 0))

/-- A cache-block operation that a mode does not permit traps. -/
def Chip.cboDenied (c : Chip) (hid : Nat) (virt : Bool) : Chip := if virt then c.virtualIns hid else c.illegal hid

/-- cbo.clean, cbo.flush and cbo.inval (R173): sent to the home as RdOnce with MAINT, and performed at its Cmp. -/
def Chip.cboSend (c : Chip) (hid rs1 : Nat) (mt : Maint) : Chip :=
  match c.liveCore hid with
  | none => c
  | some k =>
    let h := c.hart hid
    let va := h.addr rs1 0 / 64 * 64
    if !h.sbEmpty || h.held.isSome then c
    else match h.cbo with
      | some line =>
        if ((c.core k).pending line).isSome then c else (c.modHart hid fun h => { h with cbo := none }).retire hid 4 1
      | none => match c.translate hid va .load with
        | .miss => c.missTlb hid va .load false true
        | .trap x t g => c.raise hid (asStore x) t g
        | .ok pa _ =>
          if c.region pa ≠ .memory then c.retire hid 4 1
          else
            let c := c.ask k (pa / 64) .rdOnce false mt
            if ((c.core k).pending (pa / 64)).isSome then c.modHart hid fun h => { h with cbo := some (pa / 64) } else c

def Chip.cboClean (c : Chip) (hid rs1 : Nat) : Chip :=
  let f := (c.hart hid).cboField 6 6
  if (c.hart hid).live ∧ f.1 = none then c.cboDenied hid f.2 else c.cboSend hid rs1 .clean

def Chip.cboFlush (c : Chip) (hid rs1 : Nat) : Chip :=
  let f := (c.hart hid).cboField 6 6
  if (c.hart hid).live ∧ f.1 = none then c.cboDenied hid f.2 else c.cboSend hid rs1 .flush

/-- cbo.inval, which CBIE = 1 turns into cbo.flush (R117, R173). -/
def Chip.cboInval (c : Chip) (hid rs1 : Nat) : Chip :=
  let f := (c.hart hid).cboField 5 4
  match f.1 with
  | none => if (c.hart hid).live then c.cboDenied hid f.2 else c
  | some n => c.cboSend hid rs1 (if n = 3 then .inval else .flush)

/-- The request of a cbo.zero for a line that its core cannot write (R117; log 80): an Upgrade of a line held in S or O, else
a RdOwn whose home reads no memory for it. -/
def Chip.ownZero (c : Chip) (k line : Nat) : Chip :=
  let y := c.core k
  if (y.line line).isSome then c.own k line
  else if 48 ≤ y.reqs.length || (y.pending line).isSome || (y.buffered line).isSome then c
  else
    (c.modCore k fun y => { y with reqs := y.reqs ++ [{ line := line, kind := .rdOwn, zero := true }] }).send
      { kind := .rdOwn, src := .core k, dst := .home (homeSlice line), line := line, zero := true, clos := c.coreClos k }

/-- cbo.zero (R117, R429): 64 zero bytes into a line in M, without its poison. -/
def Chip.cboZero (c : Chip) (hid rs1 : Nat) : Chip :=
  match c.liveCore hid with
  | none => c
  | some k =>
    let h := c.hart hid
    let f := h.cboField 7 7
    let va := h.addr rs1 0 / 64 * 64
    if f.1 = none then c.cboDenied hid f.2
    else if !h.sbEmpty || h.held.isSome then c
    else match c.translate hid va .store with
      | .miss => c.missTlb hid va .store false
      | .trap x t g => c.raise hid x t g
      | .ok pa mt =>
        if c.region pa ≠ .memory ∨ mt ≠ .pma then c.raise hid xStoreAcc (BitVec.ofNat 64 va)
        else match (c.core k).writable (pa / 64) with
          | some _ =>
            (((c.modCore k fun x => x.setLine (pa / 64) fun l => some { l with st := .m, data := 0, poison := false }).useD k
              (pa / 64)).modHart hid fun h => h.violated [(pa / 64 * 64, 64)]).retire hid 4 1
          | none => c.ownZero k (pa / 64)

/-! Molenaide reductions (R84-R87, R192). -/

/-- Mode and element handling of a reduction, by operation and element type (R85); none for an undefined encoding. -/
def molMode (op : Nat) (ty : RedTy) : Option (RedMode × RedKind) :=
  match op, ty with
  | 0, .d => some (.f64Add, .contrib) | 0, .s => some (.f32Add, .contrib) | 0, .h => some (.f32Add, .half)
  | 0, .bf => some (.f32Add, .bf16) | 0, .l => some (.i64Add, .contrib)
  | 1, .d => some (.f64Min, .contrib) | 1, .s => some (.f32Min, .contrib) | 1, .l => some (.i64Min, .contrib)
  | 2, .d => some (.f64Max, .contrib) | 2, .s => some (.f32Max, .contrib) | 2, .l => some (.i64Max, .contrib)
  | _, _ => none

/-- Checks 3 to 5 of R86 and the entries of a reduction into the store buffer (R87). On a wrong path nothing but the entries,
which a redirect discards, is left (R101). -/
def Chip.molSend (c : Chip) (hid : Nat) (op : MolOp) (es : Nat → List SbEnt) (um : Nat) : Chip :=
  let h := c.hart hid
  let va := h.addr op.rs1 0
  if va % 64 ≠ 0 then (if op.wrong then c else c.raise hid xStoreMis (BitVec.ofNat 64 va))
  else match c.translate hid va .store with
    | .miss => c.missTlb hid va .store op.wrong
    | .trap x t g => if op.wrong then c else c.raise hid x t g
    | .ok pa mt =>
      if c.region pa ≠ .memory ∨ mt ≠ .pma then (if op.wrong then c else c.raise hid xStoreAcc (BitVec.ofNat 64 va))
      else
        let l := (es pa).map fun e => { e with wrong := op.wrong }
        if !h.sbRoom l.length || h.held.isSome then c
        else if op.wrong then c.modHart hid fun h => { h with sb := h.sb ++ l }
        else (c.modHart hid fun h => (({ h with sb := h.sb ++ l }.violated [(pa, 64)]).event 0x202 4).event 0x601 um).retire hid 4 1 l.length

/-- The instruction word of a Molenaide reduction (R84). -/
def molWord (fn : Nat) (ty : Nat) (op : MolOp) : BitVec 32 :=
  BitVec.ofNat 32 (fn % 128 * 2 ^ 25 + op.vs2 % 32 * 2 ^ 20 + op.rs1 % 32 * 2 ^ 15 + ty % 8 * 2 ^ 12 + op.rd % 32 * 2 ^ 7 + 0x2B)

/-- funct3 of an element type (R85). -/
def redTyCode : RedTy → Nat
  | .d => 0 | .s => 1 | .h => 2 | .bf => 3 | .l => 4

/-- A reduction instruction (R86): operand checks in order, then its entries. -/
def Chip.molReduce (c : Chip) (hid fn : Nat) (ty : RedTy) (op : MolOp) (um : Nat) : Chip :=
  match c.liveCore hid with
  | none => c
  | some _ =>
    let h := c.hart hid
    let no : Chip := if op.wrong then c else c.illegal hid (some (molWord fn (redTyCode ty) op))
    match molMode fn ty with
    | none => no
    | some (mode, red) =>
      let pair := decide (red = .contrib)
      if op.rd ≠ 0 ∨ (pair ∧ op.vs2 % 2 = 1) then no
      else if !h.vsOn || decide (h.vstart ≠ 0) then no
      else
        let half (r : Nat) : List Byte := leBytes (h.getV r).toNat 32
        let ent (pa : Nat) (bs : List Byte) (p : Bool) : SbEnt := { kind := .red, pa := pa, bytes := bs, pair := p, mode := mode, red := red }
        c.molSend hid op (fun pa => if pair then [ent pa (half op.vs2) true, ent pa (half (op.vs2 + 1)) false]
          else [ent pa (half op.vs2) false]) um

/-- mol.rclose (R86, R87, R192). -/
def Chip.molClose (c : Chip) (hid : Nat) (op : MolOp) : Chip :=
  match c.liveCore hid with
  | none => c
  | some _ =>
    if op.rd ≠ 0 ∨ op.vs2 ≠ 0 then (if op.wrong then c else c.illegal hid (some (molWord 3 0 op)))
    else c.molSend hid op (fun pa => [{ kind := .red, pa := pa, bytes := [], red := .close }]) 4

/-- What a word of the custom-1 opcode spells (R84, R85): funct7, the element type of funct3, and the register fields. -/
structure MolWord where
  fn : Nat
  ty : Option RedTy
  op : MolOp
deriving DecidableEq, Repr

/-- The fields of a word of opcode 0b0101011; none for a word of another opcode (R84). -/
def molDecode (w : BitVec 32) : Option MolWord :=
  if fld w 6 0 ≠ 0x2B then none
  else some
    { fn := fld w 31 25
      ty := match fld w 14 12 with | 0 => some .d | 1 => some .s | 2 => some .h | 3 => some .bf | 4 => some .l | _ => none
      op := { rd := fld w 11 7, vs2 := fld w 24 20, rs1 := fld w 19 15 } }

/-- The instruction that a custom-1 word encodes (R84, R85): mol.radd, mol.rmin, mol.rmax or mol.rclose; every other
combination of funct7 and funct3 is illegal. -/
def Chip.molWordIns (c : Chip) (hid : Nat) (word : BitVec 32) (m : MolWord) : Chip :=
  match m.fn, m.ty with
  | 0, some t => c.molReduce hid 0 t m.op 1
  | 1, some t => c.molReduce hid 1 t m.op 2
  | 2, some t => c.molReduce hid 2 t m.op 2
  | 3, some .d => c.molClose hid m.op
  | _, _ => c.illegal hid (some word)

/-! Prediction and prefetching seen from the outside (R99-R101, R113). -/

/-- HARDWARE_PREFETCH (R99, R101): a coherent read request for a line of cacheable memory, unless DET or PFOFF is set. -/
def Chip.prefetchLine (c : Chip) (hid line : Nat) : Chip :=
  match c.liveCore hid with
  | none => c
  | some k =>
    let h := c.hart hid
    if h.csrFld cBpctl 1 0 ≠ 0 ∨ c.region (line * 64) ≠ .memory ∨ ((c.core k).line line).isSome then c
    else (c.ask k line .rdShared).modHart hid fun h =>
      { (h.event 0x301 4).event 0x302 4 with pred := { h.pred with train := NatSet.insert h.pred.train line } }

/-- A redirect fits the last control transfer while DET = 1 (R99): a JAL at D2, a JALR or a taken conditional branch at EX. -/
def detRedirect (at_ : RedirAt) (cf : Option CfKind) : Bool :=
  match at_, cf with
  | .d2, some .jal => true
  | .ex, some .jalr => true
  | .ex, some (.branch true) => true
  | _, _ => false

/-- BRANCH_REDIRECT (R97, R99-R101): wrong-path stores, reductions and walks are discarded, history and return address stack
are repaired, and fetch restarts at the correct path's pc, which is the hart's architectural pc. -/
def Chip.branchRedirect (c : Chip) (hid : Nat) (at_ : RedirAt) (target : DWord) : Chip :=
  c.modHart hid fun h =>
    if h.live && decide (h.pc = target) && (decide (h.csrFld cBpctl 0 0 = 0) || detRedirect at_ h.cf) then
      let h := h.dropWrong
      let h := match h.walk with
        | some w => if w.wrong then { h with walk := none } else h
        | none => h
      let h := match h.pred.saved with
        | some (hist, ras) => { h with pred := { h.pred with hist := hist, ras := ras, saved := none } }
        | none => h
      match at_ with
      | .d2 => h.event 0x104 2
      | .ex => (h.event 0x103 15).event 0x104 4
    else h

/-- SAME_ADDRESS_LOAD_REDO (R113): a load that was performed ahead of an older one, and whose line has since been invalidated
or snooped for ownership, is discarded with every younger load, to be executed again. -/
def Chip.orderRedo (c : Chip) (hid line : Nat) : Chip :=
  c.modHart hid fun h =>
    if h.live && h.early.any fun e => e.lost && e.spans.any fun s => decide (s.1 / 64 = line) then h.dropEarly.event 0x207 2 else h

end Sys2Proof.Machine
end

