-- ==== Sys2Proof/Machine/HartArith.lean ====
section
/-! DEFINITION. Integer and floating-point instructions, CSR instructions and control transfer of a hart (R92,
R97, R126-R139, R144, R453). -/

namespace Sys2Proof.Machine

/-! Integer arithmetic (R126-R128, R144). -/

/-- A number read as signed in w bits. -/
def sInt (w x : Nat) : Int := if 2 ^ (w - 1) ≤ x % 2 ^ w then (x % 2 ^ w : Int) - 2 ^ w else (x % 2 ^ w : Int)

/-- An integer kept in w bits. -/
def wrapNat (w : Nat) (v : Int) : Nat := (v % (2 ^ w : Int)).toNat

/-- A 32-bit result sign-extended to 64 bits. -/
def sext32 (x : Nat) : DWord := BitVec.ofInt 64 (sInt 32 x)

/-- The integer ALU and multiplier (R144; the base ISA and Zba, Zbb, Zbs, Zicond, log 6). -/
def aluResult (f : AluFn) (a b : DWord) : DWord :=
  let sh := b.toNat % 64
  let sw := b.toNat % 32
  let aw := a.toNat % 2 ^ 32
  match f with
  | .add => a + b
  | .sub => a - b
  | .and => a &&& b
  | .or => a ||| b
  | .xor => a ^^^ b
  | .sll => a <<< sh
  | .srl => a >>> sh
  | .sra => a.sshiftRight sh
  | .slt => BitVec.ofNat 64 (bit (BitVec.slt a b))
  | .sltu => BitVec.ofNat 64 (bit (decide (a.toNat < b.toNat)))
  | .addw => sext32 (a.toNat + b.toNat)
  | .subw => sext32 ((a - b).toNat)
  | .sllw => sext32 (aw * 2 ^ sw)
  | .srlw => sext32 (aw / 2 ^ sw)
  | .sraw => BitVec.ofInt 64 (sInt 32 aw / 2 ^ sw)
  | .sh1add => (a <<< 1) + b
  | .sh2add => (a <<< 2) + b
  | .sh3add => (a <<< 3) + b
  | .adduw => BitVec.ofNat 64 aw + b
  | .sh1adduw => BitVec.ofNat 64 (2 * aw) + b
  | .sh2adduw => BitVec.ofNat 64 (4 * aw) + b
  | .sh3adduw => BitVec.ofNat 64 (8 * aw) + b
  | .slliuw => BitVec.ofNat 64 (aw * 2 ^ sh)
  | .andn => a &&& ~~~ b
  | .orn => a ||| ~~~ b
  | .xnor => ~~~ (a ^^^ b)
  | .max => if BitVec.slt a b then b else a
  | .maxu => if a.toNat < b.toNat then b else a
  | .min => if BitVec.slt b a then b else a
  | .minu => if b.toNat < a.toNat then b else a
  | .rol => a.rotateLeft sh
  | .ror => a.rotateRight sh
  | .rolw => sext32 (aw * 2 ^ sw + aw / 2 ^ (32 - sw))
  | .rorw => sext32 (aw / 2 ^ sw + aw * 2 ^ (32 - sw))
  | .bclr => a &&& ~~~ (BitVec.twoPow 64 sh)
  | .bext => (a >>> sh) &&& 1
  | .binv => a ^^^ BitVec.twoPow 64 sh
  | .bset => a ||| BitVec.twoPow 64 sh
  | .czeroEqz => if b = 0 then 0 else a
  | .czeroNez => if b = 0 then a else 0
  | .mul => a * b
  | .mulh => BitVec.ofInt 64 (a.toInt * b.toInt / 2 ^ 64)
  | .mulhsu => BitVec.ofInt 64 (a.toInt * b.toNat / 2 ^ 64)
  | .mulhu => BitVec.ofNat 64 (a.toNat * b.toNat / 2 ^ 64)
  | .mulw => sext32 (a.toNat * b.toNat)

/-- Latency of an ALU instruction (R144). -/
def aluLatency (f : AluFn) : Nat := if [.mul, .mulh, .mulhsu, .mulhu, .mulw].contains f then 3 else 1

/-- Number of one bits of an n-bit number. -/
def popcount (n x : Nat) : Nat := ((List.range n).filter fun i => decide (x / 2 ^ i % 2 = 1)).length
/-- Leading zeros in w bits. -/
def clz (w x : Nat) : Nat := w - bitLen (x % 2 ^ w)
/-- Trailing zeros in w bits. -/
def ctz (w x : Nat) : Nat := ((List.range w).takeWhile fun i => decide (x / 2 ^ i % 2 = 0)).length

/-- Single-operand integer instructions (Zbb). -/
def unResult (f : UnFn) (a : DWord) : DWord :=
  let x := a.toNat
  match f with
  | .clz => BitVec.ofNat 64 (clz 64 x)
  | .ctz => BitVec.ofNat 64 (ctz 64 x)
  | .cpop => BitVec.ofNat 64 (popcount 64 x)
  | .clzw => BitVec.ofNat 64 (clz 32 x)
  | .ctzw => BitVec.ofNat 64 (ctz 32 x)
  | .cpopw => BitVec.ofNat 64 (popcount 32 x)
  | .sextB => BitVec.ofInt 64 (sInt 8 x)
  | .sextH => BitVec.ofInt 64 (sInt 16 x)
  | .zextH => BitVec.ofNat 64 (x % 65536)
  | .orcB => BitVec.ofNat 64 (leNat ((leBytes x 8).map fun b => if b = 0 then 0 else 0xFF#8))
  | .rev8 => BitVec.ofNat 64 (leNat (leBytes x 8).reverse)

/-- Signedness, remainder and width of a divide. -/
def divShape : DivFn → Bool × Bool × Nat
  | .div => (true, false, 64) | .divu => (false, false, 64) | .rem => (true, true, 64) | .remu => (false, true, 64)
  | .divw => (true, false, 32) | .divuw => (false, false, 32) | .remw => (true, true, 32) | .remuw => (false, true, 32)

/-- Quotient or remainder in w bits, with the corner results of R126. -/
def divCore (signed rem : Bool) (w a b : Nat) : Nat :=
  let a := a % 2 ^ w
  let b := b % 2 ^ w
  if b = 0 then (if rem then a else 2 ^ w - 1)
  else if signed then
    let x := sInt w a
    let y := sInt w b
    if x = -(2 ^ (w - 1) : Int) ∧ y = -1 then (if rem then 0 else 2 ^ (w - 1))
    else wrapNat w (if rem then Int.tmod x y else Int.tdiv x y)
  else if rem then a % b else a / b

/-- Result of a scalar divide or remainder (R126). -/
def divResult (f : DivFn) (a b : DWord) : DWord :=
  let (s, r, w) := divShape f
  let q := divCore s r w a.toNat b.toNat
  if w = 64 then BitVec.ofNat 64 q else sext32 q

/-- Latency of a scalar divide or remainder (R127). -/
def divLatency (f : DivFn) (a b : DWord) : Nat :=
  let (s, _, w) := divShape f
  let x := if s then (sInt w a.toNat).natAbs else a.toNat % 2 ^ w
  let y := if s then (sInt w b.toNat).natAbs else b.toNat % 2 ^ w
  if y = 0 ∨ (s ∧ sInt w a.toNat = -(2 ^ (w - 1) : Int) ∧ sInt w b.toNat = -1) then 4
  else 8 + ((clz w y + 1 - clz w x) + 3) / 4

/-- INTEGER_DIVIDE (R126, R127). -/
def Chip.integerDivide (c : Chip) (hid : Nat) (fn : DivFn) (rd rs1 rs2 : Nat) : Chip :=
  match c.liveCore hid with
  | none => c
  | some _ =>
    let h := c.hart hid
    if h.held.isSome then c
    else (c.modHart hid fun h => h.setX rd (divResult fn (h.getX rs1) (h.getX rs2))).retire hid 4
      (divLatency fn (h.getX rs1) (h.getX rs2))

/-! Floating point (R129-R138, R144). -/

/-- A scalar FP instruction exists for its format: bfloat16 has only conversions to and from binary32 (R129), loads and
transfers aside. -/
def fpExists (op : FpOp) : Bool :=
  match op.fn with
  | .cvtFmt g => if op.fmt = .bf then decide (g = .s) else if g = .bf then decide (op.fmt = .s) else decide (g ≠ op.fmt)
  | .cvtmod => decide (op.fmt = .d)
  | _ => decide (op.fmt ≠ .bf)

/-- The instruction has an rm field, whose reserved values are illegal (R130); fcvtmod.w.d truncates under every other. -/
def fpRounds (f : FpFn) : Bool :=
  match f with
  | .add => true | .sub => true | .mul => true | .div => true | .sqrt => true
  | .madd => true | .msub => true | .nmsub => true | .nmadd => true
  | .round => true | .roundnx => true | .cvtToInt _ => true | .cvtFromInt _ => true | .cvtFmt _ => true | .cvtmod => true
  | _ => false

/-- Latency of a scalar FP instruction (R144). -/
def fpLatency (f : FpFn) (fmt : Fmt) : Nat :=
  match f with
  | .add => 3 | .sub => 3 | .mul => 4 | .madd => 4 | .msub => 4 | .nmsub => 4 | .nmadd => 4
  | .div => (match fmt with | .h => 7 | .s => 10 | _ => 13)
  | .sqrt => (match fmt with | .h => 8 | .s => 11 | _ => 16)
  | .round => 3 | .roundnx => 3 | .cvtFmt _ => 3
  | .cvtToInt _ => 4 | .cvtFromInt _ => 4 | .cvtmod => 4
  | .fli _ => 1
  | _ => 2

/-- A result for an f register, or for an x register, with flags. -/
inductive FpRes where
  | f (x : Nat) (fl : BitVec 5)
  | x (v : DWord) (fl : BitVec 5)
deriving DecidableEq, Repr

/-- Sign bit of an encoding. -/
def signOf (f : Fmt) (a : Nat) : Nat := a / 2 ^ ((fmtPar f).w - 1) % 2

/-- Two-operand and three-operand arithmetic of encodings a, b, d (R132-R137); `d` is the addend. -/
def fpArith (fn : FpFn) (f : Fmt) (rm : Rm) (a b d : Nat) : Option (Nat × BitVec 5) :=
  let x := unpack f a
  let y := unpack f b
  let z := unpack f d
  match fn with
  | .add => some (fAdd f rm x y)
  | .sub => some (fAdd f rm x y.negate)
  | .mul => some (fMul f rm x y)
  | .div => some (fDiv f rm x y)
  | .sqrt => some (fSqrt f rm x)
  | .madd => some (fMa f rm x y z)
  | .msub => some (fMa f rm x y z.negate)
  | .nmsub => some (fMa f rm x.negate y z)
  | .nmadd => some (fMa f rm x.negate y z.negate)
  | .min => some (fMinMax f false a b)
  | .max => some (fMinMax f true a b)
  | .minm => some (fMinMaxM f false a b)
  | .maxm => some (fMinMaxM f true a b)
  | .sgnj => let w := (fmtPar f).w; some (a % 2 ^ (w - 1) + signOf f b * 2 ^ (w - 1), 0)
  | .sgnjn => let w := (fmtPar f).w; some (a % 2 ^ (w - 1) + (1 - signOf f b) * 2 ^ (w - 1), 0)
  | .sgnjx => let w := (fmtPar f).w; some (a % 2 ^ (w - 1) + ((signOf f a + signOf f b) % 2) * 2 ^ (w - 1), 0)
  | .round => some (fRound f rm false a)
  | .roundnx => some (fRound f rm true a)
  | _ => none

/-- The comparison that an FP instruction makes. -/
def fpCmp : FpFn → Option FCmp
  | .eq => some .eq | .lt => some .lt | .le => some .le | .ltq => some .ltq | .leq => some .leq | _ => none

/-- Result of a scalar FP instruction (R132-R138). -/
def fpResult (h : Hart) (op : FpOp) (rm : Rm) : FpRes :=
  let f := op.fmt
  let a := h.getFmt f op.rs1
  let b := h.getFmt f op.rs2
  let d := h.getFmt f op.rs3
  match fpArith op.fn f rm a b d with
  | some (r, fl) => .f r fl
  | none =>
    match fpCmp op.fn with
    | some k => let (r, fl) := fCompare k (unpack f a) (unpack f b); .x (BitVec.ofNat 64 (bit r)) fl
    | none =>
      match op.fn with
      | .fclass => .x (BitVec.ofNat 64 (fClass f a)) 0
      | .cvtToInt i =>
        let (v, fl) := fToInt i rm (unpack f a)
        .x (match i with | .w => BitVec.ofInt 64 v | .wu => sext32 v.toNat | _ => BitVec.ofInt 64 v) fl
      | .cvtmod => let (v, fl) := fToIntMod (unpack f a); .x (BitVec.ofInt 64 v) fl
      | .cvtFromInt i =>
        let x := (h.getX op.rs1).toNat
        let v : Int := match i with | .w => sInt 32 x | .wu => (x % 2 ^ 32 : Nat) | .l => sInt 64 x | .lu => (x : Nat)
        let (r, fl) := fFromInt f rm v
        .f r fl
      | .cvtFmt g => let (r, fl) := fConvert f rm (unpack g (h.getFmt g op.rs1)); .f r fl
      | .mvToX => .x (BitVec.ofInt 64 (sInt (fmtPar f).w (h.getF op.rs1).toNat)) 0
      | .mvFromX => .f ((h.getX op.rs1).toNat % 2 ^ (fmtPar f).w) 0
      | .fli bits => .f (bits.toNat % 2 ^ (fmtPar f).w) 0
      | _ => .x 0 0

/-- FP_INSTRUCTION (R130-R138): its result, and its flags accrued at retirement. -/
def Chip.fpInstruction (c : Chip) (hid : Nat) (op : FpOp) : Chip :=
  match c.liveCore hid with
  | none => c
  | some _ =>
    let h := c.hart hid
    let go (rm : Rm) : Chip :=
      (c.modHart hid fun h =>
        (match fpResult h op rm with
          | .f r fl => (h.accrue fl).setF op.rd (boxed op.fmt r)
          | .x v fl => (h.accrue fl).setX op.rd v).event 0x501 1).retire hid 4 (fpLatency op.fn op.fmt)
    if h.held.isSome then c
    else if !h.fsOn || !fpExists op then c.illegal hid
    else if fpRounds op.fn then
      match h.rm op.rm with
      | some rm => go rm
      | none => c.illegal hid
    else go .rne

/-- FRM_WRITE (R130, R131): every 3-bit value is stored. -/
def Chip.frmWrite (c : Chip) (hid : Nat) (v : BitVec 3) : Chip :=
  match c.liveCore hid with
  | none => c
  | some _ =>
    if !(c.hart hid).fsOn then c.illegal hid
    else (c.modHart hid fun h => (h.setCsr cFrm (v.setWidth 64)).fsDirty).retire hid 4 1

/-- FFLAGS_WRITE (R131): the accrued flags are replaced. -/
def Chip.fflagsWrite (c : Chip) (hid : Nat) (v : BitVec 5) : Chip :=
  match c.liveCore hid with
  | none => c
  | some _ =>
    if !(c.hart hid).fsOn then c.illegal hid
    else (c.modHart hid fun h => (h.setCsr cFflags (v.setWidth 64)).fsDirty).retire hid 4 1

/-! CSR instructions (R88-R91, R96, R131, R446, R453). -/

/-- A CSR instruction: serialising where R96 says so, with what follows refetched; the value read, then the write, which no
count of this instruction changes (R446). -/
def Chip.csrIns (c : Chip) (hid csr rd : Nat) (write : Bool) (f : DWord → DWord) (len : Nat) : Chip :=
  match c.liveCore hid with
  | none => c
  | some _ =>
    let h := c.hart hid
    let serial := write && serialCsr csr
    if h.held.isSome ∨ (serial ∧ h.sbEmpty = false) then c
    else match (c.csrOp hid csr write f).1 with
      | .illegal => c.illegal hid
      | .virt => c.virtualIns hid
      | .ok v =>
        let c := (((c.retire hid len 1).csrOp hid csr write fun _ => f v).2).modHart hid fun h => h.setX rd v
        if serial then c.modHart hid fun h => { h.dropEarly with refetch := true } else c

/-! Control transfer (R97, R99). -/

/-- A two-bit counter trained by an outcome. -/
def trainCounter (n : Nat) (taken : Bool) : Nat := if taken then min 3 (n + 1) else n - 1

/-- Entry of a pc in the tagged table j, whose history has 10 x 2^(j + 1) branches up to 640 (R97: geometric; log 81). -/
def tagIndex (hist j : Nat) (pc : DWord) : Nat := 2048 * j + (pc.toNat / 2 + hist % 2 ^ (10 * 2 ^ (j + 1))) % 2048

/-- The branch target buffers trained by a taken branch. -/
def Pred.target (p : Pred) (pc target : DWord) : Pred :=
  let s := pc.toNat / 2 % 2048
  { p with ubtb := Sparse.put p.ubtb (pc.toNat / 2 % 64) (pc, target)
           btb := Sparse.put p.btb s (((pc, target) :: (Sparse.at p.btb [] s).filter fun e => !decide (e.1 = pc)).take 4) }

/-- The direction tables trained by a conditional branch: the base table, and each tagged entry, which the branch takes over
from another. -/
def Pred.direction (p : Pred) (pc : DWord) (taken : Bool) : Pred :=
  let b := pc.toNat / 2 % 16384
  let tag (t : Sparse (DWord × Nat)) (j : Nat) : Sparse (DWord × Nat) :=
    let k := tagIndex p.hist j pc
    let n := match Sparse.find t k with
      | some (q, n) => if q = pc then trainCounter n taken else 1 + bit taken
      | none => 1 + bit taken
    Sparse.put t k (pc, n)
  { p with base := Sparse.put p.base b (trainCounter (Sparse.at p.base 1 b) taken), tags := (List.range 6).foldl tag p.tags }

/-- History and return address stack as a branch leaves them: at a call the link is pushed, at a return the top is popped. -/
def Pred.follow (p : Pred) (taken ret : Bool) (link : Option DWord) : Pred :=
  let ras := if ret then p.ras.drop 1 else p.ras
  { p with hist := (p.hist * 2 + bit taken) % 2 ^ 640
           ras := match link with | some l => (l :: ras).take 32 | none => ras }

/-- The predictors' training by a retired branch, off while DET = 1 (R97, R99); a conditional branch trains the direction
tables, an indirect one the target predictor, tagged by path history. -/
def Hart.train (h : Hart) (cf : CfKind) (taken ret : Bool) (target : DWord) (link : Option DWord) : Hart :=
  let h := { h with cf := some cf }
  if h.csrFld cBpctl 0 0 = 1 then h
  else
    let p := h.pred
    let p := match cf with
      | .branch _ => p.direction h.pc taken
      | .jalr => { p with ind := Sparse.put p.ind ((h.pc.toNat / 2 + p.hist) % 2048) target }
      | .jal => p
    let p := if taken then p.target h.pc target else p
    { h with pred := p.follow taken ret link }

/-- A branch or jump followed on a wrong path (R97, R101): history and return address stack move on and are repaired at the
redirect; nothing else changes. -/
def Hart.followWrong (h : Hart) (taken ret : Bool) (link : Option DWord) : Hart :=
  if h.csrFld cBpctl 0 0 = 1 then h
  else
    let p := { h.pred with saved := h.pred.saved <|> some (h.pred.hist, h.pred.ras) }
    { h with pred := p.follow taken ret link }

/-- A link register of the calling convention's hints: x1 or x5. -/
def isLink (r : Nat) : Bool := r % 32 = 1 || r % 32 = 5

/-- A jump to a target, with the link written and the branch events counted (R450). -/
def Chip.jump (c : Chip) (hid rd len : Nat) (target : DWord) (um : Nat) (cf : CfKind) (call ret : Bool) : Chip :=
  (c.modHart hid fun h =>
    let link := h.pc + BitVec.ofNat 64 len
    let h := (h.train cf true ret target (if call then some link else none)).event 0x101 um
    { h.setX rd link with pc := target }).retire hid 0 1

/-- Condition of a branch. -/
def brTaken (f : BrFn) (a b : DWord) : Bool :=
  match f with
  | .eq => decide (a = b) | .ne => decide (a ≠ b)
  | .lt => BitVec.slt a b | .ge => !BitVec.slt a b
  | .ltu => decide (a.toNat < b.toNat) | .geu => decide (b.toNat ≤ a.toNat)

/-- The core's line of an address is poisoned: a fetch consumes it (R431). -/
def Chip.linePoison (c : Chip) (k pa : Nat) : Bool := ((c.core k).line (pa / 64)).any fun l => l.poison

/-- An integer result written and retired. -/
def Chip.intResult (c : Chip) (hid rd : Nat) (v : DWord) (len lat : Nat) : Chip :=
  (c.modHart hid fun h => h.setX rd v).retire hid len lat

/-! HLV, HLVX and HSV (H, R80; the privileged ISA, log 6). -/

/-- The mode of a hypervisor load or store: the guest's, at the privilege of hstatus.SPVP. -/
def Hart.guestPriv (h : Hart) : Priv := if h.csrFld cHstatus 8 8 = 1 then .s else .u

/-- HLV, HLVX and HSV are allowed in M-mode and HS-mode, and in U-mode with hstatus.HU; none, or the exception: illegal
(false), virtual (true). -/
def Hart.hlvStop (h : Hart) : Option Bool :=
  if h.virt then some true else if h.priv = .u ∧ h.csrFld cHstatus 9 9 = 0 then some false else none

/-- Address of a hypervisor load or store, masked as the guest's access (HUPMM in U-mode). -/
def Hart.guestVa (h : Hart) (rs1 : Nat) : Nat :=
  h.maskVa (if h.priv = .u then h.csrFld cHstatus 49 48 else h.pmm h.guestPriv true) true (h.getX rs1).toNat

/-- Pieces of a hypervisor access, as `spans` gives those of an ordinary one. -/
def Chip.guestSpans (c : Chip) (hid va n : Nat) (acc : Access) (exec : Bool) : Spans :=
  let p := (c.hart hid).guestPriv
  match c.translateIn hid va acc p true exec with
  | .miss => .miss va
  | .trap k t g => .trap k t g
  | .ok pa mt =>
    let k := 64 - va % 64
    if n ≤ k then .ok [(pa, n)] mt
    else match c.translateIn hid (va + k) acc p true exec with
      | .miss => .miss (va + k)
      | .trap x t g => .trap x t g
      | .ok pb mt2 => .ok [(pa, k), (pb, n - k)] (if mt = .pma then mt2 else mt)

/-- HLV and HLVX: a load of cacheable memory through the guest's translation; another region raises an access fault (log 22). -/
def Chip.hlv (c : Chip) (k hid rd rs1 size : Nat) (signed exec : Bool) : Chip :=
  let h := c.hart hid
  let va := h.guestVa rs1
  match h.hlvStop with
  | some true => c.virtualIns hid
  | some false => c.illegal hid
  | none => match c.guestSpans hid va size .load exec with
    | .miss a => c.missTlb hid a .load false false (some h.guestPriv) exec
    | .trap x t g => c.raise hid x t g 0 true
    | .ok l mt =>
      if mt ≠ .pma ∨ l.any (fun s => decide (c.region s.1 ≠ .memory)) = true then c.raise hid xLoadAcc (BitVec.ofNat 64 va) 0 0 true
      else if h.overlap false l ≠ .none then c
      else match c.readPieces k hid l with
        | (.bytes bs hit, c) =>
          (c.modHart hid fun h => (h.setX rd (loadValue bs signed)).event 0x201 1).retire hid 4 (if hit then 4 else 14)
        | (.poison pa, c) => c.hwError hid va pa
        | (.error, c) => c.raise hid xLoadAcc (BitVec.ofNat 64 va) 0 0 true
        | (.wait, c) => c

/-- HSV: a store of cacheable memory through the guest's translation. -/
def Chip.hsv (c : Chip) (hid rs1 rs2 size : Nat) : Chip :=
  let h := c.hart hid
  let va := h.guestVa rs1
  match h.hlvStop with
  | some true => c.virtualIns hid
  | some false => c.illegal hid
  | none => match c.guestSpans hid va size .store false with
    | .miss a => c.missTlb hid a .store false false (some h.guestPriv)
    | .trap x t g => c.raise hid x t g 0 true
    | .ok l mt =>
      if mt ≠ .pma ∨ l.any (fun s => decide (c.region s.1 ≠ .memory)) = true then c.raise hid xStoreAcc (BitVec.ofNat 64 va) 0 0 true
      else
        let es := storeEntries .scalar l (leBytes (h.getX rs2).toNat size) false
        if !h.sbRoom es.length then c
        else (c.modHart hid fun h => { h with sb := h.sb ++ es }).storeDone hid { rs1 := rs1, rs2 := rs2, size := size } va l

/-! Debug-mode exit (R98; the debug specification, log 6). -/

/-- DRET: the pc of dpc and the mode of dcsr, MPRV off below M-mode, and all prediction state flushed. -/
def Hart.exitDebug (h : Hart) : Hart :=
  let p : Priv := match h.csrFld 0x7B0 1 0 with | 3 => .m | 1 => .s | _ => .u
  let h := (if p = .m then h else h.setCsrFld cMstatus 17 17 0).flushPred
  { h with run := .running, priv := p, virt := decide (p ≠ .m) && decide (h.csrFld 0x7B0 5 5 = 1), pc := h.csr 0x7B1 }

/-- The cause of an ECALL by the mode that makes it. -/
def Hart.ecallCause (h : Hart) : Nat :=
  match h.priv, h.virt with | .m, _ => 11 | .s, false => 9 | .s, true => 10 | .u, _ => 8

/-- The operation stands ahead of the hart's pc: a branch followed on a wrong path (R101). -/
def aheadOp (op : HartOp) : Bool := match op with | .wrongBranch _ _ _ => true | _ => false

/-- INSTRUCTION (R92): a hart instruction without a row of its own. DRET acts in debug mode only, and is illegal elsewhere. -/
def Chip.instruction (c : Chip) (hid : Nat) (op : HartOp) (len : Nat) : Chip :=
  match c.liveCore hid with
  | none => if op = .dret ∧ (c.hart hid).run = .debug then c.modHart hid Hart.exitDebug else c
  | some k =>
    let h := c.hart hid
    if h.held.isSome then c
    else
      match op with
      | .alu f rd rs1 rs2 => c.intResult hid rd (aluResult f (h.getX rs1) (h.getX rs2)) len (aluLatency f)
      | .alui f rd rs1 imm => c.intResult hid rd (aluResult f (h.getX rs1) (BitVec.ofInt 64 imm)) len 1
      | .un f rd rs1 => c.intResult hid rd (unResult f (h.getX rs1)) len 1
      | .lui rd imm => c.intResult hid rd (BitVec.ofInt 64 (imm * 4096)) len 1
      | .auipc rd imm => c.intResult hid rd (h.pc + BitVec.ofInt 64 (imm * 4096)) len 1
      | .jal rd off => c.jump hid rd len (h.pc + BitVec.ofInt 64 off) 2 .jal (isLink rd) false
      | .jalr rd rs1 off =>
        let ret := isLink rs1 && !isLink rd
        c.jump hid rd len ((h.getX rs1 + BitVec.ofInt 64 off) &&& ~~~ 1#64) (if ret then 8 else 4) .jalr (isLink rd) ret
      | .branch f rs1 rs2 off =>
        let t := brTaken f (h.getX rs1) (h.getX rs2)
        let tgt := h.pc + BitVec.ofInt 64 off
        let c := c.modHart hid fun h => (h.train (.branch t) t false tgt none).event 0x101 1
        if t then (c.modHart hid fun h => { h with pc := tgt }).retire hid 0 1 else c.retire hid len 1
      | .csr f rd csr rs1 =>
        let x := h.getX rs1
        (match f with
        | .rw => c.csrIns hid csr rd true (fun _ => x) len
        | .rs => c.csrIns hid csr rd (decide (rs1 % 32 ≠ 0)) (fun o => o ||| x) len
        | .rc => c.csrIns hid csr rd (decide (rs1 % 32 ≠ 0)) (fun o => o &&& ~~~ x) len)
      | .csri f rd csr imm =>
        let x : DWord := BitVec.ofNat 64 (imm % 32)
        (match f with
        | .rw => c.csrIns hid csr rd true (fun _ => x) len
        | .rs => c.csrIns hid csr rd (decide (imm % 32 ≠ 0)) (fun o => o ||| x) len
        | .rc => c.csrIns hid csr rd (decide (imm % 32 ≠ 0)) (fun o => o &&& ~~~ x) len)
      | .ecall => c.raise hid h.ecallCause 0
      | .ebreak => c.raise hid xBreak h.pc
      | .prefetch rs1 =>
        let c := match c.translate hid (h.addr rs1 0) .load with
          | .ok pa .pma => if c.region pa = Region.memory ∧ ((c.core k).line (pa / 64)).isNone then c.ask k (pa / 64) .rdShared else c
          | _ => c
        c.retire hid len 1
      | .hlv rd rs1 size signed exec => c.hlv k hid rd rs1 size signed exec
      | .hsv rs1 rs2 size => c.hsv hid rs1 rs2 size
      | .hint => c.retire hid len 1
      | .mop rd => c.intResult hid rd 0 len 1
      | .wrs _ => c.retire hid len 1
      | .wrongBranch taken ret link => c.modHart hid fun h => h.followWrong taken ret link
      | .dret => c.illegal hid (some 0x7B200073#32)
      | .unimplemented => c.illegal hid
      | .other word rd rs1 rs2 =>
        match molDecode word with
        | some m => c.molWordIns hid word m
        | none => c.intResult hid rd (Config.riscvResult word (h.getX rs1) (h.getX rs2)) len 1

end Sys2Proof.Machine
end

