-- ==== Sys2Proof/Machine/Zstd.lean ====
section
/-! DEFINITION. Compressed blocks of a zstd frame (RFC 8878, which R316 names; the tables and steps are the RFC's,
PRESUMED, log 16): Huffman and FSE tables, literals, sequences and repeat offsets. -/

namespace Sys2Proof.Machine

/-! Reasons of a block (R324). -/

def rBadCode : Nat := 0x04
def rBadDistance : Nat := 0x05
def rBadSequence : Nat := 0x06

/-! Bits. -/

/-- Bits of bytes, least significant first. -/
def bitsOf (bs : List Byte) : List Bool := bs.flatMap fun b => (List.range 8).map b.getLsbD

def bitsNat : List Bool → Nat
  | [] => 0
  | b :: t => bit b + 2 * bitsNat t

/-- Bits of a stream that is read backwards, in the order of reading: below the highest 1 of the last byte. -/
def backBits (bs : List Byte) : Option (List Bool) :=
  let l := bs.reverse.flatMap fun b => (List.range 8).map fun i => b.getLsbD (7 - i)
  ((l.take 8).findIdx? id).map fun i => l.drop (i + 1)

/-- The next n bits of a backward stream as a number, first bit highest; bits past the end read 0. -/
def topBits (l : List Bool) (n : Nat) : Nat := bitsNat (l.take n).reverse * 2 ^ (n - l.length)

/-! FSE tables. -/

/-- One state: its symbol, the bits that its successor reads, and the base of the successor. -/
structure FseCell where
  sym  : Nat
  bits : Nat
  base : Nat
deriving DecidableEq, Repr

/-- An FSE decoding table of 2^log states. -/
structure Fse where
  log   : Nat
  cells : List FseCell
deriving DecidableEq, Repr

def Fse.cell (t : Fse) (i : Nat) : FseCell := t.cells.getD i ⟨0, 0, 0⟩

/-- Symbols of the table's positions: those of probability "less than 1" from the top down, the others spread. -/
def fseSpread (log : Nat) (probs : List Int) : List Nat :=
  let size := 2 ^ log
  let idx := List.range probs.length
  let low := idx.filter fun s => probs.getD s 0 = -1
  let order := (idx.filter fun s => 0 < probs.getD s 0).flatMap fun s => List.replicate (probs.getD s 0).toNat s
  let step := size / 2 + size / 8 + 3
  let places := ((List.range size).map fun i => i * step % size).filter fun p => p + low.length < size
  let at_ := places.zip order
  (List.range size).map fun i =>
    if size ≤ i + low.length then low.getD (size - 1 - i) 0
    else ((at_.find? fun e => e.1 = i).map (·.2)).getD 0

/-- The decoding table of a distribution (RFC 8878, 4.1.1). -/
def fseTable (log : Nat) (probs : List Int) : Fse :=
  let size := 2 ^ log
  let go := (fseSpread log probs).foldl (fun (s : List FseCell × Sparse Nat) sym =>
    let first := if probs.getD sym 0 = -1 then 1 else (probs.getD sym 0).toNat
    let x := Sparse.at s.2 first sym
    let n := log - Nat.log2 x
    ({ sym := sym, bits := n, base := x * 2 ^ n - size } :: s.1, Sparse.put s.2 sym (x + 1))) ([], [])
  { log := log, cells := go.1.reverse }

/-- Repeat flags after a probability 0: how many further symbols have it, and the bits taken. -/
def fseZeros (l : List Bool) : Nat → Nat → Nat × Nat
  | 0, o => (0, o)
  | fuel + 1, o =>
    let v := bitsNat ((l.drop o).take 2)
    if v = 3 then let r := fseZeros l fuel (o + 2); (3 + r.1, r.2) else (v, o + 2)

/-- The probabilities of a table description from bit `o` on: `left` is what remains of the total. -/
def fseProbs (l : List Bool) (most : Nat) : Nat → Nat → Nat → List Int → Option (List Int × Nat)
  | 0, _, _, _ => none
  | fuel + 1, left, o, acc =>
    if left = 0 then (if acc.length ≤ most + 1 then some (acc, o) else none)
    else if most < acc.length then none
    else
      let n := Nat.log2 (left + 1) + 1
      let v := bitsNat ((l.drop o).take n)
      let short := 2 ^ n - 2 - left
      let low := v % 2 ^ (n - 1)
      let (v, used) := if low < short then (low, n - 1) else if 2 ^ (n - 1) ≤ v then (v - short, n) else (v, n)
      let p : Int := (v : Int) - 1
      if p = 0 then
        let z := fseZeros l (most + 1) (o + used)
        fseProbs l most fuel left z.2 (acc ++ List.replicate (z.1 + 1) 0)
      else if left < p.natAbs then none
      else fseProbs l most fuel (left - p.natAbs) (o + used) (acc ++ [p])

/-- A table description: its table and its length in bytes. `log` and `most` bound the accuracy and the symbols. -/
def fseRead (bs : List Byte) (log most : Nat) : Option (Fse × Nat) :=
  let l := bitsOf bs
  let al := bitsNat (l.take 4) + 5
  if log < al then none
  else match fseProbs l most (most + 2) (2 ^ al) 4 [] with
    | none => none
    | some (ps, o) => if bs.isEmpty ∨ l.length < o then none else some (fseTable al ps, (o + 7) / 8)

/-! Huffman tables. -/

/-- A symbol with its code length and the places that its code takes in a table of 2^max. -/
structure ZCode where
  sym   : Nat
  len   : Nat
  first : Nat
  count : Nat
deriving DecidableEq, Repr

structure ZHuff where
  max   : Nat
  codes : List ZCode
deriving DecidableEq, Repr

/-- The table of all weights but the last, which makes the sum a power of 2 (RFC 8878, 4.2.1). -/
def zhuffOf (ws : List Nat) : Option ZHuff :=
  let sum := (ws.map fun w => if w = 0 then 0 else 2 ^ (w - 1)).sum
  let max := Nat.log2 sum + 1
  let rest := 2 ^ max - sum
  if sum = 0 ∨ 11 < max ∨ rest ≠ 2 ^ Nat.log2 rest ∨ 255 < ws.length ∨ (ws.any fun w => max < w) = true then none
  else
    let all := ws ++ [Nat.log2 rest + 1]
    let order := (List.range max).flatMap fun w => (List.range all.length).filter fun s => all.getD s 0 = w + 1
    let go := order.foldl (fun (s : List ZCode × Nat) sym =>
      let w := all.getD sym 0
      ({ sym := sym, len := max + 1 - w, first := s.2, count := 2 ^ (w - 1) } :: s.1, s.2 + 2 ^ (w - 1))) ([], 0)
    some { max := max, codes := go.1.reverse }

/-- Weights from an FSE stream with two states that take turns, until a state's update runs past the end. -/
def fseWeights (t : Fse) : Nat → Nat → Nat → List Bool → List Nat → List Nat
  | 0, _, _, _, acc => acc
  | fuel + 1, a, b, l, acc =>
    let x := t.cell a
    if l.length < x.bits then acc ++ [x.sym, (t.cell b).sym]
    else fseWeights t fuel b (x.base + topBits l x.bits) (l.drop x.bits) (acc ++ [x.sym])

/-- A Huffman tree description: its table and its length in bytes (RFC 8878, 4.2.1). -/
def zhuffRead (bs : List Byte) : Option (ZHuff × Nat) :=
  let h := bsNat bs 0 1
  if bs.isEmpty then none
  else if 128 ≤ h then
    let n := h - 127
    let k := (n + 1) / 2
    if bs.length < 1 + k then none
    else
      let ws := (List.range n).map fun i => let b := bsNat bs (1 + i / 2) 1; if i % 2 = 0 then b / 16 else b % 16
      (zhuffOf ws).map fun t => (t, 1 + k)
  else if bs.length < 1 + h then none
  else
    let part := (bs.drop 1).take h
    match fseRead part 6 255 with
    | none => none
    | some (t, k) => match backBits (part.drop k) with
      | none => none
      | some l =>
        if l.length < 2 * t.log then none
        else
          let a := topBits l t.log
          let b := topBits (l.drop t.log) t.log
          (zhuffOf (fseWeights t 256 a b (l.drop (2 * t.log)) [])).map fun z => (z, 1 + h)

/-- The symbols of one backward Huffman stream, which ends with its bits. -/
def zhuffSyms (t : ZHuff) : Nat → List Bool → List Byte → Option (List Byte)
  | 0, l, acc => if l.isEmpty then some acc.reverse else none
  | fuel + 1, l, acc =>
    if l.isEmpty then some acc.reverse
    else
      let i := topBits l t.max
      match t.codes.find? fun c => decide (c.first ≤ i) && decide (i < c.first + c.count) with
      | none => none
      | some c => if l.length < c.len then none else zhuffSyms t fuel (l.drop c.len) (BitVec.ofNat 8 c.sym :: acc)

/-- A stream of n symbols. -/
def zhuffStream (t : ZHuff) (bs : List Byte) (n : Nat) : Except Nat (List Byte) :=
  match backBits bs with
  | none => .error rBadCode
  | some l => match zhuffSyms t l.length l [] with
    | some out => if out.length = n then .ok out else .error rBadSequence
    | none => .error rBadCode

/-! What blocks of a frame hand on. -/

/-- The tables and the repeat offsets that a block leaves for the next one of its frame, and the frame's output so far, newest
first. -/
structure ZState where
  huff : Option ZHuff := none
  ll   : Option Fse := none
  of_  : Option Fse := none
  ml   : Option Fse := none
  rep  : Nat × Nat × Nat := (1, 4, 8)
  out  : List Byte := []
deriving DecidableEq, Repr

/-! Literals (RFC 8878, 3.1.1.3.1). -/

/-- Four streams of n literals behind their jump table. -/
def zFour (t : ZHuff) (bs : List Byte) (n : Nat) : Except Nat (List Byte) :=
  let a := bsNat bs 0 2
  let b := bsNat bs 2 2
  let c := bsNat bs 4 2
  let q := (n + 3) / 4
  if bs.length < 6 ∨ bs.length < 6 + a + b + c ∨ n < 3 * q then .error rBadSequence
  else
    let part (o k : Nat) : List Byte := (bs.drop (6 + o)).take k
    match zhuffStream t (part 0 a) q, zhuffStream t (part a b) q, zhuffStream t (part (a + b) c) q,
        zhuffStream t (bs.drop (6 + a + b + c)) (n - 3 * q) with
    | .ok w, .ok x, .ok y, .ok z => .ok (w ++ x ++ y ++ z)
    | .error r, _, _, _ => .error r
    | _, .error r, _, _ => .error r
    | _, _, .error r, _ => .error r
    | _, _, _, .error r => .error r

/-- The literals of a block, the length of their section, and the state after it. -/
def zLiterals (s : ZState) (bs : List Byte) : Except Nat (List Byte × Nat × ZState) :=
  let b0 := bsNat bs 0 1
  let ty := b0 % 4
  let sf := b0 / 4 % 4
  if bs.isEmpty then .error rBadSequence
  else if ty < 2 then
    let (hl, n) := if sf % 2 = 0 then (1, b0 / 8) else if sf = 1 then (2, bsNat bs 0 2 / 16) else (3, bsNat bs 0 3 / 16)
    let k := if ty = 0 then n else 1
    if bs.length < hl + k ∨ 131072 < n then .error rBadSequence
    else .ok (if ty = 0 then (bs.drop hl).take n else List.replicate n (bs.getD hl 0), hl + k, s)
  else
    let (hl, w) := if sf < 2 then (3, 10) else if sf = 2 then (4, 14) else (5, 18)
    let v := bsNat bs 0 hl / 16
    let n := v % 2 ^ w
    let k := v / 2 ^ w % 2 ^ w
    if bs.length < hl + k ∨ 131072 < n then .error rBadSequence
    else
      let body := (bs.drop hl).take k
      let tab : Option (ZHuff × Nat) := if ty = 2 then zhuffRead body else s.huff.map fun t => (t, 0)
      match tab with
      | none => .error rBadCode
      | some (t, o) =>
        match (if sf = 0 then zhuffStream t (body.drop o) n else zFour t (body.drop o) n) with
        | .error r => .error r
        | .ok l => .ok (l, hl + k, { s with huff := some t })

/-! Sequences (RFC 8878, 3.1.1.3.2). -/

def llBase : List Nat := (List.range 16) ++ [16, 18, 20, 22, 24, 28, 32, 40, 48, 64, 128, 256, 512, 1024, 2048, 4096, 8192, 16384, 32768, 65536]
def llExtra : List Nat := List.replicate 16 0 ++ [1, 1, 1, 1, 2, 2, 3, 3, 4, 6, 7, 8, 9, 10, 11, 12, 13, 14, 15, 16]
def mlBase : List Nat := (List.range 32).map (· + 3) ++ [35, 37, 39, 41, 43, 47, 51, 59, 67, 83, 99, 131, 259, 515, 1027, 2051, 4099, 8195, 16387, 32771, 65539]
def mlExtra : List Nat := List.replicate 32 0 ++ [1, 1, 1, 1, 2, 2, 3, 3, 4, 4, 5, 7, 8, 9, 10, 11, 12, 13, 14, 15, 16]

def llDefault : Fse := fseTable 6 [4, 3, 2, 2, 2, 2, 2, 2, 2, 2, 2, 2, 2, 1, 1, 1, 2, 2, 2, 2, 2, 2, 2, 2, 2, 3, 2, 1, 1, 1, 1, 1, -1, -1, -1, -1]
def mlDefault : Fse := fseTable 6 ([1, 4, 3, 2, 2, 2, 2, 2, 2] ++ List.replicate 37 1 ++ List.replicate 7 (-1))
def ofDefault : Fse := fseTable 5 ([1, 1, 1, 1, 1, 1, 2, 2, 2] ++ List.replicate 15 1 ++ List.replicate 5 (-1))

/-- The table that a mode selects, and the bytes that it takes: predefined, RLE, described, repeated. -/
def zTable (mode : Nat) (bs : List Byte) (log most : Nat) (dflt : Fse) (old : Option Fse) : Option (Fse × Nat) :=
  match mode with
  | 0 => some (dflt, 0)
  | 1 =>
    let s := bsNat bs 0 1
    if bs.isEmpty ∨ most < s then none else some ({ log := 0, cells := [⟨s, 0, 0⟩] }, 1)
  | 2 => fseRead bs log most
  | _ => old.map fun t => (t, 0)

/-- Number of sequences, and the bytes that it takes. -/
def zCount (bs : List Byte) : Option (Nat × Nat) :=
  let b := bsNat bs 0 1
  if bs.isEmpty then none
  else if b < 128 then some (b, 1)
  else if b < 255 then (if bs.length < 2 then none else some ((b - 128) * 256 + bsNat bs 1 1, 2))
  else if bs.length < 3 then none else some (bsNat bs 1 2 + 0x7F00, 3)

/-- The offset that an offset value names, and the repeat offsets after it; none is the offset 0. -/
def zOffset (rep : Nat × Nat × Nat) (v ll : Nat) : Option (Nat × (Nat × Nat × Nat)) :=
  let (a, b, c) := rep
  if 3 < v then some (v - 3, (v - 3, a, b))
  else match v - 1 + (if ll = 0 then 1 else 0) with
    | 0 => some (a, rep)
    | 1 => some (b, (b, a, c))
    | 2 => some (c, (c, a, b))
    | _ => if a ≤ 1 then none else some (a - 1, (a - 1, a, b))

/-- Bytes of a match, oldest first, from output newest first. -/
def copyMatch (out : List Byte) (dist : Nat) : Nat → List Byte
  | 0 => []
  | n + 1 => let b := out.getD (dist - 1) 0; b :: copyMatch (b :: out) dist n

/-- The sequences executed: each takes literals and then a match; the states move after every sequence but the last. -/
def zSeqs (ll of_ ml : Fse) (win : Nat) : Nat → Nat × Nat × Nat → List Bool → List Byte → ZState → Except Nat (List Byte × ZState)
  | 0, _, l, lits, s => if l.isEmpty then .ok (lits, s) else .error rBadSequence
  | n + 1, (a, b, c), l, lits, s =>
    let x := ll.cell a
    let y := of_.cell b
    let z := ml.cell c
    let xb := llExtra.getD x.sym 0
    let zb := mlExtra.getD z.sym 0
    if l.length < y.sym + zb + xb then .error rBadSequence
    else
      let v := 2 ^ y.sym + topBits l y.sym
      let l1 := l.drop y.sym
      let m := mlBase.getD z.sym 0 + topBits l1 zb
      let l2 := l1.drop zb
      let k := llBase.getD x.sym 0 + topBits l2 xb
      let l3 := l2.drop xb
      if lits.length < k then .error rBadSequence
      else
        let out := (lits.take k).reverse ++ s.out
        match zOffset s.rep v k with
        | none => .error rBadDistance
        | some (d, rep) =>
          if out.length < d ∨ win < d then .error rBadDistance
          else
            let s1 : ZState := { s with rep := rep, out := (copyMatch out d m).reverse ++ out }
            if n = 0 then zSeqs ll of_ ml win 0 (a, b, c) l3 (lits.drop k) s1
            else if l3.length < x.bits + z.bits + y.bits then .error rBadSequence
            else
              let a1 := x.base + topBits l3 x.bits
              let l4 := l3.drop x.bits
              let c1 := z.base + topBits l4 z.bits
              let l5 := l4.drop z.bits
              zSeqs ll of_ ml win n (a1, y.base + topBits l5 y.bits, c1) (l5.drop y.bits) (lits.drop k) s1

/-- A compressed block: the state after it, whose output holds what the block adds, or a reason (R324). -/
def zBlock (s : ZState) (win : Nat) (bs : List Byte) : Except Nat ZState :=
  match zLiterals s bs with
  | .error r => .error r
  | .ok (lits, o, s1) =>
    let rest := bs.drop o
    match zCount rest with
    | none => .error rBadSequence
    | some (n, k) =>
      if n = 0 then (if rest.length = k then .ok { s1 with out := lits.reverse ++ s1.out } else .error rBadSequence)
      else if rest.length ≤ k ∨ bsNat rest k 1 % 4 ≠ 0 then .error rBadSequence
      else
        let modes := bsNat rest k 1
        let p0 := rest.drop (k + 1)
        match zTable (modes / 64) p0 9 35 llDefault s1.ll with
        | none => .error rBadCode
        | some (ll, i) => match zTable (modes / 16 % 4) (p0.drop i) 8 31 ofDefault s1.of_ with
          | none => .error rBadCode
          | some (of_, j) => match zTable (modes / 4 % 4) (p0.drop (i + j)) 9 52 mlDefault s1.ml with
            | none => .error rBadCode
            | some (ml, m) => match backBits (p0.drop (i + j + m)) with
              | none => .error rBadSequence
              | some l =>
                if l.length < ll.log + of_.log + ml.log then .error rBadSequence
                else
                  let a := topBits l ll.log
                  let l1 := l.drop ll.log
                  let b := topBits l1 of_.log
                  let l2 := l1.drop of_.log
                  let c := topBits l2 ml.log
                  match zSeqs ll of_ ml win n (a, b, c) (l2.drop ml.log) lits
                      { s1 with ll := some ll, of_ := some of_, ml := some ml } with
                  | .error r => .error r
                  | .ok (more, s2) =>
                    if s.out.length + 131072 < s2.out.length + more.length then .error rBadSequence
                    else .ok { s2 with out := more.reverse ++ s2.out }

end Sys2Proof.Machine
end

