-- ==== Sys2Proof/Machine/Deflate.lean ====
section
/-! DEFINITION. The compressed formats: what DECOMPRESS accepts and what COMPRESS produces (R315-R319, R323, R324). The
codes that a match search picks are free (log 15). -/

namespace Sys2Proof.Machine

/-! Reasons (R324). -/

def rTruncated : Nat := 0x01
def rBadHeader : Nat := 0x02
def rBadBlock : Nat := 0x03
def rDictionary : Nat := 0x07
def rWindow : Nat := 0x08
def rCtxSmall : Nat := 0x09
def rCtxInvalid : Nat := 0x0A
def rBlockCrc : Nat := 0x0B

/-- INPUT_ERROR for reasons below 0x10, CHECK_FAIL below 0x20, EXPANSION_LIMIT above (R324). -/
def reasonStatus (r : Nat) : Nat := if r < 0x10 then 0x05 else if r < 0x20 then 0x07 else 0x06

/-! Raw deflate (RFC 1951). -/

/-- A decoder's position: bits left, bits taken, output so far newest first, and output pieces newest first with the bits
taken when each was made. -/
structure Inf where
  bits : List Bool
  pos  : Nat := 0
  out  : List Byte := []
  made : List (List Byte × Nat) := []
deriving DecidableEq, Repr

/-- A stage's result. -/
inductive InfRes where
  | ok (s : Inf)
  | err (reason : Nat) (s : Inf)
deriving DecidableEq, Repr

def Inf.get (s : Inf) (n : Nat) : Option (Nat × Inf) :=
  if s.bits.length < n then none else some (bitsNat (s.bits.take n), { s with bits := s.bits.drop n, pos := s.pos + n })

def Inf.emit (s : Inf) (bs : List Byte) : Inf := { s with out := bs.reverse ++ s.out, made := (bs, s.pos) :: s.made }

/-- A canonical code: how many codes of each length 1 to 15, and the symbols in order. -/
structure Huff where
  counts : List Nat
  syms   : List Nat
deriving DecidableEq, Repr

def huffOf (lens : List Nat) : Huff :=
  { counts := (List.range 15).map fun i => lens.count (i + 1)
    syms := (List.range 15).flatMap fun i => (List.range lens.length).filter fun s => lens.getD s 0 = i + 1 }

/-- Codes left unused at length 15, or none when over-subscribed. -/
def Huff.left (h : Huff) : Option Nat :=
  h.counts.foldl (fun (l : Option Nat) n => l.bind fun l => if 2 * l < n then none else some (2 * l - n)) (some 1)

/-- A symbol decoded; the inner none is a bit sequence that matches no code. -/
def huffSym (syms : List Nat) : List Nat → Nat → Nat → Nat → Inf → Option (Option Nat × Inf)
  | [], _, _, _, s => some (none, s)
  | n :: t, code, first, index, s =>
    match s.get 1 with
    | none => none
    | some (b, s) =>
      let code := code + b
      if code < first + n then some (some (syms.getD (index + (code - first)) 0), s)
      else huffSym syms t (2 * code) (2 * (first + n)) (index + n) s

def Huff.sym (h : Huff) (s : Inf) : Option (Option Nat × Inf) := huffSym h.syms h.counts 0 0 0 s

def lenBase : List Nat := [3, 4, 5, 6, 7, 8, 9, 10, 11, 13, 15, 17, 19, 23, 27, 31, 35, 43, 51, 59, 67, 83, 99, 115, 131, 163, 195, 227, 258]
def lenExtra : List Nat := [0, 0, 0, 0, 0, 0, 0, 0, 1, 1, 1, 1, 2, 2, 2, 2, 3, 3, 3, 3, 4, 4, 4, 4, 5, 5, 5, 5, 0]
def distBase : List Nat := [1, 2, 3, 4, 5, 7, 9, 13, 17, 25, 33, 49, 65, 97, 129, 193, 257, 385, 513, 769, 1025, 1537, 2049, 3073, 4097, 6145, 8193, 12289, 16385, 24577]
def distExtra : List Nat := [0, 0, 0, 0, 1, 1, 2, 2, 3, 3, 4, 4, 5, 5, 6, 6, 7, 7, 8, 8, 9, 9, 10, 10, 11, 11, 12, 12, 13, 13]

/-- The symbols of a block up to end of block. -/
def infCodes (lit dist : Huff) (window : Nat) : Nat → Inf → InfRes
  | 0, s => .err rTruncated s
  | fuel + 1, s =>
    match lit.sym s with
    | none => .err rTruncated s
    | some (none, s) => .err rBadCode s
    | some (some v, s) =>
      if v < 256 then infCodes lit dist window fuel (s.emit [BitVec.ofNat 8 v])
      else if v = 256 then .ok s
      else if 286 ≤ v then .err rBadCode s
      else
        match s.get (lenExtra.getD (v - 257) 0) with
        | none => .err rTruncated s
        | some (x, s) =>
          let len := lenBase.getD (v - 257) 0 + x
          match dist.sym s with
          | none => .err rTruncated s
          | some (none, s) => .err rBadCode s
          | some (some d, s) =>
            if 30 ≤ d then .err rBadCode s
            else match s.get (distExtra.getD d 0) with
              | none => .err rTruncated s
              | some (y, s) =>
                let far := distBase.getD d 0 + y
                if s.out.length < far ∨ window < far then .err rBadDistance s
                else infCodes lit dist window fuel (s.emit (copyMatch s.out far len))

def fixedLit : Huff := huffOf (List.replicate 144 8 ++ List.replicate 112 9 ++ List.replicate 24 7 ++ List.replicate 8 8)
def fixedDist : Huff := huffOf (List.replicate 32 5)

def clOrder : List Nat := [16, 17, 18, 0, 8, 7, 9, 6, 10, 5, 11, 4, 12, 3, 13, 2, 14, 1, 15]

/-- The code lengths of a dynamic block, `n` in all. -/
def infLens (cl : Huff) (n : Nat) : Nat → List Nat → Inf → Except (Nat × Inf) (List Nat × Inf)
  | 0, _, s => .error (rTruncated, s)
  | fuel + 1, acc, s =>
    if n = acc.length then .ok (acc, s)
    else match cl.sym s with
      | none => .error (rTruncated, s)
      | some (none, s) => .error (rBadCode, s)
      | some (some v, s) =>
        let rep (bits base x : Nat) (s : Inf) : Except (Nat × Inf) (List Nat × Inf) :=
          match s.get bits with
          | none => .error (rTruncated, s)
          | some (k, s) => if n < acc.length + base + k then .error (rBadCode, s) else .ok (acc ++ List.replicate (base + k) x, s)
        let r : Except (Nat × Inf) (List Nat × Inf) :=
          if v < 16 then .ok (acc ++ [v], s)
          else if v = 16 then (if acc.isEmpty then .error (rBadCode, s) else rep 2 3 (acc.getLastD 0) s)
          else if v = 17 then rep 3 3 0 s
          else rep 7 11 0 s
        match r with
        | .error e => .error e
        | .ok (acc, s) => infLens cl n fuel acc s

/-- A dynamic block's tables (R324: what BAD_CODE refuses). -/
def infDynamic (window : Nat) (s : Inf) : InfRes :=
  match s.get 14 with
  | none => .err rTruncated s
  | some (v, s) =>
    let hl := v % 32 + 257
    let hd := v / 32 % 32 + 1
    let hc := v / 1024 + 4
    if 286 < hl ∨ 30 < hd then .err rBadCode s
    else match s.get (3 * hc) with
      | none => .err rTruncated s
      | some (cv, s) =>
        let lens := (List.range 19).map fun sy =>
          match clOrder.findIdx? (· = sy) with
          | some i => if i < hc then cv / 8 ^ i % 8 else 0
          | none => 0
        let cl := huffOf lens
        if cl.left ≠ some 0 then .err rBadCode s
        else match infLens cl (hl + hd) (hl + hd + 1) [] s with
          | .error (r, s) => .err r s
          | .ok (ls, s) =>
            let lit := huffOf (ls.take hl)
            let dist := huffOf (ls.drop hl)
            let oneDist := decide (dist.counts.sum = 1) && decide (dist.counts.headD 0 = 1)
            if lit.left ≠ some 0 then .err rBadCode s
            else if dist.left ≠ some 0 ∧ oneDist = false then .err rBadCode s
            else infCodes lit dist window (s.bits.length + 1) s

/-- A stored block: its pieces of output byte by byte. -/
def infStored (s : Inf) : InfRes :=
  let pad := (8 - s.pos % 8) % 8
  match s.get pad with
  | none => .err rTruncated s
  | some (_, s) => match s.get 32 with
    | none => .err rTruncated s
    | some (v, s) =>
      let len := v % 65536
      if v / 65536 ≠ 65535 - len then .err rBadBlock s
      else
        let rec go (n : Nat) (s : Inf) : InfRes :=
          match n with
          | 0 => .ok s
          | n + 1 => match s.get 8 with
            | none => .err rTruncated s
            | some (b, s) => go n (s.emit [BitVec.ofNat 8 b])
        go len s

/-- The blocks of a raw deflate stream up to the one with BFINAL (R316). -/
def inflate (window : Nat) : Nat → Inf → InfRes
  | 0, s => .err rTruncated s
  | fuel + 1, s =>
    match s.get 3 with
    | none => .err rTruncated s
    | some (v, s) =>
      let r := match v / 2 with
        | 0 => infStored s
        | 1 => infCodes fixedLit fixedDist window (s.bits.length + 1) s
        | 2 => infDynamic window s
        | _ => .err rBadBlock s
      match r with
      | .err e s => .err e s
      | .ok s => if v % 2 = 1 then .ok s else inflate window fuel s

/-! Whole inputs. -/

/-- What a decoder finds: output pieces, oldest first, each with the input bytes taken in when it was made; the input bytes
taken in at the end; why it stopped, if not at the end; and where the completed members, frames or blocks end, in input and
in output. -/
structure Dec where
  made : List (List Byte × Nat)
  used : Nat
  err  : Option Nat
  ends : List (Nat × Nat)
deriving DecidableEq, Repr

/-- Bytes in a list of output pieces. -/
def madeLen (made : List (List Byte × Nat)) : Nat := (made.map (·.1.length)).sum

/-- Members, frames or blocks already complete when a descriptor starts, after `took` bytes of input and `out` of output. -/
def Dec.before (d : Dec) (took out : Nat) : Nat := d.ends.countP fun e => decide (e.1 ≤ took) && decide (e.2 ≤ out)

/-- Members, frames or blocks completed since a descriptor started (R326). -/
def Dec.done (d : Dec) (took out : Nat) : Nat := d.ends.length - d.before took out

/-- The index, from 0 since a descriptor started, of the one that holds output byte number `stop` (R326). -/
def Dec.indexAt (d : Dec) (took out stop : Nat) : Nat := d.ends.countP (fun e => decide (e.2 ≤ stop)) - d.before took out

/-- Pieces of a deflate stream that starts at input byte `at_`. -/
def Inf.pieces (s : Inf) (at_ : Nat) : List (List Byte × Nat) := s.made.reverse.map fun e => (e.1, at_ + (e.2 + 7) / 8)

def decDeflate (bs : List Byte) : Dec :=
  match inflate 32768 (8 * bs.length + 1) { bits := bitsOf bs } with
  | .ok s => { made := s.pieces 0, used := (s.pos + 7) / 8, err := none, ends := [((s.pos + 7) / 8, s.out.length)] }
  | .err r s => { made := s.pieces 0, used := (s.pos + 7) / 8, err := some r, ends := [] }

def decZlib (bs : List Byte) : Dec :=
  let stop (used r : Nat) : Dec := { made := [], used := used, err := some r, ends := [] }
  if bs.length < 2 then stop bs.length rTruncated
  else
    let cmf := bsNat bs 0 1
    let flg := bsNat bs 1 1
    if cmf % 16 ≠ 8 ∨ 8 ≤ cmf / 16 ∨ (cmf * 256 + flg) % 31 ≠ 0 then stop 2 rBadHeader
    else if flg / 32 % 2 = 1 then stop 2 rDictionary
    else match inflate (2 ^ (cmf / 16 + 8)) (8 * bs.length + 1) { bits := bitsOf (bs.drop 2) } with
      | .err r s => { made := s.pieces 2, used := 2 + (s.pos + 7) / 8, err := some r, ends := [] }
      | .ok s =>
        let e := 2 + (s.pos + 7) / 8
        if bs.length < e + 4 then { made := s.pieces 2, used := bs.length, err := some rTruncated, ends := [] }
        else if beNat bs e 4 ≠ adler32 s.out.reverse then { made := s.pieces 2, used := e + 4, err := some 0x10, ends := [] }
        else { made := s.pieces 2, used := e + 4, err := none, ends := [(e + 4, s.out.length)] }

/-- Length of a zero-terminated field, its terminator included. -/
def zeroTerm (bs : List Byte) (o : Nat) : Option Nat := ((bs.drop o).findIdx? (· = 0)).map (· + 1)

/-- A gzip member header: its length, or a reason (R316). -/
def gzipHeader (bs : List Byte) : Except Nat Nat :=
  if bsNat bs 0 (min 2 bs.length) ≠ 0x8B1F % 256 ^ min 2 bs.length then .error rBadHeader
  else if bs.length < 10 then .error rTruncated
  else
    let flg := bsNat bs 3 1
    if bsNat bs 2 1 ≠ 8 ∨ 32 ≤ flg then .error rBadHeader
    else
      let o := 10
      let step (r : Except Nat Nat) (on : Bool) (f : Nat → Option Nat) : Except Nat Nat :=
        match r with
        | .error e => .error e
        | .ok o => if on then (match f o with | some n => .ok (o + n) | none => .error rTruncated) else .ok o
      let r := step (.ok o) (flg / 4 % 2 = 1) fun o =>
        if bs.length < o + 2 ∨ bs.length < o + 2 + bsNat bs o 2 then none else some (2 + bsNat bs o 2)
      let r := step r (flg / 8 % 2 = 1) (zeroTerm bs)
      let r := step r (flg / 16 % 2 = 1) (zeroTerm bs)
      match r with
      | .error e => .error e
      | .ok o =>
        if flg / 2 % 2 = 0 then .ok o
        else if bs.length < o + 2 then .error rTruncated
        else if bsNat bs o 2 ≠ crcOf poly32 0 (bs.take o) % 65536 then .error rBadHeader else .ok (o + 2)

/-- Consecutive gzip members until the input ends (R316). -/
def decGzip (bs : List Byte) : Nat → Nat → List (Nat × Nat) → List (List Byte × Nat) → Dec
  | 0, at_, ends, acc => { made := acc, used := at_, err := some rTruncated, ends := ends }
  | fuel + 1, at_, ends, acc =>
    let rest := bs.drop at_
    if rest.isEmpty ∧ ends ≠ [] then { made := acc, used := at_, err := none, ends := ends }
    else match gzipHeader rest with
      | .error r => { made := acc, used := if r = rTruncated then bs.length else at_, err := some r, ends := ends }
      | .ok h => match inflate 32768 (8 * rest.length + 1) { bits := bitsOf (rest.drop h) } with
        | .err r s => { made := acc ++ s.pieces (at_ + h), used := at_ + h + (s.pos + 7) / 8, err := some r, ends := ends }
        | .ok s =>
          let e := h + (s.pos + 7) / 8
          let acc := acc ++ s.pieces (at_ + h)
          let out := s.out.reverse
          if rest.length < e + 8 then { made := acc, used := bs.length, err := some rTruncated, ends := ends }
          else if bsNat rest e 4 ≠ crcOf poly32 0 out ∨ bsNat rest (e + 4) 4 ≠ out.length % 2 ^ 32 then
            { made := acc, used := at_ + e + 8, err := some 0x11, ends := ends }
          else decGzip bs fuel (at_ + e + 8) ((at_ + e + 8, madeLen acc) :: ends) acc

/-- A zstd frame header (RFC 8878): its length, content size, window, whether a checksum follows; or a reason. -/
structure ZHdr where
  len   : Nat
  size  : Option Nat
  win   : Nat
  check : Bool
deriving DecidableEq, Repr

def zstdHeader (bs : List Byte) (ctx : Option Nat) : Except Nat ZHdr :=
  if bs.length < 5 then .error rTruncated
  else
    let d := bsNat bs 4 1
    let single := decide (d / 32 % 2 = 1)
    let didLen := [0, 1, 2, 4].getD (d % 4) 0
    let fcsLen := match d / 64 with | 0 => (if single then 1 else 0) | 1 => 2 | 2 => 4 | _ => 8
    let wLen := if single then 0 else 1
    let n := 5 + wLen + didLen + fcsLen
    if d / 8 % 2 = 1 then .error rBadHeader
    else if bs.length < n then .error rTruncated
    else
      let w := bsNat bs 5 1
      let raw := bsNat bs (5 + wLen + didLen) fcsLen
      let fcs := if fcsLen = 2 then raw + 256 else raw
      let base := 2 ^ (10 + w / 8)
      let win := if single then fcs else base + base / 8 * (w % 8)
      if bsNat bs (5 + wLen) didLen ≠ 0 then .error rDictionary
      else if 2 ^ 23 < win then .error rWindow
      else match ctx with
        | some l2 =>
          if 2 ^ l2 < win + 262144 then .error rCtxSmall
          else .ok { len := n, size := if fcsLen = 0 then none else some fcs, win := win, check := d / 4 % 2 = 1 }
        | none => .ok { len := n, size := if fcsLen = 0 then none else some fcs, win := win, check := d / 4 % 2 = 1 }

/-- The blocks of a zstd frame from offset `o` of the frame: pieces, the offset after the last block, or a reason. -/
def zstdBlocks (bs : List Byte) (at_ win : Nat) : Nat → Nat → ZState → List (List Byte × Nat) → List (List Byte × Nat) × Nat × Option Nat
  | 0, o, _, acc => (acc, o, some rTruncated)
  | fuel + 1, o, s, acc =>
    if bs.length < o + 3 then (acc, bs.length, some rTruncated)
    else
      let h := bsNat bs o 3
      let ty := h / 2 % 4
      let n := h / 8
      if ty = 3 ∨ 131072 < n then (acc, o + 3, some rBadBlock)
      else
        let inLen := if ty = 1 then 1 else n
        if bs.length < o + 3 + inLen then (acc, bs.length, some rTruncated)
        else
          let body := (bs.drop (o + 3)).take inLen
          let next : Except Nat ZState :=
            match ty with
            | 0 => .ok { s with out := body.reverse ++ s.out }
            | 1 => .ok { s with out := List.replicate n (body.headD 0) ++ s.out }
            | _ => zBlock s win body
          match next with
          | .error r => (acc, o + 3 + inLen, some r)
          | .ok t =>
            let acc := acc ++ [((t.out.take (t.out.length - s.out.length)).reverse, at_ + o + 3 + inLen)]
            if h % 2 = 1 then (acc, o + 3 + inLen, none) else zstdBlocks bs at_ win fuel (o + 3 + inLen) t acc

/-- Consecutive zstd frames until the input ends (R316). -/
def decZstd (bs : List Byte) (ctx : Option Nat) : Nat → Nat → List (Nat × Nat) → List (List Byte × Nat) → Dec
  | 0, at_, ends, acc => { made := acc, used := at_, err := some rTruncated, ends := ends }
  | fuel + 1, at_, ends, acc =>
    let rest := bs.drop at_
    if rest.isEmpty ∧ ends ≠ [] then { made := acc, used := at_, err := none, ends := ends }
    else if rest.length < 4 then { made := acc, used := bs.length, err := some rTruncated, ends := ends }
    else
      let magic := bsNat rest 0 4
      if magic / 16 = 0x184D2A5 then
        if rest.length < 8 ∨ rest.length < 8 + bsNat rest 4 4 then { made := acc, used := bs.length, err := some rTruncated, ends := ends }
        else
          let e := at_ + 8 + bsNat rest 4 4
          decZstd bs ctx fuel e ((e, madeLen acc) :: ends) acc
      else if magic ≠ 0xFD2FB528 then { made := acc, used := at_, err := some rBadHeader, ends := ends }
      else match zstdHeader rest ctx with
        | .error r => { made := acc, used := if r = rTruncated then bs.length else at_, err := some r, ends := ends }
        | .ok h =>
          let (ps, o, e) := zstdBlocks rest at_ h.win (rest.length + 1) h.len {} []
          match e with
          | some r => { made := acc ++ ps, used := at_ + o, err := some r, ends := ends }
          | none =>
            let out := ps.flatMap (·.1)
            let n := if h.check then o + 4 else o
            if rest.length < n then { made := acc ++ ps, used := bs.length, err := some rTruncated, ends := ends }
            else if h.check ∧ bsNat rest o 4 ≠ xxh64 out % 2 ^ 32 then { made := acc ++ ps, used := at_ + n, err := some 0x12, ends := ends }
            else if h.size ≠ none ∧ h.size ≠ some out.length then { made := acc ++ ps, used := at_ + n, err := some 0x13, ends := ends }
            else decZstd bs ctx fuel (at_ + n) ((at_ + n, madeLen (acc ++ ps)) :: ends) (acc ++ ps)

/-- The decoding of a stream format (R313, R316). -/
def decStream (format : Nat) (ctx : Option Nat) (bs : List Byte) : Dec :=
  match format with
  | 0 => decDeflate bs
  | 1 => decZlib bs
  | 2 => decGzip bs (bs.length + 1) 0 [] []
  | _ => decZstd bs ctx (bs.length + 1) 0 [] []

/-- A container payload decoded (R319, step 3). -/
def decPayload (alg len : Nat) (bs : List Byte) : Except Nat (List Byte) :=
  let d := if alg = 1 then decDeflate bs else decZstd bs none 1 0 [] []
  let out := d.made.flatMap (·.1)
  if alg = 0 then .ok bs
  else if alg = 2 ∧ 5 ≤ bs.length ∧ bsNat bs 0 4 = 0xFD2FB528 ∧ (bsNat bs 4 1 / 32 % 2 = 0 ∨ bsNat bs 4 1 / 4 % 2 = 1) then
    -- Not a frame of ALG 2 (R317).
    .error rBadBlock
  else match d.err with
    | some r =>
      -- One zstd frame is decoded; a second one, or an end inside the payload's own stream, is a bad block.
      if r = rTruncated ∧ alg = 2 ∧ d.ends.length = 1 then (if d.used = bs.length ∧ out.length = len then .ok out else .error rBadBlock)
      else if r = rTruncated then .error rBadBlock else .error r
    | none => if d.used = bs.length ∧ out.length = len then .ok out else .error rBadBlock

/-! Guards (R323) and output space (R320). -/

/-- Where output stops. -/
inductive Stop where
  | none | full | limit | ratio
deriving DecidableEq, Repr

/-- Output byte by byte under OUT_LIMIT, MAX_RATIO and the space for `cap` bytes in all: bytes in order, the input taken in
when it stopped, and why. -/
def emitGuarded (limit ratio cap : Nat) : List (List Byte × Nat) → List Byte → Nat → Nat → List Byte × Nat × Stop
  | [], acc, _, used => (acc, used, .none)
  | (bs, ti) :: t, acc, n, _ =>
    let room := min cap (min (if limit = 0 then cap + bs.length else limit * 4096) (if ratio = 0 then cap + bs.length else ratio * ti + 65536))
    if n + bs.length ≤ room then emitGuarded limit ratio cap t (acc ++ bs) (n + bs.length) ti
    else
      let k := room - n
      (acc ++ bs.take k, ti,
        if limit ≠ 0 ∧ room = limit * 4096 ∧ limit * 4096 ≤ (if ratio = 0 then room else ratio * ti + 65536) ∧ limit * 4096 < cap + 1 then .limit
        else if ratio ≠ 0 ∧ ratio * ti + 65536 ≤ room ∧ ratio * ti + 65536 < cap + 1 then .ratio
        else .full)

/-! Streams produced (R315). -/

/-- Input cut into blocks of n bytes, n > 0. -/
def cutBlocks (n : Nat) (bs : List Byte) : List (List Byte) :=
  (List.range ((bs.length + n - 1) / n)).map fun i => (bs.drop (i * n)).take n

/-- Bits of a number, least significant first. -/
def natBits (x n : Nat) : List Bool := (List.range n).map fun i => decide (x / 2 ^ i % 2 = 1)

/-- Stored blocks for a piece of input at a bit position; a stored block holds at most 65,535 bytes. -/
def storedBits (pos : Nat) (bs : List Byte) (last : Bool) : List Bool :=
  let one (pos : Nat) (bs : List Byte) (fin : Bool) : List Bool :=
    [fin, false, false] ++ List.replicate ((8 - (pos + 3) % 8) % 8) false ++ natBits bs.length 16 ++ natBits (65535 - bs.length) 16 ++ bitsOf bs
  if bs.length ≤ 65535 then one pos bs last
  else
    let a := one pos (bs.take 65535) false
    a ++ one (pos + a.length) (bs.drop 65535) last

/-- The bits after each block of a deflate stream: dynamic Huffman, or stored when that is no larger (R315). A dynamic
block holds more than 48 bits, by the code lengths that RFC 1951 makes it carry, so that one byte is always stored (DEDUCED,
log 15). -/
def deflateParts (level : Nat) (done : List Byte) (pos : Nat) : List (List Byte) → List (List Bool)
  | [] => []
  | b :: t =>
    let last := t.isEmpty
    let dyn := [last, false, true] ++ Config.deflateBlock level (done.drop (done.length - 32768)) b
    let sto := storedBits pos b last
    let p := if sto.length ≤ 48 ∨ sto.length ≤ dyn.length then sto else dyn
    p :: deflateParts level (done ++ b) (pos + p.length) t

/-- Bytes of bits, the last one padded with zeros. -/
def bytesOfBits (l : List Bool) : List Byte := (List.range ((l.length + 7) / 8)).map fun i => BitVec.ofNat 8 (bitsNat ((l.drop (8 * i)).take 8))

/-- The bodies of a zstd frame's blocks: compressed, raw or RLE, whichever is smallest (R315). -/
def zstdParts (level : Nat) (done : List Byte) : List (List Byte) → List (List Byte)
  | [] => []
  | b :: t =>
    let z := Config.zstdBlock level done b
    let rle := b.all (· = b.headD 0)
    let last := if t.isEmpty then 1 else 0
    let p := if rle ∧ 1 ≤ z.length then leBytes (last + 2 + b.length * 8) 3 ++ b.take 1
      else if z.length < b.length then leBytes (last + 4 + z.length * 8) 3 ++ z
      else leBytes (last + b.length * 8) 3 ++ b
    p :: zstdParts level (done ++ b) t

/-- A stream that COMPRESS produces from a whole input, in parts: what is written before the first block, then one part for
each block of input; with the size of an input block and the check value of the trailer (R315, R326). -/
structure Made where
  parts : List (List Byte)
  block : Nat
  check : Nat
deriving DecidableEq, Repr

/-- Byte parts of bit parts: a part ends at the last whole byte, the rest waits for the next part. -/
def partBytes (acc : List Bool) : List (List Bool) → List (List Byte)
  | [] => []
  | p :: t =>
    let l := acc ++ p
    let n := if t.isEmpty then l.length else l.length / 8 * 8
    bytesOfBits (l.take n) :: partBytes (l.drop n) t

def appendLast (l : List (List Byte)) (x : List Byte) : List (List Byte) :=
  l.dropLast ++ [l.getLastD [] ++ x]

def encStream (format level total : Nat) (bs : List Byte) : Made :=
  let defl := partBytes [] (deflateParts level [] 0 (cutBlocks 65536 bs))
  match format with
  | 0 => { parts := [] :: defl, block := 65536, check := 0 }
  | 1 =>
    let a := adler32 bs
    { parts := [0x78#8, [0x01#8, 0x9C#8, 0xDA#8].getD level 0] :: appendLast defl (beBytes a 4), block := 65536, check := a }
  | 2 =>
    let a := crcOf poly32 0 bs
    { parts := [0x1F#8, 0x8B#8, 8#8, 0#8, 0#8, 0#8, 0#8, 0#8, [4#8, 0#8, 2#8].getD level 0, 255#8]
        :: appendLast defl (leBytes a 4 ++ leBytes (bs.length % 2 ^ 32) 4), block := 65536, check := a }
  | _ =>
    let a := xxh64 bs % 2 ^ 32
    { parts := (leBytes 0xFD2FB528 4 ++ [0x84#8, 0x50#8] ++ leBytes total 4) :: appendLast (zstdParts level [] (cutBlocks 131072 bs)) (leBytes a 4),
      block := 131072, check := a }

/-! The block container (R317, R318). -/

def containerMagic : Nat := 0x4B424853

/-- A container block of input: its header, payload and padding. -/
def containerBlock (zstd : Bool) (level offset : Nat) (bs : List Byte) : List Byte :=
  let pay : List Byte :=
    if zstd then
      let n := bs.length
      let fcs := leBytes n 4
      (leBytes 0xFD2FB528 4 ++ [0xA0#8] ++ fcs) ++ (zstdParts level [] (cutBlocks 131072 bs)).flatten
    else bytesOfBits (deflateParts level [] 0 (cutBlocks 65536 bs)).flatten
  let stored := decide (bs.length ≤ pay.length)
  let body := if stored then bs else pay
  let alg : Byte := if stored then 0 else if zstd then 2 else 1
  let h := leBytes containerMagic 4 ++ [1#8, alg, 0#8, 0#8] ++ leBytes offset 8 ++ leBytes bs.length 4 ++ leBytes body.length 4
    ++ leBytes (crcOf polyC 0 bs) 4
  let h := h ++ leBytes (crcOf polyC 0 (h ++ body)) 4
  let all := h ++ body
  all ++ List.replicate ((32 - all.length % 32) % 32) 0

end Sys2Proof.Machine
end

