-- ==== Sys2Proof/Machine/Ethernet.lean ====
section
/-! DEFINITION. Ethernet ports, steering, the flow table, receive deposit and transmit (R260-R305). -/

namespace Sys2Proof.Machine

/-! Counts and buckets. -/

/-- A count of a MAC by ITEM and place (R301): 32-bit counts saturate, 64-bit counts wrap. -/
def Chip.ethCount (c : Chip) (p m item place : Nat) (n : Nat := 1) : Chip :=
  let wide := decide (item = 0 ∨ item = 1 ∨ item = 4 ∨ item = 5)
  c.modMac p m fun x => { x with cnt := Sparse.upd x.cnt 0 (4 * item + place) fun v =>
    if wide then (v + n) % 2 ^ 64 else min (2 ^ 32 - 1) (v + n) }

/-- Tokens now: RATE in 100 Mbit/s is RATE bits in each 10 ns of mtime, up to BURST KiB (R292, R416). -/
def Bucket.refill (b : Bucket) (rate burst now : Nat) : Int := min (burst * 8192 : Nat) (b.tokens + (rate * (now - b.last) : Nat))

/-- MACs of a port under its SPLIT (R299). -/
def Chip.macCount (c : Chip) (p : Nat) : Nat := 2 ^ c.regFld (uEth p) 0 0x1040 1 0

def Chip.maxFrame (c : Chip) (p : Nat) : Nat := c.regFld (uEth p) 0 0x104C 13 0

/-! Flow table (R268-R278). -/

/-- The 68 key bits of an entry (R270). -/
def FlowEnt.key (e : FlowEnt) : Nat :=
  1 + bit e.udp * 2 + e.src * 4 + e.dst * 2 ^ 19 + e.sport * 2 ^ 36 + e.dport * 2 ^ 52

/-- The entry as the mailbox returns it (R270). -/
def FlowEnt.bits (e : FlowEnt) : BitVec 128 := BitVec.ofNat 128 (e.key + e.action * 2 ^ 68)

/-- CRC-32C of the 68 key bits, bit 0 first (R268; the feeding order is DEDUCED, log 27). -/
def flowCrc (key : Nat) : Nat :=
  ((List.range 68).foldl (fun c i => crcBit polyC c (decide (key / 2 ^ i % 2 = 1))) 0xFFFFFFFF) ^^^ 0xFFFFFFFF

/-- Candidate buckets (R268). -/
def flowBuckets (key : Nat) : Nat × Nat :=
  let c := flowCrc key
  let b0 := c % 2 ^ 17
  let b1 := (c / 2 ^ 15 % 2 ^ 17) ^^^ 0x0AAAA
  (b0, if b1 = b0 then b0 ^^^ 1 else b1)

/-- The slot that holds a triple (R269). -/
def FlowTab.slotOf (t : FlowTab) (v6 : Bool) (addr vni : Nat) : Option Nat :=
  (t.slots.find? fun e => decide (e.2.fam6 = v6) && decide (e.2.addr = BitVec.ofNat 128 addr) && decide (e.2.vni = vni)).map (·.1)

/-- The lowest number that a table does not list, below a bound. -/
def firstFree {α : Type} (m : Sparse α) (bound : Nat) : Option Nat :=
  let rec go : Sparse α → Nat → Nat
    | [], n => n
    | (k, _) :: t, n => if k = n then go t (n + 1) else n
  let n := go m 0
  if n < bound then some n else none

/-- The ways of both candidate buckets, b0 first (R272). -/
def flowWays (key : Nat) : List Nat :=
  let (b0, b1) := flowBuckets key
  ((List.range 8).map (8 * b0 + ·)) ++ ((List.range 8).map (8 * b1 + ·))

/-- Lookup of a key: the entry index and the entry (R272). -/
def FlowTab.find (t : FlowTab) (key : Nat) : Option (Nat × FlowEnt) :=
  (flowWays key).findSome? fun i => match Sparse.find t.ents i with
    | some e => if e.key = key then some (i, e) else none
    | none => none

/-- The key of a triple pair and ports, when both slots exist. -/
def FlowTab.keyOf (t : FlowTab) (v6 : Bool) (src dst vni : Nat) (udp : Bool) (sport dport : Nat) : Option Nat :=
  match t.slotOf v6 src vni, t.slotOf v6 dst vni with
  | some a, some b => some ({ udp := udp, src := a, dst := b, sport := sport, dport := dport, action := 0, owner := 0 } : FlowEnt).key
  | _, _ => none

/-- A reference to a triple's slot taken, allocating the lowest free slot (R269). -/
def FlowTab.refSlot (t : FlowTab) (v6 : Bool) (addr vni : Nat) : Option (Nat × FlowTab) :=
  match t.slotOf v6 addr vni with
  | some n => some (n, { t with slots := Sparse.upd t.slots ⟨v6, 0, 0, 0⟩ n fun s => { s with refs := s.refs + 1 } })
  | none => match firstFree t.slots 131072 with
    | some n => some (n, { t with slots := Sparse.put t.slots n { fam6 := v6, addr := BitVec.ofNat 128 addr, vni := vni, refs := 1 } })
    | none => none

/-- A reference returned; a slot that no entry names is freed (R269). -/
def FlowTab.unrefSlot (t : FlowTab) (n : Nat) : FlowTab :=
  match Sparse.find t.slots n with
  | some s => { t with slots := if s.refs ≤ 1 then Sparse.del t.slots n else Sparse.put t.slots n { s with refs := s.refs - 1 } }
  | none => t

/-- An entry deleted with its references. -/
def FlowTab.drop (t : FlowTab) (i : Nat) : FlowTab :=
  match Sparse.find t.ents i with
  | some e => (({ t with ents := Sparse.del t.ents i }).unrefSlot e.src).unrefSlot e.dst
  | none => t

/-- Every entry that counts against an instance's quota purged (R404, step 2). -/
def FlowTab.purge (t : FlowTab) (iid : Nat) : FlowTab :=
  ((t.ents.filter fun e => e.2.owner = iid).map (·.1)).foldl FlowTab.drop t

/-- Entries that count against an instance's quota. -/
def FlowTab.used (t : FlowTab) (iid : Nat) : Nat := (t.ents.filter fun e => e.2.owner = iid).length

/-- An entry placed: in a free way, else after up to `n` relocation moves, each of which takes the place of an entry, a free
choice among those of the candidate buckets, which moves to its other bucket (R277; log 28). `left` is the bucket that the
entry has left. None leaves the table as it was. -/
def flowPlace (t : FlowTab) (seed : Nat) (e : FlowEnt) (left : Option Nat) (n : Nat) : Option FlowTab :=
  let ways := (flowWays e.key).filter fun w => left ≠ some (w / 8)
  match ways.find? fun w => (Sparse.find t.ents w).isNone with
  | some w => some { t with ents := Sparse.put t.ents w e }
  | none =>
    match n with
    | 0 => none
    | n + 1 =>
      let w := ways.getD (Config.choose (seed + n) % ways.length) 0
      match Sparse.find t.ents w with
      | some v => flowPlace { t with ents := Sparse.put t.ents w e } seed v (some (w / 8)) n
      | none => some { t with ents := Sparse.put t.ents w e }

/-- An instance's flow-table quota; PF0's is not limited (R393). -/
def Chip.flowQuota (c : Chip) (iid : Nat) : Nat := if iid = 0 then 2 ^ 20 else (c.inst iid).quota

/-- The global receive queue that a QUEUE field of an instance's admin ring names, when it is assigned (R277, R392, R399). -/
def Chip.queueGlobal (c : Chip) (iid q : Nat) : Option Nat :=
  if iid = 0 then some q
  else if iid = 1 then (if c.reaches .pf1 (c.ownerOf 0 q) then some q else none)
  else
    let r := (c.inst iid).range 0
    if q < r.2 then some (r.1 + q) else none

/-- ACTION with its QUEUE replaced (R271). -/
def actionQueue (a q : Nat) : Nat := a - (a / 4 % 8192) * 4 + q * 4

/-- An insert or replace for an instance (R277, R414): status and INFO. -/
def Chip.flowInsert (c : Chip) (iid : Nat) (v6 : Bool) (src dst vni : Nat) (udp : Bool) (sport dport action : Nat) :
    (Nat × Nat) × Chip :=
  let t := c.flow
  let present := match t.keyOf v6 src dst vni udp sport dport with
    | some k => t.find k
    | none => none
  match present with
  | some (i, e) =>
    if iid ≠ 0 ∧ e.owner ≠ iid then ((0x0E, 4), c)
    else ((0, 1), { c with flow := { t with ents := Sparse.put t.ents i { e with action := action } } })
  | none =>
    if c.flowQuota iid ≤ t.used iid then ((0x0E, 3), c)
    else match t.refSlot v6 src vni with
      | none => ((0x0E, 2), c)
      | some (a, t1) => match t1.refSlot v6 dst vni with
        | none => ((0x0E, 2), c)
        | some (b, t2) =>
          match flowPlace t2 c.fresh { udp := udp, src := a, dst := b, sport := sport, dport := dport, action := action, owner := iid } none 32 with
          | some t3 => ((0, 0), { c with flow := t3, fresh := c.fresh + 33 })
          | none => ((0x0E, 1), { c with fresh := c.fresh + 33 })

/-- A flow record (R276): its fields, when every one is in range; ACTION is not checked for a delete. -/
structure FlowRec where
  v6     : Bool
  src    : Nat
  dst    : Nat
  vni    : Nat
  udp    : Bool
  sport  : Nat
  dport  : Nat
  action : Nat
deriving DecidableEq, Repr

def flowRec (bs : List Byte) (del : Bool) : Option FlowRec :=
  let src := beNat bs 0 16
  let dst := beNat bs 16 16
  let proto := beNat bs 36 1
  let fam := beNat bs 37 1
  let act := bsNat bs 44 4
  let mapped (a : Nat) : Bool := decide (a / 2 ^ 32 = 0xFFFF)
  if (proto = 6 ∨ proto = 17) ∧ (fam = 6 ∨ (fam = 4 ∧ mapped src = true ∧ mapped dst = true)) ∧ bsNat bs 41 3 = 0
      ∧ bsNat bs 48 16 = 0 ∧ (del = true ∨ (act < 2 ^ 27 ∧ act % 4 ≠ 3)) then
    some { v6 := fam = 6, src := src, dst := dst, vni := beNat bs 38 3, udp := proto = 17,
           sport := beNat bs 32 2, dport := beNat bs 34 2, action := act }
  else none

/-- The admin descriptor that is next in the order of fetch, on this ring and with this opcode (R277). -/
def Chip.adminNext (c : Chip) (r : RingId) (op : Nat) : Option (Nat × Desc) :=
  match r with
  | .adm iid =>
    match c.startable r with
    | some d => if d.opcode = op ∧ c.flow.order.head? = some (iid, d.idx) then some (iid, d) else none
    | none => none
  | _ => none

/-- An admin descriptor finishes, with counts 0. -/
def Chip.adminDone (c : Chip) (r : RingId) (idx status info : Nat) : Chip :=
  { c.finish r idx status 0 0 info with flow := { c.flow with order := c.flow.order.drop 1 } }

/-- The flow record of an admin descriptor read, and what is done with it. -/
def Chip.withFlowRec (c : Chip) (r : RingId) (iid : Nat) (d : Desc) (del : Bool) (f : Chip → FlowRec → (Nat × Nat) × Chip) : Chip :=
  match c.instRead iid (d.fld 8 8) 64 with
  | (.fault, c) => c.adminDone r d.idx 0x03 0
  | (.timeout, c) => c.adminDone r d.idx 0x0D 0
  | (.ok bs p, c) =>
    if p then c.adminDone r d.idx 0x0A 0
    else match flowRec bs del with
      | none => c.adminDone r d.idx 0x0B 0
      | some x => let ((st, info), c) := f c x; c.adminDone r d.idx st info

/-- FLOW_SET (R275-R278, R399, R414). -/
def Chip.flowSet (c : Chip) (r : RingId) : Chip :=
  match c.adminNext r 1 with
  | none => c
  | some (iid, d) => c.withFlowRec r iid d false fun c x =>
    match c.queueGlobal iid (x.action / 4 % 8192) with
    | none => ((0x0B, 0), c)
    | some q => c.flowInsert iid x.v6 x.src x.dst x.vni x.udp x.sport x.dport (actionQueue x.action q)

/-- FLOW_DELETE (R275-R278, R414). -/
def Chip.flowDelete (c : Chip) (r : RingId) : Chip :=
  match c.adminNext r 2 with
  | none => c
  | some (iid, d) => c.withFlowRec r iid d true fun c x =>
    match (match c.flow.keyOf x.v6 x.src x.dst x.vni x.udp x.sport x.dport with | some k => c.flow.find k | none => none) with
    | none => ((0, 0), c)
    | some (i, e) => if iid ≠ 0 ∧ e.owner ≠ iid then ((0, 0), c) else ((0, 1), { c with flow := c.flow.drop i })

/-- RSS_SET (R275). -/
def Chip.rssSet (c : Chip) (r : RingId) : Chip :=
  match c.adminNext r 3 with
  | none => c
  | some (_, d) =>
    let at0 := 512 * (d.fld 8 1 % 16) + d.fld 10 2
    let f := (List.range 8).foldl (fun (t : FlowTab) i => { t with rss := Sparse.put t.rss (at0 + i) (d.fld (12 + 2 * i) 2 % 8192) }) c.flow
    ({ c with flow := f }).adminDone r d.idx 0 0

/-! Steering (R263-R274). -/

/-- The key bytes of FT_HASH_KEY0-9 (R266). -/
def Chip.hashKey (c : Chip) : List Byte := (List.range 10).flatMap fun i => leBytes (c.reg uFlow 0 (0x1054 + 4 * i)).toNat 4

/-- What steering finds: verdict, queue, DSIZE, rate class, and INFO bits 31:11. -/
structure Steer where
  drop  : Bool
  q     : Nat
  dsize : Nat
  cls   : Nat
  info  : Nat
deriving DecidableEq, Repr

/-- Steering of a frame received by MAC m of port p (R263, R272-R274). -/
def Chip.steer (c : Chip) (p m : Nat) (pr : Parse) : Steer × Chip :=
  let h := toeplitz c.hashKey (hashInput pr)
  let hash := h % 4096 * 2 ^ 20
  let ctx := c.regFld (uEth p) 0 0x1058 (4 * m + 3) (4 * m)
  let missQ := Sparse.at c.flow.rss 0 (512 * ctx + h % 512)
  let dsz := c.regFld uFlow missQ 0x1098 17 16
  let miss : Steer := { drop := false, q := missQ, dsize := dsz, cls := 0, info := dsz * 2 ^ 12 + hash }
  if c.regFld uFlow 0 0x1040 0 0 = 0 then (miss, c)
  else match pr.keyed with
    | none => (miss, c)
    | some (i, l) =>
      let c := { c with flow := { c.flow with lookups := (c.flow.lookups + 1) % 2 ^ 64 } }
      match (match c.flow.keyOf i.v6 i.src i.dst pr.vni l.udp l.sport l.dport with | some k => c.flow.find k | none => none) with
      | none => (miss, c)
      | some (_, e) =>
        let a := e.action
        let verdict := a % 4
        let mark := if verdict = 2 then a / 2 ^ 21 % 64 else 0
        ({ drop := verdict = 1, q := a / 4 % 8192, dsize := a / 2 ^ 15 % 4, cls := a / 2 ^ 17 % 16,
           info := 2 ^ 11 + a / 2 ^ 15 % 4 * 2 ^ 12 + mark * 2 ^ 14 + hash },
         { c with flow := { c.flow with hits := (c.flow.hits + 1) % 2 ^ 64 } })

/-! Port buffer and flow control (R293). -/

/-- Occupancy of the port buffer: of a priority, or all of it. -/
def EthPort.occupancy (x : EthPort) (prio : Option Nat) : Nat :=
  ((x.held.filter fun f => prio = none ∨ prio = some f.prio).map fun f => f.bytes.length).sum

/-- Every MAC of a port sends a PFC or PAUSE frame. -/
def Chip.sendPause (c : Chip) (p : Nat) (prios : BitVec 8) (xoff : Bool) : Chip :=
  (List.range (c.macCount p)).foldl (fun (c : Chip) m =>
    if c.macUp p m then (c.modMac p m fun x => { x with wire := x.wire ++ [.pause prios xoff] }).ethCount p m 4 1 else c) c

/-- XOFF after a frame was held (R293). -/
def Chip.checkXoff (c : Chip) (p prio : Nat) : Chip :=
  let lim := c.regFld (uEth p) 0 0x1054 10 0 * 1024
  if c.regFld (uEth p) 0 0x1050 16 16 = 1 then
    if (c.eth p).xoff = 0 ∧ lim < (c.eth p).occupancy none then (c.modEth p fun x => { x with xoff := 0xFF }).sendPause p 0xFF true else c
  else if c.regFld (uEth p) 0 0x1050 (8 + prio) (8 + prio) = 1 ∧ (c.eth p).xoff.getLsbD prio = false ∧ lim < (c.eth p).occupancy (some prio) then
    (c.modEth p fun x => { x with xoff := x.xoff ||| BitVec.twoPow 8 prio }).sendPause p (BitVec.twoPow 8 prio) true
  else c

/-- XON of a priority, or of PAUSE, when the occupancy has fallen below the threshold (R293). -/
def Chip.ethXon (c : Chip) (p prio : Nat) : Chip :=
  let lim := c.regFld (uEth p) 0 0x1054 26 16 * 1024
  if c.regFld (uEth p) 0 0x1050 16 16 = 1 then
    if (c.eth p).xoff ≠ 0 ∧ (c.eth p).occupancy none < lim then (c.modEth p fun x => { x with xoff := 0 }).sendPause p 0xFF false else c
  else if prio < 8 ∧ (c.eth p).xoff.getLsbD prio = true ∧ (c.eth p).occupancy (some prio) < lim then
    (c.modEth p fun x => { x with xoff := x.xoff &&& ~~~ BitVec.twoPow 8 prio }).sendPause p (BitVec.twoPow 8 prio) false
  else c

/-! Deposit (R280-R282). -/

/-- Bytes written for an instance line by line; the count written, short when a page fails (R280, R73 step 4). -/
def Chip.writeLines (c : Chip) (iid iova : Nat) (bs : List Byte) (poison : Bool) (tgt : Nat → Option Nat) : Nat × Chip :=
  let rec go (c : Chip) (done : Nat) (bs : List Byte) (fuel : Nat) : Nat × Chip :=
    match fuel with
    | 0 => (done, c)
    | fuel + 1 =>
      if bs.isEmpty then (done, c)
      else
        let k := min bs.length (64 - (iova + done) % 64)
        match c.instWrite iid (iova + done) (bs.take k) poison 0 tgt with
        | (true, c) => go c (done + k) (bs.drop k) fuel
        | (false, c) => (done, c)
  go c 0 bs (bs.length / 64 + 2)

/-- Bytes padded with zeros to whole lines (R280). -/
def padLines (bs : List Byte) : List Byte := bs ++ List.replicate ((64 - bs.length % 64) % 64) 0

/-- A frame written by the descriptor it takes (R280-R283). -/
def Chip.deposit (c : Chip) (q : Nat) (d : Desc) (bytes : List Byte) (dsize info : Nat) : Chip :=
  let r := RingId.rx q
  let iid := c.ringOwner r
  let f := bytes.length
  let h := min (64 * (dsize + 1)) d.length
  let payLen := d.fld 24 4
  let p := min h f
  let core := c.coreOfHart (c.regFld uFlow q 0x10B0 15 0)
  let tgt (_ : Nat) : Option Nat := if c.regFld uFlow q 0x1098 14 14 = 1 then core else none
  let (n1, c) := c.writeLines iid (d.fld 8 8) (padLines (bytes.take p)) false tgt
  if n1 < p then c.finish r d.idx 0x03 f n1 info
  else
    let pay := (bytes.drop p).take payLen
    let (n2, c) := c.writeLines iid (d.fld 16 8) (padLines pay) false fun _ => none
    if n2 < pay.length then c.finish r d.idx 0x03 f (p + n2) info
    else c.finish r d.idx (if h + payLen < f then 0x04 else 0) f (min f (h + payLen)) info

/-- A steered frame at its queue: taken by a descriptor, held or dropped (R292). -/
def Chip.queueFrame (c : Chip) (p m : Nat) (fr : HeldFrame) : Chip :=
  let r := RingId.rx fr.q
  let st := (c.inst (c.ringOwner r)).st
  if !(c.ring r).en || decide (st = .resetting) then c.ethCount p m 3 2
  else
    let waits := (c.eth p).held.any fun x => x.q = fr.q
    match (if waits then none else c.startable r) with
    | some d => c.deposit fr.q d fr.bytes fr.dsize fr.info
    | none =>
      if c.regFld uFlow fr.q 0x1098 15 15 = 1 then c.ethCount p m 3 3
      else (c.modEth p fun x => { x with held := x.held ++ [fr] }).checkXoff p fr.prio

/-- A frame received by a MAC (R262, R263, R292): `bytes` without the FCS. -/
def Chip.frameReceive (c : Chip) (p m : Nat) (bytes : List Byte) (fcsOk : Bool) : Chip :=
  let u := uEth p
  if !c.unitRuns u || !c.macUp p m || !(c.reg u 0 0x1044).getLsbD m || c.held u || c.held uFlow then c
  else
    let n := bytes.length + 4
    if !fcsOk then c.ethCount p m 2 0
    else if n < 64 then c.ethCount p m 2 1
    else if c.maxFrame p < n then c.ethCount p m 2 2
    else if 2 ^ 21 < (c.eth p).occupancy none + bytes.length then c.ethCount p m 2 3
    else
      let c := (c.ethCount p m 0 0).ethCount p m 0 1 bytes.length
      let pr := parseFrame bytes
      let (s, c) := c.steer p m pr
      let cfg := 0x1060 + 4 * (s.cls - 1)
      let rate := c.regFld u 0 cfg 13 0
      let burst := c.regFld u 0 cfg 25 16
      let b := Sparse.at (c.eth p).buckets {} s.cls
      let tokens := b.refill rate burst c.mtime.toNat
      let polices := decide (s.cls ≠ 0) && decide (c.regFld u 0 cfg 31 31 = 1)
      let need : Int := ((8 * bytes.length : Nat) : Int)
      if polices && decide (tokens < need) then
        (c.modEth p fun x => { x with buckets := Sparse.put x.buckets s.cls { tokens := tokens, last := c.mtime.toNat } }).ethCount p m 3 0
      else
        let c := if polices then
            c.modEth p fun x => { x with buckets := Sparse.put x.buckets s.cls { tokens := tokens - need, last := c.mtime.toNat } }
          else c
        if s.drop then c.ethCount p m 3 1
        else c.queueFrame p m { q := s.q, mac := m, prio := pr.outer.pcp, bytes := bytes, dsize := s.dsize, info := rxSummary bytes pr + s.info }

/-- The oldest held frame of a queue proceeds when a descriptor is ready (R292); held frames of a disabled queue are
dropped (R294). -/
def Chip.heldResume (c : Chip) (p q : Nat) : Chip :=
  match (c.eth p).held.find? fun f => f.q = q with
  | none => c
  | some f =>
    let rest := (c.eth p).held.erase f
    if !(c.ring (.rx q)).en then (c.modEth p fun x => { x with held := rest }).ethCount p f.mac 3 2
    else match c.startable (.rx q) with
      | some d => (c.modEth p fun x => { x with held := rest }).deposit q d f.bytes f.dsize f.info
      | none => c

/-- Held frames of a receive queue dropped as QUEUE_OFF (R294, R404). -/
def Chip.dropHeld (c : Chip) (q : Nat) : Chip :=
  [0, 1].foldl (fun (c : Chip) p =>
    let gone := (c.eth p).held.filter fun f => f.q = q
    gone.foldl (fun (c : Chip) f => c.ethCount p f.mac 3 2) (c.modEth p fun x => { x with held := x.held.filter fun f => f.q ≠ q })) c

/-- A received PAUSE or PFC frame: the priorities it names with their quanta; a quantum of 0 resumes (R290, R293). -/
def Chip.pauseReceive (c : Chip) (p m : Nat) (prios : BitVec 8) (quanta : List Nat) : Chip :=
  if !c.macUp p m then c
  else
    let c := c.ethCount p m 4 0
    let on (i : Nat) : Bool := decide (quanta.getD i 0 ≠ 0)
    if c.regFld (uEth p) 0 0x1050 16 16 = 1 then c.modMac p m fun x => { x with paused := if on 0 then 0xFF else 0 }
    else
      let rx : BitVec 8 := BitVec.ofNat 8 (c.regFld (uEth p) 0 0x1050 7 0)
      let act := (List.range 8).foldl (fun (v : BitVec 8) i =>
        if prios.getLsbD i && rx.getLsbD i then (if on i then v ||| BitVec.twoPow 8 i else v &&& ~~~ BitVec.twoPow 8 i) else v) (c.mac p m).paused
      c.modMac p m fun x => { x with paused := act }

/-- The pause time of a priority runs out (R290). -/
def Chip.pauseExpiry (c : Chip) (p prio : Nat) : Chip :=
  (List.range 8).foldl (fun (c : Chip) m => c.modMac p m fun x =>
    { x with paused := if c.regFld (uEth p) 0 0x1050 16 16 = 1 then 0 else x.paused &&& ~~~ BitVec.twoPow 8 prio }) c

/-- Link of a MAC up (R260): an enabled MAC of a powered port. -/
def Chip.ethLinkUp (c : Chip) (p m : Nat) : Chip :=
  if c.unitRuns (uEth p) && (c.reg (uEth p) 0 0x1044).getLsbD m && decide (m < c.macCount p) then
    c.orReg (uEth p) 0 0x1048 (BitVec.ofNat 32 (2 ^ m + 2 ^ (8 + m)))
  else c

/-! Transmit (R285-R291). -/

/-- The status that a failed read of input gives: BAD_ADDR or TIMEOUT (R73, R79); 0 for one that came. -/
def DevRead.status : DevRead → Nat
  | .ok _ _ => 0 | .fault => 0x03 | .timeout => 0x0D

/-- Bytes of a buffer read for an instance page by page: what was read, whether it was poisoned, and the status that stopped
it, 0 when all of it came. -/
def Chip.readBuf (c : Chip) (iid iova n : Nat) : List Byte × Bool × Nat × Chip :=
  let rec go (c : Chip) (a left : Nat) (acc : List Byte) (p : Bool) (fuel : Nat) : List Byte × Bool × Nat × Chip :=
    match fuel with
    | 0 => (acc, p, 0, c)
    | fuel + 1 =>
      if left = 0 then (acc, p, 0, c)
      else
        let k := min left (4096 - a % 4096)
        match c.instRead iid a k with
        | (.ok bs q, c) => go c (a + k) (left - k) (acc ++ bs) (p || q) fuel
        | (e, c) => (acc, p, e.status, c)
  go c iova n [] false (n / 4096 + 2)

def Chip.txPort (c : Chip) (q : Nat) : Nat := c.regFld uFlow (8192 + q) 0x1098 0 0
def Chip.txMac (c : Chip) (q : Nat) : Nat := c.regFld uFlow (8192 + q) 0x1098 3 1

/-- The rate limiter bound to a transmit queue (R290, R415, R416). -/
def Chip.limiterOf (c : Chip) (q : Nat) : Option Nat :=
  (List.range 4096).find? fun l =>
    decide (c.regFld uIm (2 ^ 18 + l) 0x1084 16 16 = 1) && decide (c.regFld uIm (2 ^ 18 + l) 0x1084 12 0 = q)
      && decide (c.regFld uIm (2 ^ 18 + l) 0x1080 31 31 = 1)

/-- The transmit descriptor of a queue whose frames are being handed to the MAC (R291). -/
def Chip.txStarted (c : Chip) (q : Nat) : Option Desc :=
  let x := c.ring (.tx q)
  if x.descs.isEmpty ∨ ((c.inst (c.ringOwner (.tx q))).st ≠ .active ∧ (c.inst (c.ringOwner (.tx q))).st ≠ .freezing) then none
  else x.descs.find? fun d => d.started && d.fin.isNone

/-- Frames of started descriptors that meet link loss are discarded and counted; the descriptor completes with what was
handed over (R291). -/
def Chip.linkLoss (c : Chip) (p m : Nat) : Chip :=
  let lost (d : Desc) : Bool := d.started && d.fin.isNone
  (c.rings.map (·.1)).foldl (fun (c : Chip) n =>
    let q := n - 2 ^ 16
    if 2 ^ 16 ≤ n ∧ q < 8192 ∧ c.txPort q = p ∧ c.txMac q = m then
      (c.ethCount p m 6 0 (((c.ring (.tx q)).descs.filter lost).map fun d => d.left.length).sum).modRing (.tx q) fun x =>
        { x with descs := x.descs.map fun (d : Desc) =>
            if lost d then { d with fin := some (if d.poison then 0x0A else 0), info := 0, left := [] } else d }
    else c) c

/-- Link of a MAC down (R291). -/
def Chip.ethLinkDown (c : Chip) (p m : Nat) : Chip :=
  if m < 8 then ((c.linkLoss p m).setRegFld (uEth p) 0 0x1048 m m 0).setRegFld (uEth p) 0 0x1048 (8 + m) (8 + m) 0 else c

def Chip.limiterTokens (c : Chip) (l : Nat) : Int :=
  (Sparse.at c.limiters {} l).refill (c.regFld uIm (2 ^ 18 + l) 0x1080 13 0) (c.regFld uIm (2 ^ 18 + l) 0x1080 25 16) c.mtime.toNat

/-- A transmit queue may send now: something started or startable, not paused, its limiter not empty (R290). -/
def Chip.txReady (c : Chip) (q : Nat) : Bool :=
  let p := c.txPort q
  let m := c.txMac q
  ((c.txStarted q).isSome || (c.startable (.tx q)).isSome) && !(c.mac p m).paused.getLsbD (c.regFld uFlow (8192 + q) 0x1098 20 18)
    && (match c.limiterOf q with | some l => decide (0 < c.limiterTokens l) | none => true)

/-- Transmit queues of a MAC that may send, in order. -/
def Chip.txReadyOf (c : Chip) (p m : Nat) : List Nat :=
  (c.rings.filterMap fun e =>
    let q := e.1 - 2 ^ 16
    if 2 ^ 16 ≤ e.1 ∧ q < 8192 ∧ c.txPort q = p ∧ c.txMac q = m ∧ c.txReady q = true then some q else none)

/-- Deficit round robin (R290): the present queue while its deficit is positive, else the next whose deficit its quantum
makes positive. -/
def drrPick (quantum : Nat → Nat) (l : List Nat) (cur : Nat) (def_ : Sparse Int) : Option (Nat × Sparse Int) :=
  if l.isEmpty then none
  else if l.contains cur && decide (0 < Sparse.at def_ 0 cur) then some (cur, def_)
  else
    let order := (l.filter fun q => cur < q) ++ l.filter fun q => q ≤ cur
    let rec go (qs : List Nat) (d : Sparse Int) (fuel : Nat) : Option (Nat × Sparse Int) :=
      match fuel, qs with
      | 0, _ => none
      | _ + 1, [] => none
      | fuel + 1, q :: t =>
        let v := Sparse.at d 0 q + (quantum q : Nat)
        if 0 < v then some (q, Sparse.put d q v) else go (t ++ [q]) (Sparse.put d q v) fuel
    go order def_ (order.length * 128)

/-- Frames handed to a MAC (R291), counted. -/
def Chip.handFrames (c : Chip) (p m : Nat) (fs : List (List Byte)) (bad : Bool) : Chip :=
  fs.foldl (fun (c : Chip) f =>
    let f := pad60 f
    ((c.modMac p m fun x => { x with wire := x.wire ++ [.frame f bad] }).ethCount p m 1 0).ethCount p m 1 1 f.length) c

/-- A transmit job: its bytes become frames (R287-R289), or it completes with INPUT_ERROR. -/
def txFrames (d : Desc) (mf : Nat) (bs : List Byte) : Option (List (List Byte)) :=
  let pr := parseFrame bs
  if d.bflag 13 then
    match pr.searched with
    | some (i, l) => if mf < l.off + l.size + d.fld 16 2 + 4 then none else some (segments pr i l bs (d.fld 16 2))
    | none => none
  else
    let bs := if d.bflag 12 then writeL4Sum pr bs else bs
    some [if d.bflag 11 then writeIpSums pr bs else bs]

/-- How many of a queue's frames its MAC takes in one turn: frames go while the deficit, and the rate limiter where one is
bound, are positive (R290, R416; log 59). -/
def drrTake : Int → Option Int → List (List Byte) → Nat
  | _, _, [] => 0
  | v, lim, f :: t =>
    let n : Int := ((max 60 f.length : Nat) : Int)
    if v ≤ 0 ∨ (lim.any fun x => decide (x ≤ 0)) = true then 0 else 1 + drrTake (v - n) (lim.map fun x => x - 8 * n) t

/-- A turn of a queue with its started descriptor (R290, R291): frames handed to the MAC, which pays for them; the descriptor
completes when its last frame is handed over. -/
def Chip.txTurn (c : Chip) (q : Nat) (d : Desc) : Chip :=
  let p := c.txPort q
  let m := c.txMac q
  let lim := c.limiterOf q
  let n := drrTake (Sparse.at (c.mac p m).deficit 0 q) (lim.map c.limiterTokens) d.left
  let fs := d.left.take n
  let sent := (fs.map fun f => max 60 f.length).sum
  let c := c.handFrames p m fs d.poison
  let c := c.modMac p m fun x => { x with deficit := Sparse.upd x.deficit 0 q fun v => v - (sent : Nat) }
  let c := match lim with
    | some l => { c with limiters := Sparse.put c.limiters l { tokens := c.limiterTokens l - ((8 * sent : Nat) : Int), last := c.mtime.toNat } }
    | none => c
  if n < d.left.length then c.modDesc (.tx q) d.idx fun x => { x with left := d.left.drop n, produced := d.produced + n }
  else (c.modDesc (.tx q) d.idx fun x => { x with left := [] }).finish (.tx q) d.idx (if d.poison then 0x0A else 0) d.consumed
    (d.produced + n) 0

/-- A transmit descriptor of an opcode has its turn: one already started goes on; otherwise the next one starts, its data
read and its frames made (R285-R291). -/
def Chip.txRun (c : Chip) (r : RingId) (op : Nat) (parts : Desc → List (Nat × Nat)) (inline : Desc → List Byte) : Chip :=
  match r with
  | .tx q =>
    let p := c.txPort q
    let m := c.txMac q
    match c.txStarted q <|> c.startable r with
    | none => c
    | some d =>
      let pick := drrPick (fun q => 1024 * c.regFld uFlow (8192 + q) 0x1098 31 24) (c.txReadyOf p m) (c.mac p m).cur (c.mac p m).deficit
      if d.opcode ≠ op ∨ !c.macUp p m ∨ pick.map (·.1) ≠ some q then c
      else
        let c := match pick with
          | some (_, df) => c.modMac p m fun x => { x with cur := q, deficit := df }
          | none => c
        if d.started then c.txTurn q d
        else
          let iid := c.ringOwner r
          let (bs, poison, st, c) := (parts d).foldl (fun (s : List Byte × Bool × Nat × Chip) part =>
            if s.2.2.1 = 0 then
              let (b, pz, st, c) := s.2.2.2.readBuf iid part.1 part.2
              (s.1 ++ b, s.2.1 || pz, st, c)
            else s) (inline d, false, 0, c)
          if st ≠ 0 then c.finish r d.idx st bs.length 0 0
          else match txFrames d (c.maxFrame p) bs with
            | none => c.finish r d.idx 0x05 bs.length 0 0
            | some fs =>
              let d : Desc := { d with started := true, consumed := bs.length, produced := 0, poison := poison, left := fs }
              (c.modDesc r d.idx fun _ => d).txTurn q d
  | _ => c

/-- TX_FRAME (R285). -/
def Chip.txFrame (c : Chip) (r : RingId) : Chip := c.txRun r 0x10 (fun d => [(d.fld 8 8, d.length)]) fun _ => []

/-- TX_GATHER (R285). -/
def Chip.txGather (c : Chip) (r : RingId) : Chip :=
  c.txRun r 0x11 (fun d => [(d.fld 8 8, d.length), (d.fld 24 8, d.fld 20 4)]) fun _ => []

/-- TX_INLINE (R285, R286). -/
def Chip.txInline (c : Chip) (r : RingId) : Chip := c.txRun r 0x12 (fun _ => []) fun d => (d.bytes.drop 8).take d.length

/-- RX_BUF (R279): a receive ring's next descriptor fetched and checked ahead of frames. -/
def Chip.rxBuf (c : Chip) (r : RingId) : Chip :=
  match r with
  | .rx _ => c.fetchDesc r
  | _ => c

end Sys2Proof.Machine
end

