-- ==== Sys2Proof/Machine/Shears.lean ====
section
/-! DEFINITION. The Shears engines: lanes, data movement, compression jobs, containers, resume (R306-R330, R436). -/

namespace Sys2Proof.Machine

def Engine.lane (x : Engine) (l : Nat) : Lane := Sparse.at x.lanes {} l
def Chip.modLane (c : Chip) (e l : Nat) (f : Lane → Lane) : Chip := c.modEngine e fun x => { x with lanes := Sparse.upd x.lanes {} l f }

/-- Lanes in service: below LANES and not retired (R331, R436). -/
def Chip.lanesOn (c : Chip) (e : Nat) : List Nat :=
  (List.range (min 16 (c.regFld (uShears e) 0 0x1040 12 8))).filter fun l => !((c.engine e).lane l).retired

/-- A lane in service that runs nothing. -/
def Chip.freeLane (c : Chip) (e : Nat) : Option Nat := (c.lanesOn e).find? fun l => ((c.engine e).lane l).job.isNone

/-- The lane that runs a descriptor. -/
def Chip.laneOf (c : Chip) (e r idx : Nat) : Option Nat :=
  (List.range 16).find? fun l => decide (((c.engine e).lane l).job = some (r, idx))

/-- Lanes that a ring uses now. -/
def Chip.lanesUsed (c : Chip) (e r : Nat) : Nat :=
  ((List.range 16).filter fun l => match ((c.engine e).lane l).job with | some j => j.1 = r | none => false).length

/-- LANES_BUSY: lanes that run work (R331). -/
def Chip.lanesBusy (c : Chip) (e : Nat) : Nat := ((List.range 16).filter fun l => ((c.engine e).lane l).job.isSome).length

/-- Rings of an engine with work for a lane that are below their MAXLANES (R307). -/
def Chip.ringsWithWork (c : Chip) (e : Nat) : List Nat :=
  (List.range 256).filter fun r =>
    (c.startable (.sh e r)).isSome && decide (c.lanesUsed e r < c.regFld (uShears e) r 0x1054 20 16)

/-- The next work item given to a free lane, by deficit round robin with a quantum of WEIGHT items (R307). -/
def Chip.laneDispatch (c : Chip) (e : Nat) : Chip :=
  let u := uShears e
  if c.regFld u 0 0x1040 0 0 = 0 ∨ c.held u ∨ c.unitRuns u = false then c
  else match c.freeLane e with
    | none => c
    | some l =>
      let rs := c.ringsWithWork e
      let x := c.engine e
      let pick : Option (Nat × Nat) :=
        if rs.contains x.cur && decide (0 < x.credit) then some (x.cur, x.credit - 1)
        else match (rs.find? fun r => decide (x.cur < r)) <|> rs.head? with
          | some r => some (r, c.regFld u r 0x1054 31 24 - 1)
          | none => none
      match pick with
      | none => c
      | some (r, credit) => match c.startable (.sh e r) with
        | none => c
        | some d =>
          ((c.modEngine e fun x => { x with cur := r, credit := credit }).modLane e l fun y =>
            { y with job := some (r, d.idx), items := (y.items + 1) % 2 ^ 64, faulted := false }).modDesc (.sh e r) d.idx
              fun d => { d with started := true }

/-- A job leaves its lane; the cycles that it was busy are free (R330, R334). -/
def Chip.laneFree (c : Chip) (e r idx : Nat) : Chip :=
  match c.laneOf e r idx with
  | none => c
  | some l => { (c.modLane e l fun y => { y with job := none, cycles := (y.cycles + Config.cycles c.fresh) % 2 ^ 64 }) with fresh := c.fresh + 1 }

/-- A job completes: its counts, its lane, the engine's byte counts (R326, R334). -/
def Chip.shDone (c : Chip) (e r idx status consumed produced info inB outB : Nat) : Chip :=
  (((c.finish (.sh e r) idx status consumed produced info).laneFree e r idx).modEngine e fun x =>
    { x with inB := (x.inB + inB) % 2 ^ 64, outB := (x.outB + outB) % 2 ^ 64 })

/-- The oldest unfinished descriptor of a ring that a lane runs and a test selects. -/
def Chip.laneJob (c : Chip) (e r : Nat) (p : Desc → Bool) : Option Desc :=
  (c.ring (.sh e r)).descs.find? fun d => d.fin.isNone && d.started && p d && (c.laneOf e r d.idx).isSome

/-- A job stopped by an instance reset in progress at its stop point (R404, step 6; R329). -/
def Chip.stopping (c : Chip) (iid : Nat) : Bool := decide ((c.inst iid).st = .resetting)

/-- A job of a ring: none when no lane runs one; aborted when its instance is resetting; else what it does. -/
def Chip.withJob (c : Chip) (r : RingId) (p : Desc → Bool) (f : Chip → Nat → Nat → Nat → Desc → Chip) : Chip :=
  match r with
  | .sh e n => match c.laneJob e n p with
    | none => c
    | some d =>
      let iid := c.ringOwner r
      if c.stopping iid then c.shDone e n d.idx 0x09 d.consumed d.produced d.info 0 0
      else if (c.inst iid).st = .stopped then c
      else f c e n iid d
  | _ => c

/-! Data movement (R310, R311, R326). -/

/-- COPY in ascending 4 KiB-aligned chunks of the destination, each read wholly before it is written (R311): bytes read,
bytes written, poison, and the status of a page that failed. -/
def Chip.copyChunks (c : Chip) (iid src dst len : Nat) : Nat × Nat × Bool × Nat × Chip :=
  let rec go (c : Chip) (k : Nat) (poison : Bool) (fuel : Nat) : Nat × Nat × Bool × Nat × Chip :=
    match fuel with
    | 0 => (k, k, poison, 0, c)
    | fuel + 1 =>
      if len ≤ k then (k, k, poison, 0, c)
      else
        let n := min (len - k) (4096 - (dst + k) % 4096)
        let (bs, p, st, c) := c.readBuf iid (src + k) n
        if st ≠ 0 then (k + bs.length, k, poison || p, st, c)
        else
          let (w, c) := c.writeLines iid (dst + k) bs (poison || p) fun _ => none
          if w < n then (k + n, k + w, poison || p, 0x03, c) else go c (k + n) (poison || p) fuel
  go c 0 false (len / 4096 + 2)

def Chip.shCopy (c : Chip) (r : RingId) : Chip :=
  c.withJob r (fun d => d.opcode = 1) fun c e n iid d =>
    let (rd, wr, p, st, c) := c.copyChunks iid (d.fld 8 8) (d.fld 16 8) (d.fld 24 4)
    c.shDone e n d.idx (if st ≠ 0 then st else if p then 0x0A else 0) rd wr 0 rd wr

/-- FILL: destination byte i is PATTERN byte (DST_ADDR + i) mod 8 (R311). -/
def Chip.shFill (c : Chip) (r : RingId) : Chip :=
  c.withJob r (fun d => d.opcode = 2) fun c e n iid d =>
    let dst := d.fld 16 8
    let bs := (List.range (d.fld 24 4)).map fun i => d.bytes.getD (8 + (dst + i) % 8) 0
    let (w, c) := c.writeLines iid dst bs false fun _ => none
    c.shDone e n d.idx (if w < bs.length then 0x03 else 0) 0 w 0 0 w

/-- CRC (R311): POLY is BFLAGS[11], CHECK BFLAGS[12]. -/
def Chip.shCrc (c : Chip) (r : RingId) : Chip :=
  c.withJob r (fun d => d.opcode = 3) fun c e n iid d =>
    let (bs, p, got, c) := c.readBuf iid (d.fld 8 8) (d.fld 24 4)
    let v := crcOf (if d.bflag 11 then poly32 else polyC) (d.fld 16 4) bs
    let st := if got ≠ 0 then got else if d.bflag 12 && decide (v ≠ d.fld 20 4) then 0x07 else if p then 0x0A else 0
    c.shDone e n d.idx st bs.length 0 v bs.length 0

/-- Offset of the first differing byte, 0xFFFFFFFF when there is none (R326). -/
def firstDiff : List Byte → List Byte → Nat → Nat
  | a :: s, b :: t, i => if a = b then firstDiff s t (i + 1) else i
  | _, _, _ => 0xFFFFFFFF

/-- COMPARE (R311). -/
def Chip.shCompare (c : Chip) (r : RingId) : Chip :=
  c.withJob r (fun d => d.opcode = 4) fun c e n iid d =>
    let (a, p, got, c) := c.readBuf iid (d.fld 8 8) (d.fld 24 4)
    let (b, q, got2, c) := c.readBuf iid (d.fld 16 8) a.length
    let k := min a.length b.length
    let diff := firstDiff (a.take k) (b.take k) 0
    let st := if got ≠ 0 then got else if got2 ≠ 0 then got2 else if diff ≠ 0xFFFFFFFF then 0x07 else if p || q then 0x0A else 0
    c.shDone e n d.idx st k 0 diff (2 * k) 0

/-! Stream jobs (R312-R316, R320, R321, R323-R326). -/

def Desc.format (d : Desc) : Nat := d.fld 48 1 % 16
def Desc.level (d : Desc) : Nat := d.fld 48 1 / 16 % 4
def Desc.stream (d : Desc) : Bool := decide (d.format < 4)
def Desc.resumes (d : Desc) : Bool := d.bflag 11

/-- The context that a stream descriptor starts from (R320, R321): empty, or the one that an OUT_FULL left with the same
fields and whose area still holds what was written; none is CTX_INVALID. -/
def Chip.openCtx (c : Chip) (iid : Nat) (comp : Bool) (d : Desc) : Option StreamCtx × Chip :=
  let fresh : StreamCtx := {
    iid := iid, addr := d.fld 32 8, comp := comp, format := d.format, level := d.level, log2 := d.fld 51 1,
    ratio := d.fld 50 1, limit := d.fld 52 4, left := d.fld 24 4, hist := [], out := 0, total := d.fld 24 4, tag := [] }
  if !d.resumes then (some fresh, c)
  else
    match c.ctxs.find? fun x => decide (x.iid = iid) && decide (x.addr = d.fld 32 8) with
    | none => (none, c)
    | some x =>
      if x.comp ≠ comp ∨ x.format ≠ d.format ∨ x.level ≠ d.level ∨ x.log2 ≠ d.fld 51 1 ∨ x.ratio ≠ d.fld 50 1
          ∨ x.limit ≠ d.fld 52 4 ∨ x.left ≠ d.fld 24 4 then (none, c)
      else match c.instRead iid x.addr 64 with
        | (.ok bs _, c) => (if bs = x.tag then some x else none, c)
        | (_, c) => (none, c)

/-- A context area's saved state removed. -/
def Chip.dropCtx (c : Chip) (iid addr : Nat) : Chip :=
  { c with ctxs := c.ctxs.filter fun x => !(decide (x.iid = iid) && decide (x.addr = addr)) }

/-- The state of a job saved in its context area after OUT_FULL (R320): its first 64 bytes are written with free values. -/
def Chip.saveCtx (c : Chip) (x : StreamCtx) : Chip :=
  let tag := (List.range 64).map fun i => (Config.fresh (c.fresh + i)).setWidth 8
  let (_, c) := ({ c with fresh := c.fresh + 64 }).instWrite x.iid x.addr tag
  { c.dropCtx x.iid x.addr with ctxs := { x with tag := tag } :: (c.dropCtx x.iid x.addr).ctxs }

/-- Output of a stream job written; the job finishes with its status, or with what an earlier failure gives. -/
def Chip.streamOut (c : Chip) (e n iid : Nat) (d : Desc) (x : StreamCtx) (out : List Byte) (poison : Bool)
    (status consumed info : Nat) (next : StreamCtx) : Chip :=
  let (w, c) := c.writeLines iid (d.fld 16 8) out poison fun _ => none
  if w < out.length then (c.dropCtx iid x.addr).shDone e n d.idx 0x03 consumed w 0 consumed w
  else if status = 0x04 then (c.saveCtx { next with poison := poison }).shDone e n d.idx 0x04 consumed w info consumed w
  else (c.dropCtx iid x.addr).shDone e n d.idx (if status = 0 ∧ poison = true then 0x0A else status) consumed w info consumed w

/-- A stream DECOMPRESS (R316, R320, R323). -/
def Chip.streamDecode (c : Chip) (e n iid : Nat) (d : Desc) : Chip :=
  match c.openCtx iid false d with
  | (none, c) => (c.dropCtx iid (d.fld 32 8)).shDone e n d.idx 0x05 0 0 rCtxInvalid 0 0
  | (some x, c) =>
    let (bs, p, got, c) := c.readBuf iid (d.fld 8 8) (d.fld 24 4)
    if got ≠ 0 then (c.dropCtx iid x.addr).shDone e n d.idx got bs.length 0 0 bs.length 0
    else
      let all := x.hist ++ bs
      let dec := decStream d.format (if d.format = 3 then some (d.fld 51 1) else none) all
      let (out, used, stop) := emitGuarded x.limit x.ratio (x.out + d.fld 28 4) dec.made [] 0 0
      let new := out.drop x.out
      let poison := p || x.poison
      let index := dec.indexAt x.hist.length x.out out.length
      let done := dec.done x.hist.length x.out
      match stop with
      | .full =>
        let used := max used x.hist.length
        c.streamOut e n iid d x new poison 0x04 (used - x.hist.length) 0
          { x with hist := all.take used, out := out.length, left := d.fld 24 4 - (used - x.hist.length) }
      | .limit => c.streamOut e n iid d x new poison 0x06 (used - x.hist.length) (0x20 + index * 256) x
      | .ratio => c.streamOut e n iid d x new poison 0x06 (used - x.hist.length) (0x21 + index * 256) x
      | .none =>
        match dec.err with
        | some r => c.streamOut e n iid d x new poison (reasonStatus r) (dec.used - x.hist.length) (r + done * 256) x
        | none => c.streamOut e n iid d x new poison 0 (dec.used - x.hist.length) (done * 256) x

/-- How many parts of a stream are needed for n bytes of output. -/
def partsFor : List (List Byte) → Nat → Nat
  | [], _ => 0
  | p :: t, n => if n = 0 then 0 else 1 + partsFor t (n - p.length)

/-- A stream COMPRESS (R315, R320): the job takes in whole blocks of input until its output buffer is full. -/
def Chip.streamEncode (c : Chip) (e n iid : Nat) (d : Desc) : Chip :=
  match c.openCtx iid true d with
  | (none, c) => (c.dropCtx iid (d.fld 32 8)).shDone e n d.idx 0x05 0 0 rCtxInvalid 0 0
  | (some x, c) =>
    let (bs, p, got, c) := c.readBuf iid (d.fld 8 8) (d.fld 24 4)
    if got ≠ 0 then (c.dropCtx iid x.addr).shDone e n d.idx got bs.length 0 0 bs.length 0
    else
      let all := x.hist ++ bs
      let m := encStream d.format d.level x.total all
      let cap := x.out + d.fld 28 4
      let whole := m.parts.flatten
      let poison := p || x.poison
      if whole.length ≤ cap then c.streamOut e n iid d x (whole.drop x.out) poison 0 bs.length m.check x
      else
        let used := max x.hist.length (min all.length ((partsFor m.parts cap - 1) * m.block))
        c.streamOut e n iid d x ((whole.take cap).drop x.out) poison 0x04 (used - x.hist.length) 0
          { x with hist := all.take used, out := cap, left := d.fld 24 4 - (used - x.hist.length) }

/-! Container jobs (R317-R319, R322). -/

/-- Container DECOMPRESS, block by block (R319): state is input taken, output written, blocks, offset expected next. -/
def Chip.containerDecode (c : Chip) (e n iid : Nat) (d : Desc) (bs : List Byte) (poison : Bool) :
    Nat → Nat → Nat → Nat → Option Nat → Chip
  | 0, _, _, _, _ => c
  | fuel + 1, at_, made, k, expect =>
    let stop (c : Chip) (st reason : Nat) : Chip := c.shDone e n d.idx st at_ made (reason + k * 256) at_ made
    let rest := bs.drop at_
    if rest.isEmpty then stop c (if poison then 0x0A else 0) 0
    else if rest.length < 32 then stop c 0x05 rTruncated
    else
      let alg := bsNat rest 5 1
      let off := bsNat rest 8 8
      let len := bsNat rest 16 4
      let clen := bsNat rest 20 4
      let total := (32 + clen + 31) / 32 * 32
      if bsNat rest 0 4 ≠ containerMagic ∨ bsNat rest 4 1 ≠ 1 ∨ 2 < alg ∨ bsNat rest 6 2 ≠ 0 ∨ len = 0 ∨ 1048576 < len
          ∨ (alg = 0 ∧ clen ≠ len) ∨ 1048576 < clen ∨ (expect ≠ none ∧ expect ≠ some off) then stop c 0x05 rBadHeader
      else if rest.length < 32 + clen then stop c 0x05 rTruncated
      else
        let pay := (rest.drop 32).take clen
        if bsNat rest 28 4 ≠ crcOf polyC 0 (rest.take 28 ++ pay) then stop c 0x05 rBlockCrc
        else match decPayload alg len pay with
          | .error r => stop c (reasonStatus r) r
          | .ok out =>
            let used := min bs.length (at_ + total)
            if d.fld 28 4 < made + len then stop c 0x04 0
            else if d.fld 52 4 ≠ 0 ∧ d.fld 52 4 * 4096 < made + len then stop c 0x06 0x20
            else if d.fld 50 1 ≠ 0 ∧ d.fld 50 1 * used + 65536 < made + len then stop c 0x06 0x21
            else
              let (w, c) := c.writeLines iid (d.fld 16 8 + made) out poison fun _ => none
              if w < out.length then c.shDone e n d.idx 0x03 at_ (made + w) (k * 256) at_ (made + w)
              else if bsNat rest 24 4 ≠ crcOf polyC 0 out then
                c.shDone e n d.idx 0x07 used (made + len) (0x14 + k * 256) used (made + len)
              else Chip.containerDecode c e n iid d bs poison fuel used (made + len) (k + 1) (some (off + len))

/-- A finished container block of a COMPRESS written with its index entry, every earlier block having been written
(R318, R322). A block that ends while the instance is resetting is the job's stop point (R404). -/
def Chip.containerWrite (c : Chip) (r : RingId) : Chip :=
  match r with
  | .sh e n =>
    match c.laneJob e n fun d => d.ready with
    | none => c
    | some d =>
      let iid := c.ringOwner r
      if (c.inst iid).st = .stopped then c
      else
        let size := 2 ^ d.fld 49 1
        let off := d.fld 56 8 + d.consumed
        let len := min size (d.fld 24 4 - d.consumed)
        let (bs, p, got, c) := c.readBuf iid (d.fld 8 8 + d.consumed) len
        let poison := p || d.poison
        if got ≠ 0 then c.shDone e n d.idx got d.consumed d.produced d.info d.consumed d.produced
        else
          let out := containerBlock (d.format = 5) d.level (off % 2 ^ 64) bs
          if d.fld 28 4 < d.produced + out.length then c.shDone e n d.idx 0x04 d.consumed d.produced d.info d.consumed d.produced
          else
            let (w, c) := c.writeLines iid (d.fld 16 8 + d.produced) out poison fun _ => none
            if w < out.length then c.shDone e n d.idx 0x03 d.consumed (d.produced + w) d.info d.consumed d.produced
            else
              let (w2, c) := if d.fld 40 8 = 0 then (16, c)
                else c.writeLines iid (d.fld 40 8 + 16 * d.info) (leBytes off 8 ++ leBytes d.produced 4 ++ leBytes out.length 4) poison fun _ => none
              let consumed := d.consumed + len
              let produced := d.produced + out.length
              if w2 < 16 then c.shDone e n d.idx 0x03 consumed produced (d.info + 1) consumed produced
              else if consumed = d.fld 24 4 then
                c.shDone e n d.idx (if poison then 0x0A else 0) consumed produced (d.info + 1) consumed produced
              else if c.stopping iid then c.shDone e n d.idx 0x09 consumed produced (d.info + 1) consumed produced
              else c.modDesc r d.idx fun d => { d with consumed := consumed, produced := produced, info := d.info + 1, poison := poison }
  | _ => c

/-- COMPRESS of a stream, or of a container, whose blocks then wait to be written in order (R315, R318). -/
def Chip.shCompress (c : Chip) (r : RingId) : Chip :=
  c.withJob r (fun d => decide (d.opcode = 0x10) && !d.resumes && !d.ready) fun c e n iid d =>
    if d.stream then c.streamEncode e n iid d
    else c.modDesc r d.idx fun d => { d with ready := true }

/-- COMPRESS with RESUME (R321). -/
def Chip.shCompressResume (c : Chip) (r : RingId) : Chip :=
  c.withJob r (fun d => decide (d.opcode = 0x10) && d.resumes) fun c e n iid d => c.streamEncode e n iid d

/-- DECOMPRESS (R316, R319). -/
def Chip.shDecompress (c : Chip) (r : RingId) : Chip :=
  c.withJob r (fun d => decide (d.opcode = 0x11) && !d.resumes) fun c e n iid d =>
    if d.stream then c.streamDecode e n iid d
    else
      let (bs, p, got, c) := c.readBuf iid (d.fld 8 8) (d.fld 24 4)
      if got ≠ 0 then c.shDone e n d.idx got bs.length 0 0 bs.length 0
      else c.containerDecode e n iid d bs p (bs.length + 2) 0 0 0 none

/-- DECOMPRESS with RESUME (R321). -/
def Chip.shDecompressResume (c : Chip) (r : RingId) : Chip :=
  c.withJob r (fun d => decide (d.opcode = 0x11) && d.resumes) fun c e n iid d => c.streamDecode e n iid d

/-! Lane faults (R436). -/

/-- A lane detects a fault: it reruns from its checkpoint, which writes the same bytes again; a fault during the rerun
retires the lane, and its work moves to another lane. -/
def Chip.laneFault (c : Chip) (e l : Nat) (again : Bool) : Chip :=
  let y := (c.engine e).lane l
  if y.retired then c
  else
    let c := c.logErr (uShears e) { cls := .corrected, struct := 0x11, indexA := l, owner := (y.job.map (·.1)).getD 0 }
    if again && y.faulted then
      let c := c.modLane e l fun y => { y with job := none, retired := true }
      match y.job with
      | none => c
      | some j => match c.freeLane e with
        | some k => c.modLane e k fun z => { z with job := some j, faulted := false }
        | none => c.modDesc (.sh e j.1) j.2 fun d => { d with started := false }
    else c.modLane e l fun y => { y with faulted := true }

/-- Every lane that runs work of an instance is cut, 8 ms after its reset began (R404, step 6). -/
def Chip.stopCut (c : Chip) (iid status : Nat) : Chip :=
  [0, 1].foldl (fun (c : Chip) e =>
    (List.range 16).foldl (fun (c : Chip) l =>
      match ((c.engine e).lane l).job with
      | some (r, idx) => if c.ringOwner (.sh e r) = iid then
          let d := ((c.ring (.sh e r)).descs.find? fun d => d.idx = idx)
          match d with
          | some d => c.shDone e r idx status d.consumed d.produced d.info 0 0
          | none => c.laneFree e r idx
        else c
      | none => c) c) c

end Sys2Proof.Machine
end

