-- ==== Sys2Proof/Machine/Drovers.lean ====
section
/-! DEFINITION. Drover clusters and cores (R335-R354). A core's own time runs in `now`, in dvc; instructions that wait for
something outside the core stay where they are (R340). -/

namespace Sys2Proof.Machine

def DvCore.getX (x : DvCore) (r : Nat) : Nat := if r = 0 then 0 else (Sparse.at x.x 0 r).toNat
/-- A register written; a pending load's later result no longer reaches a register written after it. -/
def DvCore.setX (x : DvCore) (r v : Nat) : DvCore :=
  if r = 0 then x
  else
    let m := match x.miss with
      | some m => if m.reg = r then some { m with reg := 0 } else some m
      | none => none
    { x with x := Sparse.put x.x r (BitVec.ofNat 32 v), miss := m }

/-- The core executes: it runs, is powered, not halted, and its instance is in service (R349, R404, R405, R408). -/
def Chip.dvLive (c : Chip) (d k : Nat) : Bool :=
  let x := c.dvCore d k
  x.run && !x.halted && c.unitRuns (uDrover d) && c.unitRuns (uDvCore d k)
    && decide (c.regFld (uDrover d) 0 0x1040 0 0 = 1) && decide ((c.inst (c.ownerOf (6 + d) k)).st = .active)

/-- Owner of a drover core (R337, R393). -/
def Chip.dvOwner (c : Chip) (d k : Nat) : Nat := c.ownerOf (6 + d) k

/-- Halt of a core (R349): HALTED, CAUSE, the DV_HALTED bit, the HALT_VEC event of PF0 (R396), and a record for an IOMMU
fault or a memory error; R423 has no STRUCT for a refused translation or a poisoned fill, and the record takes that of
the drover memories (DESIGN CHOICE, log 64). The PC stays at the faulting instruction. -/
def Chip.dvHalt (c : Chip) (d k cause : Nat) : Chip :=
  let c := c.modDvCore d k fun x => { x with halted := true, cause := cause, waiting := false, loop := none, stalled := false }
  let c := c.orReg (uDrover d) 0 0x104C (BitVec.ofNat 32 (2 ^ k))
  let c := if cause = 5 ∨ cause = 9 then c.logErr (uDvCore d k) { cls := .uncorrected, struct := 0x15 } else c
  c.msixEvent 0 (c.regFld (uDrover d) 0 0x1040 26 16)

/-- An instruction retires: time passes, instret counts, the PC moves; the cluster's T is never behind a core. -/
def Chip.dvRetire (c : Chip) (d k time pc ld : Nat) : Chip :=
  let now := (c.dvCore d k).now + time
  (c.modDvCore d k fun x => { x with pc := pc % 2 ^ 32, now := now, instret := (x.instret + 1) % 2 ^ 64, ldReg := ld, waiting := false })
    |>.modDrover d fun x => { x with t := max x.t now }

/-- The extra dvc of an instruction that reads the result of the LDM load directly before it (R339). -/
def DvCore.useStall (x : DvCore) (rs : List Nat) : Nat := if x.ldReg ≠ 0 ∧ rs.contains x.ldReg then 1 else 0

/-- An instruction that reads the register of a pending load waits for its fill (R343). -/
def DvCore.readsPending (x : DvCore) (rs : List Nat) : Bool :=
  match x.miss with
  | some m => decide (m.reg ≠ 0) && rs.contains m.reg
  | none => false

/-- The instruction at PC cannot go on before something outside the core happens (R340). -/
def Chip.dvStall (c : Chip) (d k : Nat) : Chip := c.modDvCore d k fun x => { x with stalled := true }

/-- The time spent in an outside wait passes and is counted (R340, R354). -/
def Chip.dvCatch (c : Chip) (d k : Nat) : Chip :=
  if (c.dvCore d k).stalled then
    let t := (c.drover d).t
    c.modDvCore d k fun x => { x with now := max x.now t, waits := x.waits + (t - x.now), stalled := false }
  else c

/-! Addresses (R337). -/

inductive DvAddr where
  | ldm (off : Nat)
  | aperture (iova : Nat) (wr : Bool)
  | bad
deriving DecidableEq, Repr

def Chip.dvAddr (c : Chip) (d k a : Nat) : DvAddr :=
  if 0x10000000 ≤ a ∧ a < 0x10002000 then .ldm (a - 0x10000000)
  else if 0x80000000 ≤ a then
    let ap := a / 2 ^ 28 % 8
    let lo := c.reg (uDrover d) k (0x1100 + 16 * ap)
    if fld lo 0 0 = 0 then .bad
    else .aperture (fld lo 31 28 * 2 ^ 28 + (c.reg (uDrover d) k (0x1108 + 16 * ap)).toNat * 2 ^ 32 + a % 2 ^ 28) (fld lo 1 1 = 1)
  else .bad

/-- Where an IOVA of a core lies: a physical address, memory of an external host, or refused. -/
inductive DvPa where
  | pa (a : Nat)
  | host
  | fault
deriving DecidableEq, Repr

def Chip.dvTranslate (c : Chip) (d k iova : Nat) (write : Bool) : DvPa × Chip :=
  match c.dmaOf (c.dvOwner d k) with
  | .host _ => (.host, c)
  | .int dev pasid => match c.ioTranslate 4 dev pasid iova write with
    | (some pa, c) => (.pa pa, c)
    | (none, c) => (.fault, c)

/-- Waiting time of an access for its bank slot (R342). -/
def slotWait (k now addr : Nat) : Nat := (addr / 64 % 16 + 32 * 16 - k + 16 * (now / 16 + 1) - now) % 16

/-- A store to address `a` that enters the store queue of core k in dvc t (R345): how long it waits while all four entries
are taken, and the slots in which the queued stores drain, in program order, each in the next slot of its bank. -/
def DvCore.enters (x : DvCore) (k t a : Nat) : Nat × List Nat :=
  let live := x.drains.filter fun u => t < u
  let t1 := if 4 ≤ live.length then live.getD (live.length - 4) t else t
  let head := match live.getLast? with
    | some p => max t1 (p + 1)
    | none => t1
  (t1 - t, (live.filter fun u => t1 < u) ++ [head + slotWait k head a])

/-- The dvc from which a load of a core takes its slot: its own, or that in which the store queue is empty (R342). -/
def DvCore.loadFrom (x : DvCore) (t : Nat) : Nat := x.drains.foldl max t

/-! Cluster cache and prefetch buffer (R342-R346). -/

def Drover.line (x : Drover) (l : Nat) : Option (Nat × DvLine) :=
  ((List.range 16).map (16 * (l % 256) + ·)).findSome? fun i => match Sparse.find x.cache i with
    | some e => if e.line = l then some (i, e) else none
    | none => none

/-- Fill ways of a core (R346). -/
def Chip.dvHurdle (c : Chip) (d k : Nat) : BitVec 16 :=
  if c.faulty (uDrover d) k 0x105C then 0xFFFF else BitVec.ofNat 16 (c.regFld (uDrover d) k 0x105C 15 0)

/-- A line allocated in a core's ways, replacing the least recently used of them (R343). -/
def Chip.dvAlloc (c : Chip) (d k l : Nat) (data : Line) : Chip :=
  let x := c.drover d
  let ways := (List.range 16).filter fun w => (c.dvHurdle d k).getLsbD w
  let slot (w : Nat) : Nat := 16 * (l % 256) + w
  let way := match ways.find? fun w => (Sparse.find x.cache (slot w)).isNone with
    | some w => w
    | none => (ways.foldl (fun (b : Option (Nat × Nat)) w =>
        let t := ((Sparse.find x.cache (slot w)).map (·.lru)).getD 0
        match b with
        | some (_, u) => if t < u then some (w, t) else b
        | none => some (w, t)) none).map (·.1) |>.getD 0
  c.modDrover d fun x => { x with cache := Sparse.put x.cache (slot way) { line := l, data := data, lru := x.clock }, clock := x.clock + 1 }

/-- A line removed from the cache and the prefetch buffer. -/
def Chip.dvInval (c : Chip) (d l : Nat) : Chip :=
  c.modDrover d fun x => { x with cache := x.cache.filter fun e => e.2.line ≠ l, pfb := x.pfb.filter fun e => e.line ≠ l }

/-- A line found at hit time: in the cache, or in the prefetch buffer, from which it moves into the cache (R344). -/
def Chip.dvHit (c : Chip) (d k l : Nat) : Option (Line × Chip) :=
  match (c.drover d).line l with
  | some (i, e) => some (e.data, c.modDrover d fun x => { x with cache := Sparse.put x.cache i { e with lru := x.clock }, clock := x.clock + 1 })
  | none => match (c.drover d).pfb.find? fun e => e.line = l ∧ e.data.isSome with
    | some e => some (e.data.getD 0, (c.modDrover d fun x => { x with pfb := x.pfb.filter fun y => y.line ≠ l }).dvAlloc d k l (e.data.getD 0))
    | none => none

/-- Bytes at a place of a line as a loaded value, 32 bits. -/
def dvValue (bs : List Byte) (signed : Bool) : Nat :=
  let v := leNat bs
  let w := 8 * bs.length
  if signed ∧ 2 ^ (w - 1) ≤ v then v + (2 ^ 32 - 2 ^ w) else v

/-- A load of a core (R337, R339, R343): `none` waits, otherwise the core after it. -/
def Chip.dvLoad (c : Chip) (d k : Nat) (op : DvMem) : Chip :=
  let x := c.dvCore d k
  let a := (((x.getX op.rs1 : Int) + op.imm) % 2 ^ 32).toNat
  if x.readsPending [op.rs1] then c.dvStall d k
  else if a % op.size ≠ 0 then c.dvHalt d k 3
  else
    let st := x.useStall [op.rs1]
    match c.dvAddr d k a with
    | .bad => c.dvHalt d k 4
    | .ldm off =>
      (c.modDvCore d k fun x => x.setX op.reg (dvValue (x.ldm.read off op.size) op.signed)).dvRetire d k (1 + st) (x.pc + 4) op.reg
    | .aperture iova _ =>
      if !x.sq.isEmpty then (if 64 ≤ (c.drover d).wq.length then c.dvStall d k else c)
      else
        let t := x.loadFrom (x.now + st)
        let time := 4 + slotWait k t a + (t - x.now)
        match c.dvTranslate d k iova false with
        | (.fault, c) => c.dvHalt d k 5
        | (.host, c) => match c.instRead (c.dvOwner d k) iova op.size with
          | (.ok bs _, c) => (c.modDvCore d k fun x => x.setX op.reg (dvValue bs op.signed)).dvRetire d k time (x.pc + 4) 0
          | (_, c) => c.dvHalt d k 4
        | (.pa pa, c1) =>
          match c1.dvHit d k (pa / 64) with
          | some (l, c) =>
            let bs := (lineBytes l).drop (pa % 64) |>.take op.size
            (c.modDvCore d k fun x => x.setX op.reg (dvValue bs op.signed)).dvRetire d k time (x.pc + 4) 0
          | none =>
            if x.miss.isSome then c.dvStall d k
            else
              let m : DvMiss := { reg := op.reg, pa := pa, size := op.size, signed := op.signed }
              (c1.modDvCore d k fun x => { x with miss := some m }).dvRetire d k time (x.pc + 4) 0

/-- A store of a core (R337, R339, R345). -/
def Chip.dvStore (c : Chip) (d k : Nat) (op : DvMem) : Chip :=
  let x := c.dvCore d k
  let a := (((x.getX op.rs1 : Int) + op.imm) % 2 ^ 32).toNat
  let bs := leBytes (x.getX op.reg) op.size
  if x.readsPending [op.rs1, op.reg] then c.dvStall d k
  else if a % op.size ≠ 0 then c.dvHalt d k 3
  else
    let st := x.useStall [op.rs1, op.reg]
    match c.dvAddr d k a with
    | .bad => c.dvHalt d k 4
    | .ldm off => (c.modDvCore d k fun x => { x with ldm := x.ldm.write off bs }).dvRetire d k (1 + st) (x.pc + 4) 0
    | .aperture iova wr =>
      if !wr then c.dvHalt d k 4
      else if 4 ≤ x.sq.length then (if 64 ≤ (c.drover d).wq.length then c.dvStall d k else c)
      else match c.dvTranslate d k iova true with
        | (.fault, c) => c.dvHalt d k 5
        | (.host, c) => ((c.instWrite (c.dvOwner d k) iova bs).2).dvRetire d k (1 + st) (x.pc + 4) 0
        | (.pa pa, c) =>
          let q := x.enters k (x.now + st) a
          (c.modDvCore d k fun x => { x with sq := x.sq ++ [(pa, iova, bs)], drains := q.2 }).dvRetire d k (1 + st + q.1) (x.pc + 4) 0

/-- A fill arrives (R343, R344): for the core's miss, once no write to its line waits in the write queue; poison halts the
core and allocates nothing (R432). With no miss, the oldest pending prefetch fills. -/
def Chip.dvFill (c : Chip) (d k : Nat) : Chip :=
  let x := c.dvCore d k
  match x.miss with
  | some m =>
    let l := m.pa / 64
    if (c.drover d).wq.any fun e => e.line = l then c
    else
      let got : Option (Line × Bool) × Chip := match (c.drover d).line l with
        | some (_, e) => (some (e.data, false), c)
        | none => match c.busRead (64 * l) 64 with
          | (.ok bs p, c) => (some (lineOf bs, p), if p then c else (c.dvInval d l).dvAlloc d k l (lineOf bs))
          | (_, c) => (none, c)
      match got with
      | (none, c) => (c.modDvCore d k fun x => { x with miss := none }).dvHalt d k 4
      | (some (data, poison), c) =>
        let c := (c.dvCatch d k).modDvCore d k fun x => { x with miss := none }
        if poison then c.dvHalt d k 9
        else c.modDvCore d k fun x => x.setX m.reg (dvValue ((lineBytes data).drop (m.pa % 64) |>.take m.size) m.signed)
  | none => match (c.drover d).pfb.find? fun e => e.data.isNone with
    | none => c
    | some e => match c.busRead (64 * e.line) 64 with
      | (.ok bs p, c) => c.modDrover d fun x =>
          { x with pfb := if p then x.pfb.filter fun y => y.line ≠ e.line
                          else x.pfb.map fun y => if y.line = e.line then { y with data := some (lineOf bs) } else y }
      | (_, c) => c.modDrover d fun x => { x with pfb := x.pfb.filter fun y => y.line ≠ e.line }

/-- The head of a core's store queue drains (R345): the cached line is updated, the bytes merge into the core's open entry
for that line or open a new one; the core's entries for other lines are closed. -/
def Chip.dvDrain (c : Chip) (d k : Nat) : Chip :=
  match (c.dvCore d k).sq with
  | [] => c
  | (pa, iova, bs) :: rest =>
    let l := pa / 64
    let data : Line := lineOf bs <<< (8 * (pa % 64))
    let mask := byteMask (pa % 64) bs.length
    let x := c.drover d
    let open_ := x.wq.any fun e => decide (e.core = k ∧ e.line = l) && !e.closed
    if open_ = false ∧ 64 ≤ x.wq.length then c
    else
      let c := c.modDvCore d k fun y => { y with sq := rest }
      c.modDrover d fun x =>
        let cache := x.cache.map fun (e : Nat × DvLine) => if e.2.line = l then (e.1, { e.2 with data := mergeLine e.2.data data mask }) else e
        let wq := x.wq.map fun (e : DvWq) =>
          if e.core = k ∧ e.closed = false then
            if e.line = l then { e with data := mergeLine e.data data mask, mask := e.mask ||| mask } else { e with closed := true }
          else e
        { x with cache := cache, wq := if open_ then wq else wq ++ [{ core := k, line := l, iova := iova / 64 * 64, data := data, mask := mask, opened := x.t }] }

/-- Runs of bytes that a mask selects: offset and bytes. -/
def maskRuns (data : Line) (mask : BitVec 64) : List (Nat × List Byte) :=
  let r := (List.range 64).foldl (fun (s : List (Nat × List Byte) × Option (Nat × List Byte)) i =>
    if mask.getLsbD i then
      (s.1, some (match s.2 with | some (o, bs) => (o, bs ++ [byteOf data i]) | none => (i, [byteOf data i])))
    else (s.1 ++ s.2.toList, none)) ([], none)
  r.1 ++ r.2.toList

/-- Entry n of the write queue sent as a byte-masked NcWr once it is closed or 32 dvc old (R345). -/
def Chip.dvSend (c : Chip) (d n : Nat) : Chip :=
  match (c.drover d).wq[n]? with
  | none => c
  | some e =>
    if e.closed = false ∧ (c.drover d).t < e.opened + 32 then c
    else
      let c := c.modDrover d fun x => { x with wq := x.wq.eraseIdx n }
      let c := (maskRuns e.data e.mask).foldl (fun (c : Chip) r => (c.physWrite (64 * e.line + r.1) r.2 false 0 fun _ => none).getD c) c
      c.markDirty (c.dvOwner d e.core) e.iova

/-- The core's writes have WbAck (R345). -/
def Chip.dvQuiet (c : Chip) (d k : Nat) : Bool :=
  (c.dvCore d k).sq.isEmpty && !(c.drover d).wq.any fun e => decide (e.core = k)

/-- The core's open entries closed: FENCE and mol.cmpl send them (R345). -/
def Chip.dvClose (c : Chip) (d k : Nat) : Chip :=
  c.modDrover d fun x => { x with wq := x.wq.map fun (e : DvWq) => if e.core = k then { e with closed := true } else e }

/-! Arithmetic (R126 at 32 bits, R339, R347). -/

def s32 (v : Nat) : Int := sInt 32 (v % 2 ^ 32)
def w32 (v : Int) : Nat := (v % 2 ^ 32).toNat

def dvMul (f : DvMul) (a b : Nat) : Nat :=
  match f with
  | .mul => a * b % 2 ^ 32
  | .mulh => w32 (s32 a * s32 b / 2 ^ 32)
  | .mulhsu => w32 (s32 a * (b : Int) / 2 ^ 32)
  | .mulhu => a * b / 2 ^ 32

def dvDiv (f : DvDiv) (a b : Nat) : Nat :=
  match f with
  | .div => divCore true false 32 a b
  | .divu => divCore false false 32 a b
  | .rem => divCore true true 32 a b
  | .remu => divCore false true 32 a b

/-- Time of a divide (R339). -/
def dvDivTime (f : DvDiv) (a b : Nat) : Nat :=
  let signed := decide (f = .div ∨ f = .rem)
  if b = 0 ∨ (signed = true ∧ a = 0x80000000 ∧ b = 0xFFFFFFFF) then 2
  else
    let ma := if signed then (s32 a).natAbs else a
    let mb := if signed then (s32 b).natAbs else b
    2 + (clz 32 mb + 1 - clz 32 ma)

/-- An instruction of register form: waits for a pending operand, writes rd, retires (R339). -/
def Chip.dvAlu (c : Chip) (d k rd : Nat) (rs : List Nat) (v time : Nat) : Chip :=
  let x := c.dvCore d k
  if x.readsPending rs then c.dvStall d k
  else (c.modDvCore d k fun x => x.setX rd v).dvRetire d k (time + x.useStall rs) (x.pc + 4) 0

/-- A control transfer taken (R338, R339, R341): a backward branch or JAL of at most 63 instructions is loop-closing, and
from its third taken execution on it costs 1 dvc. -/
def Chip.dvJump (c : Chip) (d k rd : Nat) (rs : List Nat) (target : Nat) (closing : Bool) : Chip :=
  let x := c.dvCore d k
  if x.readsPending rs then c.dvStall d k
  else if target % 4 ≠ 0 then c.dvHalt d k 3
  else
    let close := closing && decide (target ≤ x.pc) && decide (x.pc - target ≤ 4 * 63)
    let n := match x.loop with | some (p, n) => if p = x.pc then n + 1 else 1 | none => 1
    let time := if close && decide (3 ≤ n) then 1 else 3
    let c := c.modDvCore d k fun y => { y.setX rd (x.pc + 4) with loop := if close then some (x.pc, n) else none }
    c.dvRetire d k (time + x.useStall rs) target 0

/-- A conditional branch. -/
def Chip.dvBranch (c : Chip) (d k rs1 rs2 : Nat) (taken : Bool) (target : Nat) : Chip :=
  let x := c.dvCore d k
  if x.readsPending [rs1, rs2] then c.dvStall d k
  else if taken then c.dvJump d k 0 [rs1, rs2] target true
  else
    let c := c.modDvCore d k fun y => { y with loop := match y.loop with | some (p, n) => if p = x.pc then none else some (p, n) | none => none }
    c.dvRetire d k (1 + x.useStall [rs1, rs2]) (x.pc + 4) 0

/-! Packet instructions (R344, R347, R348). -/

def Chip.dvMulct (c : Chip) (d k : Nat) (fn : DvMul) (r : DvReg) : Chip :=
  let x := c.dvCore d k
  c.dvAlu d k r.rd [r.rs1, r.rs2] (dvMul fn (x.getX r.rs1) (x.getX r.rs2)) 5

def Chip.dvDivct (c : Chip) (d k : Nat) (fn : DvDiv) (r : DvReg) : Chip :=
  let x := c.dvCore d k
  c.dvAlu d k r.rd [r.rs1, r.rs2] (dvDiv fn (x.getX r.rs1) (x.getX r.rs2)) 34

def bswap32 (v : Nat) : Nat := leNat (leBytes v 4).reverse

def Chip.dvBswap (c : Chip) (d k : Nat) (r : DvReg) : Chip :=
  c.dvAlu d k r.rd [r.rs1] (bswap32 ((c.dvCore d k).getX r.rs1)) 1

/-- Ones'-complement add of 32-bit words. -/
def onesAdd (a b : Nat) : Nat := (a + b + (a + b) / 2 ^ 32) % 2 ^ 32

def Chip.dvCsum (c : Chip) (d k : Nat) (r : DvReg) : Chip :=
  let x := c.dvCore d k
  c.dvAlu d k r.rd [r.rs1, r.rs2] (onesAdd (x.getX r.rs1) (x.getX r.rs2)) 1

/-- Ones'-complement sum of the halves of a word. -/
def foldSum (a : Nat) : Nat :=
  let s := a / 65536 + a % 65536
  (s + s / 65536) % 65536

def Chip.dvCsfold (c : Chip) (d k : Nat) (r : DvReg) : Chip :=
  c.dvAlu d k r.rd [r.rs1] (foldSum ((c.dvCore d k).getX r.rs1)) 1

def Chip.dvCrcB (c : Chip) (d k : Nat) (r : DvReg) : Chip :=
  let x := c.dvCore d k
  c.dvAlu d k r.rd [r.rs1, r.rs2] (crcByte polyC (x.getX r.rs1) (BitVec.ofNat 8 (x.getX r.rs2))) 1

def Chip.dvCrcW (c : Chip) (d k : Nat) (r : DvReg) : Chip :=
  let x := c.dvCore d k
  c.dvAlu d k r.rd [r.rs1, r.rs2] ((leBytes (x.getX r.rs2) 4).foldl (crcByte polyC) (x.getX r.rs1)) 2

/-- mol.extr: shift x[rs2][4:0], width x[rs2][9:5], where 0 means 32 (R347). -/
def extrBits (a b : Nat) : Nat :=
  let w := b / 32 % 32
  let v := a / 2 ^ (b % 32)
  if w = 0 then v else v % 2 ^ w

def Chip.dvExtr (c : Chip) (d k : Nat) (r : DvReg) : Chip :=
  let x := c.dvCore d k
  c.dvAlu d k r.rd [r.rs1, r.rs2] (extrBits (x.getX r.rs1) (x.getX r.rs2)) 1

/-- An LDM address of n bytes for mol.dget or mol.cmpl: its offset, or the cause of the halt (R337, R348, R350). -/
def ldmPlace (a n : Nat) : Except Nat Nat :=
  if a % n ≠ 0 then .error 3
  else if 0x10000000 ≤ a ∧ a + n ≤ 0x10002000 then .ok (a - 0x10000000) else .error 4

/-- mol.dget (R348). -/
def Chip.dvDget (c : Chip) (d k : Nat) (r : DvReg) : Chip :=
  let x := c.dvCore d k
  if x.miss.isSome then c.dvStall d k
  else match ldmPlace (x.getX r.rs1) 32 with
    | .error e => c.dvHalt d k e
    | .ok off => match x.inbox with
      | [] => c.dvAlu d k r.rd [r.rs1] 0 1
      | (n, idx) :: rest =>
        let bs := match (c.ring (.dv d n)).descs.find? fun e => e.idx = idx with | some e => e.bytes | none => []
        let c := c.modDvCore d k fun y => { y with ldm := y.ldm.write off bs, inbox := rest }
        (c.modDesc (.dv d n) idx fun e => { e with taken := true }).dvAlu d k r.rd [r.rs1] (0x80000000 + idx % 65536 * 256 + n) 4

/-- mol.dwait (R348): clock-gated until the inbox holds a descriptor. -/
def Chip.dvDwait (c : Chip) (d k : Nat) : Chip :=
  let x := c.dvCore d k
  if x.inbox.isEmpty then c.modDvCore d k fun y => { y with waiting := true }
  else
    let t := (c.drover d).t
    let waited := if x.waiting then t - x.now else 0
    (c.modDvCore d k fun y => { y with now := y.now + waited, waits := y.waits + waited }).dvRetire d k 1 (x.pc + 4) 0

/-- Descriptors of a cluster that a core has completed and whose records wait (R348). -/
def Chip.dvPendingRecs (c : Chip) (d k : Nat) : Nat :=
  ((List.range 64).map fun n =>
    if c.regFld (uDrover d) n 0x1060 20 16 = k then ((c.ring (.dv d n)).descs.filter fun e => e.taken && e.fin.isSome).length else 0).sum

/-- mol.cmpl (R348, R349). -/
def Chip.dvCmpl (c : Chip) (d k : Nat) (r : DvReg) : Chip :=
  let x := c.dvCore d k
  if x.readsPending [r.rs1, r.rs2] ∨ x.miss.isSome then c.dvStall d k
  else
    let n := x.getX r.rs2 % 64
    match ldmPlace (x.getX r.rs1) 16 with
    | .error e => c.dvHalt d k e
    | .ok off =>
      let mine := decide (c.regFld (uDrover d) n 0x1060 20 16 = k)
      match (if mine then (c.ring (.dv d n)).descs.find? fun e => e.taken && e.fin.isNone else none) with
      | none => c.dvHalt d k 8
      | some e =>
        let rec16 := x.ldm.read off 16
        let st := bsNat rec16 0 1
        if 0x0E < st then c.dvHalt d k 8
        else if c.dvQuiet d k = false then (c.dvClose d k).dvStall d k
        else if 4 ≤ c.dvPendingRecs d k then c.dvStall d k
        else
          (c.modDesc (.dv d n) e.idx fun e =>
            { e with fin := some st, consumed := bsNat rec16 4 4, produced := bsNat rec16 8 4, info := bsNat rec16 12 4 }).dvRetire d k
              (2 + x.useStall [r.rs1, r.rs2]) (x.pc + 4) 0

/-- An address of mol.dpf and the mol.dc instructions (R347): LDM, a physical line, waiting, or halted. -/
def Chip.dvLineOp (c : Chip) (d k : Nat) (r : DvReg) (time : Nat → Nat) (f : Chip → Nat → Option Chip) : Chip :=
  let x := c.dvCore d k
  if x.readsPending [r.rs1] then c.dvStall d k
  else
    let a := x.getX r.rs1
    let st := x.useStall [r.rs1]
    match c.dvAddr d k a with
    | .bad => c.dvHalt d k 4
    | .ldm _ => c.dvRetire d k (1 + st) (x.pc + 4) 0
    | .aperture iova _ => match c.dvTranslate d k iova false with
      | (.fault, c) => c.dvHalt d k 5
      | (.host, c) => c.dvRetire d k (1 + st) (x.pc + 4) 0
      | (.pa pa, c1) => match f c1 (pa / 64) with
        | some c => c.dvRetire d k (time (slotWait k (x.now + st) a) + st) (x.pc + 4) 0
        | none => c.dvStall d k

/-- mol.dpf (R344). -/
def Chip.dvDpf (c : Chip) (d k : Nat) (r : DvReg) : Chip :=
  c.dvLineOp d k r (fun _ => 1) fun c l =>
    let x := c.drover d
    if (x.line l).isSome ∨ (x.pfb.any fun e => e.line = l) = true then some c
    else some (c.modDrover d fun x => { x with pfb := (if 8 ≤ x.pfb.length then x.pfb.drop 1 else x.pfb) ++ [{ line := l, data := none }] })

/-- The core has a write to a line that lacks its WbAck. -/
def Chip.dvWrites (c : Chip) (d k l : Nat) : Bool :=
  ((c.dvCore d k).sq.any fun e => e.1 / 64 = l) || (c.drover d).wq.any fun e => decide (e.core = k ∧ e.line = l)

def Chip.dvDcClean (c : Chip) (d k : Nat) (r : DvReg) : Chip :=
  c.dvLineOp d k r (4 + ·) fun c l => if c.dvWrites d k l then none else some c
def Chip.dvDcInval (c : Chip) (d k : Nat) (r : DvReg) : Chip := c.dvLineOp d k r (4 + ·) fun c l => some (c.dvInval d l)
def Chip.dvDcFlush (c : Chip) (d k : Nat) (r : DvReg) : Chip :=
  c.dvLineOp d k r (4 + ·) fun c l => if c.dvWrites d k l then none else some (c.dvInval d l)

/-! The instruction at PC (R336-R341, R347). -/

/-- Sign-extended field of n bits, as an integer. -/
def sxt (v n : Nat) : Int := sInt n (v % 2 ^ n)

/-- Custom-0 instructions: unused fields must be 0 (R347). -/
def Chip.dvCustom (c : Chip) (d k f7 f3 rd rs1 rs2 : Nat) : Chip :=
  let r : DvReg := { rd := rd, rs1 := rs1, rs2 := rs2 }
  match f7, f3 with
  | 0, 0 => c.dvMulct d k .mul r
  | 0, 1 => c.dvMulct d k .mulh r
  | 0, 2 => c.dvMulct d k .mulhsu r
  | 0, 3 => c.dvMulct d k .mulhu r
  | 1, 4 => c.dvDivct d k .div r
  | 1, 5 => c.dvDivct d k .divu r
  | 1, 6 => c.dvDivct d k .rem r
  | 1, 7 => c.dvDivct d k .remu r
  | 2, 0 => if rs2 = 0 then c.dvBswap d k r else c.dvHalt d k 1
  | 2, 1 => c.dvCsum d k r
  | 2, 2 => if rs2 = 0 then c.dvCsfold d k r else c.dvHalt d k 1
  | 2, 3 => c.dvCrcB d k r
  | 2, 4 => c.dvCrcW d k r
  | 2, 5 => c.dvExtr d k r
  | 3, 0 => if rs2 = 0 then c.dvDget d k r else c.dvHalt d k 1
  | 3, 1 => if rd = 0 ∧ rs1 = 0 ∧ rs2 = 0 then c.dvDwait d k else c.dvHalt d k 1
  | 3, 2 => if rd = 0 then c.dvCmpl d k r else c.dvHalt d k 1
  | 3, 4 => if rd = 0 ∧ rs2 = 0 then c.dvDpf d k r else c.dvHalt d k 1
  | 3, 5 => if rd = 0 ∧ rs2 = 0 then c.dvDcClean d k r else c.dvHalt d k 1
  | 3, 6 => if rd = 0 ∧ rs2 = 0 then c.dvDcInval d k r else c.dvHalt d k 1
  | 3, 7 => if rd = 0 ∧ rs2 = 0 then c.dvDcFlush d k r else c.dvHalt d k 1
  | _, _ => c.dvHalt d k 1

/-- Result of an RV32I register or immediate operation; none is not an instruction. `alt` is bit 30. -/
def rv32Alu (f3 : Nat) (alt : Bool) (a b : Nat) : Nat :=
  match f3 with
  | 0 => if alt then w32 ((a : Int) - b) else (a + b) % 2 ^ 32
  | 1 => a * 2 ^ (b % 32) % 2 ^ 32
  | 2 => bit (s32 a < s32 b)
  | 3 => bit (a < b)
  | 4 => a ^^^ b
  | 5 => if alt then w32 (s32 a / 2 ^ (b % 32)) else a / 2 ^ (b % 32)
  | 6 => a ||| b
  | _ => a &&& b

/-- The CSRs of a drover core (R336). -/
def Chip.dvCsr (c : Chip) (d k n : Nat) : Option Nat :=
  let x := c.dvCore d k
  if n = 0xC00 then some (x.now % 2 ^ 32) else if n = 0xC80 then some (x.now / 2 ^ 32 % 2 ^ 32)
  else if n = 0xC02 then some (x.instret % 2 ^ 32) else if n = 0xC82 then some (x.instret / 2 ^ 32 % 2 ^ 32) else none

/-- The instruction at the core's PC executes (R336-R341, R347). -/
def Chip.dvStep (c : Chip) (d k : Nat) : Chip :=
  let x := c.dvCore d k
  if 0x4000 ≤ x.pc then c.dvHalt d k 2
  else
    let w := leNat (x.imem.read x.pc 4)
    let op := w % 128
    let rd := w / 2 ^ 7 % 32
    let f3 := w / 2 ^ 12 % 8
    let rs1 := w / 2 ^ 15 % 32
    let rs2 := w / 2 ^ 20 % 32
    let f7 := w / 2 ^ 25
    let immI := sxt (w / 2 ^ 20) 12
    let immS := sxt (f7 * 32 + rd) 12
    let a := x.getX rs1
    let b := x.getX rs2
    if x.waiting && !decide (op = 0x0B) then c
    else match op with
    | 0x37 => c.dvAlu d k rd [] (w / 4096 * 4096) 1
    | 0x17 => c.dvAlu d k rd [] ((x.pc + w / 4096 * 4096) % 2 ^ 32) 1
    | 0x6F =>
      let im := sxt (w / 2 ^ 31 * 2 ^ 20 + w / 2 ^ 12 % 256 * 2 ^ 12 + w / 2 ^ 20 % 2 * 2 ^ 11 + w / 2 ^ 21 % 1024 * 2) 21
      c.dvJump d k rd [] (w32 (x.pc + im)) (im < 0)
    | 0x67 => if f3 = 0 then c.dvJump d k rd [rs1] (w32 (a + immI) / 2 * 2) false else c.dvHalt d k 1
    | 0x63 =>
      let im := sxt (w / 2 ^ 31 * 2 ^ 12 + w / 2 ^ 7 % 2 * 2 ^ 11 + w / 2 ^ 25 % 64 * 32 + w / 2 ^ 8 % 16 * 2) 13
      let t : Option Bool := match f3 with
        | 0 => some (a = b) | 1 => some (a ≠ b) | 4 => some (s32 a < s32 b) | 5 => some (s32 b ≤ s32 a)
        | 6 => some (a < b) | 7 => some (b ≤ a) | _ => none
      match t with
      | some t => c.dvBranch d k rs1 rs2 t (w32 (x.pc + im))
      | none => c.dvHalt d k 1
    | 0x03 =>
      if f3 = 3 ∨ 6 ≤ f3 then c.dvHalt d k 1
      else c.dvLoad d k { reg := rd, rs1 := rs1, imm := immI, size := 2 ^ (f3 % 4), signed := f3 < 4 }
    | 0x23 => if 3 ≤ f3 then c.dvHalt d k 1 else c.dvStore d k { reg := rs2, rs1 := rs1, imm := immS, size := 2 ^ f3 }
    | 0x13 =>
      if (f3 = 1 ∧ f7 ≠ 0) ∨ (f3 = 5 ∧ f7 ≠ 0 ∧ f7 ≠ 32) then c.dvHalt d k 1
      else c.dvAlu d k rd [rs1] (rv32Alu f3 (f3 = 5 ∧ f7 = 32) a (w32 immI)) 1
    | 0x33 =>
      if f7 = 1 then
        if f3 < 4 then
          let fn : DvMul := match f3 with | 0 => .mul | 1 => .mulh | 2 => .mulhsu | _ => .mulhu
          c.dvAlu d k rd [rs1, rs2] (dvMul fn a b) (if f3 = 0 then 1 + max 1 ((32 - clz 32 b + 7) / 8) else 5)
        else
          let fn : DvDiv := match f3 with | 4 => .div | 5 => .divu | 6 => .rem | _ => .remu
          c.dvAlu d k rd [rs1, rs2] (dvDiv fn a b) (dvDivTime fn a b)
      else if f7 = 0 ∨ (f7 = 32 ∧ (f3 = 0 ∨ f3 = 5)) then c.dvAlu d k rd [rs1, rs2] (rv32Alu f3 (f7 = 32) a b) 1
      else c.dvHalt d k 1
    | 0x0F =>
      if f3 = 1 then c.dvRetire d k 1 (x.pc + 4) 0
      else if f3 ≠ 0 then c.dvHalt d k 1
      else if x.miss.isSome then c.dvStall d k
      else if c.dvQuiet d k then c.dvRetire d k 1 (x.pc + 4) 0 else (c.dvClose d k).dvStall d k
    | 0x73 =>
      if w = 0x73 then c.dvHalt d k 7
      else if w = 0x100073 then c.dvHalt d k 6
      else if (f3 = 2 ∨ f3 = 3 ∨ f3 = 6 ∨ f3 = 7) ∧ rs1 = 0 then
        match c.dvCsr d k (w / 2 ^ 20) with
        | some v => c.dvAlu d k rd [] v 1
        | none => c.dvHalt d k 1
      else c.dvHalt d k 1
    | 0x0B => c.dvCustom d k f7 f3 rd rs1 rs2
    | _ => c.dvHalt d k 1

/-- What a row of a drover core does: nothing unless the core executes, and nothing but mol.dwait while it waits in it. -/
def Chip.dvRow (c : Chip) (d k : Nat) (f : Chip → Chip) : Chip :=
  if c.dvLive d k && !(c.dvCore d k).waiting then f (c.dvCatch d k) else c

/-- mol.dwait's row runs while the core waits. -/
def Chip.dvWaitRow (c : Chip) (d k : Nat) (f : Chip → Chip) : Chip := if c.dvLive d k then f (c.dvCatch d k) else c

/-! RUN, maintenance (R342, R349, R352). -/

/-- RUN from 0 to 1 (R349). -/
def Chip.dvRun (c : Chip) (d k : Nat) : Chip :=
  c.modDvCore d k fun x =>
    { x with run := true, halted := false, waiting := false, cause := 0, pc := 0, x := [], instret := 0, waits := 0,
             now := (c.drover d).t, ldReg := 0, miss := none, loop := none, drains := [], stalled := false }

/-- Descriptors in a core's inbox, and those it has taken and not completed, complete with ABORTED_RESET (R349). -/
def Chip.dvAbort (c : Chip) (d k : Nat) : Chip :=
  let box := (c.dvCore d k).inbox
  let c := c.modDvCore d k fun x => { x with inbox := [] }
  (List.range 64).foldl (fun (c : Chip) n =>
    if c.regFld (uDrover d) n 0x1060 20 16 = k then
      c.modRing (.dv d n) fun x => { x with descs := x.descs.map fun (e : Desc) =>
        if e.fin.isNone && (e.taken || box.contains (n, e.idx)) then { e with fin := some 0x09 } else e }
    else c) c

/-- RUN from 1 to 0 (R349): the core stops at an instruction boundary and abandons any outside wait. -/
def Chip.dvStop (c : Chip) (d k : Nat) : Chip :=
  (c.modDvCore d k fun x => { x with run := false, waiting := false, miss := none, loop := none, stalled := false }).dvAbort d k

/-- DV_CTL.EN from 0 to 1: T restarts at 0 (R342). -/
def Chip.dvEnable (c : Chip) (d : Nat) : Chip :=
  c.modDrover d fun x => { x with t := 0, cores := x.cores.map fun (e : Nat × DvCore) => (e.1, { e.2 with now := 0, drains := [] }) }

/-- Cache positions that a maintenance operation visits. -/
def visits (pos : MaintPos) (key ways : Nat) : Bool := pos.all || decide (key = ways * pos.set + pos.way)

/-- DV_MAINT_CTL starts (R352): INVAL (2 in R177) drops the visited lines at once; CLEAN and CLEAN_INVAL act when the queued
writes of the visited lines have WbAck. -/
def Chip.dvMaintStart (c : Chip) (d op : Nat) (pos : MaintPos) : Chip :=
  let c := c.modDrover d fun x => { x with maint := some { op := op, pos := pos } }
  if op = 2 then c.modDrover d fun x => { x with cache := x.cache.filter fun e => !visits pos e.1 16 } else c

/-- The maintenance operation ends (R175, R352). -/
def Chip.dvMaintDone (c : Chip) (d : Nat) : Chip :=
  match (c.drover d).maint with
  | none => c
  | some m =>
    let lines := ((c.drover d).cache.filter fun e => visits m.pos e.1 16).map fun e => e.2.line
    if m.op ≠ 2 ∧ ((c.drover d).wq.any fun e => lines.contains e.line) = true then c
    else c.modDrover d fun x =>
      { x with maint := none, cache := if m.op = 3 then x.cache.filter fun e => !visits m.pos e.1 16 else x.cache }

end Sys2Proof.Machine
end

