-- ==== Sys2Proof/Machine/Inst.lean ====
section
/-! DEFINITION. Virtual instances: assignment, commands, instance reset, Bus Master Enable, freeze, save, restore and dirty
tracking (R391-R416). -/

namespace Sys2Proof.Machine

/-! Kinds and ranges (R393). -/

/-- Pool of a KIND (R393); an E0 member has no flow-table block. -/
def Chip.poolSize (c : Chip) (kind : Nat) : Nat :=
  match kind with
  | 0 => if c.fuse.eth = 0 then 0 else 8192
  | 1 => if c.fuse.eth = 0 then 0 else 8192
  | 2 => 256 | 3 => 256 | 4 => 64 | 5 => 64 | 6 => 32 | 7 => 32
  | 8 => 2048 | 9 => 4096 | _ => 0

/-- An IID that R391 defines for the current role. -/
def Chip.iidDefined (c : Chip) (iid : Nat) : Bool :=
  decide (iid = 0) || (decide (iid = 1) && c.endpoint) || (decide (0x100 ≤ iid) && decide (iid < 0x200))
    || (decide (0x1000 ≤ iid) && decide (iid < 0x2000))

/-- The function whose Bus Master Enable covers an instance (R405). -/
def Chip.coverFunc (c : Chip) (iid : Nat) : Nat := c.vecFunc iid

/-- Bank of IM_RBASE and IM_RCOUNT of an instance and a KIND, and of IM_RLCFG and IM_RLBIND of a limiter. -/
def imRangeBank (iid kind : Nat) : Nat := 2 ^ 17 + 16 * iid + kind
def imLimiterBank (l : Nat) : Nat := 2 ^ 18 + l

/-- The shadow range of a KIND. -/
def Chip.shadowRange (c : Chip) (iid kind : Nat) : Nat × Nat :=
  ((c.reg uIm (imRangeBank iid kind) 0x1054).toNat, (c.reg uIm (imRangeBank iid kind) 0x1058).toNat)

def rangesDisjoint (a b : Nat × Nat) : Bool := decide (a.2 = 0) || decide (b.2 = 0) || decide (a.1 + a.2 ≤ b.1) || decide (b.1 + b.2 ≤ a.1)

/-! Rings of an instance. -/

/-- The ring of a key. -/
def ringOfKey (k : Nat) : RingId :=
  let n := k % 2 ^ 16
  match k / 2 ^ 16 with
  | 0 => .rx n | 1 => .tx n | 2 => .sh (n / 2 ^ 12) (n % 2 ^ 12) | 3 => .dv (n / 2 ^ 12) (n % 2 ^ 12) | _ => .adm n

/-- Rings of an instance that have left their reset state. -/
def Chip.ringsOf (c : Chip) (iid : Nat) : List RingId :=
  (c.rings.map fun e => ringOfKey e.1).filter fun r => c.ringOwner r = iid

/-- The register that a key names is a ring register, an admin-ring register or a rate limiter's: the ring or limiter. -/
def regRing (k : Nat) : Option (RingId ⊕ Nat) :=
  let u := k / 2 ^ 48
  let b := k / 2 ^ 28 % 2 ^ 20
  let off := k % 2 ^ 28
  if u = uIm then
    (if 0x1088 ≤ off ∧ off ≤ 0x109C then some (.inl (.adm b))
     else if (off = 0x1080 ∨ off = 0x1084) ∧ 2 ^ 18 ≤ b then some (.inr (b - 2 ^ 18)) else none)
  else match kindOf u with
    | .flowTable => if 0x1098 ≤ off ∧ off ≤ 0x10BC then some (.inl (if b < 8192 then .rx b else .tx (b - 8192))) else none
    | .shears => if 0x1054 ≤ off ∧ off ≤ 0x1074 then some (.inl (.sh (u - 23) b)) else none
    | .droverCluster => if 0x1060 ≤ off ∧ off ≤ 0x1080 then some (.inl (.dv (u - 25) b)) else none
    | _ => none

/-- The register belongs to an instance's rings or limiters. -/
def Chip.regOwned (c : Chip) (iid k : Nat) : Bool :=
  match regRing k with
  | some (.inl r) => decide (c.ringOwner r = iid)
  | some (.inr l) => decide (c.ownerOf 9 l = iid)
  | none => false

/-- Drover cores of an instance. -/
def Chip.dvCoresOf (c : Chip) (iid : Nat) : List (Nat × Nat) :=
  ([0, 1].flatMap fun d => (List.range 32).map fun k => (d, k)).filter fun e => c.ownerOf (6 + e.1) e.2 = iid

/-- A lane runs work of an instance. -/
def Chip.laneBusyFor (c : Chip) (iid : Nat) : Bool :=
  [0, 1].any fun e => (List.range 16).any fun l => match ((c.engine e).lane l).job with
    | some (r, _) => decide (c.ringOwner (.sh e r) = iid)
    | none => false

/-! Instance reset (R403, R404). -/

/-- The command in progress on an instance ends with a RESULT. -/
def Chip.imEnd (c : Chip) (iid op result : Nat) : Chip :=
  if c.imBusy = some (iid, op) then { c with imBusy := none, imResult := result } else c

/-- Instance reset begins: RESETTING, the purge of its flow entries, held frames dropped, drover cores stopped. A command in
progress on the instance ends PREEMPTED. `gone` marks a DESTROY. -/
def Chip.instReset (c : Chip) (iid : Nat) (gone : Bool := false) : Chip :=
  let x := c.inst iid
  if x.st = .absent ∨ x.st = .resetting then c
  else
    let c := c.imEnd iid 4 8
    let c := c.modInst iid fun y => { y with st := .resetting, gone := gone, back := if x.st = .stopped then .stopped else .active }
    let c := { c with flow := c.flow.purge iid }
    let qs := ((c.eths.flatMap fun e => e.2.held.map (·.q)).dedup).filter fun q => c.ownerOf 0 q = iid
    let c := qs.foldl (fun (c : Chip) q => c.dropHeld q) c
    (c.dvCoresOf iid).foldl (fun (c : Chip) e => if (c.dvCore e.1 e.2).run then c.dvStop e.1 e.2 else c) c

/-- Every descriptor of a ring that was fetched and not completed is aborted, with no interrupt (R404, step 7). -/
def Chip.abortRing (c : Chip) (r : RingId) : Chip :=
  c.modRing r fun x => { x with descs := x.descs.map fun (d : Desc) =>
    if d.fin.isNone then { d with fin := some 0x09, irq := false } else d }

/-- Registers, memories and structures of an instance at their reset values (R404, step 9). -/
def Chip.instClear (c : Chip) (iid : Nat) : Chip :=
  let n : Ctl := { c.ctl with regs := c.ctl.regs.filter (fun e => !c.regOwned iid e.1), faulted := c.ctl.faulted.filter (fun k => !c.regOwned iid k) }
  let rings := c.rings.filter fun e => !decide (c.ringOwner (ringOfKey e.1) = iid)
  let limiters := c.limiters.filter fun e => !decide (c.ownerOf 9 e.1 = iid)
  let cores := c.dvCoresOf iid
  let vec := (c.inst iid).range 8
  let inVec (v : Nat) : Bool := iid < 0x1000 || (decide (vec.1 ≤ v) && decide (v < vec.1 + vec.2))
  let order := c.flow.order.filter fun e => e.1 ≠ iid
  let c := { c with ctl := n, rings := rings, limiters := limiters, flow := { c.flow with order := order },
                    ctxs := c.ctxs.filter fun x => x.iid ≠ iid }
  let c := cores.foldl (fun (c : Chip) e => c.modDvCore e.1 e.2 fun k => { k with imem := [], ldm := [] }) c
  let c := c.modFunc (c.vecFunc iid) fun f =>
    { f with table := f.table.filter (fun e => !inVec e.1), pba := f.pba.filter fun v => !inVec v }
  if iid < 0x1000 then c.modFunc iid fun f => { f with msixEn := false, fmask := false } else c

/-- INSTANCE_RESET_DONE (R404, steps 7-9): once no lane runs its work, the records are written, unless it was STOPPED, and
it becomes ACTIVE, ABSENT or, with Bus Master Enable 0, STOPPED. -/
def Chip.instResetDone (c : Chip) (iid : Nat) : Chip :=
  let x := c.inst iid
  if x.st ≠ .resetting ∨ c.laneBusyFor iid = true then c
  else
    let rs := c.ringsOf iid
    let c := if x.back = .stopped then c
      else rs.foldl (fun (c : Chip) r => (c.abortRing r).writeRecords r) c
    let c := c.instClear iid
    let c := if x.gone then { c with insts := Sparse.del c.insts iid }
      else c.modInst iid fun y => { y with st := if (c.func (c.coverFunc iid)).bme then .active else .stopped, back := .active, gone := false, dirty := none }
    (c.imEnd iid 2 0).imEnd iid 3 0

/-- SHEARS_STOP_CUT (R404, step 6). -/
def Chip.shearsCut (c : Chip) (iid : Nat) : Chip := if (c.inst iid).st = .resetting then c.stopCut iid 0x09 else c

/-- Instances that a reset of a function covers (R403). -/
def Chip.resetCover (c : Chip) (f : Nat) : List Nat :=
  (c.insts.map (·.1)).filter fun i =>
    decide (i = f) || (decide (f = 0) && decide (0x100 ≤ i) && decide (i < 0x200))
      || (decide (0x1000 ≤ i) && decide (c.parentInst i = f))

/-- FLR of a function (R403). -/
def Chip.flr (c : Chip) (f : Nat) : Chip := (c.resetCover f).foldl (fun (c : Chip) i => c.instReset i) c

/-- VF Enable from 1 to 0 (R403). -/
def Chip.vfClear (c : Chip) : Chip :=
  (((c.insts.map (·.1)).filter fun i => 0x100 ≤ i ∧ i < 0x200).foldl (fun (c : Chip) i => c.instReset i) { c with vfEnable := false })

/-! Bus Master Enable (R405). -/

/-- Instances that the Bus Master Enable of a function covers. -/
def Chip.bmeCover (c : Chip) (f : Nat) : List Nat := (c.insts.map (·.1)).filter fun i => c.coverFunc i = f

/-- A ring of a stopped instance: every fetched descriptor leaves it, and its record is held. -/
def Chip.holdRing (c : Chip) (r : RingId) : Chip :=
  let x := c.ring r
  let recs := x.descs.filterMap fun (d : Desc) => match d.fin with
    | some s => if s = 0 ∧ d.cmpl = false then none else some (d.record s)
    | none => some { d.record 0x09 with irq := false }
  let c := x.descs.foldl (fun (c : Chip) d => c.countDone r (d.fin.getD 0x09)) c
  c.modRing r fun x => { x with descs := [], held := x.held ++ recs }

/-- An instance enters STOPPED (R405, steps 1-5). -/
def Chip.instStop (c : Chip) (iid : Nat) : Chip :=
  let x := c.inst iid
  if x.st = .active ∨ x.st = .freezing ∨ x.st = .frozen then
    let c := c.modInst iid fun y => { y with st := .stopped, back := if x.st = .active then .active else .frozen }
    let c := c.stopCut iid 0x09
    let c := (c.dvCoresOf iid).foldl (fun (c : Chip) e => if (c.dvCore e.1 e.2).run then c.dvStop e.1 e.2 else c) c
    let c := { c with flow := { c.flow with order := c.flow.order.filter fun e => e.1 ≠ iid } }
    (c.ringsOf iid).foldl (fun (c : Chip) r => c.holdRing r) c
  else c

/-- BUS_MASTER_DISABLE. -/
def Chip.bmeOff (c : Chip) (f : Nat) : Chip :=
  if (c.func f).bme then (c.bmeCover f).foldl (fun (c : Chip) i => c.instStop i) (c.modFunc f fun x => { x with bme := false }) else c

/-- An instance leaves STOPPED: held records with a free slot are written, pending vectors are sent (log 36). -/
def Chip.instResume (c : Chip) (iid : Nat) : Chip :=
  let x := c.inst iid
  if x.st ≠ .stopped then c
  else
    let c := (c.modInst iid fun y => { y with st := x.back, back := .active })
    let c := (c.ringsOf iid).foldl (fun (c : Chip) r => c.writeHeld r (c.ring r).held.length) c
    let f := c.vecFunc iid
    let r := x.range 8
    let c := ((c.func f).pba.filter fun v => iid < 0x1000 ∨ (r.1 ≤ v ∧ v < r.1 + r.2)).foldl (fun (c : Chip) v => c.msixFlush f v) c
    if x.back = .frozen then c.imEnd iid 4 0 else c

/-- BUS_MASTER_ENABLE. -/
def Chip.bmeOn (c : Chip) (f : Nat) : Chip :=
  if (c.func f).bme then c else (c.bmeCover f).foldl (fun (c : Chip) i => c.instResume i) (c.modFunc f fun x => { x with bme := true })

/-! Commands (R394, R397, R400-R402). -/

/-- Checks of CREATE, CONFLICT before LIMIT: its RESULT. -/
def Chip.createCheck (c : Chip) (iid : Nat) : Nat :=
  let rs := (List.range 10).map fun k => (k, c.shadowRange iid k)
  let others := c.insts.filter fun e => decide (e.1 ≠ 0) && decide (e.2.st ≠ .absent)
  let conflict := rs.any fun e =>
    let k := e.1
    let r := e.2
    if r.2 = 0 then false
    else if k = 8 then
      if 0x100 ≤ iid ∧ iid < 0x200 then decide (r.1 ≠ 0)
      else decide (2048 < r.1 + r.2) || others.any fun o => decide (c.vecFunc o.1 = c.vecFunc iid) && !rangesDisjoint r (o.2.range 8)
    else decide (c.poolSize k < r.1 + r.2) || others.any fun o => !rangesDisjoint r (o.2.range k)
  let slots := ((List.range 6).map fun k => (c.shadowRange iid k).2).sum
  let quota := (c.reg uIm iid 0x105C).toNat
  let limit := (decide (iid ≠ 1) && decide (255 < slots))
    || (decide (0x100 ≤ iid) && decide (iid < 0x200) && decide (64 < (c.shadowRange iid 8).2))
    || decide (2 ^ 20 < quota + (others.map fun o => o.2.quota).sum)
  if conflict then 2 else if limit then 3 else 0

/-- CREATE (R394, R401): the shadow resources leave PF0's pool. -/
def Chip.instCreate (c : Chip) (iid : Nat) : Nat × Chip :=
  match c.createCheck iid with
  | 0 =>
    let x : Inst := {
      st := .active
      ranges := (List.range 10).filterMap fun k => if (c.shadowRange iid k).2 = 0 then none else some (k, c.shadowRange iid k)
      quota := (c.reg uIm iid 0x105C).toNat
      pasid := (c.reg uIm iid 0x104C).toNat }
    (0, { c with insts := Sparse.put c.insts iid x })
  | r => (r, c)

/-- A ring as FREEZE leaves it: descriptors fetched and not started are returned (R408, step 3). -/
def Ring.freeze (x : Ring) : Ring :=
  match x.descs.find? Desc.idle with
  | none => x
  | some d => { x with ci := d.idx, descs := x.descs.takeWhile fun e => !e.idle }

/-- FREEZE (R408). -/
def Chip.instFreeze (c : Chip) (iid : Nat) : Chip :=
  let c := c.modInst iid fun y => { y with st := .freezing }
  let c := { c with flow := { c.flow with order := c.flow.order.filter fun e => e.1 ≠ iid } }
  let c := (c.ringsOf iid).foldl (fun (c : Chip) r => c.modRing r Ring.freeze) c
  (c.dvCoresOf iid).foldl (fun (c : Chip) e => c.modDvCore e.1 e.2 fun k =>
    { k with inbox := k.inbox.filter fun i => (c.ring (.dv e.1 i.1)).descs.any fun d => d.idx = i.2 }) c

/-- FROZEN (R408, step 5): nothing of the instance is in progress but descriptors that drover cores have taken. -/
def Chip.instFrozen (c : Chip) (iid : Nat) : Chip :=
  if (c.inst iid).st = .freezing ∧ c.laneBusyFor iid = false
      ∧ ((c.ringsOf iid).all fun r => (c.ring r).descs.all fun d => d.taken && d.fin.isNone) = true
      ∧ ((c.dvCoresOf iid).all fun e => (c.dvCore e.1 e.2).miss.isNone && c.dvQuiet e.1 e.2) = true then
    (c.modInst iid fun y => { y with st := .frozen }).imEnd iid 4 0
  else c

/-! The state blob (R409-R411). -/

/-- KIND of the header. -/
def blobKind (iid : Nat) : Nat := if iid = 1 then 1 else if iid < 0x1000 then 2 else 3

def zeros (n : Nat) : List Byte := List.replicate n 0

/-- Rings that an instance holds, in slot order, with ring kind and local number. -/
def Inst.allRings (x : Inst) (iid : Nat) : List (Nat × Nat × RingId) :=
  ([0, 1, 2, 3, 4, 5].flatMap fun k => (List.range (x.range k).2).map fun n => (k, n, slotRing k ((x.range k).1 + n)))
    ++ (if 0 < x.quota then [(6, 0, .adm iid)] else [])

/-- A RING record. -/
def Chip.ringRecord (c : Chip) (iid : Nat) (e : Nat × Nat × RingId) : List Byte :=
  let (k, n, r) := e
  let x := c.inst iid
  let g := ringRegs r
  let y := c.ring r
  let ctl := (c.reg g.unit g.bank g.ctl)
  let ctl := if k = 4 ∨ k = 5 then setFld ctl 20 16 (fld ctl 20 16 - (x.range (2 + k)).1) else ctl
  [BitVec.ofNat 8 k, BitVec.ofNat 8 (bit y.en)] ++ leBytes n 2 ++ leBytes ctl.toNat 4 ++ leBytes (c.ringBase r) 8
    ++ leBytes (c.cringBase r) 8 ++ leBytes y.acc 4 ++ leBytes y.ci 4 ++ leBytes y.wi 4 ++ leBytes y.head 4
    ++ [BitVec.ofNat 8 (1 - y.wi / c.cringSize r % 2)] ++ leBytes (c.ringVector r - (x.range 8).1) 2 ++ zeros 1
    ++ leBytes (if k = 0 then (c.reg uFlow g.bank 0x10B0).toNat
                else if k = 4 ∨ k = 5 then (y.descs.filter fun d => d.taken).length else 0) 4
    ++ zeros 16

/-- A LIMITER record. -/
def Chip.limiterRecord (c : Chip) (iid l : Nat) : List Byte :=
  let b := c.reg uIm (imLimiterBank l) 0x1084
  leBytes (c.reg uIm (imLimiterBank l) 0x1080).toNat 4
    ++ leBytes (if fld b 16 16 = 1 then fld b 12 0 - ((c.inst iid).range 1).1 else 0) 2 ++ [BitVec.ofNat 8 (fld b 16 16)] ++ zeros 9

/-- The 64-byte flow record of an entry, QUEUE local (R276, R410). -/
def Chip.flowRecord (c : Chip) (iid : Nat) (e : FlowEnt) : List Byte :=
  let s := Sparse.at c.flow.slots ⟨false, 0, 0, 0⟩ e.src
  let d := Sparse.at c.flow.slots ⟨false, 0, 0, 0⟩ e.dst
  let be (v n : Nat) : List Byte := (leBytes v n).reverse
  be s.addr.toNat 16 ++ be d.addr.toNat 16 ++ be e.sport 2 ++ be e.dport 2 ++ [if e.udp then 17 else 6, if s.fam6 then 6 else 4]
    ++ be s.vni 3 ++ zeros 3 ++ leBytes (actionQueue e.action (e.action / 4 % 8192 - ((c.inst iid).range 0).1)) 4 ++ zeros 16

/-- Drover cores of an instance in local order, DV0 before DV1 (log 35). -/
def Inst.blobCores (x : Inst) : List (Nat × Nat) :=
  [0, 1].flatMap fun d => (List.range (x.range (6 + d)).2).map fun k => (d, (x.range (6 + d)).1 + k)

/-- A DROVER_CORE record. -/
def Chip.coreRecord (c : Chip) (n : Nat) (e : Nat × Nat) : List Byte :=
  let k := c.dvCore e.1 e.2
  leBytes n 2 ++ leBytes k.cause 2 ++ leBytes k.pc 4 ++ ((List.range 31).flatMap fun i => leBytes (k.getX (i + 1)) 4)
    ++ k.ldm.read 0 8192 ++ k.imem.read 0 16384

/-- A section: its header and its records of one size; none without records (log 35). -/
def section_ (type size : Nat) (recs : List (List Byte)) : List (List Byte) :=
  if recs.isEmpty then [] else [leBytes type 4 ++ leBytes recs.length 4 ++ leBytes size 4 ++ zeros 4 ++ recs.flatten]

/-- Sections of an instance's blob (R410). -/
def Chip.blobSections (c : Chip) (iid : Nat) : List (List Byte) :=
  let x := c.inst iid
  let f := c.func iid
  let nv := (x.range 8).2
  section_ 1 64 ((x.allRings iid).map fun e => c.ringRecord iid e)
    ++ section_ 2 16 ((List.range (x.range 9).2).map fun n => c.limiterRecord iid ((x.range 9).1 + n))
    ++ section_ 3 64 ((c.flow.ents.filter fun e => e.2.owner = iid).map fun e => c.flowRecord iid e.2)
    ++ section_ 4 24708 (x.blobCores.zipIdx.map fun e => c.coreRecord e.2 e.1)
    ++ (if blobKind iid = 2 then section_ 5 (16 * nv + 8)
          [((List.range nv).flatMap fun v =>
              let e := Sparse.at f.table {} v
              leBytes e.addr.toNat 8 ++ leBytes e.data.toNat 4 ++ leBytes (bit e.mask) 4)
            ++ leBytes ((List.range nv).map fun v => bit (f.pba.contains v) * 2 ^ v).sum 8]
        else [])

/-- The blob's header with a CRC. -/
def blobHeader (x : Inst) (iid size nsec crc : Nat) : List Byte :=
  leBytes 0x42534D41 4 ++ leBytes 1 2 ++ [BitVec.ofNat 8 (blobKind iid), 0] ++ leBytes size 4 ++ leBytes crc 4 ++ leBytes nsec 2 ++ zeros 2
    ++ ((List.range 10).flatMap fun k => leBytes (x.range k).2 2) ++ leBytes x.quota 4 ++ zeros 20

/-- The blob: header and sections. -/
def Chip.blob (c : Chip) (iid : Nat) : List Byte × List Byte :=
  let secs := c.blobSections iid
  let body := secs.flatten
  let h0 := blobHeader (c.inst iid) iid (64 + body.length) secs.length 0
  (blobHeader (c.inst iid) iid (64 + body.length) secs.length (crcOf polyC 0 (h0 ++ body)), body)

/-- IM_BLOB_SIZE (R415). -/
def Chip.blobSize (c : Chip) (iid : Nat) : Nat := if (c.inst iid).st = .frozen then 64 + (c.blobSections iid).flatten.length else 0

def Chip.imBuf (c : Chip) : Nat := (c.reg uIm 0 0x1060).toNat + 2 ^ 32 * (c.reg uIm 0 0x1064).toNat
def Chip.imBufLen (c : Chip) : Nat := 4096 * (c.reg uIm 0 0x1068).toNat

/-- SAVE (R409): the header is written last. -/
def Chip.instSave (c : Chip) (iid : Nat) : Nat × Chip :=
  let (h, body) := c.blob iid
  if c.imBufLen < 64 + body.length then (4, c)
  else match c.instWrite 0 (c.imBuf + 64) body with
    | (false, c) => (7, c)
    | (true, c) => match c.instWrite 0 c.imBuf h with
      | (false, c) => (7, c)
      | (true, c) => (0, c)

/-- Sections of a blob as TYPE and records; none when the layout is invalid. -/
def blobParse : Nat → List Byte → Option (List (Nat × List (List Byte)))
  | 0, bs => if bs.isEmpty then some [] else none
  | n + 1, bs =>
    let ty := bsNat bs 0 4
    let cnt := bsNat bs 4 4
    let sz := bsNat bs 8 4
    let okSize := match ty with | 1 => decide (sz = 64) | 2 => decide (sz = 16) | 3 => decide (sz = 64) | 4 => decide (sz = 24708) | 5 => decide (sz % 16 = 8) | _ => false
    if bs.length < 16 ∨ okSize = false ∨ bsNat bs 12 4 ≠ 0 ∨ bs.length < 16 + cnt * sz then none
    else (blobParse n (bs.drop (16 + cnt * sz))).map fun t =>
      (ty, (List.range cnt).map fun i => (bs.drop (16 + i * sz)).take sz) :: t

/-- A RING record loaded: registers, indices and, for drover rings, the descriptors that its core has taken, whose headers
the blob does not hold (log 35). -/
def Chip.loadRing (c : Chip) (iid : Nat) (bs : List Byte) : Chip :=
  let x := c.inst iid
  let k := bsNat bs 0 1
  let n := bsNat bs 2 2
  let r := if k = 6 then .adm iid else slotRing k ((x.range k).1 + n)
  if k ≠ 6 ∧ (6 < k ∨ (x.range k).2 ≤ n) then c
  else
    let g := ringRegs r
    let ctl : Word := BitVec.ofNat 32 (bsNat bs 4 4)
    let ctl := if k = 4 ∨ k = 5 then setFld ctl 20 16 (fld ctl 20 16 + (x.range (2 + k)).1) else ctl
    let c := c.setReg g.unit g.bank g.ctl ctl
    let c := ([(g.base, 8), (g.base + 4, 12), (g.cbase, 16), (g.cbase + 4, 20)] : List (Nat × Nat)).foldl
      (fun (c : Chip) e => c.setReg g.unit g.bank e.1 (BitVec.ofNat 32 (bsNat bs e.2 4))) c
    let c := c.setRegFld g.unit g.bank g.vec (g.vlo + 10) g.vlo (bsNat bs 41 2 + (x.range 8).1)
    let c := if k = 0 then c.setReg uFlow g.bank 0x10B0 (BitVec.ofNat 32 (bsNat bs 44 4)) else c
    let ci := bsNat bs 28 4
    let taken := if k = 4 ∨ k = 5 then min 65535 (bsNat bs 44 4) else 0
    let descs : List Desc := (List.range taken).map fun i =>
      { idx := (ci + 2 ^ 32 - taken + i) % 2 ^ 32, bytes := [], cmpl := true, irq := (Config.fresh (c.fresh + i)).getLsbD 0, taken := true }
    let c := { c with fresh := c.fresh + taken }
    c.modRing r fun _ =>
      { en := bsNat bs 1 1 = 1, quiesced := bsNat bs 1 1 = 0, acc := bsNat bs 24 4, ci := ci, wi := bsNat bs 32 4, head := bsNat bs 36 4, descs := descs }

/-- A LIMITER record loaded into the limiter of a local number. -/
def Chip.loadLimiter (c : Chip) (iid n : Nat) (bs : List Byte) : Chip :=
  let x := c.inst iid
  let b := imLimiterBank ((x.range 9).1 + n)
  let v := bsNat bs 6 1 % 2
  (c.setReg uIm b 0x1080 (BitVec.ofNat 32 (bsNat bs 0 4))).setReg uIm b 0x1084
    (BitVec.ofNat 32 (if v = 1 then bsNat bs 4 2 + (x.range 1).1 + 2 ^ 16 else 0))

/-- A FLOW record inserted by R277; none when it fails. -/
def Chip.loadFlow (c : Chip) (iid : Nat) (bs : List Byte) : Option Chip :=
  match flowRec bs false with
  | none => none
  | some x => match c.queueGlobal iid (x.action / 4 % 8192) with
    | none => none
    | some q =>
      match c.flowInsert iid x.v6 x.src x.dst x.vni x.udp x.sport x.dport (actionQueue x.action q) with
      | ((0, _), c) => some c
      | _ => none

/-- A DROVER_CORE record loaded; the core resumes at its PC after UNFREEZE (R411, step 4). -/
def Chip.loadCore (c : Chip) (iid : Nat) (bs : List Byte) : Chip :=
  match (c.inst iid).blobCores[bsNat bs 0 2]? with
  | none => c
  | some (d, k) =>
    c.modDvCore d k fun _ =>
      { run := true, halted := bsNat bs 2 2 ≠ 0, cause := bsNat bs 2 2, pc := bsNat bs 4 4,
        x := (List.range 31).foldl (fun (m : Sparse Word) i => Sparse.put m (i + 1) (BitVec.ofNat 32 (bsNat bs (8 + 4 * i) 4))) [],
        ldm := Memory.write [] 0 ((bs.drop 132).take 8192), imem := Memory.write [] 0 ((bs.drop 8324).take 16384),
        now := (c.drover d).t }

/-- The MSIX record loaded. -/
def Chip.loadMsix (c : Chip) (iid : Nat) (bs : List Byte) : Chip :=
  let nv := (bs.length - 8) / 16
  let pend := bsNat bs (16 * nv) 8
  c.modFunc iid fun f =>
    { f with
      table := (List.range nv).foldl (fun (t : Sparse MsixEnt) v => Sparse.put t v
        { addr := BitVec.ofNat 64 (bsNat bs (16 * v) 8), data := BitVec.ofNat 32 (bsNat bs (16 * v + 8) 4), mask := bsNat bs (16 * v + 12) 4 % 2 = 1 }) f.table
      pba := (List.range nv).filter fun v => pend / 2 ^ v % 2 = 1 }

/-- RESTORE (R411). -/
def Chip.instRestore (c : Chip) (iid : Nat) : Nat × Chip :=
  let x := c.inst iid
  match c.instRead 0 c.imBuf 64 with
  | (.fault, c) => (7, c)
  | (.timeout, c) => (7, c)
  | (.ok h p, c) =>
    let size := bsNat h 8 4
    if p then (7, c)
    else if bsNat h 0 4 ≠ 0x42534D41 ∨ bsNat h 4 2 ≠ 1 ∨ size < 64 ∨ c.imBufLen < size then (5, c)
    else match c.instRead 0 (c.imBuf + 64) (size - 64) with
      | (.fault, c) => (7, c)
      | (.timeout, c) => (7, c)
      | (.ok body p, c) =>
        if p then (7, c)
        else if bsNat h 12 4 ≠ crcOf polyC 0 (h.take 12 ++ zeros 4 ++ h.drop 16 ++ body) then (5, c)
        else match blobParse (bsNat h 16 2) body with
          | none => (5, c)
          | some secs =>
            if bsNat h 6 1 ≠ blobKind iid ∨ ((List.range 10).any fun k => decide (bsNat h (20 + 2 * k) 2 ≠ (x.range k).2)) = true
                ∨ bsNat h 40 4 ≠ x.quota then (6, c)
            else
              let recs (t : Nat) : List (List Byte) := (secs.filter fun s => s.1 = t).flatMap (·.2)
              let c := (recs 1).foldl (fun (c : Chip) b => c.loadRing iid b) c
              let c := (recs 2).zipIdx.foldl (fun (c : Chip) e => c.loadLimiter iid e.2 e.1) c
              let c := { c with flow := c.flow.purge iid }
              let got := (recs 3).foldl (fun (s : Bool × Chip) b =>
                if s.1 then (match s.2.loadFlow iid b with | some c => (true, c) | none => (false, s.2)) else s) (true, c)
              if got.1 = false then
                let c := { got.2 with flow := got.2.flow.purge iid }
                (3, { c with rings := c.rings.filter fun e => !decide (c.ringOwner (ringOfKey e.1) = iid) })
              else
                let c := (recs 4).foldl (fun (c : Chip) b => c.loadCore iid b) got.2
                (0, if blobKind iid = 2 then (recs 5).foldl (fun (c : Chip) b => c.loadMsix iid b) c else c)

/-! Dirty tracking (R412, R413). -/

/-- DIRTY_START and DIRTY_SWAP: the bitmap is the one in IM_BUF. -/
def Chip.dirtyInto (c : Chip) (iid base pages : Nat) : Nat × Chip :=
  if c.imBufLen < (pages + 7) / 8 then (4, c)
  else (0, c.modInst iid fun x => { x with dirty := some { buf := c.imBuf, base := base, pages := pages } })

/-- A command issued by a write of IM_CMD with START (R401): its OP on the selected instance. -/
def Chip.imCommand (c : Chip) (iid op : Nat) : Chip :=
  let x := c.inst iid
  let ends (r : Nat × Chip) : Chip := { r.2 with imResult := r.1, imBusy := none }
  let bad : Chip := { c with imResult := 1 }
  if iid = 0 then bad
  else match op with
    | 1 => if x.st = .absent then ends (c.instCreate iid) else bad
    | 2 => if x.st = .active ∨ x.st = .frozen ∨ x.st = .stopped then { c with imBusy := some (iid, 2) }.instReset iid true else bad
    | 3 => if x.st = .active ∨ x.st = .frozen ∨ x.st = .stopped then { c with imBusy := some (iid, 3) }.instReset iid false else bad
    | 4 => if x.st = .active then { c with imBusy := some (iid, 4) }.instFreeze iid else bad
    | 5 => if x.st = .frozen then ends (c.instSave iid) else bad
    | 6 => if x.st = .frozen then ends (c.instRestore iid) else bad
    | 7 => if x.st = .frozen then ends (0, c.modInst iid fun y => { y with st := .active }) else bad
    | 8 =>
      if x.st = .active ∨ x.st = .freezing ∨ x.st = .frozen then
        ends (c.dirtyInto iid ((c.reg uIm 0 0x1070).toNat + 2 ^ 32 * (c.reg uIm 0 0x1074).toNat) (c.reg uIm 0 0x1078).toNat)
      else bad
    | 9 => match x.dirty with
      | some d => ends (c.dirtyInto iid d.base d.pages)
      | none => bad
    | 10 => if x.dirty.isSome then ends (0, c.modInst iid fun y => { y with dirty := none }) else bad
    | _ => bad

/-- PX0 in the ENDPOINT role goes down or is reset: every function on PX0 is reset as by FLR (R374). -/
def Chip.endpointReset (c : Chip) : Chip := if c.endpoint then (c.linkDown 0 0).flr 0 else c

/-- A sub-link that is up goes down: of a root port, or PX0's in the ENDPOINT role (R374). -/
def Chip.subLinkDown (c : Chip) (p s : Nat) : Chip :=
  if p = 0 ∧ c.endpoint = true then (if s = 0 ∧ ((c.px 0).subAt 0).up = true then c.endpointReset else c) else c.linkDown p s

end Sys2Proof.Machine
end

