-- ==== Sys2Proof/Machine/Ramp.lean ====
section
/-! DEFINITION. Operating points, ceilings, stretches and current ramps (R475-R485, R487, R500). -/

namespace Sys2Proof.Machine

/-- OPP encodings in falling order of frequency (R480). -/
def oppLadder : List Nat := [5, 4, 3, 2, 1, 0, 6, 7, 8, 9, 10, 11]
/-- Steps of an OPP below 3.6 GHz. -/
def oppRank (opp : Nat) : Nat := (oppLadder.findIdx? (· = opp)).getD 5
def oppAt (rank : Nat) : Nat := oppLadder.getD rank 11
/-- Rank of 2.0 GHz, the hardware clamp (R485). -/
def clampRank : Nat := 8

/-- A fold holds a core in Run, in the WFI stall, or waking from Rest (R481). -/
def Chip.foldActive (c : Chip) (f : Nat) : Bool :=
  c.cores.any fun e => decide (foldOfCore e.1 = f) && (decide (e.2.power = .run) || decide (e.2.power = .waking))

/-- N of R481. -/
def Chip.activeFolds (c : Chip) : Nat := ((List.range 20).filter c.foldActive).length

/-- The active-fold ceiling as a rank (R481). -/
def activeRank (n : Nat) : Nat := if n ≤ 1 then 0 else if n ≤ 3 then 1 else if n ≤ 6 then 2 else if n ≤ 10 then 3 else if n ≤ 15 then 4 else 5

def paddockOfFold (f : Nat) : Nat := f / 5

def Chip.thermalRank (c : Chip) (f : Nat) : Nat := Sparse.at c.pwr.thermal 0 (paddockOfFold f)
/-- The hardware clamp applies to a fold (R485). -/
def Chip.clamped (c : Chip) (f : Nat) : Bool := c.pwr.prochot || c.pwr.clampT.contains (paddockOfFold f)

/-- Granted rank of a fold and the limit that set it (R481, R498): the request where it is the lowest. -/
def Chip.grantOf (c : Chip) (f : Nat) : Nat × Nat :=
  let req := oppRank (c.unit (uFold f)).opp
  let l : List (Nat × Nat) := [(req, 0), (activeRank c.activeFolds, 1), (c.thermalRank f, 2), (c.pwr.plimit, 3),
    ((if c.clamped f then clampRank else 0), 4)]
  l.foldl (fun a b => if a.1 < b.1 then b else a) (req, 0)

def pwrFold (f : Nat) : Nat := 0x6040 + 4 * f
/-- Rank that a fold runs at: PWR_FOLDn.GRANT. -/
def Chip.runRank (c : Chip) (f : Nat) : Nat := oppRank (c.regFld 0 0 (pwrFold f) 3 0)

def Chip.stretchOf (c : Chip) (f : Nat) : StretchSt := Sparse.at c.pwr.stretch {} f
def StretchSt.any (x : StretchSt) : Bool := x.droop || x.wake || x.clamp

/-- A fold's stretch state changed; PWR_FOLDn.STRETCH, the count and the mc spent stretched follow (R498, R500; 22 mc per
tick of mtime). -/
def Chip.setStretch (c : Chip) (f : Nat) (g : StretchSt → StretchSt) : Chip :=
  let o := c.stretchOf f
  let n := g o
  let n := if n.any && !o.any then { n with since := c.mtime, count := o.count + 1 }
    else if !n.any && o.any then { n with mc := o.mc + 22 * (c.mtime - o.since).toNat } else n
  ({ c with pwr := { c.pwr with stretch := Sparse.put c.pwr.stretch f n } }).setRegFld 0 0 (pwrFold f) 8 8 (bit n.any)

/-- R482: every fold above the active-fold ceiling is stretched until its PLL has switched. -/
def Chip.wakeStretch (c : Chip) : Chip :=
  let top := activeRank c.activeFolds
  (List.range 20).foldl (fun (c : Chip) f =>
    if c.runRank f < top then c.setStretch f fun s => { s with wake := true } else c) c

/-- The rail voltage of a paddock: the highest that any of its folds needs at its granted OPP (R481). -/
def Chip.setVcore (c : Chip) (p : Nat) : Chip :=
  let best := ((List.range 5).map fun k => c.runRank (5 * p + k)).foldl min 11
  { c with pwr := { c.pwr with vcore := Sparse.put c.pwr.vcore p (oppAt best) } }

/-- A fold moved to its granted OPP: PWR_FOLDn, and the rail of its paddock (R481, R483). -/
def Chip.regrant (c : Chip) (f : Nat) : Chip :=
  let (r, l) := c.grantOf f
  ((c.setRegFld 0 0 (pwrFold f) 3 0 (oppAt r)).setRegFld 0 0 (pwrFold f) 6 4 l).setVcore (paddockOfFold f)

/-- PWR_STATUS bits that follow the lands and ceilings (R498). -/
def Chip.pwrStatus (c : Chip) : Chip :=
  let lc := c.pwr.loadcast.foldl (fun a p => a + 2 ^ p) 0
  let c := ((c.setRegFld 0 0 0x6008 3 0 lc).setRegFld 0 0 0x6008 4 4 (bit (!c.pwr.clampT.isEmpty))).setRegFld 0 0 0x6008 5 5 (bit c.pwr.prochot)
  (c.setRegFld 0 0 0x6008 6 6 (bit (c.pwr.thermal.any fun e => decide (0 < e.2)))).setRegFld 0 0 0x6008 7 7 (bit (decide (0 < c.pwr.plimit)))

/-! Current ramps (R475-R477). -/

/-- Cores of a paddock with a ramp, by physical index. -/
def Chip.rampsOf (c : Chip) (p : Nat) : List (Nat × Core) := c.cores.filter fun e => decide (paddockOfCore e.1 = p) && e.2.ramp.isSome

/-- LOADCASTp asserted (R477). -/
def Chip.loadcastOn (c : Chip) (p : Nat) : Chip :=
  ({ c with pwr := { c.pwr with loadcast := NatSet.insert c.pwr.loadcast p } }).pwrStatus

/-- An announced grant: the ramp is due 1.5 µs later, and LOADCAST asserts (R476, R477). -/
def Chip.announce (c : Chip) (k : Nat) (kind : RampKind) : Chip :=
  (c.modCore k fun x => { x with ramp := some kind, rampAnn := true, rampOn := false, rampAt := c.mtime.toNat + 150 }).loadcastOn (paddockOfCore k)

/-- A quiet ramp has room: at no moment of its 1.0 µs are more than 25 ramps in progress on the rail (R476). -/
def Chip.quietRoom (c : Chip) (p : Nat) : Bool :=
  let now := c.mtime.toNat
  let rs := c.rampsOf p
  let at_ (t : Nat) : Nat := (rs.filter fun e => decide (e.2.rampAt ≤ t) && decide (t < e.2.rampAt + 100)).length
  (now :: (rs.map fun e => e.2.rampAt).filter fun t => decide (now ≤ t) && decide (t < now + 100)).all fun t => decide (at_ t + 1 ≤ 25)

/-- A rise of a core granted (R476): announced always, but quiet for a WFI exit with room. -/
def Chip.grantRamp (c : Chip) (k : Nat) (kind : RampKind) : Chip :=
  if (c.core k).ramp.isSome then c
  else if kind = .wfiExit ∧ c.quietRoom (paddockOfCore k) then
    c.modCore k fun x => { x with ramp := some kind, rampAnn := false, rampOn := true, rampAt := c.mtime.toNat }
  else c.announce k kind

/-- ANNOUNCED_RAMP_START. -/
def Chip.rampStart (c : Chip) (k : Nat) : Chip :=
  let x := c.core k
  if x.ramp.isSome && x.rampAnn && !x.rampOn then c.modCore k fun x => { x with rampOn := true, rampAt := c.mtime.toNat } else c

/-- RAMP_END (R475). -/
def Chip.rampEnd (c : Chip) (k : Nat) : Chip :=
  if (c.core k).rampOn then c.modCore k fun x => { x with ramp := none, rampAnn := false, rampOn := false } else c

/-- LOADCAST_DEASSERT (R477): with no announced ramp in progress or pending on the rail. -/
def Chip.loadcastOff (c : Chip) (p : Nat) : Chip :=
  if (c.rampsOf p).any fun e => e.2.rampAnn then c
  else ({ c with pwr := { c.pwr with loadcast := NatSet.erase c.pwr.loadcast p } }).pwrStatus

end Sys2Proof.Machine
end

