-- ==== Sys2Proof/Machine/Power.lean ====
section
/-! DEFINITION. Power management: operating points, thermal and power ceilings, the hardware clamp, trips, cores and units
that power up and down, the AVSBus (R36-R38, R472-R488, R494, R500, R510). -/

namespace Sys2Proof.Machine

/-- BW_STATE.PHASE (R359). -/
def Chip.phase (c : Chip) : Nat := c.regFld uBellwether 0 0x1040 2 0
/-- The Bellwether controller serves its levels: PHASE RUN, and no restart (R357, R358). -/
def Chip.bwServes (c : Chip) : Bool := decide (c.phase = 4) && !c.boot.restart

/-- A fold's UD_POWER_CTL.BUSY set where its grant differs from the point it runs at (R483). -/
def Chip.markFold (c : Chip) (f : Nat) : Chip :=
  if (c.grantOf f).1 ≠ c.runRank f then c.modUnit (uFold f) fun u => { u with busy := true } else c

def Chip.markFolds (c : Chip) : Chip := (List.range 20).foldl Chip.markFold c

/-- OPP_REQUEST (R481): the target, and BUSY until the handler has moved the fold. -/
def Chip.oppRequest (c : Chip) (f opp : Nat) : Chip := c.modUnit (uFold f) fun u => { u with opp := opp, busy := true }

/-- Cores of a fold with ENABLED = 1. -/
def Chip.foldCoresOn (c : Chip) (f : Nat) : List Nat := ((List.range 10).map (10 * f + ·)).filter fun k => (c.core k).enabled

/-- A core of a fold is within the last 100 ns of its wake schedule of 3.0 µs (R483, R487). -/
def Chip.wakeEnds (c : Chip) (f : Nat) : Bool :=
  c.cores.any fun e => decide (foldOfCore e.1 = f) && decide (e.2.power = .waking) && decide (e.2.wakeAt + 290 ≤ c.mtime.toNat)

/-- OPP_CHANGE (R483): the fold moves to its granted point; a raise takes an announced grant for each enabled core. The
switch is deferred near the end of a wake. -/
def Chip.oppChange (c : Chip) (f : Nat) : Chip :=
  if !c.bwServes || c.wakeEnds f then c
  else
    let raise := decide ((c.grantOf f).1 < c.runRank f)
    let c := if raise then (c.foldCoresOn f).foldl (fun (c : Chip) k => c.grantRamp k .oppRaise) c else c
    (c.regrant f).modUnit (uFold f) fun u => { u with busy := false }

/-- DROOP_STRETCH (R479). -/
def Chip.droopStretch (c : Chip) (f : Nat) : Chip := c.setStretch f fun s => { s with droop := true }

/-- STRETCH_END (R479, R482, R485): a droop is over; after a wake or a clamp the PLL has switched to the ceiling, and the
fold's cores rise from the stretch (R476). -/
def Chip.stretchEnd (c : Chip) (f : Nat) : Chip :=
  let s := c.stretchOf f
  let c := if s.wake || s.clamp then c.regrant f else c
  let c := c.setStretch f fun s => { s with droop := false, wake := false, clamp := false }
  if s.wake then
    ((c.foldCoresOn f).filter fun k => (c.core k).power = .run).foldl (fun (c : Chip) k => c.grantRamp k .wfiExit) c
  else c

/-! Thermal and power limits (R484-R486, R510). -/

/-- Measured power in mW: the six AVSBus rails and 31 W (R484, R508). -/
def Chip.powerMw (c : Chip) : Nat := (c.pwr.rails.foldl (fun a (e : Nat × RailSt) => a + e.2.mv * e.2.ma) 0) / 1000 + 31000

/-- A ceiling moved one step down when above its limit, one step up when well below. -/
def moveCeiling (rank : Nat) (above below : Bool) : Nat := if above then min 11 (rank + 1) else if below then rank - 1 else rank

/-- THERMAL_LOOP (R484): 8 sensors per compute die, then 16 of the I/O die; each ceiling moves at most one step. -/
def Chip.thermalLoop (c : Chip) (temps : List Nat) : Chip :=
  if !c.bwServes then c
  else
    let target := c.regFld 0 0 0x6004 6 0
    let limit := 1000 * c.regFld 0 0 0x6000 8 0
    let hot (l : List Nat) : Nat := l.foldl max 0
    let c := if c.faulty 0 0 0x6004 then c else
      (List.range 4).foldl (fun (c : Chip) p =>
        let t := hot ((temps.drop (8 * p)).take 8)
        let r := moveCeiling (Sparse.at c.pwr.thermal 0 p) (decide (target < t)) (decide (t + 3 < target))
        { c with pwr := { c.pwr with thermal := Sparse.put c.pwr.thermal p r } }) c
    let mw := c.powerMw
    let c := if c.faulty 0 0 0x6000 then c else
      { c with pwr := { c.pwr with plimit := moveCeiling c.pwr.plimit (decide (limit < mw)) (decide (mw + 5000 < limit)) } }
    (c.pwrStatus.setRegFld 0 0 0x6008 23 16 (min 255 (hot temps))).markFolds

/-- HARDWARE_CLAMP (R485): a sensor of a fold's paddock at 110 °C (cause 0), or PROCHOT_N (cause 1); every affected fold
above 2.0 GHz is stretched until it has switched. -/
def Chip.hardwareClamp (c : Chip) (cause f : Nat) : Chip :=
  let c := if cause = 0 then { c with pwr := { c.pwr with clampT := NatSet.insert c.pwr.clampT (paddockOfFold f) } }
    else { c with pwr := { c.pwr with prochot := true } }
  ((List.range 20).foldl (fun (c : Chip) g =>
    if c.clamped g && decide (c.runRank g < clampRank) then c.setStretch g fun s => { s with clamp := true } else c) c).pwrStatus

/-- CLAMP_END (R485): every sensor has been below 105 °C for 1 ms, and PROCHOT_N is deasserted. -/
def Chip.clampEnd (c : Chip) : Chip := ({ c with pwr := { c.pwr with clampT := [], prochot := false } }).pwrStatus.markFolds

/-- Every hart stopped by the clocks (R486, R507). -/
def Chip.hartsOff (c : Chip) : Chip := { c with harts := c.harts.map fun (e : Nat × Hart) => (e.1, { e.2 with run := .off }) }

/-- THERMTRIP (R486): a sensor at 125 °C or above. -/
def Chip.thermtrip (c : Chip) (temp : Nat) : Chip :=
  if temp < 125 then c
  else
    { c.hartsOff with pwr := { c.pwr with thermtrip := true, clocks := false }
                      flash := { c.flash with log := c.flash.log ++ [.thermtrip] } }

/-- SENSORS_REACH_ZERO (R510). -/
def Chip.sensorsZero (c : Chip) : Chip := { c with pwr := { c.pwr with cold := false } }

/-- PERST0_N_DEASSERT (R494). -/
def Chip.perst0Off (c : Chip) : Chip := { c with pwr := { c.pwr with perst0 := false } }

/-! AVSBus (R472, R500). -/

/-- AVS_POLL: millivolts and milliamperes of the six rails, and 1 ms of energy in nJ. -/
def Chip.avsPoll (c : Chip) (r : AvsReading) : Chip :=
  if c.boot.restart || !c.pwr.pwrgood then c
  else
    (List.range 6).foldl (fun (c : Chip) i =>
      let v := r.mv.getD i 0
      let a := r.ma.getD i 0
      let x : RailSt := { mv := v, ma := a, nj := (Sparse.at c.pwr.rails {} i).nj + v * a }
      { c with pwr := { c.pwr with rails := Sparse.put c.pwr.rails i x } }) c

/-- AVS_STATUS_ALERT: a phase loss on a core rail, logged in the paddock's bank. -/
def Chip.avsAlert (c : Chip) (p : Nat) : Chip :=
  if c.boot.restart || !c.pwr.pwrgood then c else c.logErr (uPaddock p) { cls := .corrected, struct := 0x1C }

/-! Cores and units (R36-R38, R426-R428, R488). -/

/-- The core is the target of a migration (R427). -/
def Chip.migTarget (c : Chip) (k : Nat) : Bool := c.migs.any fun (m : Mig) => decide (m.new = k)

/-- A hart released with its core begins to run (R491, step 10). -/
def Hart.begin (h : Hart) : Hart := if h.run = .off then { h with run := .running } else h

/-- CORE_POWER_UP (R488). A spare that waits for a migration holds no hart yet (R427). -/
def Chip.corePowerUp (c : Chip) (k : Nat) : Chip :=
  if (c.core k).power ≠ .poweringUp then c
  else
    let c := (c.modCore k fun x => { x with power := .run }).modUnit (uCore k) fun u => { u with cur := 0, busy := false, initDone := true }
    if (c.core k).hartValid then c.modHart (c.core k).hartId Hart.begin else c

/-- Registers of a drover core at reset: DV_CORE_CTL, DV_HURDLE and DV_AP of its bank. -/
def Chip.dvCoreReset (c : Chip) (d k : Nat) : Chip :=
  let mine (key : Nat) : Bool := decide (key / 2 ^ 28 = uDrover d * 2 ^ 20 + k)
    && (decide (key % 2 ^ 28 = 0x1058) || decide (key % 2 ^ 28 = 0x105C) || decide (0x1100 ≤ key % 2 ^ 28))
  let t : Ctl := { c.ctl with
    regs := c.ctl.regs.filter fun e => !mine e.1,
    pend := c.ctl.pend.filter fun e => !mine e.1,
    armed := c.ctl.armed.filter fun e => !mine e.1,
    faulted := c.ctl.faulted.filter fun e => !mine e }
  ({ c with ctl := t }).modDvCore d k fun _ => {}

/-- UNIT_POWER_REQUEST once accepted (R37). -/
def Chip.powerRequest (c : Chip) (u req : Nat) : Chip :=
  let r := BitVec.ofNat 2 req
  c.modUnit u fun x => if x.cur = r ∧ !x.busy then { x with req := r } else { x with req := r, target := r, busy := true }

/-- A drover core brought to a state (R37). -/
def Chip.dvCoreTo (c : Chip) (d k : Nat) (s : BitVec 2) : Chip :=
  let u := uDvCore d k
  let c := if s = 0 ∧ (c.unit u).cur ≠ 0 then c.dvCoreReset d k else c
  c.modUnit u fun x => { x with cur := s, busy := false, target := s, initDone := decide (s = 0) }

/-- PX0 has the ENDPOINT role: STRAP_EP sampled as 1 on an X member (R360, R495). -/
def Chip.strapEp (c : Chip) : Bool := c.pwr.straps.getLsbD 0 && c.fuse.epCap

/-- A register block at its reset values; PX_CFG.ROLE of PX0 follows the strap (R37, R387). -/
def Chip.freshBlock (c : Chip) (u : Nat) : Chip :=
  let c := c.resetBlock u
  if u = uPx 0 ∧ c.strapEp = true then c.setRegFld (uPx 0) 0 0x1040 0 0 1 else c

/-- The 4,096 ring numbers from `k` on as after reset (R37). -/
def Chip.freshRings (c : Chip) (k : Nat) : Chip :=
  { c with rings := c.rings.filter fun e => !(decide (k ≤ e.1) && decide (e.1 < k + 4096)) }

/-- What a port, engine or cluster holds beside its registers when it returns to Run: counts that run from cold reset stay
(R301, R334, R390). -/
def Chip.unitFresh (c : Chip) (u : Nat) : Chip :=
  match kindOf u with
  | .ethPort => c.modEth (u - 21) fun x => { macs := x.macs.map fun (e : Nat × EthMac) => (e.1, { cnt := e.2.cnt }) }
  | .busPort => c.modPx (u - 17) fun x => { subs := x.subs.map fun (e : Nat × Sub) =>
      let s : Sub := { l1Count := e.2.l1Count, cto := e.2.cto, unexp := e.2.unexp, epRx := e.2.epRx, discard := e.2.discard }
      (e.1, s) }
  | .shears =>
    let c := c.freshRings (ringKey (.sh (u - 23) 0))
    let idle (l : Lane) : Lane := { l with job := none, faulted := false }
    c.modEngine (u - 23) fun x => { x with lanes := x.lanes.map (fun (e : Nat × Lane) => (e.1, idle e.2)), cur := 0, credit := 0 }
  | .droverCluster => (c.freshRings (ringKey (.dv (u - 25) 0))).modDrover (u - 25) fun _ => {}
  | _ => c

/-- UNIT_POWER_DONE (R33, R37): BUSY clears and CUR shows the state; a unit that leaves Off returns with every register at
its reset value; a cluster takes its 32 cores with it. -/
def Chip.powerDone (c : Chip) (u : Nat) : Chip :=
  let x := c.unit u
  if !x.busy then c
  else
    match kindOf u with
    | .droverCore => let d := (u - 449) / 32; c.dvCoreTo d ((u - 449) % 32) (if (c.unit (uDrover d)).cur = 2 then 2 else x.target)
    | .busPort | .ethPort | .shears | .droverCluster =>
      let c := if x.target = 0 ∧ x.cur ≠ 0 then (c.freshBlock u).unitFresh u else c
      let c := if x.target = 2 ∧ kindOf u = .ethPort then (List.range 8).foldl (fun (c : Chip) m => c.ethLinkDown (u - 21) m) c else c
      let c := c.modUnit u fun y => { y with cur := x.target, busy := false, initDone := decide (x.target = 0) }
      if kindOf u = .droverCluster then
        (List.range 32).foldl (fun (c : Chip) k =>
          c.dvCoreTo (u - 25) k (if x.target = 2 then 2 else (c.unit (uDvCore (u - 25) k)).req)) c
      else c
    | _ => c

end Sys2Proof.Machine
end

