-- ==== Sys2Proof/Machine/Ras.lean ====
section
/-! DEFINITION. Reliability: replay and hart migration, links, fault injection, the error records that software writes, the
fatal log and the Bellwether restart (R358, R359, R417-R443, R518). -/

namespace Sys2Proof.Machine

/-! Replay and migration (R424-R428). -/

/-- Unit of the core that runs a hart. -/
def Chip.hartUnit (c : Chip) (h : Nat) : Nat := uCore ((c.coreOfHart h).getD 0)

/-- HART_STOP (R426): the core halts, its hart keeps its ID, and an uncorrected-contained record names it. -/
def Chip.hartStop (c : Chip) (h : Nat) : Chip :=
  match c.coreOfHart h with
  | none => c
  | some k =>
    if (c.hart h).run = .stopped then c
    else (c.modHart h fun x => { x with run := .stopped }).logErr (uCore k) { cls := .uncorrected, struct := 0x05, owner := h }

/-- The free spare that comes first in path order in a paddock (R25, R427). -/
def Chip.freeSpare (c : Chip) (p : Nat) : Option Nat :=
  ((List.range 50).map (50 * p + ·)).find? fun k => (c.core k).spare && !(c.core k).retired && !c.migTarget k

/-- Steps 1 to 3 of R427: the hart halts, its L1D empties into the L2, its reservation is dropped, and the spare starts to
power up. During a Bellwether restart the hart stays halted and the migration waits (R358). With no free spare the hart is
stopped (R425), or BW_MIGRATE reports NO_SPARE (R359). -/
def Chip.migStart (c : Chip) (h : Nat) (asked : Bool) : Chip :=
  match c.coreOfHart h with
  | none => c
  | some k =>
    if c.boot.restart then
      { c.modHart h fun x => { x with run := .migrating 200 } with
        boot := { c.boot with waiting := NatSet.insert c.boot.waiting h } }
    else match c.freeSpare (paddockOfCore k) with
      | none => if asked then { c with migRes := 2 } else c.hartStop h
      | some s =>
        let back : RunState := match (c.hart h).run with
          | .wfi => .wfi | .rest => .wfi | .waking _ => .wfi | .debug => .debug | _ => .running
        let c := c.modHart h fun x => { x.dropWrong with run := .migrating s, resv := none, walk := none, held := none, cbo := none }
        let c := c.modCore k fun x => { x.emptyL1 with power := .run }
        let c := c.modUnit (uCore k) fun u => { u with cur := 0, busy := false }
        let c := (c.modCore s fun x => { x with power := .poweringUp }).modUnit (uCore s) fun u => { u with busy := true }
        let c := c.announce s .powerUp
        { c with migs := c.migs ++ [{ hart := h, old := k, new := s, asked := asked, back := back }] }

/-- A hart runs, waits or sleeps on its core, so that it can be migrated. -/
def RunState.onCore : RunState → Bool
  | .running => true | .wfi => true | .rest => true | .waking _ => true | .debug => true | _ => false

/-- RESIDUE_REPLAY (R424, R425): the replay repeats the instruction on the same state, so only the record shows it; THRESH
faults within a second start a migration, and then the record has MIGRATED. -/
def Chip.residueReplay (c : Chip) (h : Nat) : Chip :=
  match c.coreOfHart h with
  | none => c
  | some k =>
    if !(c.hart h).live then c
    else
      let now := c.mtime.toNat
      let l := ((c.core k).residue.filter fun t => decide (now < t + 10 ^ 8)) ++ [now]
      let th := c.regFld 0 0 0x400C 7 0
      let hit := decide (th ≤ l.length) && !c.faulty 0 0 0x400C
      let c := c.modCore k fun x => { x with residue := if hit then [] else l }
      let c := (c.modHart h fun x => { x.dropWrong.dropEarly with refetch := true }).logErr (uCore k)
        { cls := .corrected, struct := 0x06, owner := h, migrated := hit }
      if hit then c.migStart h false else c

/-- HART_MIGRATION (R425, R427): the replayed instruction failed again. -/
def Chip.hartMigration (c : Chip) (h : Nat) : Chip :=
  match c.coreOfHart h with
  | none => c
  | some k =>
    if !(c.hart h).live then c
    else (c.logErr (uCore k) { cls := .corrected, struct := 0x06, owner := h, migrated := true }).migStart h false

/-- Step 4 of R427: the hart as it starts on the spare, which commits the carried store-buffer entries in program order
before it fetches. -/
def Hart.restored (h : Hart) (s : Nat) (back : RunState) : Hart :=
  { h.dropEarly.flushPred with
    core := s, run := back, itlb := [], dtlb := [], tlb := [], pwc := [], held := none, walk := none, cbo := none
    refetch := true, sb := h.sb.map fun (e : SbEnt) => { e with moved := true } }

/-- What the hart has sent and awaits before its image can be captured: sample records (R461), and reductions and uncached
accesses, which the spare must not send again (DESIGN CHOICE, log 91). -/
def Chip.hartAwaits (c : Chip) (h k : Nat) : Bool :=
  !(c.hart h).tsFly.isEmpty || (c.hart h).sb.any (fun e => e.sent)
    || (c.core k).reqs.any fun r => decide (r.kind = .ncRd) || decide (r.kind = .ncWr)

/-- MIGRATION_RESTORE (R427, steps 4 to 6): HART_VALID moves in one step, and the old L2 begins to empty. -/
def Chip.migRestore (c : Chip) (h : Nat) : Chip :=
  match c.migs.find? fun (m : Mig) => decide (m.hart = h) && !m.moved with
  | none => c
  | some m =>
    if (c.core m.new).power ≠ .run ∨ c.hartAwaits h m.old = true then c
    else
      let nc := (c.core m.old).nc
      let c := c.modCore m.old fun x => { x with hartValid := false, retiring := true, nc := none }
      let c := c.modCore m.new fun x => { x with enabled := true, spare := false, hartId := h, hartValid := true, nc := nc }
      let c := c.modHart h fun x => x.restored m.new m.back
      let c := { c with migs := c.migs.map fun (x : Mig) => if x = m then { x with moved := true } else x
                        migRes := if m.asked then 1 else c.migRes }
      c.wakeStretch

/-- CORE_RETIRE (R27, R427): the old L2's last Put is answered. -/
def Chip.coreRetire (c : Chip) (k : Nat) : Chip :=
  let x := c.core k
  if x.retiring && x.l2.isEmpty && x.wb.isEmpty && x.reqs.isEmpty && x.fills.isEmpty then
    match c.migs.find? fun (m : Mig) => decide (m.old = k) with
    | none => c
    | some m =>
      let c := c.modCore k fun y => { y with enabled := false, retired := true, retiring := false, power := .off }
      let c := c.modUnit (uCore k) fun u => { u with cur := 2, initDone := false, busy := false }
      { c with migs := c.migs.filter fun (y : Mig) => y ≠ m
               flash := { c.flash with cores := c.flash.cores ++ [{ core := k, spare := m.new }] } }
  else c

/-- BW_MIGRATE.BUSY (R359). -/
def Chip.migBusy (c : Chip) : Bool := c.migs.any fun (m : Mig) => m.asked && !m.moved

/-- BW_MIGRATE (R359) once accepted: REFUSED for a hart stopped by R426 or already in migration. -/
def Chip.bwMigrate (c : Chip) (h : Nat) : Chip :=
  if (c.hart h).run.onCore && !(c.migs.any fun (m : Mig) => decide (m.hart = h) && !m.moved) then
    ({ c with migRes := 0 }).migStart h true
  else { c with migRes := 3 }

/-! Links (R221, R434). -/

/-- The link into a unit from direction `num mod 4`, north, east, south or west, crosses dies (R22). -/
def linkCrosses (l : LinkId) : Bool :=
  if kindOf l.unit = .tile then
    let (x, y) := tilePos (l.unit - 49)
    match l.num % 4 with
    | 0 => y = 1 || y = 6 | 1 => x = 10 || x = 5 | 2 => y = 10 || y = 5 | _ => x = 1 || x = 6
  else true

/-- STRUCT of a link error (R423). -/
def linkStruct (l : LinkId) : Nat := if linkCrosses l then 0x0E else 0x0D
/-- The edge link of the stop at (4, 0), in either direction (R211). -/
def linkEdge40 (l : LinkId) : Bool := decide (l.unit = uEth 0) || (decide (l.unit = uTile 3) && decide (l.num % 4 = 0))

/-- Retries of a link within the last millisecond (R434). -/
def Chip.recentRetries (c : Chip) (l : LinkId) : List Nat := (c.link l).retries.filter fun t => decide (c.mtime.toNat < t + 100000)

/-- LINK_RETRY (R221, R419): the flit is sent again, which delays the flits on the link; a corrected record at the receiving end. -/
def Chip.linkRetry (c : Chip) (l : LinkId) : Chip :=
  if (c.link l).down then c
  else ((c.modLink l fun x => { x with retries := c.recentRetries l ++ [c.mtime.toNat] }).delayLink l).logErr l.unit
    { cls := .corrected, struct := linkStruct l }

/-- WIRE_SPARING (R434), of a link that retried 16 flits within 1 ms: a pause of 2 µs, in which the failing wires take the 2 spares;
beyond them the (4, 0) edge link is retired once it is clear (R211), and any other logs a fatal record. -/
def Chip.wireSparing (c : Chip) (l : LinkId) (failing : List Nat) : Chip :=
  let x := c.link l
  if (c.recentRetries l).length < 16 ∨ x.down ∨ x.retiring then c
  else
    let c := c.modLink l fun y => { y with retries := [], pause := c.mtime.toNat + 200 }
    if x.spared + failing.length ≤ 2 then
      let c := c.modLink l fun y => { y with spared := y.spared + failing.length }
      failing.foldl (fun (c : Chip) w => c.logErr l.unit { cls := .corrected, struct := (linkStruct l), indexA := w }) c
    else if linkEdge40 l then ((c.modLink l fun y => { y with retiring := true }).edgeRetired).logErr l.unit { cls := .corrected, struct := linkStruct l }
    else c.logErr l.unit { cls := .fatal, struct := linkStruct l }

/-! Records that software writes (R422, R518). -/

/-- RECORD_INVALIDATE: a write that clears the valid bit. -/
def Chip.recInvalidate (c : Chip) (u i : Nat) : Chip :=
  let r := c.errRec u i
  if r.valid then c.setErrRec u i { r with status := setFld r.status 0 0 0 } else c

/-- RECORD_PREPARE (R518): a field of an invalid record; the valid bit and INJECTED stay 0. -/
def Chip.recPrepare (c : Chip) (u i : Nat) (f : RecReg) (v : DWord) : Chip :=
  let r := c.errRec u i
  if r.valid then c
  else c.setErrRec u i (match f with
    | .status => { r with status := setFld v 0 0 0 }
    | .addr => { r with addr := v }
    | .info => { r with info := setFld v 48 48 0 }
    | .suppl => { r with suppl := v }
    | .time => { r with time := v })

/-- The signalling and enable fields of control_i that a write stores; the injection fields act and read 0 (R422, R438;
layout and action of RERI, log 17). -/
def controlStored (v : DWord) : DWord := v &&& 0xFF#64

/-- A write of control_i (R422, R438): SINV invalidates the record; a nonzero EID makes the prepared record valid, which
sets the unit's summary bits (R34) and signals. -/
def Chip.recControl (c : Chip) (u i : Nat) (v : DWord) : Chip :=
  let r := c.errRec u i
  let c := c.setErrRec u i { r with control := controlStored v }
  let c := if v.getLsbD 32 then c.recInvalidate u i else c
  let r := c.errRec u i
  if fld v 63 48 ≠ 0 ∧ !r.valid then
    let r := { r with status := setFld r.status 0 0 1, info := setFld r.info 48 48 0, order := c.errSeq }
    let e : ErrInfo := { cls := r.cls, struct := r.struct }
    let c := (c.setErrRec u i r).modUnit u fun x => { x with err := x.err ||| summaryBit e }
    ({ c with errSeq := c.errSeq + 1 }).signalRec r
  else c

/-! Fault injection (R440-R442). -/

/-- Logging KIND of a structure (R423), for the structures that may be injected. -/
def structKinds (s : Nat) : List Kind :=
  if 1 ≤ s ∧ s ≤ 8 then [.core] else if 9 ≤ s ∧ s ≤ 0xC then [.l3Slice]
  else match s with
    | 0x0D => [.tile, .memCtrl, .busPort, .ethPort, .shears, .droverCluster]
    | 0x0E => [.tile, .memCtrl, .busPort, .ethPort, .shears, .droverCluster]
    | 0x0F => [.memCtrl] | 0x10 => [.memCtrl] | 0x11 => [.shears] | 0x12 => [.ethPort] | 0x13 => [.ethPort]
    | 0x14 => [.flowTable] | 0x15 => [.droverCore] | 0x16 => [.droverCluster] | _ => []

/-- Structures that hold lines (R442). -/
def structLines (s : Nat) : Bool := [1, 2, 3, 7, 8, 9, 0xA, 0xB, 0xC, 0xF, 0x16].contains s

/-- What a code makes of the bits in error (R423): corrected, beyond correction, or neither guaranteed. -/
inductive Detect where
  | corrected | beyond | open_
deriving DecidableEq, Repr

/-- SECDED detects 2 bits, DEC-TED 3, parity 1 (R423). -/
def structDetect (s n : Nat) : Detect :=
  if [1, 2, 3, 5].contains s then (if n = 1 then .corrected else if n = 2 then .beyond else .open_)
  else if s = 4 then (if n = 1 then .beyond else .open_)
  else if n ≤ 2 then .corrected else .beyond

/-- RAS_INJ_ADDR as a line number. -/
def Chip.injLine (c : Chip) : Nat := ((c.reg 0 0 0x4018).toNat + 2 ^ 32 * (c.reg 0 0 0x401C).toNat) / 64

/-- The structure of a unit holds a line. -/
def Chip.structHolds (c : Chip) (u s line : Nat) : Bool :=
  match s with
  | 1 => ((c.core (coreOfUnit u)).line line).any fun l => l.l1i
  | 2 => ((c.core (coreOfUnit u)).line line).any fun l => l.l1d
  | 3 => ((c.core (coreOfUnit u)).line line).any fun l => l.l1d
  | 7 => ((c.core (coreOfUnit u)).line line).isSome
  | 8 => ((c.core (coreOfUnit u)).line line).isSome
  | 9 => ((c.home (tileOfUnit u)).l3Find line).isSome
  | 0xA => ((c.home (tileOfUnit u)).l3Find line).isSome
  | 0xB => ((c.home (tileOfUnit u)).dirFind line).isSome
  | 0xC => ((c.home (tileOfUnit u)).openPen line).isSome
  | 0x16 => ((c.drover (u - 25)).line line).isSome
  | _ => true

/-- The hart of a core unit. -/
def Chip.hartOfUnit (c : Chip) (u : Nat) : Option Nat :=
  let x := c.core (coreOfUnit u)
  if x.hartValid then some x.hartId else none

/-- A record about a line in a structure. -/
def lineErr (cls : ErrClass) (s line : Nat) (bits : Nat := 0) : ErrInfo :=
  { cls := cls, struct := s, addr := 64 * line, at_ := if structLines s then 1 else 0, bits := bits }

def Core.changeLine (x : Core) (line : Nat) (f : L2Line → L2Line) : Core := x.setLine line fun l => some (f l)

/-- Entry n of a hart's TLBs, page-walk cache and prediction tables, counted through them, invalidated (R423). -/
def Hart.dropEntry (h : Hart) (n : Nat) : Hart :=
  let p := h.pred
  let a := h.itlb.length
  let b := a + h.dtlb.length
  let d := b + h.tlb.length
  let e := d + h.pwc.length
  let f := e + p.ubtb.length
  let g := f + p.btb.length
  let i := g + p.tags.length
  if n < a then { h with itlb := h.itlb.eraseIdx n }
  else if n < b then { h with dtlb := h.dtlb.eraseIdx (n - a) }
  else if n < d then { h with tlb := h.tlb.eraseIdx (n - b) }
  else if n < e then { h with pwc := h.pwc.eraseIdx (n - d) }
  else if n < f then { h with pred := { p with ubtb := p.ubtb.eraseIdx (n - e) } }
  else if n < g then { h with pred := { p with btb := p.btb.eraseIdx (n - f) } }
  else if n < i then { h with pred := { p with tags := p.tags.eraseIdx (n - g) } }
  else { h with pred := { p with ind := p.ind.eraseIdx (n - i) } }

/-- How many such entries there are. -/
def Hart.entries (h : Hart) : Nat :=
  h.itlb.length + h.dtlb.length + h.tlb.length + h.pwc.length + h.pred.ubtb.length + h.pred.btb.length + h.pred.tags.length
    + h.pred.ind.length

/-- The outcome beyond correction of a structure (R423). Which entry of the translation caches and prediction tables holds the
fault is free. -/
def Chip.beyond (c : Chip) (u s line : Nat) : Chip :=
  let k := coreOfUnit u
  let i := tileOfUnit u
  match s with
  | 1 =>
    (c.modCore k fun x => ({ x with l1i := x.l1i.drop line }).changeLine line fun l => { l with l1i := false }).logErr u
      (lineErr .corrected s line)
  | 2 =>
    let dirty := ((c.core k).line line).any fun l => l.st.dirty
    let c := c.modCore k fun x =>
      ({ x with l1d := x.l1d.drop line }).changeLine line fun l => { l with l1d := false, poison := l.poison || dirty }
    (c.dropResv k line).logErr u (lineErr (if dirty then .deferred else .corrected) s line)
  | 4 =>
    let c := match c.hartOfUnit u with
      | some h =>
        let (n, c) := c.pick (max 1 (c.hart h).entries)
        c.modHart h fun x => x.dropEntry n
      | none => c
    c.logErr u (lineErr .corrected s line)
  | 5 => match c.hartOfUnit u with
    | some h => c.hartStop h
    | none => c
  | 7 => (c.modCore k fun x => x.changeLine line fun l => { l with poison := true }).logErr u (lineErr .deferred s line)
  | 9 =>
    (c.modHome i fun x => { x with l3 := x.l3.map fun (e : Nat × L3Line) => if e.2.line = line then (e.1, { e.2 with poison := true }) else e })
      |>.logErr u (lineErr .deferred s line)
  | 0xC =>
    let f (e : Nat × Pen) : Nat × Pen := if e.2.line = line then (e.1, { e.2 with poison := true }) else e
    (c.modHome i fun x => { x with pens := x.pens.map f, spill := x.spill.map f }).logErr u (lineErr .deferred s line)
  | 0x13 =>
    let p := u - 21
    let c := match (c.eth p).held with
      | f :: t => (c.modEth p fun x => { x with held := t }).ethCount p f.mac 2 0
      | [] => c.ethCount p 0 2 0
    c.logErr u (lineErr .uncorrected s line)
  | 0x14 =>
    ({ c with flow := c.flow.drop line }).logErr u (lineErr .uncorrected s line)
  | 0x15 => c.dvHalt ((u - 449) / 32) ((u - 449) % 32) 9
  | 0x16 => (c.dvInval (u - 25) line).logErr u (lineErr .corrected s line)
  | _ => c.logErr u (lineErr .fatal s line)

/-- The fault of a structure with n bits in error (R423, R441). Detection beyond what is guaranteed is free; an undetected
error leaves the line with free data. -/
def Chip.structFault (c : Chip) (u s n line : Nat) : Chip :=
  match s with
  | 6 => match c.hartOfUnit u with
    | some h => c.residueReplay h
    | none => c
  | 0x0D => c.linkRetry { unit := u, num := line }
  | 0x0E => c.linkRetry { unit := u, num := line }
  | 0x0F => c
  | 0x10 => c.caParity (u - 5) (line % 8)
  | 0x11 => c.laneFault (u - 23) (line % 16) false
  | 0x12 => c.logErr u (lineErr .corrected s line)
  | _ =>
    match structDetect s n with
    | .corrected => c.logErr u (lineErr .corrected s line n)
    | .beyond => c.beyond u s line
    | .open_ =>
      let (v, c) := c.pick 2
      if v = 0 then c.beyond u s line
      else if s = 1 ∨ s = 2 then
        let n := c.fresh
        ({ c with fresh := n + 1 }).modCore (coreOfUnit u) fun x => x.changeLine line fun l => { l with data := Config.decodedLine n l.data }
      else c

/-- Devices in error that an injection writes with a DRAM line (R226, R441). -/
def injDevices (n : Nat) : List Nat := List.range n

/-- The line of memory that an injection into DRAM corrupts, in the rank that serves it. -/
def Chip.injDram (c : Chip) (chan line n : Nat) : Chip :=
  match c.mapAddr (64 * line) with
  | some (false, ch, l) =>
    if ch ≠ chan then c
    else
      let co := c.coord chan (l / 64)
      c.modMc chan fun m => { m with bad := Sparse.put m.bad (memKey chan co.rank co.idx) (injDevices n) }
  | _ => c

/-- Records that a fault has written get INJECTED (R442). -/
def Chip.markInjected (c : Chip) (seq : Nat) : Chip :=
  { c with errs := c.errs.map fun (e : Nat × ErrRec) =>
      if seq ≤ e.2.order ∧ e.2.valid = true then (e.1, { e.2 with info := setFld e.2.info 48 48 1 }) else e }

/-- INJECTION_FIRE (R442): the armed fault meets the next use of its structure, or of its line with MATCH. -/
def Chip.injectionFire (c : Chip) (u line : Nat) : Chip :=
  let ctl := c.reg 0 0 0x4014
  let s := fld ctl 7 0
  let t := fld ctl 9 8
  let n := if t = 3 then 1 else t + 1
  if fld ctl 16 16 = 0 ∨ c.faulty 0 0 0x4014 = true ∨ c.faulty 0 0 0x4010 = true ∨ u ≠ c.regFld 0 0 0x4010 15 0 then c
  else if fld ctl 10 10 = 1 ∧ line ≠ c.injLine then c
  else if c.structHolds u s line = false then c
  else
    let seq := c.errSeq
    let c := if s = 0x0F then c.injDram (u - 5) line n else c.structFault u s n line
    let c := c.markInjected seq
    let c := c.countReg 0 0 0x4020
    let c := c.setRegFld 0 0 0x4014 17 17 1
    if t = 3 then c else c.setRegFld 0 0 0x4014 16 16 0

/-! Fatal errors (R439). -/

/-- FATAL_ERROR: a fatal record asserts ERR_FATAL_N and sends the high-priority message. -/
def Chip.fatalError (c : Chip) (u s : Nat) : Chip := c.logErr u { cls := .fatal, struct := s }

/-- FATAL_LOG_COPY: every valid record of every bank into the error log of the boot flash; LOGGED sets. -/
def Chip.fatalLog (c : Chip) : Chip :=
  if c.regFld 0 0 0x4008 0 0 = 0 ∨ c.boot.restart then c
  else
    let es : List LogEntry := (c.errs.filter fun (e : Nat × ErrRec) => e.2.valid).map fun e =>
      LogEntry.record (e.1 / 4) e.2.status e.2.addr e.2.info e.2.suppl e.2.time
    ({ c with flash := { c.flash with log := c.flash.log ++ es } }).setRegFld 0 0 0x4008 1 1 1

/-! The Bellwether controller (R356-R359). -/

/-- Offset of the firmware copy in use (R492). -/
def Boot.copyBase (b : Boot) : Nat := if b.copyB then 0x01F00000 else 0

/-- VERSION of the copy in use (R492). -/
def Chip.fwVersion (c : Chip) : Word := BitVec.ofNat 32 (leNat (c.flash.bytes.read (c.boot.copyBase + 4) 4))

/-- PHASE reached (R359, R496). -/
def Chip.setPhase (c : Chip) (p : Nat) : Chip :=
  ({ c with boot := { c.boot with lastPhase := p } }).setRegFld uBellwether 0 0x1040 2 0 p

/-- BW_WATCHDOG_EXPIRY (R358): the core alone restarts from ROM, with a corrected record. -/
def Chip.bwWatchdog (c : Chip) : Chip :=
  if !c.bwServes then c
  else
    let c := (c.setRegFld uBellwether 0 0x1040 2 0 0).setReg uBellwether 0 0x1044 0
    ({ c with boot := { c.boot with restart := true } }).logErr uBellwether { cls := .corrected, struct := 0x19 }

/-- BW_RESTART_DONE (R358): PHASE RUN again; the migrations that waited run by R427. -/
def Chip.bwRestartDone (c : Chip) : Chip :=
  if !c.boot.restart then c
  else
    let w := c.boot.waiting
    let c := { c with boot := { c.boot with restart := false, waiting := [] } }
    let c := (c.setRegFld uBellwether 0 0x1040 2 0 4).setReg uBellwether 0 0x1044 c.fwVersion
    w.foldl (fun (c : Chip) h => c.migStart h false) c

/-- BW_HEARTBEAT (R359). -/
def Chip.bwHeartbeat (c : Chip) : Chip :=
  if c.bwServes then c.setReg uBellwether 0 0x1048 (c.reg uBellwether 0 0x1048 + 1) else c

end Sys2Proof.Machine
end

