-- ==== Sys2Proof/Machine/Tally.lean ====
section
/-! DEFINITION. Uncore Tally banks (R462-R468) and the mailbox snapshots of every block (R66-R69, R178, R259, R301, R305,
R334, R354, R390, R467, R496, R500). -/

namespace Sys2Proof.Machine

/-! Uncore banks. -/

/-- The unit that bank b serves (R462). -/
def bankUnit (b : Nat) : Nat := if b < 20 then uFold b else b - 15

def tbOff (b r : Nat) : Nat := 0x5000 + 0x40 * b + r
def Chip.bank (c : Chip) (b : Nat) : Bank := Sparse.at c.banks {} b
def Chip.modBank (c : Chip) (b : Nat) (f : Bank → Bank) : Chip := { c with banks := Sparse.upd c.banks {} b f }

/-- START (R464): C0-C3 zero, counting begins; a window of USEC µs ends it, 0 until STOP (R463). -/
def Chip.tallyStart (c : Chip) (b : Nat) : Chip :=
  let us := c.regFld 0 0 (tbOff b 4) 23 0
  c.modBank b fun x => { x with run := true, c0 := 0, c1 := 0, c2 := 0, c3 := 0,
                                stop := if us = 0 then none else some (c.mtime.toNat + 100 * us) }

/-- A running bank stops: the counters hold, DONE sets, with a message when it was clear and IRQ_EN = 1 (R464, R467, R468). -/
def Chip.tallyEnd (c : Chip) (b : Nat) : Chip :=
  let x := c.bank b
  if !x.run then c
  else
    let c := c.modBank b fun x => { x with run := false, done := true, stop := none }
    if !x.done && decide (c.regFld 0 0 (tbOff b 0) 6 6 = 1) && !c.faulty 0 0 (tbOff b 0) then c.sigMessage 0x5C00 else c

/-- TALLY_WINDOW_END (R467). -/
def Chip.tallyWindowEnd (c : Chip) (b : Nat) : Chip := if (c.bank b).stop.isSome then c.tallyEnd b else c

/-- START_ALL (R468): every bank with MODE other than OFF and RUN = 0. -/
def Chip.startAll (c : Chip) : Chip :=
  ((List.range 42).filter fun b => c.present (bankUnit b) && !(c.bank b).run && decide (c.regFld 0 0 (tbOff b 0) 1 0 ≠ 0)).foldl
    (fun (c : Chip) b => c.tallyStart b) c

/-- STOP_ALL (R468). -/
def Chip.stopAll (c : Chip) : Chip := (List.range 42).foldl (fun (c : Chip) b => c.tallyEnd b) c

/-- TB_CTL as it reads: RUN and DONE beside the stored MODE and IRQ_EN. -/
def Chip.tbCtl (c : Chip) (b : Nat) : Word :=
  setFld (setFld (c.reg 0 0 (tbOff b 0)) 4 4 (bit (c.bank b).run)) 5 5 (bit (c.bank b).done)

/-- Some core that fold bank b selects is enabled, in Run and not in the WFI stall (R463, R465). -/
def Chip.bankRuns (c : Chip) (b : Nat) : Bool :=
  (List.range 10).any fun i =>
    let k := c.core (10 * b + i)
    (c.reg 0 0 (tbOff b 8)).getLsbD i && k.enabled && decide (k.power = .run) && decide ((c.hart k.hartId).run ≠ .wfi)

/-- Bank b selects an agent of a stop (R463): of its fold's tiles, by TILES and AGENTS; an edge bank, its own unit alone. -/
def Chip.bankSees (c : Chip) (b : Nat) (s : FlitSeen) : Bool :=
  let sel := c.reg 0 0 (tbOff b 8)
  if 20 ≤ b then decide (edgePos (bankUnit b) = s.pos) && decide (s.agent = 0)
  else sel.getLsbD (15 + s.agent) && (List.range 5).any fun t => sel.getLsbD (10 + t) && decide (tilePos (5 * b + t) = s.pos)

/-- A bank that selects no agent, or no core that runs, counts nothing (R463, R465). -/
def Chip.bankSelects (c : Chip) (b : Nat) : Bool :=
  let s := c.reg 0 0 (tbOff b 8)
  decide (20 ≤ b) || (if c.regFld 0 0 (tbOff b 0) 1 0 = 1 then c.bankRuns b else decide (fld s 14 10 ≠ 0) && decide (fld s 17 15 ≠ 0))

/-- One tick of a running bank. Slots of the rename stage are not part of the state, so what the counters of TOPDOWN gain is free
(R465). The counters of BANDWIDTH gain what the interfaces of the selected agents saw (R466), and a free amount for transfers that the
model does whole (log 8, log 9). -/
def Chip.bankTick (c : Chip) (b : Nat) : Chip :=
  let wide := decide (c.regFld 0 0 (tbOff b 0) 1 0 = 2)
  if !(c.bank b).run || !c.bankSelects b then c
  else
    let mine := if wide then c.net.seen.filter (c.bankSees b) else []
    let n (k : Nat) : DWord := BitVec.ofNat 64 (mine.filter fun s => decide (s.ctr = k)).length
    let stuck : DWord := BitVec.ofNat 64 ((mine.filter fun s => decide (s.ctr = 3)).map fun s => s.at_).eraseDups.length
    let k := if wide then 64 else 1
    let (v0, c) := c.draw
    let (v1, c) := c.draw
    let (v2, c) := c.draw
    let (v3, c) := c.draw
    c.modBank b fun x =>
      { x with c0 := x.c0 + k * (n 0 + v0), c1 := x.c1 + k * (n 1 + v1), c2 := x.c2 + n 2 + v2, c3 := x.c3 + stuck + v3 }

/-! Mailbox items. -/

/-- A snapshot put together from fields and their low bits. -/
def pack (l : List (Nat × Nat × Nat)) : BitVec 128 := BitVec.ofNat 128 ((l.map fun (f : Nat × Nat × Nat) => f.1 % 2 ^ f.2.2 * 2 ^ f.2.1).sum)

def box64 (a b : Nat) : BitVec 128 := pack [(a, 0, 64), (b, 64, 64)]
def box32 (a b c d : Nat) : BitVec 128 := pack [(a, 0, 32), (b, 32, 32), (c, 64, 32), (d, 96, 32)]

/-- Stretches of a fold and mc spent stretched, up to now (R500). -/
def Chip.stretchItem (c : Chip) (f : Nat) : BitVec 128 :=
  let s := c.stretchOf f
  box64 s.count (s.mc + if s.any then 22 * (c.mtime - s.since).toNat else 0)

/-- PACKAGE (R467, R500). -/
def Chip.boxPackage (c : Chip) (item x : Nat) : Option (BitVec 128) :=
  match item with
  | 8 => if x < 42 then some (box64 (c.bank x).c0.toNat (c.bank x).c1.toNat) else none
  | 9 => if x < 42 then some (box64 (c.bank x).c2.toNat (c.bank x).c3.toNat) else none
  | 0xA => if x < 20 then some (c.stretchItem x) else none
  | 0xB =>
    if x < 6 then
      let r : RailSt := Sparse.at c.pwr.rails {} x
      some (pack [(r.nj / 1000, 0, 64), (r.ma, 64, 32), (r.mv, 96, 32)])
    else none
  | _ => none

/-- A directory entry in the layout of R153. -/
def DirEnt.bits (e : DirEnt) : BitVec 128 :=
  let st := match e.st with
    | .shared => 1 | .exclusive => 2 | .owned => 3
  let p (i : Nat) : Nat := e.ptrs.getD i 0
  pack ([(e.line / 2048, 0, 35), (st, 35, 2), (bit e.vec, 37, 1), (e.ptrs.length, 70, 3), (p 0, 38, 8)]
    ++ if e.vec then [(e.folds.toNat, 46, 20)] else [(p 1, 46, 8), (p 2, 54, 8), (p 3, 62, 8)])

/-- L3_SLICE (R178). -/
def Chip.boxSlice (c : Chip) (i item x : Nat) : Option (BitVec 128) :=
  let h := c.home i
  let set := x / 32
  let way := x % 32
  match item with
  | 0 =>
    if x < 65536 ∧ way < 20 then some (((Sparse.find h.dir (32 * set + way)).map DirEnt.bits).getD 0) else none
  | 1 =>
    if x < 65536 ∧ way < 24 then
      some (((Sparse.find h.l3 (32 * set + way)).map fun (l : L3Line) =>
        pack [(l.line / 2048, 0, 35), (1, 35, 1), (bit l.dirty, 36, 1), (bit l.pen, 37, 1), (l.clos, 38, 4)]).getD 0)
    else none
  | 2 => if x = 0 then some (box64 h.recalls.toNat 0) else none
  | 3 => if x = 0 then some (box64 h.stale.toNat 0) else none
  | _ => none

/-- MEM_CTRL (R259). -/
def Chip.boxMc (c : Chip) (n item x : Nat) : Option (BitVec 128) :=
  let m := c.mc n
  match item with
  | 0 =>
    if x < 8 then
      let r : RankCnt := Sparse.at m.ranks {} x
      some (box32 r.period r.ce r.ue 0)
    else none
  | 1 => if x < 8 then some (pack [(m.patrol, 0, 40), (m.passes, 40, 24)]) else none
  | 2 => if x < 8 then some (box32 m.cp m.poisoned (c.rankLines n) 0) else none
  | 3 => if x < 8 then some (box64 m.drfm.toNat m.acts.toNat) else none
  | 4 => if x < 8 then some (pack [(m.lastCe.toNat, 0, 48)]) else none
  | _ => none

/-- ETH_PORT (R301). Corrected and uncorrectable FEC codewords are free (log 9). -/
def Chip.boxEth (c : Chip) (p item x : Nat) : Option (BitVec 128) :=
  let m := c.mac p x
  let n (k : Nat) : Nat := Sparse.at m.cnt 0 (4 * item + k)
  if x < c.macCount p ∧ item ≤ 6 then
    match item with
    | 2 => some (box32 (n 0) (n 1) (n 2) (n 3))
    | 3 => some (box32 (n 0) (n 1) (n 2) (n 3))
    | 5 => some (box64 (Config.fresh c.fresh).toNat (Config.fresh (c.fresh + 1)).toNat)
    | 6 => some (box32 (n 0) 0 0 0)
    | _ => some (box64 (n 0) (n 1))
  else none

/-- FLOW_TABLE (R305). -/
def Chip.boxFlow (c : Chip) (item x : Nat) : Option (BitVec 128) :=
  match item with
  | 0 => some (((Sparse.find c.flow.ents x).map FlowEnt.bits).getD 0)
  | 1 => if x < 131072 then some (((Sparse.find c.flow.slots x).map fun (s : AddrSlot) => s.addr).getD 0) else none
  | 2 =>
    if x < 131072 then
      some (((Sparse.find c.flow.slots x).map fun (s : AddrSlot) =>
        pack [(s.vni, 0, 24), (bit s.fam6, 24, 1), (1, 25, 1), (s.refs, 32, 21)]).getD 0)
    else none
  | 3 => if x = 0 then some (box64 c.flow.lookups c.flow.hits) else none
  | 4 => if x < 8192 then some (pack [(Sparse.at c.flow.rss 0 x, 0, 13)]) else none
  | _ => none

/-- SHEARS (R334). -/
def Chip.boxShears (c : Chip) (e item x : Nat) : Option (BitVec 128) :=
  let y := c.engine e
  match item with
  | 0 => if x < 256 then some (box64 (Sparse.at y.counts (0, 0) x).1 (Sparse.at y.counts (0, 0) x).2) else none
  | 1 => if x = 0 then some (box64 y.inB y.outB) else none
  | 2 => if x < 16 then some (box64 (y.lane x).cycles (y.lane x).items) else none
  | _ => none

/-- DROVER_CLUSTER (R354). -/
def Chip.boxDrover (c : Chip) (d item x : Nat) : Option (BitVec 128) :=
  match item with
  | 0 => if x < 32 then let k := c.dvCore d x; some (pack [(k.pc, 0, 32), (k.instret, 32, 32), (k.waits, 64, 64)]) else none
  | 1 => if x = 0 then some (box64 (c.drover d).t 0) else none
  | 2 =>
    if x < 4096 then
      some (((Sparse.find (c.drover d).cache x).map fun (l : DvLine) => pack [(l.line, 0, 46), (1, 46, 1)]).getD 0)
    else none
  | _ => none

/-- BUS_PORT (R390). -/
def Chip.boxPx (c : Chip) (p item x : Nat) : Option (BitVec 128) :=
  let y := c.px p
  let w : Window := Sparse.at y.wins {} x
  let s := y.subAt x
  let np := (y.np.filter fun (r : NpReq) => decide (r.sub = x)).length
  let qu := (y.quar.filter fun (q : Nat × Nat) => decide (q.1 = x)).length
  match item with
  | 0 => if x < 16 then some (box64 w.base w.limit) else none
  | 1 => if x < 16 then some (pack [(w.xlat, 0, 64), (w.cfg.toNat, 64, 32)]) else none
  | 2 => if x < 4 then some (pack [(np, 0, 16), (qu, 16, 16), (s.cto, 32, 32), (s.unexp, 64, 32), (s.epRx, 96, 32)]) else none
  | 3 => if x < 4 then some (pack [(s.width, 0, 5), (s.speed, 8, 3), (s.l1Count, 32, 32), (s.discard, 64, 32)]) else none
  | _ => none

/-- BELLWETHER (R496). -/
def Chip.boxBw (c : Chip) (item x : Nat) : Option (BitVec 128) :=
  match item with
  | 0 =>
    if x = 0 then
      some (pack [(c.boot.lastPhase, 0, 3), (bit c.boot.copyB, 3, 1), (c.pwr.straps.toNat, 4, 5), (c.boot.entries.length, 16, 8),
        (c.boot.msToRun, 32, 32), ((c.reg uBellwether 0 0x1044).toNat, 64, 32), (c.fuse.rollback, 96, 8)])
    else none
  | 1 =>
    if x < 32 then
      some (((c.boot.entries[x]?).map fun (e : BootEntry) => pack [(e.code, 0, 8), (e.unit, 16, 16), (e.detail, 32, 32)]).getD 0)
    else none
  | _ => none

/-- The item that SELECT names in a block; none where the block does not define it (R66). -/
def Chip.boxItem (c : Chip) (u sel : Nat) : Option (BitVec 128) :=
  let item := sel / 2 ^ 20
  let x := sel % 2 ^ 20
  match kindOf u with
  | .package => c.boxPackage item x
  | .l3Slice => c.boxSlice (tileOfUnit u) item x
  | .memCtrl => c.boxMc (u - 5) item x
  | .ethPort => c.boxEth (u - 21) item x
  | .flowTable => c.boxFlow item x
  | .shears => c.boxShears (u - 23) item x
  | .droverCluster => c.boxDrover (u - 25) item x
  | .busPort => c.boxPx (u - 17) item x
  | .bellwether => c.boxBw item x
  | _ => none

def Chip.mbox (c : Chip) (u : Nat) : Mbox := Sparse.at c.ctl.mbox {} u
def Chip.setMbox (c : Chip) (u : Nat) (m : Mbox) : Chip := { c with ctl := { c.ctl with mbox := Sparse.put c.ctl.mbox u m } }

/-- SNAPSHOT_COMPLETE (R67): every bit at one instant, PEND clears, VALID sets and SEQ counts, in one cycle. -/
def Chip.snapshotDone (c : Chip) (u : Nat) : Chip :=
  let m := c.mbox u
  if !m.pend then c
  else
    let c := c.setMbox u { m with valid := true, pend := false, seq := (m.seq + 1) % 256, data := (c.boxItem u m.sel).getD 0 }
    { c with fresh := c.fresh + 2 }

/-- The resource that a mailbox item belongs to (R395): its kind and number (R393). -/
def itemOwner (u sel : Nat) : Option (Nat × Nat) :=
  let item := sel / 2 ^ 20
  match kindOf u with
  | .shears => if item = 0 then some (2 + (u - 23), sel % 2 ^ 20) else none
  | .droverCluster => if item = 0 then some (6 + (u - 25), sel % 2 ^ 20) else none
  | _ => none

end Sys2Proof.Machine
end

