-- ==== Sys2Proof/Machine/Boot.lean ====
section
/-! DEFINITION. Reset and boot: cold and warm reset, firmware authentication, memory training, hart release, loss of power
(R25-R27, R223-R225, R231, R244, R255, R470, R489-R497, R504, R507). -/

namespace Sys2Proof.Machine

/-! Interleave sets (R231). -/

def rangeMeets (a b c d : Nat) : Bool := decide (a < d) && decide (c < b)

/-- GiB of a channel's active capacity (R223, R225). -/
def Chip.chanGib (c : Chip) (n : Nat) : Nat := (c.mc n).logical.length * c.rankLines n * 64 / 2 ^ 30

/-- GiB per way of a set. -/
def Mset.span (s : Mset) : Nat := (s.limit - s.base) / s.w

/-- The checks of R231 on a set's new contents, for a commit of MSET_CFG with EN = 1. -/
def Chip.msetCheck (c : Chip) (n : Nat) (s : Mset) : Bool :=
  let others := (c.msetsOn.filter fun m => m ≠ n).map c.mset
  let named := s.chan.take s.w
  decide (s.base < s.limit) && decide (s.limit ≤ 0x3C000)
    && decide ((s.limit - s.base) % s.w = 0)
    && others.all (fun o => !rangeMeets s.base s.limit o.base o.limit)
    && decide named.Nodup && (s.chan.drop s.w).all (fun t => decide (t = 0))
    && (if s.cxl then
          (decide (s.w = 1) || decide (s.w = 2) || decide (s.w = 4)) && named.all fun p =>
            decide (p < 4) && decide (c.regFld (uPx p) 0 0x1048 4 4 = 1) && decide ((s.lbase + s.span) * 2 ^ 24 ≤ (c.px p).cap)
        else named.all fun t =>
          decide (t < 12) && (c.unit (uMc t)).initDone && decide (s.lbase + s.span ≤ c.chanGib t)
            && others.all fun o => o.cxl || !(o.chan.take o.w).contains t || !rangeMeets s.lbase (s.lbase + s.span) o.lbase (o.lbase + o.span))

/-- The committed words of a set, and their complements as the pair registers read (R59, R229). -/
def Chip.putSet (c : Chip) (n : Nat) (ws : List Word) : Chip :=
  ([0, 8, 0x10, 0x18, 0x20].zip ws).foldl (fun (c : Chip) e => c.setReg 0 0 (msetOff n e.1) e.2) c

/-- The Bellwether controller commits the configured sets; one that fails R231 stays disabled (R231, R491 step 5). -/
def Chip.commitSets (c : Chip) : Chip :=
  c.flash.cfg.msets.foldl (fun (c : Chip) (e : Nat × List Word) =>
    match e.2 with
    | [b, l, g, lo, hi] =>
      if e.1 < 16 ∧ c.msetCheck e.1 (msetOfWords b l g lo hi) then c.putSet e.1 [b, l, g, lo, hi]
      else c.putSet e.1 [b, l, setFld g 0 0 0, lo, hi]
    | _ => c) c

/-! Boot status (R496, R497). -/

/-- A boot status entry; 32 at most. -/
def Chip.note (c : Chip) (code unit detail : Nat) : Chip :=
  if c.boot.entries.length < 32 then
    { c with boot := { c.boot with entries := c.boot.entries ++ [{ code := code, unit := unit, detail := detail % 2 ^ 32 }] } }
  else c

/-- An entry whose UNIT_ID the manual does not name: free (log 9). -/
def Chip.noteOpen (c : Chip) (code : Nat) (detail : Option Nat) : Chip :=
  let (v, c) := c.draw
  c.note code (fld v 15 0) (detail.getD (fld v 63 32))

/-! Units at boot. -/

/-- The adopting spare of a core by the retirement list, through any chain of adoptions (R26, R27). -/
def adopter (l : List CoreRet) (k : Nat) : Nat :=
  l.foldl (fun k (_ : CoreRet) => match l.find? fun (r : CoreRet) => decide (r.core = k) with
    | some r => r.spare
    | none => k) k

/-- Hart positions of a paddock, in path order (R26). -/
def Chip.positions (c : Chip) (p : Nat) : List Nat :=
  ((List.range 50).map (50 * p + ·)).filter fun k => !c.fuse.coreOff k && !c.fuse.spares.contains k

/-- Cores that hold harts, by hart ID (R26). -/
def Chip.hartCores (c : Chip) : List Nat :=
  (List.range 4).flatMap fun p => ((c.positions p).take (c.nHarts / 4)).map (adopter c.flash.cores)

/-- A core as fuses and the retirement list describe it: free spare, or retired (R25, R27, R31, R40). -/
def Chip.fusedCore (c : Chip) (k : Nat) : Core :=
  match c.flash.cores.find? fun (r : CoreRet) => decide (r.core = k) with
  | some _ =>
    let id := (c.hartCores.findIdx? (· = adopter c.flash.cores k)).getD 0
    { retired := true, hartId := id }
  | none => { spare := c.fuse.spares.contains k && !(c.flash.cores.any fun (r : CoreRet) => decide (r.spare = k)) }

/-- Present units of every kind but cores leave reset in Run; cores and fused-off units are Off; channels have INIT_DONE
once trained (R33, R36-R38). -/
def Chip.bootUnits (c : Chip) (keepErr : Bool) : Sparse UnitSt :=
  (List.range 513).map fun u =>
    let e := if keepErr then (c.unit u).err else 0
    let on := c.present u && kindOf u ≠ .core
    (u, { err := e, cur := if on then 0 else 2, initDone := on && kindOf u ≠ .memCtrl })

def Chip.bootCores (c : Chip) : Sparse Core := (List.range 200).map fun k => (k, c.fusedCore k)

/-- PX_CFG.ROLE follows the strap (R360). -/
def Chip.bootRole (c : Chip) : Chip := if c.strapEp then c.setRegFld (uPx 0) 0 0x1040 0 0 1 else c

/-- STANDBY_POWER_UP (R491, step 1): PHASE ROM; fuses loaded into the Unit Descriptors. -/
def Chip.standbyUp (c : Chip) : Chip :=
  if c.boot.standby then c
  else
    let c := { c with boot := { c.boot with standby := true } }
    (({ c with cores := c.bootCores }).setPhase 0).allSums

/-- COLD_BOOT (R470, R489, R491 steps 1 and 2, R494, R495, R504): everything is reset but fuses and boot flash; the straps
are sampled at the rise of PWRGOOD. -/
def Chip.coldBoot (c : Chip) (straps : BitVec 5) (cold : Bool) : Chip :=
  if !c.boot.standby then c
  else
    let st := if c.pwr.pwrgood then c.pwr.straps else straps
    let p : Power := {
      pwrgood := true, prochot := c.pwr.prochot, perst0 := c.pwr.perst0, clocks := true, flashRst := false, straps := st
      vcore := [(0, 0), (1, 0), (2, 0), (3, 0)], cold := cold }
    let n : Chip := {
      fresh := c.fresh, fuse := c.fuse, flash := c.flash, pwr := p, boot := { standby := true }
      insts := [(0, { st := .active })] }
    let n := { n with cores := n.bootCores, units := n.bootUnits false }
    let n := n.bootRole.pwrStatus.allSums
    let n := if st.getLsbD 0 && !n.fuse.epCap then n.note 1 (uPx 0) st.toNat else n
    let n := if st.getLsbD 4 then n.note 1 0 st.toNat else n
    if c.pwr.thermtrip then n.noteOpen 8 none else n

/-! Firmware (R492, R493). -/

/-- First check of R493 that a copy fails; none when it passes. Key and signature are little-endian integers, as the header
is (DEDUCED, log 18). -/
def Chip.copyFails (c : Chip) (base : Nat) : Option Nat :=
  let h := c.flash.bytes.read base 320
  let w (o n : Nat) : Nat := leNat ((h.drop o).take n)
  let bw := c.flash.bytes.read (base + 0x1000) (w 8 4)
  let im := c.flash.bytes.read (base + 0x80000) (w 12 4)
  let digest (o : Nat) : BitVec 384 := BitVec.ofNat 384 (leNat ((h.drop o).take 48))
  if w 0 4 ≠ 0x46575742 then some 1
  else if sha384 ((h.drop 128).take 96) ≠ c.fuse.keyHash then some 2
  else if ecdsaOk (w 128 48) (w 176 48) (w 224 48) (w 272 48) (h.take 224) = false then some 3
  else if sha384 bw ≠ digest 32 ∨ sha384 im ≠ digest 80 then some 4
  else if w 4 4 < c.fuse.rollback then some 5
  else none

/-- What boot takes from a copy that passes. -/
def Chip.useCopy (c : Chip) (b : Bool) : Chip :=
  let base := if b then 0x01F00000 else 0
  let w (o n : Nat) : Nat := leNat (c.flash.bytes.read (base + o) n)
  let boot := { c.boot with copyB := b, load := w 16 8, entry := w 24 8, image := w 12 4, digest := BitVec.ofNat 384 (w 80 48) }
  let c := { c with boot := boot }
  c.setReg uBellwether 0 0x1044 c.fwVersion

/-- FIRMWARE_AUTH (R491 step 3, R493, R510): copy A and then copy B, or copy B only with STRAP_RECOVERY. -/
def Chip.firmwareAuth (c : Chip) : Chip :=
  if !c.pwr.pwrgood || c.phase ≠ 0 || c.pwr.cold || c.boot.restart then c
  else
    let c := c.setPhase 1
    let tryB (c : Chip) : Chip := match c.copyFails 0x01F00000 with
      | none => c.useCopy true
      | some k => (c.noteOpen 2 (some (1 + 256 * k))).setPhase 5
    if c.pwr.straps.getLsbD 2 then tryB c
    else match c.copyFails 0 with
      | none => c.useCopy false
      | some k => tryB (c.noteOpen 2 (some (256 * k)))

/-! Memory training (R223-R225, R244, R255). -/

/-- Fields of MC_INFO for a population that keeps the rules (R256, R257). -/
structure ChanInfo where
  type    : Nat
  speed   : Nat
  dpc     : Nat
  density : Nat
  rpd     : Nat
deriving DecidableEq, Repr

/-- The table of R223, and R224: every DIMM of the channel alike, a supported kind, density, rank count and number of DIMMs, and
the highest grade that every DIMM supports and the table allows. None for a population that breaks the rules, or is empty. -/
def chanInfo (p : ChanPop) : Option ChanInfo :=
  match p.dimms with
  | [] => none
  | d :: ds =>
    let row : Option (Nat × Nat × List Nat × List Nat) := match d.kind with
      | .rdimm => some (1, 2, [1, 2, 4], [2, 1, 0])
      | .mrdimm => some (2, 1, [2, 4], [4, 3])
      | .other => none
    match row with
    | none => none
    | some (type, most, ranks, grades) =>
      match grades.find? fun g => d.grades.getLsbD g with
      | none => none
      | some g =>
        if ds.all (fun e => decide (e = d)) && decide (ds.length < most) && ranks.contains d.ranks
            && (decide (d.density = 16) || decide (d.density = 32)) then
          some { type := type, speed := g, dpc := ds.length, density := bit (decide (d.density = 32)), rpd := d.ranks / 2 }
        else none

/-- Physical ranks that a population holds (R225). -/
def popRanks (p : ChanPop) : List Nat :=
  (List.range p.dimms.length).flatMap fun s => (List.range (p.dimms.getD s ⟨.other, 0, 0, 0⟩).ranks).map (4 * s + ·)

/-- MC_INFO of a trained channel (R256). -/
def popInfo (p : ChanInfo) (present : Nat) : Word :=
  BitVec.ofNat 32 (p.type % 4 + p.speed % 8 * 4 + p.dpc % 2 * 32 + p.density % 2 * 64 + p.rpd % 4 * 128 + present % 256 * 2 ^ 16)

/-- RANK_UNTRAINED for every populated rank that did not train, and for a configured spare that did not, with its SPARE_LOST
(R244, R497). -/
def Chip.noteRanks (c : Chip) (u : Nat) (ranks up : List Nat) (gone want : Option Nat) : Chip :=
  let lost : Option Nat := want.filter fun s => !up.contains s
  let bad := ranks.filter fun r => !up.contains r && decide (gone ≠ some r)
  let c := (bad ++ (lost.filter fun s => !bad.contains s).toList).foldl (fun (c : Chip) r => c.note 4 u r) c
  match lost with
  | some s => c.note 5 u s
  | none => c

/-- One channel trained: MC_INFO, the spare, the logical ranks, MC_STATUS, INIT_DONE, the LFSR seeds and the boot entries
(R224, R225, R241, R244). -/
def Chip.trainChannel (c : Chip) (n : Nat) (p : ChanPop) : Chip :=
  let u := uMc n
  let ranks := popRanks p
  match chanInfo p with
  | none => if p.dimms.isEmpty then c.note 3 u 2 else c.note 3 u 1
  | some info =>
    let ret := c.flash.ranks.find? fun (r : RankRet) => decide (r.chan = n)
    let gone : Option Nat := ret.bind fun r => if r.done then some r.rank else none
    let up := ranks.filter fun r => p.trained.getLsbD r && decide (gone ≠ some r)
    let want : Option Nat := (ret.map fun r => r.spare) <|> (if info.type = 1 then Sparse.find c.flash.cfg.spares n else none)
    let c := c.noteRanks u ranks up gone want
    if up.isEmpty then c.note 3 u 2
    else
      let mask := up.foldl (fun a r => a + 2 ^ r) 0
      let spare : Option Nat := want.bind fun s => if up.contains s ∧ (2 ≤ up.length ∨ gone.isSome) then some s else none
      let c := c.setReg u 0 0x1040 (popInfo info mask)
      let c := c.setReg u 0 0x1044 (match spare, want with
        | some s, _ => BitVec.ofNat 32 (s + 8)
        | none, some s => BitVec.ofNat 32 (s % 8)
        | none, none => 0)
      let ctl : Nat := match spare, ret with
        | some _, some r => if r.done then 3 + 16 * r.rank + 256 * retCauseCode r.cause else 1
        | some _, none => 1
        | none, _ => 0
      let c := c.setReg u 0 0x1048 (BitVec.ofNat 32 ctl)
      let goneMask := match gone with
        | some r => 2 ^ r
        | none => 0
      let c := c.setReg u 0 0x1058 (BitVec.ofNat 32 (1 + 256 * goneMask))
      let logical : List Nat := match gone, spare with
        | some r, some s => (logicalRanks info.type (mask + 2 ^ r) (some s) 0).map fun x => if x = r then s else x
        | _, _ => logicalRanks info.type mask spare 0
      let (v, c) := c.draw
      let c := c.modMc n fun m => { m with logical := logical, seedA := v.setWidth 32, seedB := (v >>> 32).setWidth 32 }
      let c := { c with pwr := { c.pwr with dramUp := NatSet.insert c.pwr.dramUp n } }
      c.modUnit u fun x => { x with initDone := true }

/-- A pending retirement's copy starts again at step 1 of R252 (R255). -/
def Chip.resumeCopies (c : Chip) : Chip :=
  (List.range 12).foldl (fun (c : Chip) n =>
    match c.flash.ranks.find? fun (r : RankRet) => decide (r.chan = n) && !r.done with
    | some r => if c.spareState n = 1 then (c.retireRank n r.rank r.cause).note 6 (uMc n) r.rank else c
    | none => c) c

/-- The spill area is placed in DRAM (R40, R193, R491 step 6). -/
def Chip.placeSpill (c : Chip) : Chip := { c with spillBase := c.flash.cfg.spillBase, spillLines := min 51200 c.flash.cfg.spillLines }

/-- Steps 4 to 6 of R491 on the modules that training finds. -/
def Chip.trainAll (c : Chip) (pops : List ChanPop) : Chip :=
  let c := c.setPhase 2
  let c := (List.range 12).foldl (fun (c : Chip) n => c.trainChannel n (pops.getD n {})) c
  let c := { c with boot := { c.boot with pops := pops } }
  if (List.range 12).all fun n => !(c.unit (uMc n)).initDone then (c.noteOpen 7 none).setPhase 5
  else c.resumeCopies.commitSets.placeSpill

/-- MEMORY_TRAINING (R244, R491). -/
def Chip.memoryTraining (c : Chip) (pops : List ChanPop) : Chip :=
  if c.phase = 1 ∧ c.pwr.clocks = true then c.trainAll pops else c

/-! Hart release (R26, R491 steps 7 to 11). -/

/-- Bytes written to memory by the Bellwether controller; those that no enabled set covers are lost. -/
def Chip.bootWrite (c : Chip) (pa : Nat) (bs : List Byte) : Chip := (c.physWrite pa bs false 0 fun _ => none).getD c

/-- A hart as it is released: M-mode at BOOT_ENTRY, every CSR at its reset value (R491, step 10). -/
def bootHart (k entry : Nat) : Hart := { core := k, pc := BitVec.ofNat 64 entry }

/-- One core powered up with its hart, with an announced grant (R476, R491). -/
def Chip.releaseHart (c : Chip) (h k : Nat) : Chip :=
  let c := c.modCore k fun x => { x with enabled := true, spare := false, hartId := h, hartValid := true, power := .poweringUp }
  let c := c.modUnit (uCore k) fun u => { u with busy := true }
  ({ c with harts := Sparse.put c.harts h (bootHart k c.boot.entry) }).announce k .powerUp

/-- BOOT_ENTRY committed and the package block locked (R491, step 9). -/
def Chip.lockPackage (c : Chip) : Chip :=
  let c := c.setReg 0 0 0x6090 (BitVec.ofNat 32 c.boot.entry)
  let c := c.setReg 0 0 0x6098 (BitVec.ofNat 32 (c.boot.entry / 2 ^ 32))
  c.setReg 0 0 0x1018 1

/-- HART_RELEASE. The image is checked again in DRAM: a failed check releases no hart, as check 4 of R493 (DEDUCED, log
37). -/
def Chip.hartRelease (c : Chip) : Chip :=
  if c.phase ≠ 2 ∨ c.pwr.clocks = false then c
  else
    let c := c.setPhase 3
    let c := c.setIo32 0x10 1
    let im := c.flash.bytes.read (c.boot.copyBase + 0x80000) c.boot.image
    let c := c.bootWrite c.boot.load im
    let back := match c.busRead c.boot.load c.boot.image with | (.ok bs _, _) => some bs | _ => none
    if (back.map fun b => decide (sha384 b = c.boot.digest)) ≠ some true then
      (c.noteOpen 2 (some (bit c.boot.copyB + 1024))).setPhase 5
    else
      let c := c.lockPackage
      let cores := c.hartCores
      let c := ((List.range cores.length).zip cores).foldl (fun (c : Chip) e => c.releaseHart e.1 e.2) c
      let c := c.setPhase 4
      ({ c with boot := { c.boot with msToRun := c.mtime.toNat / 100000 } }).allSums

/-! Warm reset and loss of power. -/

/-- Write buffers emptied into DRAM before self-refresh (R489: DRAM contents are kept; DEDUCED, log 37). -/
def Chip.flushWrites (c : Chip) : Chip :=
  (List.range 12).foldl (fun (c : Chip) n => (c.drainBuf n 0 0).drainBuf n 1 0) c

/-- Counts of a controller that run from cold reset (R259), and the errors stored in its devices. -/
def Mc.warm (m : Mc) : Mc :=
  { drfm := m.drfm, acts := m.acts, bad := m.bad, notices := m.notices, lastCe := m.lastCe,
    ranks := m.ranks.map fun (e : Nat × RankCnt) => (e.1, { ce := e.2.ce, ue := e.2.ue }) }

/-- The device after every block entered reset: DRAM, RAS banks, mtime, firmware, flash, straps and the counts that run from
cold reset are kept (R489, R490, R500). The boot status starts empty (R496), and a strap conflict is not recorded again (R6;
DESIGN CHOICE, log 88). -/
def Chip.warmed (c0 : Chip) : Chip :=
  let c := c0.flushWrites
  let n : Chip := {
    fresh := c.fresh, fuse := c.fuse, flash := c.flash, mtime := c.mtime, mt := c.mt
    errs := c.errs, errSeq := c.errSeq, mem := c.mem, poison := c.poison
    pwr := { c.pwr with errFatal := false, loadcast := [], perstUp := [], plimit := 0, thermal := [],
                        vcore := [(0, 0), (1, 0), (2, 0), (3, 0)],
                        stretch := c.pwr.stretch.map fun (e : Nat × StretchSt) =>
                          (e.1, { count := e.2.count, mc := if e.2.any then e.2.mc + 22 * (c.mtime - e.2.since).toNat else e.2.mc }) }
    boot := { c.boot with entries := [], restart := false, waiting := [] }
    links := c.links, standby := c.standby, msiDrops := c.msiDrops
    insts := [(0, { st := .active })]
    mcs := c.mcs.map fun (e : Nat × Mc) => (e.1, e.2.warm)
    flow := { lookups := c.flow.lookups, hits := c.flow.hits }
    eths := c.eths.map fun (e : Nat × EthPort) =>
      (e.1, { macs := e.2.macs.map fun (m : Nat × EthMac) => (m.1, { cnt := m.2.cnt }) })
    engines := c.engines.map fun (e : Nat × Engine) =>
      (e.1, { counts := e.2.counts, inB := e.2.inB, outB := e.2.outB,
              lanes := e.2.lanes.map fun (l : Nat × Lane) => (l.1, { cycles := l.2.cycles, items := l.2.items }) })
    pxs := c.pxs.map fun (e : Nat × Px) => (e.1, { subs := e.2.subs.map fun (s : Nat × Sub) =>
      (s.1, { l1Count := s.2.l1Count, cto := s.2.cto, unexp := s.2.unexp, epRx := s.2.epRx, discard := s.2.discard }) }) }
  let n := { n with cores := n.bootCores, units := c.bootUnits true }
  n.bootRole.pwrStatus.allSums.setReg uBellwether 0 0x1044 (c.reg uBellwether 0 0x1044)

/-- WARM_RESET (R490): steps 1 and 2, then steps 5 and 6 of R491 on the modules of the last cold boot; HART_RELEASE goes on
from there. Before a first training there is nothing to restore, and RESET_N is ignored while PWRGOOD is low (R507). -/
def Chip.warmReset (c : Chip) : Chip :=
  if !c.pwr.pwrgood || !c.pwr.clocks || c.boot.pops.isEmpty then c else c.warmed.trainAll c.boot.pops

/-- POWER_LOSS (R504, R507): every clock but the Bellwether clock stops, the lands return to their PWRGOOD-low state, DRAM
contents are lost. -/
def Chip.powerLoss (c : Chip) : Chip :=
  if !c.pwr.pwrgood then c
  else
    let p : Power := { prochot := c.pwr.prochot, perst0 := c.pwr.perst0, thermtrip := c.pwr.thermtrip, straps := c.pwr.straps }
    { c.hartsOff with pwr := p, mem := [], poison := [] }

end Sys2Proof.Machine
end

