-- ==== Sys2Proof/Machine/Maint.lean ====
section
/-! DEFINITION. Maintenance of an L2 or an L3 slice by set and way (R174-R177). -/

namespace Sys2Proof.Machine

/-- Occupied positions that an operation visits, from one on, in ascending set and way. -/
def visitKeys {α : Type} (m : Sparse α) (pos : MaintPos) (ways from_ : Nat) : List Nat :=
  (m.filter fun e => visits pos e.1 ways && decide (from_ ≤ e.1)).map (·.1)

/-- A visit of an L2 position (R174): 1 CLEAN, 2 INVAL, 3 CLEAN_INVAL. -/
def Chip.l2Visit (c : Chip) (k op key : Nat) : Chip :=
  match Sparse.find (c.core k).l2 key with
  | none => c
  | some l => if op = 1 then c.cleanKeep k l.line else c.evict k l.line (decide (op = 2))

/-- The positions that follow the last of an L2 (R147). -/
def l2End : Nat := 16 * 1024

/-- Up to n visits in ascending order (R174), which wait while the writeback buffer has no room or a request for the visited
line is outstanding (R149; log 14). A position is visited when its turn comes, whatever filled it before. -/
def Chip.l2Visits (c : Chip) (k op : Nat) (pos : MaintPos) : Nat → Nat → Chip
  | _, 0 => c
  | from_, n + 1 =>
    let to_ (c : Chip) (p : Nat) : Chip := c.modCore k fun x => { x with maint := x.maint.map fun (m : MaintSt) => { m with next := p } }
    match visitKeys (c.core k).l2 pos 16 from_ with
    | [] => to_ c l2End
    | key :: _ =>
      let stuck := decide (16 ≤ (c.core k).wb.length)
        || (((Sparse.find (c.core k).l2 key).bind fun l => (c.core k).pending l.line).isSome)
      if stuck then to_ c key else Chip.l2Visits (to_ (c.l2Visit k op key) (key + 1)) k op pos (key + 1) n

/-- L2_MAINT_CLEAN, L2_MAINT_INVAL, L2_MAINT_CLEAN_INVAL once accepted (R174, R177). -/
def Chip.l2MaintStart (c : Chip) (k op : Nat) (pos : MaintPos) : Chip :=
  (c.modCore k fun x => { x with maint := some { op := op, pos := pos } }).l2Visits k op pos 0 (l2End + 1)

/-- A visit of an L3 position (R174): a placeholder's pen closes first, as for a non-reduction access. -/
def Chip.l3Visit (c : Chip) (i op key : Nat) : Chip :=
  let c := match Sparse.find (c.home i).l3 key with
    | some l => if l.pen then c.closeForAccess i l.line else c
    | none => c
  match Sparse.find (c.home i).l3 key with
  | none => c
  | some l =>
    let c := if op ≠ 2 ∧ l.dirty = true then c.memPut i l.line l.data l.poison else c
    if op = 1 then c.modHome i fun x => { x with l3 := Sparse.put x.l3 key { l with dirty := false } }
    else c.modHome i fun x => { x with l3 := Sparse.del x.l3 key }

/-- L3_MAINT_CLEAN, L3_MAINT_INVAL, L3_MAINT_CLEAN_INVAL once accepted (R174, R177). -/
def Chip.l3MaintStart (c : Chip) (i op : Nat) (pos : MaintPos) : Chip :=
  let c := c.modHome i fun x => { x with maint := some { op := op, pos := pos } }
  (visitKeys (c.home i).l3 pos 32 0).foldl (fun (c : Chip) key => c.l3Visit i op key) c

/-- MAINT_DONE (R175, R176, R352): BUSY clears once every position has been visited. -/
def Chip.maintDone (c : Chip) (u : Nat) : Chip :=
  match kindOf u with
  | .core =>
    let k := coreOfUnit u
    match (c.core k).maint with
    | none => c
    | some m =>
      let c := c.l2Visits k m.op m.pos m.next (l2End + 1)
      if (c.core k).maint.any fun (n : MaintSt) => decide (l2End ≤ n.next) then c.modCore k fun x => { x with maint := none } else c
  | .l3Slice => c.modHome (tileOfUnit u) fun x => { x with maint := none }
  | .droverCluster => c.dvMaintDone (u - 25)
  | _ => c

end Sys2Proof.Machine
end

