-- ==== Sys2Proof/Machine/Control.lean ====
section
/-! DEFINITION. Control space: register reads and writes with every check and side effect (R48-R69, R514, R515), Unit
Descriptors (R28-R41), RAS bank pages (R418-R422, R518), MSI-X structures (R382), and the register checks of the block
chapters (R177, R229-R233, R258, R299-R303, R331-R333, R351-R353, R359, R368, R389, R395, R396, R415, R416, R440-R442,
R463-R468, R499). -/

namespace Sys2Proof.Machine

/-! Selected structures. -/

/-- The bank of a register that acts on what a selector of its block names (R302, R331, R351, R387, R415). -/
def Chip.bankOf (c : Chip) (u off : Nat) : Nat :=
  match kindOf u with
  | .flowTable => if 0x1098 ≤ off ∧ off < 0x10C0 then c.regFld u 0 0x1094 12 0 + 8192 * c.regFld u 0 0x1094 16 16 else 0
  | .shears => if 0x1054 ≤ off ∧ off < 0x1078 then c.regFld u 0 0x1050 7 0 else 0
  | .droverCluster =>
    if (0x1058 ≤ off ∧ off < 0x1060) ∨ (0x1100 ≤ off ∧ off < 0xE000) then c.regFld u 0 0x1054 4 0
    else if 0x1060 ≤ off ∧ off < 0x1084 then c.regFld u 0 0x1054 13 8 else 0
  | .busPort => if 0x105C ≤ off ∧ off < 0x1078 then c.regFld u 0 0x1058 3 0 else 0
  | .instMgmt =>
    let iid := c.regFld u 0 0x1040 15 0
    if off = 0x1054 ∨ off = 0x1058 then imRangeBank iid (c.regFld u 0 0x1050 3 0)
    else if off = 0x1080 ∨ off = 0x1084 then imLimiterBank (c.regFld u 0 0x107C 11 0)
    else if off = 0x1048 ∨ off = 0x104C ∨ off = 0x105C ∨ off = 0x106C ∨ (0x1088 ≤ off ∧ off < 0x10A4) then iid else 0
  | _ => 0

/-- The admin ring that FT_ADMIN_ registers and FT_CTL.ADMIN_EN act on for a source (R395). -/
def admInst (src : Src) : Nat := if src = .pf1 then 1 else 0

/-- An FT_ADMIN_ register. -/
def ftAdmin (u off : Nat) : Bool := decide (u = uFlow) && decide (0x1080 ≤ off) && decide (off ≤ 0x1090)

/-- Where the value of a register is stored: an FT_ADMIN_ register is the view of an instance's IM_ADM_ register (log 24). -/
def Chip.place (c : Chip) (src : Src) (u off : Nat) : Nat × Nat × Nat :=
  if ftAdmin u off then (uIm, admInst src, off + 8) else (u, c.bankOf u off, off)

/-- The ring that a register configures or shows. -/
def Chip.ringAt (c : Chip) (src : Src) (u off : Nat) : Option RingId :=
  let p := c.place src u off
  match regRing (regKey p.1 p.2.1 p.2.2) with
  | some (.inl r) => some r
  | _ => none

/-- The enable register of a ring. -/
def ringEnOff (u off : Nat) : Bool :=
  match kindOf u with
  | .flowTable => off = 0x109C | .shears => off = 0x1058 | .droverCluster => off = 0x1064 | .instMgmt => off = 0x109C | _ => false

/-! Values as they read. -/

/-- A ring's enable word, its producer and consumer index. -/
def Ring.enWord (x : Ring) : Word := BitVec.ofNat 32 (bit x.en + 2 * bit x.quiesced)

/-- The common header (R54). -/
def Chip.headerView (c : Chip) (u off : Nat) : Word :=
  let m := c.mbox u
  let e : LastErr := Sparse.at c.ctl.last {} u
  let f := c.faultsOf u
  match off with
  | 0x1000 => BitVec.ofNat 32 (u % 2 ^ 16 + 2 ^ 16 * (kindOf u).code) ||| ((Config.blockVersion u).setWidth 32 <<< 24)
  | 0x1004 => BitVec.ofNat 32 (bit (!f.isEmpty) + 256 * min 255 f.length)
  | 0x1008 => BitVec.ofNat 32 ((f.map fun k => k % 2 ^ 28).foldl min (if f.isEmpty then 0 else 2 ^ 28))
  | 0x100C => BitVec.ofNat 32 (e.code + 256 * e.count)
  | 0x1010 => e.offset
  | 0x1020 => BitVec.ofNat 32 m.sel
  | 0x1024 => BitVec.ofNat 32 (bit m.valid + 2 * bit m.pend + 256 * m.seq)
  | 0x1030 => m.data.setWidth 32
  | 0x1034 => (m.data >>> 32).setWidth 32
  | 0x1038 => (m.data >>> 64).setWidth 32
  | 0x103C => (m.data >>> 96).setWidth 32
  | _ => c.reg u 0 off

/-- BUSY in bit 31 of a maintenance register (R175, R176, R351). -/
def maintView (w : Word) (busy : Bool) : Word := setFld w 31 31 (bit busy)

/-- IM_RBASE, IM_RCOUNT and IM_FLOWQ of PF0: what it holds of the pool (R394, R415; DEDUCED, log 38). -/
def Chip.pf0Holds (c : Chip) (off : Nat) : Word :=
  let k := c.regFld uIm 0 0x1050 3 0
  let others := c.insts.filter fun e => decide (e.1 ≠ 0) && decide (e.2.st ≠ .absent)
  let sum (f : Inst → Nat) : Nat := (others.map fun e => f e.2).sum
  if off = 0x105C then (if c.fuse.eth = 0 then 0 else BitVec.ofNat 32 (2 ^ 20 - sum fun x => x.quota))
  else if off = 0x1054 then BitVec.ofNat 32 (((List.range (c.poolSize k)).find? fun n => decide (c.ownerOf k n = 0)).getD 0)
  else if k = 8 then BitVec.ofNat 32 (c.poolSize k)
  else BitVec.ofNat 32 (c.poolSize k - sum fun x => (x.range k).2)

/-- Instance-management registers that show an instance (R400-R402, R415). -/
def Chip.imView (c : Chip) (bank off : Nat) : Word :=
  let iid := c.regFld uIm 0 0x1040 15 0
  let x := c.inst iid
  let w := c.reg uIm bank off
  match off with
  | 0x1044 => BitVec.ofNat 32 (fld w 3 0 + 2 ^ 9 * bit c.imBusy.isSome + 2 ^ 12 * c.imResult)
  | 0x1048 =>
    let q := (c.ringsOf iid).all fun r => (c.ring r).quiesced
    BitVec.ofNat 32 (x.st.code + 8 * bit x.dirty.isSome + 16 * fld w 4 4 + 32 * bit q + 256 * x.slots)
  | 0x1054 => if iid = 0 then c.pf0Holds off else w
  | 0x1058 => if iid = 0 then c.pf0Holds off else w
  | 0x105C => if iid = 0 then c.pf0Holds off else w
  | 0x106C => BitVec.ofNat 32 (c.blobSize iid)
  | 0x109C => (c.ring (.adm iid)).enWord
  | _ => w

/-- A register as it reads, before RC side effects (R52, R59): fields that the block keeps up to date are computed. -/
def Chip.view (c : Chip) (src : Src) (u off : Nat) : Word :=
  let p := c.place src u off
  let bank := p.2.1
  let w := c.reg p.1 p.2.1 p.2.2
  let ring (f : Ring → Word) : Word := match c.ringAt src u off with
    | some r => f (c.ring r)
    | none => 0
  if off < 0x1040 then c.headerView u off
  else
    match kindOf u with
    | .core => if off = 0x1044 then maintView w (c.core (coreOfUnit u)).maint.isSome else w
    | .l3Slice =>
      let i := tileOfUnit u
      if off = 0x1080 then maintView w (c.home i).maint.isSome
      else if off = 0x1108 then c.redOcc i
      else if 0x1180 ≤ off then c.penReg i ((off - 0x1180) / 4) else w
    | .package => if 0x5000 ≤ off ∧ off < 0x5A80 ∧ off % 0x40 = 0 then c.tbCtl ((off - 0x5000) / 0x40) else w
    | .flowTable =>
      match off with
      | 0x1040 => BitVec.ofNat 32 (fld w 0 0 + 2 * bit (c.ring (.adm (admInst src))).en)
      | 0x104C => BitVec.ofNat 32 c.flow.ents.length
      | 0x1050 => BitVec.ofNat 32 c.flow.slots.length
      | 0x1080 => BitVec.ofNat 32 (fld w 4 0 + 2 ^ 8 * fld w 12 8)
      | 0x109C => ring Ring.enWord
      | 0x10B8 => ring fun x => BitVec.ofNat 32 x.acc
      | 0x10BC => ring fun x => BitVec.ofNat 32 x.ci
      | _ => w
    | .shears =>
      match off with
      | 0x104C => BitVec.ofNat 32 (c.lanesBusy (u - 23))
      | 0x1058 => ring Ring.enWord
      | 0x1070 => ring fun x => BitVec.ofNat 32 x.acc
      | 0x1074 => ring fun x => BitVec.ofNat 32 x.ci
      | _ => w
    | .droverCluster =>
      let k := c.dvCore (u - 25) bank
      match off with
      | 0x1050 => maintView w (c.drover (u - 25)).maint.isSome
      | 0x1058 => BitVec.ofNat 32 (bit k.run + 2 * bit k.halted + 4 * bit k.waiting + 256 * (k.cause % 16))
      | 0x1064 => ring Ring.enWord
      | 0x107C => ring fun x => BitVec.ofNat 32 x.acc
      | 0x1080 => ring fun x => BitVec.ofNat 32 x.ci
      | _ => w
    | .bellwether =>
      if off = 0x104C then BitVec.ofNat 32 (fld w 15 0 + 2 ^ 17 * bit c.migBusy + 2 ^ 18 * c.migRes) else w
    | .instMgmt => c.imView bank off
    | _ => w

/-! Fields. -/

def Fld.mask (f : Fld) : Nat := (2 ^ (f.hi + 1 - f.lo) - 1) * 2 ^ f.lo

/-- Bits of a register whose field has a property. -/
def RegDef.bits (r : RegDef) (p : Fld → Bool) : Word := BitVec.ofNat 32 (((r.fields.filter p).map Fld.mask).sum)

/-- The stored value after an accepted write (R52). -/
def RegDef.merge (r : RegDef) (old v : Word) : Word :=
  let m (a : Acc) : Word := r.bits fun f => decide (f.acc = a)
  ((old &&& ~~~ (m .rw)) ||| (v &&& m .rw) ||| (v &&& m .w1s)) &&& ~~~ (v &&& m .w1c)

/-- A 1 in a reserved bit (R52). -/
def RegDef.setsReserved (r : RegDef) (v : Word) : Bool := v &&& (r.bits fun f => decide (f.acc = .rsv)) ≠ 0

/-- A written field outside its enumeration or range (R53). -/
def RegDef.outOfRange (r : RegDef) (v : Word) : Bool :=
  r.fields.any fun f => !f.ok.isEmpty && !(f.ok.any fun e => decide (e.1 ≤ fld v f.hi f.lo) && decide (fld v f.hi f.lo ≤ e.2))

/-- The write would set an enable bit from 0 to 1 (R64). -/
def RegDef.enables (r : RegDef) (old v : Word) : Bool := v &&& ~~~ old &&& (r.bits fun f => f.en) ≠ 0

/-! The checks of the block chapters, in the classes of R514. `v` is the written word, `old` the register as it reads. -/

/-- A function that a source reaches a block through, or control space itself (R379, R380, R392). The instance-management
block lies in BAR0 only. -/
def Chip.seesBlock (c : Chip) (src : Src) (u : Nat) : Bool :=
  hasBlock (kindOf u) && decide (u ≤ uIm) &&
    match src with
    | .hart _ => decide (u ≠ uIm)
    | .bellwether => decide (u ≠ uIm)
    | _ => match kindOf u with
      | .flowTable => c.present u | .ethPort => c.present u
      | .shears => true | .droverCluster => true | .instMgmt => true | _ => false

/-- PF1's writes that R395 rejects with NOT_PRESENT. -/
def Chip.pf1Absent (c : Chip) (u off : Nat) (v old : Word) : Bool :=
  let own (kind n : Nat) : Bool := c.reaches .pf1 (c.ownerOf kind n)
  let ringOwn : Bool := match c.ringAt .pf1 u off with
    | some r => c.reaches .pf1 (c.ringOwner r)
    | none => true
  if u = uIm then false
  else if off = 0x1018 then true
  else if off = 0x1020 then
    match itemOwner u (fld v 23 0) with
    | some (k, n) => !own k n
    | none => true
  else if off < 0x1040 then false
  else match kindOf u with
    | .ethPort => true
    | .flowTable =>
      if off = 0x1040 then fld v 0 0 ≠ fld old 0 0
      else if off = 0x1044 ∨ off = 0x1048 ∨ (0x1054 ≤ off ∧ off ≤ 0x1078) then true
      else if off = 0x1094 then !own (fld v 16 16) (fld v 12 0) else !ringOwn
    | .shears =>
      if off ≤ 0x1048 then true else if off = 0x1050 then !own (2 + (u - 23)) (fld v 7 0) else !ringOwn
    | .droverCluster =>
      let d := u - 25
      if off = 0x1040 ∨ off = 0x1044 ∨ off = 0x1048 ∨ off = 0x1050 then true
      else if off = 0x1054 then !own (6 + d) (fld v 4 0) || !own (4 + d) (fld v 13 8)
      else if off = 0x1058 ∨ off = 0x105C ∨ 0x1100 ≤ off then !own (6 + d) (c.bankOf u off) else !ringOwn
    | _ => false

/-- NOT_PRESENT of a write to a present block (R395, R396, R415, R442, R462). -/
def Chip.absentFor (c : Chip) (src : Src) (u off : Nat) (v old : Word) : Bool :=
  if src = .pf1 ∧ c.pf1Absent u off v old = true then true
  else match kindOf u with
    | .package =>
      if off = 0x4014 then
        let t := c.regFld 0 0 0x4010 15 0
        decide (fld v 16 16 = 1) && !(decide (t ≤ 512) && c.present t)
      else if 0x5000 ≤ off ∧ off < 0x5A80 then !c.present (bankUnit ((off - 0x5000) / 0x40)) else false
    | .droverCluster =>
      if off = 0x1060 then
        decide (c.ownerOf (6 + (u - 25)) (fld v 20 16) ≠ c.ownerOf (4 + (u - 25)) (c.bankOf u off))
      else false
    | .instMgmt => if off = 0x107C then decide (c.ownerOf 9 (fld v 11 0) ≠ c.regFld u 0 0x1040 15 0) else false
    | _ => false

/-- LOCKED (R56, R229, R233, R395, R415): the lock of the register, and the locks that a chapter states. -/
def Chip.lockedFor (c : Chip) (src : Src) (u off : Nat) (r : RegDef) : Bool :=
  (match r.lock with
    | .free => false
    | .lockable => decide (c.regFld u 0 0x1018 0 0 = 1)
    | .whileOn o m => decide ((c.view src u o).toNat &&& m ≠ 0)
    | .mset => decide (c.regFld 0 0 0x2400 0 0 = 1))
  || (decide (u = uIm) &&
      (decide (src = .pf1) ||
        ((decide (off = 0x104C) || decide (off = 0x1054) || decide (off = 0x1058) || decide (off = 0x105C))
          && decide ((c.inst (c.regFld uIm 0 0x1040 15 0)).st ≠ .absent))))

/-- Enabled queues of a unit, which keep it from Off (R38). -/
def Chip.queuesOn (c : Chip) (u : Nat) : Bool :=
  (c.rings.filter fun e => e.2.en).any fun e => match ringOfKey e.1 with
    | .tx q => decide (uEth (c.regFld uFlow (8192 + q) 0x1098 0 0) = u)
    | .sh x _ => decide (uShears x = u)
    | .dv d r => decide (uDrover d = u) || decide (uDvCore d (c.regFld (uDrover d) r 0x1060 20 16) = u)
    | _ => false

/-- A ring may be enabled now: it is quiesced and its instance is ACTIVE (R407). -/
def Chip.ringIdle (c : Chip) (r : RingId) : Bool := (c.ring r).quiesced && decide ((c.inst (c.ringOwner r)).st = .active)

/-- BUSY (R177, R201, R258, R300, R352, R359, R401, R404, R407, R442, R464). -/
def Chip.busyFor (c : Chip) (src : Src) (u off : Nat) (v old : Word) : Bool :=
  let rises (i : Nat) : Bool := v.getLsbD i && !old.getLsbD i
  let start := v.getLsbD 30 && old.getLsbD 31
  let ringBusy : Bool := match c.ringAt src u off with
    | some r => decide ((c.inst (c.ringOwner r)).st = .resetting) || (ringEnOff u off && rises 0 && !c.ringIdle r)
    | none => false
  if off = 0x1020 then (c.mbox u).pend
  else if off < 0x1040 then false
  else match kindOf u with
    | .core => decide (off = 0x1044) && start
    | .l3Slice => (decide (off = 0x1080) && start) || (decide (off = 0x1100) && v.getLsbD 0 && old.getLsbD 1)
    | .package =>
      if off = 0x4014 then v.getLsbD 16 && old.getLsbD 16
      else if 0x5000 ≤ off ∧ off < 0x5A80 ∧ (c.bank ((off - 0x5000) / 0x40)).run = true then
        off % 0x40 ≠ 0 || v.getLsbD 2 || decide (fld v 1 0 ≠ fld old 1 0)
      else false
    | .memCtrl =>
      if off = 0x1044 then 2 ≤ c.spareState (u - 5) || c.setNamesChan (u - 5)
      else decide (off = 0x1048) && v.getLsbD 19 && decide (c.spareState (u - 5) ≠ 1)
    | .ethPort => decide (off = 0x1040) && decide (fld v 1 0 ≠ fld old 1 0) && c.queuesOn u
    | .flowTable => (decide (off = 0x1040) && rises 1 && !c.ringIdle (.adm (admInst src))) || ringBusy
    | .shears => ringBusy
    | .droverCluster =>
      if off = 0x1050 then start
      else if off = 0x1058 then
        rises 0 && !(decide ((c.unit (uDvCore (u - 25) (c.bankOf u off))).cur = 0) && decide (c.regFld u 0 0x1040 0 0 = 1))
      else ringBusy
    | .bellwether => decide (off = 0x104C) && v.getLsbD 16 && (c.migBusy || !c.bwServes)
    | .instMgmt => (decide (off = 0x1044) && v.getLsbD 8 && c.imBusy.isSome) || ringBusy
    | _ => false

/-- A ring vector outside its instance's range (R382, R396). -/
def Chip.badVector (c : Chip) (r : RingId) (v : Nat) : Bool :=
  let iid := c.ringOwner r
  let g := (c.inst iid).range 8
  if iid = 0 then decide (2048 ≤ v) else !(decide (g.1 ≤ v) && decide (v < g.1 + g.2))

/-- A message target with EN = 1 that names no hart or identity 0 (R440, R468). -/
def Chip.badTarget (c : Chip) (v : Word) : Bool :=
  v.getLsbD 31 && (decide (c.nHarts ≤ fld v 15 0) || decide (fld v 26 16 = 0))

/-- BAD_VALUE of the block chapters, beyond ranges and reserved bits. -/
def Chip.badFor (c : Chip) (src : Src) (u off : Nat) (v old : Word) : Bool :=
  let rises (i : Nat) : Bool := v.getLsbD i && !old.getLsbD i
  let low := decide (fld v 11 0 ≠ 0)
  let start := v.getLsbD 30 && decide (fld v 1 0 = 0)
  let vec (n : Nat) : Bool := match c.ringAt src u off with
    | some r => c.badVector r n
    | none => false
  if off = 0x1020 then (c.boxItem u (fld v 23 0)).isNone
  else if off < 0x1040 then false
  else match kindOf u with
    | .core => decide (off = 0x1044) && start
    | .l3Slice => (decide (off = 0x1080) && start) || (decide (0x1040 ≤ off) && decide (off < 0x1080) && decide (fld v 23 0 = 0))
    | .package =>
      if off = 0x4000 ∨ off = 0x4004 ∨ off = 0x5C00 then c.badTarget v
      else if off = 0x4014 then
        let s := fld v 7 0
        v.getLsbD 16 && (!(structKinds s).contains (kindOf (c.regFld 0 0 0x4010 15 0)) || (v.getLsbD 10 && !structLines s))
      else if off = 0x600C then v.getLsbD 0 && v.getLsbD 1
      else if 0x5000 ≤ off ∧ off < 0x5A80 ∧ off % 0x40 = 0 then
        (decide (0x5500 ≤ off) && decide (fld v 1 0 = 1)) || (v.getLsbD 2 && decide (fld v 1 0 = 0))
      else false
    | .memCtrl =>
      let n := u - 5
      let pr := c.ranksPresent n
      if off = 0x1044 then
        v.getLsbD 3 && (decide (c.regFld u 0 0x1040 1 0 ≠ 1) || decide (pr / 2 ^ fld v 2 0 % 2 = 0)
          || decide (((List.range 8).filter fun k => pr / 2 ^ k % 2 = 1).length < 2))
      else decide (off = 0x1048) && v.getLsbD 19 && !(c.activeRanks n).contains (fld v 18 16)
    | .ethPort =>
      if off = 0x1044 then decide (fld v 7 0 / 2 ^ c.macCount (u - 21) ≠ 0)
      else if off = 0x1050 then v.getLsbD 16 && decide (fld v 15 0 ≠ 0)
      else if off = 0x1054 then decide (fld v 10 0 ≤ fld v 26 16)
      else if 0x1060 ≤ off then
        v.getLsbD 31 && (decide (fld v 13 0 = 0) || decide (8000 < fld v 13 0) || decide (fld v 25 16 = 0))
      else false
    | .flowTable =>
      if off = 0x1040 then rises 1 && decide (src = .pf1) && decide ((c.inst 1).quota = 0)
      else if off = 0x1084 ∨ off = 0x108C ∨ off = 0x10A0 ∨ off = 0x10A8 then low
      else if off = 0x1098 then v.getLsbD 0 && decide (c.fuse.eth < 2)
      else if off = 0x109C then
        let q := c.reg u (c.bankOf u off) 0x1098
        rises 0 && decide (8192 ≤ c.bankOf u off) && decide (c.macCount (fld q 0 0) ≤ fld q 3 1)
      else if off = 0x10B0 then decide (c.nHarts ≤ fld v 15 0)
      else if off = 0x10B4 then vec (fld v 10 0) else false
    | .shears =>
      if off = 0x105C ∨ off = 0x1064 then low else if off = 0x106C then vec (fld v 10 0) else false
    | .droverCluster =>
      if off = 0x1068 ∨ off = 0x1070 then low
      else if off = 0x1078 then vec (fld v 10 0)
      else if off = 0x105C then decide (fld v 15 0 = 0)
      else if off = 0x1050 then start
      else if off = 0x1064 then
        let n := c.bankOf u off
        rises 0 && decide (c.ownerOf (6 + (u - 25)) (c.regFld u n 0x1060 20 16) ≠ c.ownerOf (4 + (u - 25)) n)
      else false
    | .bellwether => decide (off = 0x104C) && v.getLsbD 16 && decide (c.nHarts ≤ fld v 15 0)
    | .busPort => decide (off = 0x1040) && decide (u = uPx 0) && c.endpoint && (decide (fld v 2 1 ≠ 0) || v.getLsbD 6)
    | .instMgmt =>
      let iid := c.regFld u 0 0x1040 15 0
      match off with
      | 0x1040 => !c.iidDefined (fld v 15 0)
      | 0x1044 => v.getLsbD 8 && decide (fld v 3 0 = 0)
      | 0x1058 => decide (c.poolSize (c.regFld u 0 0x1050 3 0) < fld v 13 0)
      | 0x105C => decide (c.fuse.eth = 0) && decide (fld v 20 0 ≠ 0)
      | 0x1060 => low
      | 0x1070 => low
      | 0x1084 => decide (c.ownerOf 1 (fld v 12 0) ≠ iid)
      | 0x1088 => vec (fld v 26 16)
      | 0x108C => low
      | 0x1094 => low
      | 0x109C => rises 0 && (decide (c.fuse.eth = 0) || decide (iid ≠ 0) && decide ((c.inst iid).quota = 0))
      | _ => false
    | _ => false

/-- The first failing check of R514 on a plain register; none when the write is accepted. -/
def Chip.regCheck (c : Chip) (src : Src) (u off : Nat) (r : RegDef) (v : Word) : Option Nat :=
  let old := c.view src u off
  if c.absentFor src u off v old then some errNotPresent
  else if c.lockedFor src u off r then some errLocked
  else if r.setsReserved v then some errBadValue
  else if c.held u && r.enables old v then some errHeld
  else if c.busyFor src u off v old then some errBusy
  else if r.outOfRange v || c.badFor src u off v old then some errBadValue
  else none

/-! Accepted writes. -/

/-- A stored value clears the fault of its register (R65). -/
def Chip.clearFault (c : Chip) (u bank off : Nat) : Chip :=
  { c with ctl := { c.ctl with faulted := NatSet.erase c.ctl.faulted (regKey u bank off) } }

/-- A ring's enable bit written (R407). -/
def Chip.ringSwitch (c : Chip) (r : RingId) (on : Bool) : Chip :=
  if on && !(c.ring r).en then c.ringEnable r else if !on && (c.ring r).en then c.ringStop r else c

/-- A bit-set position from a maintenance register: ALL, SET, WAY. -/
def maintPos (v : Word) (setHi wayHi : Nat) : MaintPos := { all := v.getLsbD 2, set := fld v setHi 16, way := fld v wayHi 8 }

/-- PX_LINK_CTL (R387, R504): EN releases the PERST lands of the sub-links, or takes the links down; RETRAIN brings every
link back through recovery, out of L1 (log 39). -/
def Chip.linkCtl (c : Chip) (p : Nat) (v old : Word) : Chip :=
  let subs := List.range (c.sublinks p).length
  let c := if v.getLsbD 0 && !old.getLsbD 0 then
      { c with pwr := { c.pwr with perstUp := subs.foldl (fun l s => NatSet.insert l (4 * p + s)) c.pwr.perstUp } }
    else if !v.getLsbD 0 && old.getLsbD 0 then
      let c := (List.range 4).foldl (fun (c : Chip) s => c.subLinkDown p s) c
      { c with pwr := { c.pwr with perstUp := c.pwr.perstUp.filter fun k => k / 4 ≠ p } }
    else c
  if v.getLsbD 1 then subs.foldl (fun (c : Chip) s => c.l1Leave p s) c else c

/-- TB_CTL (R463, R464, R467): DONE cleared, then START or STOP. -/
def Chip.tbWrite (c : Chip) (b : Nat) (v : Word) : Chip :=
  let c := if v.getLsbD 5 then c.modBank b fun x => { x with done := false } else c
  let c := if v.getLsbD 2 then c.tallyStart b else c
  if v.getLsbD 3 then c.tallyEnd b else c

/-- A bucket full to BURST KiB (R300, R416). -/
def Chip.fullBucket (c : Chip) (v : Word) : Bucket := { tokens := ((fld v 25 16 * 8192 : Nat) : Int), last := c.mtime.toNat }

/-- What an accepted write does beside storing its value. -/
def Chip.regEffect (c : Chip) (src : Src) (u off : Nat) (v old : Word) : Chip :=
  let rises (i : Nat) : Bool := v.getLsbD i && !old.getLsbD i
  let switch : Chip := match c.ringAt src u off with
    | some r => if ringEnOff u off then c.ringSwitch r (v.getLsbD 0) else c
    | none => c
  if off = 0x100C then (if v.getLsbD 16 then { c with ctl := { c.ctl with last := Sparse.del c.ctl.last u } } else c)
  else if off = 0x1020 then c.setMbox u { c.mbox u with sel := fld v 23 0, valid := false, pend := true }
  else if off < 0x1040 then c
  else match kindOf u with
    | .core => if off = 0x1044 ∧ v.getLsbD 30 = true then c.l2MaintStart (coreOfUnit u) (fld v 1 0) (maintPos v 25 11) else c
    | .l3Slice =>
      if off = 0x1080 ∧ v.getLsbD 30 = true then c.l3MaintStart (tileOfUnit u) (fld v 1 0) (maintPos v 26 12)
      else if off = 0x1100 ∧ v.getLsbD 0 = true then c.startDrain (tileOfUnit u) else c
    | .package =>
      if off = 0x2400 ∧ v.getLsbD 0 = true then
        let mine (k : Nat) : Bool := decide (regKey 0 0 0x2000 ≤ k) && decide (k < regKey 0 0 0x2400)
        { c with ctl := { c.ctl with pend := c.ctl.pend.filter (fun e => !mine e.1), armed := c.ctl.armed.filter fun e => !mine e.1 } }
      else if 0x5000 ≤ off ∧ off < 0x5A80 ∧ off % 0x40 = 0 then c.tbWrite ((off - 0x5000) / 0x40) v
      else if off = 0x5C04 then
        let c := if v.getLsbD 0 then c.startAll else c
        if v.getLsbD 1 then c.stopAll else c
      else if off = 0x600C then
        (if v.getLsbD 1 then c.coldBoot c.pwr.straps c.pwr.cold else if v.getLsbD 0 then c.warmReset else c)
      else c
    | .memCtrl =>
      if off = 0x1044 then c.spareSet (u - 5)
      else if off = 0x1048 ∧ v.getLsbD 19 = true then c.retireRank (u - 5) (fld v 18 16) .software else c
    | .ethPort =>
      if off = 0x1044 then
        ((List.range 8).filter fun m => old.getLsbD m && !v.getLsbD m).foldl (fun (c : Chip) m => c.ethLinkDown (u - 21) m) c
      else if 0x1060 ≤ off ∧ rises 31 = true then
        c.modEth (u - 21) fun x => { x with buckets := Sparse.put x.buckets ((off - 0x1060) / 4 + 1) (c.fullBucket v) }
      else c
    | .flowTable => if off = 0x1040 then c.ringSwitch (.adm (admInst src)) (v.getLsbD 1) else switch
    | .shears => switch
    | .droverCluster =>
      let d := u - 25
      let k := c.bankOf u off
      if off = 0x1040 then (if rises 0 then c.dvEnable d else c)
      else if off = 0x1050 then (if v.getLsbD 30 then c.dvMaintStart d (fld v 1 0) (maintPos v 23 11) else c)
      else if off = 0x1058 then (if rises 0 then c.dvRun d k else if !v.getLsbD 0 && old.getLsbD 0 then c.dvStop d k else c)
      else switch
    | .bellwether => if off = 0x104C ∧ v.getLsbD 16 = true then c.bwMigrate (fld v 15 0) else c
    | .busPort => if off = 0x1044 then c.linkCtl (u - 17) v old else c
    | .instMgmt =>
      let iid := c.regFld u 0 0x1040 15 0
      if off = 0x1044 ∧ v.getLsbD 8 = true then c.imCommand iid (fld v 3 0)
      else if off = 0x1080 ∧ rises 31 = true then
        { c with limiters := Sparse.put c.limiters (c.regFld u 0 0x107C 11 0) (c.fullBucket v) }
      else switch
    | _ => c

/-- Bits that live outside the stored registers: ring enables, RUN, ADMIN_EN, MBOX_SEL. -/
def keptElsewhere (u off : Nat) : Word :=
  if off = 0x1020 then 0xFFFFFFFF
  else if ringEnOff u off then 1
  else match kindOf u with
    | .droverCluster => if off = 0x1058 then 1 else 0
    | .flowTable => if off = 0x1040 then 2 else 0
    | _ => 0

/-- The value stored by an accepted write. -/
def Chip.regStore (c : Chip) (src : Src) (u off : Nat) (r : RegDef) (v : Word) : Chip :=
  let p := c.place src u off
  let o := c.reg p.1 p.2.1 p.2.2
  let n := r.merge o v
  let n := if ftAdmin u off ∧ off = 0x1080 then (o &&& 0x07FF0000#32) ||| (n &&& 0xF800FFFF#32) else n
  if r.bits (fun f => decide (f.acc = .rw) || decide (f.acc = .w1s) || decide (f.acc = .w1c)) = 0 then c
  else (c.setReg p.1 p.2.1 p.2.2 (n &&& ~~~ (keptElsewhere u off))).clearFault p.1 p.2.1 p.2.2

/-! Complement pairs (R59-R61, R515). -/

/-- Checks of the value of a pair at its commit that the chapters state (R231, R303, R332, R352, R368, R499). -/
def Chip.pairBad (c : Chip) (u off : Nat) (v : Word) : Bool :=
  match kindOf u with
  | .package =>
    if 0x2000 ≤ off ∧ off < 0x2400 ∧ off % 0x40 = 0x10 then
      let n := (off - 0x2000) / 0x40
      let w (o : Nat) : Word := c.reg 0 0 (msetOff n o)
      v.getLsbD 0 && !c.msetCheck n (msetOfWords (w 0) (w 8) v (w 0x18) (w 0x20))
    else false
  | .flowTable => decide (v.toNat % 0x80000 ≠ 0) || decide (v.toNat < 0x80000) || decide (0x380000 < v.toNat)
  | .shears => decide (v.toNat % 0x10000 ≠ 0) || decide (v.toNat < 0x10000) || decide (0xF0000 < v.toNat)
  | .droverCluster => off = 0x1044 && (decide (v.toNat % 0x10000 ≠ 0) || decide (v.toNat < 0x10000) || decide (0x30000 < v.toNat))
  | .busPort => !c.windowOk (u - 17) (fld v 3 0)
  | _ => false

/-- A commit that the set's own state locks (R231). -/
def Chip.pairLocked (c : Chip) (u off : Nat) (v : Word) : Bool :=
  if u = 0 ∧ 0x2000 ≤ off ∧ off < 0x2400 then
    let n := (off - 0x2000) / 0x40
    decide (c.regFld 0 0 (msetOff n 0x10) 0 0 = 1) && (off % 0x40 ≠ 0x10 || v.getLsbD 0)
  else false

/-- A commit that would set an enable bit from 0 to 1 (R64). -/
def Chip.pairEnables (c : Chip) (u off : Nat) (r : RegDef) (bank : Nat) (v : Word) : Bool :=
  r.enables (c.reg u bank off) v ||
    (match kindOf u with
      | .busPort =>
        let w : Window := Sparse.at (c.px (u - 17)).wins {} (fld v 3 0)
        (c.shadow (u - 17) (fld v 3 0)).en && !w.en
      | _ => false)

/-- The first failing check of a commit of value v at register `off`, its definition r; none when it commits. -/
def Chip.pairCheck (c : Chip) (src : Src) (u off bank : Nat) (r : RegDef) (v : Word) : Option Nat :=
  if c.lockedFor src u off r || c.pairLocked u off v then some errLocked
  else if r.setsReserved v then some errBadValue
  else if c.held u && c.pairEnables u off r bank v then some errHeld
  else if r.outOfRange v || c.pairBad u off v then some errBadValue
  else none

def Chip.pending (c : Chip) (u bank off : Nat) : Option Word := Sparse.find c.ctl.pend (regKey u bank off)
def Chip.dropPending (c : Chip) (u bank off : Nat) : Chip :=
  { c with ctl := { c.ctl with pend := Sparse.del c.ctl.pend (regKey u bank off) } }
def Chip.disarm (c : Chip) (u bank off : Nat) : Chip :=
  { c with ctl := { c.ctl with armed := Sparse.del c.ctl.armed (regKey u bank off) } }

/-- A committed value (R61, R65), and for PX_WCOMMIT the window (R368). -/
def Chip.pairStore (c : Chip) (u bank off : Nat) (v : Word) : Chip :=
  let c := (c.setReg u bank off v).clearFault u bank off
  if kindOf u = .busPort then c.windowSet (u - 17) (fld v 3 0) else c

/-- A write of X, X_LO or X_HI (R59, R60, R515). -/
def Chip.pairPend (c : Chip) (u bank off : Nat) (r : RegDef) (v : Word) : Chip :=
  let c := { c with ctl := { c.ctl with pend := Sparse.put c.ctl.pend (regKey u bank off) v } }
  if r.role = .lo then c.disarm u bank off else c

/-- A write of X_CPL, X_LO_CPL or X_HI_CPL (R59, R60, R515): the state after it, and the code of a rejection. -/
def Chip.pairCommit (c : Chip) (src : Src) (u bank off : Nat) (r : RegDef) (v : Word) : Option Nat × Chip :=
  let x := off - 4
  let rx := (regAt (kindOf u) x).getD r
  let p := c.pending u bank x
  let gone := c.dropPending u bank x
  let matches_ := decide (p = some (~~~ v))
  match r.role with
  | .loCpl =>
    if c.lockedFor src u off r then (some errLocked, gone)
    else if !matches_ then (some errPairMismatch, gone)
    else (none, { gone with ctl := { gone.ctl with armed := Sparse.put gone.ctl.armed (regKey u bank x) (~~~ v) } })
  | .hiCpl =>
    let lo := off - 12
    let rlo := (regAt (kindOf u) lo).getD r
    let gone := gone.disarm u bank lo
    if c.lockedFor src u off r then (some errLocked, gone)
    else match Sparse.find c.ctl.armed (regKey u bank lo) with
      | none => (some errPairMismatch, gone)
      | some l =>
        if !matches_ then (some errPairMismatch, gone)
        else if rlo.setsReserved l || rx.setsReserved (~~~ v) then (some errBadValue, gone)
        else if c.held u && rlo.enables (c.reg u bank lo) l then (some errHeld, gone)
        else if u = 0 ∧ fld l 1 0 ≠ 0 then (some errBadValue, gone)
        else (none, (gone.pairStore u bank lo l).pairStore u bank x (~~~ v))
  | _ =>
    match p with
    | none => (some (if c.lockedFor src u off r then errLocked else errPairMismatch), gone)
    | some q =>
      if c.lockedFor src u off r || c.pairLocked u x q then (some errLocked, gone)
      else if !matches_ then (some errPairMismatch, gone)
      else match c.pairCheck src u x bank rx q with
        | some e => (some e, gone)
        | none => (none, gone.pairStore u bank x q)

/-! One 32-bit write. -/

/-- A rejection at a block offset, recorded in the block when it is present and the source reaches it, else in the package
block (R50, R51). -/
def Chip.refuse (c : Chip) (src : Src) (u off code : Nat) : Chip :=
  c.recordErr (if c.seesBlock src u && c.present u then u else 0) code (ctlOffset u off)

/-- BAR0 of PF0 answers no block range before PHASE RUN (R494). -/
def Chip.barClosed (c : Chip) (src : Src) : Bool := decide (src = .pf0) && c.endpoint && decide (c.phase ≠ 4)

/-- A 32-bit write of a register. -/
def Chip.regWrite (c : Chip) (src : Src) (u off : Nat) (v : Word) : Chip :=
  match regAt (kindOf u) off with
  | none => c.refuse src u off errBadOffset
  | some r =>
    if !c.seesBlock src u || (r.readOnly && decide (r.role = .plain)) then c.refuse src u off errBadOffset
    else if !c.present u then c.refuse src u off errNotPresent
    else if r.role = .plain then
      match c.regCheck src u off r v with
      | some e => c.refuse src u off e
      | none => (c.regStore src u off r v).regEffect src u off v (c.view src u off)
    else
      let bank := c.bankOf u off
      if src = .pf1 ∧ c.pf1Absent u off v 0 = true then c.refuse src u off errNotPresent
      else if r.role = .x ∨ r.role = .lo ∨ r.role = .hi then
        if c.lockedFor src u off r then c.refuse src u off errLocked else c.pairPend u bank off r v
      else match c.pairCommit src u bank off r v with
        | (some e, c) => c.refuse src u off e
        | (none, c) => c

/-- The field of a register that holds a bit. -/
def RegDef.fieldOf (r : RegDef) (b : Nat) : Option Fld := r.fields.find? fun f => decide (f.lo ≤ b) && decide (b ≤ f.hi)

/-- The register and bit of an alias word (R57). -/
def aliasOf (off : Nat) : Nat × Nat := (0x1000 + 4 * (off / 4 / 32), off / 4 % 32)

/-- A 32-bit write of an alias word (R58): the write of the whole register with only that bit changed. -/
def Chip.aliasWrite (c : Chip) (src : Src) (u off : Nat) (v : Word) : Chip :=
  let (x, b) := aliasOf off
  match (regAt (kindOf u) x).map fun r => (r, r.fieldOf b) with
  | some (r, some f) =>
    if r.role ≠ .plain ∨ f.acc = .ro ∨ f.acc = .rsv ∨ f.acc = .rc ∨ c.seesBlock src u = false then c.refuse src u off errBadOffset
    else if !c.present u then c.refuse src u off errNotPresent
    else
      let base := c.view src u x &&& r.bits fun g => decide (g.acc = .rw)
      let w := setFld base b b (fld v 0 0)
      match c.regCheck src u x r w with
      | some e => c.refuse src u off e
      | none => (c.regStore src u x r w).regEffect src u x w (c.view src u x)
  | _ => c.refuse src u off errBadOffset

/-! Unit Descriptors (R30, R34-R38). -/

def Chip.refuseDesc (c : Chip) (u off code : Nat) : Chip := c.recordErr 0 code (BitVec.ofNat 32 (0x40 * u + off))

/-- A write of REQ is rejected with BUSY (R38, R389). -/
def Chip.powerBusy (c : Chip) (u req : Nat) : Bool :=
  (decide (req = 2) && ((c.unit u).busy || c.queuesOn u
    || (decide (kindOf u = .droverCluster) && (List.range 32).any fun k => (c.dvCore (u - 25) k).run)
    || (decide (kindOf u = .busPort) && (decide (c.regFld u 0 0x1044 0 0 = 1) || c.setNames (u - 17)))))
  || (decide (req = 0) && decide (kindOf u = .droverCore) && decide ((c.unit (parentOf u)).cur = 2))

/-- A 32-bit write of a descriptor word. -/
def Chip.descWrite (c : Chip) (u off : Nat) (v : Word) : Chip :=
  let fold := decide (kindOf u = .fold)
  if 512 < u ∨ (off ≠ 0x14 ∧ off ≠ 0x18) ∨ (off = 0x14 ∧ isGroup u = true) ∨ (off = 0x18 ∧ !reqWritable u ∧ !fold) then
    c.refuseDesc u off errBadOffset
  else if !c.present u then c.refuseDesc u off errNotPresent
  else if off = 0x14 then
    if fld v 7 5 ≠ 0 ∨ fld v 31 16 ≠ 0 then c.refuseDesc u off errBadValue
    else c.modUnit u fun x => { x with err := x.err &&& ~~~ (v.setWidth 5) }
  else if fld v 3 2 ≠ 0 ∨ fld v 7 7 ≠ 0 ∨ fld v 31 12 ≠ 0 then c.refuseDesc u off errBadValue
  else if fold then
    if 0xC ≤ fld v 11 8 then c.refuseDesc u off errBadValue else (c.oppRequest (u - 29) (fld v 11 8)).clearFault 0 (1 + u) 0x18
  else
    let req := fld v 1 0
    if c.powerBusy u req then c.refuseDesc u off errBusy
    else if req = 1 ∨ req = 3 then c.refuseDesc u off errBadValue
    else (c.powerRequest u req).clearFault 0 (1 + u) 0x18

/-! RAS bank pages (R418, R422, R518). -/

/-- Unit and page offset of a bank page of the package block. -/
def bankPage (off : Nat) : Option (Nat × Nat) :=
  if 0x100000 ≤ off ∧ off < 0x100000 + 0x1000 * 513 then some ((off - 0x100000) / 0x1000, off % 0x1000) else none

/-- A 64-bit register of a bank (layout of RERI, log 17). -/
def Chip.bankRead (c : Chip) (u o : Nat) : DWord :=
  if !c.present u then 0
  else if o < 0x40 then
    match o / 8 with
    | 0 => (Config.vendorId 0).setWidth 64 ||| BitVec.ofNat 64 (2 ^ 32 * (kindOf u).code)
    | 1 => BitVec.ofNat 64 (u + 4 * 2 ^ 16 + 2 ^ 56)
    | 2 => BitVec.ofNat 64 (1 + ((List.range 4).map fun i => bit (c.errRec u i).valid * 2 ^ (i + 1)).sum)
    | _ => 0
  else if o < 0x140 then
    let r := c.errRec u ((o - 0x40) / 0x40)
    match o % 0x40 / 8 with
    | 0 => r.control | 1 => r.status | 2 => r.addr | 3 => r.info | 4 => r.suppl | 5 => r.time | _ => 0
  else 0

/-- A write to a bank: the whole register, or one half of it. -/
def Chip.bankWrite (c : Chip) (off u o : Nat) (half : Option Bool) (data : DWord) : Chip :=
  let no (code : Nat) : Chip := c.recordErr 0 code (ctlOffset 0 off)
  if o < 0x40 ∨ 0x140 ≤ o ∨ 0x30 ≤ o % 0x40 then no errBadOffset
  else if !c.present u then no errNotPresent
  else
    let i := (o - 0x40) / 0x40
    let old := c.bankRead u o
    let new : DWord := match half with
      | none => data
      | some false => setFld old 31 0 (fld data 31 0)
      | some true => setFld old 63 32 (fld data 31 0)
    match o % 0x40 / 8 with
    | 0 => c.recControl u i new
    | 1 =>
      if (c.errRec u i).valid then
        (if (half = none ∧ data = 0) ∨ (half = some false ∧ fld data 31 0 = 0) then c.recInvalidate u i else c)
      else c.recPrepare u i .status new
    | 2 => c.recPrepare u i .addr new
    | 3 => c.recPrepare u i .info new
    | 4 => c.recPrepare u i .suppl new
    | _ => c.recPrepare u i .time new

/-! Functions: BAR0, the Function Map and configuration space (R379-R381, R398, R399). -/

/-- The function exists. -/
def Chip.funcExists (c : Chip) (f : Nat) : Bool :=
  decide (f = 0) || (decide (f = 1) && c.endpoint) || (c.vfEnable && decide (0x100 ≤ f) && decide (f < 0x100 + min 256 c.numVfs))

/-- Table entries of a function. -/
def msixSize (f : Nat) : Nat := if f < 0x100 then 2048 else 64

/-- What an offset of a function's BAR0 names (R380, R398). -/
inductive BarAt where
  | map (off : Nat)
  | msix (off : Nat)
  | block (u off : Nat)
  | page (off : Nat)
  | nothing
deriving DecidableEq, Repr

/-- The block ranges of BAR0 of PF0 and PF1 (R380): unit, offset and size. -/
def barBlocks : List (Nat × Nat × Nat) :=
  [(uFlow, 0x400000, 0x400000), (uShears 0, 0x800000, 0x100000), (uShears 1, 0x900000, 0x100000), (uDrover 0, 0xA00000, 0x40000),
   (uDrover 1, 0xA40000, 0x40000), (uEth 0, 0xC00000, min 0x100000 (blockSize (uEth 0))), (uEth 1, 0xD00000, min 0x100000 (blockSize (uEth 1))),
   (uIm, 0x1000000, 0x1000000)]

def barAt (f off : Nat) : BarAt :=
  if off < 0x1000 then .map off
  else if f < 0x100 then
    if 0x100000 ≤ off ∧ off < 0x108100 then .msix (off - 0x100000)
    else match barBlocks.find? fun e => decide (e.2.1 ≤ off) && decide (off < e.2.1 + e.2.2) with
      | some e => .block e.1 (off - e.2.1)
      | none => .nothing
  else if off < 0x2000 then .page (off - 0x1000)
  else if (0x10000 ≤ off ∧ off < 0x10400) ∨ (0x18000 ≤ off ∧ off < 0x18008) then .msix (off - 0x10000)
  else .nothing

/-- How many of a KIND a function holds (R394, R399). -/
def Chip.holdsOf (c : Chip) (f kind : Nat) : Nat :=
  if f = 0 then c.poolSize kind - ((c.insts.filter fun e => decide (e.1 ≠ 0) && decide (e.2.st ≠ .absent)).map fun e => (e.2.range kind).2).sum
  else ((c.inst f).range kind).2

/-- An entry of the Function Map (R381). -/
structure MapEnt where
  type : Nat
  inst : Nat
  unit : Option Nat
  off  : Nat
  size : Nat
  cap  : Nat
deriving DecidableEq, Repr

/-- The entries of a function's map (R381, R399), those of a PF in ascending OFFSET and those of a VF in the order of R399 (log
89). An E0 member lists no ETH_PORT and no FLOW_TABLE (R5). The engines take FORMAT 0 to 5 (R312), the ports SPLIT 0 to 3 (R260). -/
def Chip.mapEntries (c : Chip) (f : Nat) : List MapEnt :=
  let pf := decide (f < 0x100)
  let block (u type n off size cap : Nat) : MapEnt :=
    { type := type, inst := n, unit := some u, off := if pf then off else 0, size := if pf then size else 0, cap := cap }
  let table (type off size cap : Nat) : MapEnt := { type := type, inst := 0, unit := none, off := off, size := size, cap := cap }
  let flow : List MapEnt := if c.fuse.eth = 0 then [] else [block uFlow 1 0 0x400000 0x400000 (c.holdsOf f 0 + 2 ^ 16 * c.holdsOf f 1)]
  let shears : List MapEnt := [0, 1].map fun n => block (uShears n) 3 n (0x800000 + 0x100000 * n) 0x100000 (c.holdsOf f (2 + n) + 0x3F * 2 ^ 9)
  let drovers : List MapEnt := [0, 1].map fun n =>
    block (uDrover n) 4 n (0xA00000 + 0x40000 * n) 0x40000 (c.holdsOf f (6 + n) + 2 ^ 6 * c.holdsOf f (4 + n))
  let ports : List MapEnt := (List.range c.fuse.eth).map fun n => block (uEth n) 2 n (0xC00000 + 0x100000 * n) (blockSize (uEth n)) 0xF
  let nv := msixSize f
  if pf then [table 5 0x100000 (16 * nv) nv, table 6 0x108000 256 0] ++ flow ++ shears ++ drovers ++ ports ++ [table 7 0x1000000 0x1000000 0]
  else [table 7 0x1000 4096 0, table 5 0x10000 (16 * nv) nv, table 6 0x18000 8 0] ++ flow ++ shears ++ drovers

/-- A word of the Function Map (R381). -/
def Chip.mapWord (c : Chip) (f off : Nat) : Word :=
  let es := c.mapEntries f
  if off < 4 then 0x4D464D41
  else if off < 8 then BitVec.ofNat 32 (1 + 2 ^ 8 * (if f < 0x100 then f else 2) + 2 ^ 16 * (f - min f 0x100))
  else if off < 12 then BitVec.ofNat 32 (es.length + 2 ^ 16 * c.fuse.eth + 2 ^ 18 * bit (c.endpoint && decide (f ≠ 1)))
  else if off < 16 then 0
  else match es[(off - 16) / 16]? with
    | none => 0
    | some e => match off % 16 / 4 with
      | 0 => BitVec.ofNat 32 (e.type + 2 ^ 8 * e.inst + 2 ^ 16 * (match e.unit with | some u => (Config.blockVersion u).toNat | none => 0))
      | 1 => BitVec.ofNat 32 e.off
      | 2 => BitVec.ofNat 32 e.size
      | _ => BitVec.ofNat 32 e.cap

/-- A word of the configuration space of a function (R379; the header and AER of PCI Express, log 89): IDs from fuses, Bus Master
Enable, class code, BAR0 and BAR1, and the AER Uncorrectable Error Status of the function on PX0. The manual places no other
word: what it reads is free. -/
def Chip.configRead (c : Chip) (f off : Nat) : Word × Chip :=
  let x := c.func f
  let pf := decide (f < 0x100)
  if !c.funcExists f then (0xFFFFFFFF, c)
  else match off / 4 with
    | 0 => (if pf then Config.vendorId 1 else 0xFFFFFFFF, c)
    | 1 => (BitVec.ofNat 32 (4 * bit x.bme + 2 ^ 20), c)
    | 2 => ((BitVec.ofNat 32 (2 ^ 8 * if c.fuse.eth = 0 then 0x120000 else 0x020000)) ||| (Config.vendorId 2 &&& 0xFF#32), c)
    | 3 => (0, c)
    | 4 => (if pf then x.bar.setWidth 32 ||| 4#32 else 0, c)
    | 5 => (if pf then (x.bar >>> 32).setWidth 32 else 0, c)
    | 11 => (Config.vendorId 3, c)
    | 65 => (if f = 0 then (c.px 0).aer else 0, c)
    | n => if 6 ≤ n ∧ n ≤ 12 then (0, c) else let (w, c) := c.draw; (w.setWidth 32, c)

/-- A write of a word of configuration space (R379, R405). -/
def Chip.configWrite (c : Chip) (f off : Nat) (v : Word) : Chip :=
  if !c.funcExists f then c
  else match off / 4 with
    | 1 => if v.getLsbD 2 then c.bmeOn f else c.bmeOff f
    | 4 => if f < 0x100 then c.modFunc f fun x => { x with bar := setFld x.bar 31 25 (fld v 31 25) } else c
    | 5 => if f < 0x100 then c.modFunc f fun x => { x with bar := setFld x.bar 63 32 v.toNat } else c
    | 65 => if f = 0 then c.modPx 0 fun x => { x with aer := x.aer &&& ~~~ v } else c
    | _ => c

/-! MSI-X structures (R380, R382, R398; accesses of PCIe, log 40). -/

def Chip.msixWrite (c : Chip) (f off : Nat) (v : Word) : Chip :=
  let n := off / 16
  if !c.funcExists f ∨ msixSize f ≤ n then c
  else
    let c := c.modFunc f fun x => { x with table := Sparse.upd x.table {} n fun (e : MsixEnt) =>
      match off % 16 / 4 with
      | 0 => { e with addr := setFld e.addr 31 0 v.toNat }
      | 1 => { e with addr := setFld e.addr 63 32 v.toNat }
      | 2 => { e with data := v }
      | _ => { e with mask := v.getLsbD 0 } }
    c.msixFlush f n

def Chip.msixRead (c : Chip) (f off : Nat) : Word :=
  let x := c.func f
  if !c.funcExists f then 0
  else if off < 0x8000 then
    let e : MsixEnt := Sparse.at x.table {} (off / 16)
    if msixSize f ≤ off / 16 then 0
    else match off % 16 / 4 with
      | 0 => e.addr.setWidth 32 | 1 => (e.addr >>> 32).setWidth 32 | 2 => e.data | _ => BitVec.ofNat 32 (bit e.mask)
  else if off < 0x8000 + 256 then
    BitVec.ofNat 32 ((List.range 32).map fun i => bit (x.pba.contains (8 * (off - 0x8000) + i)) * 2 ^ i).sum
  else 0

/-! Accesses (R48-R51). -/

/-- A misaligned access, or one wider than 64 bits (R49): widths in bytes. -/
def accessError (width off : Nat) : Bool := !(width = 1 || width = 2 || width = 4 || width = 8) || off % width ≠ 0

def ctlOff : CtlAddr → Nat
  | .desc _ o => o | .block _ o => o | .hole o => o | .msix _ o => o | .sriov => 0 | .msixCtl _ => 0 | .bar _ o => o
  | .config _ o => o

def ctlAt (a : CtlAddr) (o : Nat) : CtlAddr :=
  match a with
  | .desc u _ => .desc u o | .block u _ => .block u o | .hole _ => .hole o | .msix f _ => .msix f o | .bar f _ => .bar f o
  | .config f _ => .config f o | x => x

/-- A source and target as the function whose BAR0 is accessed has them: its block ranges and MSI-X structures (R380, R398). -/
def Chip.throughBar (c : Chip) (src : Src) (a : CtlAddr) : Src × CtlAddr :=
  match a with
  | .bar f o =>
    if !c.funcExists f then (src, a)
    else match barAt f o with
      | .msix p => (src, .msix f p)
      | .block u p => (if f = 0 then .pf0 else .pf1, .block u p)
      | _ => (src, a)
  | _ => (src, a)

/-- An access recorded at its target (R49-R51). -/
def Chip.record (c : Chip) (src : Src) (a : CtlAddr) (code : Nat) : Chip :=
  match a with
  | .desc u o => c.refuseDesc u o code
  | .block u o => c.refuse src u o code
  | .hole o => c.recordErr 0 code (BitVec.ofNat 32 o)
  | .bar _ o => c.recordErr 0 code (BitVec.ofNat 32 o)
  | _ => c

/-- The doorbell region of a block holds an offset: the offset within it (R304, R333, R353). A faulted *_DB_BASE places no region
(R63, log 90). -/
def Chip.regionOff (c : Chip) (u off : Nat) : Option Nat :=
  if c.dbBase u ≤ off ∧ off < c.dbBase u + dbSize u ∧ c.faulty u 0 0x1044 = false then some (off - c.dbBase u) else none

/-- The core whose instruction or data memory a cluster's window shows, and the byte in it (R351): `true` for IMEM. -/
def dvWindow (u off : Nat) : Option (Bool × Nat) :=
  if kindOf u ≠ .droverCluster then none
  else if 0x8000 ≤ off ∧ off < 0xC000 then some (true, off - 0x8000)
  else if 0xC000 ≤ off ∧ off < 0xE000 then some (false, off - 0xC000) else none

/-- A 32-bit write through a cluster's window. -/
def Chip.windowWrite (c : Chip) (src : Src) (u off : Nat) (im : Bool) (o : Nat) (v : Word) : Chip :=
  let d := u - 25
  let k := c.bankOf u off
  if src = .pf1 ∧ c.reaches src (c.ownerOf (6 + d) k) = false then c.refuse src u off errNotPresent
  else if (c.dvCore d k).run then c.refuse src u off errLocked
  else c.modDvCore d k fun x =>
    if im then { x with imem := x.imem.write o (leBytes v.toNat 4) } else { x with ldm := x.ldm.write o (leBytes v.toNat 4) }

/-- SR-IOV control of PF0 (R391, R403; log 42): NumVFs is taken while VF Enable is 0; VF Enable from 1 to 0 resets every
VF. The external host writes it through PX0, a hart through the internal root complex. -/
def Chip.sriovWrite (c : Chip) (src : Src) (v : Word) : Chip :=
  if src = .pf1 then c
  else if v.getLsbD 0 then (if c.vfEnable then c else { c with vfEnable := true, numVfs := fld v 31 16 })
  else if c.vfEnable then c.vfClear else { c with numVfs := fld v 31 16 }

/-- MSI-X Message Control of a function (R382; log 42): messages that waited for Enable or the Function Mask leave. -/
def Chip.msixCtlWrite (c : Chip) (f : Nat) (v : Word) : Chip :=
  if !c.funcExists f then c
  else
    let c := c.modFunc f fun x => { x with msixEn := v.getLsbD 15, fmask := v.getLsbD 14 }
    (c.func f).pba.foldl (fun (c : Chip) n => c.msixFlush f n) c

/-- A write at an offset of BAR0 that is no block and no MSI-X structure (R380, R397, R398): a VF's doorbell page; the read-only map
and an offset without a map entry are rejected with BAD_OFFSET, and a VF's other offsets drop the write and count it. -/
def Chip.barWrite (c : Chip) (f off width : Nat) (v : DWord) : Chip :=
  if !c.funcExists f then c
  else match barAt f off with
    | .page p => c.pageWrite f p width v
    | .map _ => c.recordErr 0 errBadOffset (BitVec.ofNat 32 off)
    | _ => if f < 0x100 then c.recordErr 0 errBadOffset (BitVec.ofNat 32 off) else c.countReg uIm f 0x10A0

/-- A read there: the map, 0 in a doorbell page, and as R380 and R398 say elsewhere. -/
def Chip.barRead (c : Chip) (f off : Nat) : Word × Chip :=
  if !c.funcExists f then (0, c)
  else match barAt f off with
    | .map o => (c.mapWord f o, c)
    | .page _ => (0, c)
    | _ => (0, if f < 0x100 then c.recordErr 0 errBadOffset (BitVec.ofNat 32 off) else c.countReg uIm f 0x10A0)

/-- An aligned 32-bit write at any target. -/
def Chip.write32 (c : Chip) (src : Src) (a : CtlAddr) (v : Word) : Chip :=
  match a with
  | .hole _ => c.record src a errBadOffset
  | .desc u o => match src with
    | .hart _ => c.descWrite u o v
    | .bellwether => c.descWrite u o v
    | _ => c.refuseDesc u o errBadOffset
  | .msix f o => if o < 0x8000 then c.msixWrite f o v else c
  | .sriov => c.sriovWrite src v
  | .msixCtl f => c.msixCtlWrite f v
  | .bar f o => c.barWrite f o 4 (v.setWidth 64)
  | .config f o => c.configWrite f o v
  | .block u o =>
    if c.barClosed src ∧ c.seesBlock src u = true then c.refuse src u o errBusy
    else if u = 0 ∧ 0x3000 ≤ o ∧ o < 0x4000 ∧ c.seesBlock src 0 = true then (c.iommuWrite (o - 0x3000) v).clearFault 0 0 o
    else if o < 0x1000 then c.aliasWrite src u o v
    else match (if u = 0 ∧ c.seesBlock src 0 = true then bankPage o else none) with
      | some (w, p) => c.bankWrite o w (p - p % 8) (some (decide (p % 8 = 4))) (v.setWidth 64)
      | none => match (if c.seesBlock src u then dvWindow u o else none) with
        | some (im, b) => c.windowWrite src u o im b v
        | none => c.regWrite src u o v

/-- A control-space write (R49-R52, R514): width in bytes. Nothing answers while the clocks are stopped (R486, R507). -/
def Chip.controlWrite (c : Chip) (src : Src) (a : CtlAddr) (width : Nat) (data : DWord) : Chip :=
  let (src, a) := c.throughBar src a
  let o := ctlOff a
  if !c.pwr.clocks then c
  else if accessError width o then c.record src a errBadWidth
  else
    match a with
    | .bar f o => match barAt f o with
      | .page _ => c.barWrite f o width data
      | _ => if width < 4 then c.record src a errBadWidth else c.barWrite f o width data
    | .sriov => c.write32 src a (data.setWidth 32)
    | .msixCtl _ => c.write32 src a (data.setWidth 32)
    | .block u _ =>
      match (if c.seesBlock src u && c.present u && !c.barClosed src then c.regionOff u o else none) with
      | some p => c.regionWrite src u p width data
      | none =>
        if width < 4 then c.record src a errBadWidth
        else if width = 4 then c.write32 src a (data.setWidth 32)
        else match (if u = 0 ∧ c.seesBlock src 0 = true then bankPage o else none) with
          | some (w, p) => c.bankWrite o w p none data
          | none => (c.write32 src a (data.setWidth 32)).write32 src (.block u (o + 4)) ((data >>> 32).setWidth 32)
    | _ =>
      if width < 4 then c.record src a errBadWidth
      else if width = 4 then c.write32 src a (data.setWidth 32)
      else (c.write32 src a (data.setWidth 32)).write32 src (ctlAt a (o + 4)) ((data >>> 32).setWidth 32)

/-! Reads. -/

/-- A reserved word that a register table lists: it reads 0 (R52, R54, R229, R298, R302). -/
def reservedWord (k : Kind) (off : Nat) : Bool :=
  off = 0x101C || off = 0x1028 || off = 0x102C ||
    match k with
    | .flowTable => off = 0x107C
    | .ethPort => off = 0x105C || off = 0x109C
    | .package => decide (0x2000 ≤ off) && decide (off < 0x2400) && decide (0x28 ≤ off % 0x40)
    | _ => false

/-- The committed value of X, and its complement for the register beside it (R59). -/
def Chip.pairView (c : Chip) (src : Src) (u off : Nat) (r : RegDef) : Word :=
  match r.role with
  | .xCpl => ~~~ (c.view src u (off - 4))
  | .loCpl => ~~~ (c.view src u (off - 4))
  | .hiCpl => ~~~ (c.view src u (off - 4))
  | _ => c.view src u off

/-- A 32-bit read of a register: its value, and RC fields cleared unless through an alias (R52, R58). -/
def Chip.regRead (c : Chip) (src : Src) (u off : Nat) : Word × Chip :=
  match regAt (kindOf u) off with
  | none => (0, if c.seesBlock src u && c.present u && reservedWord (kindOf u) off then c else c.refuse src u off errBadOffset)
  | some r =>
    if !c.seesBlock src u then (0, c.refuse src u off errBadOffset)
    else if !c.present u then (0, c.refuse src u off errNotPresent)
    else
      let w := c.pairView src u off r
      let rc := r.bits fun f => decide (f.acc = .rc)
      if rc = 0 then (w, c)
      else (w, c.setReg u (c.bankOf u off) off (w &&& ~~~ rc))

/-- A 32-bit read of an alias word (R58). -/
def Chip.aliasRead (c : Chip) (src : Src) (u off : Nat) : Word × Chip :=
  let (x, b) := aliasOf off
  match regAt (kindOf u) x with
  | none => (0, if c.seesBlock src u && c.present u && reservedWord (kindOf u) x then c else c.refuse src u off errBadOffset)
  | some r =>
    if !c.seesBlock src u then (0, c.refuse src u off errBadOffset)
    else if !c.present u then (0, c.refuse src u off errNotPresent)
    else
      let wo := r.bits fun f => decide (f.acc = .wo)
      (BitVec.ofNat 32 (fld (c.pairView src u x r &&& ~~~ wo) b b), c)

/-- An aligned 32-bit read at any target. -/
def Chip.read32 (c : Chip) (src : Src) (a : CtlAddr) : Word × Chip :=
  match a with
  | .hole _ => (0, c.record src a errBadOffset)
  | .desc u o =>
    let direct := match src with
      | .hart _ => true | .bellwether => true | _ => false
    if direct && decide (u ≤ 512) && decide (o < 0x40) then (c.descWord u o, c) else (0, c.refuseDesc u o errBadOffset)
  | .msix f o => (c.msixRead f o, c)
  | .sriov => (BitVec.ofNat 32 (bit c.vfEnable + 2 ^ 16 * c.numVfs), c)
  | .msixCtl f => (BitVec.ofNat 32 (2 ^ 15 * bit (c.func f).msixEn + 2 ^ 14 * bit (c.func f).fmask), c)
  | .bar f o => c.barRead f o
  | .config f o => c.configRead f o
  | .block u o =>
    if c.barClosed src ∧ c.seesBlock src u = true then (0, c)
    else if u = 0 ∧ 0x3000 ≤ o ∧ o < 0x4000 ∧ c.seesBlock src 0 = true then (c.iommuReg (o - 0x3000), c)
    else if c.seesBlock src u && c.present u && (c.regionOff u o).isSome then (0, c)
    else if o < 0x1000 then c.aliasRead src u o
    else match (if u = 0 ∧ c.seesBlock src 0 = true then bankPage o else none) with
      | some (w, p) => (((c.bankRead w (p - p % 8)) >>> (8 * (p % 8))).setWidth 32, c)
      | none => match (if c.seesBlock src u then dvWindow u o else none) with
        | some (im, b) =>
          let k := c.dvCore (u - 25) (c.bankOf u o)
          (BitVec.ofNat 32 (leNat ((if im then k.imem else k.ldm).read b 4)), c)
        | none => c.regRead src u o

/-- A control-space read (R49, R50): the value, zero-extended, and the state after its side effects. -/
def Chip.controlRead (c : Chip) (src : Src) (a : CtlAddr) (width : Nat) : DWord × Chip :=
  let (src, a) := c.throughBar src a
  let o := ctlOff a
  if !c.pwr.clocks then (0, c)
  else if accessError width o then (0, c.record src a errBadWidth)
  else if width = 8 then
    let (l, c1) := c.read32 src a
    let (h, c2) := c1.read32 src (ctlAt a (o + 4))
    (l.setWidth 64 ||| (h.setWidth 64 <<< 32), c2)
  else
    let (w, c) := c.read32 src (ctlAt a (o - o % 4))
    (BitVec.ofNat 64 (w.toNat / 2 ^ (8 * (o % 4)) % 2 ^ (8 * width)), c)

/-- The access reaches the chip through PX0 in the ENDPOINT role and is an access error there (R49). -/
def Chip.portError (c : Chip) (src : Src) (a : CtlAddr) (width : Nat) : Bool :=
  decide ((c.throughBar src a).1 = .pf0) && c.endpoint && c.pwr.clocks && accessError width (ctlOff (c.throughBar src a).2)

/-- A write of an agent: an access error through an endpoint port is an Unsupported Request (R49). -/
def Chip.writeFrom (c : Chip) (src : Src) (a : CtlAddr) (width : Nat) (data : DWord) : Chip :=
  let d := c.controlWrite src a width data
  if c.portError src a width then d.pxErr 0 3 else d

/-- A read whose value the reader has (R48); an access error through an endpoint port completes with Unsupported Request (R49). -/
def Chip.readTo (c : Chip) (src : Src) (a : CtlAddr) (width : Nat) : Chip :=
  let (v, d) := c.controlRead src a width
  if c.portError src a width then (d.pxErr 0 3).pxPut 0 { sub := 0, kind := .unsupported, addr := ctlOff a }
  else { d with lastRead := v }

/-- A doorbell write (R75). -/
def Chip.doorbell (c : Chip) (src : Src) (a : DbAddr) (width : Nat) (data : DWord) : Chip :=
  if !c.pwr.clocks then c
  else match a with
    | .region u p => c.controlWrite src (.block u (c.dbBase u + p)) width data
    | .page _ _ => c.doorbellWrite src a width data

/-! Register parity (R62, R63). -/

/-- The register with an RW field, or the pair, that a parity mismatch at block offset `off` is found in: where its value lies, and
the offset that its record gives (R62, R63). Offset 0x18 of a unit names its UD_POWER_CTL, which is a register of the package
block; the IOMMU's page lies in that block as well; an FT_ADMIN_ register is the one that it is a view of, of PF0 or PF1 by
bank (log 41, 90). -/
def parityAt (u bank off : Nat) : Option (Nat × Nat × Nat) :=
  if off = 0x18 then (if u ≤ 512 ∧ (reqWritable u ∨ kindOf u = .fold) then some (0, 1 + u, off) else none)
  else if u = 0 ∧ 0x3000 ≤ off ∧ off < 0x4000 then (if ioRw (off - 0x3000) then some (0, 0, off) else none)
  else match regAt (kindOf u) off with
    | none => none
    | some r =>
      if !(r.fields.any fun f => decide (f.acc = .rw)) then none
      else if ftAdmin u off then some (uIm, bank, off + 8)
      else some (u, bank, match r.role with | .xCpl => off - 4 | .loCpl => off - 4 | .hiCpl => off - 4 | _ => off)

/-- REGISTER_PARITY_FAULT: a mismatch found in a register with an RW field or in a pair's committed value. The record goes
to the unit's bank; the instance-management block is no unit and uses the package's (log 41). -/
def Chip.parityFault (c : Chip) (u bank off : Nat) : Chip :=
  match parityAt u bank off with
  | none => c
  | some (v, b, x) =>
    let key := regKey v b x
    if !c.present u || c.ctl.faulted.contains key || !c.pwr.clocks then c
    else
      let c := { c with ctl := { c.ctl with faulted := NatSet.insert c.ctl.faulted key } }
      c.logErr (if v = uIm then 0 else v)
        { cls := .uncorrected, struct := 0x18, indexB := (x - 0x1000) / 4, addr := (if off = 0x18 then 0x40 * u + off else (ctlOffset v x).toNat),
          at_ := 4 }

end Sys2Proof.Machine
end

