-- ==== Sys2Proof/Machine/VecCrypto.lean ====
section
/-! DEFINITION. Element group operations of Zvkned, Zvknhb and Zvkg (R81, R145), as the vector cryptography extensions give
them (log 6). A group is four elements of SEW bits, the first lowest. -/

namespace Sys2Proof.Machine

/-! AES (Zvkned). -/

/-- Product in GF(2^8) modulo x^8 + x^4 + x^3 + x + 1, over the low `n` bits of b. -/
def gfMul (a b : BitVec 8) : Nat → BitVec 8
  | 0 => 0
  | n + 1 =>
    let t := (if b.getLsbD 0 then a else 0)
    t ^^^ gfMul ((a <<< 1) ^^^ (if a.getLsbD 7 then 0x1B#8 else 0)) (b >>> 1) n

/-- Product in GF(2^8). -/
def gfTimes (a b : BitVec 8) : BitVec 8 := gfMul a b 8

/-- Inverse in GF(2^8), 0 for 0: the power 254. -/
def gfInv (a : BitVec 8) : BitVec 8 :=
  let a2 := gfTimes a a
  let a3 := gfTimes a2 a
  let a6 := gfTimes a3 a3
  let a12 := gfTimes a6 a6
  let a15 := gfTimes a12 a3
  let a30 := gfTimes a15 a15
  let a60 := gfTimes a30 a30
  let a120 := gfTimes a60 a60
  let a240 := gfTimes a120 a120
  gfTimes (gfTimes a240 a12) a2

/-- The AES substitution box and its inverse. -/
def aesSub (a : BitVec 8) : BitVec 8 :=
  let b := gfInv a
  b ^^^ b.rotateLeft 1 ^^^ b.rotateLeft 2 ^^^ b.rotateLeft 3 ^^^ b.rotateLeft 4 ^^^ 0x63#8
def aesInvSub (a : BitVec 8) : BitVec 8 := gfInv (a.rotateLeft 1 ^^^ a.rotateLeft 3 ^^^ a.rotateLeft 6 ^^^ 0x05#8)

/-- A group of four 32-bit elements as 16 bytes, and back. -/
def aesBytes (x : Nat) : List Byte := leBytes x 16

/-- Byte i of a state. -/
def aesAt (s : List Byte) (i : Nat) : Byte := s.getD (i % 16) 0

/-- Rows shifted left by their number, or right in the inverse. -/
def aesShift (inv : Bool) (s : List Byte) : List Byte :=
  (List.range 16).map fun i => aesAt s (if inv then i + 16 - 4 * (i % 4) else i + 4 * (i % 4))

/-- Columns multiplied by the AES polynomial, or by its inverse. -/
def aesMix (inv : Bool) (s : List Byte) : List Byte :=
  let k : List (BitVec 8) := if inv then [14, 11, 13, 9] else [2, 3, 1, 1]
  (List.range 16).map fun i =>
    (List.range 4).foldl (fun a j => a ^^^ gfTimes (k.getD ((j + 4 - i % 4) % 4) 0) (aesAt s (4 * (i / 4) + j))) 0

/-- Four bytes of a word substituted, after a rotation by one byte when asked. -/
def aesWord (rot : Bool) (x : Nat) : Nat :=
  let b := leBytes x 4
  leNat ((if rot then b.drop 1 ++ b.take 1 else b).map aesSub)

/-- Round constant r of the key schedule. -/
def aesRcon (r : Nat) : Nat := ((List.range r).foldl (fun (x : BitVec 8) _ => gfTimes x 2) 1).toNat

/-- Word i of a group. -/
def word32 (x i : Nat) : Nat := x / 2 ^ (32 * i) % 2 ^ 32

/-- Four words chained: w0, then each the exclusive or of the one before it and a word of the old key. -/
def aesChain (w0 key : Nat) : Nat :=
  let w1 := w0 ^^^ word32 key 1
  let w2 := w1 ^^^ word32 key 2
  let w3 := w2 ^^^ word32 key 3
  w0 + 2 ^ 32 * w1 + 2 ^ 64 * w2 + 2 ^ 96 * w3

/-- Round number of a key expansion: an immediate out of range has bit 3 inverted. -/
def aesRound (lo hi imm : Nat) : Nat := let r := imm % 16; if lo ≤ r ∧ r ≤ hi then r else r ^^^ 8

/-- An AES operation on the destination group d, the source group a and, in the key expansions, the immediate. -/
def aesGroup (f : AesFn) (d a imm : Nat) : Nat :=
  let s := aesBytes d
  match f with
  | .em => leNat (aesMix false (aesShift false (s.map aesSub))) ^^^ a
  | .ef => leNat (aesShift false (s.map aesSub)) ^^^ a
  | .dm => leNat (aesMix true (aesBytes (leNat ((aesShift true s).map aesInvSub) ^^^ a)))
  | .df => leNat ((aesShift true s).map aesInvSub) ^^^ a
  | .z => d ^^^ a
  | .kf1 => aesChain (aesWord true (word32 a 3) ^^^ aesRcon (aesRound 1 10 imm - 1) ^^^ word32 a 0) a
  | .kf2 =>
    let r := aesRound 2 14 imm
    let w := if r % 2 = 1 then aesWord false (word32 a 3) else aesWord true (word32 a 3) ^^^ aesRcon (r / 2 - 1)
    aesChain (w ^^^ word32 d 0) d

/-! SHA-2 (Zvknhb). -/

/-- Three rotations of a w-bit word combined; the last is a shift when `sh`. -/
def shaMix (w x r1 r2 r3 : Nat) (sh : Bool) : Nat :=
  let rot (n : Nat) : Nat := (x / 2 ^ n + x * 2 ^ (w - n)) % 2 ^ w
  rot r1 ^^^ rot r2 ^^^ (if sh then x / 2 ^ r3 else rot r3)

def vsig0 (w x : Nat) : Nat := if w = 32 then shaMix w x 7 18 3 true else shaMix w x 1 8 7 true
def vsig1 (w x : Nat) : Nat := if w = 32 then shaMix w x 17 19 10 true else shaMix w x 19 61 6 true
def vsum0 (w x : Nat) : Nat := if w = 32 then shaMix w x 2 13 22 false else shaMix w x 28 34 39 false
def vsum1 (w x : Nat) : Nat := if w = 32 then shaMix w x 6 11 25 false else shaMix w x 14 18 41 false

/-- Element i of a group of w-bit elements, and a group of four elements, the first lowest. -/
def grpAt (w x i : Nat) : Nat := x / 2 ^ (w * i) % 2 ^ w
def grpOf (w a b c d : Nat) : Nat := a % 2 ^ w + 2 ^ w * (b % 2 ^ w) + 2 ^ (2 * w) * (c % 2 ^ w) + 2 ^ (3 * w) * (d % 2 ^ w)

/-- vsha2ms: four more words of the message schedule from vd (W0-W3), vs2 (W4, W9-W11) and vs1 (W12-W15). -/
def shaSched (w d a b : Nat) : Nat :=
  let w16 := (vsig1 w (grpAt w b 2) + grpAt w a 1 + vsig0 w (grpAt w d 1) + grpAt w d 0) % 2 ^ w
  let w17 := (vsig1 w (grpAt w b 3) + grpAt w a 2 + vsig0 w (grpAt w d 2) + grpAt w d 1) % 2 ^ w
  let w18 := (vsig1 w w16 + grpAt w a 3 + vsig0 w (grpAt w d 3) + grpAt w d 2) % 2 ^ w
  let w19 := (vsig1 w w17 + grpAt w b 0 + vsig0 w (grpAt w a 0) + grpAt w d 3) % 2 ^ w
  grpOf w w16 w17 w18 w19

/-- One round on (a, b, c, d, e, f, g, h). -/
def shaStep (w m : Nat) (s : List Nat) : List Nat :=
  match s with
  | [a, b, c, d, e, f, g, h] =>
    let t1 := h + vsum1 w e + ((e &&& f) ^^^ ((2 ^ w - 1 - e) &&& g)) + m
    let t2 := vsum0 w a + ((a &&& b) ^^^ (a &&& c) ^^^ (b &&& c))
    [(t1 + t2) % 2 ^ w, a, b, c, (d + t1) % 2 ^ w, e, f, g]
  | l => l

/-- vsha2ch and vsha2cl: two rounds on c, d, g, h of vd and a, b, e, f of vs2, with the upper or lower message words of vs1. -/
def shaTwo (w d a b : Nat) (high : Bool) : Nat :=
  let k := if high then 2 else 0
  let s := [grpAt w a 3, grpAt w a 2, grpAt w d 3, grpAt w d 2, grpAt w a 1, grpAt w a 0, grpAt w d 1, grpAt w d 0]
  match shaStep w (grpAt w b (k + 1)) (shaStep w (grpAt w b k) s) with
  | [x, y, _, _, e, f, _, _] => grpOf w f e y x
  | _ => d

/-! GHASH (Zvkg). -/

/-- The bits of each byte in reverse order. -/
def brev8Nat (n x : Nat) : Nat := leNat ((leBytes x n).map fun (b : Byte) => b.reverse)

/-- Product of 128-bit polynomials modulo x^128 + x^7 + x^2 + x + 1, over the bits of s from bit `128 - n`. -/
def ghashMul (s : BitVec 128) : Nat → BitVec 128 → BitVec 128 → BitVec 128
  | 0, _, z => z
  | n + 1, h, z =>
    ghashMul s n ((h <<< 1) ^^^ (if h.getLsbD 127 then 0x87#128 else 0)) (if s.getLsbD (127 - n) then z ^^^ h else z)

/-- vghsh (x the text group) and vgmul (x = 0): (y xor x) times h. -/
def ghashGroup (y x h : Nat) : Nat :=
  brev8Nat 16 (ghashMul (BitVec.ofNat 128 (brev8Nat 16 (y ^^^ x))) 128 (BitVec.ofNat 128 (brev8Nat 16 h)) 0).toNat

end Sys2Proof.Machine
end

