-- ==== Sys2Proof/Machine/Vector.lean ====
section
/-! DEFINITION. Vector configuration, vector arithmetic and reductions of a hart (R95, R130-R145). -/

namespace Sys2Proof.Machine

/-! Vector configuration (R140). -/

/-- vtype asks for a supported setting (R140). -/
def vtypeLegal (t : DWord) : Bool :=
  decide (fld t 62 8 = 0) && decide (fld t 63 63 = 0) && decide (fld t 5 3 ≤ 3) && decide (fld t 2 0 ≠ 4)
    && decide (8 * 2 ^ (fld t 5 3) * 8 ≤ lmul8 (fld t 2 0) * 64)

/-- VLMAX of a vtype. -/
def vlmaxOf (t : DWord) : Nat := lmul8 (fld t 2 0) * 256 / 8 / (8 * 2 ^ (fld t 5 3))

/-- VSETVL (R140). -/
def Chip.vsetvl (c : Chip) (hid rd : Nat) (avl : AvlSrc) (vtype : DWord) : Chip :=
  match c.liveCore hid with
  | none => c
  | some _ =>
    let h := c.hart hid
    if !h.vsOn then c.illegal hid
    else
      let a := match avl with
        | .reg r => if r % 32 = 0 then (if rd % 32 = 0 then h.vl else 2 ^ 64 - 1) else (h.getX r).toNat
        | .imm n => n
      let ok := vtypeLegal vtype
      let vl := if ok then min a (vlmaxOf vtype) else 0
      (c.modHart hid fun h =>
        ((((h.setCsr cVl (BitVec.ofNat 64 vl)).setCsr cVtype (if ok then vtype else 0x8000000000000000#64)).setCsr cVstart 0).setX rd
          (BitVec.ofNat 64 vl)).vsDirty).retire hid 4 1

/-! Integer elements (R126, R142). -/

/-- The FP format of an element width; none for 8 bits. -/
def fmtOfSew (w : Nat) : Option Fmt := match w with | 16 => some .h | 32 => some .s | 64 => some .d | _ => none

/-- Element i of the second operand, in w bits. -/
def Hart.vsrc (h : Hart) (s : VSrc) (w i : Nat) : Nat :=
  match s with
  | .v r => h.elem r w i
  | .x r => (h.getX r).toNat % 2 ^ w
  | .f r => (match fmtOfSew w with | some f => h.getFmt f r | none => 0)
  | .i n => wrapNat w n

/-- Integer element operation: the result and whether it saturated; `d` is the old destination element. -/
def vInt (fn : VFn) (w a b d : Nat) : Option (Nat × Bool) :=
  let sa := sInt w a
  let sb := sInt w b
  let m := 2 ^ w
  let clampS (v : Int) : Nat × Bool :=
    if v < -(2 ^ (w - 1) : Int) then (2 ^ (w - 1), true) else if (2 ^ (w - 1) : Int) - 1 < v then (2 ^ (w - 1) - 1, true) else (wrapNat w v, false)
  match fn with
  | .add => some ((a + b) % m, false)
  | .sub => some ((a + m - b) % m, false)
  | .rsub => some ((b + m - a) % m, false)
  | .and => some (a &&& b, false)
  | .or => some (a ||| b, false)
  | .xor => some (a ^^^ b, false)
  | .sll => some (a * 2 ^ (b % w) % m, false)
  | .srl => some (a / 2 ^ (b % w), false)
  | .sra => some (wrapNat w (sa / 2 ^ (b % w)), false)
  | .min => some (if sb < sa then b else a, false)
  | .minu => some (min a b, false)
  | .max => some (if sa < sb then b else a, false)
  | .maxu => some (max a b, false)
  | .mul => some (a * b % m, false)
  | .mulh => some (wrapNat w (sa * sb / (m : Int)), false)
  | .mulhu => some (a * b / m, false)
  | .mulhsu => some (wrapNat w (sa * (b : Int) / (m : Int)), false)
  | .div => some (divCore true false w a b, false)
  | .divu => some (divCore false false w a b, false)
  | .rem => some (divCore true true w a b, false)
  | .remu => some (divCore false true w a b, false)
  | .macc => some ((a * b + d) % m, false)
  | .nmsac => some (wrapNat w ((d : Int) - a * b), false)
  | .mv => some (b, false)
  | .saddu => some (if m ≤ a + b then (m - 1, true) else (a + b, false))
  | .ssubu => some (if a < b then (0, true) else (a - b, false))
  | .sadd => some (clampS (sa + sb))
  | .ssub => some (clampS (sa - sb))
  | _ => none

/-- Integer comparisons into a mask. -/
def vCmp (fn : VFn) (w a b : Nat) : Option Bool :=
  match fn with
  | .seq => some (decide (a = b))
  | .sne => some (decide (a ≠ b))
  | .sltu => some (decide (a < b))
  | .slt => some (decide (sInt w a < sInt w b))
  | .sleu => some (decide (a ≤ b))
  | .sle => some (decide (sInt w a ≤ sInt w b))
  | .sgtu => some (decide (b < a))
  | .sgt => some (decide (sInt w b < sInt w a))
  | _ => none

/-- v / 2^k rounded by vxrm (R142): to nearest up, to nearest even, down, to odd. -/
def vRound (xrm : Nat) (v : Int) (k : Nat) : Int :=
  let m : Int := 2 ^ k
  let q := v / m
  let r := v % m
  let up : Bool := match xrm with
    | 0 => decide (m ≤ 2 * r) && decide (0 < k)
    | 1 => decide (m < 2 * r) || (decide (m = 2 * r) && decide (q % 2 = 1))
    | 2 => false
    | _ => decide (r ≠ 0) && decide (q % 2 = 0)
  if up then q + 1 else q

/-- A value clamped to a w-bit range, and whether it saturated. -/
def vClamp (signed : Bool) (w : Nat) (v : Int) : Nat × Bool :=
  let lo : Int := if signed then -(2 ^ (w - 1)) else 0
  let hi : Int := if signed then 2 ^ (w - 1) - 1 else 2 ^ w - 1
  if v < lo then (wrapNat w lo, true) else if hi < v then (wrapNat w hi, true) else (wrapNat w v, false)

/-- Fixed-point element operation (R142): `b` is a shift amount of w or, in the clips, 2w bits. -/
def vFixed (fn : VFn) (w xrm a b : Nat) : Option (Nat × Bool) :=
  let sa := sInt w a
  let sb := sInt w b
  match fn with
  | .aaddu => some (wrapNat w (vRound xrm ((a : Int) + b) 1), false)
  | .aadd => some (wrapNat w (vRound xrm (sa + sb) 1), false)
  | .asubu => some (wrapNat w (vRound xrm ((a : Int) - b) 1), false)
  | .asub => some (wrapNat w (vRound xrm (sa - sb) 1), false)
  | .smul => some (vClamp true w (vRound xrm (sa * sb) (w - 1)))
  | .ssrl => some (wrapNat w (vRound xrm a (b % w)), false)
  | .ssra => some (wrapNat w (vRound xrm sa (b % w)), false)
  | .nclipu => some (vClamp false w (vRound xrm a (b % (2 * w))))
  | .nclip => some (vClamp true w (vRound xrm (sInt (2 * w) a) (b % (2 * w))))
  | _ => none

/-- Bits of a w-bit number in reverse order. -/
def revBits (w x : Nat) : Nat := (List.range w).foldl (fun a i => 2 * a + x / 2 ^ i % 2) 0

/-- Bit-manipulation element operation (Zvbb). -/
def vBits (fn : VFn) (w a b : Nat) : Option Nat :=
  match fn with
  | .andn => some (a &&& (2 ^ w - 1 - b))
  | .brev => some (revBits w a)
  | .brev8 => some (brev8Nat (w / 8) a)
  | .rev8 => some (leNat (leBytes a (w / 8)).reverse)
  | .clz => some (clz w a)
  | .ctz => some (ctz w a)
  | .cpopv => some (popcount w a)
  | .rol => some ((a * 2 ^ (b % w) + a / 2 ^ (w - b % w)) % 2 ^ w)
  | .ror => some ((a / 2 ^ (b % w) + a * 2 ^ (w - b % w)) % 2 ^ w)
  | _ => none

/-- Widening integer element operation into 2w bits; `d` is the old destination element and `w2` says that a is wide. -/
def vWide (f : VWideFn) (w2 : Bool) (w a b d : Nat) : Nat :=
  let u := 2 * w
  let sa := if w2 then sInt u a else sInt w a
  let sb := sInt w b
  let v : Int := match f with
    | .addu => (a : Int) + b
    | .add => sa + sb
    | .subu => (a : Int) - b
    | .sub => sa - sb
    | .mulu => (a : Int) * b
    | .mul => sa * sb
    | .mulsu => sa * b
    | .maccu => (a : Int) * b + d
    | .macc => sa * sb + d
    | .maccsu => (a : Int) * sb + d
    | .maccus => sa * b + d
    | .sll => (a : Int) * 2 ^ (b % u)
  wrapNat u v

/-! FP elements (R129-R139, R142). -/

/-- The FP element operations whose second operand multiplies and whose destination is the addend take vs1, vs2, vd. -/
def vFused : FpFn → Bool
  | .madd => true | .msub => true | .nmsub => true | .nmadd => true | _ => false

/-- The result of an FP element operation, none where it does not exist at the format. -/
def vFpLane (fn : FpFn) (f : Fmt) (rm : Rm) (a b d : Nat) : Option (Nat × BitVec 5) :=
  match fn with
  | .fclass => some (fClass f a, 0)
  | _ => if vFused fn then fpArith fn f rm b a d else fpArith fn f rm a b 0

/-- Widening FP arithmetic: operands widened exactly, one operation in the wide format. -/
def vFpWide (fn : FpFn) (w2 : Bool) (f g : Fmt) (rm : Rm) (a b d : Nat) : Option (Nat × BitVec 5) :=
  let x := unpack (if w2 then g else f) a
  let y := unpack f b
  let z := unpack g d
  match fn with
  | .add => some (fAdd g rm x y)
  | .sub => some (fAdd g rm x y.negate)
  | .mul => if w2 then none else some (fMul g rm x y)
  | .madd => if w2 then none else some (fMa g rm x y z)
  | .msub => if w2 then none else some (fMa g rm x y z.negate)
  | .nmsub => if w2 then none else some (fMa g rm x.negate y z)
  | .nmadd => if w2 then none else some (fMa g rm x.negate y z.negate)
  | _ => none

/-- Bounds of a w-bit integer. -/
def intRange (signed : Bool) (w : Nat) : Int × Int := if signed then (-(2 ^ (w - 1)), 2 ^ (w - 1) - 1) else (0, 2 ^ w - 1)

/-- Source and destination widths of a conversion at SEW w. -/
def cvtWidths (k : VCvtW) (w : Nat) : Nat × Nat :=
  match k with
  | .same => (w, w) | .wide => (w, 2 * w) | .narrow => (2 * w, w)

/-- A conversion of an element (R138). -/
def vCvt (fn : VCvtFn) (sw dw : Nat) (rm : Rm) : Option (Nat → Nat × BitVec 5) :=
  match fn with
  | .toInt s rtz => (fmtOfSew sw).map fun f a =>
      let r := intRange s dw
      let (v, fl) := fToRange r.1 r.2 (if rtz then .rtz else rm) (unpack f a)
      (wrapNat dw v, fl)
  | .fromInt s => (fmtOfSew dw).map fun f a => fFromInt f rm (if s then sInt sw a else (a : Nat))
  | .fmt rod =>
    if sw = dw ∨ (rod = true ∧ sw < dw) then none
    else match fmtOfSew sw, fmtOfSew dw with
      | some f, some g => some fun a => if rod then fConvertOdd g (unpack f a) else fConvert g rm (unpack f a)
      | _, _ => none

/-! What one element of an instruction is computed from. -/

/-- Widths of a lane's destination and sources, whether elements whose mask bit is 0 are computed too (the mask is an operand),
and the result, flags and saturation from elements a, b and d and the mask bit. -/
structure VLane where
  dw  : Nat
  aw  : Nat
  bw  : Nat
  all : Bool := false
  f   : Nat → Nat → Nat → Bool → Nat × BitVec 5 × Bool

/-- A lane of SEW operands without flags. -/
def plainLane (w : Nat) (f : Nat → Nat → Nat → Nat) : VLane := { dw := w, aw := w, bw := w, f := fun a b d _ => (f a b d, 0, false) }

/-- A lane of an operation that may saturate. -/
def satLane (w aw : Nat) (f : Nat → Nat → Nat → Option (Nat × Bool)) : VLane :=
  { dw := w, aw := aw, bw := w, f := fun a b d _ => let r := (f a b d).getD (0, false); (r.1, 0, r.2) }

/-- An FP lane. -/
def fpLane (dw aw bw : Nat) (f : Nat → Nat → Nat → Nat × BitVec 5) : VLane :=
  { dw := dw, aw := aw, bw := bw, f := fun a b d _ => ((f a b d).1, (f a b d).2, false) }

/-- The FP lane of an operation that may not exist. -/
def optLane (dw aw bw : Nat) (f : Nat → Nat → Nat → Option (Nat × BitVec 5)) : Option VLane :=
  if (f 0 0 0).isNone then none else some (fpLane dw aw bw fun a b d => (f a b d).getD (0, 0))

/-- The FP lanes of a vector instruction at SEW w (R129, R138, R139, R142). -/
def vFpLanes (fn : VFn) (w : Nat) (rm : Rm) : Option VLane :=
  match fn with
  | .fwmaccbf16 =>
    if w = 16 then some (fpLane 32 16 16 fun a b d => fMa .s rm (unpack .bf b) (unpack .bf a) (unpack .s d)) else none
  | .fncvtbf16 => if w = 16 then some (fpLane 16 32 16 fun a _ _ => fConvert .bf rm (unpack .s a)) else none
  | .fp (.cvtFmt g) =>
    let sw := (fmtPar g).w
    let dst : Option Fmt :=
      if sw = w then (if w = 16 then some .s else if w = 32 then some .d else none)
      else if sw = 2 * w then (if w = 16 then some .h else some .s) else none
    dst.map fun df => fpLane (fmtPar df).w sw w fun a _ _ => fConvert df rm (unpack g a)
  | .fp (.cvtToInt i) =>
    (vCvt (.toInt (decide (i = .w ∨ i = .l)) false) w w rm).map fun f => fpLane w w w fun a _ _ => f a
  | .fp (.cvtFromInt i) => (vCvt (.fromInt (decide (i = .w ∨ i = .l))) w w rm).map fun f => fpLane w w w fun a _ _ => f a
  | .fcvt k r =>
    let (sw, dw) := cvtWidths r w
    (vCvt k sw dw rm).map fun f => fpLane dw sw w fun a _ _ => f a
  | .fwide g w2 => match fmtOfSew w, fmtOfSew (2 * w) with
    | some f, some u => optLane (2 * w) (if w2 then 2 * w else w) w (vFpWide g w2 f u rm)
    | _, _ => none
  | .fp g => (fmtOfSew w).bind fun f => optLane w w w (vFpLane g f rm)
  | .fmulAdd g => (fmtOfSew w).bind fun f => if vFused g then optLane w w w fun a b d => fpArith g f rm b d a else none
  | .frsub => (fmtOfSew w).map fun f => fpLane w w w fun a b _ => fAdd f rm (unpack f b) (unpack f a).negate
  | .frdiv => (fmtOfSew w).map fun f => fpLane w w w fun a b _ => fDiv f rm (unpack f b) (unpack f a)
  | .frec7 => (fmtOfSew w).map fun f => fpLane w w w fun a _ _ => fRec7 f rm a
  | .frsqrt7 => (fmtOfSew w).map fun f => fpLane w w w fun a _ _ => fRsqrt7 f a
  | _ => none

/-- The lanes of a vector instruction whose elements are computed one by one; none for the others. -/
def vLane (fn : VFn) (w xrm : Nat) (rm : Rm) : Option VLane :=
  match fn with
  | .merge => some { dw := w, aw := w, bw := w, all := true, f := fun a b _ m => (if m then b else a, 0, false) }
  | .adc => some { dw := w, aw := w, bw := w, all := true, f := fun a b _ m => ((a + b + bit m) % 2 ^ w, 0, false) }
  | .sbc => some { dw := w, aw := w, bw := w, all := true, f := fun a b _ m => (wrapNat w ((a : Int) - b - bit m), 0, false) }
  | .madd => some (plainLane w fun a b d => (b * d + a) % 2 ^ w)
  | .nmsub => some (plainLane w fun a b d => wrapNat w ((a : Int) - b * d))
  | .wide f w2 => if w = 64 then none else some { plainLane w (vWide f w2 w) with dw := 2 * w, aw := if w2 then 2 * w else w }
  | .nsrl => if w = 64 then none else some { plainLane w (fun a b _ => a / 2 ^ (b % (2 * w)) % 2 ^ w) with aw := 2 * w }
  | .nsra => if w = 64 then none else
      some { plainLane w (fun a b _ => wrapNat w (sInt (2 * w) a / 2 ^ (b % (2 * w)))) with aw := 2 * w }
  | .ext s k =>
    if [2, 4, 8].contains k && decide (8 * k ≤ w) then
      some { plainLane w (fun a _ _ => if s then wrapNat w (sInt (w / k) a) else a) with aw := w / k }
    else none
  | fn =>
    match vFixed fn w xrm 0 0 with
    | some _ =>
      let aw := if fn = .nclip ∨ fn = .nclipu then 2 * w else w
      if aw = 128 then none
      else some (satLane w aw fun a b _ => vFixed fn w xrm a b)
    | none => match vInt fn w 0 0 0 with
      | some _ => some (satLane w w (vInt fn w))
      | none => if (vBits fn w 0 0).isSome then some (plainLane w fun a b _ => (vBits fn w a b).getD 0) else vFpLanes fn w rm

/-- The FP comparison of an instruction, and whether its operands change places or its result is inverted. -/
def vFcmp : VFn → Option (FCmp × Bool × Bool)
  | .fp g => (fpCmp g).map fun k => (k, false, false)
  | .fne => some (.eq, false, true)
  | .fgt => some (.lt, true, false)
  | .fge => some (.le, true, false)
  | _ => none

/-- An FP comparison of elements (R134, R142). -/
def vFcompare (k : FCmp) (swap inv : Bool) (f : Fmt) (a b : Nat) : Bool × BitVec 5 :=
  let (r, fl) := if swap then fCompare k (unpack f b) (unpack f a) else fCompare k (unpack f a) (unpack f b)
  (r != inv, fl)

/-- The instructions whose results are mask bits: an element's bit and flags; `m` is the carry in. -/
def vTest (fn : VFn) (masked : Bool) (w : Nat) : Option (Nat → Nat → Bool → Bool × BitVec 5) :=
  match fn with
  | .madc => some fun a b m => (decide (2 ^ w ≤ a + b + bit (masked && m)), 0)
  | .msbc => some fun a b m => (decide (a < b + bit (masked && m)), 0)
  | fn => match vFcmp fn with
    | some (k, s, i) => (fmtOfSew w).map fun f a b _ => vFcompare k s i f a b
    | none => if (vCmp fn w 0 0).isSome then some fun a b _ => ((vCmp fn w a b).getD false, 0) else none

/-- A logical operation on mask bits. -/
def vMask (f : VMaskFn) (a b : Bool) : Bool :=
  match f with
  | .and => a && b | .nand => !(a && b) | .andn => a && !b | .or => a || b
  | .nor => !(a || b) | .orn => a || !b | .xor => a != b | .xnor => a == b

/-! The instruction. -/

/-- A mask bit of a register set to a value. -/
def Hart.setMask (h : Hart) (r i : Nat) (b : Bool) : Hart := h.setV r (setFld (h.getV r) i i (bit b))

/-- The destination is a mask register. -/
def vIsMask (fn : VFn) : Bool :=
  match fn with
  | .maskOp _ => true | .sbf => true | .sif => true | .sof => true | .madc => true | .msbc => true
  | fn => (vFcmp fn).isSome || (vCmp fn 8 0 0).isSome

/-- Elements results and flags written in order; each element is the scalar operation (R142). -/
def Hart.vLanes (h : Hart) (op : VOp) (l : VLane) : Hart :=
  (h.active (op.masked && !l.all)).foldl (fun (x : Hart) i =>
    let (r, fl, sat) := l.f (h.elem op.vs2 l.aw i) (h.vsrc op.src l.bw i) (h.elem op.vd l.dw i) (h.maskBit i)
    let x := (x.accrue fl).setElem op.vd l.dw i r
    if sat then x.setCsr cVxsat 1 else x) h

/-- Mask results written in order. -/
def Hart.vTests (h : Hart) (op : VOp) (f : Nat → Nat → Bool → Bool × BitVec 5) : Hart :=
  let w := h.sew
  (h.active (op.masked && decide (op.fn ≠ .madc) && decide (op.fn ≠ .msbc))).foldl (fun (x : Hart) i =>
    let (r, fl) := f (h.elem op.vs2 w i) (h.vsrc op.src w i) (h.maskBit i)
    (x.accrue fl).setMask op.vd i r) h

/-- Elements moved between positions, counts over masks, and scalar moves (R145). -/
def Hart.vPerm (h : Hart) (op : VOp) : Option Hart :=
  let w := h.sew
  let act := h.active op.masked
  let ew (f : Nat → Nat) : Option Hart := some (act.foldl (fun (x : Hart) i => x.setElem op.vd w i (f i)) h)
  let a (i : Nat) : Nat := h.elem op.vs2 w i
  let b (i : Nat) : Nat := h.vsrc op.src w i
  let bitOf (r i : Nat) : Bool := (h.getV r).getLsbD i
  let v1 : Nat := match op.src with | .v r => r | _ => 0
  let off : Nat := match op.src with | .x r => (h.getX r).toNat | .i n => n.toNat | .f r => (h.getF r).toNat | .v _ => 0
  let first := act.find? fun i => bitOf op.vs2 i
  let upTo (f : Nat → Bool) : Option Hart := some (act.foldl (fun (x : Hart) i => x.setMask op.vd i (f i)) h)
  match op.fn with
  | .slideup => some ((act.filter fun i => decide (off ≤ i)).foldl (fun (x : Hart) i => x.setElem op.vd w i (a (i - off))) h)
  | .slidedown => ew fun i => if i + off < h.vlmax then a (i + off) else 0
  | .slide1up => ew fun i => if i = 0 then b 0 else a (i - 1)
  | .slide1down => ew fun i => if i + 1 = h.vl then b 0 else a (i + 1)
  | .rgather =>
    let k (i : Nat) : Nat := match op.src with | .v _ => b i | _ => off
    ew fun i => if k i < h.vlmax then a (k i) else 0
  | .gatherei16 => ew fun i => let k := h.elem v1 16 i; if k < h.vlmax then a k else 0
  | .compress =>
    let sel := match op.src with | .v r => (h.active false).filter fun i => bitOf r i | _ => []
    some (sel.zipIdx.foldl (fun (x : Hart) e => x.setElem op.vd w e.2 (a e.1)) h)
  | .maskOp f => some ((h.active false).foldl (fun (x : Hart) i => x.setMask op.vd i (vMask f (bitOf op.vs2 i) (bitOf v1 i))) h)
  | .sbf => upTo fun i => match first with | some k => decide (i < k) | none => true
  | .sif => upTo fun i => match first with | some k => decide (i ≤ k) | none => true
  | .sof => upTo fun i => decide (first = some i)
  | .iota => ew fun i => ((act.filter fun j => decide (j < i) && bitOf op.vs2 j).length) % 2 ^ w
  | .id => ew fun i => i % 2 ^ w
  | .cpop => some (h.setX op.vd (BitVec.ofNat 64 (act.filter fun i => bitOf op.vs2 i).length))
  | .first => some (h.setX op.vd (match first with | some i => BitVec.ofNat 64 i | none => BitVec.allOnes 64))
  | .mvXS => some (h.setX op.vd (BitVec.ofInt 64 (sInt w (a 0))))
  | .mvSX => some (h.setElem op.vd w 0 (b 0))
  | .mvr n => if [1, 2, 4, 8].contains n then
      some ((List.range n).foldl (fun (x : Hart) i => x.setV (op.vd + i) (h.getV (op.vs2 + i))) h) else none
  | .fp .mvToX => (fmtOfSew w).map fun f => h.setF op.vd (boxed f (a 0))
  | .fp .mvFromX => (fmtOfSew w).map fun _ => h.setElem op.vd w 0 (b 0)
  | _ => none

/-- Element groups of the cryptography extensions (R81, R145): SEW 32, or 64 for SHA-512, and vl a multiple of four. -/
def Hart.vGroups (h : Hart) (op : VOp) : Option Hart :=
  let w := h.sew
  let g := 4 * w
  let v1 : Nat := match op.src with | .v r => r | _ => 0
  let imm : Nat := match op.src with | .i n => wrapNat 5 n | _ => 0
  let d (i : Nat) : Nat := h.elem op.vd g i
  let b (i : Nat) : Nat := h.elem v1 g i
  let put (sew : Bool) (f : Nat → Nat) : Option Hart :=
    if sew && decide (h.vl % 4 = 0) && decide (g ≤ h.lmul8 * 32) && !op.masked then
      some ((List.range (h.vl / 4)).foldl (fun (x : Hart) i => x.setElem op.vd g i (f i)) h)
    else none
  match op.fn with
  | .aes f vs => put (decide (w = 32)) fun i => aesGroup f (d i) (h.elem op.vs2 g (if vs then 0 else i)) imm
  | .sha2ms => put (decide (w = 32 ∨ w = 64)) fun i => shaSched w (d i) (h.elem op.vs2 g i) (b i)
  | .sha2ch => put (decide (w = 32 ∨ w = 64)) fun i => shaTwo w (d i) (h.elem op.vs2 g i) (b i) true
  | .sha2cl => put (decide (w = 32 ∨ w = 64)) fun i => shaTwo w (d i) (h.elem op.vs2 g i) (b i) false
  | .ghsh => put (decide (w = 32)) fun i => ghashGroup (d i) (b i) (h.elem op.vs2 g i)
  | .gmul => put (decide (w = 32)) fun i => ghashGroup (d i) 0 (h.elem op.vs2 g i)
  | _ => none

/-- A vector instruction that the manual leaves wholly to the standard: its element results, and the flags of one of FP
operand form (funct3 1 or 5), are free. -/
def otherLane (word : BitVec 32) (w : Nat) : VLane :=
  let args (a : Nat) : BitVec 256 := BitVec.ofNat 256 a
  { dw := w, aw := w, bw := w, f := fun a b _ _ =>
      ((Config.riscvVector word (args a) (args b)).toNat % 2 ^ w,
       if [1, 5].contains (word.toNat / 2 ^ 12 % 8) then Config.riscvVectorFlags word (args a) (args b) else 0, false) }

/-- Effect of a vector instruction on the hart; `none` when the instruction does not exist at this width. -/
def Hart.vExec (h : Hart) (op : VOp) (rm : Rm) : Option Hart :=
  let w := h.sew
  match op.fn with
  | .other word => some (h.vLanes op (otherLane word w))
  | fn => match vLane fn w (h.csrFld cVxrm 1 0) rm with
    | some l => some (h.vLanes op l)
    | none => match vTest fn op.masked w with
      | some f => some (h.vTests op f)
      | none => match h.vPerm op with
        | some x => some x
        | none => h.vGroups op

/-- A vector FP instruction (R130): FP arithmetic, and every form with an f operand. -/
def vIsFp (op : VOp) : Bool :=
  match op.src, op.fn with
  | .f _, _ => true
  | _, .fp _ => true | _, .fwmaccbf16 => true | _, .fncvtbf16 => true
  | _, .frsub => true | _, .frdiv => true | _, .fmulAdd _ => true | _, .fne => true | _, .fgt => true | _, .fge => true
  | _, .fwide _ _ => true | _, .fcvt _ _ => true | _, .frec7 => true | _, .frsqrt7 => true
  | _, .other word => [1, 5].contains (word.toNat / 2 ^ 12 % 8)
  | _, _ => false

/-- Register operands of a vector instruction. -/
inductive VGrp where
  /-- A group of elements of e bits. -/
  | vec (e : Nat)
  /-- One register whatever the grouping (a mask, a scalar element), or none. -/
  | one
  /-- A group of n registers. -/
  | regs (n : Nat)
deriving DecidableEq, Repr

/-- Destination, vs2 and vs1 of an instruction at SEW w. -/
def vGroupsOf (fn : VFn) (w : Nat) : VGrp × VGrp × VGrp :=
  match fn with
  | .maskOp _ => (.one, .one, .one) | .sbf => (.one, .one, .one) | .sif => (.one, .one, .one) | .sof => (.one, .one, .one)
  | .cpop => (.one, .one, .one) | .first => (.one, .one, .one)
  | .mvXS => (.one, .one, .one) | .mvSX => (.one, .one, .one)
  | .fp .mvToX => (.one, .one, .one) | .fp .mvFromX => (.one, .one, .one)
  | .iota => (.vec w, .one, .one) | .compress => (.vec w, .vec w, .one)
  | .mvr n => (.regs n, .regs n, .one)
  | .gatherei16 => (.vec w, .vec w, .vec 16)
  | .aes _ vs => (.vec w, if vs then .one else .vec w, .one)
  | fn => match vLane fn w 0 .rne with
    | some l => (.vec l.dw, .vec l.aw, .vec l.bw)
    | none => (if vIsMask fn then .one else .vec w, .vec w, .vec w)

/-- Registers of a group; 0 where EMUL is not one of 1/8 to 8. -/
def Hart.groupRegs (h : Hart) (g : VGrp) : Nat :=
  match g with
  | .one => 1
  | .regs n => n
  | .vec e =>
    let m := h.lmul8 * e / h.sew
    if m = 0 ∨ 64 < m then 0 else max 1 (m / 8)

/-- Register r can start a group. -/
def Hart.grpOk (h : Hart) (g : VGrp) (r : Nat) : Bool := decide (h.groupRegs g ≠ 0) && decide (r % h.groupRegs g = 0)

/-- A vector arithmetic instruction may execute: vector state on, vill clear (but for a whole-register move), vstart 0, aligned
groups, and no masked destination over v0 (R141; RISC-V, log 6). -/
def Hart.vLegal (h : Hart) (op : VOp) : Bool :=
  let (d, a, b) := vGroupsOf op.fn h.sew
  h.vsOn && !h.vill && decide (h.vstart = 0) && h.grpOk d op.vd && h.grpOk a op.vs2
    && (match op.src with | .v r => h.grpOk b r | _ => true)
    && !(op.masked && decide (op.vd % 32 = 0) && !vIsMask op.fn && decide (d ≠ .one))

/-- Latency of one vector µop (R145). -/
def vLatency (fn : VFn) (sew lmul : Nat) : Nat :=
  let idiv := if sew = 8 then 10 else if sew = 16 then 12 else if sew = 32 then 16 else 24
  let fdiv := if sew = 16 then 7 else if sew = 32 then 10 else 13
  match fn with
  | .mul => 4 | .mulh => 4 | .mulhu => 4 | .mulhsu => 4 | .macc => 4 | .nmsac => 4 | .madd => 4 | .nmsub => 4 | .smul => 4
  | .wide f _ => (match f with | .addu => 1 | .add => 1 | .subu => 1 | .sub => 1 | .sll => 1 | _ => 4)
  | .div => idiv | .divu => idiv | .rem => idiv | .remu => idiv
  | .slideup => 2 | .slidedown => 2 | .slide1up => 2 | .slide1down => 2
  | .rgather => 2 + lmul | .gatherei16 => 2 + lmul | .compress => 2 + lmul
  | .cpop => 3 | .first => 3 | .iota => 3
  | .aes _ _ => 4 | .sha2ms => 6 | .sha2ch => 6 | .sha2cl => 6 | .ghsh => 6 | .gmul => 6
  | .fwmaccbf16 => 4 | .fncvtbf16 => 3
  | .fmulAdd _ => 4 | .fcvt _ _ => 3 | .frec7 => 2 | .frsqrt7 => 2 | .frsub => 3 | .frdiv => fdiv
  | .fwide g _ => (match g with | .add => 3 | .sub => 3 | _ => 4)
  | .fp f => (match f with
    | .add => 3 | .sub => 3 | .min => 3 | .max => 3 | .sgnj => 3 | .sgnjn => 3 | .sgnjx => 3
    | .mul => 4 | .madd => 4 | .msub => 4 | .nmsub => 4 | .nmadd => 4
    | .div => fdiv
    | .sqrt => if sew = 16 then 8 else if sew = 32 then 11 else 16
    | .cvtToInt _ => 3 | .cvtFromInt _ => 3 | .cvtFmt _ => 3
    | _ => 1)
  | _ => 1

/-- VECTOR_INSTRUCTION (R95, R130, R141, R142, R145): one µop per destination register. With vl = 0 nothing is written. -/
def Chip.vectorInstruction (c : Chip) (hid : Nat) (op : VOp) : Chip :=
  match c.liveCore hid with
  | none => c
  | some _ =>
    let h := c.hart hid
    let rm := rmOf (h.csrFld cFrm 2 0)
    if h.held.isSome then c
    else if !h.vLegal op || (vIsFp op && (!h.fsOn || rm.isNone)) then c.illegal hid
    else match h.vExec op (rm.getD .rne) with
      | none => c.illegal hid
      | some h' =>
        if h.vl = 0 then c.retire hid 4 1
        else
          let n := max 1 (h.groupRegs (vGroupsOf op.fn h.sew).1)
          (c.modHart hid fun _ => h'.vsDirty.event 0x501 (if vIsFp op then 2 else 0x100)).retire hid 4
            (vLatency op.fn h.sew (max 1 (h.lmul8 / 8))) n

/-! Vector reductions (R143, R145). -/

/-- One level of the unordered sum: adjacent pairs added, an odd last element passed on. -/
def pairSums (f : Fmt) (rm : Rm) : List Nat → List Nat × BitVec 5
  | a :: b :: t =>
    let (r, fl) := fAdd f rm (unpack f a) (unpack f b)
    let (rs, gl) := pairSums f rm t
    (r :: rs, fl ||| gl)
  | l => (l, 0)

/-- The unordered sum of a list (R143); none for an empty list. -/
def treeSum (f : Fmt) (rm : Rm) : Nat → List Nat → Option Nat × BitVec 5
  | _, [] => (none, 0)
  | _, [x] => (some x, 0)
  | 0, x :: _ => (some x, 0)
  | fuel + 1, l =>
    let (l', fl) := pairSums f rm l
    let (r, gl) := treeSum f rm fuel l'
    (r, fl ||| gl)

/-- ⌈log2 n⌉ for n ≥ 1. -/
def clog2 (n : Nat) : Nat := if n ≤ 1 then 0 else bitLen (n - 1)

/-- Result, flags and latency of a reduction from its start value and active elements (R143, R145). -/
def redResult (fn : VRedFn) (f : Fmt) (rm : Rm) (w : Nat) (start : Nat) (es : List Nat) : Nat × BitVec 5 × Nat :=
  let n := es.length
  let intOp (g : Nat → Nat → Nat) : Nat × BitVec 5 × Nat := (es.foldl g start, 0, 3 + clog2 n)
  let addAll (x : Nat) : Nat × BitVec 5 :=
    es.foldl (fun (r : Nat × BitVec 5) e => let (s, fl) := fAdd f rm (unpack f r.1) (unpack f e); (s, r.2 ||| fl)) (x, 0)
  match fn with
  | .sum => intOp fun a b => (a + b) % 2 ^ w
  | .wsumu => intOp fun a b => (a + b) % 2 ^ w
  | .wsum => intOp fun a b => (a + b) % 2 ^ w
  | .and => intOp fun a b => a &&& b
  | .or => intOp fun a b => a ||| b
  | .xor => intOp fun a b => a ^^^ b
  | .minu => intOp min
  | .maxu => intOp max
  | .min => intOp fun a b => if sInt w b < sInt w a then b else a
  | .max => intOp fun a b => if sInt w a < sInt w b then b else a
  | .fmin => let (r, fl) := es.foldl (fun (r : Nat × BitVec 5) e => let (s, g) := fMinMax f false r.1 e; (s, r.2 ||| g)) (start, 0)
             (r, fl, 3 + 2 * clog2 n)
  | .fmax => let (r, fl) := es.foldl (fun (r : Nat × BitVec 5) e => let (s, g) := fMinMax f true r.1 e; (s, r.2 ||| g)) (start, 0)
             (r, fl, 3 + 2 * clog2 n)
  | .fosum => let (r, fl) := addAll start; (r, fl, 2 + 3 * n)
  | .fwosum => let (r, fl) := addAll start; (r, fl, 2 + 3 * n)
  | _ =>
    match treeSum f rm (n + 1) es with
    | (some v, fl) => let (r, gl) := fAdd f rm (unpack f start) (unpack f v); (r, fl ||| gl, 2 + 3 * (clog2 n + 1))
    | (none, fl) => (start, fl, 2)

/-- VECTOR_REDUCTION (R141, R143, R145). -/
def Chip.vectorReduction (c : Chip) (hid : Nat) (op : VRedOp) : Chip :=
  match c.liveCore hid with
  | none => c
  | some _ =>
    let h := c.hart hid
    let rm := rmOf (h.csrFld cFrm 2 0)
    let isFp := [VRedFn.fosum, .fusum, .fwosum, .fwusum, .fmin, .fmax].contains op.fn
    let wide := [VRedFn.fwosum, .fwusum, .wsumu, .wsum].contains op.fn
    let g := max 1 (h.lmul8 / 8)
    let w := h.sew
    let ok := h.vsOn && !h.vill && decide (h.vstart = 0) && decide (op.vs2 % g = 0)
      && (!wide || decide (w ≤ 32)) && (!isFp || (h.fsOn && rm.isSome && (fmtOfSew w).isSome))
    if h.held.isSome then c
    else if !ok then c.illegal hid
    else if h.vl = 0 then c.retire hid 4 1
    else
      let dw := if wide then 2 * w else w
      let f := (fmtOfSew dw).getD .d
      let es := (h.active op.masked).map fun i =>
        let e := h.elem op.vs2 w i
        match op.fn with
        | .wsumu => e
        | .wsum => wrapNat dw (sInt w e)
        | _ => if wide then (fConvert f .rne (unpack ((fmtOfSew w).getD .s) e)).1 else e
      let wfl : BitVec 5 := if wide && isFp then (h.active op.masked).foldl (fun (a : BitVec 5) i =>
        a ||| (fConvert f .rne (unpack ((fmtOfSew w).getD .s) (h.elem op.vs2 w i))).2) 0 else 0
      let (r, fl, lat) := if es.isEmpty then (h.elem op.vs1 dw 0, 0, 2) else redResult op.fn f (rm.getD .rne) dw (h.elem op.vs1 dw 0) es
      (c.modHart hid fun h => ((h.setElem op.vd dw 0 r).accrue (fl ||| wfl)).vsDirty).retire hid 4 lat

end Sys2Proof.Machine
end

