-- ==== Sys2Proof/Machine/HartRun.lean ====
section
/-! DEFINITION. Serialising instructions, traps by command, WFI, Rest and wake, debug entry, counters and precise sampling
(R96, R98, R111, R116-R121, R444-R446, R452-R461, R476, R482, R487). -/

namespace Sys2Proof.Machine

/-- SERIALISING_INSTRUCTION (R96): a write of a translation root or status CSR, MRET or SRET, with the store buffer
empty; younger instructions are refetched. -/
def Chip.serialising (c : Chip) (hid : Nat) (op : SerialOp) : Chip :=
  match c.liveCore hid with
  | none => c
  | some _ =>
    let h := c.hart hid
    if !h.sbEmpty || h.held.isSome then c
    else match op with
      | .csrWrite csr rs1 =>
        let x := h.getX rs1
        (c.csrIns hid csr 0 true (fun _ => x) 4).modHart hid fun h => { h with refetch := true }
      | .mret =>
        if h.priv ≠ .m then c.illegal hid
        else (c.retire hid 0 1).modHart hid fun h => { h.mret.dropEarly with refetch := true }
      | .sret =>
        if h.priv = .u then (if h.virt then c.virtualIns hid else c.illegal hid)
        else if h.virt ∧ h.csrFld cHstatus 22 22 = 1 then c.virtualIns hid
        else if h.virt = false ∧ h.priv = .s ∧ h.csrFld cMstatus 22 22 = 1 then c.illegal hid
        else (c.retire hid 0 1).modHart hid fun h => { h.sret.dropEarly with refetch := true }

/-- An interrupt that is pending and locally enabled (mip and mie), whatever the global enables (R118). -/
def Chip.intPending (c : Chip) (hid : Nat) : Bool := decide ((c.mip hid &&& (c.hart hid).csr cMie) ≠ 0)

/-- An instruction of the hart has begun an access that may not be begun twice, and has not retired (R102, R111): an uncached
store or load, a cache-block operation, a vector store in part. No interrupt and no debug halt comes between. -/
def Chip.midway (c : Chip) (hid : Nat) : Bool :=
  let h := c.hart hid
  let x := c.core h.core
  h.ioSt || h.cbo.isSome || decide (h.vst ≠ 0) || !h.ncGot.isEmpty
    || (x.reqs.any fun r => decide (r.kind = .ncRd) || decide (r.kind = .ncWr)) || x.nc.any fun m => !m.err

/-- An interrupt of a code is taken in the present mode: pending, enabled, and its level's interrupts enabled
(privileged ISA, log 6). -/
def Chip.intTakes (c : Chip) (hid cause : Nat) : Bool :=
  let h := c.hart hid
  let on := decide (fld (c.mip hid &&& h.csr cMie) cause cause = 1)
  let level : Nat := if h.csrFld 0x303 cause cause = 0 then 0 else if h.csrFld 0x603 cause cause = 1 then 2 else 1
  on && match level with
    | 0 => decide (h.priv ≠ .m) || decide (h.csrFld cMstatus 3 3 = 1)
    | 1 => decide (h.priv ≠ .m) && (h.virt || decide (h.priv = .u) || decide (h.csrFld cMstatus 1 1 = 1))
    | _ => h.virt && (decide (h.priv = .u) || decide (h.csrFld cVsstatus 1 1 = 1))

/-- TRAP_ENTRY (R98, R111, R116): an exception of the instruction at the pc, or an interrupt between instructions when
it is pending and enabled; never between the halves of a split access, nor in the midst of one that has been issued. -/
def Chip.trapEntry (c : Chip) (hid : Nat) (interrupt : Bool) (cause : Nat) (tval : DWord) : Chip :=
  if (c.hart hid).live then
    if interrupt then
      if c.intTakes hid cause && (c.hart hid).held.isNone && !c.midway hid then c.modHart hid fun h => h.enterTrap true cause 0 else c
    else c.raise hid cause tval
  else c

/-- PAGE_WALK (R103). -/
def Chip.pageWalk (c : Chip) (hid : Nat) : Chip :=
  match (c.hart hid).walk with
  | some w => if (c.hart hid).live then c.doWalk hid w else c
  | none => c

/-- MOL_BPCTL_WRITE and BPCTL_FLUSH (R88-R90). -/
def Chip.bpctlWrite (c : Chip) (hid : Nat) (v : DWord) : Chip := c.csrIns hid cBpctl 0 true (fun _ => v) 4

/-- BPCTL_FLUSH (R90): a write of 1 to FLUSH that keeps DET and PFOFF. -/
def Chip.bpctlFlush (c : Chip) (hid : Nat) : Chip := c.csrIns hid cBpctl 0 true (fun o => (o &&& 3) ||| 4) 4

/-- MOL_RESTCTL_WRITE (R88, R89, R91). -/
def Chip.restctlWrite (c : Chip) (hid : Nat) (v : DWord) : Chip := c.csrIns hid cRestctl 0 true (fun _ => v) 4

/-! WFI, Rest and wake (R118-R121, R487). -/

/-- Rest entry (R119): once no request of the L2 is outstanding (DEDUCED from R122, log 83), the reservation is lost, the L1s
are emptied into the L2, TLBs, page-walk cache and predictors are discarded, CUR reads Rest and LAST_REST sets. -/
def Chip.enterRest (c : Chip) (hid : Nat) : Chip :=
  match c.coreOfHart hid with
  | none => c
  | some k =>
    if !(c.core k).reqs.isEmpty then c
    else
      let c := c.modHart hid fun h =>
        { (h.setCsrFld cRestctl 16 16 1).flushPred with
          run := .rest, resv := none, itlb := [], dtlb := [], tlb := [], pwc := [], walk := none, early := [] }
      let c := c.modCore k fun x => { x.emptyL1 with power := .rest }
      c.modUnit (uCore k) fun u => { u with cur := 1, busy := false }

/-- WFI (R118): traps by TW and VTW (privileged ISA, log 6), a no-op with an interrupt pending, else the stall after WFI,
or Rest at once with DELAY 0. In U-mode and VU-mode with TW = 0 the implementation's time limit is 0, so WFI always traps
there (DESIGN CHOICE, log 83); a WFI that retires as a no-op leaves LAST_REST as it was (DESIGN CHOICE, log 83). -/
def Chip.wfi (c : Chip) (hid : Nat) : Chip :=
  match c.liveCore hid with
  | none => c
  | some _ =>
    let h := c.hart hid
    if !h.sbEmpty || h.held.isSome then c
    else if h.priv ≠ .m ∧ h.csrFld cMstatus 21 21 = 1 then c.illegal hid
    else if h.virt ∧ (h.priv = .u ∨ h.csrFld cHstatus 21 21 = 1) then c.virtualIns hid
    else if h.priv = .u then c.illegal hid
    else if c.intPending hid then (c.retire hid 4 1).modHart hid fun h => { h.dropEarly with refetch := true }
    else
      let c := (c.retire hid 4 1).modHart hid fun h => { (h.setCsrFld cRestctl 16 16 0).dropEarly with run := .wfi, refetch := true }
      if (c.hart hid).csrFld cRestctl 15 0 = 0 then c.enterRest hid else c

/-- REST_ENTRY (R118, R119): DELAY µs of the stall have passed; 0xFFFF never enters Rest. -/
def Chip.restEntry (c : Chip) (hid : Nat) : Chip :=
  let h := c.hart hid
  if h.run = .wfi ∧ h.csrFld cRestctl 15 0 ≠ 0xFFFF then c.enterRest hid else c

/-- Debug-mode entry (R98, R118): dpc and dcsr of the debug specification hold the pc, the privilege and the cause, a halt
request (PRESUMED, log 6). -/
def Hart.enterDebug (h : Hart) : Hart :=
  let d := setFld (setFld (setFld (h.csr 0x7B0) 8 6 3) 5 5 (bit h.virt)) 1 0 h.priv.code
  { ((h.setCsr 0x7B1 h.pc).setCsr 0x7B0 d).flushPred with run := .debug, priv := .m, virt := false, early := [], walk := none }

/-- WAKE_EVENT (R118, R120, R121, R482, R487): ends the stall, or starts the wake from Rest with an announced ramp. An
interrupt wakes when it is pending and locally enabled; a debug halt request always does. -/
def Chip.wakeEvent (c : Chip) (hid : Nat) (dbg : Bool) : Chip :=
  match c.coreOfHart hid with
  | none => c
  | some k =>
    let h := c.hart hid
    if !(dbg || c.intPending hid) then c
    else match h.run with
      | .wfi =>
        let c := c.grantRamp k .wfiExit
        c.modHart hid fun h => if dbg then h.enterDebug else { h with run := .running }
      | .rest =>
        let c := (c.modHart hid fun h => { h with run := .waking dbg }).modCore k fun x => { x with power := .waking, wakeAt := c.mtime.toNat }
        ((c.modUnit (uCore k) fun u => { u with busy := true }).announce k .restWake).wakeStretch
      | .waking _ => if dbg then c.modHart hid fun h => { h with run := .waking true } else c
      | _ => c

/-- REST_WAKE_RESUME (R120, R487): 3.0 µs after the wake event the hart executes the instruction after WFI, or is in
debug mode; Data that came in Rest is placed in the L2 now (R122). -/
def Chip.restResume (c : Chip) (hid : Nat) : Chip :=
  match c.coreOfHart hid with
  | none => c
  | some k =>
    match (c.hart hid).run with
    | .waking dbg =>
      let c := (c.modCore k fun x => { x with power := .run }).modUnit (uCore k) fun u => { u with cur := 0, busy := false }
      (c.modHart hid fun h => if dbg then h.enterDebug else { h with run := .running }).refills k
    | _ => c

/-- DEBUG_HALT (R98, R118): a running hart enters debug mode before its next instruction; WFI is not executed. -/
def Chip.debugHalt (c : Chip) (hid : Nat) : Chip :=
  if (c.hart hid).live ∧ (c.hart hid).held.isNone ∧ c.midway hid = false then c.modHart hid Hart.enterDebug else c

/-! Counters (R444-R447, R452). -/

/-- CSRs that COUNTER_WRITE names: counters, event selectors, inhibit and enable registers (R444). -/
def counterCsr (n : Nat) : Bool :=
  (decide (0xB00 ≤ n) && decide (n ≤ 0xB1F)) || (decide (0x323 ≤ n) && decide (n ≤ 0x33F)) || [0x320, 0x306, 0x106, 0x606].contains n

/-- COUNTER_WRITE (R446, R447). -/
def Chip.counterWrite (c : Chip) (hid csr : Nat) (v : DWord) : Chip :=
  if counterCsr csr then c.csrIns hid csr 0 true (fun _ => v) 4 else c

/-- COUNTER_OVERFLOW (R452): counter n passes the wrap and keeps the remainder; a counter that samples sets no OF. A hart whose
clock is gated counts nothing (R445). -/
def Chip.counterOverflow (c : Chip) (hid n rem : Nat) : Chip :=
  if (c.hart hid).live ∧ 3 ≤ n ∧ n ≤ 10 then
    c.modHart hid fun h =>
      let h := h.setCsr (0xB00 + n) (BitVec.ofNat 64 rem)
      if h.samples n then h else h.overflow n
  else c

/-! Precise sampling (R454-R461). -/

/-- The record of a sample (R459). -/
def sampleRecord (h : Hart) (hid : Nat) (time : DWord) (i : SampleInfo) (k : Nat) : List Byte :=
  let e := h.csr (0x320 + i.ctr)
  leBytes i.iaddr.toNat 8 ++ leBytes i.daddr.toNat 8 ++ leBytes i.paddr.toNat 8 ++ leBytes time.toNat 8
    ++ leBytes i.latency.toNat 2 ++ [i.source, i.flags &&& 0x7F]
    ++ leBytes (fld e 11 0 + (i.ctr - 3) % 8 * 2 ^ 12) 2 ++ [BitVec.ofNat 8 (fld e 19 12), BitVec.ofNat 8 (h.priv.code + 4 * bit h.virt)]
    ++ leBytes hid 2 ++ leBytes i.asid.toNat 2 ++ leBytes (if h.virt then i.vmid.toNat else 0) 2 ++ [0, 0]
    ++ leBytes k 4 ++ List.replicate 12 0

/-- SAMPLE (R457, R458, R461): the sampling counter reloads with PERIOD and jitter; the record is written to its line
unless the ring is full, four records are in flight, or the write is denied. -/
def Chip.sample (c : Chip) (hid : Nat) (i : SampleInfo) : Chip :=
  let h := c.hart hid
  if !h.live || h.sampling ≠ some i.ctr then c
  else if !retiredClass (h.csr (0x320 + i.ctr)) then c.modHart hid fun h => h.overflow i.ctr
  else
    let (r, c) := c.draw
    let t := h.csr cTsctl
    let c := c.modHart hid fun h =>
      h.setCsr (0xB00 + i.ctr) (BitVec.ofNat 64 (2 ^ 64 - fld t 63 32 + r.toNat % 2 ^ (fld t 12 9)))
    let log2 := fld t 8 4
    let k := (h.csrFld cTsidx 31 0 + h.tsFly.length) % 2 ^ 32
    if 2 ^ log2 ≤ (k + 2 ^ 32 - h.csrFld cTsidx 63 32) % 2 ^ 32 ∨ 4 ≤ h.tsFly.length then
      c.modHart hid fun h => h.setCsr cTsdrops (BitVec.ofNat 64 (min (2 ^ 32 - 1) (h.csrFld cTsdrops 31 0 + 1)))
    else
      let pa := (h.csr cTsbase).toNat + 64 * (k % 2 ^ log2)
      if h.pmpOk .s .store pa && c.isMemory pa then
        let clos := match c.coreOfHart hid with | some x => c.coreClos x | none => 0
        (c.devWrite (pa / 64) (lineOf (sampleRecord h hid c.mtime i k)) (BitVec.allOnes 64) false clos none).modHart hid fun h =>
          { h with tsFly := h.tsFly ++ [i] }
      else c.modHart hid fun h => ((h.setCsrFld cTsctl 0 0 0).setCsrFld cTsctl 16 16 1).raiseLcofi

/-- SAMPLE_RECORD_DONE (R458): WR moves at the oldest record's WbAck, and the watermark may be reached. -/
def Hart.sampleDone (h : Hart) : Hart :=
  match h.tsFly with
  | [] => h
  | _ :: t =>
    let wr := (h.csrFld cTsidx 31 0 + 1) % 2 ^ 32
    let h : Hart := { h.setCsrFld cTsidx 31 0 wr with tsFly := t }
    let n := (wr + 2 ^ 32 - h.csrFld cTsidx 63 32) % 2 ^ 32
    let m := h.csrFld cTsctl 14 13
    if m ≠ 0 ∧ m * 2 ^ h.csrFld cTsctl 8 4 / 4 ≤ n ∧ h.csrFld cTsctl 15 15 = 0 then (h.setCsrFld cTsctl 15 15 1).raiseLcofi else h

/-- TSCTL_WRITE and TSIDX_WRITE (R454-R456). -/
def Chip.tsctlWrite (c : Chip) (hid : Nat) (v : DWord) : Chip := c.csrIns hid cTsctl 0 true (fun _ => v) 4
def Chip.tsidxWrite (c : Chip) (hid : Nat) (v : DWord) : Chip := c.csrIns hid cTsidx 0 true (fun _ => v) 4

end Sys2Proof.Machine
end

