-- ==== Sys2Proof/Machine/Traffic.lean ====
section
/-! DEFINITION. Accesses of harts to I/O regions, and the arrival of a message at its destination (R21, R42-R44, R49, R50,
R102, R156, R170, R192-R194, R365). -/

namespace Sys2Proof.Machine

/-! I/O regions by physical address. -/

/-- What a physical address of an I/O region names (R28-R31, R42, R43): a descriptor, a register of the block whose range
holds the offset, an offset that nothing owns, a word of an interrupt file, or a port's slice. -/
def Chip.ioAddrOf (c : Chip) (pa : Nat) : Option IoAddr :=
  match c.region pa with
  | .control =>
    let off := pa - 0x000F000000000000
    if off < 0x8040 then some (.ctl (.desc (off / 0x40) (off % 0x40)))
    else match (List.range 513).find? fun u => hasBlock (kindOf u) && decide (blockBase u ≤ off)
        && decide (off < blockBase u + blockSize u) with
      | some u => some (.ctl (.block u (off - blockBase u)))
      | none => some (.ctl (.hole off))
  | .imsic => some (.imsic ((pa - 0x000F000100000000) / 0x10000) (pa / 0x1000 % 16) (pa % 0x1000))
  | .mmio => some (.mmio pa)
  | _ => none

/-- An interrupt file's page exists (R43). -/
def Chip.imsicPage (c : Chip) (h page : Nat) : Bool := decide (h < c.nHarts) && decide (page ≤ 8)

/-- A 32-bit write of a word of an interrupt file: seteipnum_le at 0 records an identity; the other words of a page do
nothing (Advanced Interrupt Architecture, PRESUMED, log 6). -/
def Chip.imsicWrite (c : Chip) (h page off size : Nat) (v : DWord) : Chip :=
  if off = 0 ∧ size = 4 then c.imsicSet h page (v.toNat % 2 ^ 32) else c

/-! IO_ACCESS (R102). -/

/-- The access of an instruction to an MMIO slice: its NcRd or NcWr (R170, R365). -/
def ioMsg (k pa : Nat) (op : IoOp) (v : DWord) : Msg :=
  { kind := if op.write then .ncWr else .ncRd, src := .core k, dst := .unit (uPx (mmioPort pa)), line := pa / 64, off := pa % 64,
    size := op.size, data := lineOf (leBytes v.toNat op.size) <<< (8 * (pa % 64)) }

/-- The exception of an access error (R44, R49): xtval is the virtual address of the access. -/
def Chip.ioFault (c : Chip) (hid : Nat) (op : IoOp) : Chip :=
  c.raise hid (if op.write then xStoreAcc else xLoadAcc) (BitVec.ofNat 64 op.va)

/-- The register operand of a store to an I/O region. -/
def Hart.ioValue (h : Hart) (op : IoOp) : DWord := if op.fp then h.getF op.reg else h.getX op.reg

/-- A load of an I/O region ends: its register written, and retirement. -/
def Chip.ioLoaded (c : Chip) (hid : Nat) (op : IoOp) (v : Nat) : Chip :=
  (c.modHart hid fun h =>
    (if op.fp then h.setF op.reg (boxed (fmtOfSize op.size) (v % 2 ^ (8 * op.size)))
     else h.setX op.reg (loadValue (leBytes v op.size) op.signed)).event 0x201 1).retire hid op.len 14

/-- A store to an I/O region retires once its target has accepted or rejected it (R102). -/
def Chip.ioStored (c : Chip) (hid : Nat) (op : IoOp) : Chip := (c.modHart hid fun h => h.event 0x202 1).retire hid op.len 1

/-- An access to control space (R49, R50): a rejection raises nothing, an access error an exception. -/
def Chip.ioCtl (c : Chip) (hid : Nat) (op : IoOp) (a : CtlAddr) : Chip :=
  let v := (c.hart hid).ioValue op
  let err := accessError op.size (ctlOff a)
  if op.write then
    let c := c.controlWrite (.hart hid) a op.size v
    if err then c.ioFault hid op else c.ioStored hid op
  else
    let (r, c) := c.controlRead (.hart hid) a op.size
    if err then c.ioFault hid op else c.ioLoaded hid op r.toNat

/-- An access to an MMIO slice (R170, R365): sent once, and finished when its answer has come. Its bytes lie in one line. -/
def Chip.ioMmio (c : Chip) (k hid : Nat) (op : IoOp) (pa : Nat) : Chip :=
  if c.region pa ≠ .mmio ∨ 64 < pa % 64 + op.size then c.ioFault hid op
  else match (c.core k).nc with
    | some m =>
      let c := c.modCore k fun x => { x with nc := none }
      if m.line ≠ pa / 64 then c
      else if m.err then c.ioFault hid op
      else if op.write then c.ioStored hid op
      else if m.poison then c.hwError hid pa pa
      else c.ioLoaded hid op (leNat (((lineBytes m.data).drop (pa % 64)).take op.size))
    | none => (c.askWith k (ioMsg k pa op ((c.hart hid).ioValue op))).getD c

/-- The physical address that an I/O address stands for, where PMP checks it (R42, R43); a doorbell page and an offset of a
function's configuration space lie in no hart's map and have none. -/
def Chip.ioPa (c : Chip) (a : IoAddr) : Option Nat :=
  let ctl (n : Nat) : Option Nat := some (0x000F000000000000 + n)
  match a with
  | .ctl (.desc u o) => ctl (0x40 * u + o)
  | .ctl (.block u o) => ctl (blockBase u + o)
  | .ctl (.hole o) => ctl o
  | .ctl _ => none
  | .doorbell (.region u o) => ctl (blockBase u + c.dbBase u + o)
  | .doorbell (.page _ _) => none
  | .imsic h p o => some (0x000F000100000000 + 0x10000 * h + 0x1000 * p + o)
  | .mmio pa => some pa

/-- PMP permits the access in the mode that performs it. -/
def Chip.ioPmp (c : Chip) (hid : Nat) (op : IoOp) : Bool :=
  let h := c.hart hid
  let acc : Access := if op.write then .store else .load
  match c.ioPa op.addr with
  | some pa => h.pmpOk (h.effective acc).1 acc pa
  | none => true

/-- An access to an I/O region by the oldest instruction (R102); an access error is a precise exception (R44, R49). -/
def Chip.ioPerform (c : Chip) (k hid : Nat) (op : IoOp) : Chip :=
  match op.addr with
  | .ctl a => c.ioCtl hid op a
  | .doorbell a =>
    match a with
    | .region u p => c.ioCtl hid op (.block u (c.dbBase u + p))
    | .page _ p =>
      if accessError op.size p then c.ioFault hid op
      else if op.write then (c.doorbell (.hart hid) a op.size ((c.hart hid).ioValue op)).ioStored hid op
      else c.ioLoaded hid op 0
  | .imsic h page off =>
    if !c.imsicPage h page then c.ioFault hid op
    else if op.write then (c.imsicWrite h page off op.size ((c.hart hid).ioValue op)).ioStored hid op
    else c.ioLoaded hid op 0
  | .mmio pa => c.ioMmio k hid op pa

/-- IO_ACCESS (R102): the access of a load or store whose address has been translated; PMP checks it, and it is performed when
its instruction is the oldest. -/
def Chip.ioAccess (c : Chip) (hid : Nat) (op : IoOp) : Chip :=
  match c.liveCore hid with
  | none => c
  | some k =>
    if (c.hart hid).held.isSome then c
    else if op.fp && !(c.hart hid).fsOn then c.illegal hid
    else if !c.ioPmp hid op then c.ioFault hid op
    else c.ioPerform k hid op

/-- Where a load or store of a hart meets an I/O region: its first physical address, and whether the access lies in one
piece; none for an access to memory alone, and for one that does not translate (R42, R102). -/
def Chip.ioTarget (c : Chip) (hid va size : Nat) (acc : Access) : Option (Nat × Bool) :=
  match c.spans hid va size acc with
  | .ok l _ =>
    if l.any fun s => decide (c.region s.1 ≠ .memory) then some ((l.headD (0, 0)).1, decide (l.length = 1)) else none
  | _ => none

/-- A load or store that reaches an I/O region (R102): performed as the oldest instruction, never on a wrong path and never ahead
of program order; one that crosses a line raises an access fault (R49, log 22). -/
def Chip.ioGo (c : Chip) (k hid pa : Nat) (one : Bool) (op : IoOp) : Chip :=
  match (if one then c.ioAddrOf pa else none) with
  | some a => c.ioPerform k hid { op with addr := a }
  | none => c.ioFault hid op

/-- LOAD (R102, R105): of memory, or of an I/O region. -/
def Chip.loadAny (c : Chip) (hid : Nat) (op : LoadOp) : Chip :=
  let h := c.hart hid
  let va := h.addr op.rs1 op.imm
  match c.liveCore hid, c.ioTarget hid va op.size .load with
  | some k, some (pa, one) =>
    if op.wrong || op.early.isSome || h.held.isSome || (op.fp && !h.fsOn) then c.load hid op
    else c.ioGo k hid pa one { write := false, reg := op.rd, addr := .mmio pa, size := op.size, signed := op.signed, len := op.len,
                               fp := op.fp, va := va }
  | _, _ => c.load hid op

/-- STORE (R102, R104): to memory, or to an I/O region. -/
def Chip.storeAny (c : Chip) (hid : Nat) (op : StoreOp) : Chip :=
  let h := c.hart hid
  let va := h.addr op.rs1 op.imm
  match c.liveCore hid, c.ioTarget hid va op.size .store with
  | some k, some (pa, one) =>
    if op.wrong || h.held.isSome || (op.fp && !h.fsOn) then c.store hid op
    else c.ioGo k hid pa one { write := true, reg := op.rs2, addr := .mmio pa, size := op.size, len := op.len, fp := op.fp, va := va }
  | _, _ => c.store hid op

/-! Messages. -/

/-- A message that arrives is one of the mesh's; one that a command brings from outside is put there first (log 7). -/
def Chip.arrive (c : Chip) (m : Msg) : Chip := if c.mesh.contains m then c else { c with mesh := c.mesh ++ [m] }

/-- A request of R156 at its home. -/
def Chip.atHome (c : Chip) (m : Msg) : Chip :=
  match m.dst with
  | .home i => (c.arrive m).homeReq i m
  | _ => c

/-- The Cmp and Data that an I/O stop or a controller answers a request with (R156, R170). -/
def stopCmp (m : Msg) (err : Bool) : Msg := { kind := .cmp, src := m.dst, dst := m.src, line := m.line, off := m.off, size := m.size, err := err }
def stopData (m : Msg) (v : DWord) : Msg :=
  { kind := .data, src := m.dst, dst := m.src, line := m.line, off := m.off, size := m.size,
    data := lineOf (leBytes v.toNat m.size) <<< (8 * m.off) }

/-- Who a message's sender is to control space: a core's hart, or the Bellwether controller (R48, R355). -/
def Chip.srcOf (c : Chip) (a : Agent) : Option Src :=
  match a with
  | .core k => some (.hart (c.core k).hartId)
  | .unit u => if u = uBellwether then some .bellwether else none
  | _ => none

/-- NcRd or NcWr at the I/O-die stop, which owns control space and the interrupt files (R21, R170): performed and answered;
an access that nothing owns, or that R49 makes an error, answers an access error (R44). -/
def Chip.bridgeNc (c : Chip) (m : Msg) : Chip :=
  let c := c.take m
  let v : DWord := (m.data >>> (8 * m.off)).setWidth 64
  match c.srcOf m.src, c.ioAddrOf (m.line * 64 + m.off) with
  | some src, some (.ctl a) =>
    let err := accessError m.size (ctlOff a)
    if m.kind = .ncWr then (c.controlWrite src a m.size v).send (stopCmp m err)
    else
      let (r, c) := c.controlRead src a m.size
      c.send (if err then stopCmp m true else stopData m r)
  | _, some (.imsic h page off) =>
    if m.kind = .ncWr then (c.imsicWrite h page off m.size v).send (stopCmp m false) else c.send (stopData m 0)
  | _, _ => c.send (stopCmp m true)

/-- NcRd and NcWr (R169, R170): at a home, at a bus port, or at the I/O-die stop. -/
def Chip.ncReq (c : Chip) (m : Msg) : Chip :=
  match m.dst with
  | .home i => (c.arrive m).homeReq i m
  | .bridge => (c.arrive m).bridgeNc m
  | .unit u => if kindOf u = .busPort then (c.arrive m).outbound (u - 17) m else c
  | _ => c

/-- RdOnce (R156, R162): at a home, or a home's at the memory that serves the line. -/
def Chip.rdOnceReq (c : Chip) (m : Msg) (errs : List Nat) : Chip :=
  match m.dst with
  | .home i => (c.arrive m).homeReq i m
  | .mc n => (c.arrive m).mcRdOnce n m errs
  | .unit u => if kindOf u = .busPort then (c.arrive m).cxlMessage (u - 17) m else c
  | _ => c

/-- PutDirty (R156, R165): at a home, or a home's at the memory that serves the line. -/
def Chip.putDirtyReq (c : Chip) (m : Msg) : Chip :=
  match m.dst with
  | .home i => (c.arrive m).homeReq i m
  | .mc n => (c.arrive m).mcPutDirty n m
  | .unit u => if kindOf u = .busPort then (c.arrive m).cxlMessage (u - 17) m else c
  | _ => c

/-- A FwdShared at an L2. -/
def Chip.fwdSharedAt (c : Chip) (m : Msg) : Chip :=
  match m.dst with
  | .core x => (c.arrive m).l2FwdShared x m
  | _ => c

/-- FwdOwn and Inval at an L2, held there while a reservation protects the line (R116). -/
def Chip.fwdOwnAt (c : Chip) (m : Msg) : Chip :=
  match m.dst with
  | .core x =>
    if c.resvHolds x m.line then ((c.arrive m).take m).modCore x fun k => { k with heldSnp := k.heldSnp ++ [m] }
    else (c.arrive m).l2FwdOwn x m
  | _ => c

def Chip.invalAt (c : Chip) (m : Msg) : Chip :=
  match m.dst with
  | .core x =>
    if c.resvHolds x m.line then ((c.arrive m).take m).modCore x fun k => { k with heldSnp := k.heldSnp ++ [m] }
    else (c.arrive m).l2Inval x m
  | _ => c

/-- CLOSE (R194): at a memory controller. -/
def Chip.closeAt (c : Chip) (m : Msg) : Chip :=
  match m.dst with
  | .mc n => (c.arrive m).mcClose n m
  | _ => c

/-- Ack and SnpNoData at their home. -/
def Chip.ackAt (c : Chip) (m : Msg) : Chip :=
  match m.dst with
  | .home i => ((c.arrive m).take m).ackAnswer i m.line m.src
  | _ => c

def Chip.snpNoDataAt (c : Chip) (m : Msg) : Chip :=
  match m.dst, m.src with
  | .home i, .core x => ((c.arrive m).take m).snpAnswer i m.line x m.kept
  | _, _ => c

/-- WbData at a home; a home's at the memory that serves the line, where a bus port keeps it for its PutDirty (R156, R377). -/
def Chip.wbDataAt (c : Chip) (m : Msg) : Chip :=
  match m.dst with
  | .home i => (c.arrive m).homeWbData i m
  | .mc n => (c.arrive m).mcWbData n m
  | .unit u =>
    let c := (c.arrive m).take m
    if kindOf u = .busPort then c.modPx (u - 17) fun x => { x with wbd := x.wbd ++ [m] } else c
  | _ => (c.arrive m).take m

/-- WbAck and WbAckStale at an L2, and at a home whose write memory has taken; a device's write is done at once (log 8) and only
the message goes. -/
def Chip.wbAckAt (c : Chip) (m : Msg) : Chip :=
  match m.dst with
  | .core x => (c.arrive m).l2WbAck x m
  | .home i => ((c.arrive m).take m).homeWbAck i m.line
  | _ => (c.arrive m).take m

/-- A Cmp at a core, or at a device, which then sends the WbData of its NcWr (R169 step 3). -/
def Chip.cmpAt (c : Chip) (m : Msg) : Chip :=
  match m.dst with
  | .core x => (c.arrive m).l2Cmp x m
  | .unit u =>
    let c := (c.arrive m).take m
    match m.src with
    | .home i => match (c.home i).txnOf m.line with
      | some t =>
        if t.stage = .data ∧ t.req.src = .unit u ∧ t.req.kind = .ncWr ∧ m.err = false then
          c.send { kind := .wbData, src := .unit u, dst := .home i, line := m.line, data := t.req.data, mask := t.req.mask, poison := t.req.poison }
        else c
      | none => c
    | _ => c
  | _ => (c.arrive m).take m

/-- Data and FwdData: a core's fill; a home's own read; at a device, whose read needs the home's Ack (R163), the end of the read. -/
def Chip.dataAt (c : Chip) (m : Msg) : Chip :=
  match m.dst with
  | .core x => (c.arrive m).l2Data x m
  | .unit u =>
    let c := (c.arrive m).take m
    match m.src with
    | .bridge => c
    | .unit _ => c
    | _ => c.send (ackMsg (.unit u) m.line)
  | .home i => ((c.arrive m).take m).homeData i m
  | _ => (c.arrive m).take m

end Sys2Proof.Machine
end

