-- ==== Sys2Proof/Machine/Guard.lean ====
section
/-! DEFINITION. The parts that a command names, and the register writes that a command row stands for. -/

namespace Sys2Proof.Machine

/-- What a command answers. -/
abbrev Answer := Host.Outcome State Fault Refusal

/-- How many parts of a kind the device has (R2-R5, R18, R26, R28, R73, R224, R260, R302, R306, R331, R335, R360, R362,
R463, R472). A member without an Ethernet port has none. -/
def Chip.parts (c : Chip) : Part → Nat
  | .hart => c.nHarts
  | .core => 200
  | .slice => 100
  | .channel => 12
  | .ethPort => c.fuse.eth
  | .mac => 8
  | .busPort => 4
  | .subLink => 4
  | .engine => 2
  | .lane => 16
  | .cluster => 2
  | .droverCore => 32
  | .fold => 20
  | .paddock => 4
  | .bank => 42
  | .rail => 6
  | .queue => 8192
  | .mset => 16
  | .record => 4
  | .unit => 514

/-- A device with its fuses as they are. -/
def Chip.withFuse (c : Chip) (f : Fuses) : Chip := { c with fuse := f }

/-- A command done, when the device has every part that it names. The queue is left as it is, and so are the fuses, which
no command of the table burns (R2, R493). -/
def onParts (l : List (Part × Nat)) (s : State) (f : Chip → Chip) : Answer :=
  match l.find? fun e => decide (s.chip.parts e.1 ≤ e.2) with
  | some e => .fault (.noSuchPart e.1 e.2)
  | none => .next { s with chip := (f s.chip).withFuse s.chip.fuse }

/-! The parts that an operand names. -/

def srcParts : Src → List (Part × Nat)
  | .hart h => [(.hart, h)]
  | _ => []

def ctlParts : CtlAddr → List (Part × Nat)
  | .block u _ => [(.unit, u)]
  | _ => []

def dbParts : DbAddr → List (Part × Nat)
  | .region u _ => [(.unit, u)]
  | _ => []

/-- A ring's queue number: 8,192 queues of each direction, 256 rings of an engine, 64 of a cluster (R274, R306, R336). -/
def ringParts : RingId → List (Part × Nat)
  | .rx q => [(.queue, q)]
  | .tx q => [(.queue, q)]
  | .sh e r => [(.engine, e), (.queue, 32 * r)]
  | .dv d r => [(.cluster, d), (.queue, 128 * r)]
  | .adm _ => []

def agentParts : Agent → List (Part × Nat)
  | .core k => [(.core, k)]
  | .home i => [(.slice, i)]
  | .mc n => [(.channel, n)]
  | .unit u => [(.unit, u)]
  | .bridge => []

def msgParts (m : Msg) : List (Part × Nat) := agentParts m.src ++ agentParts m.dst ++ agentParts m.req

def ioParts : IoAddr → List (Part × Nat)
  | .ctl a => ctlParts a
  | .doorbell a => dbParts a
  | _ => []

/-- Register of an interleave set (R229). -/
def msetReg : MsetReg → Nat
  | .base => 0x00 | .limit => 0x08 | .cfg => 0x10 | .chanLo => 0x18 | .chanHi => 0x20

/-! Rows that are writes of one register. -/

/-- A 32-bit write of a block's register. -/
def Chip.put32 (c : Chip) (src : Src) (u off v : Nat) : Chip := c.controlWrite src (.block u off) 4 (BitVec.ofNat 64 v)

/-- MAINT_CTL with START (R175-R177, R352): OP, ALL, WAY, SET. -/
def maintWord (op : Nat) (pos : MaintPos) : Nat := op + 4 * bit pos.all + 2 ^ 8 * pos.way + 2 ^ 16 * pos.set + 2 ^ 30

/-- The write of the selector through which a ring's registers are reached (R302, R331, R351, R415). -/
def Chip.selectRing (c : Chip) (src : Src) (r : RingId) : Chip :=
  match r with
  | .rx q => c.put32 src uFlow 0x1094 q
  | .tx q => c.put32 src uFlow 0x1094 (q + 2 ^ 16)
  | .sh e n => c.put32 src (uShears e) 0x1050 n
  | .dv d n => c.put32 src (uDrover d) 0x1054 (fld (c.reg (uDrover d) 0 0x1054) 4 0 + 2 ^ 8 * n)
  | .adm i => c.put32 src uIm 0x1040 i

/-- The write of a ring's enable bit, after its selector's: FT_CTL.ADMIN_EN for the admin ring of the source's own
function, else the ring's EN (R302, R331, R351, R395, R407, R415). -/
def Chip.ringEnWrite (c : Chip) (src : Src) (r : RingId) (on : Bool) : Chip :=
  if r = .adm (admInst src) then
    c.put32 src uFlow 0x1040 (((c.view src uFlow 0x1040) &&& 0xFFFFFFFD#32).toNat + 2 * bit on)
  else
    let c := c.selectRing src r
    match r with
    | .rx _ => c.put32 src uFlow 0x109C (bit on)
    | .tx _ => c.put32 src uFlow 0x109C (bit on)
    | .sh e _ => c.put32 src (uShears e) 0x1058 (bit on)
    | .dv d _ => c.put32 src (uDrover d) 0x1064 (bit on)
    | .adm _ => c.put32 src uIm 0x109C (bit on)

/-- DV_CORE_CTL.RUN of a core, after the write of the selector (R349, R351). -/
def Chip.dvRunWrite (c : Chip) (src : Src) (d k : Nat) (on : Bool) : Chip :=
  (c.put32 src (uDrover d) 0x1054 (k + 2 ^ 8 * fld (c.reg (uDrover d) 0 0x1054) 13 8)).put32 src (uDrover d) 0x1058 (bit on)

/-- Page offset of a register of record i in a unit's bank (R418; layout of RERI, log 17). -/
def recReg : RecReg → Nat
  | .status => 0x08 | .addr => 0x10 | .info => 0x18 | .suppl => 0x20 | .time => 0x28

/-- A 64-bit write in a unit's bank page of the package block. -/
def Chip.bankPut (c : Chip) (src : Src) (u i o : Nat) (v : DWord) : Chip :=
  c.controlWrite src (.block uPackage (0x100000 + 0x1000 * u + 0x40 + 0x40 * i + o)) 8 v

/-- An instruction of a hart that is not performed ahead of its turn (`ahead`: on a wrong path, or a load before program order): a
trigger that fires on its address comes first (Sdtrig, R81), then the exceptions and the TLB miss of its fetch (R44, R103),
and the poison of its line (R431). -/
def Chip.traced (c : Chip) (hid : Nat) (f : Chip → Chip) (ahead : Bool := false) : Chip :=
  let h := c.hart hid
  match c.liveCore hid with
  | none => f c
  | some k =>
    if ahead || h.held.isSome then f c
    else if h.trigFires .fetch h.pc.toNat then c.raise hid xBreak h.pc
    else match c.translate hid h.pc.toNat .fetch with
      | .miss => c.missTlb hid h.pc.toNat .fetch false
      | .trap x t g => c.raise hid x t g
      | .ok pa _ => if c.linePoison k pa then c.hwError hid h.pc.toNat pa else f c

end Sys2Proof.Machine
end

