-- ==== Sys2Proof/Machine/ControlRows.lean ====
section
/-! DEFINITION. Commands on registers, complement pairs, mailboxes, doorbells, rings and MSI-X (R48-R79, R380-R383): the meaning of each command. -/

namespace Sys2Proof.Machine

/-- REGISTER_WRITE (R52). -/
def execRegisterWrite (src : Src) (a : CtlAddr) (width : Nat) (data : DWord) (s : State) : Answer :=
  onParts (srcParts src ++ ctlParts a) s fun c => c.writeFrom src a width data

/-- READ_CLEAR (R52). -/
def execReadClear (src : Src) (a : CtlAddr) (width : Nat) (s : State) : Answer :=
  onParts (srcParts src ++ ctlParts a) s fun c => c.readTo src a width

/-- BIT_ALIAS_WRITE (R58). -/
def execBitAliasWrite (src : Src) (u off : Nat) (v : Word) (s : State) : Answer :=
  onParts (srcParts src ++ [(.unit, u)]) s fun c => c.controlWrite src (.block u off) 4 (v.setWidth 64)

/-- COMPLEMENT_PAIR_STORE (R59). -/
def execComplementPairStore (src : Src) (a : CtlAddr) (v : Word) (s : State) : Answer :=
  onParts (srcParts src ++ ctlParts a) s fun c => c.controlWrite src a 4 (v.setWidth 64)

/-- COMPLEMENT_PAIR_ARM (R60). -/
def execComplementPairArm (src : Src) (a : CtlAddr) (v : Word) (s : State) : Answer :=
  onParts (srcParts src ++ ctlParts a) s fun c => c.controlWrite src a 4 (v.setWidth 64)

/-- COMPLEMENT_PAIR_COMMIT (R515). -/
def execComplementPairCommit (src : Src) (a : CtlAddr) (v : Word) (s : State) : Answer :=
  onParts (srcParts src ++ ctlParts a) s fun c => c.controlWrite src a 4 (v.setWidth 64)

/-- INTERLEAVE_SET_COMMIT (R231). -/
def execInterleaveSetCommit (src : Src) (n : Nat) (r : MsetReg) (v : Word) (s : State) : Answer :=
  onParts (srcParts src ++ [(.mset, n)]) s fun c => c.put32 src uPackage (msetOff n (msetReg r + 4)) v.toNat

/-- MSET_LOCK (R233). -/
def execMsetLock (src : Src) (s : State) : Answer := onParts (srcParts src) s fun c => c.put32 src uPackage 0x2400 1

/-- BOOT_ENTRY_COMMIT (R498). -/
def execBootEntryCommit (src : Src) (v : Word) (s : State) : Answer :=
  onParts (srcParts src) s fun c => c.put32 src uPackage 0x609C v.toNat

/-- REGISTER_PARITY_FAULT (R63). -/
def execRegisterParityFault (u bank off : Nat) (s : State) : Answer := onParts [(.unit, u)] s fun c => c.parityFault u bank off

/-- BLK_LOCK (R56). -/
def execBlkLock (src : Src) (u : Nat) (s : State) : Answer :=
  onParts (srcParts src ++ [(.unit, u)]) s fun c => c.put32 src u 0x1018 1

/-- LAST_ERR_CLEAR (R55). -/
def execLastErrClear (src : Src) (u : Nat) (s : State) : Answer :=
  onParts (srcParts src ++ [(.unit, u)]) s fun c => c.put32 src u 0x100C 0x10000

/-- MBOX_SEL (R66). -/
def execMboxSel (src : Src) (u sel : Nat) (s : State) : Answer :=
  onParts (srcParts src ++ [(.unit, u)]) s fun c => c.put32 src u 0x1020 sel

/-- SNAPSHOT_COMPLETE (R67). -/
def execSnapshotComplete (u : Nat) (s : State) : Answer := onParts [(.unit, u)] s fun c => c.snapshotDone u

/-- SUMMARY_PROPAGATE (R41). -/
def execSummaryPropagate (u : Nat) (s : State) : Answer := onParts [(.unit, u)] s fun c => c.propagate u

/-- DOORBELL (R75). -/
def execDoorbell (src : Src) (a : DbAddr) (width : Nat) (data : DWord) (s : State) : Answer :=
  onParts (srcParts src ++ dbParts a) s fun c => c.doorbell src a width data

/-- COMPLETION_HEAD_DOORBELL (R77). -/
def execCompletionHeadDoorbell (src : Src) (a : DbAddr) (width : Nat) (data : DWord) (s : State) : Answer :=
  onParts (srcParts src ++ dbParts a) s fun c => c.doorbell src a width data

/-- DOORBELL_REGION_BAD_OFFSET (R304). -/
def execDoorbellRegionBadOffset (src : Src) (a : DbAddr) (width : Nat) (data : DWord) (s : State) : Answer :=
  onParts (srcParts src ++ dbParts a) s fun c => c.doorbell src a width data

/-- DESCRIPTOR_FETCH (R73). -/
def execDescriptorFetch (r : RingId) (s : State) : Answer := onParts (ringParts r) s fun c => c.fetchDesc r

/-- COMPLETION_RECORD_WRITE (R78). -/
def execCompletionRecordWrite (r : RingId) (s : State) : Answer := onParts (ringParts r) s fun c => c.recordWrite r

/-- MSIX_EVENT (R382). -/
def execMsixEvent (iid v : Nat) (s : State) : Answer := onParts [] s fun c => c.msixEvent iid v

/-- MSIX_UNMASK (R382). -/
def execMsixUnmask (iid v : Nat) (s : State) : Answer := onParts [] s fun c => c.msixUnmask iid v

end Sys2Proof.Machine
end

