-- ==== Sys2Proof/Machine/EngineRows.lean ====
section
/-! DEFINITION. Work of the Shears engines and the drover clusters (R305-R353, R436): the meaning of each command. -/

namespace Sys2Proof.Machine

/-- COPY (R311). -/
def execCopy (r : RingId) (s : State) : Answer := onParts (ringParts r) s fun c => c.shCopy r

/-- FILL (R311). -/
def execFill (r : RingId) (s : State) : Answer := onParts (ringParts r) s fun c => c.shFill r

/-- CRC (R311). -/
def execCrc (r : RingId) (s : State) : Answer := onParts (ringParts r) s fun c => c.shCrc r

/-- COMPARE (R311). -/
def execCompare (r : RingId) (s : State) : Answer := onParts (ringParts r) s fun c => c.shCompare r

/-- COMPRESS (R315). -/
def execCompress (r : RingId) (s : State) : Answer := onParts (ringParts r) s fun c => c.shCompress r

/-- COMPRESS_RESUME (R321). -/
def execCompressResume (r : RingId) (s : State) : Answer := onParts (ringParts r) s fun c => c.shCompressResume r

/-- DECOMPRESS (R316). -/
def execDecompress (r : RingId) (s : State) : Answer := onParts (ringParts r) s fun c => c.shDecompress r

/-- DECOMPRESS_RESUME (R321). -/
def execDecompressResume (r : RingId) (s : State) : Answer := onParts (ringParts r) s fun c => c.shDecompressResume r

/-- LANE_DISPATCH (R307). -/
def execLaneDispatch (e : Nat) (s : State) : Answer := onParts [(.engine, e)] s fun c => c.laneDispatch e

/-- CONTAINER_BLOCK_WRITE (R318). -/
def execContainerBlockWrite (r : RingId) (s : State) : Answer := onParts (ringParts r) s fun c => c.containerWrite r

/-- LANE_FAULT (R436). -/
def execLaneFault (e lane : Nat) (again : Bool) (s : State) : Answer :=
  onParts [(.engine, e), (.lane, lane)] s fun c => c.laneFault e lane again

/-- DROVER_INSTRUCTION (R339). -/
def execDroverInstruction (d k : Nat) (s : State) : Answer :=
  onParts [(.cluster, d), (.droverCore, k)] s fun c => c.dvWaitRow d k fun c => c.dvStep d k

/-- DROVER_APERTURE_LOAD (R343). -/
def execDroverApertureLoad (d k : Nat) (op : DvMem) (s : State) : Answer :=
  onParts [(.cluster, d), (.droverCore, k)] s fun c => c.dvRow d k fun c => c.dvLoad d k op

/-- DROVER_APERTURE_STORE (R345). -/
def execDroverApertureStore (d k : Nat) (op : DvMem) (s : State) : Answer :=
  onParts [(.cluster, d), (.droverCore, k)] s fun c => c.dvRow d k fun c => c.dvStore d k op

/-- DROVER_FILL (R343). -/
def execDroverFill (d k : Nat) (s : State) : Answer := onParts [(.cluster, d), (.droverCore, k)] s fun c => c.dvFill d k

/-- STORE_QUEUE_DRAIN (R345). -/
def execStoreQueueDrain (d k : Nat) (s : State) : Answer := onParts [(.cluster, d), (.droverCore, k)] s fun c => c.dvDrain d k

/-- WRITE_QUEUE_SEND (R345). -/
def execWriteQueueSend (d n : Nat) (s : State) : Answer := onParts [(.cluster, d)] s fun c => c.dvSend d n

/-- MOL_MULCT (R347). -/
def execMolMulct (d k : Nat) (fn : DvMul) (r : DvReg) (s : State) : Answer :=
  onParts [(.cluster, d), (.droverCore, k)] s fun c => c.dvRow d k fun c => c.dvMulct d k fn r

/-- MOL_DIVCT (R347). -/
def execMolDivct (d k : Nat) (fn : DvDiv) (r : DvReg) (s : State) : Answer :=
  onParts [(.cluster, d), (.droverCore, k)] s fun c => c.dvRow d k fun c => c.dvDivct d k fn r

/-- MOL_BSWAP (R347). -/
def execMolBswap (d k : Nat) (r : DvReg) (s : State) : Answer :=
  onParts [(.cluster, d), (.droverCore, k)] s fun c => c.dvRow d k fun c => c.dvBswap d k r

/-- MOL_CSUM (R347). -/
def execMolCsum (d k : Nat) (r : DvReg) (s : State) : Answer :=
  onParts [(.cluster, d), (.droverCore, k)] s fun c => c.dvRow d k fun c => c.dvCsum d k r

/-- MOL_CSFOLD (R347). -/
def execMolCsfold (d k : Nat) (r : DvReg) (s : State) : Answer :=
  onParts [(.cluster, d), (.droverCore, k)] s fun c => c.dvRow d k fun c => c.dvCsfold d k r

/-- MOL_CRC32C_B (R347). -/
def execMolCrc32cB (d k : Nat) (r : DvReg) (s : State) : Answer :=
  onParts [(.cluster, d), (.droverCore, k)] s fun c => c.dvRow d k fun c => c.dvCrcB d k r

/-- MOL_CRC32C_W (R347). -/
def execMolCrc32cW (d k : Nat) (r : DvReg) (s : State) : Answer :=
  onParts [(.cluster, d), (.droverCore, k)] s fun c => c.dvRow d k fun c => c.dvCrcW d k r

/-- MOL_EXTR (R347). -/
def execMolExtr (d k : Nat) (r : DvReg) (s : State) : Answer :=
  onParts [(.cluster, d), (.droverCore, k)] s fun c => c.dvRow d k fun c => c.dvExtr d k r

/-- MOL_DGET (R348). -/
def execMolDget (d k : Nat) (r : DvReg) (s : State) : Answer :=
  onParts [(.cluster, d), (.droverCore, k)] s fun c => c.dvRow d k fun c => c.dvDget d k r

/-- MOL_DWAIT (R348). -/
def execMolDwait (d k : Nat) (_r : DvReg) (s : State) : Answer :=
  onParts [(.cluster, d), (.droverCore, k)] s fun c => c.dvWaitRow d k fun c => c.dvDwait d k

/-- MOL_CMPL (R348). -/
def execMolCmpl (d k : Nat) (r : DvReg) (s : State) : Answer :=
  onParts [(.cluster, d), (.droverCore, k)] s fun c => c.dvRow d k fun c => c.dvCmpl d k r

/-- MOL_DPF (R344). -/
def execMolDpf (d k : Nat) (r : DvReg) (s : State) : Answer :=
  onParts [(.cluster, d), (.droverCore, k)] s fun c => c.dvRow d k fun c => c.dvDpf d k r

/-- MOL_DC_CLEAN (R347). -/
def execMolDcClean (d k : Nat) (r : DvReg) (s : State) : Answer :=
  onParts [(.cluster, d), (.droverCore, k)] s fun c => c.dvRow d k fun c => c.dvDcClean d k r

/-- MOL_DC_INVAL (R347). -/
def execMolDcInval (d k : Nat) (r : DvReg) (s : State) : Answer :=
  onParts [(.cluster, d), (.droverCore, k)] s fun c => c.dvRow d k fun c => c.dvDcInval d k r

/-- MOL_DC_FLUSH (R347). -/
def execMolDcFlush (d k : Nat) (r : DvReg) (s : State) : Answer :=
  onParts [(.cluster, d), (.droverCore, k)] s fun c => c.dvRow d k fun c => c.dvDcFlush d k r

/-- DROVER_HALT (R349). -/
def execDroverHalt (d k cause : Nat) (s : State) : Answer :=
  onParts [(.cluster, d), (.droverCore, k)] s fun c => c.dvRow d k fun c => c.dvHalt d k cause

/-- DROVER_RUN (R349). -/
def execDroverRun (src : Src) (d k : Nat) (s : State) : Answer :=
  onParts (srcParts src ++ [(.cluster, d), (.droverCore, k)]) s fun c => c.dvRunWrite src d k true

/-- DROVER_STOP (R349). -/
def execDroverStop (src : Src) (d k : Nat) (s : State) : Answer :=
  onParts (srcParts src ++ [(.cluster, d), (.droverCore, k)]) s fun c => c.dvRunWrite src d k false

/-- DROVER_CLUSTER_ENABLE (R342). -/
def execDroverClusterEnable (src : Src) (d : Nat) (s : State) : Answer :=
  onParts (srcParts src ++ [(.cluster, d)]) s fun c => c.put32 src (uDrover d) 0x1040 (c.reg (uDrover d) 0 0x1040 ||| 1).toNat

/-- DV_MAINT_CLEAN (R352). -/
def execDvMaintClean (src : Src) (d : Nat) (pos : MaintPos) (s : State) : Answer :=
  onParts (srcParts src ++ [(.cluster, d)]) s fun c => c.put32 src (uDrover d) 0x1050 (maintWord 1 pos)

/-- DV_MAINT_INVAL (R352). -/
def execDvMaintInval (src : Src) (d : Nat) (pos : MaintPos) (s : State) : Answer :=
  onParts (srcParts src ++ [(.cluster, d)]) s fun c => c.put32 src (uDrover d) 0x1050 (maintWord 2 pos)

/-- DV_MAINT_CLEAN_INVAL (R352). -/
def execDvMaintCleanInval (src : Src) (d : Nat) (pos : MaintPos) (s : State) : Answer :=
  onParts (srcParts src ++ [(.cluster, d)]) s fun c => c.put32 src (uDrover d) 0x1050 (maintWord 3 pos)

end Sys2Proof.Machine
end

