-- ==== Sys2Proof/Machine/FabricRows.lean ====
section
/-! DEFINITION. Coherence messages, queues, maintenance and mesh links (R147-R222, R434): the meaning of each command. -/

namespace Sys2Proof.Machine

/-- RD_SHARED (R162). -/
def execRdShared (m : Msg) (s : State) : Answer := onParts (msgParts m) s fun c => c.atHome { m with kind := .rdShared }

/-- RD_OWN (R162). -/
def execRdOwn (m : Msg) (s : State) : Answer := onParts (msgParts m) s fun c => c.atHome { m with kind := .rdOwn }

/-- RD_ONCE (R162). -/
def execRdOnce (m : Msg) (errs : List Nat) (s : State) : Answer :=
  onParts (msgParts m) s fun c => c.rdOnceReq { m with kind := .rdOnce } errs

/-- UPGRADE (R162). -/
def execUpgrade (m : Msg) (s : State) : Answer := onParts (msgParts m) s fun c => c.atHome { m with kind := .upgrade }

/-- PUT_DIRTY (R165). -/
def execPutDirty (m : Msg) (s : State) : Answer := onParts (msgParts m) s fun c => c.putDirtyReq { m with kind := .putDirty }

/-- PUT_CLEAN (R165). -/
def execPutClean (m : Msg) (s : State) : Answer := onParts (msgParts m) s fun c => c.atHome { m with kind := .putClean }

/-- RED_OP (R185). -/
def execRedOp (m : Msg) (s : State) : Answer := onParts (msgParts m) s fun c => c.atHome { m with kind := .redOp }

/-- NC_RD (R170). -/
def execNcRd (m : Msg) (s : State) : Answer := onParts (msgParts m) s fun c => c.ncReq { m with kind := .ncRd }

/-- NC_WR (R169). -/
def execNcWr (m : Msg) (s : State) : Answer := onParts (msgParts m) s fun c => c.ncReq { m with kind := .ncWr }

/-- FWD_SHARED (R162). -/
def execFwdShared (m : Msg) (s : State) : Answer := onParts (msgParts m) s fun c => c.fwdSharedAt { m with kind := .fwdShared }

/-- FWD_OWN (R162). -/
def execFwdOwn (m : Msg) (s : State) : Answer := onParts (msgParts m) s fun c => c.fwdOwnAt { m with kind := .fwdOwn }

/-- INVAL (R164). -/
def execInval (m : Msg) (s : State) : Answer := onParts (msgParts m) s fun c => c.invalAt { m with kind := .inval }

/-- CLOSE (R194). -/
def execClose (m : Msg) (s : State) : Answer := onParts (msgParts m) s fun c => c.closeAt { m with kind := .close }

/-- ACK (R161). -/
def execAck (m : Msg) (s : State) : Answer := onParts (msgParts m) s fun c => c.ackAt { m with kind := .ack }

/-- SNP_NO_DATA (R162). -/
def execSnpNoData (m : Msg) (s : State) : Answer := onParts (msgParts m) s fun c => c.snpNoDataAt { m with kind := .snpNoData }

/-- WB_ACK (R165). -/
def execWbAck (m : Msg) (s : State) : Answer := onParts (msgParts m) s fun c => c.wbAckAt { m with kind := .wbAck }

/-- WB_ACK_STALE (R166). -/
def execWbAckStale (m : Msg) (s : State) : Answer := onParts (msgParts m) s fun c => c.wbAckAt { m with kind := .wbAckStale }

/-- CMP (R162). -/
def execCmp (m : Msg) (s : State) : Answer := onParts (msgParts m) s fun c => c.cmpAt { m with kind := .cmp }

/-- DATA (R163). -/
def execData (m : Msg) (s : State) : Answer := onParts (msgParts m) s fun c => c.dataAt { m with kind := .data }

/-- FWD_DATA (R163). -/
def execFwdData (m : Msg) (s : State) : Answer := onParts (msgParts m) s fun c => c.dataAt { m with kind := .fwdData }

/-- WB_DATA (R169). -/
def execWbData (m : Msg) (s : State) : Answer := onParts (msgParts m) s fun c => c.wbDataAt { m with kind := .wbData }

/-- WAIT_QUEUE_START (R161). -/
def execWaitQueueStart (slice line : Nat) (s : State) : Answer := onParts [(.slice, slice)] s fun c => c.startQueued slice line

/-- WAIT_QUEUE_ADMIT (R161). -/
def execWaitQueueAdmit (slice line : Nat) (s : State) : Answer := onParts [(.slice, slice)] s fun c => c.admitQueued slice line

/-- L2_EVICTION (R165). -/
def execL2Eviction (core line : Nat) (s : State) : Answer := onParts [(.core, core)] s fun c => c.evict core line

/-- L2_MAINT_CLEAN (R174). -/
def execL2MaintClean (src : Src) (core : Nat) (pos : MaintPos) (s : State) : Answer :=
  onParts (srcParts src ++ [(.core, core)]) s fun c => c.put32 src (uCore core) 0x1044 (maintWord 1 pos)

/-- L2_MAINT_INVAL (R174). -/
def execL2MaintInval (src : Src) (core : Nat) (pos : MaintPos) (s : State) : Answer :=
  onParts (srcParts src ++ [(.core, core)]) s fun c => c.put32 src (uCore core) 0x1044 (maintWord 2 pos)

/-- L2_MAINT_CLEAN_INVAL (R174). -/
def execL2MaintCleanInval (src : Src) (core : Nat) (pos : MaintPos) (s : State) : Answer :=
  onParts (srcParts src ++ [(.core, core)]) s fun c => c.put32 src (uCore core) 0x1044 (maintWord 3 pos)

/-- L3_MAINT_CLEAN (R174). -/
def execL3MaintClean (src : Src) (slice : Nat) (pos : MaintPos) (s : State) : Answer :=
  onParts (srcParts src ++ [(.slice, slice)]) s fun c => c.put32 src (uSlice slice) 0x1080 (maintWord 1 pos)

/-- L3_MAINT_INVAL (R174). -/
def execL3MaintInval (src : Src) (slice : Nat) (pos : MaintPos) (s : State) : Answer :=
  onParts (srcParts src ++ [(.slice, slice)]) s fun c => c.put32 src (uSlice slice) 0x1080 (maintWord 2 pos)

/-- L3_MAINT_CLEAN_INVAL (R174). -/
def execL3MaintCleanInval (src : Src) (slice : Nat) (pos : MaintPos) (s : State) : Answer :=
  onParts (srcParts src ++ [(.slice, slice)]) s fun c => c.put32 src (uSlice slice) 0x1080 (maintWord 3 pos)

/-- MAINT_DONE (R175). -/
def execMaintDone (u : Nat) (s : State) : Answer := onParts [(.unit, u)] s fun c => c.maintDone u

/-- PEN_WAIT_RESUME (R194). -/
def execPenWaitResume (slice line : Nat) (s : State) : Answer := onParts [(.slice, slice)] s fun c => c.penResume slice line

/-- RED_DRAIN (R201). -/
def execRedDrain (src : Src) (slice : Nat) (s : State) : Answer :=
  onParts (srcParts src ++ [(.slice, slice)]) s fun c => c.put32 src (uSlice slice) 0x1100 1

/-- LINK_RETRY (R221). -/
def execLinkRetry (l : LinkId) (s : State) : Answer := onParts [(.unit, l.unit)] s fun c => c.linkRetry l

/-- WIRE_SPARING (R434). -/
def execWireSparing (l : LinkId) (failing : List Nat) (s : State) : Answer :=
  onParts [(.unit, l.unit)] s fun c => c.wireSparing l failing

end Sys2Proof.Machine
end

