-- ==== Sys2Proof/Machine/HartRows.lean ====
section
/-! DEFINITION. Instructions and events of the harts (R80-R146): the meaning of each command. -/

namespace Sys2Proof.Machine

/-- INSTRUCTION (R92). -/
def execInstruction (h : Nat) (op : HartOp) (len : Nat) (s : State) : Answer :=
  onParts [(.hart, h)] s fun c => c.traced h (fun c => c.instruction h op len) (aheadOp op)

/-- LOAD (R105). -/
def execLoad (h : Nat) (op : LoadOp) (s : State) : Answer := onParts [(.hart, h)] s fun c => c.traced h (fun c => c.loadAny h op) (op.wrong || op.early.isSome)

/-- STORE (R104). -/
def execStore (h : Nat) (op : StoreOp) (s : State) : Answer := onParts [(.hart, h)] s fun c => c.traced h (fun c => c.storeAny h op) op.wrong

/-- VECTOR_LOAD (R108). -/
def execVectorLoad (h : Nat) (op : VMemOp) (s : State) : Answer := onParts [(.hart, h)] s fun c => c.traced h (fun c => c.vectorLoad h op) op.wrong

/-- VECTOR_STORE (R104). -/
def execVectorStore (h : Nat) (op : VMemOp) (s : State) : Answer := onParts [(.hart, h)] s fun c => c.traced h (fun c => c.vectorStore h op) op.wrong

/-- IO_ACCESS (R102). -/
def execIoAccess (h : Nat) (op : IoOp) (s : State) : Answer :=
  onParts ((.hart, h) :: ioParts op.addr) s fun c => c.traced h fun c => c.ioAccess h op

/-- STORE_COMMIT (R104). -/
def execStoreCommit (h : Nat) (s : State) : Answer := onParts [(.hart, h)] s fun c => c.storeCommit h

/-- HELD_LOAD_REPLAY (R106). -/
def execHeldLoadReplay (h : Nat) (s : State) : Answer := onParts [(.hart, h)] s fun c => c.heldReplay h

/-- SAME_ADDRESS_LOAD_REDO (R113). -/
def execSameAddressLoadRedo (h line : Nat) (s : State) : Answer := onParts [(.hart, h)] s fun c => c.orderRedo h line

/-- BRANCH_REDIRECT (R100). -/
def execBranchRedirect (h : Nat) (at_ : RedirAt) (target : DWord) (s : State) : Answer :=
  onParts [(.hart, h)] s fun c => c.branchRedirect h at_ target

/-- HARDWARE_PREFETCH (R101). -/
def execHardwarePrefetch (h line : Nat) (s : State) : Answer := onParts [(.hart, h)] s fun c => c.prefetchLine h line

/-- AMO (R115). -/
def execAmo (h : Nat) (fn : AmoFn) (rd rs1 rs2 size : Nat) (s : State) : Answer :=
  onParts [(.hart, h)] s fun c => c.traced h fun c => c.amo h fn rd rs1 rs2 size

/-- LR (R116). -/
def execLr (h : Nat) (rd rs1 size : Nat) (s : State) : Answer := onParts [(.hart, h)] s fun c => c.traced h fun c => c.lr h rd rs1 size

/-- SC (R116). -/
def execSc (h : Nat) (rd rs1 rs2 size : Nat) (s : State) : Answer := onParts [(.hart, h)] s fun c => c.traced h fun c => c.sc h rd rs1 rs2 size

/-- RESERVATION_SNOOP_RELEASE (R116). -/
def execReservationSnoopRelease (h : Nat) (s : State) : Answer :=
  onParts [(.hart, h)] s fun c => c.releaseSnoops (c.hart h).core

/-- FENCE (R114). -/
def execFence (h : Nat) (pred succ : BitVec 4) (tso : Bool) (s : State) : Answer :=
  onParts [(.hart, h)] s fun c => c.traced h fun c => c.fence h pred succ tso

/-- FENCE_I (R114). -/
def execFenceI (h : Nat) (s : State) : Answer := onParts [(.hart, h)] s fun c => c.traced h fun c => c.fenceI h

/-- SFENCE_VMA (R114). -/
def execSfenceVma (h : Nat) (fn : SfenceFn) (rs1 rs2 : Nat) (s : State) : Answer :=
  onParts [(.hart, h)] s fun c => c.traced h fun c => c.sfence h fn rs1 rs2

/-- SERIALISING_INSTRUCTION (R96). -/
def execSerialisingInstruction (h : Nat) (op : SerialOp) (s : State) : Answer :=
  onParts [(.hart, h)] s fun c => c.traced h fun c => c.serialising h op

/-- TRAP_ENTRY (R111). -/
def execTrapEntry (h : Nat) (interrupt : Bool) (cause : Nat) (tval : DWord) (s : State) : Answer :=
  onParts [(.hart, h)] s fun c => c.trapEntry h interrupt cause tval

/-- CBO_CLEAN (R173). -/
def execCboClean (h rs1 : Nat) (s : State) : Answer := onParts [(.hart, h)] s fun c => c.traced h fun c => c.cboClean h rs1

/-- CBO_FLUSH (R173). -/
def execCboFlush (h rs1 : Nat) (s : State) : Answer := onParts [(.hart, h)] s fun c => c.traced h fun c => c.cboFlush h rs1

/-- CBO_INVAL (R173). -/
def execCboInval (h rs1 : Nat) (s : State) : Answer := onParts [(.hart, h)] s fun c => c.traced h fun c => c.cboInval h rs1

/-- CBO_ZERO (R117). -/
def execCboZero (h rs1 : Nat) (s : State) : Answer := onParts [(.hart, h)] s fun c => c.traced h fun c => c.cboZero h rs1

/-- PAGE_WALK (R103). -/
def execPageWalk (h : Nat) (s : State) : Answer := onParts [(.hart, h)] s fun c => c.pageWalk h

/-- INTEGER_DIVIDE (R127). -/
def execIntegerDivide (h : Nat) (fn : DivFn) (rd rs1 rs2 : Nat) (s : State) : Answer :=
  onParts [(.hart, h)] s fun c => c.traced h fun c => c.integerDivide h fn rd rs1 rs2

/-- FP_INSTRUCTION (R131). -/
def execFpInstruction (h : Nat) (op : FpOp) (s : State) : Answer := onParts [(.hart, h)] s fun c => c.traced h fun c => c.fpInstruction h op

/-- FRM_WRITE (R131). -/
def execFrmWrite (h : Nat) (v : BitVec 3) (s : State) : Answer := onParts [(.hart, h)] s fun c => c.traced h fun c => c.frmWrite h v

/-- FFLAGS_WRITE (R131). -/
def execFflagsWrite (h : Nat) (v : BitVec 5) (s : State) : Answer := onParts [(.hart, h)] s fun c => c.traced h fun c => c.fflagsWrite h v

/-- VSETVL (R140). -/
def execVsetvl (h rd : Nat) (avl : AvlSrc) (vtype : DWord) (s : State) : Answer :=
  onParts [(.hart, h)] s fun c => c.traced h fun c => c.vsetvl h rd avl vtype

/-- VECTOR_INSTRUCTION (R142). -/
def execVectorInstruction (h : Nat) (op : VOp) (s : State) : Answer := onParts [(.hart, h)] s fun c => c.traced h fun c => c.vectorInstruction h op

/-- VECTOR_REDUCTION (R143). -/
def execVectorReduction (h : Nat) (op : VRedOp) (s : State) : Answer := onParts [(.hart, h)] s fun c => c.traced h fun c => c.vectorReduction h op

/-- MOL_RADD (R87). -/
def execMolRadd (h : Nat) (ty : RedTy) (op : MolOp) (s : State) : Answer :=
  onParts [(.hart, h)] s fun c => c.traced h (fun c => c.molReduce h 0 ty op 1) op.wrong

/-- MOL_RMIN (R87). -/
def execMolRmin (h : Nat) (ty : RedTy) (op : MolOp) (s : State) : Answer :=
  onParts [(.hart, h)] s fun c => c.traced h (fun c => c.molReduce h 1 ty op 2) op.wrong

/-- MOL_RMAX (R87). -/
def execMolRmax (h : Nat) (ty : RedTy) (op : MolOp) (s : State) : Answer :=
  onParts [(.hart, h)] s fun c => c.traced h (fun c => c.molReduce h 2 ty op 2) op.wrong

/-- MOL_RCLOSE (R192). -/
def execMolRclose (h : Nat) (op : MolOp) (s : State) : Answer := onParts [(.hart, h)] s fun c => c.traced h (fun c => c.molClose h op) op.wrong

/-- MOL_BPCTL_WRITE (R90). -/
def execMolBpctlWrite (h : Nat) (v : DWord) (s : State) : Answer := onParts [(.hart, h)] s fun c => c.traced h fun c => c.bpctlWrite h v

/-- BPCTL_FLUSH (R90). -/
def execBpctlFlush (h : Nat) (s : State) : Answer := onParts [(.hart, h)] s fun c => c.traced h fun c => c.bpctlFlush h

/-- MOL_RESTCTL_WRITE (R91). -/
def execMolRestctlWrite (h : Nat) (v : DWord) (s : State) : Answer := onParts [(.hart, h)] s fun c => c.traced h fun c => c.restctlWrite h v

/-- WFI (R118). -/
def execWfi (h : Nat) (s : State) : Answer := onParts [(.hart, h)] s fun c => c.traced h fun c => c.wfi h

/-- REST_ENTRY (R119). -/
def execRestEntry (h : Nat) (s : State) : Answer := onParts [(.hart, h)] s fun c => c.restEntry h

/-- WAKE_EVENT (R120). -/
def execWakeEvent (h : Nat) (dbg : Bool) (s : State) : Answer := onParts [(.hart, h)] s fun c => c.wakeEvent h dbg

/-- REST_WAKE_RESUME (R487). -/
def execRestWakeResume (h : Nat) (s : State) : Answer := onParts [(.hart, h)] s fun c => c.restResume h

/-- DEBUG_HALT (R118). -/
def execDebugHalt (h : Nat) (s : State) : Answer := onParts [(.hart, h)] s fun c => c.debugHalt h

end Sys2Proof.Machine
end

