-- ==== Sys2Proof/Machine/InstanceRows.lean ====
section
/-! DEFINITION. Instances of the Amidubor function (R391-R416): the meaning of each command. -/

namespace Sys2Proof.Machine

/-- CREATE (R394). -/
def execCreate (src : Src) (s : State) : Answer := onParts (srcParts src) s fun c => c.put32 src uIm 0x1044 0x101

/-- DESTROY (R401). -/
def execDestroy (src : Src) (s : State) : Answer := onParts (srcParts src) s fun c => c.put32 src uIm 0x1044 0x102

/-- RESET (R404). -/
def execReset (src : Src) (s : State) : Answer := onParts (srcParts src) s fun c => c.put32 src uIm 0x1044 0x103

/-- FREEZE (R408). -/
def execFreeze (src : Src) (s : State) : Answer := onParts (srcParts src) s fun c => c.put32 src uIm 0x1044 0x104

/-- FROZEN (R408). -/
def execFrozen (iid : Nat) (s : State) : Answer := onParts [] s fun c => c.instFrozen iid

/-- SAVE (R409). -/
def execSave (src : Src) (s : State) : Answer := onParts (srcParts src) s fun c => c.put32 src uIm 0x1044 0x105

/-- RESTORE (R411). -/
def execRestore (src : Src) (s : State) : Answer := onParts (srcParts src) s fun c => c.put32 src uIm 0x1044 0x106

/-- UNFREEZE (R401). -/
def execUnfreeze (src : Src) (s : State) : Answer := onParts (srcParts src) s fun c => c.put32 src uIm 0x1044 0x107

/-- DIRTY_START (R412). -/
def execDirtyStart (src : Src) (s : State) : Answer := onParts (srcParts src) s fun c => c.put32 src uIm 0x1044 0x108

/-- DIRTY_SWAP (R413). -/
def execDirtySwap (src : Src) (s : State) : Answer := onParts (srcParts src) s fun c => c.put32 src uIm 0x1044 0x109

/-- DIRTY_STOP (R413). -/
def execDirtyStop (src : Src) (s : State) : Answer := onParts (srcParts src) s fun c => c.put32 src uIm 0x1044 0x10A

/-- FLR (R403). -/
def execFlr (iid : Nat) (s : State) : Answer := onParts [] s fun c => c.flr iid

/-- VF_ENABLE_CLEAR (R403). -/
def execVfEnableClear (s : State) : Answer := onParts [] s fun c => c.vfClear

/-- INSTANCE_RESET (R404). -/
def execInstanceReset (iid : Nat) (s : State) : Answer := onParts [] s fun c => c.instReset iid

/-- SHEARS_STOP_CUT (R404). -/
def execShearsStopCut (iid : Nat) (s : State) : Answer := onParts [] s fun c => c.shearsCut iid

/-- INSTANCE_RESET_DONE (R404). -/
def execInstanceResetDone (iid : Nat) (s : State) : Answer := onParts [] s fun c => c.instResetDone iid

/-- BUS_MASTER_DISABLE (R405). -/
def execBusMasterDisable (f : Nat) (s : State) : Answer := onParts [] s fun c => c.bmeOff f

/-- BUS_MASTER_ENABLE (R405). -/
def execBusMasterEnable (f : Nat) (s : State) : Answer := onParts [] s fun c => c.bmeOn f

end Sys2Proof.Machine
end

