-- ==== Sys2Proof/Machine/MemoryRows.lean ====
section
/-! DEFINITION. Events of the memory channels (R223-R259): the meaning of each command. -/

namespace Sys2Proof.Machine

/-- BANK_ACTIVATE (R237). -/
def execBankActivate (chan sub rank bank : Nat) (s : State) : Answer :=
  onParts [(.channel, chan)] s fun c => c.bankActivate chan sub rank bank

/-- WRITE_DRAIN (R238). -/
def execWriteDrain (chan sub : Nat) (s : State) : Answer := onParts [(.channel, chan)] s fun c => c.writeDrain chan sub

/-- REFRESH_SB (R240). -/
def execRefreshSb (chan rank idx : Nat) (s : State) : Answer := onParts [(.channel, chan)] s fun c => c.refreshSb chan rank idx

/-- MR4_POLL (R240). -/
def execMr4Poll (chan : Nat) (hot : Bool) (s : State) : Answer := onParts [(.channel, chan)] s fun c => c.mr4Poll chan hot

/-- RETRAINING_PAUSE (R245). -/
def execRetrainingPause (chan rank dur : Nat) (s : State) : Answer :=
  onParts [(.channel, chan)] s fun c => c.retrainPause chan rank dur

/-- CA_PARITY_ALERT (R246). -/
def execCaParityAlert (chan rank : Nat) (s : State) : Answer := onParts [(.channel, chan)] s fun c => c.caParity chan rank

/-- PATROL_READ (R248). -/
def execPatrolRead (chan : Nat) (errs : List Nat) (s : State) : Answer :=
  onParts [(.channel, chan)] s fun c => c.patrolRead chan errs

/-- RANK_RETIREMENT (R252). -/
def execRankRetirement (chan rank : Nat) (cause : RetCause) (s : State) : Answer :=
  onParts [(.channel, chan)] s fun c => c.rankRetirement chan rank cause

/-- COPY_OPERATION (R252). -/
def execCopyOperation (chan : Nat) (errs : List Nat) (s : State) : Answer :=
  onParts [(.channel, chan)] s fun c => c.copyOp chan errs

/-- COPY_DONE (R252). -/
def execCopyDone (chan : Nat) (s : State) : Answer := onParts [(.channel, chan)] s fun c => c.copyDone chan

/-- FORCE (R258). -/
def execForce (src : Src) (chan rank : Nat) (s : State) : Answer :=
  onParts (srcParts src ++ [(.channel, chan)]) s fun c => c.put32 src (uMc chan) 0x1048 (rank * 2 ^ 16 + 2 ^ 19)

/-- MC_SPARE_CFG_WRITE (R258). -/
def execMcSpareCfgWrite (src : Src) (chan : Nat) (v : Word) (s : State) : Answer :=
  onParts (srcParts src ++ [(.channel, chan)]) s fun c => c.put32 src (uMc chan) 0x1044 v.toNat

end Sys2Proof.Machine
end

