-- ==== Sys2Proof/Machine/NetworkRows.lean ====
section
/-! DEFINITION. Frames, links and rings of the Ethernet ports (R260-R304, R407): the meaning of each command. -/

namespace Sys2Proof.Machine

/-- FRAME_RECEIVE (R263). -/
def execFrameReceive (port mac : Nat) (bytes : List Byte) (fcsOk : Bool) (s : State) : Answer :=
  onParts [(.ethPort, port), (.mac, mac)] s fun c => c.frameReceive port mac bytes fcsOk

/-- HELD_FRAME_RESUME (R292). -/
def execHeldFrameResume (port q : Nat) (s : State) : Answer := onParts [(.ethPort, port)] s fun c => c.heldResume port q

/-- XON (R293). -/
def execXon (port prio : Nat) (s : State) : Answer := onParts [(.ethPort, port)] s fun c => c.ethXon port prio

/-- PAUSE_FRAME_RECEIVE (R290). -/
def execPauseFrameReceive (port mac : Nat) (prios : BitVec 8) (quanta : List Nat) (s : State) : Answer :=
  onParts [(.ethPort, port), (.mac, mac)] s fun c => c.pauseReceive port mac prios quanta

/-- LINK_UP (R260). -/
def execLinkUp (port mac : Nat) (s : State) : Answer := onParts [(.ethPort, port), (.mac, mac)] s fun c => c.ethLinkUp port mac

/-- LINK_DOWN (R291). -/
def execLinkDown (port mac : Nat) (s : State) : Answer :=
  onParts [(.ethPort, port), (.mac, mac)] s fun c => c.ethLinkDown port mac

/-- FLOW_SET (R277). -/
def execFlowSet (r : RingId) (s : State) : Answer := onParts (ringParts r) s fun c => c.flowSet r

/-- FLOW_DELETE (R277). -/
def execFlowDelete (r : RingId) (s : State) : Answer := onParts (ringParts r) s fun c => c.flowDelete r

/-- RSS_SET (R275). -/
def execRssSet (r : RingId) (s : State) : Answer := onParts (ringParts r) s fun c => c.rssSet r

/-- RX_BUF (R279). -/
def execRxBuf (r : RingId) (s : State) : Answer := onParts (ringParts r) s fun c => c.rxBuf r

/-- TX_FRAME (R285). -/
def execTxFrame (r : RingId) (s : State) : Answer := onParts (ringParts r) s fun c => c.txFrame r

/-- TX_GATHER (R285). -/
def execTxGather (r : RingId) (s : State) : Answer := onParts (ringParts r) s fun c => c.txGather r

/-- TX_INLINE (R286). -/
def execTxInline (r : RingId) (s : State) : Answer := onParts (ringParts r) s fun c => c.txInline r

/-- Q_HART_WRITE (R284). -/
def execQHartWrite (src : Src) (q : Nat) (v : Word) (s : State) : Answer :=
  onParts (srcParts src ++ [(.queue, q)]) s fun c => (c.selectRing src (.rx q)).put32 src uFlow 0x10B0 v.toNat

/-- QUEUE_ENABLE (R407). -/
def execQueueEnable (src : Src) (r : RingId) (s : State) : Answer :=
  onParts (srcParts src ++ ringParts r) s fun c => c.ringEnWrite src r true

/-- QUEUE_DISABLE (R407). -/
def execQueueDisable (src : Src) (r : RingId) (s : State) : Answer :=
  onParts (srcParts src ++ ringParts r) s fun c => c.ringEnWrite src r false

/-- QUIESCED (R407). -/
def execQuiesced (r : RingId) (s : State) : Answer := onParts (ringParts r) s fun c => c.ringQuiesce r

end Sys2Proof.Machine
end

