-- ==== Sys2Proof/Machine/PortRows.lean ====
section
/-! DEFINITION. Unit power, the Bellwether controller and the bus ports (R37, R354-R390, R472): the meaning of each command. -/

namespace Sys2Proof.Machine

/-- UNIT_POWER_REQUEST (R37). -/
def execUnitPowerRequest (src : Src) (u req : Nat) (s : State) : Answer :=
  onParts (srcParts src) s fun c => c.controlWrite src (.desc u 0x18) 4 (BitVec.ofNat 64 req)

/-- UNIT_POWER_DONE (R37). -/
def execUnitPowerDone (u : Nat) (s : State) : Answer := onParts [(.unit, u)] s fun c => c.powerDone u

/-- BW_MIGRATE (R359). -/
def execBwMigrate (src : Src) (hart : Nat) (s : State) : Answer :=
  onParts (srcParts src) s fun c => c.put32 src uBellwether 0x104C (hart + 2 ^ 16)

/-- BW_WATCHDOG_EXPIRY (R358). -/
def execBwWatchdogExpiry (s : State) : Answer := onParts [] s fun c => c.bwWatchdog

/-- BW_RESTART_DONE (R358). -/
def execBwRestartDone (s : State) : Answer := onParts [] s fun c => c.bwRestartDone

/-- BW_HEARTBEAT (R359). -/
def execBwHeartbeat (s : State) : Answer := onParts [] s fun c => c.bwHeartbeat

/-- AVS_POLL (R472). -/
def execAvsPoll (r : AvsReading) (s : State) : Answer := onParts [] s fun c => c.avsPoll r

/-- AVS_STATUS_ALERT (R472). -/
def execAvsStatusAlert (p : Nat) (s : State) : Answer := onParts [(.rail, p)] s fun c => c.avsAlert p

/-- INBOUND_MEMORY_WRITE (R370). -/
def execInboundMemoryWrite (t : Tlp) (s : State) : Answer :=
  onParts [(.busPort, t.port), (.subLink, t.sub)] s fun c => c.inboundWrite t

/-- INBOUND_MEMORY_READ (R370). -/
def execInboundMemoryRead (t : Tlp) (s : State) : Answer :=
  onParts [(.busPort, t.port), (.subLink, t.sub)] s fun c => c.inboundRead t

/-- MSI_WRITE (R383). -/
def execMsiWrite (t : Tlp) (s : State) : Answer := onParts [(.busPort, t.port), (.subLink, t.sub)] s fun c => c.msiIn t

/-- INBOUND_COMPLETION (R373). -/
def execInboundCompletion (port sub tag : Nat) (bytes : List Byte) (ep ok : Bool) (s : State) : Answer :=
  onParts [(.busPort, port), (.subLink, sub)] s fun c => c.completion port sub tag bytes ep ok

/-- OUTBOUND_REQUEST (R366). -/
def execOutboundRequest (port : Nat) (m : Msg) (s : State) : Answer :=
  onParts ((.busPort, port) :: msgParts m) s fun c => (c.arrive m).outbound port m

/-- COMPLETION_TIMEOUT (R372). -/
def execCompletionTimeout (port sub tag : Nat) (s : State) : Answer :=
  onParts [(.busPort, port), (.subLink, sub)] s fun c => c.timeout port sub tag

/-- TAG_QUARANTINE_END (R373). -/
def execTagQuarantineEnd (port sub tag : Nat) (s : State) : Answer :=
  onParts [(.busPort, port), (.subLink, sub)] s fun c => c.quarantineEnd port sub tag

/-- WINDOW_COMMIT (R368). -/
def execWindowCommit (src : Src) (port : Nat) (v : Word) (s : State) : Answer :=
  onParts (srcParts src ++ [(.busPort, port)]) s fun c => c.put32 src (uPx port) 0x107C v.toNat

/-- SUBLINK_DOWN (R374). -/
def execSublinkDown (port sub : Nat) (s : State) : Answer :=
  onParts [(.busPort, port), (.subLink, sub)] s fun c => c.subLinkDown port sub

/-- ENDPOINT_LINK_RESET (R374). -/
def execEndpointLinkReset (s : State) : Answer := onParts [] s fun c => c.endpointReset

/-- LINK_ENABLE (R387). -/
def execLinkEnable (src : Src) (port : Nat) (s : State) : Answer :=
  onParts (srcParts src ++ [(.busPort, port)]) s fun c => c.put32 src (uPx port) 0x1044 (c.reg (uPx port) 0 0x1044 ||| 1).toNat

/-- RETRAIN (R387). -/
def execRetrain (src : Src) (port : Nat) (s : State) : Answer :=
  onParts (srcParts src ++ [(.busPort, port)]) s fun c => c.put32 src (uPx port) 0x1044 (c.reg (uPx port) 0 0x1044 ||| 2).toNat

/-- L1_ENTRY (R375). -/
def execL1Entry (port sub level : Nat) (s : State) : Answer :=
  onParts [(.busPort, port), (.subLink, sub)] s fun c => c.l1Enter port sub level

/-- L1_EXIT (R375). -/
def execL1Exit (port sub : Nat) (s : State) : Answer :=
  onParts [(.busPort, port), (.subLink, sub)] s fun c => c.l1Leave port sub

/-- CXL_MEMORY_ACTIVE (R376). -/
def execCxlMemoryActive (port cap : Nat) (s : State) : Answer := onParts [(.busPort, port)] s fun c => c.cxlActive port cap

end Sys2Proof.Machine
end

