-- ==== Sys2Proof/Machine/PowerRows.lean ====
section
/-! DEFINITION. Boot, power, clocks and thermal events (R471-R513): the meaning of each command. -/

namespace Sys2Proof.Machine

/-- COLD_BOOT (R491). -/
def execColdBoot (straps : BitVec 5) (cold : Bool) (s : State) : Answer := onParts [] s fun c => c.coldBoot straps cold

/-- FIRMWARE_AUTH (R493). -/
def execFirmwareAuth (s : State) : Answer := onParts [] s fun c => c.firmwareAuth

/-- MEMORY_TRAINING (R244). -/
def execMemoryTraining (pops : List ChanPop) (s : State) : Answer := onParts [] s fun c => c.memoryTraining pops

/-- HART_RELEASE (R491). -/
def execHartRelease (s : State) : Answer := onParts [] s fun c => c.hartRelease

/-- WARM_RESET (R490). -/
def execWarmReset (s : State) : Answer := onParts [] s fun c => c.warmReset

/-- POWER_LOSS (R507). -/
def execPowerLoss (s : State) : Answer := onParts [] s fun c => c.powerLoss

/-- DROOP_STRETCH (R479). -/
def execDroopStretch (fold : Nat) (s : State) : Answer := onParts [(.fold, fold)] s fun c => c.droopStretch fold

/-- STRETCH_END (R479). -/
def execStretchEnd (fold : Nat) (s : State) : Answer := onParts [(.fold, fold)] s fun c => c.stretchEnd fold

/-- OPP_REQUEST (R481). -/
def execOppRequest (src : Src) (fold : Nat) (v : Word) (s : State) : Answer :=
  onParts (srcParts src ++ [(.fold, fold)]) s fun c => c.controlWrite src (.desc (uFold fold) 0x18) 4 (v.setWidth 64)

/-- OPP_CHANGE (R483). -/
def execOppChange (fold : Nat) (s : State) : Answer := onParts [(.fold, fold)] s fun c => c.oppChange fold

/-- RAMP_GRANT (R476). -/
def execRampGrant (core : Nat) (k : RampKind) (s : State) : Answer := onParts [(.core, core)] s fun c => c.grantRamp core k

/-- ANNOUNCED_RAMP_START (R476). -/
def execAnnouncedRampStart (core : Nat) (s : State) : Answer := onParts [(.core, core)] s fun c => c.rampStart core

/-- RAMP_END (R475). -/
def execRampEnd (core : Nat) (s : State) : Answer := onParts [(.core, core)] s fun c => c.rampEnd core

/-- LOADCAST_DEASSERT (R477). -/
def execLoadcastDeassert (p : Nat) (s : State) : Answer := onParts [(.paddock, p)] s fun c => c.loadcastOff p

/-- THERMAL_LOOP (R484). -/
def execThermalLoop (temps : List Nat) (s : State) : Answer := onParts [] s fun c => c.thermalLoop temps

/-- HARDWARE_CLAMP (R485). -/
def execHardwareClamp (cause : Nat) (fold : Nat) (s : State) : Answer :=
  onParts [(.fold, fold)] s fun c => c.hardwareClamp cause fold

/-- CLAMP_END (R485). -/
def execClampEnd (s : State) : Answer := onParts [] s fun c => c.clampEnd

/-- THERMTRIP (R486). -/
def execThermtrip (temp : Nat) (s : State) : Answer := onParts [] s fun c => c.thermtrip temp

/-- CORE_POWER_UP (R488). -/
def execCorePowerUp (core : Nat) (s : State) : Answer := onParts [(.core, core)] s fun c => c.corePowerUp core

/-- STANDBY_POWER_UP (R491). -/
def execStandbyPowerUp (s : State) : Answer := onParts [] s fun c => c.standbyUp

/-- SUBLINK_UP (R387). -/
def execSublinkUp (port sub width speed : Nat) (s : State) : Answer :=
  onParts [(.busPort, port), (.subLink, sub)] s fun c => c.linkUp port sub width speed

/-- PERST0_N_DEASSERT (R494). -/
def execPerst0NDeassert (s : State) : Answer := onParts [] s fun c => c.perst0Off

/-- PAUSE_QUANTA_EXPIRY (R290). -/
def execPauseQuantaExpiry (port prio : Nat) (s : State) : Answer :=
  onParts [(.ethPort, port)] s fun c => c.pauseExpiry port prio

/-- SENSORS_REACH_ZERO (R510). -/
def execSensorsReachZero (s : State) : Answer := onParts [] s fun c => c.sensorsZero

end Sys2Proof.Machine
end

