-- ==== Sys2Proof/Machine/RasRows.lean ====
section
/-! DEFINITION. Error records, injection, migration, counters and Tally banks (R417-R470, R518): the meaning of each command. -/

namespace Sys2Proof.Machine

/-- RECORD_INVALIDATE (R422). -/
def execRecordInvalidate (src : Src) (u i : Nat) (s : State) : Answer :=
  onParts (srcParts src ++ [(.unit, u), (.record, i)]) s fun c => c.bankPut src u i 0x08 0

/-- RECORD_PREPARE (R518). -/
def execRecordPrepare (src : Src) (u i : Nat) (r : RecReg) (v : DWord) (s : State) : Answer :=
  onParts (srcParts src ++ [(.unit, u), (.record, i)]) s fun c => c.bankPut src u i (recReg r) v

/-- RECORD_INJECTION (R422). -/
def execRecordInjection (src : Src) (u i : Nat) (v : DWord) (s : State) : Answer :=
  onParts (srcParts src ++ [(.unit, u), (.record, i)]) s fun c => c.bankPut src u i 0x00 v

/-- INJECTION_ARM (R442). -/
def execInjectionArm (src : Src) (v : Word) (s : State) : Answer :=
  onParts (srcParts src) s fun c => c.put32 src uPackage 0x4014 v.toNat

/-- INJECTION_FIRE (R442). -/
def execInjectionFire (u line : Nat) (s : State) : Answer := onParts [(.unit, u)] s fun c => c.injectionFire u line

/-- RESIDUE_REPLAY (R424). -/
def execResidueReplay (h : Nat) (s : State) : Answer := onParts [(.hart, h)] s fun c => c.residueReplay h

/-- HART_MIGRATION (R427). -/
def execHartMigration (h : Nat) (s : State) : Answer := onParts [(.hart, h)] s fun c => c.hartMigration h

/-- MIGRATION_RESTORE (R427). -/
def execMigrationRestore (h : Nat) (s : State) : Answer := onParts [(.hart, h)] s fun c => c.migRestore h

/-- CORE_RETIRE (R427). -/
def execCoreRetire (c : Nat) (s : State) : Answer := onParts [(.core, c)] s fun x => x.coreRetire c

/-- HART_STOP (R426). -/
def execHartStop (h : Nat) (s : State) : Answer := onParts [(.hart, h)] s fun c => c.hartStop h

/-- FATAL_ERROR (R439). -/
def execFatalError (u struct : Nat) (s : State) : Answer := onParts [(.unit, u)] s fun c => c.fatalError u struct

/-- FATAL_LOG_COPY (R439). -/
def execFatalLogCopy (s : State) : Answer := onParts [] s fun c => c.fatalLog

/-- COUNTER_WRITE (R446). -/
def execCounterWrite (h csr : Nat) (v : DWord) (s : State) : Answer := onParts [(.hart, h)] s fun c => c.traced h fun c => c.counterWrite h csr v

/-- COUNTER_OVERFLOW (R452). -/
def execCounterOverflow (h n rem : Nat) (s : State) : Answer := onParts [(.hart, h)] s fun c => c.counterOverflow h n rem

/-- SAMPLE (R457). -/
def execSample (h : Nat) (i : SampleInfo) (s : State) : Answer := onParts [(.hart, h)] s fun c => c.sample h i

/-- SAMPLE_RECORD_DONE (R458). -/
def execSampleRecordDone (h : Nat) (s : State) : Answer := onParts [(.hart, h)] s fun c => c.modHart h Hart.sampleDone

/-- TSCTL_WRITE (R455). -/
def execTsctlWrite (h : Nat) (v : DWord) (s : State) : Answer := onParts [(.hart, h)] s fun c => c.traced h fun c => c.tsctlWrite h v

/-- TSIDX_WRITE (R456). -/
def execTsidxWrite (h : Nat) (v : DWord) (s : State) : Answer := onParts [(.hart, h)] s fun c => c.traced h fun c => c.tsidxWrite h v

/-- TALLY_START (R464). -/
def execTallyStart (src : Src) (b : Nat) (s : State) : Answer :=
  onParts (srcParts src ++ [(.bank, b)]) s fun c => c.put32 src uPackage (tbOff b 0) (c.reg 0 0 (tbOff b 0) ||| 4).toNat

/-- TALLY_STOP (R464). -/
def execTallyStop (src : Src) (b : Nat) (s : State) : Answer :=
  onParts (srcParts src ++ [(.bank, b)]) s fun c => c.put32 src uPackage (tbOff b 0) (c.reg 0 0 (tbOff b 0) ||| 8).toNat

/-- TALLY_WINDOW_END (R467). -/
def execTallyWindowEnd (b : Nat) (s : State) : Answer := onParts [(.bank, b)] s fun c => c.tallyWindowEnd b

/-- START_ALL (R468). -/
def execStartAll (src : Src) (s : State) : Answer := onParts (srcParts src) s fun c => c.put32 src uPackage 0x5C04 1

/-- STOP_ALL (R468). -/
def execStopAll (src : Src) (s : State) : Answer := onParts (srcParts src) s fun c => c.put32 src uPackage 0x5C04 2

end Sys2Proof.Machine
end

