-- ==== Sys2Proof/Machine/Dispatch.lean ====
section
/-! DEFINITION. One arm per command, each one direct call of its meaning. -/

namespace Sys2Proof.Machine

/-- The effect of a command on everything but the queue. -/
def exec (i : Instr) (s : State) : Host.Outcome State Fault Refusal :=
  match i with
  | .registerWrite src a width data => Sys2Proof.Machine.execRegisterWrite src a width data s
  | .readClear src a width => Sys2Proof.Machine.execReadClear src a width s
  | .bitAliasWrite src u off v => Sys2Proof.Machine.execBitAliasWrite src u off v s
  | .complementPairStore src a v => Sys2Proof.Machine.execComplementPairStore src a v s
  | .complementPairArm src a v => Sys2Proof.Machine.execComplementPairArm src a v s
  | .complementPairCommit src a v => Sys2Proof.Machine.execComplementPairCommit src a v s
  | .interleaveSetCommit src n r v => Sys2Proof.Machine.execInterleaveSetCommit src n r v s
  | .msetLock src => Sys2Proof.Machine.execMsetLock src s
  | .bootEntryCommit src v => Sys2Proof.Machine.execBootEntryCommit src v s
  | .registerParityFault u bank off => Sys2Proof.Machine.execRegisterParityFault u bank off s
  | .blkLock src u => Sys2Proof.Machine.execBlkLock src u s
  | .lastErrClear src u => Sys2Proof.Machine.execLastErrClear src u s
  | .mboxSel src u sel => Sys2Proof.Machine.execMboxSel src u sel s
  | .snapshotComplete u => Sys2Proof.Machine.execSnapshotComplete u s
  | .summaryPropagate u => Sys2Proof.Machine.execSummaryPropagate u s
  | .doorbell src a width data => Sys2Proof.Machine.execDoorbell src a width data s
  | .completionHeadDoorbell src a width data => Sys2Proof.Machine.execCompletionHeadDoorbell src a width data s
  | .doorbellRegionBadOffset src a width data => Sys2Proof.Machine.execDoorbellRegionBadOffset src a width data s
  | .descriptorFetch r => Sys2Proof.Machine.execDescriptorFetch r s
  | .completionRecordWrite r => Sys2Proof.Machine.execCompletionRecordWrite r s
  | .msixEvent iid v => Sys2Proof.Machine.execMsixEvent iid v s
  | .msixUnmask iid v => Sys2Proof.Machine.execMsixUnmask iid v s
  | .instruction h op len => Sys2Proof.Machine.execInstruction h op len s
  | .load h op => Sys2Proof.Machine.execLoad h op s
  | .store h op => Sys2Proof.Machine.execStore h op s
  | .vectorLoad h op => Sys2Proof.Machine.execVectorLoad h op s
  | .vectorStore h op => Sys2Proof.Machine.execVectorStore h op s
  | .ioAccess h op => Sys2Proof.Machine.execIoAccess h op s
  | .storeCommit h => Sys2Proof.Machine.execStoreCommit h s
  | .heldLoadReplay h => Sys2Proof.Machine.execHeldLoadReplay h s
  | .sameAddressLoadRedo h line => Sys2Proof.Machine.execSameAddressLoadRedo h line s
  | .branchRedirect h at_ target => Sys2Proof.Machine.execBranchRedirect h at_ target s
  | .hardwarePrefetch h line => Sys2Proof.Machine.execHardwarePrefetch h line s
  | .amo h fn rd rs1 rs2 size => Sys2Proof.Machine.execAmo h fn rd rs1 rs2 size s
  | .lr h rd rs1 size => Sys2Proof.Machine.execLr h rd rs1 size s
  | .sc h rd rs1 rs2 size => Sys2Proof.Machine.execSc h rd rs1 rs2 size s
  | .reservationSnoopRelease h => Sys2Proof.Machine.execReservationSnoopRelease h s
  | .fence h pred succ tso => Sys2Proof.Machine.execFence h pred succ tso s
  | .fenceI h => Sys2Proof.Machine.execFenceI h s
  | .sfenceVma h fn rs1 rs2 => Sys2Proof.Machine.execSfenceVma h fn rs1 rs2 s
  | .serialisingInstruction h op => Sys2Proof.Machine.execSerialisingInstruction h op s
  | .trapEntry h interrupt cause tval => Sys2Proof.Machine.execTrapEntry h interrupt cause tval s
  | .cboClean h rs1 => Sys2Proof.Machine.execCboClean h rs1 s
  | .cboFlush h rs1 => Sys2Proof.Machine.execCboFlush h rs1 s
  | .cboInval h rs1 => Sys2Proof.Machine.execCboInval h rs1 s
  | .cboZero h rs1 => Sys2Proof.Machine.execCboZero h rs1 s
  | .pageWalk h => Sys2Proof.Machine.execPageWalk h s
  | .integerDivide h fn rd rs1 rs2 => Sys2Proof.Machine.execIntegerDivide h fn rd rs1 rs2 s
  | .fpInstruction h op => Sys2Proof.Machine.execFpInstruction h op s
  | .frmWrite h v => Sys2Proof.Machine.execFrmWrite h v s
  | .fflagsWrite h v => Sys2Proof.Machine.execFflagsWrite h v s
  | .vsetvl h rd avl vtype => Sys2Proof.Machine.execVsetvl h rd avl vtype s
  | .vectorInstruction h op => Sys2Proof.Machine.execVectorInstruction h op s
  | .vectorReduction h op => Sys2Proof.Machine.execVectorReduction h op s
  | .molRadd h ty op => Sys2Proof.Machine.execMolRadd h ty op s
  | .molRmin h ty op => Sys2Proof.Machine.execMolRmin h ty op s
  | .molRmax h ty op => Sys2Proof.Machine.execMolRmax h ty op s
  | .molRclose h op => Sys2Proof.Machine.execMolRclose h op s
  | .molBpctlWrite h v => Sys2Proof.Machine.execMolBpctlWrite h v s
  | .bpctlFlush h => Sys2Proof.Machine.execBpctlFlush h s
  | .molRestctlWrite h v => Sys2Proof.Machine.execMolRestctlWrite h v s
  | .wfi h => Sys2Proof.Machine.execWfi h s
  | .restEntry h => Sys2Proof.Machine.execRestEntry h s
  | .wakeEvent h dbg => Sys2Proof.Machine.execWakeEvent h dbg s
  | .restWakeResume h => Sys2Proof.Machine.execRestWakeResume h s
  | .debugHalt h => Sys2Proof.Machine.execDebugHalt h s
  | .rdShared m => Sys2Proof.Machine.execRdShared m s
  | .rdOwn m => Sys2Proof.Machine.execRdOwn m s
  | .rdOnce m errs => Sys2Proof.Machine.execRdOnce m errs s
  | .upgrade m => Sys2Proof.Machine.execUpgrade m s
  | .putDirty m => Sys2Proof.Machine.execPutDirty m s
  | .putClean m => Sys2Proof.Machine.execPutClean m s
  | .redOp m => Sys2Proof.Machine.execRedOp m s
  | .ncRd m => Sys2Proof.Machine.execNcRd m s
  | .ncWr m => Sys2Proof.Machine.execNcWr m s
  | .fwdShared m => Sys2Proof.Machine.execFwdShared m s
  | .fwdOwn m => Sys2Proof.Machine.execFwdOwn m s
  | .inval m => Sys2Proof.Machine.execInval m s
  | .close m => Sys2Proof.Machine.execClose m s
  | .ack m => Sys2Proof.Machine.execAck m s
  | .snpNoData m => Sys2Proof.Machine.execSnpNoData m s
  | .wbAck m => Sys2Proof.Machine.execWbAck m s
  | .wbAckStale m => Sys2Proof.Machine.execWbAckStale m s
  | .cmp m => Sys2Proof.Machine.execCmp m s
  | .data m => Sys2Proof.Machine.execData m s
  | .fwdData m => Sys2Proof.Machine.execFwdData m s
  | .wbData m => Sys2Proof.Machine.execWbData m s
  | .waitQueueStart slice line => Sys2Proof.Machine.execWaitQueueStart slice line s
  | .waitQueueAdmit slice line => Sys2Proof.Machine.execWaitQueueAdmit slice line s
  | .l2Eviction core line => Sys2Proof.Machine.execL2Eviction core line s
  | .l2MaintClean src core pos => Sys2Proof.Machine.execL2MaintClean src core pos s
  | .l2MaintInval src core pos => Sys2Proof.Machine.execL2MaintInval src core pos s
  | .l2MaintCleanInval src core pos => Sys2Proof.Machine.execL2MaintCleanInval src core pos s
  | .l3MaintClean src slice pos => Sys2Proof.Machine.execL3MaintClean src slice pos s
  | .l3MaintInval src slice pos => Sys2Proof.Machine.execL3MaintInval src slice pos s
  | .l3MaintCleanInval src slice pos => Sys2Proof.Machine.execL3MaintCleanInval src slice pos s
  | .maintDone u => Sys2Proof.Machine.execMaintDone u s
  | .penWaitResume slice line => Sys2Proof.Machine.execPenWaitResume slice line s
  | .redDrain src slice => Sys2Proof.Machine.execRedDrain src slice s
  | .linkRetry l => Sys2Proof.Machine.execLinkRetry l s
  | .wireSparing l failing => Sys2Proof.Machine.execWireSparing l failing s
  | .bankActivate chan sub rank bank => Sys2Proof.Machine.execBankActivate chan sub rank bank s
  | .writeDrain chan sub => Sys2Proof.Machine.execWriteDrain chan sub s
  | .refreshSb chan rank idx => Sys2Proof.Machine.execRefreshSb chan rank idx s
  | .mr4Poll chan hot => Sys2Proof.Machine.execMr4Poll chan hot s
  | .retrainingPause chan rank dur => Sys2Proof.Machine.execRetrainingPause chan rank dur s
  | .caParityAlert chan rank => Sys2Proof.Machine.execCaParityAlert chan rank s
  | .patrolRead chan errs => Sys2Proof.Machine.execPatrolRead chan errs s
  | .rankRetirement chan rank cause => Sys2Proof.Machine.execRankRetirement chan rank cause s
  | .copyOperation chan errs => Sys2Proof.Machine.execCopyOperation chan errs s
  | .copyDone chan => Sys2Proof.Machine.execCopyDone chan s
  | .force src chan rank => Sys2Proof.Machine.execForce src chan rank s
  | .mcSpareCfgWrite src chan v => Sys2Proof.Machine.execMcSpareCfgWrite src chan v s
  | .frameReceive port mac bytes fcsOk => Sys2Proof.Machine.execFrameReceive port mac bytes fcsOk s
  | .heldFrameResume port q => Sys2Proof.Machine.execHeldFrameResume port q s
  | .xon port prio => Sys2Proof.Machine.execXon port prio s
  | .pauseFrameReceive port mac prios quanta => Sys2Proof.Machine.execPauseFrameReceive port mac prios quanta s
  | .linkUp port mac => Sys2Proof.Machine.execLinkUp port mac s
  | .linkDown port mac => Sys2Proof.Machine.execLinkDown port mac s
  | .flowSet r => Sys2Proof.Machine.execFlowSet r s
  | .flowDelete r => Sys2Proof.Machine.execFlowDelete r s
  | .rssSet r => Sys2Proof.Machine.execRssSet r s
  | .rxBuf r => Sys2Proof.Machine.execRxBuf r s
  | .txFrame r => Sys2Proof.Machine.execTxFrame r s
  | .txGather r => Sys2Proof.Machine.execTxGather r s
  | .txInline r => Sys2Proof.Machine.execTxInline r s
  | .qHartWrite src q v => Sys2Proof.Machine.execQHartWrite src q v s
  | .queueEnable src r => Sys2Proof.Machine.execQueueEnable src r s
  | .queueDisable src r => Sys2Proof.Machine.execQueueDisable src r s
  | .quiesced r => Sys2Proof.Machine.execQuiesced r s
  | .copy r => Sys2Proof.Machine.execCopy r s
  | .fill r => Sys2Proof.Machine.execFill r s
  | .crc r => Sys2Proof.Machine.execCrc r s
  | .compare r => Sys2Proof.Machine.execCompare r s
  | .compress r => Sys2Proof.Machine.execCompress r s
  | .compressResume r => Sys2Proof.Machine.execCompressResume r s
  | .decompress r => Sys2Proof.Machine.execDecompress r s
  | .decompressResume r => Sys2Proof.Machine.execDecompressResume r s
  | .laneDispatch e => Sys2Proof.Machine.execLaneDispatch e s
  | .containerBlockWrite r => Sys2Proof.Machine.execContainerBlockWrite r s
  | .laneFault e lane again => Sys2Proof.Machine.execLaneFault e lane again s
  | .droverInstruction d k => Sys2Proof.Machine.execDroverInstruction d k s
  | .droverApertureLoad d k op => Sys2Proof.Machine.execDroverApertureLoad d k op s
  | .droverApertureStore d k op => Sys2Proof.Machine.execDroverApertureStore d k op s
  | .droverFill d k => Sys2Proof.Machine.execDroverFill d k s
  | .storeQueueDrain d k => Sys2Proof.Machine.execStoreQueueDrain d k s
  | .writeQueueSend d n => Sys2Proof.Machine.execWriteQueueSend d n s
  | .molMulct d k fn r => Sys2Proof.Machine.execMolMulct d k fn r s
  | .molDivct d k fn r => Sys2Proof.Machine.execMolDivct d k fn r s
  | .molBswap d k r => Sys2Proof.Machine.execMolBswap d k r s
  | .molCsum d k r => Sys2Proof.Machine.execMolCsum d k r s
  | .molCsfold d k r => Sys2Proof.Machine.execMolCsfold d k r s
  | .molCrc32cB d k r => Sys2Proof.Machine.execMolCrc32cB d k r s
  | .molCrc32cW d k r => Sys2Proof.Machine.execMolCrc32cW d k r s
  | .molExtr d k r => Sys2Proof.Machine.execMolExtr d k r s
  | .molDget d k r => Sys2Proof.Machine.execMolDget d k r s
  | .molDwait d k r => Sys2Proof.Machine.execMolDwait d k r s
  | .molCmpl d k r => Sys2Proof.Machine.execMolCmpl d k r s
  | .molDpf d k r => Sys2Proof.Machine.execMolDpf d k r s
  | .molDcClean d k r => Sys2Proof.Machine.execMolDcClean d k r s
  | .molDcInval d k r => Sys2Proof.Machine.execMolDcInval d k r s
  | .molDcFlush d k r => Sys2Proof.Machine.execMolDcFlush d k r s
  | .droverHalt d k cause => Sys2Proof.Machine.execDroverHalt d k cause s
  | .droverRun src d k => Sys2Proof.Machine.execDroverRun src d k s
  | .droverStop src d k => Sys2Proof.Machine.execDroverStop src d k s
  | .droverClusterEnable src d => Sys2Proof.Machine.execDroverClusterEnable src d s
  | .dvMaintClean src d pos => Sys2Proof.Machine.execDvMaintClean src d pos s
  | .dvMaintInval src d pos => Sys2Proof.Machine.execDvMaintInval src d pos s
  | .dvMaintCleanInval src d pos => Sys2Proof.Machine.execDvMaintCleanInval src d pos s
  | .unitPowerRequest src u req => Sys2Proof.Machine.execUnitPowerRequest src u req s
  | .unitPowerDone u => Sys2Proof.Machine.execUnitPowerDone u s
  | .bwMigrate src hart => Sys2Proof.Machine.execBwMigrate src hart s
  | .bwWatchdogExpiry => Sys2Proof.Machine.execBwWatchdogExpiry s
  | .bwRestartDone => Sys2Proof.Machine.execBwRestartDone s
  | .bwHeartbeat => Sys2Proof.Machine.execBwHeartbeat s
  | .avsPoll r => Sys2Proof.Machine.execAvsPoll r s
  | .avsStatusAlert p => Sys2Proof.Machine.execAvsStatusAlert p s
  | .inboundMemoryWrite t => Sys2Proof.Machine.execInboundMemoryWrite t s
  | .inboundMemoryRead t => Sys2Proof.Machine.execInboundMemoryRead t s
  | .msiWrite t => Sys2Proof.Machine.execMsiWrite t s
  | .inboundCompletion port sub tag bytes ep ok => Sys2Proof.Machine.execInboundCompletion port sub tag bytes ep ok s
  | .outboundRequest port m => Sys2Proof.Machine.execOutboundRequest port m s
  | .completionTimeout port sub tag => Sys2Proof.Machine.execCompletionTimeout port sub tag s
  | .tagQuarantineEnd port sub tag => Sys2Proof.Machine.execTagQuarantineEnd port sub tag s
  | .windowCommit src port v => Sys2Proof.Machine.execWindowCommit src port v s
  | .sublinkDown port sub => Sys2Proof.Machine.execSublinkDown port sub s
  | .endpointLinkReset => Sys2Proof.Machine.execEndpointLinkReset s
  | .linkEnable src port => Sys2Proof.Machine.execLinkEnable src port s
  | .retrain src port => Sys2Proof.Machine.execRetrain src port s
  | .l1Entry port sub level => Sys2Proof.Machine.execL1Entry port sub level s
  | .l1Exit port sub => Sys2Proof.Machine.execL1Exit port sub s
  | .cxlMemoryActive port cap => Sys2Proof.Machine.execCxlMemoryActive port cap s
  | .create src => Sys2Proof.Machine.execCreate src s
  | .destroy src => Sys2Proof.Machine.execDestroy src s
  | .reset src => Sys2Proof.Machine.execReset src s
  | .freeze src => Sys2Proof.Machine.execFreeze src s
  | .frozen iid => Sys2Proof.Machine.execFrozen iid s
  | .save src => Sys2Proof.Machine.execSave src s
  | .restore src => Sys2Proof.Machine.execRestore src s
  | .unfreeze src => Sys2Proof.Machine.execUnfreeze src s
  | .dirtyStart src => Sys2Proof.Machine.execDirtyStart src s
  | .dirtySwap src => Sys2Proof.Machine.execDirtySwap src s
  | .dirtyStop src => Sys2Proof.Machine.execDirtyStop src s
  | .flr iid => Sys2Proof.Machine.execFlr iid s
  | .vfEnableClear => Sys2Proof.Machine.execVfEnableClear s
  | .instanceReset iid => Sys2Proof.Machine.execInstanceReset iid s
  | .shearsStopCut iid => Sys2Proof.Machine.execShearsStopCut iid s
  | .instanceResetDone iid => Sys2Proof.Machine.execInstanceResetDone iid s
  | .busMasterDisable f => Sys2Proof.Machine.execBusMasterDisable f s
  | .busMasterEnable f => Sys2Proof.Machine.execBusMasterEnable f s
  | .recordInvalidate src u idx => Sys2Proof.Machine.execRecordInvalidate src u idx s
  | .recordPrepare src u idx r v => Sys2Proof.Machine.execRecordPrepare src u idx r v s
  | .recordInjection src u idx v => Sys2Proof.Machine.execRecordInjection src u idx v s
  | .injectionArm src v => Sys2Proof.Machine.execInjectionArm src v s
  | .injectionFire u line => Sys2Proof.Machine.execInjectionFire u line s
  | .residueReplay h => Sys2Proof.Machine.execResidueReplay h s
  | .hartMigration h => Sys2Proof.Machine.execHartMigration h s
  | .migrationRestore h => Sys2Proof.Machine.execMigrationRestore h s
  | .coreRetire c => Sys2Proof.Machine.execCoreRetire c s
  | .hartStop h => Sys2Proof.Machine.execHartStop h s
  | .fatalError u struct => Sys2Proof.Machine.execFatalError u struct s
  | .fatalLogCopy => Sys2Proof.Machine.execFatalLogCopy s
  | .counterWrite h csr v => Sys2Proof.Machine.execCounterWrite h csr v s
  | .counterOverflow h n rem => Sys2Proof.Machine.execCounterOverflow h n rem s
  | .sample h info => Sys2Proof.Machine.execSample h info s
  | .sampleRecordDone h => Sys2Proof.Machine.execSampleRecordDone h s
  | .tsctlWrite h v => Sys2Proof.Machine.execTsctlWrite h v s
  | .tsidxWrite h v => Sys2Proof.Machine.execTsidxWrite h v s
  | .tallyStart src b => Sys2Proof.Machine.execTallyStart src b s
  | .tallyStop src b => Sys2Proof.Machine.execTallyStop src b s
  | .tallyWindowEnd b => Sys2Proof.Machine.execTallyWindowEnd b s
  | .startAll src => Sys2Proof.Machine.execStartAll src s
  | .stopAll src => Sys2Proof.Machine.execStopAll src s
  | .coldBoot straps cold => Sys2Proof.Machine.execColdBoot straps cold s
  | .firmwareAuth => Sys2Proof.Machine.execFirmwareAuth s
  | .memoryTraining pops => Sys2Proof.Machine.execMemoryTraining pops s
  | .hartRelease => Sys2Proof.Machine.execHartRelease s
  | .warmReset => Sys2Proof.Machine.execWarmReset s
  | .powerLoss => Sys2Proof.Machine.execPowerLoss s
  | .droopStretch fold => Sys2Proof.Machine.execDroopStretch fold s
  | .stretchEnd fold => Sys2Proof.Machine.execStretchEnd fold s
  | .oppRequest src fold v => Sys2Proof.Machine.execOppRequest src fold v s
  | .oppChange fold => Sys2Proof.Machine.execOppChange fold s
  | .rampGrant core k => Sys2Proof.Machine.execRampGrant core k s
  | .announcedRampStart core => Sys2Proof.Machine.execAnnouncedRampStart core s
  | .rampEnd core => Sys2Proof.Machine.execRampEnd core s
  | .loadcastDeassert p => Sys2Proof.Machine.execLoadcastDeassert p s
  | .thermalLoop temps => Sys2Proof.Machine.execThermalLoop temps s
  | .hardwareClamp cause fold => Sys2Proof.Machine.execHardwareClamp cause fold s
  | .clampEnd => Sys2Proof.Machine.execClampEnd s
  | .thermtrip temp => Sys2Proof.Machine.execThermtrip temp s
  | .corePowerUp core => Sys2Proof.Machine.execCorePowerUp core s
  | .standbyPowerUp => Sys2Proof.Machine.execStandbyPowerUp s
  | .sublinkUp port sub width speed => Sys2Proof.Machine.execSublinkUp port sub width speed s
  | .perst0NDeassert => Sys2Proof.Machine.execPerst0NDeassert s
  | .pauseQuantaExpiry port prio => Sys2Proof.Machine.execPauseQuantaExpiry port prio s
  | .sensorsReachZero => Sys2Proof.Machine.execSensorsReachZero s

end Sys2Proof.Machine
end

