-- ==== Sys2Proof/Machine/Tick.lean ====
section
/-! DEFINITION. What an idle step does: one tick of SYSCLK, 10 ns, passes (R174-R176, R209, R342, R465, R466, R474;
DESIGN CHOICE, log 3). -/

namespace Sys2Proof.Machine

/-- Mc of one tick: the mesh runs at 2.2 GHz (R11). -/
def tickMc : Nat := 22
/-- Dvc of one tick: the drover clock is 1.5 GHz (R11). -/
def tickDvc : Nat := 15

/-- L3_HOTLINE counts the mc in which some wait queue of the home is full (R161, R176). -/
def Chip.hotline (c : Chip) : Chip :=
  (c.homes.filter fun e => e.2.waitq.any fun q => decide (16 ≤ q.2.length)).foldl
    (fun (c : Chip) e => c.countReg (uSlice e.1) 0 0x1084 tickMc) c

/-- T of the clusters in service (R342). -/
def Chip.dvTick (c : Chip) : Chip :=
  [0, 1].foldl (fun (c : Chip) d =>
    if c.unitRuns (uDrover d) && decide (c.regFld (uDrover d) 0 0x1040 0 0 = 1) then c.modDrover d fun x => { x with t := x.t + tickDvc }
    else c) c

/-- One tick: mtime runs on standby power in every state of the rest; MT, T and the counters run with the clocks (R209,
R474, R486, R507). -/
def Chip.tick (c : Chip) : Chip :=
  let c := if c.boot.standby then { c with mtime := c.mtime + 1 } else c
  if !c.pwr.clocks then c
  else
    let c := (c.meshRun tickMc).pauseTick
    (List.range 42).foldl (fun (c : Chip) b => c.bankTick b) c.hotline.dvTick

end Sys2Proof.Machine
end

