-- ==== Sys2Proof/WellFormed.lean ====
section
/-! DEFINITION. Which commands are well formed: every number in the range that the manual gives the part, register or
field that it names. The checks are on the command alone; what a member has is the machine's (R2-R5). -/

namespace Sys2Proof

def Src.wf : Src → Bool
  | .hart h => decide (h < 192)
  | _ => true

/-- A descriptor word, a block offset, an offset that nothing owns, a function's MSI-X structure (R29, R31, R380, R391). -/
def CtlAddr.wf : CtlAddr → Bool
  | .desc u o => decide (u ≤ 512) && decide (o < 64)
  | .block u o => decide (u ≤ 513) && decide (o < 2 ^ 28)
  | .hole o => decide (o < 2 ^ 32)
  | .msix f o => decide (f < 0x200) && decide (o < 0x10000)
  | .sriov => true
  | .msixCtl f => decide (f < 0x200)
  | .bar f o => decide (f < 0x200) && decide (o < if f < 0x100 then 2 ^ 25 else 2 ^ 17)
  | .config f o => decide (f < 0x200) && decide (o < 4096)

/-- Queues, rings and instances (R274, R306, R336, R391). -/
def RingId.wf : RingId → Bool
  | .rx q => decide (q < 8192)
  | .tx q => decide (q < 8192)
  | .sh e r => decide (e < 2) && decide (r < 256)
  | .dv d r => decide (d < 2) && decide (r < 64)
  | .adm i => decide (i < 0x2000)

def DbAddr.wf : DbAddr → Bool
  | .region u o => decide (u ≤ 512) && decide (o < 2 ^ 28)
  | .page i o => decide (i < 0x2000) && decide (o < 2 ^ 17)

def Agent.wf : Agent → Bool
  | .core c => decide (c < 200)
  | .home i => decide (i < 100)
  | .mc n => decide (n < 12)
  | .unit u => decide (u ≤ 512)
  | .bridge => true

/-- A line of the 52-bit physical space, and an access within it (R42, R156). -/
def Msg.wf (m : Msg) : Bool :=
  m.src.wf && m.dst.wf && m.req.wf && decide (m.line < 2 ^ 46) && decide (m.off < 64) && decide (m.off + m.size ≤ 64) && decide (m.clos < 16)
    && decide (m.birth < 65536)

def sizeOk (n : Nat) : Bool := [1, 2, 4, 8].contains n

def LoadOp.wf (o : LoadOp) : Bool :=
  decide (o.rd < 32) && decide (o.rs1 < 32) && sizeOk o.size && (!o.fp || decide (1 < o.size)) && (decide (o.len = 2) || decide (o.len = 4))
    && (!o.wrong || o.early.isNone)

def StoreOp.wf (o : StoreOp) : Bool :=
  decide (o.rs1 < 32) && decide (o.rs2 < 32) && sizeOk o.size && (!o.fp || decide (1 < o.size)) && (decide (o.len = 2) || decide (o.len = 4))

def VMemOp.wf (o : VMemOp) : Bool :=
  decide (o.v < 32) && decide (o.rs1 < 32) && sizeOk o.eew && (match o.stride with | some r => decide (r < 32) | none => true)
    && (match o.index with | some r => decide (r < 32) && o.stride.isNone | none => true)

def IoAddr.wf : IoAddr → Bool
  | .ctl a => a.wf
  | .doorbell a => a.wf
  | .imsic _ p o => decide (p < 16) && decide (o < 4096)
  | .mmio pa => decide (0x000F100000000000 ≤ pa) && decide (pa < 2 ^ 52)

def IoOp.wf (o : IoOp) : Bool := decide (o.reg < 32) && o.addr.wf && sizeOk o.size && (decide (o.len = 2) || decide (o.len = 4))

def HartOp.wf : HartOp → Bool
  | .alu _ rd a b => decide (rd < 32) && decide (a < 32) && decide (b < 32)
  | .alui _ rd a _ => decide (rd < 32) && decide (a < 32)
  | .un _ rd a => decide (rd < 32) && decide (a < 32)
  | .lui rd _ => decide (rd < 32)
  | .auipc rd _ => decide (rd < 32)
  | .jal rd _ => decide (rd < 32)
  | .jalr rd a _ => decide (rd < 32) && decide (a < 32)
  | .branch _ a b _ => decide (a < 32) && decide (b < 32)
  | .csr _ rd n a => decide (rd < 32) && decide (n < 4096) && decide (a < 32)
  | .csri _ rd n i => decide (rd < 32) && decide (n < 4096) && decide (i < 32)
  | .ecall => true
  | .ebreak => true
  | .prefetch a => decide (a < 32)
  | .dret => true
  | .hlv rd a n _ _ => decide (rd < 32) && decide (a < 32) && sizeOk n
  | .hsv a b n => decide (a < 32) && decide (b < 32) && sizeOk n
  | .wrongBranch _ _ _ => true
  | .unimplemented => true
  | .hint => true
  | .mop rd => decide (rd < 32)
  | .wrs _ => true
  | .other _ rd a b => decide (rd < 32) && decide (a < 32) && decide (b < 32)

def FpOp.wf (o : FpOp) : Bool := decide (o.rd < 32) && decide (o.rs1 < 32) && decide (o.rs2 < 32) && decide (o.rs3 < 32)

def VSrc.wf : VSrc → Bool
  | .v n => decide (n < 32)
  | .x n => decide (n < 32)
  | .f n => decide (n < 32)
  | .i _ => true

def VOp.wf (o : VOp) : Bool := decide (o.vd < 32) && decide (o.vs2 < 32) && o.src.wf

def VRedOp.wf (o : VRedOp) : Bool := decide (o.vd < 32) && decide (o.vs2 < 32) && decide (o.vs1 < 32)

def MolOp.wf (o : MolOp) : Bool := decide (o.rd < 32) && decide (o.vs2 < 32) && decide (o.rs1 < 32)

def DvMem.wf (o : DvMem) : Bool := decide (o.reg < 32) && decide (o.rs1 < 32) && [1, 2, 4].contains o.size

def DvReg.wf (o : DvReg) : Bool := decide (o.rd < 32) && decide (o.rs1 < 32) && decide (o.rs2 < 32)

def LinkId.wf (l : LinkId) : Bool := decide (l.unit ≤ 512) && decide (l.num < 16)

/-- A TLP of a port's sub-link; a write carries at least one byte (R366). -/
def Tlp.wf (t : Tlp) : Bool :=
  decide (t.port < 4) && decide (t.sub < 4) && decide (t.rid < 65536) && decide (t.addr < 2 ^ 64)
    && (match t.pasid with | some p => decide (p < 2 ^ 20) | none => true)

/-- One reading for each of the six rails (R472). -/
def AvsReading.wf (r : AvsReading) : Bool := decide (r.mv.length = 6) && decide (r.ma.length = 6)

/-- A position of the 1,024 sets and 16 ways of an L2, the 2,048 sets and 32 ways of an L3 slice, the 256 sets and 16
ways of a cluster cache (R147, R341). -/
def l2Pos (p : MaintPos) : Bool := decide (p.set < 1024) && decide (p.way < 16)
def l3Pos (p : MaintPos) : Bool := decide (p.set < 2048) && decide (p.way < 32)
def dvPos (p : MaintPos) : Bool := decide (p.set < 256) && decide (p.way < 16)

/-- A well-formed command. -/
def Instr.wf : Instr → Bool
  | .registerWrite src a width _ => src.wf && a.wf && decide (width < 9)
  | .readClear src a width => src.wf && a.wf && decide (width < 9)
  | .bitAliasWrite src u _ _ => src.wf && decide (u < 514)
  | .complementPairStore src a _ => src.wf && a.wf
  | .complementPairArm src a _ => src.wf && a.wf
  | .complementPairCommit src a _ => src.wf && a.wf
  | .interleaveSetCommit src n _ _ => src.wf && decide (n < 16)
  | .msetLock src => src.wf
  | .bootEntryCommit src _ => src.wf
  | .registerParityFault u _ _ => decide (u < 514)
  | .blkLock src u => src.wf && decide (u < 514)
  | .lastErrClear src u => src.wf && decide (u < 514)
  | .mboxSel src u sel => src.wf && decide (u < 514) && decide (sel < 16777216)
  | .snapshotComplete u => decide (u < 514)
  | .summaryPropagate u => decide (u < 514)
  | .doorbell src a _ _ => src.wf && a.wf
  | .completionHeadDoorbell src a _ _ => src.wf && a.wf
  | .doorbellRegionBadOffset src a _ _ => src.wf && a.wf
  | .descriptorFetch r => r.wf
  | .completionRecordWrite r => r.wf
  | .msixEvent _ v => decide (v < 2048)
  | .msixUnmask _ v => decide (v < 2048)
  | .instruction h op len => decide (h < 192) && op.wf && (decide (len = 2) || decide (len = 4))
  | .load h op => decide (h < 192) && op.wf
  | .store h op => decide (h < 192) && op.wf
  | .vectorLoad h op => decide (h < 192) && op.wf
  | .vectorStore h op => decide (h < 192) && op.wf
  | .ioAccess h op => decide (h < 192) && op.wf
  | .storeCommit h => decide (h < 192)
  | .heldLoadReplay h => decide (h < 192)
  | .sameAddressLoadRedo h _ => decide (h < 192)
  | .branchRedirect h _ _ => decide (h < 192)
  | .hardwarePrefetch h _ => decide (h < 192)
  | .amo h _ rd rs1 rs2 size => decide (h < 192) && decide (rd < 32) && decide (rs1 < 32) && decide (rs2 < 32) && [1, 2, 4, 8].contains size
  | .lr h rd rs1 size => decide (h < 192) && decide (rd < 32) && decide (rs1 < 32) && (decide (size = 4) || decide (size = 8))
  | .sc h rd rs1 rs2 size => decide (h < 192) && decide (rd < 32) && decide (rs1 < 32) && decide (rs2 < 32) && (decide (size = 4) || decide (size = 8))
  | .reservationSnoopRelease h => decide (h < 192)
  | .fence h _ _ _ => decide (h < 192)
  | .fenceI h => decide (h < 192)
  | .sfenceVma h _ rs1 rs2 => decide (h < 192) && decide (rs1 < 32) && decide (rs2 < 32)
  | .serialisingInstruction h _ => decide (h < 192)
  | .trapEntry h _ cause _ => decide (h < 192) && decide (cause < 64)
  | .cboClean h rs1 => decide (h < 192) && decide (rs1 < 32)
  | .cboFlush h rs1 => decide (h < 192) && decide (rs1 < 32)
  | .cboInval h rs1 => decide (h < 192) && decide (rs1 < 32)
  | .cboZero h rs1 => decide (h < 192) && decide (rs1 < 32)
  | .pageWalk h => decide (h < 192)
  | .integerDivide h _ rd rs1 rs2 => decide (h < 192) && decide (rd < 32) && decide (rs1 < 32) && decide (rs2 < 32)
  | .fpInstruction h op => decide (h < 192) && op.wf
  | .frmWrite h _ => decide (h < 192)
  | .fflagsWrite h _ => decide (h < 192)
  | .vsetvl h rd _ _ => decide (h < 192) && decide (rd < 32)
  | .vectorInstruction h op => decide (h < 192) && op.wf
  | .vectorReduction h op => decide (h < 192) && op.wf
  | .molRadd h _ op => decide (h < 192) && op.wf
  | .molRmin h _ op => decide (h < 192) && op.wf
  | .molRmax h _ op => decide (h < 192) && op.wf
  | .molRclose h op => decide (h < 192) && op.wf
  | .molBpctlWrite h _ => decide (h < 192)
  | .bpctlFlush h => decide (h < 192)
  | .molRestctlWrite h _ => decide (h < 192)
  | .wfi h => decide (h < 192)
  | .restEntry h => decide (h < 192)
  | .wakeEvent h _ => decide (h < 192)
  | .restWakeResume h => decide (h < 192)
  | .debugHalt h => decide (h < 192)
  | .rdShared m => m.wf
  | .rdOwn m => m.wf
  | .rdOnce m _ => m.wf
  | .upgrade m => m.wf
  | .putDirty m => m.wf
  | .putClean m => m.wf
  | .redOp m => m.wf
  | .ncRd m => m.wf
  | .ncWr m => m.wf
  | .fwdShared m => m.wf
  | .fwdOwn m => m.wf
  | .inval m => m.wf
  | .close m => m.wf
  | .ack m => m.wf
  | .snpNoData m => m.wf
  | .wbAck m => m.wf
  | .wbAckStale m => m.wf
  | .cmp m => m.wf
  | .data m => m.wf
  | .fwdData m => m.wf
  | .wbData m => m.wf
  | .waitQueueStart slice _ => decide (slice < 100)
  | .waitQueueAdmit slice _ => decide (slice < 100)
  | .l2Eviction core _ => decide (core < 200)
  | .l2MaintClean src core pos => src.wf && decide (core < 200) && l2Pos pos
  | .l2MaintInval src core pos => src.wf && decide (core < 200) && l2Pos pos
  | .l2MaintCleanInval src core pos => src.wf && decide (core < 200) && l2Pos pos
  | .l3MaintClean src slice pos => src.wf && decide (slice < 100) && l3Pos pos
  | .l3MaintInval src slice pos => src.wf && decide (slice < 100) && l3Pos pos
  | .l3MaintCleanInval src slice pos => src.wf && decide (slice < 100) && l3Pos pos
  | .maintDone u => decide (u < 514)
  | .penWaitResume slice _ => decide (slice < 100)
  | .redDrain src slice => src.wf && decide (slice < 100)
  | .linkRetry l => l.wf
  | .wireSparing l _ => l.wf
  | .bankActivate chan sub rank bank => decide (chan < 12) && decide (sub < 2) && decide (rank < 8) && decide (bank < 64)
  | .writeDrain chan sub => decide (chan < 12) && decide (sub < 2)
  | .refreshSb chan rank _ => decide (chan < 12) && decide (rank < 8)
  | .mr4Poll chan _ => decide (chan < 12)
  | .retrainingPause chan rank _ => decide (chan < 12) && decide (rank < 8)
  | .caParityAlert chan rank => decide (chan < 12) && decide (rank < 8)
  | .patrolRead chan _ => decide (chan < 12)
  | .rankRetirement chan rank _ => decide (chan < 12) && decide (rank < 8)
  | .copyOperation chan _ => decide (chan < 12)
  | .copyDone chan => decide (chan < 12)
  | .force src chan rank => src.wf && decide (chan < 12) && decide (rank < 8)
  | .mcSpareCfgWrite src chan _ => src.wf && decide (chan < 12)
  | .frameReceive port mac _ _ => decide (port < 2) && decide (mac < 8)
  | .heldFrameResume port q => decide (port < 2) && decide (q < 8192)
  | .xon port prio => decide (port < 2) && decide (prio < 8)
  | .pauseFrameReceive port mac _ quanta => decide (port < 2) && decide (mac < 8) && decide (quanta.length = 8) && quanta.all (fun x => decide (x < 65536))
  | .linkUp port mac => decide (port < 2) && decide (mac < 8)
  | .linkDown port mac => decide (port < 2) && decide (mac < 8)
  | .flowSet r => r.wf
  | .flowDelete r => r.wf
  | .rssSet r => r.wf
  | .rxBuf r => r.wf
  | .txFrame r => r.wf
  | .txGather r => r.wf
  | .txInline r => r.wf
  | .qHartWrite src q _ => src.wf && decide (q < 8192)
  | .queueEnable src r => src.wf && r.wf
  | .queueDisable src r => src.wf && r.wf
  | .quiesced r => r.wf
  | .copy r => r.wf
  | .fill r => r.wf
  | .crc r => r.wf
  | .compare r => r.wf
  | .compress r => r.wf
  | .compressResume r => r.wf
  | .decompress r => r.wf
  | .decompressResume r => r.wf
  | .laneDispatch e => decide (e < 2)
  | .containerBlockWrite r => r.wf
  | .laneFault e lane _ => decide (e < 2) && decide (lane < 16)
  | .droverInstruction d k => decide (d < 2) && decide (k < 32)
  | .droverApertureLoad d k op => decide (d < 2) && decide (k < 32) && op.wf
  | .droverApertureStore d k op => decide (d < 2) && decide (k < 32) && op.wf
  | .droverFill d k => decide (d < 2) && decide (k < 32)
  | .storeQueueDrain d k => decide (d < 2) && decide (k < 32)
  | .writeQueueSend d n => decide (d < 2) && decide (n < 64)
  | .molMulct d k _ r => decide (d < 2) && decide (k < 32) && r.wf
  | .molDivct d k _ r => decide (d < 2) && decide (k < 32) && r.wf
  | .molBswap d k r => decide (d < 2) && decide (k < 32) && r.wf
  | .molCsum d k r => decide (d < 2) && decide (k < 32) && r.wf
  | .molCsfold d k r => decide (d < 2) && decide (k < 32) && r.wf
  | .molCrc32cB d k r => decide (d < 2) && decide (k < 32) && r.wf
  | .molCrc32cW d k r => decide (d < 2) && decide (k < 32) && r.wf
  | .molExtr d k r => decide (d < 2) && decide (k < 32) && r.wf
  | .molDget d k r => decide (d < 2) && decide (k < 32) && r.wf
  | .molDwait d k r => decide (d < 2) && decide (k < 32) && r.wf
  | .molCmpl d k r => decide (d < 2) && decide (k < 32) && r.wf
  | .molDpf d k r => decide (d < 2) && decide (k < 32) && r.wf
  | .molDcClean d k r => decide (d < 2) && decide (k < 32) && r.wf
  | .molDcInval d k r => decide (d < 2) && decide (k < 32) && r.wf
  | .molDcFlush d k r => decide (d < 2) && decide (k < 32) && r.wf
  | .droverHalt d k cause => decide (d < 2) && decide (k < 32) && decide (cause < 16)
  | .droverRun src d k => src.wf && decide (d < 2) && decide (k < 32)
  | .droverStop src d k => src.wf && decide (d < 2) && decide (k < 32)
  | .droverClusterEnable src d => src.wf && decide (d < 2)
  | .dvMaintClean src d pos => src.wf && decide (d < 2) && dvPos pos
  | .dvMaintInval src d pos => src.wf && decide (d < 2) && dvPos pos
  | .dvMaintCleanInval src d pos => src.wf && decide (d < 2) && dvPos pos
  | .unitPowerRequest src u req => src.wf && decide (u < 513) && decide (req < 4)
  | .unitPowerDone u => decide (u < 514)
  | .bwMigrate src hart => src.wf && decide (hart < 65536)
  | .bwWatchdogExpiry => true
  | .bwRestartDone => true
  | .bwHeartbeat => true
  | .avsPoll r => r.wf
  | .avsStatusAlert p => decide (p < 6)
  | .inboundMemoryWrite t => t.wf
  | .inboundMemoryRead t => t.wf
  | .msiWrite t => t.wf
  | .inboundCompletion port sub tag _ _ _ => decide (port < 4) && decide (sub < 4) && decide (tag < 16384)
  | .outboundRequest port m => decide (port < 4) && m.wf
  | .completionTimeout port sub tag => decide (port < 4) && decide (sub < 4) && decide (tag < 16384)
  | .tagQuarantineEnd port sub tag => decide (port < 4) && decide (sub < 4) && decide (tag < 16384)
  | .windowCommit src port _ => src.wf && decide (port < 4)
  | .sublinkDown port sub => decide (port < 4) && decide (sub < 4)
  | .endpointLinkReset => true
  | .linkEnable src port => src.wf && decide (port < 4)
  | .retrain src port => src.wf && decide (port < 4)
  | .l1Entry port sub level => decide (port < 4) && decide (sub < 4) && decide (level < 4)
  | .l1Exit port sub => decide (port < 4) && decide (sub < 4)
  | .cxlMemoryActive port _ => decide (port < 4)
  | .create src => src.wf
  | .destroy src => src.wf
  | .reset src => src.wf
  | .freeze src => src.wf
  | .frozen _ => true
  | .save src => src.wf
  | .restore src => src.wf
  | .unfreeze src => src.wf
  | .dirtyStart src => src.wf
  | .dirtySwap src => src.wf
  | .dirtyStop src => src.wf
  | .flr _ => true
  | .vfEnableClear => true
  | .instanceReset _ => true
  | .shearsStopCut _ => true
  | .instanceResetDone _ => true
  | .busMasterDisable _ => true
  | .busMasterEnable _ => true
  | .recordInvalidate src u i => src.wf && decide (u < 514) && decide (i < 4)
  | .recordPrepare src u i _ _ => src.wf && decide (u < 514) && decide (i < 4)
  | .recordInjection src u i _ => src.wf && decide (u < 514) && decide (i < 4)
  | .injectionArm src _ => src.wf
  | .injectionFire u _ => decide (u < 514)
  | .residueReplay h => decide (h < 192)
  | .hartMigration h => decide (h < 192)
  | .migrationRestore h => decide (h < 192)
  | .coreRetire c => decide (c < 200)
  | .hartStop h => decide (h < 192)
  | .fatalError u struct => decide (u < 514) && decide (struct < 32)
  | .fatalLogCopy => true
  | .counterWrite h csr _ => decide (h < 192) && decide (csr < 4096)
  | .counterOverflow h n _ => decide (h < 192) && decide (n < 32)
  | .sample h _ => decide (h < 192)
  | .sampleRecordDone h => decide (h < 192)
  | .tsctlWrite h _ => decide (h < 192)
  | .tsidxWrite h _ => decide (h < 192)
  | .tallyStart src b => src.wf && decide (b < 42)
  | .tallyStop src b => src.wf && decide (b < 42)
  | .tallyWindowEnd b => decide (b < 42)
  | .startAll src => src.wf
  | .stopAll src => src.wf
  | .coldBoot _ _ => true
  | .firmwareAuth => true
  | .memoryTraining _ => true
  | .hartRelease => true
  | .warmReset => true
  | .powerLoss => true
  | .droopStretch fold => decide (fold < 20)
  | .stretchEnd fold => decide (fold < 20)
  | .oppRequest src fold _ => src.wf && decide (fold < 20)
  | .oppChange fold => decide (fold < 20)
  | .rampGrant core _ => decide (core < 200)
  | .announcedRampStart core => decide (core < 200)
  | .rampEnd core => decide (core < 200)
  | .loadcastDeassert p => decide (p < 4)
  | .thermalLoop _ => true
  | .hardwareClamp _ fold => decide (fold < 20)
  | .clampEnd => true
  | .thermtrip _ => true
  | .corePowerUp core => decide (core < 200)
  | .standbyPowerUp => true
  | .sublinkUp port sub width speed => decide (port < 4) && decide (sub < 4) && decide (width < 17) && decide (speed < 7)
  | .perst0NDeassert => true
  | .pauseQuantaExpiry port prio => decide (port < 2) && decide (prio < 8)
  | .sensorsReachZero => true

end Sys2Proof
end

