-- ==== Sys2Proof/Safety.lean ====
section
/-! DEFINITION. What a safe run is: every command that waits names parts that the device has, so none ends in a fault. The
terms of the statements for the provers stand here as well. -/

namespace Sys2Proof.Machine

/-- The parts that a command names. -/
def partsOf : Instr → List (Part × Nat)
  | .registerWrite src a _ _ => srcParts src ++ ctlParts a
  | .readClear src a _ => srcParts src ++ ctlParts a
  | .bitAliasWrite src u _ _ => srcParts src ++ [(.unit, u)]
  | .complementPairStore src a _ => srcParts src ++ ctlParts a
  | .complementPairArm src a _ => srcParts src ++ ctlParts a
  | .complementPairCommit src a _ => srcParts src ++ ctlParts a
  | .interleaveSetCommit src n _ _ => srcParts src ++ [(.mset, n)]
  | .msetLock src => srcParts src
  | .bootEntryCommit src _ => srcParts src
  | .registerParityFault u _ _ => [(.unit, u)]
  | .blkLock src u => srcParts src ++ [(.unit, u)]
  | .lastErrClear src u => srcParts src ++ [(.unit, u)]
  | .mboxSel src u _ => srcParts src ++ [(.unit, u)]
  | .snapshotComplete u => [(.unit, u)]
  | .summaryPropagate u => [(.unit, u)]
  | .doorbell src a _ _ => srcParts src ++ dbParts a
  | .completionHeadDoorbell src a _ _ => srcParts src ++ dbParts a
  | .doorbellRegionBadOffset src a _ _ => srcParts src ++ dbParts a
  | .descriptorFetch r => ringParts r
  | .completionRecordWrite r => ringParts r
  | .msixEvent _ _ => []
  | .msixUnmask _ _ => []
  | .instruction h _ _ => [(.hart, h)]
  | .load h _ => [(.hart, h)]
  | .store h _ => [(.hart, h)]
  | .vectorLoad h _ => [(.hart, h)]
  | .vectorStore h _ => [(.hart, h)]
  | .ioAccess h op => (.hart, h) :: ioParts op.addr
  | .storeCommit h => [(.hart, h)]
  | .heldLoadReplay h => [(.hart, h)]
  | .sameAddressLoadRedo h _ => [(.hart, h)]
  | .branchRedirect h _ _ => [(.hart, h)]
  | .hardwarePrefetch h _ => [(.hart, h)]
  | .amo h _ _ _ _ _ => [(.hart, h)]
  | .lr h _ _ _ => [(.hart, h)]
  | .sc h _ _ _ _ => [(.hart, h)]
  | .reservationSnoopRelease h => [(.hart, h)]
  | .fence h _ _ _ => [(.hart, h)]
  | .fenceI h => [(.hart, h)]
  | .sfenceVma h _ _ _ => [(.hart, h)]
  | .serialisingInstruction h _ => [(.hart, h)]
  | .trapEntry h _ _ _ => [(.hart, h)]
  | .cboClean h _ => [(.hart, h)]
  | .cboFlush h _ => [(.hart, h)]
  | .cboInval h _ => [(.hart, h)]
  | .cboZero h _ => [(.hart, h)]
  | .pageWalk h => [(.hart, h)]
  | .integerDivide h _ _ _ _ => [(.hart, h)]
  | .fpInstruction h _ => [(.hart, h)]
  | .frmWrite h _ => [(.hart, h)]
  | .fflagsWrite h _ => [(.hart, h)]
  | .vsetvl h _ _ _ => [(.hart, h)]
  | .vectorInstruction h _ => [(.hart, h)]
  | .vectorReduction h _ => [(.hart, h)]
  | .molRadd h _ _ => [(.hart, h)]
  | .molRmin h _ _ => [(.hart, h)]
  | .molRmax h _ _ => [(.hart, h)]
  | .molRclose h _ => [(.hart, h)]
  | .molBpctlWrite h _ => [(.hart, h)]
  | .bpctlFlush h => [(.hart, h)]
  | .molRestctlWrite h _ => [(.hart, h)]
  | .wfi h => [(.hart, h)]
  | .restEntry h => [(.hart, h)]
  | .wakeEvent h _ => [(.hart, h)]
  | .restWakeResume h => [(.hart, h)]
  | .debugHalt h => [(.hart, h)]
  | .rdShared m => msgParts m
  | .rdOwn m => msgParts m
  | .rdOnce m _ => msgParts m
  | .upgrade m => msgParts m
  | .putDirty m => msgParts m
  | .putClean m => msgParts m
  | .redOp m => msgParts m
  | .ncRd m => msgParts m
  | .ncWr m => msgParts m
  | .fwdShared m => msgParts m
  | .fwdOwn m => msgParts m
  | .inval m => msgParts m
  | .close m => msgParts m
  | .ack m => msgParts m
  | .snpNoData m => msgParts m
  | .wbAck m => msgParts m
  | .wbAckStale m => msgParts m
  | .cmp m => msgParts m
  | .data m => msgParts m
  | .fwdData m => msgParts m
  | .wbData m => msgParts m
  | .waitQueueStart slice _ => [(.slice, slice)]
  | .waitQueueAdmit slice _ => [(.slice, slice)]
  | .l2Eviction core _ => [(.core, core)]
  | .l2MaintClean src core _ => srcParts src ++ [(.core, core)]
  | .l2MaintInval src core _ => srcParts src ++ [(.core, core)]
  | .l2MaintCleanInval src core _ => srcParts src ++ [(.core, core)]
  | .l3MaintClean src slice _ => srcParts src ++ [(.slice, slice)]
  | .l3MaintInval src slice _ => srcParts src ++ [(.slice, slice)]
  | .l3MaintCleanInval src slice _ => srcParts src ++ [(.slice, slice)]
  | .maintDone u => [(.unit, u)]
  | .penWaitResume slice _ => [(.slice, slice)]
  | .redDrain src slice => srcParts src ++ [(.slice, slice)]
  | .linkRetry l => [(.unit, l.unit)]
  | .wireSparing l _ => [(.unit, l.unit)]
  | .bankActivate chan _ _ _ => [(.channel, chan)]
  | .writeDrain chan _ => [(.channel, chan)]
  | .refreshSb chan _ _ => [(.channel, chan)]
  | .mr4Poll chan _ => [(.channel, chan)]
  | .retrainingPause chan _ _ => [(.channel, chan)]
  | .caParityAlert chan _ => [(.channel, chan)]
  | .patrolRead chan _ => [(.channel, chan)]
  | .rankRetirement chan _ _ => [(.channel, chan)]
  | .copyOperation chan _ => [(.channel, chan)]
  | .copyDone chan => [(.channel, chan)]
  | .force src chan _ => srcParts src ++ [(.channel, chan)]
  | .mcSpareCfgWrite src chan _ => srcParts src ++ [(.channel, chan)]
  | .frameReceive port mac _ _ => [(.ethPort, port), (.mac, mac)]
  | .heldFrameResume port _ => [(.ethPort, port)]
  | .xon port _ => [(.ethPort, port)]
  | .pauseFrameReceive port mac _ _ => [(.ethPort, port), (.mac, mac)]
  | .linkUp port mac => [(.ethPort, port), (.mac, mac)]
  | .linkDown port mac => [(.ethPort, port), (.mac, mac)]
  | .flowSet r => ringParts r
  | .flowDelete r => ringParts r
  | .rssSet r => ringParts r
  | .rxBuf r => ringParts r
  | .txFrame r => ringParts r
  | .txGather r => ringParts r
  | .txInline r => ringParts r
  | .qHartWrite src q _ => srcParts src ++ [(.queue, q)]
  | .queueEnable src r => srcParts src ++ ringParts r
  | .queueDisable src r => srcParts src ++ ringParts r
  | .quiesced r => ringParts r
  | .copy r => ringParts r
  | .fill r => ringParts r
  | .crc r => ringParts r
  | .compare r => ringParts r
  | .compress r => ringParts r
  | .compressResume r => ringParts r
  | .decompress r => ringParts r
  | .decompressResume r => ringParts r
  | .laneDispatch e => [(.engine, e)]
  | .containerBlockWrite r => ringParts r
  | .laneFault e lane _ => [(.engine, e), (.lane, lane)]
  | .droverInstruction d k => [(.cluster, d), (.droverCore, k)]
  | .droverApertureLoad d k _ => [(.cluster, d), (.droverCore, k)]
  | .droverApertureStore d k _ => [(.cluster, d), (.droverCore, k)]
  | .droverFill d k => [(.cluster, d), (.droverCore, k)]
  | .storeQueueDrain d k => [(.cluster, d), (.droverCore, k)]
  | .writeQueueSend d _ => [(.cluster, d)]
  | .molMulct d k _ _ => [(.cluster, d), (.droverCore, k)]
  | .molDivct d k _ _ => [(.cluster, d), (.droverCore, k)]
  | .molBswap d k _ => [(.cluster, d), (.droverCore, k)]
  | .molCsum d k _ => [(.cluster, d), (.droverCore, k)]
  | .molCsfold d k _ => [(.cluster, d), (.droverCore, k)]
  | .molCrc32cB d k _ => [(.cluster, d), (.droverCore, k)]
  | .molCrc32cW d k _ => [(.cluster, d), (.droverCore, k)]
  | .molExtr d k _ => [(.cluster, d), (.droverCore, k)]
  | .molDget d k _ => [(.cluster, d), (.droverCore, k)]
  | .molDwait d k _ => [(.cluster, d), (.droverCore, k)]
  | .molCmpl d k _ => [(.cluster, d), (.droverCore, k)]
  | .molDpf d k _ => [(.cluster, d), (.droverCore, k)]
  | .molDcClean d k _ => [(.cluster, d), (.droverCore, k)]
  | .molDcInval d k _ => [(.cluster, d), (.droverCore, k)]
  | .molDcFlush d k _ => [(.cluster, d), (.droverCore, k)]
  | .droverHalt d k _ => [(.cluster, d), (.droverCore, k)]
  | .droverRun src d k => srcParts src ++ [(.cluster, d), (.droverCore, k)]
  | .droverStop src d k => srcParts src ++ [(.cluster, d), (.droverCore, k)]
  | .droverClusterEnable src d => srcParts src ++ [(.cluster, d)]
  | .dvMaintClean src d _ => srcParts src ++ [(.cluster, d)]
  | .dvMaintInval src d _ => srcParts src ++ [(.cluster, d)]
  | .dvMaintCleanInval src d _ => srcParts src ++ [(.cluster, d)]
  | .unitPowerRequest src _ _ => srcParts src
  | .unitPowerDone u => [(.unit, u)]
  | .bwMigrate src _ => srcParts src
  | .bwWatchdogExpiry => []
  | .bwRestartDone => []
  | .bwHeartbeat => []
  | .avsPoll _ => []
  | .avsStatusAlert p => [(.rail, p)]
  | .inboundMemoryWrite t => [(.busPort, t.port), (.subLink, t.sub)]
  | .inboundMemoryRead t => [(.busPort, t.port), (.subLink, t.sub)]
  | .msiWrite t => [(.busPort, t.port), (.subLink, t.sub)]
  | .inboundCompletion port sub _ _ _ _ => [(.busPort, port), (.subLink, sub)]
  | .outboundRequest port m => (.busPort, port) :: msgParts m
  | .completionTimeout port sub _ => [(.busPort, port), (.subLink, sub)]
  | .tagQuarantineEnd port sub _ => [(.busPort, port), (.subLink, sub)]
  | .windowCommit src port _ => srcParts src ++ [(.busPort, port)]
  | .sublinkDown port sub => [(.busPort, port), (.subLink, sub)]
  | .endpointLinkReset => []
  | .linkEnable src port => srcParts src ++ [(.busPort, port)]
  | .retrain src port => srcParts src ++ [(.busPort, port)]
  | .l1Entry port sub _ => [(.busPort, port), (.subLink, sub)]
  | .l1Exit port sub => [(.busPort, port), (.subLink, sub)]
  | .cxlMemoryActive port _ => [(.busPort, port)]
  | .create src => srcParts src
  | .destroy src => srcParts src
  | .reset src => srcParts src
  | .freeze src => srcParts src
  | .frozen _ => []
  | .save src => srcParts src
  | .restore src => srcParts src
  | .unfreeze src => srcParts src
  | .dirtyStart src => srcParts src
  | .dirtySwap src => srcParts src
  | .dirtyStop src => srcParts src
  | .flr _ => []
  | .vfEnableClear => []
  | .instanceReset _ => []
  | .shearsStopCut _ => []
  | .instanceResetDone _ => []
  | .busMasterDisable _ => []
  | .busMasterEnable _ => []
  | .recordInvalidate src u i => srcParts src ++ [(.unit, u), (.record, i)]
  | .recordPrepare src u i _ _ => srcParts src ++ [(.unit, u), (.record, i)]
  | .recordInjection src u i _ => srcParts src ++ [(.unit, u), (.record, i)]
  | .injectionArm src _ => srcParts src
  | .injectionFire u _ => [(.unit, u)]
  | .residueReplay h => [(.hart, h)]
  | .hartMigration h => [(.hart, h)]
  | .migrationRestore h => [(.hart, h)]
  | .coreRetire c => [(.core, c)]
  | .hartStop h => [(.hart, h)]
  | .fatalError u _ => [(.unit, u)]
  | .fatalLogCopy => []
  | .counterWrite h _ _ => [(.hart, h)]
  | .counterOverflow h _ _ => [(.hart, h)]
  | .sample h _ => [(.hart, h)]
  | .sampleRecordDone h => [(.hart, h)]
  | .tsctlWrite h _ => [(.hart, h)]
  | .tsidxWrite h _ => [(.hart, h)]
  | .tallyStart src b => srcParts src ++ [(.bank, b)]
  | .tallyStop src b => srcParts src ++ [(.bank, b)]
  | .tallyWindowEnd b => [(.bank, b)]
  | .startAll src => srcParts src
  | .stopAll src => srcParts src
  | .coldBoot _ _ => []
  | .firmwareAuth => []
  | .memoryTraining _ => []
  | .hartRelease => []
  | .warmReset => []
  | .powerLoss => []
  | .droopStretch fold => [(.fold, fold)]
  | .stretchEnd fold => [(.fold, fold)]
  | .oppRequest src fold _ => srcParts src ++ [(.fold, fold)]
  | .oppChange fold => [(.fold, fold)]
  | .rampGrant core _ => [(.core, core)]
  | .announcedRampStart core => [(.core, core)]
  | .rampEnd core => [(.core, core)]
  | .loadcastDeassert p => [(.paddock, p)]
  | .thermalLoop _ => []
  | .hardwareClamp _ fold => [(.fold, fold)]
  | .clampEnd => []
  | .thermtrip _ => []
  | .corePowerUp core => [(.core, core)]
  | .standbyPowerUp => []
  | .sublinkUp port sub _ _ => [(.busPort, port), (.subLink, sub)]
  | .perst0NDeassert => []
  | .pauseQuantaExpiry port _ => [(.ethPort, port)]
  | .sensorsReachZero => []

/-- The device has every part that a command names (R2-R5). -/
def Chip.serves (c : Chip) (i : Instr) : Bool := (partsOf i).all fun e => decide (e.2 < c.parts e.1)

/-- The largest member: 192 harts and two Ethernet ports (R2, R3). -/
def Fuses.full (f : Fuses) : Bool := decide (f.member = 192) && decide (f.eth = 2)

/-- How many parts of a kind the largest member has. -/
def fullParts : Part → Nat
  | .hart => 192
  | .ethPort => 2
  | p => ({} : Chip).parts p

/-- A state from which no waiting command ends in a fault. -/
def State.Safe (s : State) : Prop := ∀ i ∈ s.pending, s.chip.serves i = true

/-! The terms that claims use. -/

/-- The state after n steps, when each of them answers a next state. -/
def stepsNext : Nat → State → Option State
  | 0, s => some s
  | n + 1, s => match step s with
    | .next t => stepsNext n t
    | _ => none

/-- Where the device has the parts that it names, the command answers a next state: the queue as it is, the device `c`. -/
def Runs (i : Instr) (s : State) (c : Chip) : Prop := s.chip.serves i = true → exec i s = .next { s with chip := c }

/-- Where the device has the parts that it names, the command answers a next state: the queue as it is, a device of which
`P` holds. -/
def RunsTo (i : Instr) (s : State) (P : Chip → Prop) : Prop :=
  s.chip.serves i = true → ∃ c, exec i s = .next { s with chip := c } ∧ P c

/-- The CSRs that instructions count in by themselves: mcycle, minstret, the programmable counters, their overflow bits
and the pending overflow interrupt (R444, R452). -/
def countCsr (n : Nat) : Bool :=
  (decide (0xB00 ≤ n) && decide (n ≤ 0xB0A)) || (decide (0x323 ≤ n) && decide (n ≤ 0x32A)) || decide (n = cMip)

/-- The device but for its harts and its count of free values. -/
def Chip.aside (c : Chip) : Chip := { c with harts := [], fresh := 0 }

/-- A hart but for its pc, its CSRs, the time of its last instruction and the occupancies that its counters saw last. -/
def Hart.body (h : Hart) : Hart := { h with pc := 0, csrs := [], lat := 0, occ := [] }

/-- From device `c` to device `c'`, hart `n` becomes `x` but for what it counts, and nothing else changes. -/
def OnlyHart (c c' : Chip) (n : Nat) (x : Hart) : Prop :=
  c'.aside = c.aside ∧ (∀ k, k ≠ n → c'.hart k = c.hart k) ∧ (c'.hart n).body = x.body ∧ (c'.hart n).pc = x.pc ∧
    ∀ k, countCsr k = false → (c'.hart n).csr k = x.csr k

/-- A source reaches the registers of a block now: the clocks run, the source sees the block, the member has it, and BAR0
answers (R48, R50, R379, R392, R494). -/
def Chip.opens (c : Chip) (src : Src) (u : Nat) : Bool :=
  c.pwr.clocks && c.seesBlock src u && c.present u && !c.barClosed src

/-- An offset of the register map of a block: aligned, and in no doorbell region, RAS bank, IOMMU page or memory window. -/
def Chip.mapped (c : Chip) (u off : Nat) : Bool :=
  decide (off % 4 = 0) && decide (0x1000 ≤ off) && (c.regionOff u off).isNone
    && !(decide (u = 0) && (decide (0x100000 ≤ off) || (decide (0x3000 ≤ off) && decide (off < 0x4000))))
    && (dvWindow u off).isNone

/-- A 32-bit write of a plain register that its block answers and that no check of R514 rejects. -/
def Chip.takes (c : Chip) (src : Src) (u off : Nat) (v : Word) : Bool :=
  c.opens src u && c.mapped u off &&
    match regAt (kindOf u) off with
    | some r => !r.readOnly && decide (r.role = .plain) && (c.regCheck src u off r v).isNone
    | none => false

/-- The instruction at a hart's pc is fetched with no exception (R42-R44, R103) and from no poisoned line (R431). -/
def Chip.fetches (c : Chip) (n : Nat) : Bool :=
  match c.translate n (c.hart n).pc.toNat .fetch with
  | .ok pa _ => (c.liveCore n).all fun k => !c.linePoison k pa
  | _ => false

/-- The hart executes instructions on a core: it holds no load back (R106), has performed none ahead of its program order (R107,
R113), no trigger fires on its pc (R81), and its fetch meets no exception. -/
def Chip.ready (c : Chip) (n : Nat) : Bool :=
  (c.liveCore n).isSome && (c.hart n).held.isNone && (c.hart n).early.isEmpty && !(c.hart n).trigFires .fetch (c.hart n).pc.toNat
    && c.fetches n

/-- Hart `n` takes an illegal-instruction exception; the command does not carry the bits of the instruction, which xtval
reports, and they are free (log 80). -/
def Chip.tookIllegal (c d : Chip) (n : Nat) : Prop :=
  ∃ t : DWord, d = ({ c with fresh := c.fresh + 1 } : Chip).modHart n fun x => x.enterTrap false 2 t

/-- A hart's record but for its pc, its CSRs, its counts and its reservation. -/
def Hart.same (h x : Hart) : Prop := h.body = { x with resv := h.resv }.body

/-- A home takes a request at once (R44, R159-R161): the line is memory, no other request for it waits or is served, its
ports are empty, and a tracker entry is free. No drain is in progress. -/
def Chip.homeFree (c : Chip) (i : Nat) (m : Msg) : Bool :=
  decide (m.dst = .home i) && c.isMemory (m.line * 64) && !(c.home i).blocked m.line
    && (Sparse.at (c.home i).waitq [] m.line).isEmpty && (c.home i).ports.isEmpty
    && decide ((c.home i).inPool 0 < 52) && (c.home i).drain.isEmpty

/-- The mesh of device `d` is that of `c` without the message `m` that arrived, and with the messages `l` sent now (R208). -/
def Chip.answers (c d : Chip) (m : Msg) (l : List Msg) : Prop :=
  d.mesh = ((c.arrive m).take m).mesh ++ l.map fun x => { x with birth := c.mt / 32 }

/-- The bank of a unit holds no valid record, and record 0 logs (R421, R438). -/
def Chip.bankClear (c : Chip) (u : Nat) : Bool :=
  ((List.range 4).all fun i => !(c.errRec u i).valid) && (c.errRec u 0).control.getLsbD 0

/-- Record i of a unit as a new error of class `cls` in a structure leaves it (R417, R420): its unit, owner and time, MIGRATED,
no multiple occurrence, and the unit's error summary set (R34). -/
def Chip.wrote (c d : Chip) (u i : Nat) (cls : ErrClass) (struct owner : Nat) (mig : Bool) : Prop :=
  let r := d.errRec u i
  r.valid = true ∧ r.cls = cls ∧ r.struct = struct ∧ fld r.info 15 0 = u ∧ fld r.suppl 15 0 = owner ∧ r.migrated = mig ∧
    r.status.getLsbD 6 = false ∧ r.time = c.mtime ∧ r.control = (c.errRec u i).control ∧
    (d.unit u).err = (c.unit u).err ||| summaryBit { cls := cls, struct := struct }

end Sys2Proof.Machine
end

