-- ==== Sys2Proof/Certificates/Slice0/Obligations.lean ====
section
/-! DEFINITION. The statements for the provers. Each docstring names the rules that the statement formalises; a clause that
rests on a choice of the model names its log entry. The terms `Runs`, `RunsTo`, `OnlyHart` and those of `Chip` are defined
in Sys2Proof/Safety.lean. -/

open Sys2Proof Sys2Proof.Machine

/-- R92, R144: an integer instruction writes its result in rd (x0 takes none) and moves the pc past itself; nothing else
of the device changes. The results are those of `aluResult` and `unResult`.

R126: each divide and remainder takes the values of the table for a zero divisor and for signed overflow, in 64 and in 32
bits, and so do the element operations of vdiv, vdivu, vrem and vremu at SEW; other quotients and remainders are those of
truncated division.

R126, R127: a divide never traps; it writes its result and takes the time of R127, in which a zero divisor and signed
overflow take 4 cc. -/
def Obligations.IntegerArithmeticNeverTraps : Prop :=
  (∀ (s : State) (n len rd rs1 rs2 : Nat) (imm : Int),
    let h := s.chip.hart n
    let fin (v : DWord) (c : Chip) : Prop := OnlyHart s.chip c n { h.setX rd v with pc := h.pc + BitVec.ofNat 64 len }
    s.chip.ready n = true →
    (∀ f, RunsTo (.instruction n (.alu f rd rs1 rs2) len) s (fin (aluResult f (h.getX rs1) (h.getX rs2)))) ∧
    (∀ f, RunsTo (.instruction n (.alui f rd rs1 imm) len) s (fin (aluResult f (h.getX rs1) (BitVec.ofInt 64 imm)))) ∧
    (∀ f, RunsTo (.instruction n (.un f rd rs1) len) s (fin (unResult f (h.getX rs1)))) ∧
    RunsTo (.instruction n (.lui rd imm) len) s (fin (BitVec.ofInt 64 (imm * 4096))) ∧
    RunsTo (.instruction n (.auipc rd imm) len) s (fin (h.pc + BitVec.ofInt 64 (imm * 4096)))) ∧
  (∀ (a b : DWord),
    (b = 0 → divResult .div a b = BitVec.allOnes 64 ∧ divResult .divu a b = BitVec.allOnes 64 ∧
      divResult .rem a b = a ∧ divResult .remu a b = a) ∧
    (b.setWidth 32 = 0#32 → divResult .divw a b = BitVec.allOnes 64 ∧ divResult .divuw a b = BitVec.allOnes 64 ∧
      divResult .remw a b = (a.setWidth 32).signExtend 64 ∧ divResult .remuw a b = (a.setWidth 32).signExtend 64) ∧
    divResult .div 0x8000000000000000 (BitVec.allOnes 64) = 0x8000000000000000 ∧
    divResult .rem 0x8000000000000000 (BitVec.allOnes 64) = 0 ∧
    (a.setWidth 32 = 0x80000000#32 → b.setWidth 32 = BitVec.allOnes 32 →
      divResult .divw a b = 0xFFFFFFFF80000000 ∧ divResult .remw a b = 0) ∧
    (b ≠ 0 → divResult .divu a b = a / b ∧ divResult .remu a b = a % b) ∧
    (b ≠ 0 → ¬ (a = 0x8000000000000000 ∧ b = BitVec.allOnes 64) →
      divResult .div a b = a.sdiv b ∧ divResult .rem a b = a.srem b) ∧
    ∀ w x d : Nat, w ∈ [8, 16, 32, 64] → x < 2 ^ w →
      vInt .div w x 0 d = some (2 ^ w - 1, false) ∧ vInt .divu w x 0 d = some (2 ^ w - 1, false) ∧
      vInt .rem w x 0 d = some (x, false) ∧ vInt .remu w x 0 d = some (x, false) ∧
      vInt .div w (2 ^ (w - 1)) (2 ^ w - 1) d = some (2 ^ (w - 1), false) ∧
      vInt .rem w (2 ^ (w - 1)) (2 ^ w - 1) d = some (0, false)) ∧
  (∀ (s : State) (n rd rs1 rs2 : Nat) (f : DivFn),
    let h := s.chip.hart n
    s.chip.ready n = true →
    RunsTo (.integerDivide n f rd rs1 rs2) s fun c =>
      OnlyHart s.chip c n { h.setX rd (divResult f (h.getX rs1) (h.getX rs2)) with pc := h.pc + 4 } ∧
      (c.hart n).lat = divLatency f (h.getX rs1) (h.getX rs2) ∧
      (h.getX rs2 = 0 → (c.hart n).lat = 4))

/-- R97, R100, R450: a jump and a taken branch move the pc to their target and a branch not taken moves it past itself;
JAL and JALR write the link in rd, and JALR clears bit 0 of its target. Nothing else changes but prediction state, the
record of the last control transfer (R99) and counts. -/
def Obligations.ControlTransfersMoveThePc : Prop :=
  ∀ (s : State) (n len rd rs1 rs2 : Nat) (off : Int),
    let h := s.chip.hart n
    let link := h.pc + BitVec.ofNat 64 len
    let fin (x : Hart) (k : CfKind) (c : Chip) : Prop := ∃ p : Pred, OnlyHart s.chip c n { x with pred := p, cf := some k }
    s.chip.ready n = true →
    RunsTo (.instruction n (.jal rd off) len) s (fin { h.setX rd link with pc := h.pc + BitVec.ofInt 64 off } .jal) ∧
    RunsTo (.instruction n (.jalr rd rs1 off) len) s
      (fin { h.setX rd link with pc := (h.getX rs1 + BitVec.ofInt 64 off) &&& ~~~1#64 } .jalr) ∧
    (∀ f, RunsTo (.instruction n (.branch f rs1 rs2 off) len) s
      (fin { h with pc := if brTaken f (h.getX rs1) (h.getX rs2) then h.pc + BitVec.ofInt 64 off else link }
        (.branch (brTaken f (h.getX rs1) (h.getX rs2)))))

/-- R130: the five modes round as IEEE 754-2019 says; rm selects one, or with 0b111 frm does; rm 0b101 and 0b110, and a
reserved value of frm where frm is used, are illegal in an instruction that rounds and in every vector FP instruction; frm
stores every 3-bit value. -/
def Obligations.RoundingModesFollowFrm : Prop :=
  (∀ (s : State) (n : Nat) (op : FpOp) (vop : VOp) (red : VRedOp) (v : BitVec 3),
    let h := s.chip.hart n
    let illegal (c : Chip) : Prop := s.chip.tookIllegal c n
    s.chip.ready n = true →
    (h.fsOn = true → fpRounds op.fn = true → (op.rm = 5#3 ∨ op.rm = 6#3 ∨ (op.rm = 7#3 ∧ 5 ≤ fld (h.csr cFrm) 2 0)) →
      RunsTo (.fpInstruction n op) s illegal) ∧
    (vIsFp vop = true → 5 ≤ fld (h.csr cFrm) 2 0 → RunsTo (.vectorInstruction n vop) s illegal) ∧
    (red.fn ∈ [VRedFn.fosum, .fusum, .fwosum, .fwusum, .fmin, .fmax] → 5 ≤ fld (h.csr cFrm) 2 0 →
      RunsTo (.vectorReduction n red) s illegal) ∧
    (h.fsOn = true → RunsTo (.frmWrite n v) s fun c =>
      OnlyHart s.chip c n { (h.setCsr cFrm (v.setWidth 64)).fsDirty with pc := h.pc + 4 } ∧ (c.hart n).rm 7#3 = rmOf v.toNat)) ∧
  (∀ (h : Hart), h.rm 0#3 = some .rne ∧ h.rm 1#3 = some .rtz ∧ h.rm 2#3 = some .rdn ∧ h.rm 3#3 = some .rup ∧
    h.rm 4#3 = some .rmm ∧ h.rm 7#3 = rmOf (fld (h.csr cFrm) 2 0)) ∧
  ∀ (neg : Bool) (r rem k : Nat), rem < 2 ^ k →
    let near (z : Nat) : Prop := 2 * (z * 2 ^ k) ≤ 2 * (r * 2 ^ k + rem) + 2 ^ k ∧ 2 * (r * 2 ^ k + rem) ≤ 2 * (z * 2 ^ k) + 2 ^ k
    near (roundUp .rne neg r rem k) ∧ (2 * rem = 2 ^ k → roundUp .rne neg r rem k % 2 = 0) ∧
    near (roundUp .rmm neg r rem k) ∧ (2 * rem = 2 ^ k → roundUp .rmm neg r rem k = r + 1) ∧
    roundUp .rtz neg r rem k = r ∧
    roundUp .rdn neg r rem k = (if neg && decide (rem ≠ 0) then r + 1 else r) ∧
    roundUp .rup neg r rem k = (if !neg && decide (rem ≠ 0) then r + 1 else r)

/-- R130, R131: an FP instruction that exists for its format, with FP state on and a rounding mode that is not reserved,
never traps: it writes its result, ORs its flags into fflags and moves on.

R131: a write of fflags replaces the accrued flags. With FS Off it is illegal (privileged ISA: log 6).

R142, R143: a legal vector instruction and a legal vector reduction run to their end with no trap: the element results
and the flags of R142 and R143, the pc past the instruction, and nothing else. -/
def Obligations.FpAndVectorArithmeticRetire : Prop :=
  (∀ (s : State) (n : Nat) (op : FpOp) (rm : Rm),
    let h := s.chip.hart n
    s.chip.ready n = true → h.fsOn = true → fpExists op = true → (if fpRounds op.fn then h.rm op.rm = some rm else rm = .rne) →
    RunsTo (.fpInstruction n op) s fun c =>
      match fpResult h op rm with
      | .f r fl => (c.hart n).getF op.rd = boxed op.fmt r ∧ (c.hart n).csr cFflags = h.csr cFflags ||| fl.setWidth 64 ∧
          OnlyHart s.chip c n { (h.accrue fl).setF op.rd (boxed op.fmt r) with pc := h.pc + 4 }
      | .x v fl => (c.hart n).getX op.rd = (if op.rd % 32 = 0 then 0 else v) ∧
          (c.hart n).csr cFflags = h.csr cFflags ||| fl.setWidth 64 ∧
          OnlyHart s.chip c n { (h.accrue fl).setX op.rd v with pc := h.pc + 4 }) ∧
  (∀ (s : State) (n : Nat) (v : BitVec 5),
    let h := s.chip.hart n
    s.chip.ready n = true →
    (h.fsOn = true → RunsTo (.fflagsWrite n v) s fun c =>
      OnlyHart s.chip c n { (h.setCsr cFflags (v.setWidth 64)).fsDirty with pc := h.pc + 4 }) ∧
    (h.fsOn = false → RunsTo (.fflagsWrite n v) s fun c => s.chip.tookIllegal c n)) ∧
  (∀ (s : State) (n : Nat) (op : VOp) (red : VRedOp) (h' : Hart),
    let h := s.chip.hart n
    s.chip.ready n = true → h.vl ≠ 0 →
    (h.vLegal op = true → (vIsFp op = true → h.fsOn = true) → ∀ rm, rmOf (h.csrFld cFrm 2 0) = some rm →
      h.vExec op rm = some h' →
      RunsTo (.vectorInstruction n op) s fun c => OnlyHart s.chip c n { h'.vsDirty with pc := h'.pc + 4 }) ∧
    (h.vsOn = true → h.vill = false → h.vstart = 0 → red.vs2 % max 1 (h.lmul8 / 8) = 0 → red.fn = .sum →
      RunsTo (.vectorReduction n red) s fun c =>
        OnlyHart s.chip c n { (h.setElem red.vd h.sew 0
            (((h.active red.masked).map fun i => h.elem red.vs2 h.sew i).foldl (fun a b => (a + b) % 2 ^ h.sew)
              (h.elem red.vs1 h.sew 0))).vsDirty with pc := h.pc + 4 }))

/-- R140 (the registers that give AVL and vstart are those of RISC-V: log 6): with vector state on, vsetvl sets vill and vl 0
when SEW > LMUL x 64 or a reserved vtype field is nonzero, else vl = min(AVL, LMUL x 256 / SEW); rd receives the new vl. The
vector unit has 32 registers of 256 bits. -/
def Obligations.VsetvlSetsVlAndVtype : Prop :=
  ∀ (s : State) (n rd avl : Nat) (src : AvlSrc) (t : DWord),
    let h := s.chip.hart n
    let sew := 8 * 2 ^ fld t 5 3
    let lmul : Rat := match fld t 2 0 with | 0 => 1 | 1 => 2 | 2 => 4 | 3 => 8 | 5 => 1 / 8 | 6 => 1 / 4 | 7 => 1 / 2 | _ => 0
    let reserved := fld t 62 8 ≠ 0 ∨ fld t 63 63 ≠ 0 ∨ 3 < fld t 5 3 ∨ fld t 2 0 = 4
    s.chip.ready n = true → h.vsOn = true →
    ((src = .imm avl ∧ avl < 32) ∨ (∃ r, src = .reg r ∧ r % 32 ≠ 0 ∧ avl = (h.getX r).toNat) ∨
      (∃ r, src = .reg r ∧ r % 32 = 0 ∧ rd % 32 ≠ 0 ∧ avl = 2 ^ 64 - 1) ∨ (∃ r, src = .reg r ∧ r % 32 = 0 ∧ rd % 32 = 0 ∧ avl = h.vl)) →
    RunsTo (.vsetvl n rd src t) s fun c =>
      let x := c.hart n
      x.pc = h.pc + 4 ∧ x.vstart = 0 ∧ (∀ k, k ≠ n → c.hart k = s.chip.hart k) ∧ c.aside = s.chip.aside ∧ x.v = h.v ∧ x.f = h.f ∧
      (∀ r, r % 32 ≠ rd % 32 → x.getX r = h.getX r) ∧ (∀ r, x.getV (r + 32) = x.getV r) ∧
      (reserved ∨ lmul * 64 < sew → x.vill = true ∧ x.vl = 0 ∧ x.getX rd = 0) ∧
      (¬ reserved → (sew : Rat) ≤ lmul * 64 →
        x.csr cVtype = t ∧ (x.vl : Rat) = min (avl : Rat) (lmul * 256 / sew) ∧ (rd % 32 ≠ 0 → x.getX rd = BitVec.ofNat 64 x.vl))

/-- R86: the first failing check of a reduction decides its exception and nothing is sent: rd or the pair's alignment,
then VS and vstart, are illegal instructions; then a misaligned address is a store address misalignment with the address
in xtval.

R86, R87: with every check of R86 passed, a Molenaide reduction retires with its operand in the store buffer: two
consecutive entries for a register pair, one for 16-bit elements, one without data for mol.rclose. VS, vl, vtype and the
registers stay. On a wrong path it leaves marked entries alone and does not retire (R101). The xtval of the exceptions
holds the instruction (R84; the privileged ISA, log 6). -/
def Obligations.ReductionsCheckAndEnterStoreBuffer : Prop :=
  (∀ (s : State) (n : Nat) (op : MolOp),
    let h := s.chip.hart n
    let va := h.addr op.rs1 0
    let trap (k : Nat) (v : DWord) : Chip := s.chip.modHart n fun x => x.enterTrap false k v
    let bad (fn ty : Nat) : Chip := trap 2 ((molWord fn ty op).setWidth 64)
    s.chip.ready n = true → op.wrong = false →
    (op.rd ≠ 0 ∨ op.vs2 % 2 = 1 ∨ h.vsOn = false ∨ h.vstart ≠ 0 →
      Runs (.molRadd n .d op) s (bad 0 0) ∧ Runs (.molRmin n .s op) s (bad 1 1) ∧ Runs (.molRmax n .l op) s (bad 2 4)) ∧
    (op.rd ≠ 0 ∨ op.vs2 ≠ 0 → Runs (.molRclose n op) s (bad 3 0)) ∧
    (op.rd = 0 → va % 64 ≠ 0 →
      (op.vs2 % 2 = 0 → h.vsOn = true → h.vstart = 0 → Runs (.molRadd n .s op) s (trap 6 (BitVec.ofNat 64 va))) ∧
      (op.vs2 = 0 → Runs (.molRclose n op) s (trap 6 (BitVec.ofNat 64 va)))) ∧
    (∀ ty, ty = .h ∨ ty = .bf → Runs (.molRmin n ty op) s (bad 1 (redTyCode ty)) ∧ Runs (.molRmax n ty op) s (bad 2 (redTyCode ty)))) ∧
  (∀ (s : State) (n : Nat) (op : MolOp) (pa : Nat),
    let h := s.chip.hart n
    let va := h.addr op.rs1 0
    let half (r : Nat) : List Byte := leBytes (h.getV r).toNat 32
    let ent (b : List Byte) (p : Bool) (m : RedMode) (k : RedKind) : SbEnt :=
      { kind := .red, pa := pa, bytes := b, pair := p, mode := m, red := k, wrong := op.wrong }
    let fin (l : List SbEnt) (c : Chip) : Prop :=
      OnlyHart s.chip c n { h with sb := h.sb ++ l, pc := if op.wrong then h.pc else h.pc + 4 }
    let two (m : RedMode) : List SbEnt := [ent (half op.vs2) true m .contrib, ent (half (op.vs2 + 1)) false m .contrib]
    s.chip.ready n = true → op.rd = 0 → va % 64 = 0 → s.chip.translate n va .store = .ok pa .pma →
    s.chip.region pa = .memory → h.sb.length ≤ 94 →
    (h.vsOn = true → h.vstart = 0 → op.vs2 % 2 = 0 →
      RunsTo (.molRadd n .d op) s (fin (two .f64Add)) ∧ RunsTo (.molRadd n .s op) s (fin (two .f32Add)) ∧
      RunsTo (.molRadd n .l op) s (fin (two .i64Add)) ∧ RunsTo (.molRmin n .d op) s (fin (two .f64Min)) ∧
      RunsTo (.molRmin n .s op) s (fin (two .f32Min)) ∧ RunsTo (.molRmin n .l op) s (fin (two .i64Min)) ∧
      RunsTo (.molRmax n .d op) s (fin (two .f64Max)) ∧ RunsTo (.molRmax n .s op) s (fin (two .f32Max)) ∧
      RunsTo (.molRmax n .l op) s (fin (two .i64Max))) ∧
    (h.vsOn = true → h.vstart = 0 →
      RunsTo (.molRadd n .h op) s (fin [ent (half op.vs2) false .f32Add .half]) ∧
      RunsTo (.molRadd n .bf op) s (fin [ent (half op.vs2) false .f32Add .bf16])) ∧
    (op.vs2 = 0 → RunsTo (.molRclose n op) s (fin [ent [] false .f64Add .close])))

/-- R96: a write of mol.bpctl or mol.restctl, MRET, SRET and a write of mstatus wait: while a store that is not on a wrong
path is in the store buffer they change nothing.

R88, R90, R91, R96, R98: in M-mode with an empty store buffer, a write of mol.bpctl stores DET and PFOFF, and one that
changes DET or writes 1 to FLUSH discards all prediction state; a write of mol.restctl stores DELAY and leaves LAST_REST.
What follows is refetched.

R446, R447, R454-R456: M-mode writes of counters, of the sampling control and of the sampling index: minstret takes
the written value, and the write's own instruction is not counted in it; mol.tsidx takes RD only and keeps WR. -/
def Obligations.CoreCsrWritesSerialise : Prop :=
  (∀ (s : State) (n : Nat) (v : DWord) (op : SerialOp),
    s.chip.ready n = true → (s.chip.hart n).sbEmpty = false →
    Runs (.molBpctlWrite n v) s s.chip ∧ Runs (.molRestctlWrite n v) s s.chip ∧ Runs (.bpctlFlush n) s s.chip ∧
    Runs (.serialisingInstruction n op) s s.chip ∧ Runs (.fenceI n) s s.chip ∧ Runs (.wfi n) s s.chip) ∧
  (∀ (s : State) (n : Nat) (v : DWord),
    let h := s.chip.hart n
    let moved (x : Hart) : Hart := { x with pc := h.pc + 4, refetch := true }
    s.chip.ready n = true → h.priv = .m → h.virt = false → h.sbEmpty = true →
    (v.getLsbD 2 = true ∨ fld v 0 0 ≠ h.csrFld 0x7C0 0 0 →
      RunsTo (.molBpctlWrite n v) s fun c => OnlyHart s.chip c n (moved { h.setCsr 0x7C0 (v &&& 3) with pred := {} })) ∧
    (v.getLsbD 2 = false → fld v 0 0 = h.csrFld 0x7C0 0 0 →
      RunsTo (.molBpctlWrite n v) s fun c => OnlyHart s.chip c n (moved (h.setCsr 0x7C0 (v &&& 3)))) ∧
    RunsTo (.bpctlFlush n) s (fun c => OnlyHart s.chip c n
      (moved { h.setCsr 0x7C0 (h.csr 0x7C0 &&& 3) with pred := {} })) ∧
    RunsTo (.molRestctlWrite n v) s fun c => OnlyHart s.chip c n
      (moved (h.setCsr 0x7C1 ((h.csr 0x7C1 &&& 0x10000) ||| (v &&& 0xFFFF))))) ∧
  (∀ (s : State) (n : Nat) (v : DWord),
    let h := s.chip.hart n
    s.chip.ready n = true → h.priv = .m → h.virt = false →
    RunsTo (.counterWrite n 0xB02 v) s (fun c => (c.hart n).csr 0xB02 = v ∧ (c.hart n).pc = h.pc + 4) ∧
    RunsTo (.counterWrite n 0x320 v) s (fun c => OnlyHart s.chip c n { h.setCsr 0x320 (v &&& 0x7FD) with pc := h.pc + 4 }) ∧
    RunsTo (.tsctlWrite n v) s (fun c =>
      OnlyHart s.chip c n { h.setCsr 0x5C0 (tsctlNext (h.csr 0x5C0) v) with pc := h.pc + 4 }) ∧
    ((fld (h.csr 0x5C2) 31 0 + 2 ^ 32 - fld v 63 32) % 2 ^ 32 ≤ 2 ^ fld (h.csr 0x5C0) 8 4 →
      RunsTo (.tsidxWrite n v) s fun c =>
        OnlyHart s.chip c n { h.setCsr 0x5C2 (setFld (h.csr 0x5C2) 63 32 (fld v 63 32)) with pc := h.pc + 4 }))

/-- R98, R111, R116 (registers of the privileged ISA: log 6): an exception that medeleg does not delegate, and any
exception in M-mode, is taken in M-mode: mepc holds the pc, mcause the code, mtval the value, MPP the privilege, MPIE the
MIE bit, MIE is 0, the pc is the base of mtvec; the reservation is lost and all prediction state is flushed.

R111, R118 (privileged ISA: log 6): an M-level interrupt that is pending and enabled is taken between instructions;
one that is not changes nothing, nor does one while a load is held or an uncached access, a cache-block operation or a
vector store is in its midst.

R80, R126 (causes of the privileged ISA: log 6): ECALL raises 11 from M-mode, 9 from HS-mode, 10 from VS-mode and 8
from U-mode and VU-mode; EBREAK raises 3 with the pc in xtval; an instruction of an extension that the hart does not
implement is illegal (R83).

R96, R98 (privileged ISA: log 6): MRET in M-mode with the store buffer empty returns to mepc in the mode of MPP and
MPV, with MIE from MPIE; SRET in M-mode returns to sepc in the mode of SPP. Prediction state is flushed and younger
instructions are refetched. -/
def Obligations.TrapsEnterAndReturn : Prop :=
  (∀ (s : State) (n k : Nat) (v : DWord),
    let h := s.chip.hart n
    h.live = true → k < 64 → (h.priv = .m ∨ h.csrFld 0x302 k k = 0) →
    RunsTo (.trapEntry n false k v) s fun c =>
      let x := c.hart n
      x.csr 0x341 = h.pc ∧ x.csr 0x342 = BitVec.ofNat 64 k ∧ x.csr 0x343 = v ∧
      x.csrFld 0x300 12 11 = h.priv.code ∧ x.csrFld 0x300 7 7 = h.csrFld 0x300 3 3 ∧ x.csrFld 0x300 3 3 = 0 ∧
      x.csrFld 0x300 39 39 = bit h.virt ∧ x.priv = .m ∧ x.virt = false ∧ x.pc = (h.csr 0x305 >>> 2) <<< 2 ∧
      x.resv = none ∧ x.pred = {} ∧ x.x = h.x ∧ x.f = h.f ∧ x.v = h.v ∧ x.sb = h.sb ∧
      c.aside = s.chip.aside ∧ ∀ j, j ≠ n → c.hart j = s.chip.hart j) ∧
  (∀ (s : State) (n k : Nat) (v : DWord),
    let h := s.chip.hart n
    h.live = true →
    (s.chip.intTakes n k = true → h.held = none → s.chip.midway n = false →
      Runs (.trapEntry n true k v) s (s.chip.modHart n fun x => x.enterTrap true k 0)) ∧
    (s.chip.intTakes n k = false ∨ h.held ≠ none ∨ s.chip.midway n = true → Runs (.trapEntry n true k v) s s.chip)) ∧
  (∀ (s : State) (n len : Nat),
    let h := s.chip.hart n
    let trap (k : Nat) (v : DWord) : Chip := s.chip.modHart n fun x => x.enterTrap false k v
    s.chip.ready n = true →
    Runs (.instruction n .ecall len) s
      (trap (match h.priv with | .m => 11 | .s => (if h.virt then 10 else 9) | .u => 8) 0) ∧
    Runs (.instruction n .ebreak len) s (trap 3 h.pc) ∧
    RunsTo (.instruction n .unimplemented len) s (fun c => s.chip.tookIllegal c n)) ∧
  (∀ (s : State) (n : Nat),
    let h := s.chip.hart n
    s.chip.ready n = true → h.sbEmpty = true → h.priv = .m → h.virt = false →
    RunsTo (.serialisingInstruction n .mret) s (fun c =>
      let x := c.hart n
      x.pc = (h.csr 0x341 >>> 1) <<< 1 ∧
      x.priv = (if h.csrFld 0x300 12 11 = 3 then .m else if h.csrFld 0x300 12 11 = 1 then .s else .u) ∧
      x.virt = (decide (h.csrFld 0x300 12 11 ≠ 3) && decide (h.csrFld 0x300 39 39 = 1)) ∧
      x.csrFld 0x300 3 3 = h.csrFld 0x300 7 7 ∧ x.csrFld 0x300 7 7 = 1 ∧ x.csrFld 0x300 12 11 = 0 ∧
      x.pred = {} ∧ x.refetch = true ∧ x.x = h.x ∧ x.f = h.f ∧ x.v = h.v ∧ c.aside = s.chip.aside) ∧
    RunsTo (.serialisingInstruction n .sret) s (fun c =>
      let x := c.hart n
      x.pc = (h.csr 0x141 >>> 1) <<< 1 ∧ x.priv = (if h.csrFld 0x300 8 8 = 1 then .s else .u) ∧
      x.csrFld 0x300 1 1 = h.csrFld 0x300 5 5 ∧ x.csrFld 0x300 8 8 = 0 ∧
      x.pred = {} ∧ x.refetch = true ∧ x.x = h.x ∧ c.aside = s.chip.aside))

/-- R105, R109, R123: a load within one line of memory that overlaps no older buffered store and finds its line in the
core's caches without poison loads its bytes into its x or f register and retires; nothing else of the hart changes but counts,
and a reservation whose line leaves the L1D; the line is then in the L1D, and every other core stays.

R105, R106: a load whose bytes come in part from a buffered store is held and does not retire; it performs once no
buffered store overlaps it. -/
def Obligations.LoadsReadCachesOrAreHeld : Prop :=
  (∀ (s : State) (n k pa : Nat) (op : LoadOp) (l : L2Line),
    let h := s.chip.hart n
    let va := h.addr op.rs1 op.imm
    let bs := ((lineBytes l.data).drop (pa % 64)).take op.size
    s.chip.ready n = true → s.chip.liveCore n = some k → (op.fp = true → h.fsOn = true) → op.wrong = false → op.early = none →
    0 < op.size → va % 64 + op.size ≤ 64 → s.chip.translate n va .load = .ok pa .pma → s.chip.region pa = .memory →
    h.overlap false [(pa, op.size)] = .none → (s.chip.core k).line (pa / 64) = some l → l.poison = false →
    RunsTo (.load n op) s fun c =>
      (c.hart n).same (if op.fp then h.setF op.rd (boxed (fmtOfSize op.size) (leNat bs)) else h.setX op.rd (loadValue bs op.signed)) ∧
      ((c.hart n).resv = h.resv ∨ (c.hart n).resv = none) ∧ (c.hart n).pc = h.pc + BitVec.ofNat 64 op.len ∧
      (∀ j, j ≠ n → j ≠ (s.chip.core k).hartId → c.hart j = s.chip.hart j) ∧ c.mem = s.chip.mem ∧ c.poison = s.chip.poison ∧
      c.mesh = s.chip.mesh ∧ c.homes = s.chip.homes ∧ c.ctl = s.chip.ctl ∧ (∀ j, j ≠ k → c.core j = s.chip.core j) ∧
      (c.core k).line (pa / 64) = some { l with l1d := true } ∧ ((c.core k).l1d.find (pa / 64)).isSome = true) ∧
  (∀ (s : State) (n k pa : Nat) (op : LoadOp),
    let h := s.chip.hart n
    let va := h.addr op.rs1 op.imm
    s.chip.liveCore n = some k → op.wrong = false → 0 < op.size → va % 64 + op.size ≤ 64 →
    s.chip.translate n va .load = .ok pa .pma → s.chip.region pa = .memory →
    (s.chip.ready n = true → (op.fp = true → h.fsOn = true) → op.early = none → h.overlap false [(pa, op.size)] = .held →
      RunsTo (.load n op) s fun c => OnlyHart s.chip c n { h with held := some (.scalar op va) }) ∧
    (h.held = some (.scalar op va) → h.overlap false [(pa, op.size)] ≠ .none → Runs (.heldLoadReplay n) s s.chip) ∧
    (∀ l, h.held = some (.scalar op va) → h.overlap false [(pa, op.size)] = .none →
      (s.chip.core k).line (pa / 64) = some l → l.poison = false → RunsTo (.heldLoadReplay n) s fun c =>
        let bs := ((lineBytes l.data).drop (pa % 64)).take op.size
        (c.hart n).held = none ∧ (c.hart n).pc = h.pc + BitVec.ofNat 64 op.len ∧ (c.hart n).lat = 8 + bit op.fp ∧
        (op.fp = false → op.rd % 32 ≠ 0 → (c.hart n).getX op.rd = loadValue bs op.signed) ∧
        (op.fp = true → (c.hart n).getF op.rd = boxed (fmtOfSize op.size) (leNat bs))))

/-- R104: a store to memory, translated and permitted, retires with its bytes, from an x or an f register, as the youngest entry
of the store buffer; memory and every cache keep their bytes until it commits. On a wrong path its entry is marked and it
does not retire (R101).

R104, R113: stores commit in program order: the oldest entry, its line in M or E and not on its way out as a PutDirty KEEP, is
written to the core's line, which becomes M and is in the L1D, and leaves the buffer; every other byte of the line stays,
and memory stays.

R104, R162: while the line of the oldest store is in S or O its core asks the home for ownership with Upgrade, and
while it is absent with RdOwn; the store stays at the head. -/
def Obligations.StoresCommitInOrder : Prop :=
  (∀ (s : State) (n pa : Nat) (op : StoreOp),
    let h := s.chip.hart n
    let va := h.addr op.rs1 op.imm
    s.chip.ready n = true → (op.fp = true → h.fsOn = true) → 0 < op.size → va % 64 + op.size ≤ 64 →
    s.chip.translate n va .store = .ok pa .pma → s.chip.region pa = .memory → h.sb.length < 96 →
    let e : SbEnt :=
      { kind := .scalar, pa := pa, bytes := leBytes (if op.fp then h.getF op.rs2 else h.getX op.rs2).toNat op.size, wrong := op.wrong }
    RunsTo (.store n op) s fun c => OnlyHart s.chip c n
      (if op.wrong then { h with sb := h.sb ++ [e] }
       else { h with sb := h.sb ++ [e], ioSt := false, pc := h.pc + BitVec.ofNat 64 op.len })) ∧
  (∀ (s : State) (n k : Nat) (e : SbEnt) (l : L2Line),
    let h := s.chip.hart n
    let line := e.pa / 64
    s.chip.coreOfHart n = some k → h.sb = [e] → e.wrong = false → e.kind = .scalar ∨ e.kind = .vector →
    (s.chip.core k).line line = some l → l.st = .m ∨ l.st = .e → (s.chip.core k).buffered line = none →
    RunsTo (.storeCommit n) s fun c =>
      (c.hart n).sb = [] ∧ (c.hart n).x = h.x ∧ (c.hart n).f = h.f ∧ (c.hart n).v = h.v ∧ (c.hart n).pc = h.pc ∧
      c.mem = s.chip.mem ∧ c.mesh = s.chip.mesh ∧ c.homes = s.chip.homes ∧
      (∀ j, j ≠ n → j ≠ (s.chip.core k).hartId → c.hart j = s.chip.hart j) ∧ (∀ j, j ≠ k → c.core j = s.chip.core j) ∧
      (c.core k).line line = some { l with
            st := .m, l1d := true, data := mergeLine l.data (lineOf e.bytes <<< (8 * (e.pa % 64))) (byteMask (e.pa % 64) e.bytes.length) }) ∧
  (∀ (s : State) (n k : Nat) (e : SbEnt),
    let h := s.chip.hart n
    let line := e.pa / 64
    let want (kd : MsgKind) : Msg :=
      { kind := kd, src := .core k, dst := .home (homeSlice line), line := line, clos := s.chip.coreClos k, birth := s.chip.mt / 32 }
    s.chip.coreOfHart n = some k → h.sb = [e] → e.wrong = false → e.kind = .scalar ∨ e.kind = .vector →
    (s.chip.core k).reqs.length < 48 → (s.chip.core k).pending line = none → (s.chip.core k).buffered line = none →
    (∀ l, (s.chip.core k).line line = some l → l.st = .s ∨ l.st = .o → RunsTo (.storeCommit n) s fun c =>
      c.mesh = s.chip.mesh ++ [want .upgrade] ∧ (c.hart n).sb = [e] ∧ c.mem = s.chip.mem) ∧
    ((s.chip.core k).line line = none → RunsTo (.storeCommit n) s fun c =>
      c.mesh = s.chip.mesh ++ [want .rdOwn] ∧ (c.hart n).sb = [e] ∧ c.mem = s.chip.mem))

/-- R115: an AMO, the oldest instruction with the store buffer empty and its line in M or E without poison, returns the old
value sign-extended, stores the operation's result in the line and moves on; memory itself stays.

R116: LR loads and reserves its line; an SC with the reservation writes its line and 0, one without it writes 1 and
stores nothing; either ends the reservation. -/
def Obligations.AtomicsUpdateOwnedLines : Prop :=
  (∀ (s : State) (n k pa rd rs1 rs2 size : Nat) (f : AmoFn) (l : L2Line),
    let h := s.chip.hart n
    let va := h.addr rs1 0
    let old := ((lineBytes l.data).drop (pa % 64)).take size
    s.chip.ready n = true → s.chip.liveCore n = some k → h.sbEmpty = true → size = 4 ∨ size = 8 → va % size = 0 →
    s.chip.translate n va .store = .ok pa .pma → s.chip.region pa = .memory → (s.chip.core k).buffered (pa / 64) = none →
    (s.chip.core k).line (pa / 64) = some l → l.st = .m ∨ l.st = .e → l.poison = false →
    RunsTo (.amo n f rd rs1 rs2 size) s fun c =>
      (c.hart n).same (h.setX rd (loadValue old true)) ∧ (c.hart n).pc = h.pc + 4 ∧ c.mem = s.chip.mem ∧
      (c.core k).line (pa / 64) = some { l with
        st := .m
        l1d := true
        data := mergeLine l.data
          (lineOf (leBytes (amoResult f (8 * size) (leNat old) ((h.getX rs2).toNat % 2 ^ (8 * size))) size) <<< (8 * (pa % 64)))
          (byteMask (pa % 64) (leBytes (amoResult f (8 * size) (leNat old) ((h.getX rs2).toNat % 2 ^ (8 * size))) size).length) }) ∧
  (∀ (s : State) (n k pa rd rs1 rs2 size : Nat) (l : L2Line),
    let h := s.chip.hart n
    let va := h.addr rs1 0
    s.chip.ready n = true → s.chip.liveCore n = some k → size = 4 ∨ size = 8 → va % size = 0 → s.chip.region pa = .memory →
    (s.chip.core k).line (pa / 64) = some l → (s.chip.core k).buffered (pa / 64) = none →
    (s.chip.translate n va .load = .ok pa .pma → h.overlap false [(pa, size)] = .none → l.poison = false →
      RunsTo (.lr n rd rs1 size) s fun c => (c.hart n).resv = some (pa / 64) ∧ (c.hart n).pc = h.pc + 4 ∧
        (rd % 32 ≠ 0 → (c.hart n).getX rd = loadValue (((lineBytes l.data).drop (pa % 64)).take size) true)) ∧
    (s.chip.translate n va .store = .ok pa .pma → h.sbEmpty = true → (s.chip.core k).heldSnp = [] →
      (h.resv ≠ some (pa / 64) → RunsTo (.sc n rd rs1 rs2 size) s fun c =>
        (c.hart n).body = { h.setX rd 1 with resv := none }.body ∧ (c.hart n).pc = h.pc + 4 ∧
        c.mem = s.chip.mem ∧ ∀ j, (c.core k).line j = (s.chip.core k).line j) ∧
      (h.resv = some (pa / 64) → l.st = .m ∨ l.st = .e → RunsTo (.sc n rd rs1 rs2 size) s fun c =>
        (c.hart n).body = { h.setX rd 0 with resv := none }.body ∧ (c.hart n).pc = h.pc + 4 ∧ c.mem = s.chip.mem ∧
        (c.core k).line (pa / 64) = some { l with
        st := .m
        l1d := true
        data := mergeLine l.data (lineOf (leBytes (h.getX rs2).toNat size) <<< (8 * (pa % 64))) (byteMask (pa % 64) size) })))

/-- R114, R96: a fence whose predecessor set holds W and whose successor set holds R waits for an empty store buffer, others
and FENCE.TSO do not; FENCE.I empties L1I and has the fetch restart; SFENCE.VMA in M-mode, with the store buffer empty and
both operands x0, empties the hart's translations of its own address spaces from the TLBs and the page-walk cache.

R103: a walk of the hart that finds its translation fills the TLB with it; one that ends without a translation fills
nothing, and on a wrong path a fault neither fills nor traps. -/
def Obligations.FencesAndPageWalks : Prop :=
  (∀ (s : State) (n k : Nat) (pred succ : BitVec 4),
    let h := s.chip.hart n
    let moved (x : Hart) (c : Chip) : Prop := OnlyHart s.chip c n { x with pc := h.pc + 4 }
    s.chip.ready n = true → s.chip.liveCore n = some k →
    (h.sbEmpty = false → pred.getLsbD 0 = true → succ.getLsbD 1 = true → Runs (.fence n pred succ false) s s.chip) ∧
    (h.sbEmpty = true ∨ pred.getLsbD 0 = false ∨ succ.getLsbD 1 = false → RunsTo (.fence n pred succ false) s (moved h)) ∧
    RunsTo (.fence n pred succ true) s (moved h) ∧
    (h.sbEmpty = true → RunsTo (.fenceI n) s fun c =>
      (c.hart n).refetch = true ∧ (c.hart n).pc = h.pc + 4 ∧ c.mem = s.chip.mem ∧ c.mesh = s.chip.mesh ∧
      (c.core k).l2 = (s.chip.core k).l2.map (fun e => (e.1, { e.2 with l1i := false })) ∧
      ∀ j, j ≠ k → c.core j = s.chip.core j) ∧
    (h.sbEmpty = true → h.priv = .m → h.virt = false → RunsTo (.sfenceVma n .sfenceVma 0 0) s
      (moved { h with itlb := h.itlb.filter (fun e => e.virt), dtlb := h.dtlb.filter (fun e => e.virt)
                      tlb := h.tlb.filter (fun e => e.virt), pwc := h.pwc.filter (fun e => e.virt || e.gst), refetch := true }))) ∧
  (∀ (s : State) (n : Nat) (w : Walk) (d : Chip),
    let ended (c : Chip) : Prop := (c.hart n).tlb = (d.hart n).tlb ∧ (c.hart n).walk = none ∧ (c.hart n).pc = (d.hart n).pc ∧
      (c.hart n).csrs = (d.hart n).csrs ∧ c.mem = d.mem
    (s.chip.hart n).live = true → (s.chip.hart n).walk = some w →
    (∀ e, s.chip.fullWalk n w.va w.acc w.wrong w.guest w.exec = (.fill e, d) →
      RunsTo (.pageWalk n) s fun c => ((c.hart n).tlbs w.acc).head? = some e ∧ (c.hart n).walk = none ∧
        (c.hart n).pc = (d.hart n).pc ∧ (∀ j, j ≠ n → c.hart j = d.hart j) ∧ c.mem = d.mem) ∧
    (s.chip.fullWalk n w.va w.acc w.wrong w.guest w.exec = (.quit, d) → RunsTo (.pageWalk n) s ended) ∧
    (∀ x g, s.chip.fullWalk n w.va w.acc w.wrong w.guest w.exec = (.trap x g, d) → w.wrong = true → RunsTo (.pageWalk n) s ended))

/-- R117, R173: in M-mode with the store buffer empty, a cache-block operation on memory sends the home one RdOnce with its
MAINT and holds the line of its block until the Cmp; then it retires. cbo.zero on a line held in M or E writes 64 zero
bytes and leaves it in M without poison; a line that the core lacks it asks for with a RdOwn that is marked as needing no
read of memory (the mark is the model's: log 80). -/
def Obligations.CacheBlockOperationsReachHome : Prop :=
  ∀ (s : State) (n k pa rs1 : Nat) (l : L2Line),
    let h := s.chip.hart n
    let va := h.addr rs1 0 / 64 * 64
    let line := pa / 64
    let msg (mt : Maint) : Msg :=
      { kind := .rdOnce, src := .core k, dst := .home (homeSlice line), line := line, maint := mt, clos := s.chip.coreClos k, birth := s.chip.mt / 32 }
    let sent (mt : Maint) (c : Chip) : Prop :=
      c.mesh = s.chip.mesh ++ [msg mt] ∧ (c.hart n).cbo = some line ∧ (c.hart n).pc = h.pc ∧ c.mem = s.chip.mem
    s.chip.ready n = true → s.chip.liveCore n = some k → h.sbEmpty = true → h.priv = .m → s.chip.region pa = .memory →
    (h.cbo = none → s.chip.translate n va .load = .ok pa .pma → (s.chip.core k).reqs.length < 48 →
      (s.chip.core k).pending line = none → (s.chip.core k).buffered line = none →
      RunsTo (.cboClean n rs1) s (sent .clean) ∧ RunsTo (.cboFlush n rs1) s (sent .flush) ∧
      RunsTo (.cboInval n rs1) s (sent .inval)) ∧
    (h.cbo = some line → (s.chip.core k).pending line = none →
      let fin (c : Chip) : Prop := OnlyHart s.chip c n { h with cbo := none, pc := h.pc + 4 }
      RunsTo (.cboClean n rs1) s fin ∧ RunsTo (.cboFlush n rs1) s fin ∧ RunsTo (.cboInval n rs1) s fin) ∧
    (s.chip.translate n va .store = .ok pa .pma → (s.chip.core k).buffered line = none →
      ((s.chip.core k).line line = some l → l.st = .m ∨ l.st = .e → RunsTo (.cboZero n rs1) s fun c =>
        (c.core k).line line = some { l with st := .m, data := 0, poison := false, l1d := true } ∧
        (c.hart n).pc = h.pc + 4 ∧ c.mem = s.chip.mem ∧ c.mesh = s.chip.mesh) ∧
      ((s.chip.core k).line line = none → (s.chip.core k).reqs.length < 48 → (s.chip.core k).pending line = none →
        RunsTo (.cboZero n rs1) s fun c =>
          c.mesh = s.chip.mesh ++ [{ msg .none with kind := .rdOwn, zero := true }] ∧ (c.hart n).pc = h.pc ∧ c.mem = s.chip.mem))

/-- R97, R99-R101, R107, R113, R116: a redirect to the hart's pc discards wrong-path stores and a wrong-path walk and no other entry,
and repairs history and return address stack; a prefetch asks the home for a line of memory that the core lacks and sends
nothing while DET or PFOFF is set; loads performed early of which one has lost its line are discarded, and nothing else; the
snoops held against a reservation are answered when it is released, and the reservation on their line is lost, while a hart
without held snoops releases none. -/
def Obligations.SpeculationLeavesNoArchitecturalTrace : Prop :=
  ∀ (s : State) (n k line : Nat) (t : DWord) (a : RedirAt),
    let h := s.chip.hart n
    s.chip.liveCore n = some k →
    (h.pc = t → h.csrFld 0x7C0 0 0 = 0 ∨ detRedirect a h.cf = true → RunsTo (.branchRedirect n a t) s fun c => OnlyHart s.chip c n
      { h with
        sb := h.sb.filter fun e => !e.wrong
        walk := match h.walk with | some w => if w.wrong then none else some w | none => none
        pred := match h.pred.saved with
          | some (hist, ras) => { h.pred with hist := hist, ras := ras, saved := none }
          | none => h.pred }) ∧
    (h.pc ≠ t ∨ (h.csrFld 0x7C0 0 0 = 1 ∧ detRedirect a h.cf = false) →
      RunsTo (.branchRedirect n a t) s fun c => OnlyHart s.chip c n h) ∧
    RunsTo (.sameAddressLoadRedo n line) s (fun c => OnlyHart s.chip c n
      (if h.early.any (fun e => e.lost && e.spans.any fun p => decide (p.1 / 64 = line)) then { h with early := [] } else h)) ∧
    (h.csrFld 0x7C0 1 0 ≠ 0 → Runs (.hardwarePrefetch n line) s s.chip) ∧
    (h.csrFld 0x7C0 1 0 = 0 → s.chip.region (line * 64) = .memory → (s.chip.core k).line line = none →
      (s.chip.core k).reqs.length < 48 → (s.chip.core k).pending line = none → (s.chip.core k).buffered line = none →
      RunsTo (.hardwarePrefetch n line) s fun c =>
        c.mesh = s.chip.mesh ++ [{ kind := .rdShared, src := .core k, dst := .home (homeSlice line), line := line, clos := s.chip.coreClos k, birth := s.chip.mt / 32 }] ∧
        (c.hart n).pc = h.pc ∧ (c.hart n).x = h.x ∧ c.mem = s.chip.mem) ∧
    ((s.chip.core h.core).heldSnp = [] → RunsTo (.reservationSnoopRelease n) s fun c =>
      c.mesh = s.chip.mesh ∧ c.harts = s.chip.harts ∧ c.mem = s.chip.mem ∧ ∀ j, c.core j = s.chip.core j) ∧
    (∀ m, h.core = k → (s.chip.core k).heldSnp = [m] → (s.chip.core k).hartValid = true → (s.chip.core k).hartId = n →
      (s.chip.core k).fills = [] → m.kind = .inval → m.rcl = false → m ∉ s.chip.mesh → h.resv = some m.line →
      RunsTo (.reservationSnoopRelease n) s fun c =>
        (c.core k).heldSnp = [] ∧ (c.hart n).resv = none ∧ (c.hart n).x = h.x ∧ (c.hart n).pc = h.pc ∧
        c.mesh = s.chip.mesh ++ [{ snpNo k m .i with birth := s.chip.mt / 32 }] ∧ c.homes = s.chip.homes ∧ c.mem = s.chip.mem)

/-- R118-R120, R487: WFI with an interrupt pending and locally enabled is a no-op; without one it stalls the hart with
LAST_REST 0, or with DELAY 0 enters Rest at once; Rest entry empties the L1s, TLBs, page-walk cache and predictors, loses
the reservation, sets LAST_REST and shows Rest, once no request of its L2 is outstanding (log 83); a wake event resumes the instruction after WFI; a debug halt request enters
debug mode. -/
def Obligations.WfiRestAndWake : Prop :=
  ∀ (s : State) (n k : Nat),
    let h := s.chip.hart n
    let rested (p : DWord) (c : Chip) : Prop :=
      (c.hart n).run = .rest ∧ (c.hart n).pc = p ∧ (c.hart n).resv = none ∧ (c.hart n).itlb = [] ∧ (c.hart n).dtlb = [] ∧
      (c.hart n).tlb = [] ∧ (c.hart n).pwc = [] ∧ (c.core k).l1i = {} ∧ (c.core k).l1d = {} ∧
      (c.hart n).pred = {} ∧ (c.hart n).csrFld 0x7C1 16 16 = 1 ∧ (c.core k).power = .rest ∧ (c.unit (uCore k)).cur = 1 ∧
      (c.core k).l2 = (s.chip.core k).l2.map (fun e => (e.1, { e.2 with l1i := false, l1d := false })) ∧ c.mem = s.chip.mem
    s.chip.coreOfHart n = some k → (s.chip.core k).reqs = [] →
    (s.chip.ready n = true → h.sbEmpty = true → h.priv = .m → h.virt = false →
      (s.chip.intPending n = true → RunsTo (.wfi n) s fun c => OnlyHart s.chip c n { h with pc := h.pc + 4, refetch := true }) ∧
      (s.chip.intPending n = false → h.csrFld 0x7C1 15 0 ≠ 0 → RunsTo (.wfi n) s fun c =>
        (c.hart n).run = .wfi ∧ (c.hart n).pc = h.pc + 4 ∧ (c.hart n).csrFld 0x7C1 16 16 = 0 ∧ c.cores = s.chip.cores) ∧
      (s.chip.intPending n = false → h.csrFld 0x7C1 15 0 = 0 → RunsTo (.wfi n) s (rested (h.pc + 4)))) ∧
    (h.run = .wfi → h.csrFld 0x7C1 15 0 ≠ 0xFFFF → RunsTo (.restEntry n) s (rested h.pc)) ∧
    (h.run = .wfi → h.csrFld 0x7C1 15 0 = 0xFFFF → Runs (.restEntry n) s s.chip) ∧
    (h.run = .wfi → s.chip.intPending n = true → RunsTo (.wakeEvent n false) s fun c =>
      (c.hart n).run = .running ∧ (c.hart n).pc = h.pc ∧ c.mem = s.chip.mem) ∧
    (h.run = .rest → s.chip.intPending n = true → RunsTo (.wakeEvent n false) s fun c =>
      (c.hart n).run = .waking false ∧ (c.core k).power = .waking ∧ (c.unit (uCore k)).busy = true ∧
      (c.core k).ramp = some .restWake ∧ (c.core k).rampAnn = true ∧ paddockOfCore k ∈ c.pwr.loadcast) ∧
    (h.run = .waking false → (s.chip.core k).fills = [] → RunsTo (.restWakeResume n) s fun c =>
      (c.hart n).run = .running ∧ (c.hart n).pc = h.pc ∧ (c.core k).power = .run ∧ (c.unit (uCore k)).cur = 0 ∧
      (c.unit (uCore k)).busy = false) ∧
    (h.live = true → h.held = none → s.chip.midway n = false → RunsTo (.debugHalt n) s fun c =>
      (c.hart n).run = .debug ∧ (c.hart n).csr 0x7B1 = h.pc ∧ (c.hart n).pred = {} ∧ (c.hart n).x = h.x ∧
      c.aside = s.chip.aside)

/-- R104, R108, R141: a legal vector store of nonzero vl, whose active elements all translate to memory, enters the store
buffer as 32-byte entries and retires with vstart 0; with vl 0 it retires alone, and so does a load. A legal vector load
that no older store overlaps, and whose lines the core holds, writes its elements and retires; one that an older store overlaps
is held whole. -/
def Obligations.VectorMemoryAccesses : Prop :=
  ∀ (s : State) (n k : Nat) (op : VMemOp) (l : List (Nat × List (Nat × Nat))),
    let h := s.chip.hart n
    let w := VMemOp.dataBytes h op
    let es := joinEntries (l.flatMap fun e => vecEntries .vector e.2 (leBytes (h.elem op.v (8 * w) e.1) w))
    s.chip.ready n = true → s.chip.liveCore n = some k → op.wrong = false → h.vst = 0 → h.vmemLegal op = true →
    (h.vl = 0 → RunsTo (.vectorStore n op) s (fun c => OnlyHart s.chip c n { h.setCsr cVstart 0 with pc := h.pc + 4 }) ∧
      RunsTo (.vectorLoad n op) s (fun c => OnlyHart s.chip c n { h.setCsr cVstart 0 with pc := h.pc + 4 })) ∧
    (h.vl ≠ 0 → s.chip.vmemSpans n op .store (h.active op.masked) = (l, none) → h.sb.length + es.length ≤ 96 →
      RunsTo (.vectorStore n op) s fun c => OnlyHart s.chip c n
        { ({ h with sb := h.sb ++ es }.setCsr cVstart 0).vsDirty with pc := h.pc + 4 }) ∧
    (h.vl ≠ 0 → s.chip.vmemSpans n op .load (h.active op.masked) = (l, none) →
      (∃ e ∈ l, ∃ a ∈ spanAddrs e.2, (h.storeOf false a).isSome = true) →
      RunsTo (.vectorLoad n op) s fun c => OnlyHart s.chip c n { h with held := some (.vector op) }) ∧
    (∀ vals d, h.vl ≠ 0 → s.chip.vmemSpans n op .load (h.active op.masked) = (l, none) →
      (∀ e ∈ l, ∀ a ∈ spanAddrs e.2, (h.storeOf false a).isSome = false) → s.chip.vmemRead k n l = (vals, none, d) →
      RunsTo (.vectorLoad n op) s fun c =>
        (c.hart n).v = (vals.foldl (fun (x : Hart) e => x.setElem op.v (8 * w) e.1 (leNat e.2)) (d.hart n)).v ∧
        (c.hart n).csr cVstart = 0 ∧ (c.hart n).pc = (d.hart n).pc + 4 ∧ (c.hart n).held = none ∧ c.mem = d.mem)

/-- R49, R50, R102: an aligned access of a hart to control space that PMP permits performs when its instruction is the oldest
and then retires, a rejection of the target included; a load returns the value read in its x or f register. A misaligned one,
or one wider than 64 bits, is an access error: a precise access-fault exception on the instruction with its address in xtval. -/
def Obligations.ControlAccessRetiresOrFaults : Prop :=
  ∀ (s : State) (n : Nat) (op : IoOp) (a : CtlAddr),
    let h := s.chip.hart n
    s.chip.ready n = true → op.addr = .ctl a → (op.fp = true → h.fsOn = true) → s.chip.ioPmp n op = true →
    (accessError op.size (ctlOff a) = false → op.write = true →
      let d := s.chip.controlWrite (.hart n) a op.size (if op.fp then h.getF op.reg else h.getX op.reg)
      RunsTo (.ioAccess n op) s fun c =>
        (c.hart n).pc = (d.hart n).pc + BitVec.ofNat 64 op.len ∧ (c.hart n).x = (d.hart n).x ∧ c.ctl = d.ctl ∧ c.mem = d.mem ∧
        c.units = d.units) ∧
    (accessError op.size (ctlOff a) = false → op.write = false →
      let r := s.chip.controlRead (.hart n) a op.size
      RunsTo (.ioAccess n op) s fun c =>
        (c.hart n).pc = (r.2.hart n).pc + BitVec.ofNat 64 op.len ∧ c.ctl = r.2.ctl ∧ c.mem = r.2.mem ∧
        (op.fp = false → op.reg % 32 ≠ 0 → (c.hart n).getX op.reg = loadValue (leBytes r.1.toNat op.size) op.signed) ∧
        (op.fp = true → (c.hart n).getF op.reg = boxed (fmtOfSize op.size) (r.1.toNat % 2 ^ (8 * op.size)))) ∧
    (accessError op.size (ctlOff a) = true →
      RunsTo (.ioAccess n op) s fun c =>
        (c.hart n).x = h.x ∧ c.mem = s.chip.mem ∧
        (h.priv = .m → (c.hart n).csr 0x341 = h.pc ∧ (c.hart n).csr 0x342 = (if op.write then 7 else 5) ∧
          (c.hart n).csr 0x343 = BitVec.ofNat 64 op.va))

/-- R50, R52, R53, R58, R514: a write of a plain register that its block answers is rejected by the first check that fails,
which changes LAST_ERR of the block and nothing else; otherwise the register takes the value that its access codes make of
the written one. A package register without an effect of its own takes that value alone; a write of an alias word is the
write of the whole register with only that bit changed.

R52: an accepted value is stored field by field: RW takes the written bits, W1S sets where a 1 is written, W1C clears
where a 1 is written, and every other field keeps its bits. -/
def Obligations.RegisterWritesAreCheckedThenMerged : Prop :=
  (∀ (s : State) (src : Src) (u off : Nat) (v : Word) (r : RegDef),
    let c := s.chip
    s.chip.opens src u = true → regAt (kindOf u) off = some r → r.role = .plain →
    (∀ e, c.mapped u off = true → r.readOnly = false → c.regCheck src u off r v = some e →
      Runs (.registerWrite src (.block u off) 4 (v.setWidth 64)) s (c.recordErr u e (ctlOffset u off))) ∧
    (c.mapped u off = true → r.readOnly = false → c.regCheck src u off r v = none → u = 0 → 0x1040 ≤ off →
      off ≠ 0x2400 → off < 0x5000 →
      RunsTo (.registerWrite src (.block u off) 4 (v.setWidth 64)) s fun d =>
        d.reg 0 0 off = r.merge (c.reg 0 0 off) v ∧
        (∀ k, k ≠ regKey 0 0 off → Sparse.find d.ctl.regs k = Sparse.find c.ctl.regs k) ∧ { d with ctl := c.ctl } = c) ∧
    (∀ (al : Nat) (f : Fld) (b : Nat), al < 0x1000 → al % 4 = 0 → aliasOf al = (off, b) → c.regionOff u al = none →
      r.fieldOf b = some f → (f.acc = .rw ∨ f.acc = .w1s ∨ f.acc = .w1c ∨ f.acc = .wo) →
      let w := setFld (c.view src u off &&& r.bits fun g => decide (g.acc = .rw)) b b (fld v 0 0)
      c.regCheck src u off r w = none →
      Runs (.bitAliasWrite src u al v) s
        (((c.regStore src u off r w).regEffect src u off w (c.view src u off)).withFuse c.fuse))) ∧
  (∀ (r : RegDef) (old v : Word) (f : Fld) (i : Nat),
    (r.fields.Pairwise fun a b => a.hi < b.lo ∨ b.hi < a.lo) → (∀ g ∈ r.fields, g.lo ≤ g.hi ∧ g.hi < 32) →
    f ∈ r.fields → f.lo ≤ i → i ≤ f.hi →
    (r.merge old v).getLsbD i =
      match f.acc with
      | .rw => v.getLsbD i
      | .w1s => old.getLsbD i || v.getLsbD i
      | .w1c => old.getLsbD i && !v.getLsbD i
      | _ => old.getLsbD i)

/-- R59-R61, R515: a write of X leaves a pending value and the register as it was; the write of X_CPL with the complement
commits it, and so does X_HI_CPL for an armed 64-bit value; a write of X_LO_CPL with the complement arms the low half; a
write of X_CPL that is no complement is rejected with PAIR_MISMATCH, drops the pending value and commits nothing. The sets of
R231 and the boot entry of R498 commit in the same way. -/
def Obligations.ComplementPairsCommitOnlyTogether : Prop :=
  ∀ (s : State) (src : Src) (u off : Nat) (v : Word) (r : RegDef),
    let c := s.chip
    let bank := c.bankOf u off
    c.opens src u = true → c.mapped u off = true → regAt (kindOf u) off = some r →
    ¬ (src = .pf1 ∧ c.pf1Absent u off v 0 = true) →
    (r.role = .x ∨ r.role = .lo ∨ r.role = .hi → c.lockedFor src u off r = false →
      RunsTo (.complementPairStore src (.block u off) v) s fun d =>
        d.pending u bank off = some v ∧ d.ctl.regs = c.ctl.regs ∧ { d with ctl := c.ctl } = c) ∧
    (r.role = .loCpl → c.lockedFor src u off r = false → c.pending u bank (off - 4) = some (~~~ v) →
      RunsTo (.complementPairArm src (.block u off) v) s fun d =>
        d.pending u bank (off - 4) = none ∧ Sparse.find d.ctl.armed (regKey u bank (off - 4)) = some (~~~ v) ∧
        d.ctl.regs = c.ctl.regs ∧ { d with ctl := c.ctl } = c) ∧
    (r.role = .xCpl → (c.pairCommit src u bank off r v).1 = none →
      RunsTo (.complementPairCommit src (.block u off) v) s fun d =>
        d.pending u bank (off - 4) = none ∧ d.reg u bank (off - 4) = ~~~ v) ∧
    (r.role = .hiCpl → (c.pairCommit src u bank off r v).1 = none → 12 ≤ off →
      RunsTo (.complementPairCommit src (.block u off) v) s fun d =>
        some (d.reg u bank (off - 12)) = Sparse.find c.ctl.armed (regKey u bank (off - 12)) ∧
        d.reg u bank (off - 4) = ~~~ v) ∧
    (∀ q, r.role = .xCpl → c.pending u bank (off - 4) = some q → q ≠ ~~~ v → c.lockedFor src u off r = false →
      c.pairLocked u (off - 4) q = false →
      Runs (.complementPairCommit src (.block u off) v) s
        ((c.dropPending u bank (off - 4)).recordErr u errPairMismatch (ctlOffset u off))) ∧
    (∀ (n : Nat) (m : MsetReg), u = 0 → off = msetOff n (msetReg m + 4) → (c.pairCommit src 0 bank off r v).1 = none →
      RunsTo (.interleaveSetCommit src n m v) s fun d =>
        d.pending 0 0 (msetOff n (msetReg m)) = none ∧ d.reg 0 0 (msetOff n (msetReg m)) = ~~~ v) ∧
    (u = 0 → off = 0x609C → (c.pairCommit src 0 bank off r v).1 = none →
      RunsTo (.bootEntryCommit src v) s fun d =>
        some (d.reg 0 0 0x6090) = Sparse.find c.ctl.armed (regKey 0 0 0x6090) ∧ d.reg 0 0 0x6098 = ~~~ v)

/-- R55, R56, R66, R67, R233: MSET_LOCK locks the sets and drops every pending and armed half of them; BLK_LOCK sets LOCK;
a write of 1 to LAST_ERR.CLEAR empties LAST_ERR; MBOX_SEL starts a snapshot, and its completion sets VALID, clears PEND and
increments SEQ. -/
def Obligations.LocksErrorsAndMailboxes : Prop :=
  ∀ (s : State) (src : Src) (u sel : Nat),
    let c := s.chip
    (c.takes src 0 0x2400 1 = true →
      RunsTo (.msetLock src) s fun d => d.regFld 0 0 0x2400 0 0 = 1 ∧
        ∀ off, 0x2000 ≤ off → off < 0x2400 →
          d.pending 0 0 off = none ∧ Sparse.find d.ctl.armed (regKey 0 0 off) = none) ∧
    (c.takes src u 0x1018 1 = true → RunsTo (.blkLock src u) s fun d => d.regFld u 0 0x1018 0 0 = 1) ∧
    (c.takes src u 0x100C 0x10000 = true →
      Runs (.lastErrClear src u) s { c with ctl := { c.ctl with last := Sparse.del c.ctl.last u } }) ∧
    (sel < 2 ^ 24 → c.takes src u 0x1020 (BitVec.ofNat 32 sel) = true →
      RunsTo (.mboxSel src u sel) s fun d =>
        d.mbox u = { c.mbox u with sel := sel, valid := false, pend := true } ∧ (d.mbox u).seq = (c.mbox u).seq) ∧
    ((c.mbox u).pend = true →
      RunsTo (.snapshotComplete u) s fun d =>
        (d.mbox u).valid = true ∧ (d.mbox u).pend = false ∧ (d.mbox u).seq = ((c.mbox u).seq + 1) % 256 ∧
        (∀ x, c.boxItem u (c.mbox u).sel = some x → (d.mbox u).data = x) ∧
        d.ctl.regs = c.ctl.regs ∧ { d with ctl := c.ctl, fresh := c.fresh } = c)

/-- R48, R52, R63, R34, R41: a 32-bit read answers the register as it reads and clears its RC fields; a parity mismatch marks the
register's value, puts the block that holds it in Held and sets REGFAULT in its unit (the package for a register of the
instance-management block, log 41); an error of a leaf shows in every ancestor's summary. -/
def Obligations.ReadsFaultsAndSummaries : Prop :=
  ∀ (s : State) (src : Src) (u off bank : Nat) (r : RegDef),
    let c := s.chip
    (c.opens src u = true → c.mapped u off = true → regAt (kindOf u) off = some r → r.role = .plain →
      ¬ (u = 0 ∧ 0x100000 ≤ off) →
      RunsTo (.readClear src (.block u off) 4) s fun d =>
        d.lastRead = (c.view src u off).setWidth 64 ∧
        (r.bits (fun f => decide (f.acc = .rc)) = 0 → { d with lastRead := c.lastRead } = c) ∧
        (r.bits (fun f => decide (f.acc = .rc)) ≠ 0 →
          d.reg u (c.bankOf u off) off = c.view src u off &&& ~~~ (r.bits fun f => decide (f.acc = .rc)))) ∧
    (∀ v b x, parityAt u bank off = some (v, b, x) → c.present u = true → c.pwr.clocks = true → c.faulty v b x = false →
      b < 2 ^ 20 → x < 2 ^ 28 →
      let g := if v = uIm then 0 else v
      RunsTo (.registerParityFault u bank off) s fun d =>
        d.faulty v b x = true ∧ d.held v = true ∧ (d.unit g).err.getLsbD 4 = true ∧ (∀ k, k ≠ g → d.unit k = c.unit k)) ∧
    (u ≤ 512 → isGroup u = false →
      RunsTo (.summaryPropagate u) s fun d =>
        { d with sums := c.sums } = c ∧
        ∀ g ∈ ancestorsOf u, ∀ i, (c.unit u).err.getLsbD i = true → (Sparse.at d.sums {} g).err.getLsbD i = true)

/-- R75-R77, R304, R397: a 64-bit doorbell whose halves are complements moves ACC of an enabled ring to its index when the
ring can hold so many descriptors; a head doorbell moves HEAD to an index that WI has reached; through a doorbell page as
through a region. Halves that are no complements, a region word of no ring, or another width move nothing and are counted (the
offset that LAST_ERR gives for a page is the model's: log 90). -/
def Obligations.DoorbellsMoveRingIndexes : Prop :=
  ∀ (s : State) (src : Src) (u off iid pi : Nat) (r : RingId),
    let c := s.chip
    let x := c.ring r
    let adm := if src = .pf1 then 1 else 0
    let data := BitVec.ofNat 64 (pi + 2 ^ 32 * (2 ^ 32 - 1 - pi))
    let fits := pi ≠ x.acc ∧ sub32 pi x.acc ≤ c.ringSize r ∧ sub32 pi x.ci ≤ c.ringSize r
    let reached := (c.inst (c.ringOwner r)).st ≠ .absent ∧ (c.inst (c.ringOwner r)).st ≠ .resetting ∧ x.en = true ∧
      pi ≠ x.head ∧ sub32 pi x.head ≤ sub32 x.wi x.head
    let region := c.opens src u = true ∧ off < dbSize u ∧ off % 8 = 0 ∧ c.dbBase u % 8 = 0 ∧ c.faulty u 0 0x1044 = false
    let page := c.pwr.clocks = true ∧ (c.inst iid).st ≠ .absent ∧ off < 4096
    pi < 2 ^ 32 →
    (region → regionRing u off adm = some (r, false) → c.reaches src (c.ringOwner r) = true → c.ringHears r = true → fits →
      Runs (.doorbell src (.region u off) 8 data) s (c.modRing r fun y => { y with acc := pi })) ∧
    (page → off % 16 = 0 → (c.inst iid).slot iid (off / 16) = some r → c.ringHears r = true → fits →
      Runs (.doorbell src (.page iid off) 8 data) s (c.modRing r fun y => { y with acc := pi })) ∧
    (region → regionRing u off adm = some (r, true) → c.reaches src (c.ringOwner r) = true → reached →
      Runs (.completionHeadDoorbell src (.region u off) 8 data) s (c.modRing r fun y => { y with head := pi })) ∧
    (page → off % 16 = 8 → (c.inst iid).slot iid (off / 16) = some r → reached →
      Runs (.completionHeadDoorbell src (.page iid off) 8 data) s (c.modRing r fun y => { y with head := pi })) ∧
    (∀ width, page → width ≠ 8 → (c.inst iid).slot iid (off / 16) = some r →
      Runs (.doorbell src (.page iid off) width data) s
        ((c.countReg (ringUnit r) 0 0x1014).recordErr (ringUnit r) errBadWidth (BitVec.ofNat 32 off))) ∧
    (∀ d : DWord, region → regionRing u off adm = some (r, false) → fld d 63 32 ≠ 2 ^ 32 - 1 - fld d 31 0 →
      Runs (.doorbell src (.region u off) 8 d) s (c.countReg u 0 0x1014)) ∧
    (∀ d : DWord, region → regionRing u off adm = none →
      Runs (.doorbellRegionBadOffset src (.region u off) 8 d) s
        ((c.countReg u 0 0x1014).recordErr u errBadOffset (ctlOffset u (c.dbBase u + off))))

/-- R73, R78, R79: the descriptor at CI is fetched and CI moves past it; one whose index field is wrong, or that reads
poisoned, completes with its status; an accepted one of Shears waits in order. A finished descriptor leaves its ring with a
record at WI, or, when it is OK and neither CMPL nor IRQ is set, without one. -/
def Obligations.RingsFetchAndComplete : Prop :=
  ∀ (s : State) (r : RingId) (bs : List Byte) (c1 c2 : Chip) (d : Desc) (st : Nat),
    let c := s.chip
    let x := c.ring r
    let slot := c.ringBase r + 32 * (x.ci % c.ringSize r)
    let fetched (e : Chip) (y : Desc) : Chip :=
      (e.modRing r fun x => { x with ci := (x.ci + 1) % 2 ^ 32, descs := x.descs ++ [y] }).withFuse c.fuse
    let good := bsNat bs 4 2 = x.ci % 65536 ∧ bsNat bs 6 2 = 65535 - x.ci % 65536
    let plain : Desc :=
      { idx := x.ci, bytes := bs, cmpl := bsNat bs 0 2 / 256 % 4 ≠ 0, irq := bsNat bs 0 2 / 512 % 2 = 1, slots := 1 }
    let popped := (c.modRing r fun x => { x with descs := [] }).countDone r st
    c.recordFaulted r = false →
    (c.mayFetch r = true → c.instRead (c.ringOwner r) slot 32 = (.ok bs true, c1) →
      Runs (.descriptorFetch r) s (fetched c1 { idx := x.ci, bytes := bs, fin := some 0x0A })) ∧
    (c.mayFetch r = true → c.instRead (c.ringOwner r) slot 32 = (.ok bs false, c1) → ¬ good →
      Runs (.descriptorFetch r) s (fetched c1 { idx := x.ci, bytes := bs, fin := some 0x01 })) ∧
    (c.mayFetch r = true → c.instRead (c.ringOwner r) slot 32 = (.ok bs false, c1) → good → (∃ e n, r = .sh e n) →
      1 ≤ plain.opcode → plain.opcode ≤ 4 → 1 ≤ sub32 x.acc x.ci → shFields { plain with bytes := bs ++ [] } = none →
      c1.addrsOk (c.ringOwner r) (descAddrs r { plain with bytes := bs ++ [] }) = (true, c2) →
      Runs (.descriptorFetch r) s (fetched c2 { plain with bytes := bs ++ [] })) ∧
    ((c.inst (c.ringOwner r)).st = .active → x.held = [] → x.descs = [d] → d.fin = some 0 → d.cmpl = false →
      Runs (.completionRecordWrite r) s ((c.modRing r fun x => { x with descs := [] }).countDone r 0)) ∧
    ((c.inst (c.ringOwner r)).st = .active → x.held = [] → x.descs = [d] → d.fin = some st → (st ≠ 0 ∨ d.cmpl = true) →
      d.irq = false → x.failed = false → c.cringFull r = false → c1.rings = popped.rings →
      popped.instWrite (c.ringOwner r) (popped.cringBase r + 16 * (x.wi % popped.cringSize r))
        (recordBytes x.wi (popped.cringSize r) (d.record st)) = (true, c1) →
      RunsTo (.completionRecordWrite r) s fun e =>
        e.ring r = { x with descs := [], wi := (x.wi + 1) % 2 ^ 32 } ∧ e.mem = c1.mem)

/-- R382, R374, R375: an event on a vector sends the entry's message when no mask holds it back, and sets its PBA bit otherwise;
clearing the masks of a pending vector sends one message and clears the bit. A message upstream waits while the link of PX0 is
down or in L1. -/
def Obligations.MsixSendsOrPends : Prop :=
  ∀ (s : State) (iid v f : Nat),
    let c := s.chip
    let x := c.func f
    let e : MsixEnt := Sparse.at x.table {} v
    let open_ := x.msixEn = true ∧ x.fmask = false ∧ e.mask = false
    let awake := (Sparse.at (c.px 0).subs {} 0 : Sub).up = true ∧ (Sparse.at (c.px 0).subs {} 0 : Sub).l1 = 0
    let sent (rid : Nat) : TlpOut :=
      { sub := 0, kind := .memWrite, addr := e.addr.toNat, bytes := leBytes e.data.toNat 4, rid := rid }
    c.vecFunc iid = f → (c.inst iid).st ≠ .stopped →
    (∀ rid, open_ → c.dmaOf f = .host rid → awake →
      Runs (.msixEvent iid v) s (c.modPx 0 fun y => { y with sent := y.sent ++ [sent rid] })) ∧
    (∀ rid, open_ → c.dmaOf f = .host rid → ¬ awake →
      RunsTo (.msixEvent iid v) s fun d => (d.px 0).sent = (c.px 0).sent ∧
        (Sparse.at (d.px 0).subs {} 0 : Sub).waiting = (Sparse.at (c.px 0).subs {} 0 : Sub).waiting ++ [sent rid]) ∧
    (¬ open_ → RunsTo (.msixEvent iid v) s fun d => d.func f = { x with pba := NatSet.insert x.pba v } ∧
      (∀ k, k ≠ f → d.func k = c.func k)) ∧
    (∀ rid, x.pba.contains v = true → (c.inst f).st ≠ .stopped → c.dmaOf f = .host rid → awake →
      RunsTo (.msixUnmask f v) s fun d =>
        (d.func f).pba = NatSet.erase x.pba v ∧ (d.func f).msixEn = true ∧ (d.func f).fmask = false ∧
        (d.px 0).sent = (c.px 0).sent ++ [sent rid]) ∧
    (x.pba.contains v = false → RunsTo (.msixUnmask f v) s fun d =>
        (d.func f).pba = x.pba ∧ (d.func f).msixEn = true ∧ (Sparse.at (d.func f).table {} v : MsixEnt).mask = false)

/-- R151, R156, R161, R162: a home grants an uncached line Exclusive (Shared to a fetch) for RdShared and Modified for RdOwn,
with its L3's data, records the requester and blocks the line; an owner is snooped instead; an Upgrade of the only sharer is
answered by Cmp alone; RdOnce and NcRd take the data and leave the directory. A RdOwn takes the copy out of the L3. -/
def Obligations.HomeGrantsReads : Prop :=
  ∀ (s : State) (i r : Nat) (m : Msg) (k x : Nat) (l : L3Line) (e : DirEnt),
    let c := s.chip
    let q (j : MsgKind) : Msg := { m with kind := j }
    let listed (d : Chip) : Option (DirState × List Nat) := ((d.home i).dirFind m.line).map fun e => (e.2.st, e.2.ptrs)
    let data (g : Grant) : Msg :=
      { kind := .data, src := .home i, dst := m.src, line := m.line, grant := g, data := l.data, poison := l.poison, ifetch := m.ifetch }
    let fwd (j : MsgKind) (g : Grant) : Msg :=
      { kind := j, src := .home i, dst := .core x, line := m.line, req := m.src, clos := m.clos, grant := g }
    let uncached := (c.home i).dirFind m.line = none ∧ ((c.home i).dirWay (homeSet m.line)).isSome = true
    let held := (c.home i).l3Data m.line = some l
    let owned := (c.home i).dirFind m.line = some (k, e) ∧ e.owner = some x
    m.src = .core r → m.zero = false → (c.home i).openPen m.line = none →
    (c.homeFree i (q .rdShared) = true → uncached → held →
      RunsTo (.rdShared m) s fun d => (d.home i).blocked m.line = true ∧
        listed d = some (if m.ifetch then .shared else .exclusive, [r]) ∧
        c.answers d (q .rdShared) [data (if m.ifetch then .s else .e)]) ∧
    (c.homeFree i (q .rdShared) = true → owned →
      RunsTo (.rdShared m) s fun d => (d.home i).blocked m.line = true ∧ (d.home i).dir = (c.home i).dir ∧
        c.answers d (q .rdShared) [fwd .fwdShared .s]) ∧
    (c.homeFree i (q .rdOwn) = true → uncached → held →
      RunsTo (.rdOwn m) s fun d => (d.home i).blocked m.line = true ∧ listed d = some (.exclusive, [r]) ∧
        (d.home i).l3Data m.line = none ∧ c.answers d (q .rdOwn) [data .m]) ∧
    (c.homeFree i (q .rdOwn) = true → owned → e.st = .exclusive →
      RunsTo (.rdOwn m) s fun d => (d.home i).blocked m.line = true ∧ listed d = some (.exclusive, [r]) ∧
        c.answers d (q .rdOwn) [fwd .fwdOwn .m]) ∧
    (c.homeFree i (q .upgrade) = true → (c.home i).dirFind m.line = some (k, e) → e.lists r = true → e.st ≠ .exclusive →
      c.holders e [r] = [] →
      RunsTo (.upgrade m) s fun d => (d.home i).blocked m.line = true ∧ listed d = some (.exclusive, [r]) ∧
        c.answers d (q .upgrade) [{ kind := .cmp, src := .home i, dst := m.src, line := m.line }]) ∧
    (∀ errs, c.homeFree i (q .rdOnce) = true → m.maint = .none → (c.home i).dirFind m.line = none → held →
      RunsTo (.rdOnce m errs) s fun d => (d.home i).blocked m.line = true ∧ (d.home i).dir = (c.home i).dir ∧
        c.answers d (q .rdOnce) [data .none]) ∧
    (c.homeFree i (q .ncRd) = true → (c.home i).dirFind m.line = none → held →
      RunsTo (.ncRd m) s fun d => (d.home i).blocked m.line = true ∧ (d.home i).dir = (c.home i).dir ∧
        c.answers d (q .ncRd) [data .none])

/-- R165, R169, R171, R184, R185, R188, R192: a Put of the listed holder stores its data in the L3 and frees the entry, any
other is stale; an NcWr asks for its data; a RedOp contributes to the open pen of its mode or opens one on the line's value,
and mol.rclose closes the line, each with a Cmp; for a line that is spilled it first reads the slot, in one of the Close entries.
A line that waited for a pen then goes on in the same way. -/
def Obligations.HomeTakesPutsAndReductions : Prop :=
  ∀ (s : State) (i r : Nat) (m wb : Msg) (k n : Nat) (o : L3Line) (e : DirEnt) (p : Pen) (t : Txn),
    let c := s.chip
    let hm := c.home i
    let q (j : MsgKind) : Msg := { m with kind := j }
    let rep (j : MsgKind) (a : Agent) : Msg := { kind := j, src := .home i, dst := a, line := m.line }
    let put := hm.openPen m.line = none ∧ Sparse.find hm.slots r = some wb ∧ wb.line = m.line
    let owns := hm.dirFind m.line = some (k, e) ∧ e.st = .exclusive ∧ e.ptrs = [r] ∧ m.keep = false ∧ m.discard = false
    let accepted (j : MsgKind) (d : Chip) : Prop :=
      (d.home i).dirFind m.line = none ∧ (((d.home i).l3Find m.line).map fun f => (f.2.data, f.2.poison)) = some (wb.data, wb.poison) ∧
      Sparse.find (d.home i).slots r = none ∧ (d.home i).stale = hm.stale ∧ c.answers d (q j) [rep .wbAck m.src]
    let stale (j : MsgKind) (d : Chip) : Prop :=
      (d.home i).stale = hm.stale + 1 ∧ (d.home i).l3 = hm.l3 ∧ (d.home i).dir = hm.dir ∧ c.answers d (q j) [rep .wbAckStale m.src]
    let fresh (v : Msg) (d : Chip) : Prop :=
      (((d.home i).penOf m.line).map fun f => (f.2.mode, f.2.cnt, f.2.elems)) =
        some (v.mode, 1, ((Pen.opened m.line v.mode o.data o.poison v.clos).apply v 0).elems)
    let room := hm.freePen = some n ∧ hm.penOf m.line = none ∧ hm.spilled m.line = none ∧ hm.l3Data m.line = some o
    m.src = .core r →
    (c.homeFree i (q .putDirty) = true → put → owns → (hm.l3Find m.line).isSome = true → RunsTo (.putDirty m) s (accepted .putDirty)) ∧
    (c.homeFree i (q .putClean) = true → put → owns → (hm.l3Find m.line).isSome = true → RunsTo (.putClean m) s (accepted .putClean)) ∧
    (c.homeFree i (q .putDirty) = true → put → hm.dirFind m.line = none → RunsTo (.putDirty m) s (stale .putDirty)) ∧
    (c.homeFree i (q .putClean) = true → put → hm.dirFind m.line = none → RunsTo (.putClean m) s (stale .putClean)) ∧
    (c.homeFree i (q .ncWr) = true → hm.openPen m.line = none → hm.dirFind m.line = none →
      RunsTo (.ncWr m) s fun d => (d.home i).blocked m.line = true ∧ c.answers d (q .ncWr) [rep .cmp m.src]) ∧
    (c.homeFree i (q .redOp) = true → m.red ≠ .close → hm.penOf m.line = some (n, p) → p.st = .opened → p.mode = m.mode →
      hm.dirFind m.line = none →
      RunsTo (.redOp m) s fun d => (d.home i).penOf m.line = some (n, p.apply (q .redOp) hm.clock) ∧
        c.answers d (q .redOp) [rep .cmp m.src]) ∧
    (c.homeFree i (q .redOp) = true → m.red ≠ .close → room → hm.dirFind m.line = none →
      RunsTo (.redOp m) s fun d => fresh (q .redOp) d ∧ c.answers d (q .redOp) [rep .cmp m.src]) ∧
    (c.homeFree i (q .redOp) = true → m.red = .close → hm.penOf m.line = some (n, p) → p.st = .opened → hm.spilled m.line = none →
      (hm.l3Find m.line).isSome = true →
      RunsTo (.redOp m) s fun d => (d.home i).openPen m.line = none ∧
        (((d.home i).l3Data m.line).map fun f => (f.data, f.poison)) = some (p.result.1, p.poison) ∧
        c.answers d (q .redOp) [rep .cmp m.src]) ∧
    (c.homeFree i (q .redOp) = true → m.red = .close → hm.penOf m.line = none → hm.spilled m.line = some (n, p) → hm.closes = [] →
      RunsTo (.redOp m) s fun d => ((d.home i).txnOf m.line).map (fun y => (y.stage, y.req)) = some (.waitClose, q .redOp) ∧
        (d.home i).closes.map (fun o => (o.kind, o.line, o.slot)) = [(.close .rclose, m.line, n)] ∧
        (d.home i).spilled m.line = some (n, p)) ∧
    (hm.txnOf m.line = some t → t.stage = .waitPen → t.req = q .redOp → room → hm.closes = [] → hm.drain = [] →
      RunsTo (.penWaitResume i m.line) s fun d => fresh (q .redOp) d ∧
        d.mesh = c.mesh ++ [{ rep .cmp m.src with birth := c.mt / 32 }])

/-- R116, R155, R156, R163, R166: a snooped L2 that holds the line sends it to the requester, keeps it Owned or Shared under
FwdShared and gives it up under FwdOwn and Inval; only a recalled dirty line goes back to the home. A reserved line holds
FwdOwn and Inval back. -/
def Obligations.SnoopsMoveLines : Prop :=
  ∀ (s : State) (x k : Nat) (m : Msg) (l : L2Line),
    let c := s.chip
    let q (j : MsgKind) : Msg := { m with kind := j }
    let no (t : Kept) : Msg := { kind := .snpNoData, src := .core x, dst := .home (homeSlice m.line), line := m.line, kept := t }
    let fwd (g : Grant) : Msg :=
      { kind := .fwdData, src := .core x, dst := m.req, line := m.line, grant := g, waitCmp := m.waitCmp, data := l.data, poison := l.poison }
    m.dst = .core x → (c.core x).find m.line = some (k, l) → (c.core x).buffered m.line = none → (c.core x).fills = [] →
    (m.clean = false → m.once = false →
      RunsTo (.fwdShared m) s fun d =>
        (d.core x).line m.line = some { l with st := match l.st with | .m => .o | .e => .s | z => z } ∧
        c.answers d (q .fwdShared) [fwd .s, no (if l.st.dirty then .o else .s)]) ∧
    (c.resvHolds x m.line = false →
      RunsTo (.fwdOwn m) s fun d => Sparse.find (d.core x).l2 k = none ∧ c.answers d (q .fwdOwn) [fwd .m]) ∧
    (c.resvHolds x m.line = false → m.rcl = false ∨ l.st.dirty = false →
      RunsTo (.inval m) s fun d => Sparse.find (d.core x).l2 k = none ∧ c.answers d (q .inval) [no .i]) ∧
    (c.resvHolds x m.line = false → m.rcl = true → l.st.dirty = true →
      RunsTo (.inval m) s fun d => Sparse.find (d.core x).l2 k = none ∧ c.answers d (q .inval) [
        { kind := .wbData, src := .core x, dst := .home (homeSlice m.line), line := m.line, data := l.data, poison := l.poison,
          mask := BitVec.allOnes 64 }]) ∧
    (c.resvHolds x m.line = true →
      RunsTo (.inval m) s (fun d => (d.core x).heldSnp = (c.core x).heldSnp ++ [q .inval] ∧ c.answers d (q .inval) []) ∧
      RunsTo (.fwdOwn m) s fun d => (d.core x).heldSnp = (c.core x).heldSnp ++ [q .fwdOwn] ∧ c.answers d (q .fwdOwn) [])

/-- R161-R166, R193: answers end what they answer. Ack unblocks its line; the last SnpNoData of a RdOwn brings the requester
its Cmp; Cmp grants an Upgrade; Data and FwdData fill the line in the state of their grant and are acknowledged; WbAck and
WbAckStale free a writeback buffer entry; the WbData of a Put waits in its sender's slot; CLOSE returns the 32 lines of a spill
slot as Data, each controller those that it serves (log 86). -/
def Obligations.AnswersEndTransactions : Prop :=
  ∀ (s : State) (i x : Nat) (m : Msg) (t : Txn) (l : L2Line) (w : WbEnt) (r : L2Req),
    let c := s.chip
    let hm := c.home i
    let q (j : MsgKind) : Msg := { m with kind := j }
    let ack : Msg := { kind := .ack, src := .core x, dst := .home (homeSlice m.line), line := m.line }
    let freed (j : MsgKind) (d : Chip) : Prop := (d.core x).wb = [] ∧ c.answers d (q j) []
    let filled (j : MsgKind) (d : Chip) : Prop :=
      ((d.core x).line m.line).map (fun f => (f.st, f.data, f.poison)) = some (grantState m.grant, m.data, m.poison) ∧
      (d.core x).pending m.line = none ∧ c.answers d (q j) [ack]
    let fills := m.dst = .core x ∧ (c.core x).pending m.line = some r ∧ r.kind ≠ .ncRd ∧ (c.core x).find m.line = none ∧
      ((c.core x).freeWay (l2Set m.line)).isSome = true ∧ (c.core x).takesFill m.line = true ∧ (m.waitCmp = false ∨ r.gotCmp = true)
    (m.dst = .home i → hm.txnOf m.line = some t → t.stage = .grant → t.req.src = m.src → t.needAck = true → t.await = [] →
      t.cmpDue = false → hm.drain = [] →
      RunsTo (.ack m) s fun d => (d.home i).txnOf m.line = none ∧ c.answers d (q .ack) []) ∧
    (m.dst = .home i → m.src = .core x → (hm.txns.find? fun y => y.blocks m.line) = some t → t.stage = .grant →
      t.req.kind = .rdOwn → t.await = [x] → t.cmpDue = true → t.needAck = true →
      RunsTo (.snpNoData m) s fun d => (d.home i).txnOf t.line = some { t with await := [], cmpDue := false } ∧
        c.answers d (q .snpNoData) [{ kind := .cmp, src := .home i, dst := t.req.src, line := t.req.line }]) ∧
    (m.dst = .core x → (c.core x).pending m.line = none → (c.core x).wb = [w] → w.line = m.line → w.sent = true → (c.core x).fills = [] →
      RunsTo (.wbAck m) s (freed .wbAck) ∧ RunsTo (.wbAckStale m) s (freed .wbAckStale)) ∧
    (m.dst = .core x → m.src = .home (homeSlice m.line) → m.err = false → (c.core x).pending m.line = some r →
      r.kind = .upgrade → r.zero = false → (c.core x).line m.line = some l →
      RunsTo (.cmp m) s fun d => (d.core x).line m.line = some { l with st := .m } ∧ (d.core x).pending m.line = none ∧
        c.answers d (q .cmp) [ack]) ∧
    (fills → (∃ j, m.src = .home j ∨ m.src = .mc j ∨ m.src = .core j) →
      RunsTo (.data m) s (filled .data) ∧ RunsTo (.fwdData m) s (filled .fwdData)) ∧
    (m.dst = .home i → m.src = .core x → m.forPut = true → hm.txnOf m.line = none →
      RunsTo (.wbData m) s fun d => Sparse.find (d.home i).slots x = some (q .wbData) ∧ c.answers d (q .wbData) []) ∧
    (∀ n, m.dst = .mc n → n < 12 →
      RunsTo (.close m) s fun d => ∃ l : List Msg,
        d.mesh = ((c.arrive (q .close)).take (q .close)).mesh ++ l ∧
        (l.map fun y => y.line) = ((List.range 32).map fun j => m.line + j).filter (fun j => decide (c.memAgent j = .mc n)) ∧
        ∀ y ∈ l, y.kind = .data ∧ y.src = .mc n ∧ y.dst = m.src)

/-- R160, R161, R149, R165, R166, R174-R177, R201, R203: the oldest waiting request of an unblocked line starts, and a port
entry takes a free place of the queue; an eviction moves a line to the writeback buffer and sends its Put; maintenance by set
and way cleans or drops the line at its position, BUSY lasting until every position is visited; DRAIN closes the open
lines. -/
def Obligations.QueuesEvictionsAndMaintenance : Prop :=
  ∀ (s : State) (src : Src) (i x k line : Nat) (m : Msg) (ms : List Msg) (pt : Nat) (l : L2Line) (o : L3Line) (p : Pen) (pos : MaintPos)
    (mt : MaintSt),
    let c := s.chip
    let hm := c.home i
    let wbEnt (ds : Bool) : WbEnt := { line := l.line, st := l.st, data := l.data, poison := l.poison, sent := true, discard := ds }
    let l2 (n : Nat) := c.takes src (uCore x) 0x1044 (BitVec.ofNat 32 (maintWord n pos)) = true ∧ pos.way < 16 ∧ pos.set < 1024 ∧
      visitKeys (c.core x).l2 pos 16 0 = [k] ∧ Sparse.find (c.core x).l2 k = some l ∧ (c.core x).find l.line = some (k, l) ∧ (c.core x).wb = [] ∧
      (c.core x).pending l.line = none
    let l3 (n : Nat) := c.takes src (uSlice i) 0x1080 (BitVec.ofNat 32 (maintWord n pos)) = true ∧ pos.way < 32 ∧ pos.set < 2048 ∧
      visitKeys hm.l3 pos 32 0 = [k] ∧ Sparse.find hm.l3 k = some o ∧ o.pen = false
    let busy2 (n : Nat) (d : Chip) : Prop := (d.core x).maint = some { op := n, pos := pos, next := l2End }
    let busy3 (n : Nat) (d : Chip) : Prop := (d.home i).maint = some { op := n, pos := pos }
    (Sparse.at hm.waitq [] line = m :: ms → hm.txnOf line = none → hm.blocked line = false → m.line = line → m.kind = .ncWr → ms.length < 15 →
      (({ hm with waitq := Sparse.del hm.waitq line } : Home).poolFor m).isSome = true → c.isMemory (line * 64) = true → hm.openPen line = none → hm.dirFind line = none →
      RunsTo (.waitQueueStart i line) s fun d => Sparse.at (d.home i).waitq [] line = ms ∧ (d.home i).blocked line = true ∧
        d.mesh = c.mesh ++ [{ kind := .cmp, src := .home i, dst := m.src, line := line, birth := c.mt / 32 }]) ∧
    ((Sparse.at hm.waitq [] line).length < 16 → hm.blocked line = true → (hm.ports.filter fun e => decide (e.2.line = line)) = [(pt, m)] →
      RunsTo (.waitQueueAdmit i line) s fun d => Sparse.at (d.home i).waitq [] line = Sparse.at hm.waitq [] line ++ [m] ∧
        (d.home i).ports = hm.ports.erase (pt, m) ∧ (d.home i).rr = pt) ∧
    ((c.core x).find line = some (k, l) → l.line = line → (c.core x).wb = [] → (c.core x).pending line = none →
      RunsTo (.l2Eviction x line) s fun d => Sparse.find (d.core x).l2 k = none ∧ (d.core x).wb = [wbEnt false] ∧
        d.mesh = c.mesh ++ (putMsgs x (wbEnt false)).map fun y => { y with clos := c.coreClos x, birth := c.mt / 32 }) ∧
    (x < 200 → l2 1 → l.st.dirty = true →
      RunsTo (.l2MaintClean src x pos) s fun d => busy2 1 d ∧
        Sparse.find (d.core x).l2 k = some { l with st := if l.st = .m then .e else .s } ∧ (d.core x).wb = [{ wbEnt false with keep := true }]) ∧
    (x < 200 → l2 2 → RunsTo (.l2MaintInval src x pos) s fun d => busy2 2 d ∧ Sparse.find (d.core x).l2 k = none ∧
      (d.core x).wb = [wbEnt true]) ∧
    (x < 200 → l2 3 → RunsTo (.l2MaintCleanInval src x pos) s fun d => busy2 3 d ∧ Sparse.find (d.core x).l2 k = none ∧
      (d.core x).wb = [wbEnt false]) ∧
    (i < 100 → l3 1 → o.dirty = true → RunsTo (.l3MaintClean src i pos) s fun d => busy3 1 d ∧
      Sparse.find (d.home i).l3 k = some { o with dirty := false }) ∧
    (i < 100 → l3 2 → RunsTo (.l3MaintInval src i pos) s fun d => busy3 2 d ∧ Sparse.find (d.home i).l3 k = none ∧ d.mcs = c.mcs) ∧
    (i < 100 → l3 3 → RunsTo (.l3MaintCleanInval src i pos) s fun d => busy3 3 d ∧ Sparse.find (d.home i).l3 k = none) ∧
    (x < 200 → (c.core x).maint = some mt → visitKeys (c.core x).l2 mt.pos 16 mt.next = [] →
      RunsTo (.maintDone (uCore x)) s fun d => (d.core x).maint = none ∧ (d.core x).l2 = (c.core x).l2) ∧
    (i < 100 → RunsTo (.maintDone (uSlice i)) s fun d => (d.home i).maint = none ∧ (d.home i).l3 = hm.l3) ∧
    (i < 100 → c.takes src (uSlice i) 0x1100 1 = true → hm.pens = [(k, p)] → p.st = .opened → hm.spill = [] → hm.blocked p.line = false →
      RunsTo (.redDrain src i) s fun d => (d.home i).openPen p.line = none ∧ d.regFld (uSlice i) 0 0x1100 1 1 = 0)

/-- R221, R434, R211: a retried flit is counted and a working link stays up; a link that retried 16 flits within a millisecond pauses
and takes spare wires while it has them; beyond them the edge link at (4, 0) goes out of use, once nothing in flight goes to its
stop, and the mesh takes its standby routes. -/
def Obligations.LinksRetryAndSpareWires : Prop :=
  ∀ (s : State) (l : LinkId) (ws : List Nat),
    let c := s.chip
    (c.link l).down = false →
    RunsTo (.linkRetry l) s (fun d => d.link l = { c.link l with retries := c.recentRetries l ++ [c.mtime.toNat] } ∧ d.mesh = c.mesh ∧
      d.standby = c.standby) ∧
    ((c.link l).retiring = false → 16 ≤ (c.recentRetries l).length →
      ((c.link l).spared + ws.length ≤ 2 →
        RunsTo (.wireSparing l ws) s fun d =>
          d.link l = { c.link l with retries := [], pause := c.mtime.toNat + 200, spared := (c.link l).spared + ws.length } ∧
          d.standby = c.standby) ∧
      (2 < (c.link l).spared + ws.length → linkEdge40 l = true → c.edge40Clear = true →
        RunsTo (.wireSparing l ws) s fun d => (d.link l).down = true ∧ d.standby = true) ∧
      (2 < (c.link l).spared + ws.length → linkEdge40 l = true → c.edge40Clear = false →
        RunsTo (.wireSparing l ws) s fun d => (d.link l).retiring = true ∧ (d.link l).down = false ∧ d.standby = c.standby))

/-- R237-R241, R245, R246, R248: a waiting read is served by an ACT and leaves its queue with its data; a buffer that drains is
written to 16 lines, each line readable in its rank; refresh goes through the four bank indexes; MR4 sets the rate; a pause
shows in MC_STATUS and is kept in MAX_PAUSE; a CA parity alert counts on its rank alone; patrol moves on by one line.

R250, R252, R253, R255, R258: a write of MC_SPARE_CFG sets a spare, which leaves the logical ranks; in READY a trigger on
an active rank, the lowest of those due, or FORCE, starts the copy from index 0; each copy operation moves the line at CP into the spare's write
buffer; when every line is copied the spare takes the rank's place and the channel is RETIRED. -/
def Obligations.MemoryChannelsServeAndSpare : Prop :=
  (∀ (s : State) (n rank idx dur : Nat) (hot : Bool) (r : McReq),
    let c := s.chip
    let m := c.mc n
    let co := c.coord n r.loc
    let k := m.wbufA.length - 16
    let key (w : McWr) : Nat := memKey n w.rank w.idx
    let pause := min dur (pauseLimit (c.regFld (uMc n) 0 0x1040 4 2))
    (m.pause = none → m.adm = [] → (if co.sub = 0 then m.drainA else m.drainB) = false →
      (m.queue.find? fun q => decide (c.reqBank n q = (co.sub, co.bankNo))) = some r → r.errs = [] →
      m.buffered co.rank co.idx = none → c.spareState n ≠ 2 → Sparse.at m.bad [] (memKey n co.rank co.idx) = [] →
      RunsTo (.bankActivate n co.sub co.rank (4 * co.bg + co.ba)) s fun d =>
        (d.mc n).queue = m.queue.erase r ∧ (d.mc n).acts = m.acts + 1 ∧ d.mem = c.mem ∧
        ∃ x, d.mesh = c.mesh ++ [x] ∧ x.kind = .data ∧ x.dst = r.msg.req ∧ x.line = r.msg.line ∧
          (x.data, x.poison) = c.rawLine (memKey n co.rank co.idx)) ∧
    (m.drainA = true → c.mem.wf = true →
      RunsTo (.writeDrain n 0) s fun d => (d.mc n).wbufA = m.wbufA.drop k ∧ (d.mc n).drainA = false ∧ (d.mc n).wbufB = m.wbufB ∧
        ∀ w ∈ m.wbufA.take k, (∀ v ∈ m.wbufA.take k, key v = key w → v = w) → d.rawLine (key w) = (w.data, w.poison)) ∧
    (c.trained n = true → idx < 4 → Sparse.at m.refIdx 0 rank = idx →
      RunsTo (.refreshSb n rank idx) s fun d => Sparse.at (d.mc n).refIdx 0 rank = (idx + 1) % 4) ∧
    (c.trained n = true → RunsTo (.mr4Poll n hot) s fun d => d.regFld (uMc n) 0 0x1058 1 1 = bit hot ∧ d.trained n = true) ∧
    (c.trained n = true → c.ranksPresent n / 2 ^ rank % 2 = 1 →
      RunsTo (.retrainingPause n rank dur) s fun d =>
        d.regFld (uMc n) 0 0x105C 15 0 = max pause (c.regFld (uMc n) 0 0x105C 15 0) ∧ d.regFld (uMc n) 0 0x1058 2 2 = 1 ∧
        (d.mc n).pause = some (rank, c.mtime.toNat + pauseTicks (c.regFld (uMc n) 0 0x1040 4 2) pause)) ∧
    ((Sparse.at m.ranks {} rank).cap < 2 →
      RunsTo (.caParityAlert n rank) s fun d => (Sparse.at (d.mc n).ranks {} rank).cap = (Sparse.at m.ranks {} rank).cap + 1 ∧
        (∀ q, q ≠ rank → (Sparse.at (d.mc n).ranks {} q).cap = 0) ∧ (d.mc n).queue = m.queue ∧ d.mesh = c.mesh) ∧
    (c.trained n = true → c.regFld (uMc n) 0 0x1054 8 8 = 1 → c.faulty (uMc n) 0 0x1054 = false → c.spareState n ≠ 2 →
      m.patrol + 1 < m.logical.length * c.rankLines n →
      Sparse.at m.bad [] (memKey n (c.coord n m.patrol).rank (c.coord n m.patrol).idx) = [] →
      RunsTo (.patrolRead n []) s fun d => (d.mc n).patrol = m.patrol + 1 ∧ d.mem = c.mem ∧ d.poison = c.poison ∧ d.errs = c.errs)) ∧
  (∀ (s : State) (src : Src) (n rank : Nat) (v : Word),
    let c := s.chip
    let m := c.mc n
    let copying (d : Chip) : Prop := d.spareState n = 2 ∧ d.spareSource n = rank ∧ (d.mc n).cp = 0 ∧ (d.mc n).logical = m.logical
    let lr := (m.logical.findIdx? (· = c.spareSource n)).getD 0
    let co := c.coord n (lr * c.rankLines n + m.cp)
    n < 12 → rank < 8 →
    (c.takes src (uMc n) 0x1044 v = true →
      RunsTo (.mcSpareCfgWrite src n v) s fun d =>
        d.spareRank n = fld v 2 0 ∧ d.spareState n = fld v 3 3 ∧ (fld v 3 3 = 1 → fld v 2 0 ∉ (d.mc n).logical)) ∧
    (∀ cause, c.spareState n = 1 → rank ∈ c.activeRanks n → (rank, cause) ∈ m.trig → (∀ t ∈ m.trig, rank ≤ t.1) →
      RunsTo (.rankRetirement n rank cause) s copying) ∧
    (c.takes src (uMc n) 0x1048 (BitVec.ofNat 32 (rank * 2 ^ 16 + 2 ^ 19)) = true → RunsTo (.force src n rank) s copying) ∧
    (c.spareState n = 2 → m.cp < c.rankLines n → m.buffered (c.spareSource n) co.idx = none →
      Sparse.at m.bad [] (memKey n (c.spareSource n) co.idx) = [] → (c.rawLine (memKey n (c.spareSource n) co.idx)).2 = false →
      c.wrUsed n (m.cp % 2) < 64 → (m.cp + 1) % 2 ^ 20 ≠ 0 →
      RunsTo (.copyOperation n []) s fun d => (d.mc n).cp = m.cp + 1 ∧
        (⟨c.spareRank n, m.cp, (c.rawLine (memKey n (c.spareSource n) co.idx)).1, false⟩ : McWr) ∈ (d.mc n).wbufA ++ (d.mc n).wbufB ∧
        d.mem = c.mem) ∧
    (c.spareState n = 2 → c.rankLines n ≤ m.cp → c.spareSource n < 8 →
      RunsTo (.copyDone n) s fun d => d.spareState n = 3 ∧
        (d.mc n).logical = (m.logical.map fun r => if r = c.spareSource n then c.spareRank n else r) ∧
        (d.reg (uMc n) 0 0x1058).getLsbD (8 + c.spareSource n) = true ∧ (d.mc n).notices = m.notices + 1))

/-- R260, R290, R291, R293: an enabled MAC's link sets UP, going down clears it; a PAUSE or PFC frame stops the priorities
that it names and the port obeys, for quanta other than 0; the pause ends with its time; below the XON threshold the port
resumes a priority and every linked MAC says so. -/
def Obligations.EthernetLinksAndPauses : Prop :=
  ∀ (s : State) (p m prio : Nat) (prios : BitVec 8) (quanta : List Nat),
    let c := s.chip
    let u := uEth p
    let pfc := c.regFld u 0 0x1050 16 16 = 0
    p < 2 → m < 8 → prio < 8 →
    (c.unitRuns u = true → (c.reg u 0 0x1044).getLsbD m = true → m < c.macCount p →
      RunsTo (.linkUp p m) s fun d => (d.reg u 0 0x1048).getLsbD m = true ∧ (d.reg u 0 0x1048).getLsbD (8 + m) = true ∧
        ∀ k, k < 32 → k ≠ m → k ≠ 8 + m → (d.reg u 0 0x1048).getLsbD k = (c.reg u 0 0x1048).getLsbD k) ∧
    RunsTo (.linkDown p m) s (fun d => (d.reg u 0 0x1048).getLsbD m = false ∧
      ∀ k, k < 32 → k ≠ m → k ≠ 8 + m → (d.reg u 0 0x1048).getLsbD k = (c.reg u 0 0x1048).getLsbD k) ∧
    (c.macUp p m = true → pfc →
      RunsTo (.pauseFrameReceive p m prios quanta) s fun d => ∀ i, i < 8 →
        (d.mac p m).paused.getLsbD i =
          if prios.getLsbD i = true ∧ (c.reg u 0 0x1050).getLsbD i = true then decide (quanta.getD i 0 ≠ 0)
          else (c.mac p m).paused.getLsbD i) ∧
    (c.macUp p m = true → ¬ pfc →
      RunsTo (.pauseFrameReceive p m prios quanta) s fun d => (d.mac p m).paused = if quanta.getD 0 0 ≠ 0 then 0xFF else 0) ∧
    (pfc → RunsTo (.pauseQuantaExpiry p prio) s fun d => (d.mac p m).paused.getLsbD prio = false ∧
      ∀ i, i ≠ prio → (d.mac p m).paused.getLsbD i = (c.mac p m).paused.getLsbD i) ∧
    (pfc → (c.eth p).xoff.getLsbD prio = true → (c.eth p).occupancy (some prio) < c.regFld u 0 0x1054 26 16 * 1024 →
      RunsTo (.xon p prio) s fun d => (d.eth p).xoff = (c.eth p).xoff &&& ~~~ BitVec.twoPow 8 prio ∧
        (m < c.macCount p → c.macUp p m = true →
          (d.mac p m).wire = (c.mac p m).wire ++ [.pause (BitVec.twoPow 8 prio) false]))

/-- R262, R266, R273, R280-R283, R292: with the flow table off, a good frame goes to the queue that its Toeplitz hash
selects. A ready descriptor takes it, its counts those of the frame and of what its buffers hold; with none ready the port
holds the frame, or drops it where the queue says so. A bad FCS, or a length outside 64 to MAX_FRAME, only counts. A held
frame proceeds with the next descriptor. -/
def Obligations.FramesReachTheirQueues : Prop :=
  ∀ (s : State) (p m q : Nat) (bytes : List Byte) (d : Desc) (f : HeldFrame) (bs : List Byte) (c1 c2 : Chip),
    let c := s.chip
    let u := uEth p
    let open_ := c.unitRuns u = true ∧ c.macUp p m = true ∧ (c.reg u 0 0x1044).getLsbD m = true ∧ c.held u = false ∧ c.held uFlow = false
    let good := 64 ≤ bytes.length + 4 ∧ bytes.length + 4 ≤ c.maxFrame p ∧ (c.eth p).occupancy none + bytes.length ≤ 2 ^ 21
    let pr := parseFrame bytes
    let h := toeplitz c.hashKey (hashInput pr)
    let dsize := c.regFld uFlow q 0x1098 17 16
    let steered := c.regFld uFlow 0 0x1040 0 0 = 0 ∧
      q = Sparse.at c.flow.rss 0 (512 * c.regFld u 0 0x1058 (4 * m + 3) (4 * m) + h % 512) ∧
      (c.ring (.rx q)).en = true ∧ (c.inst (c.ringOwner (.rx q))).st ≠ .resetting
    let info := rxSummary bytes pr + (dsize * 2 ^ 12 + h % 4096 * 2 ^ 20)
    let taken (ln size : Nat) (inf : Nat) (e : Chip) : Prop :=
      let room := min (64 * (size + 1)) d.length + d.fld 24 4
      ∃ (x : Chip) (st n : Nat), e.rings = (x.finish (.rx q) d.idx st ln n inf).rings ∧
        (st = 0x03 ∨ (st = (if room < ln then 0x04 else 0) ∧ n = min ln room))
    let plain : Desc :=
      { idx := (c.ring (.rx q)).ci, bytes := bs, cmpl := bsNat bs 0 2 / 256 % 4 ≠ 0, irq := bsNat bs 0 2 / 512 % 2 = 1, slots := 1 }
    (open_ → RunsTo (.frameReceive p m bytes false) s fun e => e.rings = c.rings ∧ (e.eth p).held = (c.eth p).held ∧
      Sparse.at (e.mac p m).cnt 0 8 = min (2 ^ 32 - 1) (Sparse.at (c.mac p m).cnt 0 8 + 1)) ∧
    (open_ → bytes.length + 4 < 64 → RunsTo (.frameReceive p m bytes true) s fun e => e.rings = c.rings ∧
      (e.eth p).held = (c.eth p).held ∧ Sparse.at (e.mac p m).cnt 0 9 = min (2 ^ 32 - 1) (Sparse.at (c.mac p m).cnt 0 9 + 1)) ∧
    (open_ → 64 ≤ bytes.length + 4 → c.maxFrame p < bytes.length + 4 → RunsTo (.frameReceive p m bytes true) s fun e =>
      e.rings = c.rings ∧ Sparse.at (e.mac p m).cnt 0 10 = min (2 ^ 32 - 1) (Sparse.at (c.mac p m).cnt 0 10 + 1)) ∧
    (open_ → good → steered → (∀ x ∈ (c.eth p).held, x.q ≠ q) → c.startable (.rx q) = some d →
      RunsTo (.frameReceive p m bytes true) s (taken bytes.length dsize info)) ∧
    (open_ → good → steered → c.startable (.rx q) = none → c.regFld uFlow q 0x1098 15 15 = 0 →
      RunsTo (.frameReceive p m bytes true) s fun e => e.rings = c.rings ∧
        (e.eth p).held = (c.eth p).held ++ [{ q := q, mac := m, prio := pr.outer.pcp, bytes := bytes, dsize := dsize, info := info }]) ∧
    (open_ → good → steered → c.startable (.rx q) = none → c.regFld uFlow q 0x1098 15 15 = 1 →
      RunsTo (.frameReceive p m bytes true) s fun e => e.rings = c.rings ∧ (e.eth p).held = (c.eth p).held ∧
        Sparse.at (e.mac p m).cnt 0 15 = min (2 ^ 32 - 1) (Sparse.at (c.mac p m).cnt 0 15 + 1)) ∧
    (((c.eth p).held.find? fun x => x.q = q) = some f → (c.ring (.rx q)).en = true → c.startable (.rx q) = some d →
      RunsTo (.heldFrameResume p q) s (taken f.bytes.length f.dsize f.info)) ∧
    (((c.eth p).held.find? fun x => x.q = q) = some f → (c.ring (.rx q)).en = false →
      RunsTo (.heldFrameResume p q) s fun e => e.rings = c.rings ∧ (e.eth p).held = (c.eth p).held.erase f) ∧
    (c.mayFetch (.rx q) = true →
      c.instRead (c.ringOwner (.rx q)) (c.ringBase (.rx q) + 32 * ((c.ring (.rx q)).ci % c.ringSize (.rx q))) 32 = (.ok bs false, c1) →
      bsNat bs 4 2 = (c.ring (.rx q)).ci % 65536 → bsNat bs 6 2 = 65535 - (c.ring (.rx q)).ci % 65536 → plain.opcode = 0x20 →
      1 ≤ sub32 (c.ring (.rx q)).acc (c.ring (.rx q)).ci → rxFields { plain with bytes := bs ++ [] } = none →
      c1.addrsOk (c.ringOwner (.rx q)) (descAddrs (.rx q) { plain with bytes := bs ++ [] }) = (true, c2) →
      Runs (.rxBuf (.rx q)) s ((c2.modRing (.rx q) fun x =>
        { x with ci := ((c.ring (.rx q)).ci + 1) % 2 ^ 32, descs := x.descs ++ [{ plain with bytes := bs ++ [] }] }).withFuse c.fuse))

/-- R275-R278, R392, R399, R414: the admin descriptor that is next in the order of fetch: FLOW_SET replaces the action of a
key that its instance owns with INFO 1, FLOW_DELETE drops the entry with INFO 1, RSS_SET writes eight entries of its
context; a record with an undefined field completes with BAD_FIELD and changes no entry. -/
def Obligations.AdminDescriptorsChangeSteering : Prop :=
  ∀ (s : State) (iid i k q : Nat) (d : Desc) (bs : List Byte) (c1 : Chip) (x : FlowRec) (e : FlowEnt),
    let c := s.chip
    let r := RingId.adm iid
    let next (op : Nat) := c.startable r = some d ∧ d.opcode = op ∧ c.flow.order.head? = some (iid, d.idx)
    let read := c.instRead iid (d.fld 8 8) 64 = (.ok bs false, c1)
    let found := c1.flow.keyOf x.v6 x.src x.dst x.vni x.udp x.sport x.dport = some k ∧ c1.flow.find k = some (i, e) ∧
      (iid = 0 ∨ e.owner = iid)
    let done (st info : Nat) (t : FlowTab) (y : Chip) : Prop :=
      y.rings = (c1.finish r d.idx st 0 0 info).rings ∧ y.flow = { t with order := t.order.drop 1 }
    (next 1 → read → flowRec bs false = some x → c1.queueGlobal iid (x.action / 4 % 8192) = some q → found →
      RunsTo (.flowSet r) s
        (done 0 1 { c1.flow with ents := Sparse.put c1.flow.ents i { e with action := actionQueue x.action q } })) ∧
    (next 1 → read → flowRec bs false = none → RunsTo (.flowSet r) s (done 0x0B 0 c1.flow)) ∧
    (next 2 → read → flowRec bs true = some x → found → RunsTo (.flowDelete r) s fun y =>
      done 0 1 (c1.flow.drop i) y ∧ Sparse.find y.flow.ents i = none) ∧
    (next 3 → RunsTo (.rssSet r) s fun y => y.rings = (c.finish r d.idx 0 0 0 0).rings ∧ y.flow.ents = c.flow.ents ∧
      ∀ j, j < 8 → Sparse.at y.flow.rss 0 (512 * (d.fld 8 1 % 16) + d.fld 10 2 + j) = d.fld (12 + 2 * j) 2 % 8192)

/-- R285, R290, R291: the transmit queue that its MAC's round robin serves starts its oldest descriptor, or goes on with the
one that it has started: what its buffers hold becomes frames, which the MAC takes in order, at least 60 bytes each, while the
queue's deficit and limiter allow (log 59); with the last frame the descriptor completes with the bytes taken and the frames
sent. A link that goes down ends every started descriptor. -/
def Obligations.TransmitHandsFramesToItsMac : Prop :=
  ∀ (s : State) (q : Nat) (d : Desc) (a b : List Byte) (c1 c2 : Chip) (fs : List (List Byte)) (df : Sparse Int),
    let c := s.chip
    let r := RingId.tx q
    let p := c.txPort q
    let m := c.txMac q
    let c0 := c.modMac p m fun x => { x with cur := q, deficit := df }
    let turn (op : Nat) := d.opcode = op ∧ c.macUp p m = true ∧
      drrPick (fun q => 1024 * c.regFld uFlow (8192 + q) 0x1098 31 24) (c.txReadyOf p m) (c.mac p m).cur (c.mac p m).deficit = some (q, df)
    let starts (op : Nat) := c.txStarted q = none ∧ c.startable r = some d ∧ d.started = false ∧ turn op
    let goes (op : Nat) := c.txStarted q = some d ∧ d.started = true ∧ turn op
    let takes (x : Chip) (l : List (List Byte)) : Nat :=
      drrTake (Sparse.at (x.mac p m).deficit 0 q) ((x.limiterOf q).map x.limiterTokens) l
    let desc (bs : List Byte) (n : Nat) : Desc :=
      let e := { d with started := true, consumed := bs.length, produced := n, poison := false, left := fs.drop n }
      if n < fs.length then e else { e with fin := some 0, info := 0, left := [] }
    let sent (x : Chip) (bs : List Byte) (y : Chip) : Prop :=
      (y.mac p m).wire = (x.mac p m).wire ++ (fs.take (takes x fs)).map (fun f => .frame (pad60 f) false) ∧
      y.ring r = { x.ring r with descs := (x.ring r).descs.map fun e => if e.idx = d.idx then desc bs (takes x fs) else e }
    let on (y : Chip) : Prop :=
      let n := takes c0 d.left
      (y.mac p m).wire = (c.mac p m).wire ++ (d.left.take n).map (fun f => .frame (pad60 f) d.poison) ∧
      y.ring r = { c.ring r with descs := (c.ring r).descs.map fun e => if e.idx ≠ d.idx then e
        else if n < d.left.length then { e with left := d.left.drop n, produced := d.produced + n }
        else { e with started := true, fin := some (if d.poison then 0x0A else 0), consumed := d.consumed,
                      produced := d.produced + n, info := 0, left := [] } }
    let inl := (d.bytes.drop 8).take d.length
    (starts 0x10 → c0.readBuf (c.ringOwner r) (d.fld 8 8) d.length = (a, false, 0, c1) →
      txFrames d (c1.maxFrame p) a = some fs → RunsTo (.txFrame r) s (sent c1 a)) ∧
    (starts 0x11 → c0.readBuf (c.ringOwner r) (d.fld 8 8) d.length = (a, false, 0, c1) →
      c1.readBuf (c.ringOwner r) (d.fld 24 8) (d.fld 20 4) = (b, false, 0, c2) →
      txFrames d (c2.maxFrame p) (a ++ b) = some fs → RunsTo (.txGather r) s (sent c2 (a ++ b))) ∧
    (starts 0x12 → txFrames d (c.maxFrame p) inl = some fs → RunsTo (.txInline r) s (sent c0 inl)) ∧
    (goes 0x10 → RunsTo (.txFrame r) s on) ∧
    (goes 0x11 → RunsTo (.txGather r) s on) ∧
    (goes 0x12 → RunsTo (.txInline r) s on) ∧
    (q < 8192 → p < 2 → m < 8 → (Sparse.find c.rings (ringKey r)).isSome = true →
      RunsTo (.linkDown p m) s fun y => ∀ e ∈ (y.ring r).descs, e.started = true → e.fin.isSome = true)

/-- R274, R302, R331, R351, R395, R407: a write of EN = 1 through a ring's selector enables a quiesced ring with empty
indexes; EN = 0 stops its fetch and completes what has not started with ABORTED_DISABLED; QUIESCED sets when nothing of a
disabled ring is left; Q_HART takes the hart that a queue serves. -/
def Obligations.QueuesEnableDisableAndQuiesce : Prop :=
  ∀ (s : State) (src : Src) (r : RingId) (q : Nat) (v : Word),
    let c := s.chip
    let c1 := c.selectRing src r
    let en : Nat × Nat := match r with
      | .rx _ => (uFlow, 0x109C) | .tx _ => (uFlow, 0x109C) | .sh e _ => (uShears e, 0x1058) | .dv d _ => (uDrover d, 0x1064)
      | .adm _ => (uIm, 0x109C)
    let own (b : Nat) : Word := BitVec.ofNat 32 (((c.view src uFlow 0x1040) &&& 0xFFFFFFFD#32).toNat + 2 * b)
    let stopped (x : Ring) : Ring :=
      { x with en := false, descs := x.descs.map fun (d : Desc) => if d.idle then { d with fin := some 0x08 } else d }
    (∀ e n, (r = .sh e n ∨ r = .dv e n) → e < 2) →
    (r ≠ .adm (admInst src) → c1.ringAt src en.1 en.2 = some r →
      (c1.takes src en.1 en.2 1 = true → (c1.ring r).en = false →
        RunsTo (.queueEnable src r) s fun d => d.ring r = { en := true, quiesced := false }) ∧
      (c1.takes src en.1 en.2 0 = true → (c1.ring r).en = true →
        RunsTo (.queueDisable src r) s fun d => d.ring r = stopped (c1.ring r))) ∧
    (r = .adm (admInst src) → (c.ring r).en = false → c.takes src uFlow 0x1040 (own 1) = true →
      RunsTo (.queueEnable src r) s fun d => d.ring r = { en := true, quiesced := false }) ∧
    (r = .adm (admInst src) → (c.ring r).en = true → c.takes src uFlow 0x1040 (own 0) = true →
      RunsTo (.queueDisable src r) s fun d => d.ring r = stopped (c.ring r)) ∧
    ((c.ring r).en = false → (c.ring r).descs = [] → (c.ring r).held = [] →
      Runs (.quiesced r) s (c.modRing r fun x => { x with quiesced := true })) ∧
    (r = .rx q → c1.bankOf uFlow 0x10B0 = q → c1.takes src uFlow 0x10B0 v = true →
      RunsTo (.qHartWrite src q v) s fun d => d.regFld uFlow q 0x10B0 15 0 = fld v 15 0)

/-- R307, R310, R311, R326, R330, R436: a free lane takes the next work item of the ring whose turn it is. A COPY whose every
page is read and written completes OK with its length as both counts; FILL writes its pattern byte by byte from the address;
CRC returns the sum in INFO, MISMATCH where CHECK asked for another; COMPARE returns the offset of the first difference. A
lane that faults reruns, and one that faults again is retired and its work goes to another lane. -/
def Obligations.ShearsLanesMoveData : Prop :=
  ∀ (s : State) (e n l k w cr : Nat) (d : Desc) (a b : List Byte) (c1 c2 : Chip),
    let c := s.chip
    let r := RingId.sh e n
    let iid := c.ringOwner r
    let job (op : Nat) := c.laneJob e n (fun y => y.opcode = op) = some d ∧ (c.inst iid).st ≠ .resetting ∧ (c.inst iid).st ≠ .stopped
    let len := d.fld 24 4
    let ln := (c.engine e).lane l
    let v := crcOf (if d.bflag 11 then poly32 else polyC) (d.fld 16 4) a
    let pat := (List.range len).map fun i => d.bytes.getD (8 + (d.fld 16 8 + i) % 8) 0
    let both := c.readBuf iid (d.fld 8 8) len = (a, false, 0, c1) ∧ c1.readBuf iid (d.fld 16 8) a.length = (b, false, 0, c2) ∧
      a.length = b.length
    (job 1 → c.copyChunks iid (d.fld 8 8) (d.fld 16 8) len = (len, len, false, 0, c1) →
      Runs (.copy r) s ((c1.shDone e n d.idx 0 len len 0 len len).withFuse c.fuse)) ∧
    (job 2 → c.writeLines iid (d.fld 16 8) pat false (fun _ => none) = (len, c1) →
      Runs (.fill r) s ((c1.shDone e n d.idx 0 0 len 0 0 len).withFuse c.fuse)) ∧
    (job 3 → c.readBuf iid (d.fld 8 8) len = (a, false, 0, c1) → (d.bflag 12 = false ∨ v = d.fld 20 4) →
      Runs (.crc r) s ((c1.shDone e n d.idx 0 a.length 0 v a.length 0).withFuse c.fuse)) ∧
    (job 3 → c.readBuf iid (d.fld 8 8) len = (a, false, 0, c1) → d.bflag 12 = true → v ≠ d.fld 20 4 →
      Runs (.crc r) s ((c1.shDone e n d.idx 0x07 a.length 0 v a.length 0).withFuse c.fuse)) ∧
    (job 4 → both → a = b →
      Runs (.compare r) s ((c2.shDone e n d.idx 0 a.length 0 0xFFFFFFFF (2 * a.length) 0).withFuse c.fuse)) ∧
    (job 4 → both → k < a.length → k < 2 ^ 32 - 1 → (∀ i, i < k → a[i]? = b[i]?) → a[k]? ≠ b[k]? →
      Runs (.compare r) s ((c2.shDone e n d.idx 0x07 a.length 0 k (2 * a.length) 0).withFuse c.fuse)) ∧
    (e < 2 → c.regFld (uShears e) 0 0x1040 0 0 = 1 → c.held (uShears e) = false → c.unitRuns (uShears e) = true →
      c.freeLane e = some l → (c.engine e).cur = n → (c.engine e).credit = cr + 1 → n ∈ c.ringsWithWork e → c.startable r = some d →
      RunsTo (.laneDispatch e) s fun x => ((x.engine e).lane l).job = some (n, d.idx) ∧
        ((x.engine e).lane l).items = (ln.items + 1) % 2 ^ 64 ∧ (x.engine e).credit = cr ∧
        x.ring r = { c.ring r with descs := (c.ring r).descs.map fun y => if y.idx = d.idx then { y with started := true } else y }) ∧
    (ln.retired = false →
      RunsTo (.laneFault e l false) s fun x => ((x.engine e).lane l).faulted = true ∧ ((x.engine e).lane l).job = ln.job ∧
        ((x.engine e).lane l).retired = false) ∧
    (∀ j, ln.retired = false → ln.faulted = true → ln.job = some j → w ≠ l → w < 16 →
      (c.modLane e l fun y => { y with job := none, retired := true }).freeLane e = some w →
      RunsTo (.laneFault e l true) s fun x => ((x.engine e).lane l).retired = true ∧ ((x.engine e).lane l).job = none ∧
        ((x.engine e).lane w).job = some j)

/-- R315-R321, R323: a stream COMPRESS whose output fits completes OK with its counts and the check of the stream; a
stream DECOMPRESS that decodes and stays within its limits does so too; RESUME starts from the context that its area still
holds, and without one completes with BAD_DATA and CTX_INVALID. A container COMPRESS waits for its blocks to be written in
order, each block adding its length, its bytes and one to the counts. -/
def Obligations.CompressionJobsComplete : Prop :=
  ∀ (s : State) (e n : Nat) (d : Desc) (x : StreamCtx) (bs new : List Byte) (used : Nat) (c1 c2 c3 c4 : Chip),
    let c := s.chip
    let r := RingId.sh e n
    let iid := c.ringOwner r
    let live := (c.inst iid).st ≠ .resetting ∧ (c.inst iid).st ≠ .stopped
    let comp (rs : Bool) := live ∧ (if rs then c.laneJob e n (fun y => decide (y.opcode = 0x10) && y.resumes)
      else c.laneJob e n fun y => decide (y.opcode = 0x10) && !y.resumes && !y.ready) = some d
    let deco (rs : Bool) := live ∧ (if rs then c.laneJob e n (fun y => decide (y.opcode = 0x11) && y.resumes)
      else c.laneJob e n fun y => decide (y.opcode = 0x11) && !y.resumes) = some d
    let start (cmp : Bool) := d.stream = true ∧ c.openCtx iid cmp d = (some x, c1) ∧ x.poison = false ∧
      c1.readBuf iid (d.fld 8 8) (d.fld 24 4) = (bs, false, 0, c2)
    let m := encStream d.format d.level x.total (x.hist ++ bs)
    let fits := m.parts.flatten.length ≤ x.out + d.fld 28 4 ∧ new = m.parts.flatten.drop x.out
    let dec := decStream d.format (if d.format = 3 then some (d.fld 51 1) else none) (x.hist ++ bs)
    let whole := ∃ out, emitGuarded x.limit x.ratio (x.out + d.fld 28 4) dec.made [] 0 0 = (out, used, .none) ∧ dec.err = none ∧
      new = out.drop x.out
    let written := c2.writeLines iid (d.fld 16 8) new false (fun _ => none) = (new.length, c3)
    let done (took info : Nat) : Chip :=
      ((c3.dropCtx iid x.addr).shDone e n d.idx 0 took new.length info took new.length).withFuse c.fuse
    let lost : Chip := ((c1.dropCtx iid (d.fld 32 8)).shDone e n d.idx 0x05 0 0 rCtxInvalid 0 0).withFuse c.fuse
    let size := 2 ^ d.fld 49 1
    let len := min size (d.fld 24 4 - d.consumed)
    let out := containerBlock (d.format = 5) d.level ((d.fld 56 8 + d.consumed) % 2 ^ 64) bs
    (comp false → start true → fits → written → Runs (.compress r) s (done bs.length m.check)) ∧
    (comp true → start true → fits → written → Runs (.compressResume r) s (done bs.length m.check)) ∧
    (deco false → start false → whole → written → Runs (.decompress r) s (done (dec.used - x.hist.length) (dec.done x.hist.length x.out * 256))) ∧
    (deco true → d.stream = true → start false → whole → written →
      Runs (.decompressResume r) s (done (dec.used - x.hist.length) (dec.done x.hist.length x.out * 256))) ∧
    (comp true → c.openCtx iid true d = (none, c1) → Runs (.compressResume r) s lost) ∧
    (deco true → c.openCtx iid false d = (none, c1) → Runs (.decompressResume r) s lost) ∧
    (comp false → d.stream = false → Runs (.compress r) s (c.modDesc r d.idx fun y => { y with ready := true })) ∧
    (c.laneJob e n (fun y => y.ready) = some d → live → c.readBuf iid (d.fld 8 8 + d.consumed) len = (bs, false, 0, c1) →
      d.poison = false → d.produced + out.length ≤ d.fld 28 4 →
      c1.writeLines iid (d.fld 16 8 + d.produced) out false (fun _ => none) = (out.length, c2) →
      c2.writeLines iid (d.fld 40 8 + 16 * d.info)
        (leBytes (d.fld 56 8 + d.consumed) 8 ++ leBytes d.produced 4 ++ leBytes out.length 4) false (fun _ => none) = (16, c4) →
      d.fld 40 8 ≠ 0 →
      (d.consumed + len < d.fld 24 4 → c4.stopping iid = false →
        Runs (.containerBlockWrite r) s ((c4.modDesc r d.idx fun y =>
          { y with consumed := d.consumed + len, produced := d.produced + out.length, info := d.info + 1, poison := false }).withFuse c.fuse)) ∧
      (d.consumed + len = d.fld 24 4 →
        Runs (.containerBlockWrite r) s ((c4.shDone e n d.idx 0 (d.consumed + len) (d.produced + out.length) (d.info + 1)
          (d.consumed + len) (d.produced + out.length)).withFuse c.fuse)))

/-- R336, R339, R347: a drover core that executes and whose operands are there writes the result of a register instruction
in rd, moves on by 4 and spends the instruction's dvc, one more when it reads the register loaded directly before it;
nothing outside its cluster changes. The packet instructions compute as R347 says. -/
def Obligations.DroverRegisterInstructions : Prop :=
  ∀ (s : State) (d k : Nat) (r : DvReg),
    let c := s.chip
    let x := c.dvCore d k
    let a := x.getX r.rs1
    let b := x.getX r.rs2
    let fin (rd : Nat) (rs : List Nat) (v time : Nat) (e : Chip) : Prop :=
      { e with drovers := c.drovers } = c ∧ (∀ j, j ≠ k → e.dvCore d j = c.dvCore d j) ∧
      e.dvCore d k = { x.setX rd v with pc := (x.pc + 4) % 2 ^ 32, now := x.now + (time + x.useStall rs),
                                        instret := (x.instret + 1) % 2 ^ 64, ldReg := 0, waiting := false }
    let two (v time : Nat) := fin r.rd [r.rs1, r.rs2] v time
    let one (v time : Nat) := fin r.rd [r.rs1] v time
    c.dvLive d k = true → x.waiting = false → x.miss = none → x.stalled = false →
    (∀ f, RunsTo (.molMulct d k f r) s (two (dvMul f a b) 5)) ∧
    (∀ f, RunsTo (.molDivct d k f r) s (two (dvDiv f a b) 34)) ∧
    RunsTo (.molBswap d k r) s (one (leNat (leBytes a 4).reverse) 1) ∧
    RunsTo (.molCsum d k r) s (two ((a + b + (a + b) / 2 ^ 32) % 2 ^ 32) 1) ∧
    RunsTo (.molCsfold d k r) s (one (foldSum a) 1) ∧
    RunsTo (.molCrc32cB d k r) s (two (crcByte polyC a (BitVec.ofNat 8 b)) 1) ∧
    RunsTo (.molCrc32cW d k r) s (two ((leBytes b 4).foldl (crcByte polyC) a) 2) ∧
    RunsTo (.molExtr d k r) s (two (if b / 32 % 32 = 0 then a / 2 ^ (b % 32) else a / 2 ^ (b % 32) % 2 ^ (b / 32 % 32)) 1) ∧
    (∀ w f3, x.pc < 0x4000 → leNat (x.imem.read x.pc 4) = w → w % 128 = 0x33 → w / 2 ^ 25 = 0 → w / 2 ^ 12 % 8 = f3 →
      w / 2 ^ 7 % 32 = r.rd → w / 2 ^ 15 % 32 = r.rs1 → w / 2 ^ 20 % 32 = r.rs2 →
      RunsTo (.droverInstruction d k) s (two (rv32Alu f3 false a b) 1)) ∧
    (∀ w, x.pc < 0x4000 → leNat (x.imem.read x.pc 4) = w → w % 128 = 0x37 → w / 2 ^ 7 % 32 = r.rd →
      RunsTo (.droverInstruction d k) s (fin r.rd [] (w / 4096 * 4096) 1))

/-- R337, R339, R342-R345, R347: an aligned load or store of a core reaches its LDM at once; a load that misses the cluster
cache takes its slot once the store queue is empty and waits for its fill, which writes the register; a store enters the
store queue, waiting while all four entries are taken, drains into the write queue, closing the core's other entries, and
leaves as one entry; a misaligned access, or one outside LDM and the apertures, halts. The prefetch and cache instructions
act on their line. -/
def Obligations.DroverMemoryAccesses : Prop :=
  ∀ (s : State) (d k n iova pa : Nat) (wr : Bool) (op : DvMem) (r : DvReg) (m : DvMiss) (w : DvWq) (c1 : Chip)
    (bs : List Byte) (rest : List (Nat × Nat × List Byte)),
    let c := s.chip
    let x := c.dvCore d k
    let y := c.drover d
    let a := (((x.getX op.rs1 : Int) + op.imm) % 2 ^ 32).toNat
    let la := x.getX r.rs1
    let next (z : DvCore) (time ld : Nat) : DvCore :=
      { z with pc := (x.pc + 4) % 2 ^ 32, now := x.now + time, instret := (x.instret + 1) % 2 ^ 64, ldReg := ld, waiting := false }
    let ready := c.dvLive d k = true ∧ x.waiting = false ∧ x.miss = none ∧ x.stalled = false
    let there := c.dvAddr d k la = .aperture iova wr ∧ c.dvTranslate d k iova false = (.pa pa, c1)
    let gone (e : Chip) : Prop := (∀ j ∈ (e.drover d).cache, j.2.line ≠ pa / 64) ∧ ∀ j ∈ (e.drover d).pfb, j.line ≠ pa / 64
    let after (e : Chip) (time : Nat) : Chip := (e.dvRetire d k (time + x.useStall [r.rs1]) (x.pc + 4) 0).withFuse c.fuse
    let slot := slotWait k (x.now + x.useStall [r.rs1]) la
    let since := x.loadFrom (x.now + x.useStall [op.rs1])
    let queued := x.enters k (x.now + x.useStall [op.rs1, op.reg]) a
    (ready → a % op.size = 0 → 0x10000000 ≤ a → a < 0x10002000 →
      RunsTo (.droverApertureLoad d k op) s (fun e => e.dvCore d k =
        next (x.setX op.reg (dvValue (x.ldm.read (a - 0x10000000) op.size) op.signed)) (1 + x.useStall [op.rs1]) op.reg) ∧
      RunsTo (.droverApertureStore d k op) s (fun e => e.dvCore d k =
        next { x with ldm := x.ldm.write (a - 0x10000000) (leBytes (x.getX op.reg) op.size) } (1 + x.useStall [op.rs1, op.reg]) 0)) ∧
    (ready → a % op.size ≠ 0 →
      RunsTo (.droverApertureLoad d k op) s (fun z => (z.dvCore d k).halted = true ∧ (z.dvCore d k).cause = 3 ∧ (z.dvCore d k).pc = x.pc) ∧
      RunsTo (.droverApertureStore d k op) s (fun z => (z.dvCore d k).halted = true ∧ (z.dvCore d k).cause = 3 ∧ (z.dvCore d k).pc = x.pc)) ∧
    (ready → a % op.size = 0 → c.dvAddr d k a = .aperture iova wr → x.sq = [] → c.dvTranslate d k iova false = (.pa pa, c1) →
      c1.dvHit d k (pa / 64) = none →
      Runs (.droverApertureLoad d k op) s (((c1.modDvCore d k fun z =>
          { z with miss := some { reg := op.reg, pa := pa, size := op.size, signed := op.signed } }).dvRetire d k
        (4 + slotWait k since a + (since - x.now)) (x.pc + 4) 0).withFuse c.fuse)) ∧
    (ready → a % op.size = 0 → c.dvAddr d k a = .aperture iova true → x.sq.length < 4 → c.dvTranslate d k iova true = (.pa pa, c1) →
      Runs (.droverApertureStore d k op) s (((c1.modDvCore d k fun z =>
          { z with sq := z.sq ++ [(pa, iova, leBytes (x.getX op.reg) op.size)], drains := queued.2 }).dvRetire d k
        (1 + x.useStall [op.rs1, op.reg] + queued.1) (x.pc + 4) 0).withFuse c.fuse)) ∧
    (x.miss = some m → m.reg ≠ 0 → (∀ e ∈ y.wq, e.line ≠ m.pa / 64) → y.line (m.pa / 64) = none →
      c.busRead (64 * (m.pa / 64)) 64 = (.ok bs false, c1) →
      RunsTo (.droverFill d k) s fun e => (e.dvCore d k).miss = none ∧ (e.dvCore d k).getX m.reg =
        dvValue (((lineBytes (lineOf bs)).drop (m.pa % 64)).take m.size) m.signed % 2 ^ 32) ∧
    (x.sq = (pa, iova, bs) :: rest → y.wq.length < 64 → (∀ e ∈ y.wq, e.core = k → e.line = pa / 64 → e.closed = true) →
      RunsTo (.storeQueueDrain d k) s fun e => (e.dvCore d k).sq = rest ∧
        (e.drover d).wq = (y.wq.map fun v => if v.core = k ∧ v.closed = false then { v with closed := true } else v) ++
          [{ core := k, line := pa / 64, iova := iova / 64 * 64, data := lineOf bs <<< (8 * (pa % 64)),
             mask := byteMask (pa % 64) bs.length, opened := y.t }]) ∧
    (y.wq[n]? = some w → w.closed = true ∨ w.opened + 32 ≤ y.t →
      RunsTo (.writeQueueSend d n) s fun e => (e.drover d).wq = y.wq.eraseIdx n) ∧
    (ready → there → (c1.drover d).line (pa / 64) = none → (∀ e ∈ (c1.drover d).pfb, e.line ≠ pa / 64) → (c1.drover d).pfb.length < 8 →
      Runs (.molDpf d k r) s (after (c1.modDrover d fun z => { z with pfb := z.pfb ++ [{ line := pa / 64, data := none }] }) 1)) ∧
    (ready → there → c1.dvWrites d k (pa / 64) = false → Runs (.molDcClean d k r) s (after c1 (4 + slot))) ∧
    (ready → there → RunsTo (.molDcInval d k r) s gone) ∧
    (ready → there → c1.dvWrites d k (pa / 64) = false → RunsTo (.molDcFlush d k r) s gone)

/-- R342, R348, R349, R352: mol.dget moves the oldest descriptor of the inbox into LDM and names its ring, and returns 0
when there is none; mol.dwait waits for one; mol.cmpl completes the ring's oldest taken descriptor with the record in LDM. A
halt keeps the pc and shows in DV_HALTED; RUN starts the core at pc 0 with its registers 0, and stops it with its inbox given
up; DV_CTL.EN restarts T. Maintenance runs until no visited line has a queued write, and INVAL drops its lines. -/
def Obligations.DroverControlAndInbox : Prop :=
  ∀ (s : State) (src : Src) (d k n idx cause : Nat) (r : DvReg) (e : Desc) (rest : List (Nat × Nat)) (pos : MaintPos) (mt : MaintSt),
    let c := s.chip
    let u := uDrover d
    let x := c.dvCore d k
    let y := c.drover d
    let a := x.getX r.rs1
    let ready := c.dvLive d k = true ∧ x.waiting = false ∧ x.miss = none ∧ x.stalled = false
    let ldm (n : Nat) := a % n = 0 ∧ 0x10000000 ≤ a ∧ a + n ≤ 0x10002000
    let sel := c.put32 src u 0x1054 (k + 2 ^ 8 * fld (c.reg u 0 0x1054) 13 8)
    let maint (op : Nat) := c.takes src u 0x1050 (BitVec.ofNat 32 (maintWord op pos)) = true ∧ pos.way < 16 ∧ pos.set < 256
    let busy (op : Nat) (z : Chip) : Prop := (z.drover d).maint = some { op := op, pos := pos }
    let rq := x.getX r.rs2 % 64
    let rec16 := x.ldm.read (a - 0x10000000) 16
    d < 2 → k < 32 →
    (ready → ldm 32 → x.inbox = (n, idx) :: rest → ((c.ring (.dv d n)).descs.find? fun v => v.idx = idx) = some e → r.rd ≠ 0 →
      RunsTo (.molDget d k r) s fun z => (z.dvCore d k).inbox = rest ∧ (z.dvCore d k).ldm = x.ldm.write (a - 0x10000000) e.bytes ∧
        (z.dvCore d k).getX r.rd = (0x80000000 + idx % 65536 * 256 + n) % 2 ^ 32 ∧
        z.ring (.dv d n) = { c.ring (.dv d n) with descs := (c.ring (.dv d n)).descs.map fun v => if v.idx = idx then { v with taken := true } else v }) ∧
    (ready → ldm 32 → x.inbox = [] → RunsTo (.molDget d k r) s fun z => (z.dvCore d k).getX r.rd = 0 ∧ (z.dvCore d k).pc = (x.pc + 4) % 2 ^ 32) ∧
    (c.dvLive d k = true → x.stalled = false → x.inbox = [] → RunsTo (.molDwait d k r) s fun z => z.dvCore d k = { x with waiting := true }) ∧
    (c.dvLive d k = true → x.inbox ≠ [] → RunsTo (.molDwait d k r) s fun z => (z.dvCore d k).pc = (x.pc + 4) % 2 ^ 32 ∧
      (z.dvCore d k).waiting = false ∧ (z.dvCore d k).inbox = x.inbox) ∧
    (ready → ldm 16 → c.regFld u rq 0x1060 20 16 = k → ((c.ring (.dv d rq)).descs.find? fun v => v.taken && v.fin.isNone) = some e →
      bsNat rec16 0 1 ≤ 0x0E → c.dvQuiet d k = true → c.dvPendingRecs d k < 4 →
      RunsTo (.molCmpl d k r) s fun z => (z.dvCore d k).pc = (x.pc + 4) % 2 ^ 32 ∧
        z.ring (.dv d rq) = { c.ring (.dv d rq) with descs := (c.ring (.dv d rq)).descs.map fun v => if v.idx = e.idx then
          { v with fin := some (bsNat rec16 0 1), consumed := bsNat rec16 4 4, produced := bsNat rec16 8 4, info := bsNat rec16 12 4 } else v }) ∧
    (c.dvLive d k = true → x.waiting = false →
      RunsTo (.droverHalt d k cause) s fun z => (z.dvCore d k).halted = true ∧ (z.dvCore d k).cause = cause ∧ (z.dvCore d k).pc = x.pc ∧
        (z.dvCore d k).run = true) ∧
    (sel.bankOf u 0x1058 = k → sel.takes src u 0x1058 1 = true → (sel.dvCore d k).run = false →
      RunsTo (.droverRun src d k) s fun z => (z.dvCore d k).run = true ∧ (z.dvCore d k).halted = false ∧ (z.dvCore d k).pc = 0 ∧
        (z.dvCore d k).x = [] ∧ (z.dvCore d k).instret = 0 ∧ (z.dvCore d k).ldm = (sel.dvCore d k).ldm) ∧
    (sel.bankOf u 0x1058 = k → sel.takes src u 0x1058 0 = true → (sel.dvCore d k).run = true →
      RunsTo (.droverStop src d k) s fun z => (z.dvCore d k).run = false ∧ (z.dvCore d k).inbox = [] ∧ (z.dvCore d k).miss = none ∧
        (z.dvCore d k).pc = (sel.dvCore d k).pc) ∧
    (c.regFld u 0 0x1040 0 0 = 0 → c.takes src u 0x1040 (c.reg u 0 0x1040 ||| 1#32) = true →
      RunsTo (.droverClusterEnable src d) s fun z => z.regFld u 0 0x1040 0 0 = 1 ∧ (z.drover d).t = 0 ∧ (z.drover d).cache = y.cache) ∧
    (maint 1 → RunsTo (.dvMaintClean src d pos) s fun z => busy 1 z ∧ (z.drover d).cache = y.cache) ∧
    (maint 2 → RunsTo (.dvMaintInval src d pos) s fun z => busy 2 z ∧ (z.drover d).cache = y.cache.filter fun v => !visits pos v.1 16) ∧
    (maint 3 → RunsTo (.dvMaintCleanInval src d pos) s fun z => busy 3 z ∧ (z.drover d).cache = y.cache) ∧
    (y.maint = some mt → mt.op = 3 → y.wq = [] →
      RunsTo (.maintDone u) s fun z => (z.drover d).maint = none ∧ (z.drover d).cache = y.cache.filter fun v => !visits mt.pos v.1 16)

/-- R366, R368, R371, R383: an inbound request that no enabled window of its sub-link matches sets UR_SENT and changes no
memory, and a read is answered with Unsupported Request; a PEER window sends it on, its address mapped; an IN_DMA window
gives an IOVA, and the translated page takes the bytes of a write, gives those of a read, or records the identity of an MSI; an
MSI to an address that no memory and no interrupt file has sets UR_SENT and changes no other state (R44). -/
def Obligations.InboundRequestsFollowWindows : Prop :=
  ∀ (s : State) (t : Tlp) (w : Window) (pa : Nat) (c1 c2 : Chip) (bs : List Byte) (q : Bool),
    let c := s.chip
    let p := t.port
    let urSent (d : Chip) : Prop := (d.reg (uPx p) 0 0x1054).getLsbD 3 = true
    let a := w.map t.addr
    let open_ (i n : Nat) (d : Chip) : Prop := ((d.px i).subAt n).up = true ∧ ((d.px i).subAt n).l1 = 0
    p < 4 → c.arrives t = true →
    (c.inWindow p t.sub t.addr = none →
      RunsTo (.inboundMemoryWrite t) s (fun d => urSent d ∧ d.mem = c.mem ∧ (d.px p).sent = (c.px p).sent) ∧
      RunsTo (.msiWrite t) s (fun d => urSent d ∧ d.imsic = c.imsic ∧ d.mem = c.mem) ∧
      (open_ p t.sub c → RunsTo (.inboundMemoryRead t) s fun d => urSent d ∧ d.mem = c.mem ∧
        (d.px p).sent = (c.px p).sent ++ [{ sub := t.sub, kind := .unsupported, addr := t.addr, rid := t.rid }])) ∧
    (c.inWindow p t.sub t.addr = some w → w.type = .peer → open_ w.pport w.psub c → t.ep = false →
      RunsTo (.inboundMemoryWrite t) s (fun d => d.mem = c.mem ∧ (d.px w.pport).sent = (c.px w.pport).sent ++
        [{ sub := w.psub, kind := .memWrite, addr := a, bytes := t.bytes, rid := t.rid, pasid := t.pasid }]) ∧
      (∀ tag, (c.px w.pport).freeTag w.psub = some tag →
        RunsTo (.inboundMemoryRead t) s fun d => d.mem = c.mem ∧ (d.px w.pport).sent = (c.px w.pport).sent ++
            [{ sub := w.psub, kind := .memRead, addr := a, len := t.len, rid := t.rid, pasid := t.pasid, tag := tag }] ∧
          (d.px w.pport).np = (c.px w.pport).np ++ [{ sub := w.psub, tag := tag, who := .peer p t.sub t.rid 0, len := t.len }])) ∧
    (c.inWindow p t.sub t.addr = some w → w.type = .inDma → c.ioTranslate p (deviceId p t.rid) t.pasid a true = (none, c1) →
      t.ep = false → t.bytes ≠ [] →
      RunsTo (.inboundMemoryWrite t) s (fun d => urSent d ∧ d.mem = c1.mem) ∧ RunsTo (.msiWrite t) s fun d => urSent d ∧ d.mem = c1.mem) ∧
    (c.inWindow p t.sub t.addr = some w → w.type = .inDma → c.ioTranslate p (deviceId p t.rid) t.pasid a true = (some pa, c1) →
      t.ep = false →
      (t.bytes ≠ [] → a % 4096 + t.bytes.length ≤ 4096 → c1.region pa = .memory →
        c1.physWrite pa t.bytes false 0 (fun _ => none) = some c2 → Runs (.inboundMemoryWrite t) s (c2.withFuse c.fuse)) ∧
      (c1.region pa = .imsic → pa % 4096 = 0 →
        (t.bytes ≠ [] → a % 4096 + t.bytes.length ≤ 4096 →
          Runs (.inboundMemoryWrite t) s ((c1.msiDeliver pa (leNat (t.bytes.take 4))).withFuse c.fuse)) ∧
        Runs (.msiWrite t) s ((c1.msiDeliver pa (leNat (t.bytes.take 4))).withFuse c.fuse)) ∧
      (c1.region pa ≠ .imsic → c1.region pa ≠ .memory →
        RunsTo (.msiWrite t) s fun d => urSent d ∧ d.imsic = c1.imsic ∧ d.msiDrops = c1.msiDrops ∧ d.mem = c1.mem)) ∧
    (c.inWindow p t.sub t.addr = some w → w.type = .inDma → c.ioTranslate p (deviceId p t.rid) t.pasid a false = (some pa, c1) →
      0 < t.len → a % 4096 + t.len ≤ 4096 → c1.busRead pa t.len = (.ok bs q, c2) →
      Runs (.inboundMemoryRead t) s ((c2.pxPut p
        { sub := t.sub, kind := .cpl, addr := t.addr, bytes := bs, len := t.len, rid := t.rid, ep := q }).withFuse c.fuse))

/-- R366, R367, R371-R374: an access that a port takes leaves through the outbound window that matches, and is answered: a
posted write at once, a read by the completion that carries its tag, poisoned or not; with an access error where no window
matches, the link is down or the request expires. An expiry sets CTO, is logged, and its tag is quarantined; a completion
without a request sets UNEXP_CPL and is counted. -/
def Obligations.OutboundRequestsComplete : Prop :=
  ∀ (s : State) (port tag : Nat) (m : Msg) (w : Window) (r : NpReq) (bs : List Byte) (ep ok : Bool),
    let c := s.chip
    let pa := m.line * 64 + m.off
    let x := c.px port
    let sub := w.sub
    let cmp (err : Bool) : Msg := { kind := .cmp, src := .unit (uPx port), dst := m.src, line := m.line, off := m.off, size := m.size, err := err }
    let data (b : List Byte) (poison : Bool) : Msg :=
      { kind := .data, src := .unit (uPx port), dst := m.src, line := m.line, off := m.off, size := m.size, data := lineOf b <<< (8 * m.off), poison := poison }
    let here := m.dst = .unit (uPx port) ∧ c.unitRuns (uPx port) = true
    let live := (x.subAt sub).up = true ∧ (x.subAt sub).l1 = 0
    let put (t : TlpOut) (l : List Msg) (d : Chip) : Prop := (d.px port).sent = x.sent ++ [t] ∧ c.answers d m l ∧ d.mem = c.mem
    let told (y : Msg) (d : Chip) : Prop := d.mesh = c.mesh ++ [{ y with birth := c.mt / 32 }] ∧ (d.px port).np = x.np.erase r
    let expired (d : Chip) : Prop := told (cmp true) d ∧ (d.px port).quar = x.quar ++ [(r.sub, tag)] ∧
      (d.reg (uPx port) 0 0x1054).getLsbD 0 = true ∧ ((d.px port).subAt r.sub).cto = min (2 ^ 32 - 1) ((x.subAt r.sub).cto + 1)
    port < 4 →
    (here → c.outWindow port pa = none → (m.kind = .ncRd ∨ m.kind = .ncWr) →
      RunsTo (.outboundRequest port m) s fun d => c.answers d m [cmp true] ∧ d.pxs = c.pxs) ∧
    (here → c.outWindow port pa = some w → w.type = .outMem →
      (m.kind = .ncWr → live → RunsTo (.outboundRequest port m) s
        (put { sub := sub, kind := .memWrite, addr := w.map pa, bytes := msgPayload m, ep := m.poison } [cmp false])) ∧
      (m.kind = .ncRd → live → x.freeTag sub = some tag → RunsTo (.outboundRequest port m) s fun d =>
        put { sub := sub, kind := .memRead, addr := w.map pa, len := m.size, tag := tag } [] d ∧
        (d.px port).np = x.np ++ [{ sub := sub, tag := tag, who := .mesh m, len := m.size }]) ∧
      (m.kind = .ncRd → (x.subAt sub).up = false → RunsTo (.outboundRequest port m) s fun d => c.answers d m [cmp true] ∧ d.pxs = c.pxs)) ∧
    (here → c.outWindow port pa = some w → w.type = .outCfg → (pa - w.base) / 2 ^ 20 % 256 = w.xlat % 256 →
      (pa - w.base) / 2 ^ 15 % 32 ≠ 0 →
      (m.kind = .ncRd → RunsTo (.outboundRequest port m) s fun d => c.answers d m [data (List.replicate m.size 0xFF) false] ∧ d.pxs = c.pxs) ∧
      (m.kind = .ncWr → RunsTo (.outboundRequest port m) s fun d => c.answers d m [cmp false] ∧ d.pxs = c.pxs)) ∧
    ((x.np.find? fun q => decide (q.sub = r.sub ∧ q.tag = tag)) = some r → r.who = .mesh m →
      c.unitRuns (uPx port) = true → (x.subAt r.sub).up = true →
      (m.kind = .ncRd → RunsTo (.inboundCompletion port r.sub tag bs ep true) s (told (data bs ep))) ∧
      (m.kind = .ncWr → RunsTo (.inboundCompletion port r.sub tag bs ep true) s (told (cmp false))) ∧
      (m.kind = .ncRd ∨ m.kind = .ncWr → RunsTo (.inboundCompletion port r.sub tag bs true false) s (told (cmp true)))) ∧
    ((∀ q ∈ x.np, ¬ (q.sub = sub ∧ q.tag = tag)) → c.unitRuns (uPx port) = true → (x.subAt sub).up = true →
      RunsTo (.inboundCompletion port sub tag bs ep ok) s fun d => (d.reg (uPx port) 0 0x1054).getLsbD 1 = true ∧
        ((d.px port).subAt sub).unexp = min (2 ^ 32 - 1) ((x.subAt sub).unexp + 1) ∧ (d.px port).np = x.np ∧ d.mesh = c.mesh) ∧
    ((x.np.find? fun q => decide (q.sub = r.sub ∧ q.tag = tag)) = some r → r.who = .mesh m → (m.kind = .ncRd ∨ m.kind = .ncWr) →
      RunsTo (.completionTimeout port r.sub tag) s expired ∧
      (¬ (port = 0 ∧ c.endpoint = true) → (x.np.filter fun q => decide (q.sub = r.sub)) = [r] → (x.subAt r.sub).up = true → r.sub < 4 →
        RunsTo (.sublinkDown port r.sub) s fun d => expired d ∧ ((d.px port).subAt r.sub).up = false ∧
          ((d.px port).subAt r.sub).waiting = [] ∧ (d.reg (uPx port) 0 0x1054).getLsbD 4 = true)) ∧
    RunsTo (.tagQuarantineEnd port sub tag) s fun d => (sub, tag) ∉ (d.px port).quar ∧ (d.px port).np = x.np ∧
      ∀ e, e ≠ (sub, tag) → (e ∈ (d.px port).quar ↔ e ∈ x.quar)

/-- R361, R362, R368, R369, R374-R376, R387, R504: a commit makes the shadow of the window that it names active; EN releases
the PERST lands, training brings a sub-link up with its width and speed and its waiting TLPs leave; L1 is entered when it is
enabled and nothing is outstanding, and ended for a TLP; CXL reads 1 once CXL.mem is active; a sub-link that goes down shows
so, and in the ENDPOINT role every function on PX0 is reset. -/
def Obligations.LinksTrainAndSleep : Prop :=
  ∀ (s : State) (src : Src) (port sub width speed level cap : Nat) (v : Word) (r : RegDef),
    let c := s.chip
    let u := uPx port
    let x := c.px port
    let y := x.subAt sub
    let lanes := (c.sublinks port).getD sub 0
    let bits (d : Chip) (hi lo : Nat) : Nat := d.regFld u 0 0x1048 hi lo
    port < 4 → sub < 4 →
    (regAt (kindOf u) 0x107C = some r → c.opens src u = true → (c.pairCommit src u (c.bankOf u 0x107C) 0x107C r v).1 = none →
      RunsTo (.windowCommit src port v) s fun d =>
        (d.px port).wins = Sparse.put x.wins (fld (~~~ v) 3 0) (c.shadow port (fld (~~~ v) 3 0)) ∧ (d.px port).subs = x.subs) ∧
    (c.takes src u 0x1044 (c.reg u 0 0x1044 ||| 1) = true → c.regFld u 0 0x1044 1 0 = 0 → sub < (c.sublinks port).length →
      RunsTo (.linkEnable src port) s fun d => d.regFld u 0 0x1044 0 0 = 1 ∧ 4 * port + sub ∈ d.pwr.perstUp) ∧
    (c.takes src u 0x1044 (c.reg u 0 0x1044 ||| 2) = true → sub < (c.sublinks port).length →
      RunsTo (.retrain src port) s fun d => ((d.px port).subAt sub).l1 = 0 ∧ ((d.px port).subAt sub).up = y.up) ∧
    (c.unitRuns u = true → c.regFld u 0 0x1044 0 0 = 1 → 0 < width → width ≤ lanes → speed ≤ c.regFld u 0 0x1040 5 3 →
      ¬ (port = 0 ∧ c.endpoint = true ∧ c.pwr.perst0 = true) → speed < 8 → width < 32 →
      RunsTo (.sublinkUp port sub width speed) s fun d =>
        (d.px port).subAt sub = { y with up := true, width := width, speed := speed, l1 := 0, waiting := [] } ∧
        (d.px port).sent = x.sent ++ y.waiting ∧ bits d sub sub = 1 ∧ (sub = 0 → bits d 7 5 = speed ∧ bits d 12 8 = width)) ∧
    (¬ (port = 0 ∧ c.endpoint = true) → y.up = true → (∀ q ∈ x.np, q.sub ≠ sub) →
      RunsTo (.sublinkDown port sub) s fun d => ((d.px port).subAt sub).up = false ∧ ((d.px port).subAt sub).waiting = [] ∧
        ((d.px port).subAt sub).discard = min (2 ^ 32 - 1) (y.discard + y.waiting.length) ∧ bits d sub sub = 0 ∧
        (d.reg u 0 0x1054).getLsbD 4 = true ∧ (d.px port).np = x.np) ∧
    (y.up = true → fld (c.reg u 0 0x1050) 8 8 = 1 → y.waiting = [] → (∀ q ∈ x.np, q.sub ≠ sub) →
      ¬ (sub = 0 ∧ bits c 4 4 = 1 ∧ c.setNames port = true) →
      (level = 1 → y.l1 = 0 → RunsTo (.l1Entry port sub level) s fun d => ((d.px port).subAt sub).l1 = 1 ∧
        ((d.px port).subAt sub).l1Count = min (2 ^ 32 - 1) (y.l1Count + 1) ∧ (sub = 0 → bits d 13 13 = 1)) ∧
      ((level = 2 ∧ fld (c.reg u 0 0x1050) 9 9 = 1 ∨ level = 3 ∧ fld (c.reg u 0 0x1050) 10 10 = 1) → y.l1 = 1 →
        RunsTo (.l1Entry port sub level) s fun d => ((d.px port).subAt sub).l1 = level)) ∧
    (y.l1 ≠ 0 → RunsTo (.l1Exit port sub) s fun d => (d.px port).subAt sub = { y with l1 := 0, waiting := [] } ∧
      (d.px port).sent = x.sent ++ y.waiting ∧ (sub = 0 → bits d 13 13 = 0)) ∧
    (c.cxlUp port = true → c.regFld u 0 0x1040 6 6 = 1 → ¬ (port = 0 ∧ c.endpoint = true) → 8 ≤ (c.sublinks port).getD 0 0 →
      RunsTo (.cxlMemoryActive port cap) s fun d => bits d 4 4 = 1 ∧ (d.px port).cap = cap) ∧
    (c.endpoint = true → Runs .endpointLinkReset s (((c.linkDown 0 0).flr 0).withFuse c.fuse) ∧
      (((c.px 0).subAt 0).up = true → Runs (.sublinkDown 0 0) s (((c.linkDown 0 0).flr 0).withFuse c.fuse))) ∧
    Runs .perst0NDeassert s { c with pwr := { c.pwr with perst0 := false } }

/-- R394, R400-R402, R404, R408, R409, R412, R413: a write of IM_CMD runs its OP on the instance that IM_SEL names: CREATE
gives it the shadow resources when CREATE's checks pass; DESTROY and RESET begin its reset; FREEZE stops its fetch and
returns what has not started; UNFREEZE puts it back in service; the DIRTY commands start, switch and end its tracking. A
command in a state that the table does not allow, and every command on IID 0, answers BAD_STATE and has no effect. -/
def Obligations.InstanceCommandsAct : Prop :=
  ∀ (s : State) (src : Src),
    let c := s.chip
    let iid := c.regFld uIm 0 0x1040 15 0
    let x := c.inst iid
    let ok (op : Nat) := c.takes src uIm 0x1044 (BitVec.ofNat 32 (0x100 + op)) = true
    let states (op : Nat) : List InstState := [[], [.absent], [.active, .frozen, .stopped], [.active, .frozen, .stopped], [.active],
      [.frozen], [.frozen], [.frozen], [.active, .freezing, .frozen]].getD op []
    let allowed (op : Nat) : Prop := iid ≠ 0 ∧ if op < 9 then x.st ∈ states op else x.dirty.isSome = true
    let rows : List (Nat × Instr) := [(1, .create src), (2, .destroy src), (3, .reset src), (4, .freeze src), (5, .save src),
      (6, .restore src), (7, .unfreeze src), (8, .dirtyStart src), (9, .dirtySwap src), (10, .dirtyStop src)]
    let ends (d : Chip) (r : Nat) : Prop := d.imResult = r ∧ d.imBusy = none
    let only (d : Chip) (y : Inst) : Prop := d.inst iid = y ∧ (∀ i, i ≠ iid → d.inst i = c.inst i) ∧
      { d with ctl := c.ctl, insts := c.insts, imResult := c.imResult, imBusy := c.imBusy } = c
    let gone (d : Chip) (op : Nat) (g : Bool) : Prop := (d.inst iid).st = .resetting ∧ (d.inst iid).gone = g ∧
      d.imBusy = some (iid, op) ∧ (∀ e ∈ d.flow.ents, e.2.owner ≠ iid) ∧ d.mem = c.mem
    let bits : Dirty := { buf := c.imBuf, base := (c.reg uIm 0 0x1070).toNat + 2 ^ 32 * (c.reg uIm 0 0x1074).toNat,
                          pages := (c.reg uIm 0 0x1078).toNat }
    (∀ e ∈ rows, ok e.1 → ¬ allowed e.1 → RunsTo e.2 s fun d => d.imResult = 1 ∧ { d with ctl := c.ctl, imResult := c.imResult } = c) ∧
    (ok 1 → allowed 1 → c.createCheck iid = 0 → RunsTo (.create src) s fun d => ends d 0 ∧ (d.inst iid).st = .active ∧
      (∀ k, k < 10 → (c.shadowRange iid k).2 ≠ 0 → (d.inst iid).range k = c.shadowRange iid k) ∧
      (d.inst iid).quota = (c.reg uIm iid 0x105C).toNat ∧ ∀ i, i ≠ iid → d.inst i = c.inst i) ∧
    (ok 1 → allowed 1 → c.createCheck iid ≠ 0 → RunsTo (.create src) s fun d => ends d (c.createCheck iid) ∧ d.insts = c.insts) ∧
    (ok 2 → allowed 2 → RunsTo (.destroy src) s fun d => gone d 2 true) ∧
    (ok 3 → allowed 3 → RunsTo (.reset src) s fun d => gone d 3 false) ∧
    (ok 4 → allowed 4 → RunsTo (.freeze src) s fun d => (d.inst iid).st = .freezing ∧ d.imBusy = some (iid, 4) ∧
      (∀ r ∈ c.ringsOf iid, d.ring r = (c.ring r).freeze) ∧ d.flow.ents = c.flow.ents) ∧
    (ok 5 → allowed 5 → c.imBufLen < 64 + (c.blobSections iid).flatten.length →
      RunsTo (.save src) s fun d => ends d 4 ∧ d.insts = c.insts ∧ d.mem = c.mem) ∧
    (ok 7 → allowed 7 → RunsTo (.unfreeze src) s fun d => ends d 0 ∧ only d { x with st := .active }) ∧
    (ok 8 → allowed 8 → bits.pages ≤ 8 * c.imBufLen → RunsTo (.dirtyStart src) s fun d => ends d 0 ∧ only d { x with dirty := some bits }) ∧
    (∀ b, ok 9 → allowed 9 → x.dirty = some b → b.pages ≤ 8 * c.imBufLen →
      RunsTo (.dirtySwap src) s fun d => ends d 0 ∧ only d { x with dirty := some { b with buf := c.imBuf } }) ∧
    (ok 10 → allowed 10 → RunsTo (.dirtyStop src) s fun d => ends d 0 ∧ only d { x with dirty := none })

/-- R409-R411: SAVE writes the sections of the blob, then its header, at IM_BUF; RESTORE checks magic, version, size and CRC
before it changes any state, answers MISMATCH for other counts, and then loads the ring state, local numbers made global, and
purges the flow entries of the instance. -/
def Obligations.StateBlobsMoveAnInstance : Prop :=
  ∀ (s : State) (src : Src) (r5 r6 : RegDef) (h b body : List Byte) (p : Bool) (c1 c2 : Chip) (secs : List (Nat × List (List Byte))) (g : List Byte),
    let c := s.chip
    let iid := c.regFld uIm 0 0x1040 15 0
    let x := c.inst iid
    let at_ (op : Nat) (r : RegDef) : Chip := c.regStore src uIm 0x1044 r (BitVec.ofNat 32 (0x100 + op))
    let ready (op : Nat) (r : RegDef) := c.takes src uIm 0x1044 (BitVec.ofNat 32 (0x100 + op)) = true ∧
      regAt .instMgmt 0x1044 = some r ∧ iid ≠ 0 ∧ x.st = .frozen
    let ends (d : Chip) (n : Nat) : Prop := d.imResult = n ∧ d.imBusy = none
    let same (d e : Chip) : Prop := d.insts = e.insts ∧ d.rings = e.rings ∧ d.flow = e.flow ∧ d.limiters = e.limiters ∧ d.drovers = e.drovers
    let headOk := bsNat h 0 4 = 0x42534D41 ∧ bsNat h 4 2 = 1 ∧ 64 ≤ bsNat h 8 4 ∧ bsNat h 8 4 ≤ c.imBufLen
    let crcOk := bsNat h 12 4 = crcOf polyC 0 (h.take 12 ++ zeros 4 ++ h.drop 16 ++ body)
    let counts := bsNat h 6 1 = blobKind iid ∧ (∀ k, k < 10 → bsNat h (20 + 2 * k) 2 = (x.range k).2) ∧ bsNat h 40 4 = x.quota
    let reads := ready 6 r6 ∧ (at_ 6 r6).instRead 0 c.imBuf 64 = (.ok h false, c1)
    let rest := reads ∧ headOk ∧ c1.instRead 0 (c.imBuf + 64) (bsNat h 8 4 - 64) = (.ok body p, c2)
    (ready 5 r5 → c.blob iid = (h, b) → 64 + b.length ≤ c.imBufLen → (at_ 5 r5).instWrite 0 (c.imBuf + 64) b = (true, c1) →
      c1.instWrite 0 c.imBuf h = (true, c2) →
      Runs (.save src) s (({ c2 with imResult := 0, imBusy := none } : Chip).withFuse c.fuse)) ∧
    (reads → ¬ headOk → RunsTo (.restore src) s fun d => ends d 5 ∧ same d c1) ∧
    (rest → p = true → RunsTo (.restore src) s fun d => ends d 7 ∧ same d c2) ∧
    (rest → p = false → ¬ crcOk → RunsTo (.restore src) s fun d => ends d 5 ∧ same d c2) ∧
    (rest → p = false → crcOk → blobParse (bsNat h 16 2) body = some secs → ¬ counts →
      c1.insts = c.insts → c2.insts = c.insts → RunsTo (.restore src) s fun d => ends d 6 ∧ same d c2) ∧
    (rest → p = false → crcOk → blobParse (bsNat h 16 2) body = some [(1, [g])] → counts → c1.insts = c.insts → c2.insts = c.insts →
      bsNat g 0 1 = 0 → bsNat g 2 2 < (x.range 0).2 → (x.range 0).1 + bsNat g 2 2 < 8192 →
      RunsTo (.restore src) s fun d => ends d 0 ∧ (∀ e ∈ d.flow.ents, e.2.owner ≠ iid) ∧
        d.ring (.rx ((x.range 0).1 + bsNat g 2 2)) =
          { en := decide (bsNat g 1 1 = 1), quiesced := decide (bsNat g 1 1 = 0), acc := bsNat g 24 4, ci := bsNat g 28 4,
            wi := bsNat g 32 4, head := bsNat g 36 4 })

/-- R374, R403-R405, R408: FROZEN is reached when nothing of the instance is in progress; instance reset begins for every
instance that an FLR or a cleared VF Enable covers; Shears work is cut; a reset that ends leaves the instance's rings at
reset, and the instance ACTIVE, STOPPED or ABSENT. Bus Master Enable from 1 to 0 stops the instances that it covers, keeps
their registers, and holds their records; from 0 to 1 it returns them to service. -/
def Obligations.InstanceResetsAndStops : Prop :=
  ∀ (s : State) (iid f : Nat),
    let c := s.chip
    let x := c.inst iid
    let serves (i : Nat) := (c.inst i).st ≠ .absent ∧ (c.inst i).st ≠ .resetting
    let listed (i : Nat) := (Sparse.find c.insts i).isSome = true
    let running (i : Nat) := (c.inst i).st = .active ∨ (c.inst i).st = .freezing ∨ (c.inst i).st = .frozen
    let began (i : Nat) (d : Chip) : Prop := (d.inst i).st = .resetting ∧ ∀ e ∈ d.flow.ents, e.2.owner ≠ i
    (x.st = .freezing → c.laneBusyFor iid = false →
      (∀ r ∈ c.ringsOf iid, ∀ e ∈ (c.ring r).descs, e.taken = true ∧ e.fin = none) →
      (∀ e ∈ c.dvCoresOf iid, (c.dvCore e.1 e.2).miss = none ∧ c.dvQuiet e.1 e.2 = true) →
      RunsTo (.frozen iid) s fun d => d.inst iid = { x with st := .frozen } ∧
        (c.imBusy = some (iid, 4) → d.imBusy = none ∧ d.imResult = 0) ∧
        { d with insts := c.insts, imBusy := c.imBusy, imResult := c.imResult } = c) ∧
    (serves iid → RunsTo (.instanceReset iid) s fun d => began iid d ∧
      (c.imBusy = some (iid, 4) → d.imBusy = none ∧ d.imResult = 8) ∧ ∀ i, i ≠ iid → d.inst i = c.inst i) ∧
    RunsTo (.flr f) s (fun d => ∀ i ∈ c.resetCover f, serves i → began i d) ∧
    RunsTo .vfEnableClear s (fun d => d.vfEnable = false ∧ ∀ i, 0x100 ≤ i → i < 0x200 → listed i → serves i → began i d) ∧
    (x.st = .resetting → RunsTo (.shearsStopCut iid) s fun d => d.laneBusyFor iid = false ∧ d.insts = c.insts ∧ d.mem = c.mem) ∧
    (x.st = .resetting → c.laneBusyFor iid = false →
      RunsTo (.instanceResetDone iid) s fun d =>
        (d.inst iid).st = (if x.gone then .absent else if (c.func (c.coverFunc iid)).bme then .active else .stopped) ∧
        (d.inst iid).dirty = none ∧ (∀ r ∈ c.ringsOf iid, d.ring r = {}) ∧ (∀ i, i ≠ iid → d.inst i = c.inst i) ∧
        ∀ op, (op = 2 ∨ op = 3) → c.imBusy = some (iid, op) → d.imBusy = none ∧ d.imResult = 0) ∧
    ((c.func f).bme = true →
      RunsTo (.busMasterDisable f) s fun d => (d.func f).bme = false ∧ d.ctl.regs = c.ctl.regs ∧ d.flow.ents = c.flow.ents ∧
        ∀ i, listed i → c.coverFunc i = f → running i → (d.inst i).st = .stopped ∧
          ∀ r ∈ c.ringsOf i, (d.ring r).descs = [] ∧ (d.ring r).acc = (c.ring r).acc ∧ (d.ring r).en = (c.ring r).en) ∧
    ((c.func f).bme = false →
      RunsTo (.busMasterEnable f) s fun d => (d.func f).bme = true ∧
        ∀ i, listed i → c.coverFunc i = f → (c.inst i).st = .stopped → (c.inst i).back ≠ .stopped → (d.inst i).st = (c.inst i).back)

/-- R417, R420-R422, R438, R439, R518: an error takes the lowest-numbered invalid record, and else, when every record is of a
lower class, overwrites the oldest of the lowest class with the multiple-occurrence bit; a fatal record asserts ERR_FATAL_N,
and the copy of every valid record reaches the flash log. Software prepares an invalid record, makes it valid by injection,
and invalidates a valid one, whose other registers it cannot write. -/
def Obligations.ErrorRecordsAreLoggedAndWritten : Prop :=
  ∀ (s : State) (src : Src) (u i t : Nat) (f : RecReg) (v : DWord),
    let c := s.chip
    let r := c.errRec u i
    let logs (j : Nat) := (c.errRec u j).control.getLsbD 0 = true
    let bad (j : Nat) := (c.errRec u j).valid = true
    let fatal (d : Chip) : Prop := d.pwr.errFatal = true ∧ (d.reg 0 0 0x4008).getLsbD 0 = true
    let writes := c.opens src 0 = true ∧ c.present u = true
    let prepared : ErrRec := match f with
      | .status => { r with status := setFld v 0 0 0 } | .addr => { r with addr := v }
      | .info => { r with info := setFld v 48 48 0 } | .suppl => { r with suppl := v } | .time => { r with time := v }
    u ≤ 512 → i < 4 → t < 256 → c.errSeq < 2 ^ 64 →
    (logs i → ¬ bad i → (∀ j, j < i → logs j → bad j) →
      RunsTo (.fatalError u t) s fun d => c.wrote d u i .fatal t 0 false ∧ fatal d ∧
        (∀ w j, w ≤ 512 → j < 4 → (w, j) ≠ (u, i) → d.errRec w j = c.errRec w j) ∧ d.mem = c.mem ∧ d.harts = c.harts) ∧
    ((∀ j, j < 4 → logs j ∧ bad j ∧ (c.errRec u j).order < 2 ^ 64) → r.cls ≠ .fatal →
      (∀ j, j < 4 → j ≠ i → r.cls.rank < (c.errRec u j).cls.rank ∨ r.cls.rank = (c.errRec u j).cls.rank ∧ r.order < (c.errRec u j).order) →
      RunsTo (.fatalError u t) s fun d => (d.errRec u i).cls = .fatal ∧ (d.errRec u i).struct = t ∧
        (d.errRec u i).status.getLsbD 6 = true ∧ fatal d ∧ ∀ j, j < 4 → j ≠ i → d.errRec u j = c.errRec u j) ∧
    (c.regFld 0 0 0x4008 0 0 = 1 → c.boot.restart = false →
      RunsTo .fatalLogCopy s fun d => d.regFld 0 0 0x4008 1 1 = 1 ∧ d.errs = c.errs ∧
        (bad i → LogEntry.record u r.status r.addr r.info r.suppl r.time ∈ d.flash.log) ∧ c.flash.log <+: d.flash.log) ∧
    (writes → bad i → Runs (.recordInvalidate src u i) s (c.setErrRec u i { r with status := setFld r.status 0 0 0 }) ∧
      ((f ≠ .status ∨ v ≠ 0) → Runs (.recordPrepare src u i f v) s c)) ∧
    (writes → ¬ bad i → Runs (.recordPrepare src u i f v) s (c.setErrRec u i prepared)) ∧
    (writes → ¬ bad i → fld v 63 48 ≠ 0 →
      RunsTo (.recordInjection src u i v) s fun d =>
        (d.errRec u i).status = setFld r.status 0 0 1 ∧ (d.errRec u i).info = setFld r.info 48 48 0 ∧
        (d.errRec u i).addr = r.addr ∧ (d.errRec u i).control = v &&& 0xFF#64 ∧ (d.unit u).err ≠ 0) ∧
    (writes → fld v 63 48 = 0 → v.getLsbD 32 = false →
      Runs (.recordInjection src u i v) s (c.setErrRec u i { r with control := v &&& 0xFF#64 }))

/-- R441, R442: a write of RAS_INJ_CTL that its checks pass arms the fault; it fires at the next use of its structure in its
unit, or of its line with MATCH = 1: ARM clears unless the fault is persistent, FIRED sets, the count rises, and the record
that the fault writes has INJECTED = 1; a fault in DRAM waits in the device; a use elsewhere fires nothing. -/
def Obligations.InjectedFaultsFireOnce : Prop :=
  ∀ (s : State) (src : Src) (u line : Nat) (v : Word) (l ch : Nat),
    let c := s.chip
    let ctl := c.reg 0 0 0x4014
    let armed := fld ctl 16 16 = 1 ∧ c.faulty 0 0 0x4014 = false ∧ c.faulty 0 0 0x4010 = false
    let here := u = c.regFld 0 0 0x4010 15 0 ∧ (fld ctl 10 10 = 0 ∨ line = c.injLine)
    let fired (d : Chip) : Prop := d.regFld 0 0 0x4014 17 17 = 1 ∧
      d.regFld 0 0 0x4014 16 16 = (if fld ctl 9 8 = 3 then 1 else 0) ∧
      (d.reg 0 0 0x4020).toNat = min (2 ^ 32 - 1) ((c.reg 0 0 0x4020).toNat + 1)
    let co := c.coord (u - 5) (l / 64)
    (c.takes src 0 0x4014 v = true → v.getLsbD 16 = true →
      RunsTo (.injectionArm src v) s fun d => d.regFld 0 0 0x4014 16 16 = 1 ∧ d.regFld 0 0 0x4014 10 0 = fld v 10 0 ∧
        { d with ctl := c.ctl } = c) ∧
    (armed → here → fld ctl 7 0 = 0x12 → c.bankClear u = true → u ≤ 512 →
      RunsTo (.injectionFire u line) s fun d => fired d ∧ c.wrote d u 0 .corrected 0x12 0 false ∧
        (d.errRec u 0).info.getLsbD 48 = true) ∧
    (armed → here → fld ctl 7 0 = 0x0F → c.mapAddr (64 * line) = some (false, ch, l) → ch = u - 5 →
      RunsTo (.injectionFire u line) s fun d => fired d ∧
        Sparse.at (d.mc (u - 5)).bad [] (memKey (u - 5) co.rank co.idx) = List.range (if fld ctl 9 8 = 3 then 1 else fld ctl 9 8 + 1) ∧
        d.mem = c.mem) ∧
    (¬ armed ∨ ¬ here → Runs (.injectionFire u line) s c)

/-- R424-R427, R358, R359: a residue fault is replayed and logged; THRESH of them within a second, a replay that fails again, or
BW_MIGRATE moves the hart to the first free spare of its paddock: it halts, loses its reservation and its wrong path, and
runs on when the spare has power and nothing that it has sent is awaited (the model's own choice: log 91), its store buffer
carried over to commit first, HART_VALID moving in one step; the old core is retired when its L2 is empty. With no free
spare, and for an uncorrectable error, the hart is stopped; during a Bellwether restart it waits. -/
def Obligations.FailingCoresMoveTheirHart : Prop :=
  ∀ (s : State) (src : Src) (h k sp : Nat) (m : Mig),
    let c := s.chip
    let x := c.hart h
    let u := uCore k
    let th := c.regFld 0 0 0x400C 7 0
    let recent := (c.core k).residue.filter fun t => decide (c.mtime.toNat < t + 10 ^ 8)
    let others (d : Chip) : Prop := d.mem = c.mem ∧ ∀ j, j ≠ h → d.hart j = c.hart j
    let halted (d : Chip) (asked : Bool) : Prop :=
      (d.hart h).run = .migrating sp ∧ (d.hart h).resv = none ∧ (d.hart h).sb = x.dropWrong.sb ∧ (d.hart h).x = x.x ∧
        (d.hart h).f = x.f ∧ (d.hart h).v = x.v ∧ (d.hart h).csrs = x.csrs ∧ (d.hart h).pc = x.pc ∧ (d.core sp).power = .poweringUp ∧
        (∃ q ∈ d.migs, q.hart = h ∧ q.old = k ∧ q.new = sp ∧ q.asked = asked ∧ q.moved = false) ∧ others d
    let stopped (d : Chip) : Prop := (d.hart h).run = .stopped ∧ (d.hart h).x = x.x ∧ (d.hart h).pc = x.pc ∧
      c.wrote d u 0 .uncorrected 0x05 h false ∧ others d
    let ask := c.takes src uBellwether 0x104C (BitVec.ofNat 32 (h + 2 ^ 16)) = true ∧ h < 2 ^ 16
    k < 200 → h < 2 ^ 16 → c.coreOfHart h = some k →
    ((c.migs.find? fun (q : Mig) => decide (q.hart = h) && !q.moved) = some m → c.hartAwaits h m.old = true →
      Runs (.migrationRestore h) s c) ∧
    (x.live = true → recent.length + 1 < th → c.bankClear u = true →
      RunsTo (.residueReplay h) s fun d => d.hart h = { x.dropWrong with early := [], refetch := true } ∧ c.wrote d u 0 .corrected 0x06 h false ∧
        (d.core k).residue = recent ++ [c.mtime.toNat] ∧ others d) ∧
    (x.live = true → c.boot.restart = false → c.freeSpare (paddockOfCore k) = some sp → k ≠ sp →
      (th ≤ recent.length + 1 → c.faulty 0 0 0x400C = false → RunsTo (.residueReplay h) s fun d => halted d false) ∧
      RunsTo (.hartMigration h) s (fun d => halted d false)) ∧
    (x.live = true → c.boot.restart = true →
      RunsTo (.hartMigration h) s fun d => (d.hart h).run = .migrating 200 ∧ h ∈ d.boot.waiting ∧ others d) ∧
    (ask → x.run.onCore = true → (∀ q ∈ c.migs, q.hart ≠ h) → c.boot.restart = false →
      c.freeSpare (paddockOfCore k) = some sp → k ≠ sp → RunsTo (.bwMigrate src h) s fun d => halted d true ∧ d.migRes = 0) ∧
    (ask → x.run.onCore = true → (∀ q ∈ c.migs, q.hart ≠ h) → c.boot.restart = false →
      c.freeSpare (paddockOfCore k) = none → RunsTo (.bwMigrate src h) s fun d => d.migRes = 2 ∧ d.hart h = x ∧ others d) ∧
    (ask → x.run.onCore = false → RunsTo (.bwMigrate src h) s fun d => d.migRes = 3 ∧ d.hart h = x ∧ others d) ∧
    (x.run ≠ .stopped → c.bankClear u = true → RunsTo (.hartStop h) s stopped) ∧
    ((c.migs.find? fun (q : Mig) => decide (q.hart = h) && !q.moved) = some m → (c.core m.new).power = .run → m.old ≠ m.new →
      c.hartAwaits h m.old = false → RunsTo (.migrationRestore h) s fun d => (d.hart h).core = m.new ∧ (d.hart h).run = m.back ∧ (d.hart h).x = x.x ∧
        (d.hart h).csrs = x.csrs ∧ (d.hart h).pc = x.pc ∧ (d.hart h).sb = (x.sb.map fun e => { e with moved := true }) ∧ (d.core m.new).hartId = h ∧
        (d.core m.new).hartValid = true ∧ (d.core m.old).hartValid = false ∧ (m.asked = true → d.migRes = 1) ∧ others d) ∧
    ((c.core sp).retiring = true → (c.core sp).l2 = [] → (c.core sp).wb = [] → (c.core sp).reqs = [] →
      (c.migs.find? fun (q : Mig) => decide (q.old = sp)) = some m →
      RunsTo (.coreRetire sp) s fun d => (d.core sp).enabled = false ∧ (d.core sp).retired = true ∧ (d.core sp).power = .off ∧
        m ∉ d.migs ∧ d.flash.cores = c.flash.cores ++ [{ core := sp, spare := m.new }] ∧ d.harts = c.harts)

/-- R452, R457, R458, R461: a counter that wraps keeps its remainder, sets OF and, when OF was 0, raises interrupt 13, except
in the counter that samples; a sample reloads that counter with its period and jitter and writes its record at the ring's
next line, or counts a drop when the ring is full; WR moves when a record is written, and the watermark may be reached. -/
def Obligations.CountersOverflowAndSample : Prop :=
  ∀ (s : State) (h n rem : Nat) (i : SampleInfo) (rest : List SampleInfo),
    let c := s.chip
    let x := c.hart h
    let ctr := 0xB00 + n
    let wr := x.csrFld 0x5C2 31 0
    let rd := x.csrFld 0x5C2 63 32
    let log2 := x.csrFld 0x5C0 8 4
    let k := (wr + x.tsFly.length) % 2 ^ 32
    let used := (k + 2 ^ 32 - rd) % 2 ^ 32
    let pa := (x.csr 0x5C1).toNat + 64 * (k % 2 ^ log2)
    let smp := x.live = true ∧ 3 ≤ n ∧ n ≤ 10 ∧ i.ctr = n ∧ x.samples n = true
    let loaded (y : Hart) : Prop := ∃ j, j < 2 ^ x.csrFld 0x5C0 12 9 ∧
      y.csr ctr = BitVec.ofNat 64 (2 ^ 64 - x.csrFld 0x5C0 63 32 + j) ∧ y.csrFld (0x320 + n) 63 63 = x.csrFld (0x320 + n) 63 63
    let only (d : Chip) : Prop := d.aside = c.aside ∧ ∀ j, j ≠ h → d.hart j = c.hart j
    let wr1 := (wr + 1) % 2 ^ 32
    let reached := x.csrFld 0x5C0 14 13 ≠ 0 ∧ x.csrFld 0x5C0 14 13 * 2 ^ log2 / 4 ≤ (wr1 + 2 ^ 32 - rd) % 2 ^ 32
    (x.live = true → 3 ≤ n → n ≤ 10 → rem < 2 ^ 64 →
      RunsTo (.counterOverflow h n rem) s fun d => ((d.hart h).csr ctr).toNat = rem ∧ only d ∧
        (x.samples n = true → (d.hart h).csrFld (0x320 + n) 63 63 = x.csrFld (0x320 + n) 63 63 ∧ (d.hart h).csr 0x344 = x.csr 0x344) ∧
        (x.samples n = false → (d.hart h).csrFld (0x320 + n) 63 63 = 1 ∧
          (d.hart h).csrFld 0x344 13 13 = (if x.csrFld (0x320 + n) 63 63 = 0 then 1 else x.csrFld 0x344 13 13))) ∧
    (smp → (2 ^ log2 ≤ used ∨ 4 ≤ x.tsFly.length) →
      RunsTo (.sample h i) s fun d => loaded (d.hart h) ∧ (d.hart h).csrFld 0x5C3 31 0 = min (2 ^ 32 - 1) (x.csrFld 0x5C3 31 0 + 1) ∧
        (d.hart h).tsFly = x.tsFly ∧ only d) ∧
    (smp → used < 2 ^ log2 → x.tsFly.length < 4 → x.pmpOk .s .store pa = true → c.isMemory pa = true →
      RunsTo (.sample h i) s fun d => (d.hart h).tsFly = x.tsFly ++ [i] ∧ (d.hart h).csrFld 0x5C3 31 0 = x.csrFld 0x5C3 31 0) ∧
    (smp → used < 2 ^ log2 → x.tsFly.length < 4 → (x.pmpOk .s .store pa = false ∨ c.isMemory pa = false) →
      RunsTo (.sample h i) s fun d => loaded (d.hart h) ∧ (d.hart h).csrFld 0x5C0 0 0 = 0 ∧ (d.hart h).csrFld 0x5C0 16 16 = 1 ∧
        (d.hart h).csrFld 0x344 13 13 = 1 ∧ only d) ∧
    (x.tsFly = i :: rest →
      RunsTo (.sampleRecordDone h) s fun d => (d.hart h).tsFly = rest ∧ (d.hart h).csrFld 0x5C2 31 0 = wr1 ∧
        (d.hart h).csrFld 0x5C2 63 32 = rd ∧ only d ∧
        (reached → (d.hart h).csrFld 0x5C0 15 15 = 1 ∧ (x.csrFld 0x5C0 15 15 = 0 → (d.hart h).csrFld 0x344 13 13 = 1)))

/-- R463, R464, R467, R468: START zeroes the four counters of a bank and runs it, until STOP or the end of its window; then
DONE sets, with a message when IRQ_EN = 1. START_ALL and STOP_ALL act on every bank with a mode, and on every running bank. -/
def Obligations.TallyBanksStartAndStop : Prop :=
  ∀ (s : State) (src : Src) (b : Nat),
    let c := s.chip
    let x := c.bank b
    let ctl := c.reg 0 0 (tbOff b 0)
    let us := c.regFld 0 0 (tbOff b 4) 23 0
    let started : Bank := { x with run := true, c0 := 0, c1 := 0, c2 := 0, c3 := 0, stop := if us = 0 then none else some (c.mtime.toNat + 100 * us) }
    let ended : Bank := { x with run := false, done := true, stop := none }
    let others (d : Chip) : Prop := (∀ j, j ≠ b → d.bank j = c.bank j) ∧ d.mem = c.mem
    let quiet := fld ctl 6 6 = 0 ∨ x.done = true
    b < 42 →
    (c.takes src 0 (tbOff b 0) (ctl ||| 4) = true → fld ctl 5 2 = 0 → x.run = false →
      RunsTo (.tallyStart src b) s fun d => d.bank b = started ∧ others d) ∧
    (c.takes src 0 (tbOff b 0) (ctl ||| 8) = true → fld ctl 5 2 = 0 → x.run = true →
      RunsTo (.tallyStop src b) s fun d => d.bank b = ended ∧ others d ∧ (quiet → d.imsic = c.imsic)) ∧
    (x.run = true → x.stop.isSome = true →
      RunsTo (.tallyWindowEnd b) s fun d => d.bank b = ended ∧ others d ∧ (quiet → d.imsic = c.imsic)) ∧
    (x.run = true → x.stop.isSome = true → x.done = false → fld ctl 6 6 = 1 → c.faulty 0 0 (tbOff b 0) = false →
      c.regFld 0 0 0x5C00 31 31 = 1 → c.faulty 0 0 0x5C00 = false →
      RunsTo (.tallyWindowEnd b) s fun d => d.imsic =
        (c.imsicSet (c.regFld 0 0 0x5C00 15 0) (c.regFld 0 0 0x5C00 27 27) (c.regFld 0 0 0x5C00 26 16)).imsic) ∧
    (c.takes src 0 0x5C04 1 = true → RunsTo (.startAll src) s fun d =>
      (c.present (bankUnit b) = true → x.run = false → fld ctl 1 0 ≠ 0 → d.bank b = started) ∧
      ((x.run = true ∨ fld ctl 1 0 = 0) → d.bank b = x) ∧ d.mem = c.mem) ∧
    (c.takes src 0 0x5C04 2 = true → RunsTo (.stopAll src) s fun d =>
      (x.run = true → d.bank b = ended) ∧ (x.run = false → d.bank b = x) ∧ d.mem = c.mem)

/-- R479, R481-R483: an OPP request sets the fold's target and BUSY; the change moves the fold to the lowest of the request
and its ceilings, shows it in PWR_FOLD with the limit that set it, and sets the rail to the highest voltage that a fold of the
paddock needs; a droop stretches the fold, and the end of a stretch is counted, after the switch where a wake or a clamp
began it.

R475-R477: a rise is granted quietly, and starts at once, only for an exit from WFI with room on the rail; else it is
announced, is due 1.5 µs later, and LOADCAST asserts; LOADCAST deasserts when no announced ramp is left on the rail. -/
def Obligations.OperatingPointsAndRamps : Prop :=
  (∀ (s : State) (src : Src) (f : Nat) (v : Word),
    let c := s.chip
    let u := uFold f
    let p := paddockOfFold f
    let x := c.stretchOf f
    let granted (d : Chip) : Prop := d.regFld 0 0 (pwrFold f) 3 0 = oppAt (c.grantOf f).1 ∧
      d.regFld 0 0 (pwrFold f) 6 4 = (c.grantOf f).2 ∧
      Sparse.at d.pwr.vcore 0 p = oppAt (((List.range 5).map fun k => d.runRank (5 * p + k)).foldl min 11)
    f < 20 →
    ((src = .bellwether ∨ ∃ h, src = .hart h) → c.pwr.clocks = true → fld v 3 2 = 0 → fld v 7 7 = 0 → fld v 31 12 = 0 → fld v 11 8 < 12 →
      RunsTo (.oppRequest src f v) s fun d => d.unit u = { c.unit u with opp := fld v 11 8, busy := true } ∧
        (∀ k, k ≠ u → d.unit k = c.unit k) ∧ { d with units := c.units } = c.clearFault 0 (1 + u) 0x18) ∧
    (c.bwServes = true → c.wakeEnds f = true → Runs (.oppChange f) s c) ∧
    (c.bwServes = true → c.wakeEnds f = false → RunsTo (.oppChange f) s fun d => granted d ∧ d.unit u = { c.unit u with busy := false } ∧
      ((c.grantOf f).1 < c.runRank f → ∀ k, foldOfCore k = f → (c.core k).enabled = true → (d.core k).ramp.isSome = true)) ∧
    RunsTo (.droopStretch f) s (fun d => (d.stretchOf f).droop = true ∧ d.regFld 0 0 (pwrFold f) 8 8 = 1 ∧
      (d.stretchOf f).count = (if x.any then x.count else x.count + 1) ∧ (∀ g, g ≠ f → d.stretchOf g = c.stretchOf g) ∧ d.mtime = c.mtime) ∧
    RunsTo (.stretchEnd f) s fun d =>
      (d.stretchOf f).any = false ∧ d.regFld 0 0 (pwrFold f) 8 8 = 0 ∧ (d.stretchOf f).count = x.count ∧
      (d.stretchOf f).mc = (if x.any then x.mc + 22 * (c.mtime - x.since).toNat else x.mc) ∧
      ((x.wake || x.clamp) = true → d.regFld 0 0 (pwrFold f) 3 0 = oppAt (c.grantOf f).1)) ∧
  (∀ (s : State) (k p : Nat) (kind : RampKind),
    let c := s.chip
    let x := c.core k
    let now := c.mtime.toNat
    let only (d : Chip) (y : Core) : Prop := d.core k = y ∧ (∀ j, j ≠ k → d.core j = c.core j) ∧ d.harts = c.harts ∧ d.mem = c.mem
    (x.ramp = none → (kind ≠ .wfiExit ∨ c.quietRoom (paddockOfCore k) = false) →
      RunsTo (.rampGrant k kind) s fun d =>
        only d { x with ramp := some kind, rampAnn := true, rampOn := false, rampAt := now + 150 } ∧
        paddockOfCore k ∈ d.pwr.loadcast) ∧
    (x.ramp = none → kind = .wfiExit → c.quietRoom (paddockOfCore k) = true →
      RunsTo (.rampGrant k kind) s fun d => only d { x with ramp := some kind, rampAnn := false, rampOn := true, rampAt := now } ∧ d.pwr = c.pwr) ∧
    (x.ramp.isSome = true → x.rampAnn = true → x.rampOn = false →
      RunsTo (.announcedRampStart k) s fun d => only d { x with rampOn := true, rampAt := now } ∧ d.pwr = c.pwr) ∧
    (x.rampOn = true → RunsTo (.rampEnd k) s fun d => only d { x with ramp := none, rampAnn := false, rampOn := false } ∧ d.pwr = c.pwr) ∧
    ((∀ e ∈ c.rampsOf p, e.2.rampAnn = false) → RunsTo (.loadcastDeassert p) s fun d =>
      p ∉ d.pwr.loadcast ∧ (∀ q, q ≠ p → (q ∈ d.pwr.loadcast ↔ q ∈ c.pwr.loadcast)) ∧ d.cores = c.cores) ∧
    ((∃ e ∈ c.rampsOf p, e.2.rampAnn = true) → Runs (.loadcastDeassert p) s c))

/-- R472, R484-R486, R510: each ceiling moves at most one step by its sensors or the measured power; a sensor at 110 °C or
PROCHOT_N clamps the folds, which are stretched until they have switched; at 125 °C every clock but the Bellwether clock
stops, and the trip is recorded; a poll keeps the reading of each rail and adds its energy; a phase loss is logged in the
paddock's bank. -/
def Obligations.ThermalAndPowerLimitsAct : Prop :=
  ∀ (s : State) (temps : List Nat) (p f g temp : Nat) (r : AvsReading),
    let c := s.chip
    let target := c.regFld 0 0 0x6004 6 0
    let limit := 1000 * c.regFld 0 0 0x6000 8 0
    let hot (l : List Nat) : Nat := l.foldl max 0
    let t := hot ((temps.drop (8 * p)).take 8)
    let step (r : Nat) (above below : Prop) [Decidable above] [Decidable below] : Nat := if above then min 11 (r + 1) else if below then r - 1 else r
    let rail (x : Chip) : RailSt := Sparse.at x.pwr.rails {} p
    (c.bwServes = true → c.faulty 0 0 0x6004 = false → c.faulty 0 0 0x6000 = false → p < 4 →
      RunsTo (.thermalLoop temps) s fun d =>
        Sparse.at d.pwr.thermal 0 p = step (Sparse.at c.pwr.thermal 0 p) (target < t) (t + 3 < target) ∧
        d.pwr.plimit = step c.pwr.plimit (limit < c.powerMw) (c.powerMw + 5000 < limit) ∧
        d.regFld 0 0 0x6008 23 16 = min 255 (hot temps) ∧ d.harts = c.harts ∧ d.mem = c.mem) ∧
    (f < 20 → RunsTo (.hardwareClamp 0 f) s fun d => paddockOfFold f ∈ d.pwr.clampT ∧ d.regFld 0 0 0x6008 4 4 = 1 ∧
      (g < 20 → paddockOfFold g = paddockOfFold f → c.runRank g < clampRank → (d.stretchOf g).clamp = true)) ∧
    (f < 20 → RunsTo (.hardwareClamp 1 f) s fun d => d.pwr.prochot = true ∧ d.regFld 0 0 0x6008 5 5 = 1 ∧
      (g < 20 → c.runRank g < clampRank → (d.stretchOf g).clamp = true)) ∧
    RunsTo .clampEnd s (fun d => d.pwr.clampT = [] ∧ d.pwr.prochot = false ∧ d.regFld 0 0 0x6008 5 4 = 0 ∧ d.pwr.stretch = c.pwr.stretch) ∧
    (125 ≤ temp → RunsTo (.thermtrip temp) s fun d => d.pwr.thermtrip = true ∧ d.pwr.clocks = false ∧
      d.flash.log = c.flash.log ++ [.thermtrip] ∧ (∀ e ∈ d.harts, e.2.run = .off) ∧ d.mem = c.mem ∧ d.ctl = c.ctl) ∧
    (c.boot.restart = false → c.pwr.pwrgood = true → p < 6 → RunsTo (.avsPoll r) s fun d =>
      rail d = { mv := r.mv.getD p 0, ma := r.ma.getD p 0, nj := (rail c).nj + r.mv.getD p 0 * r.ma.getD p 0 } ∧
      { d with pwr := c.pwr } = c) ∧
    (c.boot.restart = false → c.pwr.pwrgood = true → c.bankClear (uPaddock p) = true → p < 4 →
      RunsTo (.avsStatusAlert p) s fun d => c.wrote d (uPaddock p) 0 .corrected 0x1C 0 false ∧ d.mem = c.mem) ∧
    Runs .sensorsReachZero s { c with pwr := { c.pwr with cold := false } }

/-- R36-R38, R358, R359, R488: an accepted REQ starts a transition with BUSY, whose end shows the state; a unit that leaves
Off has its registers at reset, and a cluster at Off holds its cores there; a core that powers up begins its hart. The
watchdog restarts the Bellwether controller alone, with a corrected record, and migrations that waited run when it is back;
its heartbeat counts in PHASE RUN. -/
def Obligations.UnitsPowerUpAndTheControllerRestarts : Prop :=
  ∀ (s : State) (src : Src) (u req k h d0 : Nat),
    let c := s.chip
    let x := c.unit u
    let b := uBellwether
    let kind (l : List Kind) := kindOf u ∈ l
    let r : BitVec 2 := BitVec.ofNat 2 req
    ((src = .bellwether ∨ ∃ n, src = .hart n) → c.pwr.clocks = true → u ≤ 512 → c.present u = true → reqWritable u = true →
      (req = 0 ∨ req = 2) → c.powerBusy u req = false →
      RunsTo (.unitPowerRequest src u req) s fun d => { d with units := c.units } = c.clearFault 0 (1 + u) 0x18 ∧ (∀ j, j ≠ u → d.unit j = c.unit j) ∧
        d.unit u = if x.cur = r ∧ x.busy = false then { x with req := r } else { x with req := r, target := r, busy := true }) ∧
    (x.busy = true → kind [.busPort, .shears] → x.target = 2 →
      RunsTo (.unitPowerDone u) s fun d => d.unit u = { x with cur := 2, busy := false, initDone := false } ∧ d.ctl = c.ctl) ∧
    (x.busy = true → kind [.ethPort, .shears] → x.target = 0 → x.cur ≠ 0 →
      RunsTo (.unitPowerDone u) s fun d => d.unit u = { x with cur := 0, busy := false, initDone := true } ∧
        (∀ n, n / 2 ^ 48 = u → Sparse.find d.ctl.regs n = none) ∧
        ∀ n, n / 2 ^ 48 ≠ u → Sparse.find d.ctl.regs n = Sparse.find c.ctl.regs n) ∧
    (d0 < 2 → k < 32 → u = uDvCore d0 k → x.busy = true → x.cur ≠ 0 → x.target = 0 → (c.unit (uDrover d0)).cur ≠ 2 →
      RunsTo (.unitPowerDone u) s fun d => d.unit u = { x with cur := 0, busy := false, initDone := true } ∧ d.dvCore d0 k = {}) ∧
    (d0 < 2 → k < 32 → u = uDrover d0 → x.busy = true → x.target = 2 →
      RunsTo (.unitPowerDone u) s fun d => (d.unit u).cur = 2 ∧ (d.unit u).busy = false ∧ (d.unit (uDvCore d0 k)).cur = 2) ∧
    ((c.core k).power = .poweringUp → k < 200 →
      RunsTo (.corePowerUp k) s fun d => d.core k = { c.core k with power := .run } ∧
        d.unit (uCore k) = { c.unit (uCore k) with cur := 0, busy := false, initDone := true } ∧
        ((c.core k).hartValid = true → (c.hart (c.core k).hartId).run = .off → (d.hart (c.core k).hartId).run = .running)) ∧
    (c.bwServes = true → c.bankClear b = true →
      RunsTo .bwWatchdogExpiry s fun d => d.phase = 0 ∧ d.reg b 0 0x1044 = 0 ∧ d.boot.restart = true ∧
        c.wrote d b 0 .corrected 0x19 0 false ∧ d.harts = c.harts ∧ d.mem = c.mem) ∧
    (c.boot.restart = true →
      RunsTo .bwRestartDone s fun d => d.phase = 4 ∧ d.boot.restart = false ∧ d.boot.waiting = [] ∧ d.reg b 0 0x1044 = c.fwVersion ∧
        d.mem = c.mem ∧ ∀ q sp, c.boot.waiting = [h] → c.coreOfHart h = some q → c.freeSpare (paddockOfCore q) = some sp →
          (d.hart h).run = .migrating sp) ∧
    (c.bwServes = true → Runs .bwHeartbeat s (c.setReg b 0 0x1048 (c.reg b 0 0x1048 + 1)))

/-- R26, R489-R495, R504, R507: standby power brings PHASE ROM; a cold boot samples the straps, starts the clocks and resets
everything but fuses and boot flash; copy A, then B, is used when it passes its checks, else PHASE is FAULT; training readies
each channel that has a rank, and none is fatal; the release of the harts checks the image in DRAM, commits BOOT_ENTRY, locks
the package block and starts each hart there in M-mode; a warm reset keeps mtime and DRAM; a loss of power stops the clocks
and loses DRAM.The default that the release programs into the IOMMU is the model's own choice (log 19). -/
def Obligations.BootAndResetPhases : Prop :=
  ∀ (s : State) (straps : BitVec 5) (cold : Bool) (a b n : Nat) (pops : List ChanPop) (q : ChanPop) (info : ChanInfo) (bs : List Byte) (e : Bool) (c2 : Chip),
    let c := s.chip
    let w (o l : Nat) : Nat := leNat (c.flash.bytes.read o l)
    let st := if c.pwr.pwrgood then c.pwr.straps else straps
    let auth := c.pwr.pwrgood = true ∧ c.phase = 0 ∧ c.pwr.cold = false ∧ c.boot.restart = false
    let uses (d : Chip) (base : Nat) (copyB : Bool) : Prop := d.phase = 1 ∧ d.boot.copyB = copyB ∧
      d.boot.load = w (base + 16) 8 ∧ d.boot.entry = w (base + 24) 8 ∧ (d.reg uBellwether 0 0x1044).toNat = w (base + 4) 4
    let up := (popRanks q).filter fun r => q.trained.getLsbD r
    let plain := c.flash.ranks = [] ∧ c.flash.cfg.spares = [] ∧ c.flash.cfg.msets = []
    let entered := ((c.setPhase 3).setIo32 0x10 1).bootWrite c.boot.load (c.flash.bytes.read (c.boot.copyBase + 0x80000) c.boot.image)
    let checked := c.phase = 2 ∧ c.pwr.clocks = true ∧ entered.busRead c.boot.load c.boot.image = (.ok bs e, c2)
    (c.boot.standby = false → RunsTo .standbyPowerUp s fun d => d.boot.standby = true ∧ d.phase = 0 ∧ d.cores = c.bootCores ∧ d.flash = c.flash) ∧
    (c.boot.standby = true → RunsTo (.coldBoot straps cold) s fun d =>
      d.pwr.pwrgood = true ∧ d.pwr.clocks = true ∧ d.pwr.straps = st ∧ d.pwr.errFatal = false ∧ d.pwr.thermtrip = false ∧ d.mtime = 0 ∧
      d.errs = [] ∧ d.harts = [] ∧ d.homes = [] ∧ d.mesh = [] ∧ d.rings = [] ∧ d.phase = 0 ∧ d.flash = c.flash ∧ d.fuse = c.fuse ∧
      d.cores = c.bootCores ∧ d.boot.entries.map (·.code) = (if st.getLsbD 0 && !c.fuse.epCap then [1] else []) ++
        (if st.getLsbD 4 then [1] else []) ++ if c.pwr.thermtrip then [8] else []) ∧
    (auth → c.pwr.straps.getLsbD 2 = false → c.copyFails 0 = none → RunsTo .firmwareAuth s fun d => uses d 0 false) ∧
    (auth → (c.pwr.straps.getLsbD 2 = true ∨ c.copyFails 0 = some a) → c.copyFails 0x01F00000 = none →
      RunsTo .firmwareAuth s fun d => uses d 0x01F00000 true) ∧
    (auth → (c.pwr.straps.getLsbD 2 = true ∨ c.copyFails 0 = some a) → c.copyFails 0x01F00000 = some b →
      RunsTo .firmwareAuth s fun d => d.phase = 5 ∧ d.harts = c.harts) ∧
    (c.phase = 1 → c.pwr.clocks = true → plain → pops[n]? = some q → n < 12 → chanInfo q = some info → up ≠ [] →
      RunsTo (.memoryTraining pops) s fun d => d.phase = 2 ∧ (d.unit (uMc n)).initDone = true ∧ n ∈ d.pwr.dramUp ∧
        d.reg (uMc n) 0 0x1040 = popInfo info (up.foldl (fun m r => m + 2 ^ r) 0) ∧ d.spillBase = c.flash.cfg.spillBase) ∧
    (c.phase = 1 → c.pwr.clocks = true → (∀ p ∈ pops, chanInfo p = none ∨ p.trained = 0) →
      (∀ k, k < 12 → (c.unit (uMc k)).initDone = false) → RunsTo (.memoryTraining pops) s fun d => d.phase = 5 ∧ d.harts = c.harts) ∧
    (checked → sha384 bs = c.boot.digest → RunsTo .hartRelease s fun d => d.phase = 4 ∧
      d.regFld 0 0 0x1018 0 0 = 1 ∧ (d.reg 0 0 0x6090).toNat + 2 ^ 32 * (d.reg 0 0 0x6098).toNat = c.boot.entry % 2 ^ 64 ∧
      ∀ h k, c.hartCores[h]? = some k → d.hart h = { core := k, pc := BitVec.ofNat 64 c.boot.entry } ∧
        (d.core k).enabled = true ∧ (d.core k).hartValid = true ∧ (d.core k).power = .poweringUp) ∧
    (checked → sha384 bs ≠ c.boot.digest → RunsTo .hartRelease s fun d => d.phase = 5) ∧
    (c.pwr.pwrgood = true → c.pwr.clocks = true → c.boot.pops ≠ [] → plain → RunsTo .warmReset s fun d =>
      d.harts = [] ∧ d.mesh = [] ∧ (∀ k, (d.core k).l2 = []) ∧ (∀ i, (d.home i).pens = []) ∧ d.mtime = c.mtime ∧ d.pwr.errFatal = false ∧
      d.flash = c.flash ∧ d.reg 0 0 0x1018 = 0 ∧ (d.phase = 2 ∨ d.phase = 5)) ∧
    (c.pwr.pwrgood = true → RunsTo .powerLoss s fun d => d.pwr.pwrgood = false ∧ d.pwr.clocks = false ∧ d.mem = [] ∧ d.pwr.loadcast = [] ∧
      d.pwr.perstUp = [] ∧ d.pwr.dramUp = [] ∧ d.pwr.errFatal = false ∧ (∀ h ∈ d.harts, h.2.run = .off) ∧ d.flash = c.flash ∧ d.mtime = c.mtime)

/-- A step takes the command at the front of the queue and runs it on the state with the queue's rest. With an empty queue
the device idles: one tick passes (the model's own choice: log 3). No word spells a command. -/
def Obligations.StepRunsTheFrontCommand : Prop :=
  (∀ (i : Instr) (rest : List Instr) (c : Chip), step { pending := i :: rest, chip := c } = exec i { pending := rest, chip := c }) ∧
  (∀ c : Chip, step { pending := [], chip := c } = .next { pending := [], chip := c.tick }) ∧
  (∀ (n w : Nat) (s : State), decodeTableWord n w = none ∧ s.withFetchWord n w = s)

/-- R504 (PWRGOOD low) and the device before standby power (its point in time, and values the manual does not give: log 2, 4,
5): the lands are low or released, no register holds a written value, so each reads as its register map resets it, memory
lists nothing and is in its canonical form, the queue is empty, and the state is safe. Memory operations keep that form. -/
def Obligations.ResetLeavesLandsAndRegisters : Prop :=
  let c := State.reset.chip
  c.pwr.pwrgood = false ∧ c.pwr.loadcast = [] ∧ c.pwr.errFatal = false ∧ c.pwr.thermtrip = false ∧ c.pwr.perstUp = [] ∧
  c.pwr.flashRst = true ∧ c.pwr.dramUp = [] ∧ c.pwr.clocks = false ∧ c.boot.standby = false ∧ c.mtime = 0 ∧
  (∀ u bank off r, regAt (kindOf u) off = some r → c.reg u bank off = r.reset) ∧ c.harts = [] ∧ c.rings = [] ∧
  State.reset.pending = [] ∧ State.reset.Safe ∧ c.mem = [] ∧ Memory.wf c.mem = true ∧
  ∀ (m : Memory) (a n : Nat) (bs : List Byte), m.wf = true →
    (m.write a bs).wf = true ∧ (m.clear a n).wf = true ∧ (m.write a bs).read a bs.length = bs ∧
    ∀ x, x < a ∨ a + bs.length ≤ x → (m.write a bs).get x = m.get x

/-- R2-R5: whether the device has the parts that a command names is decided by its fuses, which no command changes. So a
command whose parts exist answers a next state, one that names a part that the member lacks stops as a fault that names it,
and a safe state has a next state, which is safe. -/
def Obligations.SafeStatesStaySafe : Prop :=
  (∀ (i : Instr) (s : State), s.chip.serves i = true →
    ∃ t, exec i s = .next t ∧ t.pending = s.pending ∧ t.chip.fuse = s.chip.fuse) ∧
  (∀ (i : Instr) (s : State), s.chip.serves i = false →
    ∃ p n, (p, n) ∈ partsOf i ∧ s.chip.parts p ≤ n ∧ exec i s = .fault (.noSuchPart p n)) ∧
  ∀ s : State, s.Safe → ∃ t, step s = .next t ∧ t.Safe ∧ t.chip.fuse = s.chip.fuse ∧ t.pending = s.pending.tail

/-- R2, R3: on the largest member every well-formed command runs, so that a queue of well-formed commands empties: as many
steps as it holds commands each answer a next state, and the last leaves the queue empty. -/
def Obligations.FullMembersRunEveryCommand : Prop :=
  (∀ (i : Instr) (s : State), i.wf = true → s.chip.fuse.full = true → ∃ t, exec i s = .next t) ∧
  ∀ s : State, s.chip.fuse.full = true → (∀ i ∈ s.pending, i.wf = true) →
    ∃ t, stepsNext s.pending.length s = some t ∧ t.pending = [] ∧ t.chip.fuse = s.chip.fuse
end

