-- ==== Sys2Proof/Laws/Store.lean ====
section
/-! SUPPORT. The laws of the two containers: a read after a write of the same number or byte, a write leaves every other
alone, and every memory operation keeps the canonical form. -/

namespace Sys2Proof.Machine

variable {α : Type}

@[simp] theorem Sparse.find_put_self (m : Sparse α) (n : Nat) (v : α) : (Sparse.put m n v).find n = some v := by
  induction m with
  | nil => simp [Sparse.put, Sparse.find]
  | cons e t ih =>
    obtain ⟨k, w⟩ := e
    simp only [Sparse.put]
    split
    · simp [Sparse.find]
    · split
      · simp [Sparse.find]
      · simp_all [Sparse.find]

theorem Sparse.find_put_ne {n k : Nat} (h : k ≠ n) (m : Sparse α) (v : α) : (Sparse.put m n v).find k = m.find k := by
  induction m with
  | nil => simp [Sparse.put, Sparse.find, h]
  | cons e t ih =>
    obtain ⟨j, w⟩ := e
    simp only [Sparse.put]
    split
    · simp [Sparse.find, h]
    · split
      · subst_vars; simp [Sparse.find, h]
      · simp [Sparse.find, ih]

@[simp] theorem Sparse.at_put_self (m : Sparse α) (d : α) (n : Nat) (v : α) : (Sparse.put m n v).at d n = v := by
  simp [Sparse.at]

theorem Sparse.at_put_ne {n k : Nat} (h : k ≠ n) (m : Sparse α) (d v : α) : (Sparse.put m n v).at d k = m.at d k := by
  simp [Sparse.at, Sparse.find_put_ne h]

@[simp] theorem Sparse.at_upd_self (m : Sparse α) (d : α) (n : Nat) (f : α → α) : (Sparse.upd m d n f).at d n = f (m.at d n) := by
  simp [Sparse.upd]

theorem Sparse.at_upd_ne {n k : Nat} (h : k ≠ n) (m : Sparse α) (d : α) (f : α → α) :
    (Sparse.upd m d n f).at d k = m.at d k := Sparse.at_put_ne h m d _

/-! Memory. -/

theorem Memory.wfFrom_mono {m : Memory} {a b : Nat} (hab : a ≤ b) (h : m.wfFrom b = true) : m.wfFrom a = true := by
  cases m with
  | nil => rfl
  | cons e t => simp only [Memory.wfFrom, Bool.and_eq_true, decide_eq_true_eq] at *; exact ⟨⟨by omega, h.1.2⟩, h.2⟩

theorem Memory.set_wfFrom {m : Memory} {lo a : Nat} (hlo : lo ≤ a) (h : m.wfFrom lo = true) (b : Byte) :
    (m.set a b).wfFrom lo = true := by
  induction m generalizing lo with
  | nil => simp only [Memory.set]; split <;> simp_all [Memory.wfFrom]
  | cons e t ih =>
    obtain ⟨k, v⟩ := e
    simp only [Memory.wfFrom, Bool.and_eq_true, decide_eq_true_eq] at h
    simp only [Memory.set]
    split
    · split
      · simp [Memory.wfFrom, h]
      · simp only [Memory.wfFrom, Bool.and_eq_true, decide_eq_true_eq]
        exact ⟨⟨hlo, by assumption⟩, ⟨by omega, h.1.2⟩, h.2⟩
    · split
      · split
        · exact Memory.wfFrom_mono (by omega) h.2
        · subst_vars; simp [Memory.wfFrom, *]
      · simp only [Memory.wfFrom, Bool.and_eq_true, decide_eq_true_eq]
        exact ⟨⟨h.1.1, h.1.2⟩, ih (by omega) h.2⟩

/-- Writing a byte keeps the canonical form. -/
theorem Memory.set_wf {m : Memory} (h : m.wf = true) (a : Nat) (b : Byte) : (m.set a b).wf = true :=
  Memory.set_wfFrom (Nat.zero_le a) h b

/-- Writing bytes keeps the canonical form. -/
theorem Memory.write_wf {m : Memory} (h : m.wf = true) (a : Nat) (bs : List Byte) : (m.write a bs).wf = true := by
  induction bs generalizing m a with
  | nil => exact h
  | cons b t ih => exact ih (Memory.set_wf h a b) (a + 1)

theorem Memory.filter_wfFrom (p : Host.Cell → Bool) {m : Memory} {lo : Nat} (h : m.wfFrom lo = true) :
    Memory.wfFrom lo (m.filter p) = true := by
  induction m generalizing lo with
  | nil => rfl
  | cons e t ih =>
    obtain ⟨k, v⟩ := e
    simp only [Memory.wfFrom, Bool.and_eq_true, decide_eq_true_eq] at h
    by_cases hp : p (k, v) = true
    · rw [List.filter_cons_of_pos hp]
      simp only [Memory.wfFrom, Bool.and_eq_true, decide_eq_true_eq]
      exact ⟨h.1, ih h.2⟩
    · rw [List.filter_cons_of_neg hp]
      exact Memory.wfFrom_mono (by omega) (ih h.2)

/-- Erasing bytes keeps the canonical form. -/
theorem Memory.clear_wf {m : Memory} (h : m.wf = true) (a n : Nat) : (m.clear a n).wf = true :=
  Memory.filter_wfFrom _ h

theorem Memory.get_below {m : Memory} {lo a : Nat} (h : m.wfFrom lo = true) (ha : a < lo) : m.get a = Memory.unlisted := by
  induction m generalizing lo with
  | nil => rfl
  | cons e t ih =>
    obtain ⟨k, v⟩ := e
    simp only [Memory.wfFrom, Bool.and_eq_true, decide_eq_true_eq] at h
    simp [Memory.get, show a ≠ k by omega, ih h.2 (by omega)]

theorem Memory.get_set_from {m : Memory} {lo : Nat} (h : m.wfFrom lo = true) (a : Nat) (b : Byte) (x : Nat) :
    (m.set a b).get x = if x = a then b else m.get x := by
  induction m generalizing lo with
  | nil => simp only [Memory.set]; split <;> simp_all [Memory.get]
  | cons e t ih =>
    obtain ⟨k, v⟩ := e
    simp only [Memory.wfFrom, Bool.and_eq_true, decide_eq_true_eq] at h
    simp only [Memory.set]
    split
    · next hak =>
      split
      · next hb =>
        by_cases hx : x = a
        · subst hx; simp [Memory.get, show x ≠ k by omega, hb, Memory.get_below h.2 (show x < k + 1 by omega)]
        · simp [hx]
      · simp [Memory.get]
    · split
      · next hak =>
        subst hak
        split
        · next hb =>
          by_cases hx : x = a
          · subst hx; simp [hb, Memory.get_below h.2 (show x < x + 1 by omega)]
          · simp [Memory.get, hx]
        · by_cases hx : x = a <;> simp [Memory.get, hx]
      · next h1 h2 =>
        by_cases hx : x = k
        · subst hx; simp [Memory.get, show x ≠ a by omega]
        · simp [Memory.get, hx, ih h.2]

/-- A byte read after a byte written, in canonical memory. -/
theorem Memory.get_set {m : Memory} (h : m.wf = true) (a : Nat) (b : Byte) (x : Nat) :
    (m.set a b).get x = if x = a then b else m.get x := Memory.get_set_from h a b x

/-- Bytes outside those written read as before. -/
theorem Memory.get_write_outside {m : Memory} (h : m.wf = true) {a x : Nat} (bs : List Byte) (hx : x < a ∨ a + bs.length ≤ x) :
    (m.write a bs).get x = m.get x := by
  induction bs generalizing m a with
  | nil => rfl
  | cons b t ih =>
    simp only [List.length_cons] at hx
    rw [Memory.write, ih (Memory.set_wf h a b) (by omega), Memory.get_set h]
    simp [show x ≠ a by omega]

/-- The bytes written read back. -/
theorem Memory.read_write {m : Memory} (h : m.wf = true) (a : Nat) (bs : List Byte) : (m.write a bs).read a bs.length = bs := by
  induction bs generalizing m a with
  | nil => rfl
  | cons b t ih =>
    simp only [Memory.write, List.length_cons, Memory.read]
    rw [ih (Memory.set_wf h a b), Memory.get_write_outside (Memory.set_wf h a b) t (by omega), Memory.get_set h]
    simp

end Sys2Proof.Machine
end

