-- ==== Sys2Proof/Laws/State.lean ====
section
/-! SUPPORT. One lemma per update and field of State: what an update of one record leaves alone, and what a read after it
gives. -/

namespace Sys2Proof.Machine

@[simp] theorem Chip.modHart_self (c : Chip) (n : Nat) (f : Hart → Hart) : (c.modHart n f).hart n = f (c.hart n) := by
  simp [Chip.modHart, Chip.hart]

theorem Chip.modHart_ne {n k : Nat} (h : k ≠ n) (c : Chip) (f : Hart → Hart) : (c.modHart n f).hart k = c.hart k := by
  simp [Chip.modHart, Chip.hart, Sparse.at_upd_ne h]

@[simp] theorem Chip.modHart_fuse (c : Chip) (n : Nat) (f : Hart → Hart) : (c.modHart n f).fuse = c.fuse := rfl
@[simp] theorem Chip.modHart_lastRead (c : Chip) (n : Nat) (f : Hart → Hart) : (c.modHart n f).lastRead = c.lastRead := rfl
@[simp] theorem Chip.modHart_mtime (c : Chip) (n : Nat) (f : Hart → Hart) : (c.modHart n f).mtime = c.mtime := rfl
@[simp] theorem Chip.modHart_units (c : Chip) (n : Nat) (f : Hart → Hart) : (c.modHart n f).units = c.units := rfl
@[simp] theorem Chip.modHart_ctl (c : Chip) (n : Nat) (f : Hart → Hart) : (c.modHart n f).ctl = c.ctl := rfl
@[simp] theorem Chip.modHart_errs (c : Chip) (n : Nat) (f : Hart → Hart) : (c.modHart n f).errs = c.errs := rfl
@[simp] theorem Chip.modHart_cores (c : Chip) (n : Nat) (f : Hart → Hart) : (c.modHart n f).cores = c.cores := rfl
@[simp] theorem Chip.modHart_homes (c : Chip) (n : Nat) (f : Hart → Hart) : (c.modHart n f).homes = c.homes := rfl
@[simp] theorem Chip.modHart_mesh (c : Chip) (n : Nat) (f : Hart → Hart) : (c.modHart n f).mesh = c.mesh := rfl
@[simp] theorem Chip.modHart_links (c : Chip) (n : Nat) (f : Hart → Hart) : (c.modHart n f).links = c.links := rfl
@[simp] theorem Chip.modHart_mcs (c : Chip) (n : Nat) (f : Hart → Hart) : (c.modHart n f).mcs = c.mcs := rfl
@[simp] theorem Chip.modHart_mem (c : Chip) (n : Nat) (f : Hart → Hart) : (c.modHart n f).mem = c.mem := rfl
@[simp] theorem Chip.modHart_poison (c : Chip) (n : Nat) (f : Hart → Hart) : (c.modHart n f).poison = c.poison := rfl
@[simp] theorem Chip.modHart_imsic (c : Chip) (n : Nat) (f : Hart → Hart) : (c.modHart n f).imsic = c.imsic := rfl
@[simp] theorem Chip.modHart_pwr (c : Chip) (n : Nat) (f : Hart → Hart) : (c.modHart n f).pwr = c.pwr := rfl
@[simp] theorem Chip.modHart_boot (c : Chip) (n : Nat) (f : Hart → Hart) : (c.modHart n f).boot = c.boot := rfl
@[simp] theorem Chip.modHart_flash (c : Chip) (n : Nat) (f : Hart → Hart) : (c.modHart n f).flash = c.flash := rfl
@[simp] theorem Chip.modHart_pxs (c : Chip) (n : Nat) (f : Hart → Hart) : (c.modHart n f).pxs = c.pxs := rfl
@[simp] theorem Chip.modHart_iommu (c : Chip) (n : Nat) (f : Hart → Hart) : (c.modHart n f).iommu = c.iommu := rfl
@[simp] theorem Chip.modHart_funcs (c : Chip) (n : Nat) (f : Hart → Hart) : (c.modHart n f).funcs = c.funcs := rfl
@[simp] theorem Chip.modHart_rings (c : Chip) (n : Nat) (f : Hart → Hart) : (c.modHart n f).rings = c.rings := rfl
@[simp] theorem Chip.modHart_insts (c : Chip) (n : Nat) (f : Hart → Hart) : (c.modHart n f).insts = c.insts := rfl
@[simp] theorem Chip.modHart_eths (c : Chip) (n : Nat) (f : Hart → Hart) : (c.modHart n f).eths = c.eths := rfl
@[simp] theorem Chip.modHart_flow (c : Chip) (n : Nat) (f : Hart → Hart) : (c.modHart n f).flow = c.flow := rfl
@[simp] theorem Chip.modHart_limiters (c : Chip) (n : Nat) (f : Hart → Hart) : (c.modHart n f).limiters = c.limiters := rfl
@[simp] theorem Chip.modHart_engines (c : Chip) (n : Nat) (f : Hart → Hart) : (c.modHart n f).engines = c.engines := rfl
@[simp] theorem Chip.modHart_ctxs (c : Chip) (n : Nat) (f : Hart → Hart) : (c.modHart n f).ctxs = c.ctxs := rfl
@[simp] theorem Chip.modHart_drovers (c : Chip) (n : Nat) (f : Hart → Hart) : (c.modHart n f).drovers = c.drovers := rfl
@[simp] theorem Chip.modHart_banks (c : Chip) (n : Nat) (f : Hart → Hart) : (c.modHart n f).banks = c.banks := rfl
@[simp] theorem Chip.modHart_migs (c : Chip) (n : Nat) (f : Hart → Hart) : (c.modHart n f).migs = c.migs := rfl
@[simp] theorem Chip.modHart_mt (c : Chip) (n : Nat) (f : Hart → Hart) : (c.modHart n f).mt = c.mt := rfl
@[simp] theorem Chip.modHart_sums (c : Chip) (n : Nat) (f : Hart → Hart) : (c.modHart n f).sums = c.sums := rfl
@[simp] theorem Chip.modHart_net (c : Chip) (n : Nat) (f : Hart → Hart) : (c.modHart n f).net = c.net := rfl
@[simp] theorem Chip.modHart_standby (c : Chip) (n : Nat) (f : Hart → Hart) : (c.modHart n f).standby = c.standby := rfl
@[simp] theorem Chip.modHart_spillBase (c : Chip) (n : Nat) (f : Hart → Hart) : (c.modHart n f).spillBase = c.spillBase := rfl
@[simp] theorem Chip.modHart_spillLines (c : Chip) (n : Nat) (f : Hart → Hart) : (c.modHart n f).spillLines = c.spillLines := rfl
@[simp] theorem Chip.modHart_msiDrops (c : Chip) (n : Nat) (f : Hart → Hart) : (c.modHart n f).msiDrops = c.msiDrops := rfl

@[simp] theorem Chip.modCore_self (c : Chip) (n : Nat) (f : Core → Core) : (c.modCore n f).core n = f (c.core n) := by
  simp [Chip.modCore, Chip.core]

theorem Chip.modCore_ne {n k : Nat} (h : k ≠ n) (c : Chip) (f : Core → Core) : (c.modCore n f).core k = c.core k := by
  simp [Chip.modCore, Chip.core, Sparse.at_upd_ne h]

@[simp] theorem Chip.modCore_fuse (c : Chip) (n : Nat) (f : Core → Core) : (c.modCore n f).fuse = c.fuse := rfl
@[simp] theorem Chip.modCore_lastRead (c : Chip) (n : Nat) (f : Core → Core) : (c.modCore n f).lastRead = c.lastRead := rfl
@[simp] theorem Chip.modCore_mtime (c : Chip) (n : Nat) (f : Core → Core) : (c.modCore n f).mtime = c.mtime := rfl
@[simp] theorem Chip.modCore_units (c : Chip) (n : Nat) (f : Core → Core) : (c.modCore n f).units = c.units := rfl
@[simp] theorem Chip.modCore_ctl (c : Chip) (n : Nat) (f : Core → Core) : (c.modCore n f).ctl = c.ctl := rfl
@[simp] theorem Chip.modCore_errs (c : Chip) (n : Nat) (f : Core → Core) : (c.modCore n f).errs = c.errs := rfl
@[simp] theorem Chip.modCore_harts (c : Chip) (n : Nat) (f : Core → Core) : (c.modCore n f).harts = c.harts := rfl
@[simp] theorem Chip.modCore_homes (c : Chip) (n : Nat) (f : Core → Core) : (c.modCore n f).homes = c.homes := rfl
@[simp] theorem Chip.modCore_mesh (c : Chip) (n : Nat) (f : Core → Core) : (c.modCore n f).mesh = c.mesh := rfl
@[simp] theorem Chip.modCore_links (c : Chip) (n : Nat) (f : Core → Core) : (c.modCore n f).links = c.links := rfl
@[simp] theorem Chip.modCore_mcs (c : Chip) (n : Nat) (f : Core → Core) : (c.modCore n f).mcs = c.mcs := rfl
@[simp] theorem Chip.modCore_mem (c : Chip) (n : Nat) (f : Core → Core) : (c.modCore n f).mem = c.mem := rfl
@[simp] theorem Chip.modCore_poison (c : Chip) (n : Nat) (f : Core → Core) : (c.modCore n f).poison = c.poison := rfl
@[simp] theorem Chip.modCore_imsic (c : Chip) (n : Nat) (f : Core → Core) : (c.modCore n f).imsic = c.imsic := rfl
@[simp] theorem Chip.modCore_pwr (c : Chip) (n : Nat) (f : Core → Core) : (c.modCore n f).pwr = c.pwr := rfl
@[simp] theorem Chip.modCore_boot (c : Chip) (n : Nat) (f : Core → Core) : (c.modCore n f).boot = c.boot := rfl
@[simp] theorem Chip.modCore_flash (c : Chip) (n : Nat) (f : Core → Core) : (c.modCore n f).flash = c.flash := rfl
@[simp] theorem Chip.modCore_pxs (c : Chip) (n : Nat) (f : Core → Core) : (c.modCore n f).pxs = c.pxs := rfl
@[simp] theorem Chip.modCore_iommu (c : Chip) (n : Nat) (f : Core → Core) : (c.modCore n f).iommu = c.iommu := rfl
@[simp] theorem Chip.modCore_funcs (c : Chip) (n : Nat) (f : Core → Core) : (c.modCore n f).funcs = c.funcs := rfl
@[simp] theorem Chip.modCore_rings (c : Chip) (n : Nat) (f : Core → Core) : (c.modCore n f).rings = c.rings := rfl
@[simp] theorem Chip.modCore_insts (c : Chip) (n : Nat) (f : Core → Core) : (c.modCore n f).insts = c.insts := rfl
@[simp] theorem Chip.modCore_eths (c : Chip) (n : Nat) (f : Core → Core) : (c.modCore n f).eths = c.eths := rfl
@[simp] theorem Chip.modCore_flow (c : Chip) (n : Nat) (f : Core → Core) : (c.modCore n f).flow = c.flow := rfl
@[simp] theorem Chip.modCore_limiters (c : Chip) (n : Nat) (f : Core → Core) : (c.modCore n f).limiters = c.limiters := rfl
@[simp] theorem Chip.modCore_engines (c : Chip) (n : Nat) (f : Core → Core) : (c.modCore n f).engines = c.engines := rfl
@[simp] theorem Chip.modCore_ctxs (c : Chip) (n : Nat) (f : Core → Core) : (c.modCore n f).ctxs = c.ctxs := rfl
@[simp] theorem Chip.modCore_drovers (c : Chip) (n : Nat) (f : Core → Core) : (c.modCore n f).drovers = c.drovers := rfl
@[simp] theorem Chip.modCore_banks (c : Chip) (n : Nat) (f : Core → Core) : (c.modCore n f).banks = c.banks := rfl
@[simp] theorem Chip.modCore_migs (c : Chip) (n : Nat) (f : Core → Core) : (c.modCore n f).migs = c.migs := rfl
@[simp] theorem Chip.modCore_mt (c : Chip) (n : Nat) (f : Core → Core) : (c.modCore n f).mt = c.mt := rfl
@[simp] theorem Chip.modCore_sums (c : Chip) (n : Nat) (f : Core → Core) : (c.modCore n f).sums = c.sums := rfl
@[simp] theorem Chip.modCore_net (c : Chip) (n : Nat) (f : Core → Core) : (c.modCore n f).net = c.net := rfl
@[simp] theorem Chip.modCore_standby (c : Chip) (n : Nat) (f : Core → Core) : (c.modCore n f).standby = c.standby := rfl
@[simp] theorem Chip.modCore_spillBase (c : Chip) (n : Nat) (f : Core → Core) : (c.modCore n f).spillBase = c.spillBase := rfl
@[simp] theorem Chip.modCore_spillLines (c : Chip) (n : Nat) (f : Core → Core) : (c.modCore n f).spillLines = c.spillLines := rfl
@[simp] theorem Chip.modCore_msiDrops (c : Chip) (n : Nat) (f : Core → Core) : (c.modCore n f).msiDrops = c.msiDrops := rfl

@[simp] theorem Chip.modHome_self (c : Chip) (n : Nat) (f : Home → Home) : (c.modHome n f).home n = f (c.home n) := by
  simp [Chip.modHome, Chip.home]

theorem Chip.modHome_ne {n k : Nat} (h : k ≠ n) (c : Chip) (f : Home → Home) : (c.modHome n f).home k = c.home k := by
  simp [Chip.modHome, Chip.home, Sparse.at_upd_ne h]

@[simp] theorem Chip.modHome_fuse (c : Chip) (n : Nat) (f : Home → Home) : (c.modHome n f).fuse = c.fuse := rfl
@[simp] theorem Chip.modHome_lastRead (c : Chip) (n : Nat) (f : Home → Home) : (c.modHome n f).lastRead = c.lastRead := rfl
@[simp] theorem Chip.modHome_mtime (c : Chip) (n : Nat) (f : Home → Home) : (c.modHome n f).mtime = c.mtime := rfl
@[simp] theorem Chip.modHome_units (c : Chip) (n : Nat) (f : Home → Home) : (c.modHome n f).units = c.units := rfl
@[simp] theorem Chip.modHome_ctl (c : Chip) (n : Nat) (f : Home → Home) : (c.modHome n f).ctl = c.ctl := rfl
@[simp] theorem Chip.modHome_errs (c : Chip) (n : Nat) (f : Home → Home) : (c.modHome n f).errs = c.errs := rfl
@[simp] theorem Chip.modHome_harts (c : Chip) (n : Nat) (f : Home → Home) : (c.modHome n f).harts = c.harts := rfl
@[simp] theorem Chip.modHome_cores (c : Chip) (n : Nat) (f : Home → Home) : (c.modHome n f).cores = c.cores := rfl
@[simp] theorem Chip.modHome_mesh (c : Chip) (n : Nat) (f : Home → Home) : (c.modHome n f).mesh = c.mesh := rfl
@[simp] theorem Chip.modHome_links (c : Chip) (n : Nat) (f : Home → Home) : (c.modHome n f).links = c.links := rfl
@[simp] theorem Chip.modHome_mcs (c : Chip) (n : Nat) (f : Home → Home) : (c.modHome n f).mcs = c.mcs := rfl
@[simp] theorem Chip.modHome_mem (c : Chip) (n : Nat) (f : Home → Home) : (c.modHome n f).mem = c.mem := rfl
@[simp] theorem Chip.modHome_poison (c : Chip) (n : Nat) (f : Home → Home) : (c.modHome n f).poison = c.poison := rfl
@[simp] theorem Chip.modHome_imsic (c : Chip) (n : Nat) (f : Home → Home) : (c.modHome n f).imsic = c.imsic := rfl
@[simp] theorem Chip.modHome_pwr (c : Chip) (n : Nat) (f : Home → Home) : (c.modHome n f).pwr = c.pwr := rfl
@[simp] theorem Chip.modHome_boot (c : Chip) (n : Nat) (f : Home → Home) : (c.modHome n f).boot = c.boot := rfl
@[simp] theorem Chip.modHome_flash (c : Chip) (n : Nat) (f : Home → Home) : (c.modHome n f).flash = c.flash := rfl
@[simp] theorem Chip.modHome_pxs (c : Chip) (n : Nat) (f : Home → Home) : (c.modHome n f).pxs = c.pxs := rfl
@[simp] theorem Chip.modHome_iommu (c : Chip) (n : Nat) (f : Home → Home) : (c.modHome n f).iommu = c.iommu := rfl
@[simp] theorem Chip.modHome_funcs (c : Chip) (n : Nat) (f : Home → Home) : (c.modHome n f).funcs = c.funcs := rfl
@[simp] theorem Chip.modHome_rings (c : Chip) (n : Nat) (f : Home → Home) : (c.modHome n f).rings = c.rings := rfl
@[simp] theorem Chip.modHome_insts (c : Chip) (n : Nat) (f : Home → Home) : (c.modHome n f).insts = c.insts := rfl
@[simp] theorem Chip.modHome_eths (c : Chip) (n : Nat) (f : Home → Home) : (c.modHome n f).eths = c.eths := rfl
@[simp] theorem Chip.modHome_flow (c : Chip) (n : Nat) (f : Home → Home) : (c.modHome n f).flow = c.flow := rfl
@[simp] theorem Chip.modHome_limiters (c : Chip) (n : Nat) (f : Home → Home) : (c.modHome n f).limiters = c.limiters := rfl
@[simp] theorem Chip.modHome_engines (c : Chip) (n : Nat) (f : Home → Home) : (c.modHome n f).engines = c.engines := rfl
@[simp] theorem Chip.modHome_ctxs (c : Chip) (n : Nat) (f : Home → Home) : (c.modHome n f).ctxs = c.ctxs := rfl
@[simp] theorem Chip.modHome_drovers (c : Chip) (n : Nat) (f : Home → Home) : (c.modHome n f).drovers = c.drovers := rfl
@[simp] theorem Chip.modHome_banks (c : Chip) (n : Nat) (f : Home → Home) : (c.modHome n f).banks = c.banks := rfl
@[simp] theorem Chip.modHome_migs (c : Chip) (n : Nat) (f : Home → Home) : (c.modHome n f).migs = c.migs := rfl
@[simp] theorem Chip.modHome_mt (c : Chip) (n : Nat) (f : Home → Home) : (c.modHome n f).mt = c.mt := rfl
@[simp] theorem Chip.modHome_sums (c : Chip) (n : Nat) (f : Home → Home) : (c.modHome n f).sums = c.sums := rfl
@[simp] theorem Chip.modHome_net (c : Chip) (n : Nat) (f : Home → Home) : (c.modHome n f).net = c.net := rfl
@[simp] theorem Chip.modHome_standby (c : Chip) (n : Nat) (f : Home → Home) : (c.modHome n f).standby = c.standby := rfl
@[simp] theorem Chip.modHome_spillBase (c : Chip) (n : Nat) (f : Home → Home) : (c.modHome n f).spillBase = c.spillBase := rfl
@[simp] theorem Chip.modHome_spillLines (c : Chip) (n : Nat) (f : Home → Home) : (c.modHome n f).spillLines = c.spillLines := rfl
@[simp] theorem Chip.modHome_msiDrops (c : Chip) (n : Nat) (f : Home → Home) : (c.modHome n f).msiDrops = c.msiDrops := rfl

@[simp] theorem Chip.modMc_self (c : Chip) (n : Nat) (f : Mc → Mc) : (c.modMc n f).mc n = f (c.mc n) := by
  simp [Chip.modMc, Chip.mc]

theorem Chip.modMc_ne {n k : Nat} (h : k ≠ n) (c : Chip) (f : Mc → Mc) : (c.modMc n f).mc k = c.mc k := by
  simp [Chip.modMc, Chip.mc, Sparse.at_upd_ne h]

@[simp] theorem Chip.modMc_fuse (c : Chip) (n : Nat) (f : Mc → Mc) : (c.modMc n f).fuse = c.fuse := rfl
@[simp] theorem Chip.modMc_lastRead (c : Chip) (n : Nat) (f : Mc → Mc) : (c.modMc n f).lastRead = c.lastRead := rfl
@[simp] theorem Chip.modMc_mtime (c : Chip) (n : Nat) (f : Mc → Mc) : (c.modMc n f).mtime = c.mtime := rfl
@[simp] theorem Chip.modMc_units (c : Chip) (n : Nat) (f : Mc → Mc) : (c.modMc n f).units = c.units := rfl
@[simp] theorem Chip.modMc_ctl (c : Chip) (n : Nat) (f : Mc → Mc) : (c.modMc n f).ctl = c.ctl := rfl
@[simp] theorem Chip.modMc_errs (c : Chip) (n : Nat) (f : Mc → Mc) : (c.modMc n f).errs = c.errs := rfl
@[simp] theorem Chip.modMc_harts (c : Chip) (n : Nat) (f : Mc → Mc) : (c.modMc n f).harts = c.harts := rfl
@[simp] theorem Chip.modMc_cores (c : Chip) (n : Nat) (f : Mc → Mc) : (c.modMc n f).cores = c.cores := rfl
@[simp] theorem Chip.modMc_homes (c : Chip) (n : Nat) (f : Mc → Mc) : (c.modMc n f).homes = c.homes := rfl
@[simp] theorem Chip.modMc_mesh (c : Chip) (n : Nat) (f : Mc → Mc) : (c.modMc n f).mesh = c.mesh := rfl
@[simp] theorem Chip.modMc_links (c : Chip) (n : Nat) (f : Mc → Mc) : (c.modMc n f).links = c.links := rfl
@[simp] theorem Chip.modMc_mem (c : Chip) (n : Nat) (f : Mc → Mc) : (c.modMc n f).mem = c.mem := rfl
@[simp] theorem Chip.modMc_poison (c : Chip) (n : Nat) (f : Mc → Mc) : (c.modMc n f).poison = c.poison := rfl
@[simp] theorem Chip.modMc_imsic (c : Chip) (n : Nat) (f : Mc → Mc) : (c.modMc n f).imsic = c.imsic := rfl
@[simp] theorem Chip.modMc_pwr (c : Chip) (n : Nat) (f : Mc → Mc) : (c.modMc n f).pwr = c.pwr := rfl
@[simp] theorem Chip.modMc_boot (c : Chip) (n : Nat) (f : Mc → Mc) : (c.modMc n f).boot = c.boot := rfl
@[simp] theorem Chip.modMc_flash (c : Chip) (n : Nat) (f : Mc → Mc) : (c.modMc n f).flash = c.flash := rfl
@[simp] theorem Chip.modMc_pxs (c : Chip) (n : Nat) (f : Mc → Mc) : (c.modMc n f).pxs = c.pxs := rfl
@[simp] theorem Chip.modMc_iommu (c : Chip) (n : Nat) (f : Mc → Mc) : (c.modMc n f).iommu = c.iommu := rfl
@[simp] theorem Chip.modMc_funcs (c : Chip) (n : Nat) (f : Mc → Mc) : (c.modMc n f).funcs = c.funcs := rfl
@[simp] theorem Chip.modMc_rings (c : Chip) (n : Nat) (f : Mc → Mc) : (c.modMc n f).rings = c.rings := rfl
@[simp] theorem Chip.modMc_insts (c : Chip) (n : Nat) (f : Mc → Mc) : (c.modMc n f).insts = c.insts := rfl
@[simp] theorem Chip.modMc_eths (c : Chip) (n : Nat) (f : Mc → Mc) : (c.modMc n f).eths = c.eths := rfl
@[simp] theorem Chip.modMc_flow (c : Chip) (n : Nat) (f : Mc → Mc) : (c.modMc n f).flow = c.flow := rfl
@[simp] theorem Chip.modMc_limiters (c : Chip) (n : Nat) (f : Mc → Mc) : (c.modMc n f).limiters = c.limiters := rfl
@[simp] theorem Chip.modMc_engines (c : Chip) (n : Nat) (f : Mc → Mc) : (c.modMc n f).engines = c.engines := rfl
@[simp] theorem Chip.modMc_ctxs (c : Chip) (n : Nat) (f : Mc → Mc) : (c.modMc n f).ctxs = c.ctxs := rfl
@[simp] theorem Chip.modMc_drovers (c : Chip) (n : Nat) (f : Mc → Mc) : (c.modMc n f).drovers = c.drovers := rfl
@[simp] theorem Chip.modMc_banks (c : Chip) (n : Nat) (f : Mc → Mc) : (c.modMc n f).banks = c.banks := rfl
@[simp] theorem Chip.modMc_migs (c : Chip) (n : Nat) (f : Mc → Mc) : (c.modMc n f).migs = c.migs := rfl
@[simp] theorem Chip.modMc_mt (c : Chip) (n : Nat) (f : Mc → Mc) : (c.modMc n f).mt = c.mt := rfl
@[simp] theorem Chip.modMc_sums (c : Chip) (n : Nat) (f : Mc → Mc) : (c.modMc n f).sums = c.sums := rfl
@[simp] theorem Chip.modMc_net (c : Chip) (n : Nat) (f : Mc → Mc) : (c.modMc n f).net = c.net := rfl
@[simp] theorem Chip.modMc_standby (c : Chip) (n : Nat) (f : Mc → Mc) : (c.modMc n f).standby = c.standby := rfl
@[simp] theorem Chip.modMc_spillBase (c : Chip) (n : Nat) (f : Mc → Mc) : (c.modMc n f).spillBase = c.spillBase := rfl
@[simp] theorem Chip.modMc_spillLines (c : Chip) (n : Nat) (f : Mc → Mc) : (c.modMc n f).spillLines = c.spillLines := rfl
@[simp] theorem Chip.modMc_msiDrops (c : Chip) (n : Nat) (f : Mc → Mc) : (c.modMc n f).msiDrops = c.msiDrops := rfl

@[simp] theorem Chip.modUnit_self (c : Chip) (n : Nat) (f : UnitSt → UnitSt) : (c.modUnit n f).unit n = f (c.unit n) := by
  simp [Chip.modUnit, Chip.unit]

theorem Chip.modUnit_ne {n k : Nat} (h : k ≠ n) (c : Chip) (f : UnitSt → UnitSt) : (c.modUnit n f).unit k = c.unit k := by
  simp [Chip.modUnit, Chip.unit, Sparse.at_upd_ne h]

@[simp] theorem Chip.modUnit_fuse (c : Chip) (n : Nat) (f : UnitSt → UnitSt) : (c.modUnit n f).fuse = c.fuse := rfl
@[simp] theorem Chip.modUnit_lastRead (c : Chip) (n : Nat) (f : UnitSt → UnitSt) : (c.modUnit n f).lastRead = c.lastRead := rfl
@[simp] theorem Chip.modUnit_mtime (c : Chip) (n : Nat) (f : UnitSt → UnitSt) : (c.modUnit n f).mtime = c.mtime := rfl
@[simp] theorem Chip.modUnit_ctl (c : Chip) (n : Nat) (f : UnitSt → UnitSt) : (c.modUnit n f).ctl = c.ctl := rfl
@[simp] theorem Chip.modUnit_errs (c : Chip) (n : Nat) (f : UnitSt → UnitSt) : (c.modUnit n f).errs = c.errs := rfl
@[simp] theorem Chip.modUnit_harts (c : Chip) (n : Nat) (f : UnitSt → UnitSt) : (c.modUnit n f).harts = c.harts := rfl
@[simp] theorem Chip.modUnit_cores (c : Chip) (n : Nat) (f : UnitSt → UnitSt) : (c.modUnit n f).cores = c.cores := rfl
@[simp] theorem Chip.modUnit_homes (c : Chip) (n : Nat) (f : UnitSt → UnitSt) : (c.modUnit n f).homes = c.homes := rfl
@[simp] theorem Chip.modUnit_mesh (c : Chip) (n : Nat) (f : UnitSt → UnitSt) : (c.modUnit n f).mesh = c.mesh := rfl
@[simp] theorem Chip.modUnit_links (c : Chip) (n : Nat) (f : UnitSt → UnitSt) : (c.modUnit n f).links = c.links := rfl
@[simp] theorem Chip.modUnit_mcs (c : Chip) (n : Nat) (f : UnitSt → UnitSt) : (c.modUnit n f).mcs = c.mcs := rfl
@[simp] theorem Chip.modUnit_mem (c : Chip) (n : Nat) (f : UnitSt → UnitSt) : (c.modUnit n f).mem = c.mem := rfl
@[simp] theorem Chip.modUnit_poison (c : Chip) (n : Nat) (f : UnitSt → UnitSt) : (c.modUnit n f).poison = c.poison := rfl
@[simp] theorem Chip.modUnit_imsic (c : Chip) (n : Nat) (f : UnitSt → UnitSt) : (c.modUnit n f).imsic = c.imsic := rfl
@[simp] theorem Chip.modUnit_pwr (c : Chip) (n : Nat) (f : UnitSt → UnitSt) : (c.modUnit n f).pwr = c.pwr := rfl
@[simp] theorem Chip.modUnit_boot (c : Chip) (n : Nat) (f : UnitSt → UnitSt) : (c.modUnit n f).boot = c.boot := rfl
@[simp] theorem Chip.modUnit_flash (c : Chip) (n : Nat) (f : UnitSt → UnitSt) : (c.modUnit n f).flash = c.flash := rfl
@[simp] theorem Chip.modUnit_pxs (c : Chip) (n : Nat) (f : UnitSt → UnitSt) : (c.modUnit n f).pxs = c.pxs := rfl
@[simp] theorem Chip.modUnit_iommu (c : Chip) (n : Nat) (f : UnitSt → UnitSt) : (c.modUnit n f).iommu = c.iommu := rfl
@[simp] theorem Chip.modUnit_funcs (c : Chip) (n : Nat) (f : UnitSt → UnitSt) : (c.modUnit n f).funcs = c.funcs := rfl
@[simp] theorem Chip.modUnit_rings (c : Chip) (n : Nat) (f : UnitSt → UnitSt) : (c.modUnit n f).rings = c.rings := rfl
@[simp] theorem Chip.modUnit_insts (c : Chip) (n : Nat) (f : UnitSt → UnitSt) : (c.modUnit n f).insts = c.insts := rfl
@[simp] theorem Chip.modUnit_eths (c : Chip) (n : Nat) (f : UnitSt → UnitSt) : (c.modUnit n f).eths = c.eths := rfl
@[simp] theorem Chip.modUnit_flow (c : Chip) (n : Nat) (f : UnitSt → UnitSt) : (c.modUnit n f).flow = c.flow := rfl
@[simp] theorem Chip.modUnit_limiters (c : Chip) (n : Nat) (f : UnitSt → UnitSt) : (c.modUnit n f).limiters = c.limiters := rfl
@[simp] theorem Chip.modUnit_engines (c : Chip) (n : Nat) (f : UnitSt → UnitSt) : (c.modUnit n f).engines = c.engines := rfl
@[simp] theorem Chip.modUnit_ctxs (c : Chip) (n : Nat) (f : UnitSt → UnitSt) : (c.modUnit n f).ctxs = c.ctxs := rfl
@[simp] theorem Chip.modUnit_drovers (c : Chip) (n : Nat) (f : UnitSt → UnitSt) : (c.modUnit n f).drovers = c.drovers := rfl
@[simp] theorem Chip.modUnit_banks (c : Chip) (n : Nat) (f : UnitSt → UnitSt) : (c.modUnit n f).banks = c.banks := rfl
@[simp] theorem Chip.modUnit_migs (c : Chip) (n : Nat) (f : UnitSt → UnitSt) : (c.modUnit n f).migs = c.migs := rfl
@[simp] theorem Chip.modUnit_mt (c : Chip) (n : Nat) (f : UnitSt → UnitSt) : (c.modUnit n f).mt = c.mt := rfl
@[simp] theorem Chip.modUnit_sums (c : Chip) (n : Nat) (f : UnitSt → UnitSt) : (c.modUnit n f).sums = c.sums := rfl
@[simp] theorem Chip.modUnit_net (c : Chip) (n : Nat) (f : UnitSt → UnitSt) : (c.modUnit n f).net = c.net := rfl
@[simp] theorem Chip.modUnit_standby (c : Chip) (n : Nat) (f : UnitSt → UnitSt) : (c.modUnit n f).standby = c.standby := rfl
@[simp] theorem Chip.modUnit_spillBase (c : Chip) (n : Nat) (f : UnitSt → UnitSt) : (c.modUnit n f).spillBase = c.spillBase := rfl
@[simp] theorem Chip.modUnit_spillLines (c : Chip) (n : Nat) (f : UnitSt → UnitSt) : (c.modUnit n f).spillLines = c.spillLines := rfl
@[simp] theorem Chip.modUnit_msiDrops (c : Chip) (n : Nat) (f : UnitSt → UnitSt) : (c.modUnit n f).msiDrops = c.msiDrops := rfl

@[simp] theorem Chip.modPx_self (c : Chip) (n : Nat) (f : Px → Px) : (c.modPx n f).px n = f (c.px n) := by
  simp [Chip.modPx, Chip.px]

theorem Chip.modPx_ne {n k : Nat} (h : k ≠ n) (c : Chip) (f : Px → Px) : (c.modPx n f).px k = c.px k := by
  simp [Chip.modPx, Chip.px, Sparse.at_upd_ne h]

@[simp] theorem Chip.modPx_fuse (c : Chip) (n : Nat) (f : Px → Px) : (c.modPx n f).fuse = c.fuse := rfl
@[simp] theorem Chip.modPx_lastRead (c : Chip) (n : Nat) (f : Px → Px) : (c.modPx n f).lastRead = c.lastRead := rfl
@[simp] theorem Chip.modPx_mtime (c : Chip) (n : Nat) (f : Px → Px) : (c.modPx n f).mtime = c.mtime := rfl
@[simp] theorem Chip.modPx_units (c : Chip) (n : Nat) (f : Px → Px) : (c.modPx n f).units = c.units := rfl
@[simp] theorem Chip.modPx_ctl (c : Chip) (n : Nat) (f : Px → Px) : (c.modPx n f).ctl = c.ctl := rfl
@[simp] theorem Chip.modPx_errs (c : Chip) (n : Nat) (f : Px → Px) : (c.modPx n f).errs = c.errs := rfl
@[simp] theorem Chip.modPx_harts (c : Chip) (n : Nat) (f : Px → Px) : (c.modPx n f).harts = c.harts := rfl
@[simp] theorem Chip.modPx_cores (c : Chip) (n : Nat) (f : Px → Px) : (c.modPx n f).cores = c.cores := rfl
@[simp] theorem Chip.modPx_homes (c : Chip) (n : Nat) (f : Px → Px) : (c.modPx n f).homes = c.homes := rfl
@[simp] theorem Chip.modPx_mesh (c : Chip) (n : Nat) (f : Px → Px) : (c.modPx n f).mesh = c.mesh := rfl
@[simp] theorem Chip.modPx_links (c : Chip) (n : Nat) (f : Px → Px) : (c.modPx n f).links = c.links := rfl
@[simp] theorem Chip.modPx_mcs (c : Chip) (n : Nat) (f : Px → Px) : (c.modPx n f).mcs = c.mcs := rfl
@[simp] theorem Chip.modPx_mem (c : Chip) (n : Nat) (f : Px → Px) : (c.modPx n f).mem = c.mem := rfl
@[simp] theorem Chip.modPx_poison (c : Chip) (n : Nat) (f : Px → Px) : (c.modPx n f).poison = c.poison := rfl
@[simp] theorem Chip.modPx_imsic (c : Chip) (n : Nat) (f : Px → Px) : (c.modPx n f).imsic = c.imsic := rfl
@[simp] theorem Chip.modPx_pwr (c : Chip) (n : Nat) (f : Px → Px) : (c.modPx n f).pwr = c.pwr := rfl
@[simp] theorem Chip.modPx_boot (c : Chip) (n : Nat) (f : Px → Px) : (c.modPx n f).boot = c.boot := rfl
@[simp] theorem Chip.modPx_flash (c : Chip) (n : Nat) (f : Px → Px) : (c.modPx n f).flash = c.flash := rfl
@[simp] theorem Chip.modPx_iommu (c : Chip) (n : Nat) (f : Px → Px) : (c.modPx n f).iommu = c.iommu := rfl
@[simp] theorem Chip.modPx_funcs (c : Chip) (n : Nat) (f : Px → Px) : (c.modPx n f).funcs = c.funcs := rfl
@[simp] theorem Chip.modPx_rings (c : Chip) (n : Nat) (f : Px → Px) : (c.modPx n f).rings = c.rings := rfl
@[simp] theorem Chip.modPx_insts (c : Chip) (n : Nat) (f : Px → Px) : (c.modPx n f).insts = c.insts := rfl
@[simp] theorem Chip.modPx_eths (c : Chip) (n : Nat) (f : Px → Px) : (c.modPx n f).eths = c.eths := rfl
@[simp] theorem Chip.modPx_flow (c : Chip) (n : Nat) (f : Px → Px) : (c.modPx n f).flow = c.flow := rfl
@[simp] theorem Chip.modPx_limiters (c : Chip) (n : Nat) (f : Px → Px) : (c.modPx n f).limiters = c.limiters := rfl
@[simp] theorem Chip.modPx_engines (c : Chip) (n : Nat) (f : Px → Px) : (c.modPx n f).engines = c.engines := rfl
@[simp] theorem Chip.modPx_ctxs (c : Chip) (n : Nat) (f : Px → Px) : (c.modPx n f).ctxs = c.ctxs := rfl
@[simp] theorem Chip.modPx_drovers (c : Chip) (n : Nat) (f : Px → Px) : (c.modPx n f).drovers = c.drovers := rfl
@[simp] theorem Chip.modPx_banks (c : Chip) (n : Nat) (f : Px → Px) : (c.modPx n f).banks = c.banks := rfl
@[simp] theorem Chip.modPx_migs (c : Chip) (n : Nat) (f : Px → Px) : (c.modPx n f).migs = c.migs := rfl
@[simp] theorem Chip.modPx_mt (c : Chip) (n : Nat) (f : Px → Px) : (c.modPx n f).mt = c.mt := rfl
@[simp] theorem Chip.modPx_sums (c : Chip) (n : Nat) (f : Px → Px) : (c.modPx n f).sums = c.sums := rfl
@[simp] theorem Chip.modPx_net (c : Chip) (n : Nat) (f : Px → Px) : (c.modPx n f).net = c.net := rfl
@[simp] theorem Chip.modPx_standby (c : Chip) (n : Nat) (f : Px → Px) : (c.modPx n f).standby = c.standby := rfl
@[simp] theorem Chip.modPx_spillBase (c : Chip) (n : Nat) (f : Px → Px) : (c.modPx n f).spillBase = c.spillBase := rfl
@[simp] theorem Chip.modPx_spillLines (c : Chip) (n : Nat) (f : Px → Px) : (c.modPx n f).spillLines = c.spillLines := rfl
@[simp] theorem Chip.modPx_msiDrops (c : Chip) (n : Nat) (f : Px → Px) : (c.modPx n f).msiDrops = c.msiDrops := rfl

@[simp] theorem Chip.modFunc_self (c : Chip) (n : Nat) (f : Func → Func) : (c.modFunc n f).func n = f (c.func n) := by
  simp [Chip.modFunc, Chip.func]

theorem Chip.modFunc_ne {n k : Nat} (h : k ≠ n) (c : Chip) (f : Func → Func) : (c.modFunc n f).func k = c.func k := by
  simp [Chip.modFunc, Chip.func, Sparse.at_upd_ne h]

@[simp] theorem Chip.modFunc_fuse (c : Chip) (n : Nat) (f : Func → Func) : (c.modFunc n f).fuse = c.fuse := rfl
@[simp] theorem Chip.modFunc_lastRead (c : Chip) (n : Nat) (f : Func → Func) : (c.modFunc n f).lastRead = c.lastRead := rfl
@[simp] theorem Chip.modFunc_mtime (c : Chip) (n : Nat) (f : Func → Func) : (c.modFunc n f).mtime = c.mtime := rfl
@[simp] theorem Chip.modFunc_units (c : Chip) (n : Nat) (f : Func → Func) : (c.modFunc n f).units = c.units := rfl
@[simp] theorem Chip.modFunc_ctl (c : Chip) (n : Nat) (f : Func → Func) : (c.modFunc n f).ctl = c.ctl := rfl
@[simp] theorem Chip.modFunc_errs (c : Chip) (n : Nat) (f : Func → Func) : (c.modFunc n f).errs = c.errs := rfl
@[simp] theorem Chip.modFunc_harts (c : Chip) (n : Nat) (f : Func → Func) : (c.modFunc n f).harts = c.harts := rfl
@[simp] theorem Chip.modFunc_cores (c : Chip) (n : Nat) (f : Func → Func) : (c.modFunc n f).cores = c.cores := rfl
@[simp] theorem Chip.modFunc_homes (c : Chip) (n : Nat) (f : Func → Func) : (c.modFunc n f).homes = c.homes := rfl
@[simp] theorem Chip.modFunc_mesh (c : Chip) (n : Nat) (f : Func → Func) : (c.modFunc n f).mesh = c.mesh := rfl
@[simp] theorem Chip.modFunc_links (c : Chip) (n : Nat) (f : Func → Func) : (c.modFunc n f).links = c.links := rfl
@[simp] theorem Chip.modFunc_mcs (c : Chip) (n : Nat) (f : Func → Func) : (c.modFunc n f).mcs = c.mcs := rfl
@[simp] theorem Chip.modFunc_mem (c : Chip) (n : Nat) (f : Func → Func) : (c.modFunc n f).mem = c.mem := rfl
@[simp] theorem Chip.modFunc_poison (c : Chip) (n : Nat) (f : Func → Func) : (c.modFunc n f).poison = c.poison := rfl
@[simp] theorem Chip.modFunc_imsic (c : Chip) (n : Nat) (f : Func → Func) : (c.modFunc n f).imsic = c.imsic := rfl
@[simp] theorem Chip.modFunc_pwr (c : Chip) (n : Nat) (f : Func → Func) : (c.modFunc n f).pwr = c.pwr := rfl
@[simp] theorem Chip.modFunc_boot (c : Chip) (n : Nat) (f : Func → Func) : (c.modFunc n f).boot = c.boot := rfl
@[simp] theorem Chip.modFunc_flash (c : Chip) (n : Nat) (f : Func → Func) : (c.modFunc n f).flash = c.flash := rfl
@[simp] theorem Chip.modFunc_pxs (c : Chip) (n : Nat) (f : Func → Func) : (c.modFunc n f).pxs = c.pxs := rfl
@[simp] theorem Chip.modFunc_iommu (c : Chip) (n : Nat) (f : Func → Func) : (c.modFunc n f).iommu = c.iommu := rfl
@[simp] theorem Chip.modFunc_rings (c : Chip) (n : Nat) (f : Func → Func) : (c.modFunc n f).rings = c.rings := rfl
@[simp] theorem Chip.modFunc_insts (c : Chip) (n : Nat) (f : Func → Func) : (c.modFunc n f).insts = c.insts := rfl
@[simp] theorem Chip.modFunc_eths (c : Chip) (n : Nat) (f : Func → Func) : (c.modFunc n f).eths = c.eths := rfl
@[simp] theorem Chip.modFunc_flow (c : Chip) (n : Nat) (f : Func → Func) : (c.modFunc n f).flow = c.flow := rfl
@[simp] theorem Chip.modFunc_limiters (c : Chip) (n : Nat) (f : Func → Func) : (c.modFunc n f).limiters = c.limiters := rfl
@[simp] theorem Chip.modFunc_engines (c : Chip) (n : Nat) (f : Func → Func) : (c.modFunc n f).engines = c.engines := rfl
@[simp] theorem Chip.modFunc_ctxs (c : Chip) (n : Nat) (f : Func → Func) : (c.modFunc n f).ctxs = c.ctxs := rfl
@[simp] theorem Chip.modFunc_drovers (c : Chip) (n : Nat) (f : Func → Func) : (c.modFunc n f).drovers = c.drovers := rfl
@[simp] theorem Chip.modFunc_banks (c : Chip) (n : Nat) (f : Func → Func) : (c.modFunc n f).banks = c.banks := rfl
@[simp] theorem Chip.modFunc_migs (c : Chip) (n : Nat) (f : Func → Func) : (c.modFunc n f).migs = c.migs := rfl
@[simp] theorem Chip.modFunc_mt (c : Chip) (n : Nat) (f : Func → Func) : (c.modFunc n f).mt = c.mt := rfl
@[simp] theorem Chip.modFunc_sums (c : Chip) (n : Nat) (f : Func → Func) : (c.modFunc n f).sums = c.sums := rfl
@[simp] theorem Chip.modFunc_net (c : Chip) (n : Nat) (f : Func → Func) : (c.modFunc n f).net = c.net := rfl
@[simp] theorem Chip.modFunc_standby (c : Chip) (n : Nat) (f : Func → Func) : (c.modFunc n f).standby = c.standby := rfl
@[simp] theorem Chip.modFunc_spillBase (c : Chip) (n : Nat) (f : Func → Func) : (c.modFunc n f).spillBase = c.spillBase := rfl
@[simp] theorem Chip.modFunc_spillLines (c : Chip) (n : Nat) (f : Func → Func) : (c.modFunc n f).spillLines = c.spillLines := rfl
@[simp] theorem Chip.modFunc_msiDrops (c : Chip) (n : Nat) (f : Func → Func) : (c.modFunc n f).msiDrops = c.msiDrops := rfl

@[simp] theorem Chip.modInst_self (c : Chip) (n : Nat) (f : Inst → Inst) : (c.modInst n f).inst n = f (c.inst n) := by
  simp [Chip.modInst, Chip.inst]

theorem Chip.modInst_ne {n k : Nat} (h : k ≠ n) (c : Chip) (f : Inst → Inst) : (c.modInst n f).inst k = c.inst k := by
  simp [Chip.modInst, Chip.inst, Sparse.at_upd_ne h]

@[simp] theorem Chip.modInst_fuse (c : Chip) (n : Nat) (f : Inst → Inst) : (c.modInst n f).fuse = c.fuse := rfl
@[simp] theorem Chip.modInst_lastRead (c : Chip) (n : Nat) (f : Inst → Inst) : (c.modInst n f).lastRead = c.lastRead := rfl
@[simp] theorem Chip.modInst_mtime (c : Chip) (n : Nat) (f : Inst → Inst) : (c.modInst n f).mtime = c.mtime := rfl
@[simp] theorem Chip.modInst_units (c : Chip) (n : Nat) (f : Inst → Inst) : (c.modInst n f).units = c.units := rfl
@[simp] theorem Chip.modInst_ctl (c : Chip) (n : Nat) (f : Inst → Inst) : (c.modInst n f).ctl = c.ctl := rfl
@[simp] theorem Chip.modInst_errs (c : Chip) (n : Nat) (f : Inst → Inst) : (c.modInst n f).errs = c.errs := rfl
@[simp] theorem Chip.modInst_harts (c : Chip) (n : Nat) (f : Inst → Inst) : (c.modInst n f).harts = c.harts := rfl
@[simp] theorem Chip.modInst_cores (c : Chip) (n : Nat) (f : Inst → Inst) : (c.modInst n f).cores = c.cores := rfl
@[simp] theorem Chip.modInst_homes (c : Chip) (n : Nat) (f : Inst → Inst) : (c.modInst n f).homes = c.homes := rfl
@[simp] theorem Chip.modInst_mesh (c : Chip) (n : Nat) (f : Inst → Inst) : (c.modInst n f).mesh = c.mesh := rfl
@[simp] theorem Chip.modInst_links (c : Chip) (n : Nat) (f : Inst → Inst) : (c.modInst n f).links = c.links := rfl
@[simp] theorem Chip.modInst_mcs (c : Chip) (n : Nat) (f : Inst → Inst) : (c.modInst n f).mcs = c.mcs := rfl
@[simp] theorem Chip.modInst_mem (c : Chip) (n : Nat) (f : Inst → Inst) : (c.modInst n f).mem = c.mem := rfl
@[simp] theorem Chip.modInst_poison (c : Chip) (n : Nat) (f : Inst → Inst) : (c.modInst n f).poison = c.poison := rfl
@[simp] theorem Chip.modInst_imsic (c : Chip) (n : Nat) (f : Inst → Inst) : (c.modInst n f).imsic = c.imsic := rfl
@[simp] theorem Chip.modInst_pwr (c : Chip) (n : Nat) (f : Inst → Inst) : (c.modInst n f).pwr = c.pwr := rfl
@[simp] theorem Chip.modInst_boot (c : Chip) (n : Nat) (f : Inst → Inst) : (c.modInst n f).boot = c.boot := rfl
@[simp] theorem Chip.modInst_flash (c : Chip) (n : Nat) (f : Inst → Inst) : (c.modInst n f).flash = c.flash := rfl
@[simp] theorem Chip.modInst_pxs (c : Chip) (n : Nat) (f : Inst → Inst) : (c.modInst n f).pxs = c.pxs := rfl
@[simp] theorem Chip.modInst_iommu (c : Chip) (n : Nat) (f : Inst → Inst) : (c.modInst n f).iommu = c.iommu := rfl
@[simp] theorem Chip.modInst_funcs (c : Chip) (n : Nat) (f : Inst → Inst) : (c.modInst n f).funcs = c.funcs := rfl
@[simp] theorem Chip.modInst_rings (c : Chip) (n : Nat) (f : Inst → Inst) : (c.modInst n f).rings = c.rings := rfl
@[simp] theorem Chip.modInst_eths (c : Chip) (n : Nat) (f : Inst → Inst) : (c.modInst n f).eths = c.eths := rfl
@[simp] theorem Chip.modInst_flow (c : Chip) (n : Nat) (f : Inst → Inst) : (c.modInst n f).flow = c.flow := rfl
@[simp] theorem Chip.modInst_limiters (c : Chip) (n : Nat) (f : Inst → Inst) : (c.modInst n f).limiters = c.limiters := rfl
@[simp] theorem Chip.modInst_engines (c : Chip) (n : Nat) (f : Inst → Inst) : (c.modInst n f).engines = c.engines := rfl
@[simp] theorem Chip.modInst_ctxs (c : Chip) (n : Nat) (f : Inst → Inst) : (c.modInst n f).ctxs = c.ctxs := rfl
@[simp] theorem Chip.modInst_drovers (c : Chip) (n : Nat) (f : Inst → Inst) : (c.modInst n f).drovers = c.drovers := rfl
@[simp] theorem Chip.modInst_banks (c : Chip) (n : Nat) (f : Inst → Inst) : (c.modInst n f).banks = c.banks := rfl
@[simp] theorem Chip.modInst_migs (c : Chip) (n : Nat) (f : Inst → Inst) : (c.modInst n f).migs = c.migs := rfl
@[simp] theorem Chip.modInst_mt (c : Chip) (n : Nat) (f : Inst → Inst) : (c.modInst n f).mt = c.mt := rfl
@[simp] theorem Chip.modInst_sums (c : Chip) (n : Nat) (f : Inst → Inst) : (c.modInst n f).sums = c.sums := rfl
@[simp] theorem Chip.modInst_net (c : Chip) (n : Nat) (f : Inst → Inst) : (c.modInst n f).net = c.net := rfl
@[simp] theorem Chip.modInst_standby (c : Chip) (n : Nat) (f : Inst → Inst) : (c.modInst n f).standby = c.standby := rfl
@[simp] theorem Chip.modInst_spillBase (c : Chip) (n : Nat) (f : Inst → Inst) : (c.modInst n f).spillBase = c.spillBase := rfl
@[simp] theorem Chip.modInst_spillLines (c : Chip) (n : Nat) (f : Inst → Inst) : (c.modInst n f).spillLines = c.spillLines := rfl
@[simp] theorem Chip.modInst_msiDrops (c : Chip) (n : Nat) (f : Inst → Inst) : (c.modInst n f).msiDrops = c.msiDrops := rfl

@[simp] theorem Chip.modDrover_self (c : Chip) (n : Nat) (f : Drover → Drover) : (c.modDrover n f).drover n = f (c.drover n) := by
  simp [Chip.modDrover, Chip.drover]

theorem Chip.modDrover_ne {n k : Nat} (h : k ≠ n) (c : Chip) (f : Drover → Drover) : (c.modDrover n f).drover k = c.drover k := by
  simp [Chip.modDrover, Chip.drover, Sparse.at_upd_ne h]

@[simp] theorem Chip.modDrover_fuse (c : Chip) (n : Nat) (f : Drover → Drover) : (c.modDrover n f).fuse = c.fuse := rfl
@[simp] theorem Chip.modDrover_lastRead (c : Chip) (n : Nat) (f : Drover → Drover) : (c.modDrover n f).lastRead = c.lastRead := rfl
@[simp] theorem Chip.modDrover_mtime (c : Chip) (n : Nat) (f : Drover → Drover) : (c.modDrover n f).mtime = c.mtime := rfl
@[simp] theorem Chip.modDrover_units (c : Chip) (n : Nat) (f : Drover → Drover) : (c.modDrover n f).units = c.units := rfl
@[simp] theorem Chip.modDrover_ctl (c : Chip) (n : Nat) (f : Drover → Drover) : (c.modDrover n f).ctl = c.ctl := rfl
@[simp] theorem Chip.modDrover_errs (c : Chip) (n : Nat) (f : Drover → Drover) : (c.modDrover n f).errs = c.errs := rfl
@[simp] theorem Chip.modDrover_harts (c : Chip) (n : Nat) (f : Drover → Drover) : (c.modDrover n f).harts = c.harts := rfl
@[simp] theorem Chip.modDrover_cores (c : Chip) (n : Nat) (f : Drover → Drover) : (c.modDrover n f).cores = c.cores := rfl
@[simp] theorem Chip.modDrover_homes (c : Chip) (n : Nat) (f : Drover → Drover) : (c.modDrover n f).homes = c.homes := rfl
@[simp] theorem Chip.modDrover_mesh (c : Chip) (n : Nat) (f : Drover → Drover) : (c.modDrover n f).mesh = c.mesh := rfl
@[simp] theorem Chip.modDrover_links (c : Chip) (n : Nat) (f : Drover → Drover) : (c.modDrover n f).links = c.links := rfl
@[simp] theorem Chip.modDrover_mcs (c : Chip) (n : Nat) (f : Drover → Drover) : (c.modDrover n f).mcs = c.mcs := rfl
@[simp] theorem Chip.modDrover_mem (c : Chip) (n : Nat) (f : Drover → Drover) : (c.modDrover n f).mem = c.mem := rfl
@[simp] theorem Chip.modDrover_poison (c : Chip) (n : Nat) (f : Drover → Drover) : (c.modDrover n f).poison = c.poison := rfl
@[simp] theorem Chip.modDrover_imsic (c : Chip) (n : Nat) (f : Drover → Drover) : (c.modDrover n f).imsic = c.imsic := rfl
@[simp] theorem Chip.modDrover_pwr (c : Chip) (n : Nat) (f : Drover → Drover) : (c.modDrover n f).pwr = c.pwr := rfl
@[simp] theorem Chip.modDrover_boot (c : Chip) (n : Nat) (f : Drover → Drover) : (c.modDrover n f).boot = c.boot := rfl
@[simp] theorem Chip.modDrover_flash (c : Chip) (n : Nat) (f : Drover → Drover) : (c.modDrover n f).flash = c.flash := rfl
@[simp] theorem Chip.modDrover_pxs (c : Chip) (n : Nat) (f : Drover → Drover) : (c.modDrover n f).pxs = c.pxs := rfl
@[simp] theorem Chip.modDrover_iommu (c : Chip) (n : Nat) (f : Drover → Drover) : (c.modDrover n f).iommu = c.iommu := rfl
@[simp] theorem Chip.modDrover_funcs (c : Chip) (n : Nat) (f : Drover → Drover) : (c.modDrover n f).funcs = c.funcs := rfl
@[simp] theorem Chip.modDrover_rings (c : Chip) (n : Nat) (f : Drover → Drover) : (c.modDrover n f).rings = c.rings := rfl
@[simp] theorem Chip.modDrover_insts (c : Chip) (n : Nat) (f : Drover → Drover) : (c.modDrover n f).insts = c.insts := rfl
@[simp] theorem Chip.modDrover_eths (c : Chip) (n : Nat) (f : Drover → Drover) : (c.modDrover n f).eths = c.eths := rfl
@[simp] theorem Chip.modDrover_flow (c : Chip) (n : Nat) (f : Drover → Drover) : (c.modDrover n f).flow = c.flow := rfl
@[simp] theorem Chip.modDrover_limiters (c : Chip) (n : Nat) (f : Drover → Drover) : (c.modDrover n f).limiters = c.limiters := rfl
@[simp] theorem Chip.modDrover_engines (c : Chip) (n : Nat) (f : Drover → Drover) : (c.modDrover n f).engines = c.engines := rfl
@[simp] theorem Chip.modDrover_ctxs (c : Chip) (n : Nat) (f : Drover → Drover) : (c.modDrover n f).ctxs = c.ctxs := rfl
@[simp] theorem Chip.modDrover_banks (c : Chip) (n : Nat) (f : Drover → Drover) : (c.modDrover n f).banks = c.banks := rfl
@[simp] theorem Chip.modDrover_migs (c : Chip) (n : Nat) (f : Drover → Drover) : (c.modDrover n f).migs = c.migs := rfl
@[simp] theorem Chip.modDrover_mt (c : Chip) (n : Nat) (f : Drover → Drover) : (c.modDrover n f).mt = c.mt := rfl
@[simp] theorem Chip.modDrover_sums (c : Chip) (n : Nat) (f : Drover → Drover) : (c.modDrover n f).sums = c.sums := rfl
@[simp] theorem Chip.modDrover_net (c : Chip) (n : Nat) (f : Drover → Drover) : (c.modDrover n f).net = c.net := rfl
@[simp] theorem Chip.modDrover_standby (c : Chip) (n : Nat) (f : Drover → Drover) : (c.modDrover n f).standby = c.standby := rfl
@[simp] theorem Chip.modDrover_spillBase (c : Chip) (n : Nat) (f : Drover → Drover) : (c.modDrover n f).spillBase = c.spillBase := rfl
@[simp] theorem Chip.modDrover_spillLines (c : Chip) (n : Nat) (f : Drover → Drover) : (c.modDrover n f).spillLines = c.spillLines := rfl
@[simp] theorem Chip.modDrover_msiDrops (c : Chip) (n : Nat) (f : Drover → Drover) : (c.modDrover n f).msiDrops = c.msiDrops := rfl

@[simp] theorem Chip.modEngine_self (c : Chip) (n : Nat) (f : Engine → Engine) : (c.modEngine n f).engine n = f (c.engine n) := by
  simp [Chip.modEngine, Chip.engine]

theorem Chip.modEngine_ne {n k : Nat} (h : k ≠ n) (c : Chip) (f : Engine → Engine) : (c.modEngine n f).engine k = c.engine k := by
  simp [Chip.modEngine, Chip.engine, Sparse.at_upd_ne h]

@[simp] theorem Chip.modEngine_fuse (c : Chip) (n : Nat) (f : Engine → Engine) : (c.modEngine n f).fuse = c.fuse := rfl
@[simp] theorem Chip.modEngine_lastRead (c : Chip) (n : Nat) (f : Engine → Engine) : (c.modEngine n f).lastRead = c.lastRead := rfl
@[simp] theorem Chip.modEngine_mtime (c : Chip) (n : Nat) (f : Engine → Engine) : (c.modEngine n f).mtime = c.mtime := rfl
@[simp] theorem Chip.modEngine_units (c : Chip) (n : Nat) (f : Engine → Engine) : (c.modEngine n f).units = c.units := rfl
@[simp] theorem Chip.modEngine_ctl (c : Chip) (n : Nat) (f : Engine → Engine) : (c.modEngine n f).ctl = c.ctl := rfl
@[simp] theorem Chip.modEngine_errs (c : Chip) (n : Nat) (f : Engine → Engine) : (c.modEngine n f).errs = c.errs := rfl
@[simp] theorem Chip.modEngine_harts (c : Chip) (n : Nat) (f : Engine → Engine) : (c.modEngine n f).harts = c.harts := rfl
@[simp] theorem Chip.modEngine_cores (c : Chip) (n : Nat) (f : Engine → Engine) : (c.modEngine n f).cores = c.cores := rfl
@[simp] theorem Chip.modEngine_homes (c : Chip) (n : Nat) (f : Engine → Engine) : (c.modEngine n f).homes = c.homes := rfl
@[simp] theorem Chip.modEngine_mesh (c : Chip) (n : Nat) (f : Engine → Engine) : (c.modEngine n f).mesh = c.mesh := rfl
@[simp] theorem Chip.modEngine_links (c : Chip) (n : Nat) (f : Engine → Engine) : (c.modEngine n f).links = c.links := rfl
@[simp] theorem Chip.modEngine_mcs (c : Chip) (n : Nat) (f : Engine → Engine) : (c.modEngine n f).mcs = c.mcs := rfl
@[simp] theorem Chip.modEngine_mem (c : Chip) (n : Nat) (f : Engine → Engine) : (c.modEngine n f).mem = c.mem := rfl
@[simp] theorem Chip.modEngine_poison (c : Chip) (n : Nat) (f : Engine → Engine) : (c.modEngine n f).poison = c.poison := rfl
@[simp] theorem Chip.modEngine_imsic (c : Chip) (n : Nat) (f : Engine → Engine) : (c.modEngine n f).imsic = c.imsic := rfl
@[simp] theorem Chip.modEngine_pwr (c : Chip) (n : Nat) (f : Engine → Engine) : (c.modEngine n f).pwr = c.pwr := rfl
@[simp] theorem Chip.modEngine_boot (c : Chip) (n : Nat) (f : Engine → Engine) : (c.modEngine n f).boot = c.boot := rfl
@[simp] theorem Chip.modEngine_flash (c : Chip) (n : Nat) (f : Engine → Engine) : (c.modEngine n f).flash = c.flash := rfl
@[simp] theorem Chip.modEngine_pxs (c : Chip) (n : Nat) (f : Engine → Engine) : (c.modEngine n f).pxs = c.pxs := rfl
@[simp] theorem Chip.modEngine_iommu (c : Chip) (n : Nat) (f : Engine → Engine) : (c.modEngine n f).iommu = c.iommu := rfl
@[simp] theorem Chip.modEngine_funcs (c : Chip) (n : Nat) (f : Engine → Engine) : (c.modEngine n f).funcs = c.funcs := rfl
@[simp] theorem Chip.modEngine_rings (c : Chip) (n : Nat) (f : Engine → Engine) : (c.modEngine n f).rings = c.rings := rfl
@[simp] theorem Chip.modEngine_insts (c : Chip) (n : Nat) (f : Engine → Engine) : (c.modEngine n f).insts = c.insts := rfl
@[simp] theorem Chip.modEngine_eths (c : Chip) (n : Nat) (f : Engine → Engine) : (c.modEngine n f).eths = c.eths := rfl
@[simp] theorem Chip.modEngine_flow (c : Chip) (n : Nat) (f : Engine → Engine) : (c.modEngine n f).flow = c.flow := rfl
@[simp] theorem Chip.modEngine_limiters (c : Chip) (n : Nat) (f : Engine → Engine) : (c.modEngine n f).limiters = c.limiters := rfl
@[simp] theorem Chip.modEngine_ctxs (c : Chip) (n : Nat) (f : Engine → Engine) : (c.modEngine n f).ctxs = c.ctxs := rfl
@[simp] theorem Chip.modEngine_drovers (c : Chip) (n : Nat) (f : Engine → Engine) : (c.modEngine n f).drovers = c.drovers := rfl
@[simp] theorem Chip.modEngine_banks (c : Chip) (n : Nat) (f : Engine → Engine) : (c.modEngine n f).banks = c.banks := rfl
@[simp] theorem Chip.modEngine_migs (c : Chip) (n : Nat) (f : Engine → Engine) : (c.modEngine n f).migs = c.migs := rfl
@[simp] theorem Chip.modEngine_mt (c : Chip) (n : Nat) (f : Engine → Engine) : (c.modEngine n f).mt = c.mt := rfl
@[simp] theorem Chip.modEngine_sums (c : Chip) (n : Nat) (f : Engine → Engine) : (c.modEngine n f).sums = c.sums := rfl
@[simp] theorem Chip.modEngine_net (c : Chip) (n : Nat) (f : Engine → Engine) : (c.modEngine n f).net = c.net := rfl
@[simp] theorem Chip.modEngine_standby (c : Chip) (n : Nat) (f : Engine → Engine) : (c.modEngine n f).standby = c.standby := rfl
@[simp] theorem Chip.modEngine_spillBase (c : Chip) (n : Nat) (f : Engine → Engine) : (c.modEngine n f).spillBase = c.spillBase := rfl
@[simp] theorem Chip.modEngine_spillLines (c : Chip) (n : Nat) (f : Engine → Engine) : (c.modEngine n f).spillLines = c.spillLines := rfl
@[simp] theorem Chip.modEngine_msiDrops (c : Chip) (n : Nat) (f : Engine → Engine) : (c.modEngine n f).msiDrops = c.msiDrops := rfl

@[simp] theorem Chip.modEth_self (c : Chip) (n : Nat) (f : EthPort → EthPort) : (c.modEth n f).eth n = f (c.eth n) := by
  simp [Chip.modEth, Chip.eth]

theorem Chip.modEth_ne {n k : Nat} (h : k ≠ n) (c : Chip) (f : EthPort → EthPort) : (c.modEth n f).eth k = c.eth k := by
  simp [Chip.modEth, Chip.eth, Sparse.at_upd_ne h]

@[simp] theorem Chip.modEth_fuse (c : Chip) (n : Nat) (f : EthPort → EthPort) : (c.modEth n f).fuse = c.fuse := rfl
@[simp] theorem Chip.modEth_lastRead (c : Chip) (n : Nat) (f : EthPort → EthPort) : (c.modEth n f).lastRead = c.lastRead := rfl
@[simp] theorem Chip.modEth_mtime (c : Chip) (n : Nat) (f : EthPort → EthPort) : (c.modEth n f).mtime = c.mtime := rfl
@[simp] theorem Chip.modEth_units (c : Chip) (n : Nat) (f : EthPort → EthPort) : (c.modEth n f).units = c.units := rfl
@[simp] theorem Chip.modEth_ctl (c : Chip) (n : Nat) (f : EthPort → EthPort) : (c.modEth n f).ctl = c.ctl := rfl
@[simp] theorem Chip.modEth_errs (c : Chip) (n : Nat) (f : EthPort → EthPort) : (c.modEth n f).errs = c.errs := rfl
@[simp] theorem Chip.modEth_harts (c : Chip) (n : Nat) (f : EthPort → EthPort) : (c.modEth n f).harts = c.harts := rfl
@[simp] theorem Chip.modEth_cores (c : Chip) (n : Nat) (f : EthPort → EthPort) : (c.modEth n f).cores = c.cores := rfl
@[simp] theorem Chip.modEth_homes (c : Chip) (n : Nat) (f : EthPort → EthPort) : (c.modEth n f).homes = c.homes := rfl
@[simp] theorem Chip.modEth_mesh (c : Chip) (n : Nat) (f : EthPort → EthPort) : (c.modEth n f).mesh = c.mesh := rfl
@[simp] theorem Chip.modEth_links (c : Chip) (n : Nat) (f : EthPort → EthPort) : (c.modEth n f).links = c.links := rfl
@[simp] theorem Chip.modEth_mcs (c : Chip) (n : Nat) (f : EthPort → EthPort) : (c.modEth n f).mcs = c.mcs := rfl
@[simp] theorem Chip.modEth_mem (c : Chip) (n : Nat) (f : EthPort → EthPort) : (c.modEth n f).mem = c.mem := rfl
@[simp] theorem Chip.modEth_poison (c : Chip) (n : Nat) (f : EthPort → EthPort) : (c.modEth n f).poison = c.poison := rfl
@[simp] theorem Chip.modEth_imsic (c : Chip) (n : Nat) (f : EthPort → EthPort) : (c.modEth n f).imsic = c.imsic := rfl
@[simp] theorem Chip.modEth_pwr (c : Chip) (n : Nat) (f : EthPort → EthPort) : (c.modEth n f).pwr = c.pwr := rfl
@[simp] theorem Chip.modEth_boot (c : Chip) (n : Nat) (f : EthPort → EthPort) : (c.modEth n f).boot = c.boot := rfl
@[simp] theorem Chip.modEth_flash (c : Chip) (n : Nat) (f : EthPort → EthPort) : (c.modEth n f).flash = c.flash := rfl
@[simp] theorem Chip.modEth_pxs (c : Chip) (n : Nat) (f : EthPort → EthPort) : (c.modEth n f).pxs = c.pxs := rfl
@[simp] theorem Chip.modEth_iommu (c : Chip) (n : Nat) (f : EthPort → EthPort) : (c.modEth n f).iommu = c.iommu := rfl
@[simp] theorem Chip.modEth_funcs (c : Chip) (n : Nat) (f : EthPort → EthPort) : (c.modEth n f).funcs = c.funcs := rfl
@[simp] theorem Chip.modEth_rings (c : Chip) (n : Nat) (f : EthPort → EthPort) : (c.modEth n f).rings = c.rings := rfl
@[simp] theorem Chip.modEth_insts (c : Chip) (n : Nat) (f : EthPort → EthPort) : (c.modEth n f).insts = c.insts := rfl
@[simp] theorem Chip.modEth_flow (c : Chip) (n : Nat) (f : EthPort → EthPort) : (c.modEth n f).flow = c.flow := rfl
@[simp] theorem Chip.modEth_limiters (c : Chip) (n : Nat) (f : EthPort → EthPort) : (c.modEth n f).limiters = c.limiters := rfl
@[simp] theorem Chip.modEth_engines (c : Chip) (n : Nat) (f : EthPort → EthPort) : (c.modEth n f).engines = c.engines := rfl
@[simp] theorem Chip.modEth_ctxs (c : Chip) (n : Nat) (f : EthPort → EthPort) : (c.modEth n f).ctxs = c.ctxs := rfl
@[simp] theorem Chip.modEth_drovers (c : Chip) (n : Nat) (f : EthPort → EthPort) : (c.modEth n f).drovers = c.drovers := rfl
@[simp] theorem Chip.modEth_banks (c : Chip) (n : Nat) (f : EthPort → EthPort) : (c.modEth n f).banks = c.banks := rfl
@[simp] theorem Chip.modEth_migs (c : Chip) (n : Nat) (f : EthPort → EthPort) : (c.modEth n f).migs = c.migs := rfl
@[simp] theorem Chip.modEth_mt (c : Chip) (n : Nat) (f : EthPort → EthPort) : (c.modEth n f).mt = c.mt := rfl
@[simp] theorem Chip.modEth_sums (c : Chip) (n : Nat) (f : EthPort → EthPort) : (c.modEth n f).sums = c.sums := rfl
@[simp] theorem Chip.modEth_net (c : Chip) (n : Nat) (f : EthPort → EthPort) : (c.modEth n f).net = c.net := rfl
@[simp] theorem Chip.modEth_standby (c : Chip) (n : Nat) (f : EthPort → EthPort) : (c.modEth n f).standby = c.standby := rfl
@[simp] theorem Chip.modEth_spillBase (c : Chip) (n : Nat) (f : EthPort → EthPort) : (c.modEth n f).spillBase = c.spillBase := rfl
@[simp] theorem Chip.modEth_spillLines (c : Chip) (n : Nat) (f : EthPort → EthPort) : (c.modEth n f).spillLines = c.spillLines := rfl
@[simp] theorem Chip.modEth_msiDrops (c : Chip) (n : Nat) (f : EthPort → EthPort) : (c.modEth n f).msiDrops = c.msiDrops := rfl

@[simp] theorem Chip.modBank_self (c : Chip) (n : Nat) (f : Bank → Bank) : (c.modBank n f).bank n = f (c.bank n) := by
  simp [Chip.modBank, Chip.bank]

theorem Chip.modBank_ne {n k : Nat} (h : k ≠ n) (c : Chip) (f : Bank → Bank) : (c.modBank n f).bank k = c.bank k := by
  simp [Chip.modBank, Chip.bank, Sparse.at_upd_ne h]

@[simp] theorem Chip.modBank_fuse (c : Chip) (n : Nat) (f : Bank → Bank) : (c.modBank n f).fuse = c.fuse := rfl
@[simp] theorem Chip.modBank_lastRead (c : Chip) (n : Nat) (f : Bank → Bank) : (c.modBank n f).lastRead = c.lastRead := rfl
@[simp] theorem Chip.modBank_mtime (c : Chip) (n : Nat) (f : Bank → Bank) : (c.modBank n f).mtime = c.mtime := rfl
@[simp] theorem Chip.modBank_units (c : Chip) (n : Nat) (f : Bank → Bank) : (c.modBank n f).units = c.units := rfl
@[simp] theorem Chip.modBank_ctl (c : Chip) (n : Nat) (f : Bank → Bank) : (c.modBank n f).ctl = c.ctl := rfl
@[simp] theorem Chip.modBank_errs (c : Chip) (n : Nat) (f : Bank → Bank) : (c.modBank n f).errs = c.errs := rfl
@[simp] theorem Chip.modBank_harts (c : Chip) (n : Nat) (f : Bank → Bank) : (c.modBank n f).harts = c.harts := rfl
@[simp] theorem Chip.modBank_cores (c : Chip) (n : Nat) (f : Bank → Bank) : (c.modBank n f).cores = c.cores := rfl
@[simp] theorem Chip.modBank_homes (c : Chip) (n : Nat) (f : Bank → Bank) : (c.modBank n f).homes = c.homes := rfl
@[simp] theorem Chip.modBank_mesh (c : Chip) (n : Nat) (f : Bank → Bank) : (c.modBank n f).mesh = c.mesh := rfl
@[simp] theorem Chip.modBank_links (c : Chip) (n : Nat) (f : Bank → Bank) : (c.modBank n f).links = c.links := rfl
@[simp] theorem Chip.modBank_mcs (c : Chip) (n : Nat) (f : Bank → Bank) : (c.modBank n f).mcs = c.mcs := rfl
@[simp] theorem Chip.modBank_mem (c : Chip) (n : Nat) (f : Bank → Bank) : (c.modBank n f).mem = c.mem := rfl
@[simp] theorem Chip.modBank_poison (c : Chip) (n : Nat) (f : Bank → Bank) : (c.modBank n f).poison = c.poison := rfl
@[simp] theorem Chip.modBank_imsic (c : Chip) (n : Nat) (f : Bank → Bank) : (c.modBank n f).imsic = c.imsic := rfl
@[simp] theorem Chip.modBank_pwr (c : Chip) (n : Nat) (f : Bank → Bank) : (c.modBank n f).pwr = c.pwr := rfl
@[simp] theorem Chip.modBank_boot (c : Chip) (n : Nat) (f : Bank → Bank) : (c.modBank n f).boot = c.boot := rfl
@[simp] theorem Chip.modBank_flash (c : Chip) (n : Nat) (f : Bank → Bank) : (c.modBank n f).flash = c.flash := rfl
@[simp] theorem Chip.modBank_pxs (c : Chip) (n : Nat) (f : Bank → Bank) : (c.modBank n f).pxs = c.pxs := rfl
@[simp] theorem Chip.modBank_iommu (c : Chip) (n : Nat) (f : Bank → Bank) : (c.modBank n f).iommu = c.iommu := rfl
@[simp] theorem Chip.modBank_funcs (c : Chip) (n : Nat) (f : Bank → Bank) : (c.modBank n f).funcs = c.funcs := rfl
@[simp] theorem Chip.modBank_rings (c : Chip) (n : Nat) (f : Bank → Bank) : (c.modBank n f).rings = c.rings := rfl
@[simp] theorem Chip.modBank_insts (c : Chip) (n : Nat) (f : Bank → Bank) : (c.modBank n f).insts = c.insts := rfl
@[simp] theorem Chip.modBank_eths (c : Chip) (n : Nat) (f : Bank → Bank) : (c.modBank n f).eths = c.eths := rfl
@[simp] theorem Chip.modBank_flow (c : Chip) (n : Nat) (f : Bank → Bank) : (c.modBank n f).flow = c.flow := rfl
@[simp] theorem Chip.modBank_limiters (c : Chip) (n : Nat) (f : Bank → Bank) : (c.modBank n f).limiters = c.limiters := rfl
@[simp] theorem Chip.modBank_engines (c : Chip) (n : Nat) (f : Bank → Bank) : (c.modBank n f).engines = c.engines := rfl
@[simp] theorem Chip.modBank_ctxs (c : Chip) (n : Nat) (f : Bank → Bank) : (c.modBank n f).ctxs = c.ctxs := rfl
@[simp] theorem Chip.modBank_drovers (c : Chip) (n : Nat) (f : Bank → Bank) : (c.modBank n f).drovers = c.drovers := rfl
@[simp] theorem Chip.modBank_migs (c : Chip) (n : Nat) (f : Bank → Bank) : (c.modBank n f).migs = c.migs := rfl
@[simp] theorem Chip.modBank_mt (c : Chip) (n : Nat) (f : Bank → Bank) : (c.modBank n f).mt = c.mt := rfl
@[simp] theorem Chip.modBank_sums (c : Chip) (n : Nat) (f : Bank → Bank) : (c.modBank n f).sums = c.sums := rfl
@[simp] theorem Chip.modBank_net (c : Chip) (n : Nat) (f : Bank → Bank) : (c.modBank n f).net = c.net := rfl
@[simp] theorem Chip.modBank_standby (c : Chip) (n : Nat) (f : Bank → Bank) : (c.modBank n f).standby = c.standby := rfl
@[simp] theorem Chip.modBank_spillBase (c : Chip) (n : Nat) (f : Bank → Bank) : (c.modBank n f).spillBase = c.spillBase := rfl
@[simp] theorem Chip.modBank_spillLines (c : Chip) (n : Nat) (f : Bank → Bank) : (c.modBank n f).spillLines = c.spillLines := rfl
@[simp] theorem Chip.modBank_msiDrops (c : Chip) (n : Nat) (f : Bank → Bank) : (c.modBank n f).msiDrops = c.msiDrops := rfl

@[simp] theorem Chip.setReg_fuse (c : Chip) (u b o : Nat) (w : Word) : (c.setReg u b o w).fuse = c.fuse := rfl
@[simp] theorem Chip.setReg_lastRead (c : Chip) (u b o : Nat) (w : Word) : (c.setReg u b o w).lastRead = c.lastRead := rfl
@[simp] theorem Chip.setReg_mtime (c : Chip) (u b o : Nat) (w : Word) : (c.setReg u b o w).mtime = c.mtime := rfl
@[simp] theorem Chip.setReg_units (c : Chip) (u b o : Nat) (w : Word) : (c.setReg u b o w).units = c.units := rfl
@[simp] theorem Chip.setReg_errs (c : Chip) (u b o : Nat) (w : Word) : (c.setReg u b o w).errs = c.errs := rfl
@[simp] theorem Chip.setReg_harts (c : Chip) (u b o : Nat) (w : Word) : (c.setReg u b o w).harts = c.harts := rfl
@[simp] theorem Chip.setReg_cores (c : Chip) (u b o : Nat) (w : Word) : (c.setReg u b o w).cores = c.cores := rfl
@[simp] theorem Chip.setReg_homes (c : Chip) (u b o : Nat) (w : Word) : (c.setReg u b o w).homes = c.homes := rfl
@[simp] theorem Chip.setReg_mesh (c : Chip) (u b o : Nat) (w : Word) : (c.setReg u b o w).mesh = c.mesh := rfl
@[simp] theorem Chip.setReg_links (c : Chip) (u b o : Nat) (w : Word) : (c.setReg u b o w).links = c.links := rfl
@[simp] theorem Chip.setReg_mcs (c : Chip) (u b o : Nat) (w : Word) : (c.setReg u b o w).mcs = c.mcs := rfl
@[simp] theorem Chip.setReg_mem (c : Chip) (u b o : Nat) (w : Word) : (c.setReg u b o w).mem = c.mem := rfl
@[simp] theorem Chip.setReg_poison (c : Chip) (u b o : Nat) (w : Word) : (c.setReg u b o w).poison = c.poison := rfl
@[simp] theorem Chip.setReg_imsic (c : Chip) (u b o : Nat) (w : Word) : (c.setReg u b o w).imsic = c.imsic := rfl
@[simp] theorem Chip.setReg_pwr (c : Chip) (u b o : Nat) (w : Word) : (c.setReg u b o w).pwr = c.pwr := rfl
@[simp] theorem Chip.setReg_boot (c : Chip) (u b o : Nat) (w : Word) : (c.setReg u b o w).boot = c.boot := rfl
@[simp] theorem Chip.setReg_flash (c : Chip) (u b o : Nat) (w : Word) : (c.setReg u b o w).flash = c.flash := rfl
@[simp] theorem Chip.setReg_pxs (c : Chip) (u b o : Nat) (w : Word) : (c.setReg u b o w).pxs = c.pxs := rfl
@[simp] theorem Chip.setReg_iommu (c : Chip) (u b o : Nat) (w : Word) : (c.setReg u b o w).iommu = c.iommu := rfl
@[simp] theorem Chip.setReg_funcs (c : Chip) (u b o : Nat) (w : Word) : (c.setReg u b o w).funcs = c.funcs := rfl
@[simp] theorem Chip.setReg_rings (c : Chip) (u b o : Nat) (w : Word) : (c.setReg u b o w).rings = c.rings := rfl
@[simp] theorem Chip.setReg_insts (c : Chip) (u b o : Nat) (w : Word) : (c.setReg u b o w).insts = c.insts := rfl
@[simp] theorem Chip.setReg_eths (c : Chip) (u b o : Nat) (w : Word) : (c.setReg u b o w).eths = c.eths := rfl
@[simp] theorem Chip.setReg_flow (c : Chip) (u b o : Nat) (w : Word) : (c.setReg u b o w).flow = c.flow := rfl
@[simp] theorem Chip.setReg_limiters (c : Chip) (u b o : Nat) (w : Word) : (c.setReg u b o w).limiters = c.limiters := rfl
@[simp] theorem Chip.setReg_engines (c : Chip) (u b o : Nat) (w : Word) : (c.setReg u b o w).engines = c.engines := rfl
@[simp] theorem Chip.setReg_ctxs (c : Chip) (u b o : Nat) (w : Word) : (c.setReg u b o w).ctxs = c.ctxs := rfl
@[simp] theorem Chip.setReg_drovers (c : Chip) (u b o : Nat) (w : Word) : (c.setReg u b o w).drovers = c.drovers := rfl
@[simp] theorem Chip.setReg_banks (c : Chip) (u b o : Nat) (w : Word) : (c.setReg u b o w).banks = c.banks := rfl
@[simp] theorem Chip.setReg_migs (c : Chip) (u b o : Nat) (w : Word) : (c.setReg u b o w).migs = c.migs := rfl
@[simp] theorem Chip.setReg_mt (c : Chip) (u b o : Nat) (w : Word) : (c.setReg u b o w).mt = c.mt := rfl
@[simp] theorem Chip.setReg_sums (c : Chip) (u b o : Nat) (w : Word) : (c.setReg u b o w).sums = c.sums := rfl
@[simp] theorem Chip.setReg_net (c : Chip) (u b o : Nat) (w : Word) : (c.setReg u b o w).net = c.net := rfl
@[simp] theorem Chip.setReg_standby (c : Chip) (u b o : Nat) (w : Word) : (c.setReg u b o w).standby = c.standby := rfl
@[simp] theorem Chip.setReg_spillBase (c : Chip) (u b o : Nat) (w : Word) : (c.setReg u b o w).spillBase = c.spillBase := rfl
@[simp] theorem Chip.setReg_spillLines (c : Chip) (u b o : Nat) (w : Word) : (c.setReg u b o w).spillLines = c.spillLines := rfl
@[simp] theorem Chip.setReg_msiDrops (c : Chip) (u b o : Nat) (w : Word) : (c.setReg u b o w).msiDrops = c.msiDrops := rfl

@[simp] theorem Chip.recordErr_fuse (c : Chip) (u k : Nat) (w : Word) : (c.recordErr u k w).fuse = c.fuse := rfl
@[simp] theorem Chip.recordErr_lastRead (c : Chip) (u k : Nat) (w : Word) : (c.recordErr u k w).lastRead = c.lastRead := rfl
@[simp] theorem Chip.recordErr_mtime (c : Chip) (u k : Nat) (w : Word) : (c.recordErr u k w).mtime = c.mtime := rfl
@[simp] theorem Chip.recordErr_units (c : Chip) (u k : Nat) (w : Word) : (c.recordErr u k w).units = c.units := rfl
@[simp] theorem Chip.recordErr_errs (c : Chip) (u k : Nat) (w : Word) : (c.recordErr u k w).errs = c.errs := rfl
@[simp] theorem Chip.recordErr_harts (c : Chip) (u k : Nat) (w : Word) : (c.recordErr u k w).harts = c.harts := rfl
@[simp] theorem Chip.recordErr_cores (c : Chip) (u k : Nat) (w : Word) : (c.recordErr u k w).cores = c.cores := rfl
@[simp] theorem Chip.recordErr_homes (c : Chip) (u k : Nat) (w : Word) : (c.recordErr u k w).homes = c.homes := rfl
@[simp] theorem Chip.recordErr_mesh (c : Chip) (u k : Nat) (w : Word) : (c.recordErr u k w).mesh = c.mesh := rfl
@[simp] theorem Chip.recordErr_links (c : Chip) (u k : Nat) (w : Word) : (c.recordErr u k w).links = c.links := rfl
@[simp] theorem Chip.recordErr_mcs (c : Chip) (u k : Nat) (w : Word) : (c.recordErr u k w).mcs = c.mcs := rfl
@[simp] theorem Chip.recordErr_mem (c : Chip) (u k : Nat) (w : Word) : (c.recordErr u k w).mem = c.mem := rfl
@[simp] theorem Chip.recordErr_poison (c : Chip) (u k : Nat) (w : Word) : (c.recordErr u k w).poison = c.poison := rfl
@[simp] theorem Chip.recordErr_imsic (c : Chip) (u k : Nat) (w : Word) : (c.recordErr u k w).imsic = c.imsic := rfl
@[simp] theorem Chip.recordErr_pwr (c : Chip) (u k : Nat) (w : Word) : (c.recordErr u k w).pwr = c.pwr := rfl
@[simp] theorem Chip.recordErr_boot (c : Chip) (u k : Nat) (w : Word) : (c.recordErr u k w).boot = c.boot := rfl
@[simp] theorem Chip.recordErr_flash (c : Chip) (u k : Nat) (w : Word) : (c.recordErr u k w).flash = c.flash := rfl
@[simp] theorem Chip.recordErr_pxs (c : Chip) (u k : Nat) (w : Word) : (c.recordErr u k w).pxs = c.pxs := rfl
@[simp] theorem Chip.recordErr_iommu (c : Chip) (u k : Nat) (w : Word) : (c.recordErr u k w).iommu = c.iommu := rfl
@[simp] theorem Chip.recordErr_funcs (c : Chip) (u k : Nat) (w : Word) : (c.recordErr u k w).funcs = c.funcs := rfl
@[simp] theorem Chip.recordErr_rings (c : Chip) (u k : Nat) (w : Word) : (c.recordErr u k w).rings = c.rings := rfl
@[simp] theorem Chip.recordErr_insts (c : Chip) (u k : Nat) (w : Word) : (c.recordErr u k w).insts = c.insts := rfl
@[simp] theorem Chip.recordErr_eths (c : Chip) (u k : Nat) (w : Word) : (c.recordErr u k w).eths = c.eths := rfl
@[simp] theorem Chip.recordErr_flow (c : Chip) (u k : Nat) (w : Word) : (c.recordErr u k w).flow = c.flow := rfl
@[simp] theorem Chip.recordErr_limiters (c : Chip) (u k : Nat) (w : Word) : (c.recordErr u k w).limiters = c.limiters := rfl
@[simp] theorem Chip.recordErr_engines (c : Chip) (u k : Nat) (w : Word) : (c.recordErr u k w).engines = c.engines := rfl
@[simp] theorem Chip.recordErr_ctxs (c : Chip) (u k : Nat) (w : Word) : (c.recordErr u k w).ctxs = c.ctxs := rfl
@[simp] theorem Chip.recordErr_drovers (c : Chip) (u k : Nat) (w : Word) : (c.recordErr u k w).drovers = c.drovers := rfl
@[simp] theorem Chip.recordErr_banks (c : Chip) (u k : Nat) (w : Word) : (c.recordErr u k w).banks = c.banks := rfl
@[simp] theorem Chip.recordErr_migs (c : Chip) (u k : Nat) (w : Word) : (c.recordErr u k w).migs = c.migs := rfl
@[simp] theorem Chip.recordErr_mt (c : Chip) (u k : Nat) (w : Word) : (c.recordErr u k w).mt = c.mt := rfl
@[simp] theorem Chip.recordErr_sums (c : Chip) (u k : Nat) (w : Word) : (c.recordErr u k w).sums = c.sums := rfl
@[simp] theorem Chip.recordErr_net (c : Chip) (u k : Nat) (w : Word) : (c.recordErr u k w).net = c.net := rfl
@[simp] theorem Chip.recordErr_standby (c : Chip) (u k : Nat) (w : Word) : (c.recordErr u k w).standby = c.standby := rfl
@[simp] theorem Chip.recordErr_spillBase (c : Chip) (u k : Nat) (w : Word) : (c.recordErr u k w).spillBase = c.spillBase := rfl
@[simp] theorem Chip.recordErr_spillLines (c : Chip) (u k : Nat) (w : Word) : (c.recordErr u k w).spillLines = c.spillLines := rfl
@[simp] theorem Chip.recordErr_msiDrops (c : Chip) (u k : Nat) (w : Word) : (c.recordErr u k w).msiDrops = c.msiDrops := rfl

@[simp] theorem Chip.send_fuse (c : Chip) (m : Msg) : (c.send m).fuse = c.fuse := rfl
@[simp] theorem Chip.send_lastRead (c : Chip) (m : Msg) : (c.send m).lastRead = c.lastRead := rfl
@[simp] theorem Chip.send_mtime (c : Chip) (m : Msg) : (c.send m).mtime = c.mtime := rfl
@[simp] theorem Chip.send_units (c : Chip) (m : Msg) : (c.send m).units = c.units := rfl
@[simp] theorem Chip.send_ctl (c : Chip) (m : Msg) : (c.send m).ctl = c.ctl := rfl
@[simp] theorem Chip.send_errs (c : Chip) (m : Msg) : (c.send m).errs = c.errs := rfl
@[simp] theorem Chip.send_harts (c : Chip) (m : Msg) : (c.send m).harts = c.harts := rfl
@[simp] theorem Chip.send_cores (c : Chip) (m : Msg) : (c.send m).cores = c.cores := rfl
@[simp] theorem Chip.send_homes (c : Chip) (m : Msg) : (c.send m).homes = c.homes := rfl
@[simp] theorem Chip.send_links (c : Chip) (m : Msg) : (c.send m).links = c.links := rfl
@[simp] theorem Chip.send_mcs (c : Chip) (m : Msg) : (c.send m).mcs = c.mcs := rfl
@[simp] theorem Chip.send_mem (c : Chip) (m : Msg) : (c.send m).mem = c.mem := rfl
@[simp] theorem Chip.send_poison (c : Chip) (m : Msg) : (c.send m).poison = c.poison := rfl
@[simp] theorem Chip.send_imsic (c : Chip) (m : Msg) : (c.send m).imsic = c.imsic := rfl
@[simp] theorem Chip.send_pwr (c : Chip) (m : Msg) : (c.send m).pwr = c.pwr := rfl
@[simp] theorem Chip.send_boot (c : Chip) (m : Msg) : (c.send m).boot = c.boot := rfl
@[simp] theorem Chip.send_flash (c : Chip) (m : Msg) : (c.send m).flash = c.flash := rfl
@[simp] theorem Chip.send_pxs (c : Chip) (m : Msg) : (c.send m).pxs = c.pxs := rfl
@[simp] theorem Chip.send_iommu (c : Chip) (m : Msg) : (c.send m).iommu = c.iommu := rfl
@[simp] theorem Chip.send_funcs (c : Chip) (m : Msg) : (c.send m).funcs = c.funcs := rfl
@[simp] theorem Chip.send_rings (c : Chip) (m : Msg) : (c.send m).rings = c.rings := rfl
@[simp] theorem Chip.send_insts (c : Chip) (m : Msg) : (c.send m).insts = c.insts := rfl
@[simp] theorem Chip.send_eths (c : Chip) (m : Msg) : (c.send m).eths = c.eths := rfl
@[simp] theorem Chip.send_flow (c : Chip) (m : Msg) : (c.send m).flow = c.flow := rfl
@[simp] theorem Chip.send_limiters (c : Chip) (m : Msg) : (c.send m).limiters = c.limiters := rfl
@[simp] theorem Chip.send_engines (c : Chip) (m : Msg) : (c.send m).engines = c.engines := rfl
@[simp] theorem Chip.send_ctxs (c : Chip) (m : Msg) : (c.send m).ctxs = c.ctxs := rfl
@[simp] theorem Chip.send_drovers (c : Chip) (m : Msg) : (c.send m).drovers = c.drovers := rfl
@[simp] theorem Chip.send_banks (c : Chip) (m : Msg) : (c.send m).banks = c.banks := rfl
@[simp] theorem Chip.send_migs (c : Chip) (m : Msg) : (c.send m).migs = c.migs := rfl
@[simp] theorem Chip.send_mt (c : Chip) (m : Msg) : (c.send m).mt = c.mt := rfl
@[simp] theorem Chip.send_sums (c : Chip) (m : Msg) : (c.send m).sums = c.sums := rfl
@[simp] theorem Chip.send_net (c : Chip) (m : Msg) : (c.send m).net = c.net := rfl
@[simp] theorem Chip.send_standby (c : Chip) (m : Msg) : (c.send m).standby = c.standby := rfl
@[simp] theorem Chip.send_spillBase (c : Chip) (m : Msg) : (c.send m).spillBase = c.spillBase := rfl
@[simp] theorem Chip.send_spillLines (c : Chip) (m : Msg) : (c.send m).spillLines = c.spillLines := rfl
@[simp] theorem Chip.send_msiDrops (c : Chip) (m : Msg) : (c.send m).msiDrops = c.msiDrops := rfl

@[simp] theorem Chip.take_fuse (c : Chip) (m : Msg) : (c.take m).fuse = c.fuse := rfl
@[simp] theorem Chip.take_lastRead (c : Chip) (m : Msg) : (c.take m).lastRead = c.lastRead := rfl
@[simp] theorem Chip.take_mtime (c : Chip) (m : Msg) : (c.take m).mtime = c.mtime := rfl
@[simp] theorem Chip.take_units (c : Chip) (m : Msg) : (c.take m).units = c.units := rfl
@[simp] theorem Chip.take_ctl (c : Chip) (m : Msg) : (c.take m).ctl = c.ctl := rfl
@[simp] theorem Chip.take_errs (c : Chip) (m : Msg) : (c.take m).errs = c.errs := rfl
@[simp] theorem Chip.take_harts (c : Chip) (m : Msg) : (c.take m).harts = c.harts := rfl
@[simp] theorem Chip.take_cores (c : Chip) (m : Msg) : (c.take m).cores = c.cores := rfl
@[simp] theorem Chip.take_homes (c : Chip) (m : Msg) : (c.take m).homes = c.homes := rfl
@[simp] theorem Chip.take_links (c : Chip) (m : Msg) : (c.take m).links = c.links := rfl
@[simp] theorem Chip.take_mcs (c : Chip) (m : Msg) : (c.take m).mcs = c.mcs := rfl
@[simp] theorem Chip.take_mem (c : Chip) (m : Msg) : (c.take m).mem = c.mem := rfl
@[simp] theorem Chip.take_poison (c : Chip) (m : Msg) : (c.take m).poison = c.poison := rfl
@[simp] theorem Chip.take_imsic (c : Chip) (m : Msg) : (c.take m).imsic = c.imsic := rfl
@[simp] theorem Chip.take_pwr (c : Chip) (m : Msg) : (c.take m).pwr = c.pwr := rfl
@[simp] theorem Chip.take_boot (c : Chip) (m : Msg) : (c.take m).boot = c.boot := rfl
@[simp] theorem Chip.take_flash (c : Chip) (m : Msg) : (c.take m).flash = c.flash := rfl
@[simp] theorem Chip.take_pxs (c : Chip) (m : Msg) : (c.take m).pxs = c.pxs := rfl
@[simp] theorem Chip.take_iommu (c : Chip) (m : Msg) : (c.take m).iommu = c.iommu := rfl
@[simp] theorem Chip.take_funcs (c : Chip) (m : Msg) : (c.take m).funcs = c.funcs := rfl
@[simp] theorem Chip.take_rings (c : Chip) (m : Msg) : (c.take m).rings = c.rings := rfl
@[simp] theorem Chip.take_insts (c : Chip) (m : Msg) : (c.take m).insts = c.insts := rfl
@[simp] theorem Chip.take_eths (c : Chip) (m : Msg) : (c.take m).eths = c.eths := rfl
@[simp] theorem Chip.take_flow (c : Chip) (m : Msg) : (c.take m).flow = c.flow := rfl
@[simp] theorem Chip.take_limiters (c : Chip) (m : Msg) : (c.take m).limiters = c.limiters := rfl
@[simp] theorem Chip.take_engines (c : Chip) (m : Msg) : (c.take m).engines = c.engines := rfl
@[simp] theorem Chip.take_ctxs (c : Chip) (m : Msg) : (c.take m).ctxs = c.ctxs := rfl
@[simp] theorem Chip.take_drovers (c : Chip) (m : Msg) : (c.take m).drovers = c.drovers := rfl
@[simp] theorem Chip.take_banks (c : Chip) (m : Msg) : (c.take m).banks = c.banks := rfl
@[simp] theorem Chip.take_migs (c : Chip) (m : Msg) : (c.take m).migs = c.migs := rfl
@[simp] theorem Chip.take_mt (c : Chip) (m : Msg) : (c.take m).mt = c.mt := rfl
@[simp] theorem Chip.take_sums (c : Chip) (m : Msg) : (c.take m).sums = c.sums := rfl
@[simp] theorem Chip.take_net (c : Chip) (m : Msg) : (c.take m).net = c.net := rfl
@[simp] theorem Chip.take_standby (c : Chip) (m : Msg) : (c.take m).standby = c.standby := rfl
@[simp] theorem Chip.take_spillBase (c : Chip) (m : Msg) : (c.take m).spillBase = c.spillBase := rfl
@[simp] theorem Chip.take_spillLines (c : Chip) (m : Msg) : (c.take m).spillLines = c.spillLines := rfl
@[simp] theorem Chip.take_msiDrops (c : Chip) (m : Msg) : (c.take m).msiDrops = c.msiDrops := rfl

/-! Registers. -/

@[simp] theorem Chip.reg_setReg_self (c : Chip) (u b o : Nat) (w : Word) : (c.setReg u b o w).reg u b o = w := by
  simp [Chip.setReg, Chip.reg]

theorem Chip.reg_setReg_ne {u b o u' b' o' : Nat} (h : regKey u' b' o' ≠ regKey u b o) (c : Chip) (w : Word) :
    (c.setReg u b o w).reg u' b' o' = c.reg u' b' o' := by
  simp [Chip.setReg, Chip.reg, Sparse.find_put_ne h]

@[simp] theorem Chip.reg_recordErr (c : Chip) (u k : Nat) (w : Word) (u' b o : Nat) : (c.recordErr u k w).reg u' b o = c.reg u' b o := rfl

@[simp] theorem Chip.send_mesh (c : Chip) (m : Msg) : (c.send m).mesh = c.mesh ++ [{ m with birth := c.mt / 32 }] := rfl

@[simp] theorem Chip.take_mesh (c : Chip) (m : Msg) : (c.take m).mesh = c.mesh.erase m := rfl

end Sys2Proof.Machine
end

