-- ==== Sys2Proof/Laws/Units.lean ====
section
/-! SUPPORT. The numbering of the units (R28, R32): the kind of each numbered unit, and the part that it is. -/

namespace Sys2Proof.Machine

theorem kindOf_uCore {pc : Nat} (h : pc < 200) : kindOf (uCore pc) = .core := by
  have h1 : ¬ (149 + 3 * (pc / 2) + pc % 2) ≤ 148 := by omega
  have h2 : (149 + 3 * (pc / 2) + pc % 2) ≤ 448 := by omega
  have h3 : (149 + 3 * (pc / 2) + pc % 2 - 149) % 3 ≠ 2 := by omega
  unfold kindOf uCore
  repeat rw [if_neg (by omega)]
  rw [if_pos h2, if_neg h3]

theorem kindOf_uSlice {i : Nat} (h : i < 100) : kindOf (uSlice i) = .l3Slice := by
  have h2 : (149 + 3 * i + 2) ≤ 448 := by omega
  have h3 : (149 + 3 * i + 2 - 149) % 3 = 2 := by omega
  unfold kindOf uSlice
  repeat rw [if_neg (by omega)]
  rw [if_pos h2, if_pos h3]

theorem kindOf_uMc {n : Nat} (h : n < 12) : kindOf (uMc n) = .memCtrl := by
  unfold kindOf uMc
  repeat rw [if_neg (by omega)]
  rw [if_pos (by omega)]

theorem kindOf_uPx {n : Nat} (h : n < 4) : kindOf (uPx n) = .busPort := by
  unfold kindOf uPx
  repeat rw [if_neg (by omega)]
  rw [if_pos (by omega)]

theorem kindOf_uEth {n : Nat} (h : n < 2) : kindOf (uEth n) = .ethPort := by
  unfold kindOf uEth
  repeat rw [if_neg (by omega)]
  rw [if_pos (by omega)]

theorem kindOf_uShears {n : Nat} (h : n < 2) : kindOf (uShears n) = .shears := by
  unfold kindOf uShears
  repeat rw [if_neg (by omega)]
  rw [if_pos (by omega)]

theorem kindOf_uDrover {n : Nat} (h : n < 2) : kindOf (uDrover n) = .droverCluster := by
  unfold kindOf uDrover
  repeat rw [if_neg (by omega)]
  rw [if_pos (by omega)]

theorem kindOf_uFold {n : Nat} (h : n < 20) : kindOf (uFold n) = .fold := by
  unfold kindOf uFold
  repeat rw [if_neg (by omega)]
  rw [if_pos (by omega)]

theorem coreOfUnit_uCore (pc : Nat) : coreOfUnit (uCore pc) = pc := by unfold coreOfUnit uCore; omega
theorem tileOfUnit_uSlice (i : Nat) : tileOfUnit (uSlice i) = i := by unfold tileOfUnit uSlice; split <;> omega

end Sys2Proof.Machine
end

