-- ==== Sys2Proof/Laws/Control.lean ====
section
/-! SUPPORT. What a write of one register can do: it is accepted, and then stores a value and has its side effect, or it is
rejected by the first check that fails and leaves LAST_ERR alone changed (R50, R52, R514). -/

namespace Sys2Proof.Machine

/-- A write of a plain register that its block answers. -/
theorem Chip.controlWrite_reg {c : Chip} {src : Src} {u off : Nat} {r : RegDef} (data : DWord)
    (hclk : c.pwr.clocks = true) (hsee : c.seesBlock src u = true) (hpres : c.present u = true)
    (hbar : c.barClosed src = false) (hal : off % 4 = 0) (hoff : 0x1000 ≤ off) (hdb : c.regionOff u off = none)
    (hio : ¬ (u = 0 ∧ 0x3000 ≤ off ∧ off < 0x4000)) (hbank : u ≠ 0 ∨ off < 0x100000) (hwin : dvWindow u off = none)
    (hreg : regAt (kindOf u) off = some r) (hro : r.readOnly = false) (hrole : r.role = .plain) :
    c.controlWrite src (.block u off) 4 data =
      match c.regCheck src u off r (data.setWidth 32) with
      | some e => c.refuse src u off e
      | none => (c.regStore src u off r (data.setWidth 32)).regEffect src u off (data.setWidth 32) (c.view src u off) := by
  have hio' : ¬ (u = 0 ∧ 0x3000 ≤ off ∧ off < 0x4000 ∧ c.seesBlock src 0 = true) := fun h => hio ⟨h.1, h.2.1, h.2.2.1⟩
  have hlow : ¬ off < 0x1000 := by omega
  simp only [Chip.controlWrite, Chip.throughBar, ctlOff, accessError, hclk, hsee, hpres, hbar, hal, hdb, Chip.write32, hio', hlow, hwin,
    Chip.regWrite, hreg, hro, hrole]
  rcases hbank with hu | hu
  · simp [hu] <;> rfl
  · have : bankPage off = none := by unfold bankPage; rw [if_neg (by omega)]
    simp [this] <;> rfl

/-- An accepted write stores its value and has its side effect. -/
theorem Chip.takes_write {c : Chip} {src : Src} {u off : Nat} {v : Word} (data : DWord) (hd : data.setWidth 32 = v)
    (h : c.takes src u off v = true) :
    ∃ r, regAt (kindOf u) off = some r ∧
      c.controlWrite src (.block u off) 4 data = (c.regStore src u off r v).regEffect src u off v (c.view src u off) := by
  unfold Chip.takes Chip.opens Chip.mapped at h
  cases hr : regAt (kindOf u) off with
  | none => simp [hr] at h
  | some r =>
    simp only [hr, Bool.and_eq_true, decide_eq_true_eq, Bool.not_eq_true', Option.isNone_iff_eq_none, Bool.and_eq_false_iff,
      Bool.or_eq_false_iff, decide_eq_false_iff_not] at h
    obtain ⟨⟨⟨⟨⟨a1, a2⟩, a3⟩, a4⟩, ⟨⟨⟨b1, b2⟩, b3⟩, b4⟩, b5⟩, ⟨c1, c2⟩, c3⟩ := h
    refine ⟨r, rfl, ?_⟩
    rw [Chip.controlWrite_reg data a1 a2 a3 a4 b1 b2 b3 (by omega) (by omega) b5 hr c1 c2, hd, c3]

end Sys2Proof.Machine
end

