-- ==== Sys2Proof/Laws/Exec.lean ====
section
/-! SUPPORT. What a command can do, once for all of them: its effect on the device when every part that it names exists,
else a fault; the queue and the fuses stay. -/

namespace Sys2Proof.Machine

/-- A command whose parts exist goes on to the state that its effect gives. -/
theorem onParts_next {l : List (Part × Nat)} {s : State} (h : (l.all fun e => decide (e.2 < s.chip.parts e.1)) = true)
    (f : Chip → Chip) : onParts l s f = .next { s with chip := (f s.chip).withFuse s.chip.fuse } := by
  have : l.find? (fun e => decide (s.chip.parts e.1 ≤ e.2)) = none := by
    simp only [List.find?_eq_none, List.all_eq_true, decide_eq_true_eq] at *
    exact fun e he => Nat.not_le.mpr (h e he)
  simp [onParts, this]

/-- What a command can answer: the state of its effect, or a fault that names a part that the device lacks. -/
theorem onParts_cases (l : List (Part × Nat)) (s : State) (f : Chip → Chip) :
    onParts l s f = .next { s with chip := (f s.chip).withFuse s.chip.fuse } ∨
      ∃ e ∈ l, s.chip.parts e.1 ≤ e.2 ∧ onParts l s f = .fault (.noSuchPart e.1 e.2) := by
  cases h : l.find? (fun e => decide (s.chip.parts e.1 ≤ e.2)) with
  | none => exact .inl (by simp [onParts, h])
  | some e =>
    have := List.find?_some h
    exact .inr ⟨e, List.mem_of_find?_eq_some h, by simpa using this, by simp [onParts, h]⟩

/-- A command whose parts exist answers a next state; the queue and the fuses are as before. -/
theorem exec_next (i : Instr) {s : State} (h : s.chip.serves i = true) :
    ∃ c : Chip, exec i s = .next { s with chip := c.withFuse s.chip.fuse } := by
  cases i <;> (unfold exec; exact ⟨_, onParts_next h _⟩)

end Sys2Proof.Machine
end

