-- ==== Sys2Proof/Laws/Field.lean ====
section
/-! SUPPORT. Fields of a word: reading a field after writing one. -/

namespace Sys2Proof.Machine

theorem fld_testBit {w : Nat} (x : BitVec w) (hi lo i : Nat) :
    (fld x hi lo).testBit i = (decide (i < hi + 1 - lo) && x.getLsbD (lo + i)) := by
  unfold fld
  rw [Nat.testBit_mod_two_pow, Nat.testBit_div_two_pow, Nat.add_comm i lo]
  rfl

/-- A number with `n` bits at place `lo` replaced. -/
theorem putBits_testBit (X lo n v j : Nat) :
    (X - X / 2 ^ lo % 2 ^ n * 2 ^ lo + v % 2 ^ n * 2 ^ lo).testBit j =
      if lo ≤ j ∧ j < lo + n then v.testBit (j - lo) else X.testBit j := by
  have hB : X % 2 ^ lo < 2 ^ lo := Nat.mod_lt _ (Nat.two_pow_pos _)
  have hv : v % 2 ^ n < 2 ^ n := Nat.mod_lt _ (Nat.two_pow_pos _)
  have e1 : X = 2 ^ lo * (X / 2 ^ lo) + X % 2 ^ lo := (Nat.div_add_mod X (2 ^ lo)).symm
  have e2 : X / 2 ^ lo = 2 ^ n * (X / 2 ^ lo / 2 ^ n) + X / 2 ^ lo % 2 ^ n := (Nat.div_add_mod _ _).symm
  have e3 : X - X / 2 ^ lo % 2 ^ n * 2 ^ lo + v % 2 ^ n * 2 ^ lo
      = 2 ^ lo * (2 ^ n * (X / 2 ^ lo / 2 ^ n) + v % 2 ^ n) + X % 2 ^ lo := by
    generalize X / 2 ^ lo / 2 ^ n = A at *
    generalize X / 2 ^ lo % 2 ^ n = f at *
    rw [e2] at e1
    generalize X % 2 ^ lo = B at *
    generalize v % 2 ^ n = u at *
    have h3 : X = 2 ^ lo * (2 ^ n * A) + f * 2 ^ lo + B := by rw [e1]; ring
    rw [h3, Nat.mul_add, Nat.mul_comm (2 ^ lo) u]
    omega
  rw [e3, Nat.testBit_two_pow_mul_add _ hB]
  by_cases h1 : j < lo
  · rw [if_pos h1, if_neg (by omega), Nat.testBit_mod_two_pow]; simp [h1]
  · rw [if_neg h1, Nat.testBit_two_pow_mul_add _ hv]
    by_cases h2 : j - lo < n
    · rw [if_pos h2, if_pos (by omega), Nat.testBit_mod_two_pow]; simp [h2]
    · rw [if_neg h2, if_neg (by omega), Nat.testBit_div_two_pow, Nat.testBit_div_two_pow]
      congr 1; omega

theorem setFld_getLsbD {w : Nat} (x : BitVec w) (hi lo v j : Nat) (hj : j < w) :
    (setFld x hi lo v).getLsbD j = if lo ≤ j ∧ j < hi + 1 then v.testBit (j - lo) else x.getLsbD j := by
  unfold setFld
  rw [BitVec.getLsbD_ofNat]
  simp only [hj, decide_true, Bool.true_and, fld]
  rw [putBits_testBit]
  by_cases h : lo ≤ j ∧ j < hi + 1
  · rw [if_pos h, if_pos (by omega)]
  · rw [if_neg h, if_neg (by omega)]; rfl

/-- A field reads what was written to it. -/
theorem fld_setFld_self {w : Nat} (x : BitVec w) (hi lo v : Nat) (h : hi < w) :
    fld (setFld x hi lo v) hi lo = v % 2 ^ (hi + 1 - lo) := by
  apply Nat.eq_of_testBit_eq
  intro i
  rw [fld_testBit, Nat.testBit_mod_two_pow]
  by_cases hi' : i < hi + 1 - lo
  · rw [setFld_getLsbD _ _ _ _ _ (by omega), if_pos (by omega)]; simp [hi']
  · simp [hi']

/-- A field keeps its value when another is written. -/
theorem fld_setFld_ne {w : Nat} (x : BitVec w) (hi lo v a b : Nat) (h : hi < w) (hd : hi < b ∨ a < lo) :
    fld (setFld x a b v) hi lo = fld x hi lo := by
  apply Nat.eq_of_testBit_eq
  intro i
  rw [fld_testBit, fld_testBit]
  by_cases hi' : i < hi + 1 - lo
  · rw [setFld_getLsbD _ _ _ _ _ (by omega), if_neg (by omega)]
  · simp [hi']

theorem fld_lt {w : Nat} (x : BitVec w) (hi lo : Nat) : fld x hi lo < 2 ^ (hi + 1 - lo) := Nat.mod_lt _ (Nat.two_pow_pos _)

end Sys2Proof.Machine
end

