-- ==== Sys2Proof/Laws/Hart.lean ====
section
/-! SUPPORT. Registers and CSRs of a hart: a read after a write, what counting changes, and what retiring an instruction
can do. -/

namespace Sys2Proof.Machine

/-! Registers. -/

theorem Hart.getX_setX (h : Hart) (r q : Nat) (v : DWord) :
    (h.setX r v).getX q = if q % 32 = r % 32 ∧ r % 32 ≠ 0 then v else h.getX q := by
  unfold Hart.setX Hart.getX
  by_cases hr : r % 32 = 0
  · simp [hr]
  · by_cases hq : q % 32 = r % 32
    · simp [hr, hq]
    · simp [hr, hq, Sparse.at_put_ne hq]

theorem Hart.setX_eq (h : Hart) (r : Nat) (v : DWord) : ∃ l, h.setX r v = { h with x := l } := by
  unfold Hart.setX; split
  · exact ⟨h.x, rfl⟩
  · exact ⟨_, rfl⟩

@[simp] theorem Hart.setX_csr (h : Hart) (r : Nat) (v : DWord) (n : Nat) : (h.setX r v).csr n = h.csr n := by
  obtain ⟨l, e⟩ := h.setX_eq r v; rw [e]; rfl
@[simp] theorem Hart.setX_pc (h : Hart) (r : Nat) (v : DWord) : (h.setX r v).pc = h.pc := by
  obtain ⟨l, e⟩ := h.setX_eq r v; rw [e]
@[simp] theorem Hart.setX_priv (h : Hart) (r : Nat) (v : DWord) : (h.setX r v).priv = h.priv := by
  obtain ⟨l, e⟩ := h.setX_eq r v; rw [e]

/-! CSRs. -/

theorem Hart.csr_setCsr (h : Hart) (n k : Nat) (v : DWord) : (h.setCsr n v).csr k = if k = n then v else h.csr k := by
  unfold Hart.setCsr Hart.csr
  by_cases e : k = n
  · subst e; simp
  · simp [Sparse.find_put_ne e, e]

@[simp] theorem Hart.csr_setCsr_self (h : Hart) (n : Nat) (v : DWord) : (h.setCsr n v).csr n = v := by simp [Hart.csr_setCsr]
theorem Hart.csr_setCsr_ne {n k : Nat} (e : k ≠ n) (h : Hart) (v : DWord) : (h.setCsr n v).csr k = h.csr k := by
  simp [Hart.csr_setCsr, e]

@[simp] theorem Hart.setCsr_body (h : Hart) (n : Nat) (v : DWord) : (h.setCsr n v).body = h.body := rfl
@[simp] theorem Hart.setCsr_pc (h : Hart) (n : Nat) (v : DWord) : (h.setCsr n v).pc = h.pc := rfl
@[simp] theorem Hart.setCsrFld_body (h : Hart) (n a b v : Nat) : (h.setCsrFld n a b v).body = h.body := rfl
@[simp] theorem Hart.setCsrFld_pc (h : Hart) (n a b v : Nat) : (h.setCsrFld n a b v).pc = h.pc := rfl

/-! Counting. -/

/-- Two harts that differ only in what instructions count. -/
def Hart.counts (h h' : Hart) : Prop := h'.body = h.body ∧ h'.pc = h.pc ∧ h'.lat = h.lat ∧
  ∀ k, countCsr k = false → h'.csr k = h.csr k

theorem Hart.counts_refl (h : Hart) : h.counts h := ⟨rfl, rfl, rfl, fun _ _ => rfl⟩
theorem Hart.counts_trans {a b c : Hart} (h : a.counts b) (g : b.counts c) : a.counts c :=
  ⟨g.1.trans h.1, g.2.1.trans h.2.1, g.2.2.1.trans h.2.2.1, fun k e => (g.2.2.2 k e).trans (h.2.2.2 k e)⟩

theorem Hart.setCsr_counts {h h' : Hart} (e : h.counts h') {n : Nat} (hn : countCsr n = true) (v : DWord) : h.counts (h'.setCsr n v) := by
  refine ⟨e.1, e.2.1, e.2.2.1, fun k hk => ?_⟩
  rw [Hart.csr_setCsr_ne (by rintro rfl; simp [hn] at hk)]
  exact e.2.2.2 k hk

theorem Hart.bump_counts (h : Hart) {n : Nat} (h1 : 3 ≤ n) (h2 : n ≤ 10) (k : Nat) : h.counts (h.bump n k) := by
  have a : countCsr (0xB00 + n) = true := by simp [countCsr]; omega
  have b : countCsr (0x320 + n) = true := by simp [countCsr]; omega
  have d : countCsr cMip = true := by decide
  unfold Hart.bump
  have e := Hart.setCsr_counts (Hart.counts_refl h) a (BitVec.ofNat 64 ((h.csr (0xB00 + n)).toNat + k))
  dsimp only
  split
  · unfold Hart.overflow
    dsimp only
    split
    · exact Hart.setCsr_counts (Hart.setCsr_counts e b _) d _
    · exact Hart.setCsr_counts e b _
  · exact e

/-- What an event can do: only counts change (R447, R452). -/
theorem Hart.event_counts (h : Hart) (code um k : Nat) : h.counts (h.event code um k) := by
  unfold Hart.event
  suffices ∀ (l : List Nat), (∀ i ∈ l, i < 8) → ∀ g : Hart, h.counts g → h.counts (l.foldl (fun h i =>
      let n := i + 3
      let e := h.csr (0x320 + n)
      if fld e 11 0 = code ∧ (um = 0 ∨ fld e 19 12 &&& um ≠ 0) ∧ fld e h.inhBit h.inhBit = 0
        ∧ h.csrFld 0x320 n n = 0 then h.bump n k else h) g) from
    this _ (by simp) h (Hart.counts_refl h)
  intro l
  induction l with
  | nil => exact fun _ g e => e
  | cons i t ih =>
    intro hl g e
    refine ih (fun j hj => hl j (List.mem_cons_of_mem _ hj)) _ ?_
    have := hl i List.mem_cons_self
    dsimp only
    split
    · exact Hart.counts_trans e (Hart.bump_counts g (by omega) (by omega) k)
    · exact e

/-- What one programmable counter can do at a retirement: only counts change (R447-R449). -/
theorem Hart.tallyOne_counts (reqs seed cyc uops : Nat) (h : Hart) {i : Nat} (hi : i < 8) :
    h.counts (Hart.tallyOne reqs seed cyc uops h i) := by
  have o (v : Nat) : h.counts { h with occ := Sparse.put h.occ (i + 3) v } := ⟨rfl, rfl, rfl, fun _ _ => rfl⟩
  unfold Hart.tallyOne
  dsimp only
  split
  · exact Hart.counts_refl h
  · split
    all_goals split
    all_goals first
      | exact Hart.counts_refl h
      | exact o _
      | exact Hart.bump_counts h (by omega) (by omega) _
      | exact Hart.counts_trans (o _) (Hart.bump_counts _ (n := i + 3) (by omega) (by omega) _)

/-- What the programmable counters can do at a retirement. -/
theorem Hart.tally_counts (h : Hart) (reqs seed cyc uops : Nat) : h.counts (h.tally reqs seed cyc uops) := by
  unfold Hart.tally
  suffices ∀ (l : List Nat), (∀ i ∈ l, i < 8) → ∀ g : Hart, h.counts g → h.counts (l.foldl (Hart.tallyOne reqs seed cyc uops) g) from
    this _ (by simp) h (Hart.counts_refl h)
  intro l
  induction l with
  | nil => exact fun _ g e => e
  | cons i t ih =>
    exact fun hl g e => ih (fun j hj => hl j (List.mem_cons_of_mem _ hj)) _
      (Hart.counts_trans e (Hart.tallyOne_counts reqs seed cyc uops g (hl i List.mem_cons_self)))

/-- What retiring an instruction does to its hart (R92, R95, R444). -/
theorem Chip.retire_counts (c : Chip) (n len lat uops : Nat) :
    Hart.counts { c.hart n with pc := (c.hart n).pc + BitVec.ofNat 64 len, lat := lat } ((c.retire n len lat uops).hart n) := by
  have a : countCsr cMinstret = true := by decide
  have b : countCsr cMcycle = true := by decide
  unfold Chip.retire
  rw [Chip.modHart_self]
  refine Hart.counts_trans ?_ (Hart.tally_counts _ _ _ _ _)
  have e := Hart.counts_refl { c.hart n with pc := (c.hart n).pc + BitVec.ofNat 64 len, lat := lat }
  dsimp only
  split
  · split
    · exact Hart.setCsr_counts (Hart.setCsr_counts e a _) b _
    · exact Hart.setCsr_counts e a _
  · split
    · exact Hart.setCsr_counts e b _
    · exact e

theorem Chip.retire_ne {n k : Nat} (h : k ≠ n) (c : Chip) (len lat uops : Nat) : (c.retire n len lat uops).hart k = c.hart k := by
  unfold Chip.retire; rw [Chip.modHart_ne h]; rfl

theorem Chip.retire_aside (c : Chip) (n len lat uops : Nat) : (c.retire n len lat uops).aside = c.aside := rfl
theorem Chip.modHart_aside (c : Chip) (n : Nat) (f : Hart → Hart) : (c.modHart n f).aside = c.aside := rfl

/-- A hart's own change, then retiring: only that hart changes, as the change says. -/
theorem Chip.retire_only (c : Chip) (n : Nat) (f : Hart → Hart) (len lat uops : Nat) :
    OnlyHart c ((c.modHart n f).retire n len lat uops) n { f (c.hart n) with pc := (f (c.hart n)).pc + BitVec.ofNat 64 len } := by
  have r := Chip.retire_counts (c.modHart n f) n len lat uops
  rw [Chip.modHart_self] at r
  exact ⟨rfl, fun k hk => by rw [Chip.retire_ne hk, Chip.modHart_ne hk], r.1, r.2.1, r.2.2.2⟩

/-- A hart's own change alone. -/
theorem Chip.modHart_only (c : Chip) (n : Nat) (f : Hart → Hart) : OnlyHart c (c.modHart n f) n (f (c.hart n)) :=
  ⟨rfl, fun k hk => by rw [Chip.modHart_ne hk], by rw [Chip.modHart_self], by rw [Chip.modHart_self], fun k _ => by rw [Chip.modHart_self]⟩

/-- What is counted on the way does not show. -/
theorem OnlyHart.of_counts {c c' : Chip} {n : Nat} {x y : Hart} (h : OnlyHart c c' n x) (e : y.counts x) : OnlyHart c c' n y :=
  ⟨h.1, h.2.1, h.2.2.1.trans e.1, h.2.2.2.1.trans e.2.1, fun k hk => (h.2.2.2.2 k hk).trans (e.2.2.2 k hk)⟩

/-! Commands. -/

/-- A command's answer from its effect. -/
theorem Runs.of {i : Instr} {s : State} {f : Chip → Chip} {c : Chip} (he : exec i s = onParts (partsOf i) s f)
    (hf : (f s.chip).withFuse s.chip.fuse = c) : Runs i s c := by
  intro hs
  rw [he, ← hf]
  exact onParts_next hs f

theorem RunsTo.of {i : Instr} {s : State} {f : Chip → Chip} {P : Chip → Prop} (he : exec i s = onParts (partsOf i) s f)
    (hf : P ((f s.chip).withFuse s.chip.fuse)) : RunsTo i s P := by
  intro hs
  exact ⟨_, he.trans (onParts_next hs f), hf⟩

theorem Runs.to {i : Instr} {s : State} {c : Chip} {P : Chip → Prop} (h : Runs i s c) (hp : P c) : RunsTo i s P :=
  fun hs => ⟨c, h hs, hp⟩

/-- Keeping the fuses does not show where the effect keeps them. -/
theorem Chip.withFuse_self {c d : Chip} (h : d.fuse = c.fuse) : d.withFuse c.fuse = d := by
  rw [← h]; rfl

/-- The same, where the effect keeps the fuses. -/
theorem RunsTo.keep {i : Instr} {s : State} {P : Chip → Prop} (f : Chip → Chip) (he : exec i s = onParts (partsOf i) s f)
    (hk : (f s.chip).fuse = s.chip.fuse) (hf : P (f s.chip)) : RunsTo i s P :=
  RunsTo.of he (by rw [Chip.withFuse_self hk]; exact hf)

theorem Runs.keep {i : Instr} {s : State} {c : Chip} (f : Chip → Chip) (he : exec i s = onParts (partsOf i) s f)
    (hk : c.fuse = s.chip.fuse) (hf : f s.chip = c) : Runs i s c :=
  Runs.of he (by rw [hf, Chip.withFuse_self hk])

theorem OnlyHart.fuse {c c' : Chip} {n : Nat} {x : Hart} (h : OnlyHart c c' n x) : c'.fuse = c.fuse := by
  have := congrArg Chip.fuse h.1; exact this

/-- A command whose effect is on one hart. -/
theorem RunsTo.hart {i : Instr} {s : State} {n : Nat} {x : Hart} (f : Chip → Chip) (he : exec i s = onParts (partsOf i) s f)
    (h : OnlyHart s.chip (f s.chip) n x) : RunsTo i s fun c => OnlyHart s.chip c n x :=
  RunsTo.keep f he h.fuse h

/-- A ready hart runs on a core, holds no load back and has performed none early, no trigger fires on its pc, and its fetch is
answered. -/
theorem Chip.ready_core {c : Chip} {n : Nat} (h : c.ready n = true) :
    ∃ k, c.liveCore n = some k ∧ (c.hart n).held = none ∧ (c.hart n).early = [] ∧
      (c.hart n).trigFires .fetch (c.hart n).pc.toNat = false ∧ c.fetches n = true := by
  simp only [Chip.ready, Bool.and_eq_true, Option.isSome_iff_exists, Option.isNone_iff_eq_none, List.isEmpty_iff,
    Bool.not_eq_true'] at h
  exact ⟨h.1.1.1.1.choose, h.1.1.1.1.choose_spec, h.1.1.1.2, h.1.1.2, h.1.2, h.2⟩

/-- An instruction of a ready hart is fetched, and has its effect. -/
theorem Chip.traced_ready {c : Chip} {n : Nat} (h : c.ready n = true) (f : Chip → Chip) (a : Bool) : c.traced n f a = f c := by
  obtain ⟨k, lc, hd, _, t, fe⟩ := Chip.ready_core h
  unfold Chip.fetches at fe
  simp only [Chip.traced, lc, hd, t]
  cases htr : c.translate n (c.hart n).pc.toNat .fetch with
  | ok pa mt => simp_all
  | miss => simp_all
  | trap x y z => simp_all

end Sys2Proof.Machine
end

