-- ==== Sys2Proof/Laws/PerInstr.lean ====
section
/-! SUPPORT. One lemma per command: a well-formed command names only parts that the largest member has. -/

namespace Sys2Proof.Laws.Reach

open Sys2Proof.Machine

/-- A list of parts, each of which the largest member has. -/
def allFull (l : List (Part × Nat)) : Prop := ∀ e ∈ l, e.2 < fullParts e.1

/-- Every part that a well-formed command names exists in the largest member. -/
def Statement (i : Instr) : Prop := i.wf = true → allFull (partsOf i)

@[simp] theorem allFull_nil : allFull [] := by simp [allFull]

@[simp] theorem allFull_cons (e : Part × Nat) (l : List (Part × Nat)) : allFull (e :: l) ↔ e.2 < fullParts e.1 ∧ allFull l := by
  simp [allFull]

@[simp] theorem allFull_append (l k : List (Part × Nat)) : allFull (l ++ k) ↔ allFull l ∧ allFull k := by
  simp only [allFull, List.mem_append]
  exact ⟨fun h => ⟨fun e he => h e (.inl he), fun e he => h e (.inr he)⟩, fun h e he => he.elim (h.1 e) (h.2 e)⟩

theorem src_full {s : Src} (h : s.wf = true) : allFull (srcParts s) := by
  cases s <;> simp_all [Src.wf, srcParts, fullParts]

theorem ctl_full {a : CtlAddr} (h : a.wf = true) : allFull (ctlParts a) := by
  cases a <;> simp_all [CtlAddr.wf, ctlParts, fullParts, Chip.parts]; omega

theorem db_full {a : DbAddr} (h : a.wf = true) : allFull (dbParts a) := by
  cases a <;> simp_all [DbAddr.wf, dbParts, fullParts, Chip.parts]; omega

theorem ring_full {r : RingId} (h : r.wf = true) : allFull (ringParts r) := by
  cases r <;> simp_all [RingId.wf, ringParts, fullParts, Chip.parts] <;> omega

theorem agent_full {a : Agent} (h : a.wf = true) : allFull (agentParts a) := by
  cases a <;> simp_all [Agent.wf, agentParts, fullParts, Chip.parts]; omega

theorem msg_full {m : Msg} (h : m.wf = true) : allFull (msgParts m) := by
  simp only [Msg.wf, Bool.and_eq_true] at h
  simp [msgParts, agent_full h.1.1.1.1.1.1.1, agent_full h.1.1.1.1.1.1.2, agent_full h.1.1.1.1.1.2]

theorem io_full {a : IoAddr} (h : a.wf = true) : allFull (ioParts a) := by
  cases a <;> simp_all [IoAddr.wf, ioParts, ctl_full, db_full]

theorem ioOp_full {o : IoOp} (h : o.wf = true) : allFull (ioParts o.addr) := by
  simp only [IoOp.wf, Bool.and_eq_true] at h
  exact io_full h.1.1.2

theorem link_full {l : LinkId} (h : l.wf = true) : l.unit < 514 := by
  simp [LinkId.wf] at h; omega

theorem tlp_full {t : Tlp} (h : t.wf = true) : t.port < 4 ∧ t.sub < 4 := by
  simp [Tlp.wf] at h; omega

/-- Every command keeps the statement: the case of each is its own row's parts. -/
theorem every (i : Instr) : Statement i := by
  cases i <;> intro h <;>
    simp_all [Instr.wf, partsOf, fullParts, Chip.parts, src_full, ctl_full, db_full, ring_full, msg_full,
      ioOp_full, link_full, tlp_full]

theorem registerWrite (src : Src) (a : CtlAddr) (width : Nat) (data : DWord) : Statement (.registerWrite src a width data) := every _
theorem readClear (src : Src) (a : CtlAddr) (width : Nat) : Statement (.readClear src a width) := every _
theorem bitAliasWrite (src : Src) (u off : Nat) (v : Word) : Statement (.bitAliasWrite src u off v) := every _
theorem complementPairStore (src : Src) (a : CtlAddr) (v : Word) : Statement (.complementPairStore src a v) := every _
theorem complementPairArm (src : Src) (a : CtlAddr) (v : Word) : Statement (.complementPairArm src a v) := every _
theorem complementPairCommit (src : Src) (a : CtlAddr) (v : Word) : Statement (.complementPairCommit src a v) := every _
theorem interleaveSetCommit (src : Src) (n : Nat) (r : MsetReg) (v : Word) : Statement (.interleaveSetCommit src n r v) := every _
theorem msetLock (src : Src) : Statement (.msetLock src) := every _
theorem bootEntryCommit (src : Src) (v : Word) : Statement (.bootEntryCommit src v) := every _
theorem registerParityFault (u bank off : Nat) : Statement (.registerParityFault u bank off) := every _
theorem blkLock (src : Src) (u : Nat) : Statement (.blkLock src u) := every _
theorem lastErrClear (src : Src) (u : Nat) : Statement (.lastErrClear src u) := every _
theorem mboxSel (src : Src) (u sel : Nat) : Statement (.mboxSel src u sel) := every _
theorem snapshotComplete (u : Nat) : Statement (.snapshotComplete u) := every _
theorem summaryPropagate (u : Nat) : Statement (.summaryPropagate u) := every _
theorem doorbell (src : Src) (a : DbAddr) (width : Nat) (data : DWord) : Statement (.doorbell src a width data) := every _
theorem completionHeadDoorbell (src : Src) (a : DbAddr) (width : Nat) (data : DWord) : Statement (.completionHeadDoorbell src a width data) := every _
theorem doorbellRegionBadOffset (src : Src) (a : DbAddr) (width : Nat) (data : DWord) : Statement (.doorbellRegionBadOffset src a width data) := every _
theorem descriptorFetch (r : RingId) : Statement (.descriptorFetch r) := every _
theorem completionRecordWrite (r : RingId) : Statement (.completionRecordWrite r) := every _
theorem msixEvent (iid v : Nat) : Statement (.msixEvent iid v) := every _
theorem msixUnmask (iid v : Nat) : Statement (.msixUnmask iid v) := every _
theorem instruction (h : Nat) (op : HartOp) (len : Nat) : Statement (.instruction h op len) := every _
theorem load (h : Nat) (op : LoadOp) : Statement (.load h op) := every _
theorem store (h : Nat) (op : StoreOp) : Statement (.store h op) := every _
theorem vectorLoad (h : Nat) (op : VMemOp) : Statement (.vectorLoad h op) := every _
theorem vectorStore (h : Nat) (op : VMemOp) : Statement (.vectorStore h op) := every _
theorem ioAccess (h : Nat) (op : IoOp) : Statement (.ioAccess h op) := every _
theorem storeCommit (h : Nat) : Statement (.storeCommit h) := every _
theorem heldLoadReplay (h : Nat) : Statement (.heldLoadReplay h) := every _
theorem sameAddressLoadRedo (h line : Nat) : Statement (.sameAddressLoadRedo h line) := every _
theorem branchRedirect (h : Nat) (at_ : RedirAt) (target : DWord) : Statement (.branchRedirect h at_ target) := every _
theorem hardwarePrefetch (h line : Nat) : Statement (.hardwarePrefetch h line) := every _
theorem amo (h : Nat) (fn : AmoFn) (rd rs1 rs2 size : Nat) : Statement (.amo h fn rd rs1 rs2 size) := every _
theorem lr (h : Nat) (rd rs1 size : Nat) : Statement (.lr h rd rs1 size) := every _
theorem sc (h : Nat) (rd rs1 rs2 size : Nat) : Statement (.sc h rd rs1 rs2 size) := every _
theorem reservationSnoopRelease (h : Nat) : Statement (.reservationSnoopRelease h) := every _
theorem fence (h : Nat) (pred succ : BitVec 4) (tso : Bool) : Statement (.fence h pred succ tso) := every _
theorem fenceI (h : Nat) : Statement (.fenceI h) := every _
theorem sfenceVma (h : Nat) (fn : SfenceFn) (rs1 rs2 : Nat) : Statement (.sfenceVma h fn rs1 rs2) := every _
theorem serialisingInstruction (h : Nat) (op : SerialOp) : Statement (.serialisingInstruction h op) := every _
theorem trapEntry (h : Nat) (interrupt : Bool) (cause : Nat) (tval : DWord) : Statement (.trapEntry h interrupt cause tval) := every _
theorem cboClean (h rs1 : Nat) : Statement (.cboClean h rs1) := every _
theorem cboFlush (h rs1 : Nat) : Statement (.cboFlush h rs1) := every _
theorem cboInval (h rs1 : Nat) : Statement (.cboInval h rs1) := every _
theorem cboZero (h rs1 : Nat) : Statement (.cboZero h rs1) := every _
theorem pageWalk (h : Nat) : Statement (.pageWalk h) := every _
theorem integerDivide (h : Nat) (fn : DivFn) (rd rs1 rs2 : Nat) : Statement (.integerDivide h fn rd rs1 rs2) := every _
theorem fpInstruction (h : Nat) (op : FpOp) : Statement (.fpInstruction h op) := every _
theorem frmWrite (h : Nat) (v : BitVec 3) : Statement (.frmWrite h v) := every _
theorem fflagsWrite (h : Nat) (v : BitVec 5) : Statement (.fflagsWrite h v) := every _
theorem vsetvl (h rd : Nat) (avl : AvlSrc) (vtype : DWord) : Statement (.vsetvl h rd avl vtype) := every _
theorem vectorInstruction (h : Nat) (op : VOp) : Statement (.vectorInstruction h op) := every _
theorem vectorReduction (h : Nat) (op : VRedOp) : Statement (.vectorReduction h op) := every _
theorem molRadd (h : Nat) (ty : RedTy) (op : MolOp) : Statement (.molRadd h ty op) := every _
theorem molRmin (h : Nat) (ty : RedTy) (op : MolOp) : Statement (.molRmin h ty op) := every _
theorem molRmax (h : Nat) (ty : RedTy) (op : MolOp) : Statement (.molRmax h ty op) := every _
theorem molRclose (h : Nat) (op : MolOp) : Statement (.molRclose h op) := every _
theorem molBpctlWrite (h : Nat) (v : DWord) : Statement (.molBpctlWrite h v) := every _
theorem bpctlFlush (h : Nat) : Statement (.bpctlFlush h) := every _
theorem molRestctlWrite (h : Nat) (v : DWord) : Statement (.molRestctlWrite h v) := every _
theorem wfi (h : Nat) : Statement (.wfi h) := every _
theorem restEntry (h : Nat) : Statement (.restEntry h) := every _
theorem wakeEvent (h : Nat) (dbg : Bool) : Statement (.wakeEvent h dbg) := every _
theorem restWakeResume (h : Nat) : Statement (.restWakeResume h) := every _
theorem debugHalt (h : Nat) : Statement (.debugHalt h) := every _
theorem rdShared (m : Msg) : Statement (.rdShared m) := every _
theorem rdOwn (m : Msg) : Statement (.rdOwn m) := every _
theorem rdOnce (m : Msg) (errs : List Nat) : Statement (.rdOnce m errs) := every _
theorem upgrade (m : Msg) : Statement (.upgrade m) := every _
theorem putDirty (m : Msg) : Statement (.putDirty m) := every _
theorem putClean (m : Msg) : Statement (.putClean m) := every _
theorem redOp (m : Msg) : Statement (.redOp m) := every _
theorem ncRd (m : Msg) : Statement (.ncRd m) := every _
theorem ncWr (m : Msg) : Statement (.ncWr m) := every _
theorem fwdShared (m : Msg) : Statement (.fwdShared m) := every _
theorem fwdOwn (m : Msg) : Statement (.fwdOwn m) := every _
theorem inval (m : Msg) : Statement (.inval m) := every _
theorem close (m : Msg) : Statement (.close m) := every _
theorem ack (m : Msg) : Statement (.ack m) := every _
theorem snpNoData (m : Msg) : Statement (.snpNoData m) := every _
theorem wbAck (m : Msg) : Statement (.wbAck m) := every _
theorem wbAckStale (m : Msg) : Statement (.wbAckStale m) := every _
theorem cmp (m : Msg) : Statement (.cmp m) := every _
theorem data (m : Msg) : Statement (.data m) := every _
theorem fwdData (m : Msg) : Statement (.fwdData m) := every _
theorem wbData (m : Msg) : Statement (.wbData m) := every _
theorem waitQueueStart (slice line : Nat) : Statement (.waitQueueStart slice line) := every _
theorem waitQueueAdmit (slice line : Nat) : Statement (.waitQueueAdmit slice line) := every _
theorem l2Eviction (core line : Nat) : Statement (.l2Eviction core line) := every _
theorem l2MaintClean (src : Src) (core : Nat) (pos : MaintPos) : Statement (.l2MaintClean src core pos) := every _
theorem l2MaintInval (src : Src) (core : Nat) (pos : MaintPos) : Statement (.l2MaintInval src core pos) := every _
theorem l2MaintCleanInval (src : Src) (core : Nat) (pos : MaintPos) : Statement (.l2MaintCleanInval src core pos) := every _
theorem l3MaintClean (src : Src) (slice : Nat) (pos : MaintPos) : Statement (.l3MaintClean src slice pos) := every _
theorem l3MaintInval (src : Src) (slice : Nat) (pos : MaintPos) : Statement (.l3MaintInval src slice pos) := every _
theorem l3MaintCleanInval (src : Src) (slice : Nat) (pos : MaintPos) : Statement (.l3MaintCleanInval src slice pos) := every _
theorem maintDone (u : Nat) : Statement (.maintDone u) := every _
theorem penWaitResume (slice line : Nat) : Statement (.penWaitResume slice line) := every _
theorem redDrain (src : Src) (slice : Nat) : Statement (.redDrain src slice) := every _
theorem linkRetry (l : LinkId) : Statement (.linkRetry l) := every _
theorem wireSparing (l : LinkId) (failing : List Nat) : Statement (.wireSparing l failing) := every _
theorem bankActivate (chan sub rank bank : Nat) : Statement (.bankActivate chan sub rank bank) := every _
theorem writeDrain (chan sub : Nat) : Statement (.writeDrain chan sub) := every _
theorem refreshSb (chan rank idx : Nat) : Statement (.refreshSb chan rank idx) := every _
theorem mr4Poll (chan : Nat) (hot : Bool) : Statement (.mr4Poll chan hot) := every _
theorem retrainingPause (chan rank dur : Nat) : Statement (.retrainingPause chan rank dur) := every _
theorem caParityAlert (chan rank : Nat) : Statement (.caParityAlert chan rank) := every _
theorem patrolRead (chan : Nat) (errs : List Nat) : Statement (.patrolRead chan errs) := every _
theorem rankRetirement (chan rank : Nat) (cause : RetCause) : Statement (.rankRetirement chan rank cause) := every _
theorem copyOperation (chan : Nat) (errs : List Nat) : Statement (.copyOperation chan errs) := every _
theorem copyDone (chan : Nat) : Statement (.copyDone chan) := every _
theorem force (src : Src) (chan rank : Nat) : Statement (.force src chan rank) := every _
theorem mcSpareCfgWrite (src : Src) (chan : Nat) (v : Word) : Statement (.mcSpareCfgWrite src chan v) := every _
theorem frameReceive (port mac : Nat) (bytes : List Byte) (fcsOk : Bool) : Statement (.frameReceive port mac bytes fcsOk) := every _
theorem heldFrameResume (port q : Nat) : Statement (.heldFrameResume port q) := every _
theorem xon (port prio : Nat) : Statement (.xon port prio) := every _
theorem pauseFrameReceive (port mac : Nat) (prios : BitVec 8) (quanta : List Nat) : Statement (.pauseFrameReceive port mac prios quanta) := every _
theorem linkUp (port mac : Nat) : Statement (.linkUp port mac) := every _
theorem linkDown (port mac : Nat) : Statement (.linkDown port mac) := every _
theorem flowSet (r : RingId) : Statement (.flowSet r) := every _
theorem flowDelete (r : RingId) : Statement (.flowDelete r) := every _
theorem rssSet (r : RingId) : Statement (.rssSet r) := every _
theorem rxBuf (r : RingId) : Statement (.rxBuf r) := every _
theorem txFrame (r : RingId) : Statement (.txFrame r) := every _
theorem txGather (r : RingId) : Statement (.txGather r) := every _
theorem txInline (r : RingId) : Statement (.txInline r) := every _
theorem qHartWrite (src : Src) (q : Nat) (v : Word) : Statement (.qHartWrite src q v) := every _
theorem queueEnable (src : Src) (r : RingId) : Statement (.queueEnable src r) := every _
theorem queueDisable (src : Src) (r : RingId) : Statement (.queueDisable src r) := every _
theorem quiesced (r : RingId) : Statement (.quiesced r) := every _
theorem copy (r : RingId) : Statement (.copy r) := every _
theorem fill (r : RingId) : Statement (.fill r) := every _
theorem crc (r : RingId) : Statement (.crc r) := every _
theorem compare (r : RingId) : Statement (.compare r) := every _
theorem compress (r : RingId) : Statement (.compress r) := every _
theorem compressResume (r : RingId) : Statement (.compressResume r) := every _
theorem decompress (r : RingId) : Statement (.decompress r) := every _
theorem decompressResume (r : RingId) : Statement (.decompressResume r) := every _
theorem laneDispatch (e : Nat) : Statement (.laneDispatch e) := every _
theorem containerBlockWrite (r : RingId) : Statement (.containerBlockWrite r) := every _
theorem laneFault (e lane : Nat) (again : Bool) : Statement (.laneFault e lane again) := every _
theorem droverInstruction (d k : Nat) : Statement (.droverInstruction d k) := every _
theorem droverApertureLoad (d k : Nat) (op : DvMem) : Statement (.droverApertureLoad d k op) := every _
theorem droverApertureStore (d k : Nat) (op : DvMem) : Statement (.droverApertureStore d k op) := every _
theorem droverFill (d k : Nat) : Statement (.droverFill d k) := every _
theorem storeQueueDrain (d k : Nat) : Statement (.storeQueueDrain d k) := every _
theorem writeQueueSend (d n : Nat) : Statement (.writeQueueSend d n) := every _
theorem molMulct (d k : Nat) (fn : DvMul) (r : DvReg) : Statement (.molMulct d k fn r) := every _
theorem molDivct (d k : Nat) (fn : DvDiv) (r : DvReg) : Statement (.molDivct d k fn r) := every _
theorem molBswap (d k : Nat) (r : DvReg) : Statement (.molBswap d k r) := every _
theorem molCsum (d k : Nat) (r : DvReg) : Statement (.molCsum d k r) := every _
theorem molCsfold (d k : Nat) (r : DvReg) : Statement (.molCsfold d k r) := every _
theorem molCrc32cB (d k : Nat) (r : DvReg) : Statement (.molCrc32cB d k r) := every _
theorem molCrc32cW (d k : Nat) (r : DvReg) : Statement (.molCrc32cW d k r) := every _
theorem molExtr (d k : Nat) (r : DvReg) : Statement (.molExtr d k r) := every _
theorem molDget (d k : Nat) (r : DvReg) : Statement (.molDget d k r) := every _
theorem molDwait (d k : Nat) (r : DvReg) : Statement (.molDwait d k r) := every _
theorem molCmpl (d k : Nat) (r : DvReg) : Statement (.molCmpl d k r) := every _
theorem molDpf (d k : Nat) (r : DvReg) : Statement (.molDpf d k r) := every _
theorem molDcClean (d k : Nat) (r : DvReg) : Statement (.molDcClean d k r) := every _
theorem molDcInval (d k : Nat) (r : DvReg) : Statement (.molDcInval d k r) := every _
theorem molDcFlush (d k : Nat) (r : DvReg) : Statement (.molDcFlush d k r) := every _
theorem droverHalt (d k cause : Nat) : Statement (.droverHalt d k cause) := every _
theorem droverRun (src : Src) (d k : Nat) : Statement (.droverRun src d k) := every _
theorem droverStop (src : Src) (d k : Nat) : Statement (.droverStop src d k) := every _
theorem droverClusterEnable (src : Src) (d : Nat) : Statement (.droverClusterEnable src d) := every _
theorem dvMaintClean (src : Src) (d : Nat) (pos : MaintPos) : Statement (.dvMaintClean src d pos) := every _
theorem dvMaintInval (src : Src) (d : Nat) (pos : MaintPos) : Statement (.dvMaintInval src d pos) := every _
theorem dvMaintCleanInval (src : Src) (d : Nat) (pos : MaintPos) : Statement (.dvMaintCleanInval src d pos) := every _
theorem unitPowerRequest (src : Src) (u req : Nat) : Statement (.unitPowerRequest src u req) := every _
theorem unitPowerDone (u : Nat) : Statement (.unitPowerDone u) := every _
theorem bwMigrate (src : Src) (hart : Nat) : Statement (.bwMigrate src hart) := every _
theorem bwWatchdogExpiry : Statement (.bwWatchdogExpiry) := every _
theorem bwRestartDone : Statement (.bwRestartDone) := every _
theorem bwHeartbeat : Statement (.bwHeartbeat) := every _
theorem avsPoll (r : AvsReading) : Statement (.avsPoll r) := every _
theorem avsStatusAlert (p : Nat) : Statement (.avsStatusAlert p) := every _
theorem inboundMemoryWrite (t : Tlp) : Statement (.inboundMemoryWrite t) := every _
theorem inboundMemoryRead (t : Tlp) : Statement (.inboundMemoryRead t) := every _
theorem msiWrite (t : Tlp) : Statement (.msiWrite t) := every _
theorem inboundCompletion (port sub tag : Nat) (bytes : List Byte) (ep ok : Bool) : Statement (.inboundCompletion port sub tag bytes ep ok) := every _
theorem outboundRequest (port : Nat) (m : Msg) : Statement (.outboundRequest port m) := every _
theorem completionTimeout (port sub tag : Nat) : Statement (.completionTimeout port sub tag) := every _
theorem tagQuarantineEnd (port sub tag : Nat) : Statement (.tagQuarantineEnd port sub tag) := every _
theorem windowCommit (src : Src) (port : Nat) (v : Word) : Statement (.windowCommit src port v) := every _
theorem sublinkDown (port sub : Nat) : Statement (.sublinkDown port sub) := every _
theorem endpointLinkReset : Statement (.endpointLinkReset) := every _
theorem linkEnable (src : Src) (port : Nat) : Statement (.linkEnable src port) := every _
theorem retrain (src : Src) (port : Nat) : Statement (.retrain src port) := every _
theorem l1Entry (port sub level : Nat) : Statement (.l1Entry port sub level) := every _
theorem l1Exit (port sub : Nat) : Statement (.l1Exit port sub) := every _
theorem cxlMemoryActive (port cap : Nat) : Statement (.cxlMemoryActive port cap) := every _
theorem create (src : Src) : Statement (.create src) := every _
theorem destroy (src : Src) : Statement (.destroy src) := every _
theorem reset (src : Src) : Statement (.reset src) := every _
theorem freeze (src : Src) : Statement (.freeze src) := every _
theorem frozen (iid : Nat) : Statement (.frozen iid) := every _
theorem save (src : Src) : Statement (.save src) := every _
theorem restore (src : Src) : Statement (.restore src) := every _
theorem unfreeze (src : Src) : Statement (.unfreeze src) := every _
theorem dirtyStart (src : Src) : Statement (.dirtyStart src) := every _
theorem dirtySwap (src : Src) : Statement (.dirtySwap src) := every _
theorem dirtyStop (src : Src) : Statement (.dirtyStop src) := every _
theorem flr (iid : Nat) : Statement (.flr iid) := every _
theorem vfEnableClear : Statement (.vfEnableClear) := every _
theorem instanceReset (iid : Nat) : Statement (.instanceReset iid) := every _
theorem shearsStopCut (iid : Nat) : Statement (.shearsStopCut iid) := every _
theorem instanceResetDone (iid : Nat) : Statement (.instanceResetDone iid) := every _
theorem busMasterDisable (f : Nat) : Statement (.busMasterDisable f) := every _
theorem busMasterEnable (f : Nat) : Statement (.busMasterEnable f) := every _
theorem recordInvalidate (src : Src) (u i : Nat) : Statement (.recordInvalidate src u i) := every _
theorem recordPrepare (src : Src) (u i : Nat) (r : RecReg) (v : DWord) : Statement (.recordPrepare src u i r v) := every _
theorem recordInjection (src : Src) (u i : Nat) (v : DWord) : Statement (.recordInjection src u i v) := every _
theorem injectionArm (src : Src) (v : Word) : Statement (.injectionArm src v) := every _
theorem injectionFire (u line : Nat) : Statement (.injectionFire u line) := every _
theorem residueReplay (h : Nat) : Statement (.residueReplay h) := every _
theorem hartMigration (h : Nat) : Statement (.hartMigration h) := every _
theorem migrationRestore (h : Nat) : Statement (.migrationRestore h) := every _
theorem coreRetire (c : Nat) : Statement (.coreRetire c) := every _
theorem hartStop (h : Nat) : Statement (.hartStop h) := every _
theorem fatalError (u struct : Nat) : Statement (.fatalError u struct) := every _
theorem fatalLogCopy : Statement (.fatalLogCopy) := every _
theorem counterWrite (h csr : Nat) (v : DWord) : Statement (.counterWrite h csr v) := every _
theorem counterOverflow (h n rem : Nat) : Statement (.counterOverflow h n rem) := every _
theorem sample (h : Nat) (i : SampleInfo) : Statement (.sample h i) := every _
theorem sampleRecordDone (h : Nat) : Statement (.sampleRecordDone h) := every _
theorem tsctlWrite (h : Nat) (v : DWord) : Statement (.tsctlWrite h v) := every _
theorem tsidxWrite (h : Nat) (v : DWord) : Statement (.tsidxWrite h v) := every _
theorem tallyStart (src : Src) (b : Nat) : Statement (.tallyStart src b) := every _
theorem tallyStop (src : Src) (b : Nat) : Statement (.tallyStop src b) := every _
theorem tallyWindowEnd (b : Nat) : Statement (.tallyWindowEnd b) := every _
theorem startAll (src : Src) : Statement (.startAll src) := every _
theorem stopAll (src : Src) : Statement (.stopAll src) := every _
theorem coldBoot (straps : BitVec 5) (cold : Bool) : Statement (.coldBoot straps cold) := every _
theorem firmwareAuth : Statement (.firmwareAuth) := every _
theorem memoryTraining (pops : List ChanPop) : Statement (.memoryTraining pops) := every _
theorem hartRelease : Statement (.hartRelease) := every _
theorem warmReset : Statement (.warmReset) := every _
theorem powerLoss : Statement (.powerLoss) := every _
theorem droopStretch (fold : Nat) : Statement (.droopStretch fold) := every _
theorem stretchEnd (fold : Nat) : Statement (.stretchEnd fold) := every _
theorem oppRequest (src : Src) (fold : Nat) (v : Word) : Statement (.oppRequest src fold v) := every _
theorem oppChange (fold : Nat) : Statement (.oppChange fold) := every _
theorem rampGrant (core : Nat) (k : RampKind) : Statement (.rampGrant core k) := every _
theorem announcedRampStart (core : Nat) : Statement (.announcedRampStart core) := every _
theorem rampEnd (core : Nat) : Statement (.rampEnd core) := every _
theorem loadcastDeassert (p : Nat) : Statement (.loadcastDeassert p) := every _
theorem thermalLoop (temps : List Nat) : Statement (.thermalLoop temps) := every _
theorem hardwareClamp (cause : Nat) (fold : Nat) : Statement (.hardwareClamp cause fold) := every _
theorem clampEnd : Statement (.clampEnd) := every _
theorem thermtrip (temp : Nat) : Statement (.thermtrip temp) := every _
theorem corePowerUp (core : Nat) : Statement (.corePowerUp core) := every _
theorem standbyPowerUp : Statement (.standbyPowerUp) := every _
theorem sublinkUp (port sub width speed : Nat) : Statement (.sublinkUp port sub width speed) := every _
theorem perst0NDeassert : Statement (.perst0NDeassert) := every _
theorem pauseQuantaExpiry (port prio : Nat) : Statement (.pauseQuantaExpiry port prio) := every _
theorem sensorsReachZero : Statement (.sensorsReachZero) := every _

end Sys2Proof.Laws.Reach
end

