-- ==== Sys2Proof/Tests/Slice0.lean ====
section
/-! SUPPORT. Tests: the checks of WellFormed refuse, small results written out from the manual, and for each statement
states and operands that meet its hypotheses. -/

namespace Sys2Proof.Tests

-- One theorem after another: the package is one text, and threads for hundreds of proofs at once do not fit.
set_option Elab.async false

open Sys2Proof Sys2Proof.Machine

/-! States. -/

/-- A hart that executes on its core, with FP and vector state on. -/
def tHart : Hart := { run := .running, csrs := [(0x300, 0x0000000A00006600#64)] }

/-- A core that runs hart 0. -/
def tCore : Core := { enabled := true, hartValid := true, power := .run }

/-- The device with power and clocks, hart 0 on core 0, and every unit that takes commands in Run. -/
def tBare : Chip :=
  { Chip.reset with
    pwr := { pwrgood := true, clocks := true }
    units := ((List.range 29).drop 5).map fun u => (u, { cur := 0, initDone := true })
    harts := [(0, tHart)]
    cores := [(0, tCore)] }

/-- Registers written, each as unit, bank, block offset and value. -/
def withRegs (c : Chip) (l : List (Nat × Nat × Nat × Word)) : Chip :=
  l.foldl (fun c e => c.setReg e.1 e.2.1 e.2.2.1 e.2.2.2) c

/-- Interleave set 0 maps 64 GiB from 0 to channel 0, whose local addresses are the physical ones; the pc lies in it. The
channel samples no ACT. -/
def tChip : Chip := withRegs tBare [(0, 0, 0x2008, 64), (0, 0, 0x2010, 1), (5, 0, 0x1050, 0)]

/-- Its state, with no command waiting. -/
def st (c : Chip) : State := { pending := [], chip := c }

/-- The device with hart 0 changed. -/
def onHart (f : Hart → Hart) : State := st (tChip.modHart 0 f)

/-- The same with the IOMMU Bare. -/
def tMem : Chip := tChip.setIo32 0x10 1

/-- Bytes placed in DRAM. -/
def withBytes (c : Chip) (pa : Nat) (bs : List Byte) : Chip := { c with mem := c.mem.write pa bs }

/-- What a device read gives, and the device after it. -/
def readOf (r : DevRead × Chip) : List Byte × Chip := match r with | (.ok bs _, c) => (bs, c) | (_, c) => ([], c)

/-- Hart 0 on memory. -/
def onMem (f : Hart → Hart) : State := st (tMem.modHart 0 f)

/-- Ring 3 of Shears engine 0: enabled, 16 descriptors at 0x10000, 16 records at 0x20000; the engine enabled. -/
def tRing (r : Ring) : Chip :=
  { withRegs tMem [(23, 0, 0x1040, 0x1001), (23, 3, 0x105C, 0x10000), (23, 3, 0x1064, 0x20000)] with
    rings := [(ringKey (.sh 0 3), r)] }

/-! Well-formedness: each check refuses. -/

def gMsg : Msg := { kind := .rdShared, src := .core 0, dst := .home 0, line := 0 }
def gDvReg : DvReg := { rd := 0, rs1 := 0 }
def gPos : MaintPos := { all := false, set := 0, way := 0 }
def gMol : MolOp := { rd := 0, vs2 := 0, rs1 := 0 }
def gTlp : Tlp := { port := 0, sub := 0, rid := 0, addr := 0 }
def gVMem : VMemOp := { v := 0, rs1 := 0, eew := 8 }
def gLink : LinkId := { unit := 0, num := 0 }
def gDvMem : DvMem := { reg := 0, rs1 := 0 }
def gVRed : VRedOp := { fn := .sum, vd := 0, vs2 := 0, vs1 := 0 }
def gVOp : VOp := { fn := .add, vd := 0, vs2 := 0, src := .v 0 }
def gStore : StoreOp := { rs1 := 0, rs2 := 0 }
def gLoad : LoadOp := { rd := 0, rs1 := 0 }
def gIo : IoOp := { write := false, reg := 0, addr := .ctl (.desc 0 0), size := 4 }
def gFp : FpOp := { fn := .add, fmt := .d, rd := 0, rs1 := 0 }
def gAvs : AvsReading := { mv := List.replicate 6 0, ma := List.replicate 6 0 }

/-- The operands that the refused commands change in one place are well formed. -/
theorem test_operands_well_formed : gMsg.wf && gDvReg.wf && gMol.wf && gTlp.wf && gVMem.wf && gLink.wf && gDvMem.wf && gVRed.wf
    && gVOp.wf && gStore.wf && gLoad.wf && gIo.wf && gFp.wf && gAvs.wf && l2Pos gPos && l3Pos gPos && dvPos gPos = true := by decide

/-- Each check of an operand refuses. -/
theorem test_operands_refused :
    [.hart 192].all (fun (x : Src) => !x.wf) && [.desc 513 0, .desc 0 64, .block 514 0, .block 0 (2 ^ 28), .hole (2 ^ 32), .msix 0x200 0,
      .msix 0 0x10000, .msixCtl 0x200].all (fun (x : CtlAddr) => !x.wf)
    && [.rx 8192, .tx 8192, .sh 2 0, .sh 0 256, .dv 2 0, .dv 0 64, .adm 0x2000].all (fun (x : RingId) => !x.wf)
    && [.region 513 0, .region 0 (2 ^ 28), .page 0x2000 0, .page 0 (2 ^ 17)].all (fun (x : DbAddr) => !x.wf)
    && [.core 200, .home 100, .mc 12, .unit 513].all (fun (x : Agent) => !x.wf)
    && [{ gMsg with src := .core 200 }, { gMsg with dst := .mc 12 }, { gMsg with req := .home 100 }, { gMsg with off := 64 },
      { gMsg with off := 60, size := 8 }, { gMsg with clos := 16 }, { gMsg with birth := 65536 }].all (fun x => !x.wf)
    && [{ gLoad with rs1 := 32 }, { gLoad with size := 3 }, { gLoad with fp := true, size := 1 }, { gLoad with len := 6 }].all (fun x => !x.wf)
    && [{ gStore with rs1 := 32 }, { gStore with size := 16 }, { gStore with fp := true, size := 1 }, { gStore with len := 6 }].all (fun x => !x.wf)
    && [{ gVMem with rs1 := 32 }, { gVMem with eew := 0 }, { gVMem with stride := some 32 }, { gVMem with index := some 32 },
      { gVMem with index := some 1, stride := some 1 }].all (fun x => !x.wf)
    && [.ctl (.desc 513 0), .doorbell (.region 513 0), .imsic 0 16 0, .imsic 0 0 4096, .mmio 0, .mmio (2 ^ 52)].all (fun (x : IoAddr) => !x.wf)
    && [{ gIo with addr := .mmio 0 }, { gIo with size := 3 }, { gIo with len := 3 }].all (fun x => !x.wf)
    && [.alu .add 0 32 0, .alu .add 0 0 32, .alui .add 0 32 0, .un .clz 32 0, .lui 32 0, .auipc 32 0, .jalr 0 32 0, .branch .eq 32 0 0,
      .branch .eq 0 32 0, .csr .rw 0 4096 0, .csr .rw 32 0 0, .csri .rw 0 0 32, .prefetch 32, .other 0 32 0 0].all (fun (x : HartOp) => !x.wf)
    && [{ gFp with rs1 := 32 }, { gFp with rs2 := 32 }, { gFp with rs3 := 32 }].all (fun x => !x.wf)
    && [{ gVOp with vs2 := 32 }, { gVOp with src := .v 32 }, { gVOp with src := .x 32 }, { gVOp with src := .f 32 }].all (fun x => !x.wf)
    && [{ gVRed with vs2 := 32 }, { gVRed with vs1 := 32 }].all (fun x => !x.wf)
    && [{ gMol with vs2 := 32 }, { gMol with rs1 := 32 }].all (fun x => !x.wf)
    && [{ gDvMem with rs1 := 32 }, { gDvMem with size := 8 }].all (fun x => !x.wf)
    && [{ gDvReg with rs1 := 32 }, { gDvReg with rs2 := 32 }].all (fun x => !x.wf)
    && [{ gLink with unit := 513 }].all (fun x => !x.wf)
    && [{ gTlp with sub := 4 }, { gTlp with rid := 65536 }, { gTlp with addr := 2 ^ 64 }, { gTlp with pasid := some (2 ^ 20) }].all (fun x => !x.wf)
    && [{ gAvs with ma := [] }].all (fun x => !x.wf) = true := by decide

/-! One ill-formed command for each check of a command. -/

def ill1 : List Instr := [
  .registerWrite (.hart 192) (.desc 5 0) 0 0, .registerWrite .pf0 (.desc 513 0) 0 0, .registerWrite .pf0 (.desc 5 0) 9 0,
  .readClear (.hart 192) (.desc 5 0) 0, .readClear .pf0 (.desc 513 0) 0, .readClear .pf0 (.desc 5 0) 9,
  .bitAliasWrite (.hart 192) 0 0 0, .bitAliasWrite .pf0 514 0 0, .complementPairStore (.hart 192) (.desc 5 0) 0,
  .complementPairStore .pf0 (.desc 513 0) 0, .complementPairArm (.hart 192) (.desc 5 0) 0,
  .complementPairArm .pf0 (.desc 513 0) 0, .complementPairCommit (.hart 192) (.desc 5 0) 0,
  .complementPairCommit .pf0 (.desc 513 0) 0, .interleaveSetCommit (.hart 192) 0 .base 0,
  .interleaveSetCommit .pf0 16 .base 0, .msetLock (.hart 192), .bootEntryCommit (.hart 192) 0, .registerParityFault 514 0 0,
  .blkLock (.hart 192) 0, .blkLock .pf0 514, .lastErrClear (.hart 192) 0, .lastErrClear .pf0 514, .mboxSel (.hart 192) 0 0,
  .mboxSel .pf0 514 0, .mboxSel .pf0 0 16777216, .snapshotComplete 514, .summaryPropagate 514,
  .doorbell (.hart 192) (.region 23 0) 0 0, .doorbell .pf0 (.region 513 0) 0 0,
  .completionHeadDoorbell (.hart 192) (.region 23 0) 0 0, .completionHeadDoorbell .pf0 (.region 513 0) 0 0,
  .doorbellRegionBadOffset (.hart 192) (.region 23 0) 0 0, .doorbellRegionBadOffset .pf0 (.region 513 0) 0 0,
  .descriptorFetch (.sh 2 0), .completionRecordWrite (.sh 2 0), .msixEvent 0 2048, .msixUnmask 0 2048,
  .instruction 192 .ecall 2, .instruction 0 (.jal 32 0) 2, .instruction 0 .ecall 3, .load 192 gLoad,
  .load 0 { gLoad with rd := 32 }, .store 192 gStore, .store 0 { gStore with rs2 := 32 }, .vectorLoad 192 gVMem,
  .vectorLoad 0 { gVMem with v := 32 }, .vectorStore 192 gVMem, .vectorStore 0 { gVMem with v := 32 }, .ioAccess 192 gIo,
  .ioAccess 0 { gIo with reg := 32 }, .storeCommit 192, .heldLoadReplay 192, .sameAddressLoadRedo 192 0,
  .branchRedirect 192 .ex 0, .hardwarePrefetch 192 0, .amo 192 .add 0 0 0 4, .amo 0 .add 32 0 0 4, .amo 0 .add 0 32 0 4,
  .amo 0 .add 0 0 32 4, .amo 0 .add 0 0 0 3, .lr 192 0 0 4, .lr 0 32 0 4, .lr 0 0 32 4, .lr 0 0 0 3, .sc 192 0 0 0 4,
  .sc 0 32 0 0 4, .sc 0 0 32 0 4, .sc 0 0 0 32 4, .sc 0 0 0 0 3]

def ill2 : List Instr := [
  .reservationSnoopRelease 192, .fence 192 0 0 false, .fenceI 192, .sfenceVma 192 .sfenceVma 0 0,
  .sfenceVma 0 .sfenceVma 32 0, .sfenceVma 0 .sfenceVma 0 32, .serialisingInstruction 192 .mret, .trapEntry 192 false 0 0,
  .trapEntry 0 false 64 0, .cboClean 192 0, .cboClean 0 32, .cboFlush 192 0, .cboFlush 0 32, .cboInval 192 0, .cboInval 0 32,
  .cboZero 192 0, .cboZero 0 32, .pageWalk 192, .integerDivide 192 .div 0 0 0, .integerDivide 0 .div 32 0 0,
  .integerDivide 0 .div 0 32 0, .integerDivide 0 .div 0 0 32, .fpInstruction 192 gFp, .fpInstruction 0 { gFp with rd := 32 },
  .frmWrite 192 0, .fflagsWrite 192 0, .vsetvl 192 0 (.reg 0) 0, .vsetvl 0 32 (.reg 0) 0, .vectorInstruction 192 gVOp,
  .vectorInstruction 0 { gVOp with vd := 32 }, .vectorReduction 192 gVRed, .vectorReduction 0 { gVRed with vd := 32 },
  .molRadd 192 .d gMol, .molRadd 0 .d { gMol with rd := 32 }, .molRmin 192 .d gMol, .molRmin 0 .d { gMol with rd := 32 },
  .molRmax 192 .d gMol, .molRmax 0 .d { gMol with rd := 32 }, .molRclose 192 gMol, .molRclose 0 { gMol with rd := 32 },
  .molBpctlWrite 192 0, .bpctlFlush 192, .molRestctlWrite 192 0, .wfi 192, .restEntry 192, .wakeEvent 192 false,
  .restWakeResume 192, .debugHalt 192, .rdShared { gMsg with line := 2 ^ 46 }, .rdOwn { gMsg with line := 2 ^ 46 },
  .rdOnce { gMsg with line := 2 ^ 46 } [], .upgrade { gMsg with line := 2 ^ 46 }, .putDirty { gMsg with line := 2 ^ 46 },
  .putClean { gMsg with line := 2 ^ 46 }, .redOp { gMsg with line := 2 ^ 46 }, .ncRd { gMsg with line := 2 ^ 46 },
  .ncWr { gMsg with line := 2 ^ 46 }, .fwdShared { gMsg with line := 2 ^ 46 }, .fwdOwn { gMsg with line := 2 ^ 46 },
  .inval { gMsg with line := 2 ^ 46 }, .close { gMsg with line := 2 ^ 46 }, .ack { gMsg with line := 2 ^ 46 },
  .snpNoData { gMsg with line := 2 ^ 46 }, .wbAck { gMsg with line := 2 ^ 46 }, .wbAckStale { gMsg with line := 2 ^ 46 },
  .cmp { gMsg with line := 2 ^ 46 }, .data { gMsg with line := 2 ^ 46 }, .fwdData { gMsg with line := 2 ^ 46 },
  .wbData { gMsg with line := 2 ^ 46 }, .waitQueueStart 100 0]

def ill3 : List Instr := [
  .waitQueueAdmit 100 0, .l2Eviction 200 0, .l2MaintClean (.hart 192) 0 gPos, .l2MaintClean .pf0 200 gPos,
  .l2MaintClean .pf0 0 { gPos with set := 1024 }, .l2MaintClean .pf0 0 { gPos with way := 16 },
  .l2MaintInval (.hart 192) 0 gPos, .l2MaintInval .pf0 200 gPos, .l2MaintInval .pf0 0 { gPos with set := 1024 },
  .l2MaintInval .pf0 0 { gPos with way := 16 }, .l2MaintCleanInval (.hart 192) 0 gPos, .l2MaintCleanInval .pf0 200 gPos,
  .l2MaintCleanInval .pf0 0 { gPos with set := 1024 }, .l2MaintCleanInval .pf0 0 { gPos with way := 16 },
  .l3MaintClean (.hart 192) 0 gPos, .l3MaintClean .pf0 100 gPos, .l3MaintClean .pf0 0 { gPos with set := 2048 },
  .l3MaintClean .pf0 0 { gPos with way := 32 }, .l3MaintInval (.hart 192) 0 gPos, .l3MaintInval .pf0 100 gPos,
  .l3MaintInval .pf0 0 { gPos with set := 2048 }, .l3MaintInval .pf0 0 { gPos with way := 32 },
  .l3MaintCleanInval (.hart 192) 0 gPos, .l3MaintCleanInval .pf0 100 gPos,
  .l3MaintCleanInval .pf0 0 { gPos with set := 2048 }, .l3MaintCleanInval .pf0 0 { gPos with way := 32 }, .maintDone 514,
  .penWaitResume 100 0, .redDrain (.hart 192) 0, .redDrain .pf0 100, .linkRetry { gLink with num := 16 },
  .wireSparing { gLink with num := 16 } [], .bankActivate 12 0 0 0, .bankActivate 0 2 0 0, .bankActivate 0 0 8 0,
  .bankActivate 0 0 0 64, .writeDrain 12 0, .writeDrain 0 2, .refreshSb 12 0 0, .refreshSb 0 8 0, .mr4Poll 12 false,
  .retrainingPause 12 0 0, .retrainingPause 0 8 0, .caParityAlert 12 0, .caParityAlert 0 8, .patrolRead 12 [],
  .rankRetirement 12 0 .software, .rankRetirement 0 8 .software, .copyOperation 12 [], .copyDone 12, .force (.hart 192) 0 0,
  .force .pf0 12 0, .force .pf0 0 8, .mcSpareCfgWrite (.hart 192) 0 0, .mcSpareCfgWrite .pf0 12 0,
  .frameReceive 2 0 [] false, .frameReceive 0 8 [] false, .heldFrameResume 2 0, .heldFrameResume 0 8192, .xon 2 0, .xon 0 8,
  .pauseFrameReceive 2 0 0 (List.replicate 8 0), .pauseFrameReceive 0 8 0 (List.replicate 8 0), .pauseFrameReceive 0 0 0 [],
  .pauseFrameReceive 0 0 0 (List.replicate 8 65536), .linkUp 2 0, .linkUp 0 8, .linkDown 2 0, .linkDown 0 8,
  .flowSet (.sh 2 0)]

def ill4 : List Instr := [
  .flowDelete (.sh 2 0), .rssSet (.sh 2 0), .rxBuf (.sh 2 0), .txFrame (.sh 2 0), .txGather (.sh 2 0), .txInline (.sh 2 0),
  .qHartWrite (.hart 192) 0 0, .qHartWrite .pf0 8192 0, .queueEnable (.hart 192) (.sh 0 3), .queueEnable .pf0 (.sh 2 0),
  .queueDisable (.hart 192) (.sh 0 3), .queueDisable .pf0 (.sh 2 0), .quiesced (.sh 2 0), .copy (.sh 2 0), .fill (.sh 2 0),
  .crc (.sh 2 0), .compare (.sh 2 0), .compress (.sh 2 0), .compressResume (.sh 2 0), .decompress (.sh 2 0),
  .decompressResume (.sh 2 0), .laneDispatch 2, .containerBlockWrite (.sh 2 0), .laneFault 2 0 false, .laneFault 0 16 false,
  .droverInstruction 2 0, .droverInstruction 0 32, .droverApertureLoad 2 0 gDvMem, .droverApertureLoad 0 32 gDvMem,
  .droverApertureLoad 0 0 { gDvMem with reg := 32 }, .droverApertureStore 2 0 gDvMem, .droverApertureStore 0 32 gDvMem,
  .droverApertureStore 0 0 { gDvMem with reg := 32 }, .droverFill 2 0, .droverFill 0 32, .storeQueueDrain 2 0,
  .storeQueueDrain 0 32, .writeQueueSend 2 0, .writeQueueSend 0 64, .molMulct 2 0 .mul gDvReg, .molMulct 0 32 .mul gDvReg,
  .molMulct 0 0 .mul { gDvReg with rd := 32 }, .molDivct 2 0 .div gDvReg, .molDivct 0 32 .div gDvReg,
  .molDivct 0 0 .div { gDvReg with rd := 32 }, .molBswap 2 0 gDvReg, .molBswap 0 32 gDvReg,
  .molBswap 0 0 { gDvReg with rd := 32 }, .molCsum 2 0 gDvReg, .molCsum 0 32 gDvReg, .molCsum 0 0 { gDvReg with rd := 32 },
  .molCsfold 2 0 gDvReg, .molCsfold 0 32 gDvReg, .molCsfold 0 0 { gDvReg with rd := 32 }, .molCrc32cB 2 0 gDvReg,
  .molCrc32cB 0 32 gDvReg, .molCrc32cB 0 0 { gDvReg with rd := 32 }, .molCrc32cW 2 0 gDvReg, .molCrc32cW 0 32 gDvReg,
  .molCrc32cW 0 0 { gDvReg with rd := 32 }, .molExtr 2 0 gDvReg, .molExtr 0 32 gDvReg, .molExtr 0 0 { gDvReg with rd := 32 },
  .molDget 2 0 gDvReg, .molDget 0 32 gDvReg, .molDget 0 0 { gDvReg with rd := 32 }, .molDwait 2 0 gDvReg,
  .molDwait 0 32 gDvReg, .molDwait 0 0 { gDvReg with rd := 32 }, .molCmpl 2 0 gDvReg]

def ill5 : List Instr := [
  .molCmpl 0 32 gDvReg, .molCmpl 0 0 { gDvReg with rd := 32 }, .molDpf 2 0 gDvReg, .molDpf 0 32 gDvReg,
  .molDpf 0 0 { gDvReg with rd := 32 }, .molDcClean 2 0 gDvReg, .molDcClean 0 32 gDvReg,
  .molDcClean 0 0 { gDvReg with rd := 32 }, .molDcInval 2 0 gDvReg, .molDcInval 0 32 gDvReg,
  .molDcInval 0 0 { gDvReg with rd := 32 }, .molDcFlush 2 0 gDvReg, .molDcFlush 0 32 gDvReg,
  .molDcFlush 0 0 { gDvReg with rd := 32 }, .droverHalt 2 0 0, .droverHalt 0 32 0, .droverHalt 0 0 16,
  .droverRun (.hart 192) 0 0, .droverRun .pf0 2 0, .droverRun .pf0 0 32, .droverStop (.hart 192) 0 0, .droverStop .pf0 2 0,
  .droverStop .pf0 0 32, .droverClusterEnable (.hart 192) 0, .droverClusterEnable .pf0 2, .dvMaintClean (.hart 192) 0 gPos,
  .dvMaintClean .pf0 2 gPos, .dvMaintClean .pf0 0 { gPos with set := 256 }, .dvMaintClean .pf0 0 { gPos with way := 16 },
  .dvMaintInval (.hart 192) 0 gPos, .dvMaintInval .pf0 2 gPos, .dvMaintInval .pf0 0 { gPos with set := 256 },
  .dvMaintInval .pf0 0 { gPos with way := 16 }, .dvMaintCleanInval (.hart 192) 0 gPos, .dvMaintCleanInval .pf0 2 gPos,
  .dvMaintCleanInval .pf0 0 { gPos with set := 256 }, .dvMaintCleanInval .pf0 0 { gPos with way := 16 },
  .unitPowerRequest (.hart 192) 0 0, .unitPowerRequest .pf0 513 0, .unitPowerRequest .pf0 0 4, .unitPowerDone 514,
  .bwMigrate (.hart 192) 0, .bwMigrate .pf0 65536, .avsPoll { gAvs with mv := [] }, .avsStatusAlert 6,
  .inboundMemoryWrite { gTlp with port := 4 }, .inboundMemoryRead { gTlp with port := 4 }, .msiWrite { gTlp with port := 4 },
  .inboundCompletion 4 0 0 [] false false, .inboundCompletion 0 4 0 [] false false,
  .inboundCompletion 0 0 16384 [] false false, .outboundRequest 4 gMsg, .outboundRequest 0 { gMsg with line := 2 ^ 46 },
  .completionTimeout 4 0 0, .completionTimeout 0 4 0, .completionTimeout 0 0 16384, .tagQuarantineEnd 4 0 0,
  .tagQuarantineEnd 0 4 0, .tagQuarantineEnd 0 0 16384, .windowCommit (.hart 192) 0 0, .windowCommit .pf0 4 0,
  .sublinkDown 4 0, .sublinkDown 0 4, .linkEnable (.hart 192) 0, .linkEnable .pf0 4, .retrain (.hart 192) 0, .retrain .pf0 4,
  .l1Entry 4 0 0, .l1Entry 0 4 0, .l1Entry 0 0 4]

def ill6 : List Instr := [
  .l1Exit 4 0, .l1Exit 0 4, .cxlMemoryActive 4 0, .create (.hart 192), .destroy (.hart 192), .reset (.hart 192),
  .freeze (.hart 192), .save (.hart 192), .restore (.hart 192), .unfreeze (.hart 192), .dirtyStart (.hart 192),
  .dirtySwap (.hart 192), .dirtyStop (.hart 192), .recordInvalidate (.hart 192) 0 0, .recordInvalidate .pf0 514 0,
  .recordInvalidate .pf0 0 4, .recordPrepare (.hart 192) 0 0 .info 0, .recordPrepare .pf0 514 0 .info 0,
  .recordPrepare .pf0 0 4 .info 0, .recordInjection (.hart 192) 0 0 0, .recordInjection .pf0 514 0 0,
  .recordInjection .pf0 0 4 0, .injectionArm (.hart 192) 0, .injectionFire 514 0, .residueReplay 192, .hartMigration 192,
  .migrationRestore 192, .coreRetire 200, .hartStop 192, .fatalError 514 0, .fatalError 0 32, .counterWrite 192 0 0,
  .counterWrite 0 4096 0, .counterOverflow 192 0 0, .counterOverflow 0 32 0, .sample 192 { ctr := 3, iaddr := 0 },
  .sampleRecordDone 192, .tsctlWrite 192 0, .tsidxWrite 192 0, .tallyStart (.hart 192) 0, .tallyStart .pf0 42,
  .tallyStop (.hart 192) 0, .tallyStop .pf0 42, .tallyWindowEnd 42, .startAll (.hart 192), .stopAll (.hart 192),
  .droopStretch 20, .stretchEnd 20, .oppRequest (.hart 192) 0 0, .oppRequest .pf0 20 0, .oppChange 20,
  .rampGrant 200 .powerUp, .announcedRampStart 200, .rampEnd 200, .loadcastDeassert 4, .hardwareClamp 0 20, .corePowerUp 200,
  .sublinkUp 4 0 0 0, .sublinkUp 0 4 0 0, .sublinkUp 0 0 17 0, .sublinkUp 0 0 0 7, .pauseQuantaExpiry 2 0,
  .pauseQuantaExpiry 0 8]

theorem test_commands_refused : (ill1 ++ ill2 ++ ill3 ++ ill4 ++ ill5 ++ ill6).all (fun i => !i.wf) = true := by decide +kernel

/-! Small results of the manual's worked examples and tables. -/

/-- R24, R26, R28, R39: core 2.3.1.0 of the worked example under R41. -/
theorem test_unit_tree : uTile 66 = 115 ∧ uCore 132 = 347 ∧ parentOf 347 = 115 ∧ uFold 13 = 42 ∧ firstChild 42 = 114 ∧
    unitPos 347 = (2, 9) ∧ udLocation 347 = 0x082E0292#32 ∧ uSlice 66 = 349 := by decide +kernel

/-- R26: the walk of the same example, with the paddock's spares fused at 2.4.3.0 and 2.4.3.1, gives core 347 hart 128. -/
theorem test_hart_numbering : Chip.reset.hartCores[128]? = some 132 := by decide +kernel

/-- R150: the worked example's home and set. -/
theorem test_home_of_a_line : homeSlice 0x48D159E2 = 3 ∧ tilePos 3 = (4, 1) ∧ homeSet 0x48D159E2 = 0x3C9 := by decide

/-- The twelve-channel set of the worked example under R235. -/
def exSet : Mset := msetOfWords 0 0x900 0xB 0x76543210 0xBA98

/-- R229, R232: the worked example's line maps to MC0 at 0x1845C8A80. -/
theorem test_interleave : exSet.limit = 2304 ∧ exSet.w = 12 ∧ exSet.g = 8 ∧ exSet.map 0x1234567880 = (0, 0x1845C8A80) := by decide

/-- Channel 0 as the example's channels are: two 2-rank RDIMMs of 32 Gb devices, rank 5 the spare. -/
def exChan : Chip :=
  (Chip.reset.setReg 5 0 0x1040 (popInfo { type := 1, speed := 2, dpc := 1, density := 1, rpd := 1 } 0x33)).modMc 0
    fun m => { m with logical := [0, 1, 4] }

/-- R234, R235: the coordinates of the example's line 0x611722A; R225: its logical ranks. -/
theorem test_dram_coordinates : exChan.coord 0 0x611722A =
    { sub := 0, rank := 0, idx := 0x611722A, bg := 6, ba := 3, row := 0x308B, col := 72 } := by decide +kernel
theorem test_logical_ranks : logicalRanks 1 0x33 (some 5) 0 = [0, 1, 4] := by decide

/-- R127: the latency of the worked example, and 4 cc for a zero divisor. -/
theorem test_divide_latency : divLatency .div 1000000 7 = 13 ∧ divLatency .div 1000000 0 = 4 := by decide +kernel

/-- R126: the divide corners. -/
theorem test_divide_corners : divResult .divw 0x80000000 0xFFFFFFFF = 0xFFFFFFFF80000000 ∧ divResult .rem 7 0 = 7 ∧
    divResult .div (BitVec.ofInt 64 (-7)) 2 = BitVec.ofInt 64 (-3) := by decide +kernel

/-- The square roots of the worked example under R136. -/
theorem test_square_roots : fSqrt .s .rne (unpack .s 1) = (0x1A3504F3, 1) ∧ fSqrt .s .rup (unpack .s 1) = (0x1A3504F4, 1) ∧
    fSqrt .d .rne (unpack .d 1) = (0x1E60000000000000, 0) := by decide +kernel

/-- R143: the two sums of the worked example, with their flags and times. -/
theorem test_vector_sums :
    redResult .fosum .s .rne 32 0 [0x4B800000, 0x3F800000, 0x3F800000, 0xCB800000] = (0, 1, 14) ∧
    redResult .fusum .s .rne 32 0 [0x4B800000, 0x3F800000, 0x3F800000, 0xCB800000] = (0x3F800000, 1, 11) := by decide +kernel

/-- Contributions to one element that held +0, closed. -/
def closeOf (xs : List Nat) : Nat × BitVec 5 := elemClose .f64Add (xs.foldl (elemApply .f64Add) (elemOpen .f64Add 0))

/-- R186: elements e0 to e3 of the worked example of Reductions at Home; e0 in two orders. -/
theorem test_exact_reductions :
    closeOf [0x4340000000000000, 0x3FF0000000000000, 0x3FF0000000000000, 0xC340000000000000] = (0x4000000000000000, 0) ∧
    closeOf [0x3FF0000000000000, 0xC340000000000000, 0x4340000000000000, 0x3FF0000000000000] = (0x4000000000000000, 0) ∧
    closeOf [0x7FF0000000000000, 0xFFF0000000000000, 0, 0] = (0x7FF8000000000000, 16) ∧
    closeOf [0x7FEFFFFFFFFFFFFF, 0x7FEFFFFFFFFFFFFF, 0, 0] = (0x7FF0000000000000, 5) ∧
    closeOf [1, 0x8000000000000001, 0, 0] = (0, 0) := by decide +kernel

/-- R193: the spill slots of slice 3 in the default area, and with SPILL_LINES of 40,000. -/
theorem test_spill_slots : ({ Chip.reset with spillLines := 32768 } : Chip).slotsOf 3 = 328 ∧
    ({ Chip.reset with spillLines := 40000 } : Chip).slotsOf 3 = 400 := by decide +kernel

/-- The flow of the worked example under R278. -/
theorem test_flow_record : flowRec (List.replicate 10 0 ++ [0xFF, 0xFF, 192, 0, 2, 10] ++ List.replicate 10 0 ++ [0xFF, 0xFF, 198, 51, 100, 7] ++
      [0x9C, 0x41, 1, 0xBB, 6, 4, 0, 0, 0, 0, 0, 0, 0x8E, 0x84, 0x40, 5] ++ List.replicate 16 0) false =
    some { v6 := false, src := 0xFFFFC000020A, dst := 0xFFFFC6336407, vni := 0, udp := false, sport := 40001, dport := 443, action := 0x0540848E } := by
  decide +kernel

/-- R311: the check values of CRC-32C and CRC-32 that the standards give for the nine digits; RFC 1950's Adler-32. -/
def digits : List Byte := [0x31, 0x32, 0x33, 0x34, 0x35, 0x36, 0x37, 0x38, 0x39]
theorem test_checks : crcOf polyC 0 digits = 0xE3069283 ∧ crcOf poly32 0 digits = 0xCBF43926 ∧ adler32 digits = 0x091E01DE := by
  decide +kernel

/-- R493 (FIPS 180-4): the digest of "abc". -/
theorem test_sha384 : beNat (shaBytes [0x61, 0x62, 0x63]) 0 48 =
    0xCB00753F45A35E8BB5A03D699AC65007272C32AB0EDED1631A8B605A43FF5BED8086072BA1E7CC2358BAECA134C825A7 := by decide +kernel

/-- What the registers of a device hold after a command. -/
def regAfter (i : Instr) (s : State) (u bank off : Nat) : Option Word :=
  match exec i s with
  | .next t => some (t.chip.reg u bank off)
  | _ => none

/-- R58: the alias of bit 5 of 0x1050 in the worked example is at 0x0A14; a 1 sets the bit and no other. -/
theorem test_bit_alias : regAfter (.registerWrite (.hart 0) (.block 17 0xA14) 4 1) (st (tChip.setReg 17 0 0x1050 0x100)) 17 0 0x1050 =
    some 0x120 := by decide +kernel

/-- MSET_LIMIT of set 0 takes one aligned 64-bit write of the value and its complement (R49, R59, R229). -/
theorem test_pair_commit : regAfter (.registerWrite (.hart 0) (.block 0 0x2008) 8 0xFFFFFFBF00000040) (st tChip) 0 0 0x2008 =
    some 0x40 := by decide +kernel

/-- Ring 3 of the Shears engine with 256 slots, as in the worked example under R75. -/
def exRing : Chip :=
  { tRing {} with
    ctl := (withRegs (tRing {}) [(23, 3, 0x1054, 8)]).ctl
    rings := [(ringKey (.sh 0 3), { en := true, quiesced := false, acc := 0x104, ci := 0x100 })] }
def accAfter (v : DWord) : Option (Nat × Nat) :=
  match exec (.doorbell (.hart 0) (.region 23 48) 8 v) (st exRing) with
  | .next t => some ((t.chip.ring (.sh 0 3)).acc, (t.chip.reg 23 0 0x1014).toNat)
  | _ => none

/-- R75: the doorbell of the worked example rings; the one that fails the complement check is dropped and counted. -/
theorem test_doorbell : accAfter 0xFFFFFEFA00000105 = some (0x105, 0) ∧ accAfter 0x0000FEFA00000105 = some (0x104, 1) := by
  decide +kernel

/-- A check of the next state that a command leaves, false where it leaves none. -/
def leaves (o : Host.Outcome State Fault Refusal) (p : State → Bool) : Bool :=
  match o with
  | .next t => p t
  | _ => false

/-- R92, R126: a divide by zero through step: the quotient is all ones, the pc moves past the instruction, the queue is
empty. -/
theorem test_step_divide : leaves
    (step { onHart (fun h => { h with pc := 0x100, x := [(6, 5)] }) with pending := [.integerDivide 0 .divu 5 6 7] })
    (fun t => t.pending.isEmpty && (t.chip.hart 0).getX 5 == BitVec.allOnes 64 && (t.chip.hart 0).pc == 0x104) = true := by
  decide +kernel

/-- x0 takes no result (R92). -/
theorem test_x0 : leaves (exec (.instruction 0 (.alui .add 0 0 7) 4) (onHart id))
    (fun t => (t.chip.hart 0).getX 0 == 0 && (t.chip.hart 0).pc == 4) = true := by decide +kernel

/-- R2, R3: a hart that the smallest member lacks is named in the fault. -/
theorem test_absent_hart : (match exec (.wfi 130) (st { tChip with fuse := { member := 128 } }) with
    | .fault (.noSuchPart p n) => decide (p = .hart) && n == 130
    | _ => false) = true := by decide +kernel

/-- An idle step lets a tick pass (log 3). -/
theorem test_idle : leaves (step (st tChip)) (fun t => t.pending.isEmpty && decide (t.chip = tChip.tick)) = true := by decide +kernel

/-- No word spells a command: the table gives no row bits. -/
theorem test_no_words : decodeTableWord 32 0x13 = none ∧ State.reset.withFetchWord 32 0x13 = State.reset := ⟨rfl, rfl⟩

/-! The hypotheses of the statements about every command and about memory. -/

theorem meets_ResetLeavesLandsAndRegisters : (regAt (kindOf 21) 0x1040).isSome = true ∧ Memory.wf [(7, 1)] = true ∧ (8 < 9 ∨ 9 + 2 ≤ 8) := by
  decide +kernel

theorem meets_SafeStatesStaySafe : tChip.serves (.copy (.sh 1 255)) = true ∧
    ({ tChip with fuse := { eth := 1 } } : Chip).serves (.linkUp 1 7) = false ∧
    ∀ i ∈ (({ pending := [.wfi 191, .coreRetire 199], chip := tChip } : State)).pending, tChip.serves i = true := by decide +kernel

theorem meets_FullMembersRunEveryCommand : tChip.fuse.full = true ∧
    ∀ i ∈ (({ pending := [.wfi 191, .tallyWindowEnd 41], chip := tChip } : State)).pending, i.wf = true := by decide +kernel

/-! States and operands that meet the hypotheses of each statement, clause by clause. A theorem names its statement and
gives the values that its variables take. -/

namespace Integer

def sA : State := onHart fun h => { h with pc := 0x1000, x := [(3, 7), (4, 0xFFFFFFFFFFFFFFFF), (6, 0x8000000000000000),(7,0)] }

theorem meets_IntegerArithmeticNeverTraps :
    (let s : State := sA
     let n : Nat := 0
     s.chip.ready n = true) ∧
    (let b : DWord := 0
     b = 0 ∧
     b.setWidth 32 = 0#32 ∧
     (let w : Nat := 8
     let x : Nat := 0
     w ∈ [8, 16, 32, 64] ∧
     x < 2 ^ w)) ∧
    (let a : DWord := 0x1280000000
     let b : DWord := 0x11FFFFFFFF
     a.setWidth 32 = 0x80000000#32 ∧
     b.setWidth 32 = BitVec.allOnes 32 ∧
     b ≠ 0 ∧
     (¬ (a = 0x8000000000000000 ∧ b = BitVec.allOnes 64))) ∧
    (let s : State := sA
     let n : Nat := 0
     s.chip.ready n = true) :=
  ⟨by decide +kernel,
    by decide +kernel,
    by decide +kernel,
    by decide +kernel⟩

end Integer

namespace Arithmetic

def sA : State := onHart fun hW =>
    { hW with pc := 0x1000, x := [(3, 0x2001), (4, 0xFFFFFFFFFFFFFFFF), (6, 0x8000000000000000),(7,0)] }
def frm (n : Nat) (s : State) : State := st (s.chip.modHart 0 fun hW => hW.setCsr cFrm (BitVec.ofNat 64 n))
def fpA : FpOp := { fn := .add, fmt := .d, rd := 1, rs1 := 2, rs2 := 3 }
def vsAdd : VOp := { fn := .fp .add, vd := 1, vs2 := 2, src := .v 3 }
def vrS : VRedOp := { fn := .fosum, vd := 1, vs2 := 2, vs1 := 3 }
def fpS : State := st (tChip.modHart 0 fun hW =>
    { hW.setCsr cVtype 0x18 with f := [(2, 0x3FF0000000000001), (3, 0x3CA0000000000000)], v := [(2,5),(3,7)] } |>.setCsr cVl 4)
def hW' : Hart := ((fpS.chip.hart 0).vExec vsAdd .rne).getD {}
def vrI : VRedOp := { fn := .sum, vd := 1, vs2 := 2, vs1 := 3 }

theorem meets_ControlTransfersMoveThePc :
    let s : State := sA
    let n : Nat := 0
    s.chip.ready n = true :=
  by decide +kernel

theorem meets_RoundingModesFollowFrm :
    (let s : State := frm 5 fpS
     let n : Nat := 0
     let op : FpOp := fpA
     let vop : VOp := vsAdd
     let red : VRedOp := vrS
     let h := s.chip.hart n
     s.chip.ready n = true ∧
     h.fsOn = true ∧
     fpRounds op.fn = true ∧
     (op.rm = 5#3 ∨ op.rm = 6#3 ∨ (op.rm = 7#3 ∧ 5 ≤ fld (h.csr cFrm) 2 0)) ∧
     vIsFp vop = true ∧
     5 ≤ fld (h.csr cFrm) 2 0 ∧
     red.fn ∈ [VRedFn.fosum, .fusum, .fwosum, .fwusum, .fmin, .fmax]) ∧
    (let rem : Nat := 2
     let k : Nat := 2
     rem < 2 ^ k ∧
     2 * rem = 2 ^ k) :=
  ⟨by decide +kernel,
    by decide +kernel⟩

theorem meets_FpAndVectorArithmeticRetire :
    (let s : State := fpS
     let n : Nat := 0
     let op : FpOp := fpA
     let rm : Rm := .rne
     let h := s.chip.hart n
     s.chip.ready n = true ∧
     h.fsOn = true ∧
     fpExists op = true ∧
     (if fpRounds op.fn then h.rm op.rm = some rm else rm = .rne)) ∧
    (let s : State := fpS
     let n : Nat := 0
     let h := s.chip.hart n
     s.chip.ready n = true ∧
     h.fsOn = true) ∧
    (let s : State := st (fpS.chip.modHart 0 fun hW => hW.setCsr 0x300 0)
     let n : Nat := 0
     let h := s.chip.hart n
     s.chip.ready n = true ∧
     h.fsOn = false) ∧
    (let s : State := fpS
     let n : Nat := 0
     let op : VOp := vsAdd
     let red : VRedOp := vrI
     let h' : Hart := hW'
     let h := s.chip.hart n
     s.chip.ready n = true ∧
     h.vl ≠ 0 ∧
     h.vLegal op = true ∧
     (vIsFp op = true → h.fsOn = true) ∧
     (let rm := Sys2Proof.Machine.Rm.rne
     rmOf (h.csrFld cFrm 2 0) = some rm ∧
     h.vExec op rm = some h') ∧
     h.vsOn = true ∧
     h.vill = false ∧
     h.vstart = 0 ∧
     red.vs2 % max 1 (h.lmul8 / 8) = 0 ∧
     red.fn = .sum) :=
  ⟨by decide +kernel,
    by decide +kernel,
    by decide +kernel,
    by decide +kernel⟩

theorem meets_VsetvlSetsVlAndVtype :
    let s : State := fpS
    let n : Nat := 0
    let rd : Nat := 5
    let avl : Nat := 9
    let src : AvlSrc := .imm 9
    let h := s.chip.hart n
    (s.chip.ready n = true ∧
    h.vsOn = true) ∧
    ((src = .imm avl ∧ avl < 32) ∨ (∃ r, src = .reg r ∧ r % 32 ≠ 0 ∧ avl = (h.getX r).toNat) ∨ (∃ r, src = .reg r ∧
        r % 32 = 0 ∧ rd % 32 ≠ 0 ∧ avl = 2 ^ 64 - 1) ∨ (∃ r, src = .reg r ∧ r % 32 = 0 ∧ rd % 32 = 0 ∧ avl = h.vl)) :=
  ⟨by decide +kernel, Or.inl (by decide +kernel)⟩

end Arithmetic

namespace Csrs

def mset (c : Chip) : Chip :=
    { c with ctl := { c.ctl with regs := Sparse.put (Sparse.put c.ctl.regs (regKey 0 0 0x2008) 64) (regKey 0 0 0x2010) 1 } }
def mS : State := st (mset tChip)
def rS (f : Hart → Hart) : State := st (mS.chip.modHart 0 fun h => f
    { h with pc := 0x100, x := [(10, 0x1000)], v := [(4, 0x123), (5, 0x456)] })
def mop : MolOp := { rd := 0, vs2 := 4, rs1 := 10 }
def entW : SbEnt := { kind := .scalar, pa := 0x1000, bytes := [1,2,3] }

theorem meets_ReductionsCheckAndEnterStoreBuffer :
    (let s : State := rS id
     let n : Nat := 0
     let op : MolOp := {mop with rd := 3}
     let h := s.chip.hart n
     s.chip.ready n = true ∧
     op.wrong = false ∧
     (op.rd ≠ 0 ∨ op.vs2 % 2 = 1 ∨ h.vsOn = false ∨ h.vstart ≠ 0) ∧
     (op.rd ≠ 0 ∨ op.vs2 ≠ 0) ∧
     (let ty := Sys2Proof.RedTy.h
     (ty = .h ∨ ty = .bf))) ∧
    (let s : State := rS fun h => {h with x := [(10, 0x1008)]}
     let n : Nat := 0
     let op : MolOp := {mop with vs2 := 0}
     let h := s.chip.hart n
     let va := h.addr op.rs1 0
     s.chip.ready n = true ∧
     op.wrong = false ∧
     op.rd = 0 ∧
     va % 64 ≠ 0 ∧
     op.vs2 % 2 = 0 ∧
     h.vsOn = true ∧
     h.vstart = 0 ∧
     op.vs2 = 0) ∧
    (let s : State := rS id
     let n : Nat := 0
     let op : MolOp := {mop with vs2 := 0, wrong := true}
     let pa : Nat := 0x1000
     let h := s.chip.hart n
     let va := h.addr op.rs1 0
     s.chip.ready n = true ∧
     op.rd = 0 ∧
     va % 64 = 0 ∧
     s.chip.translate n va .store = .ok pa .pma ∧
     s.chip.region pa = .memory ∧
     h.sb.length ≤ 94 ∧
     h.vsOn = true ∧
     h.vstart = 0 ∧
     op.vs2 % 2 = 0 ∧
     op.vs2 = 0) :=
  ⟨by decide +kernel,
    by decide +kernel,
    by decide +kernel⟩

theorem meets_CoreCsrWritesSerialise :
    (let s : State := rS fun h => {h with sb := [entW]}
     let n : Nat := 0
     s.chip.ready n = true ∧
     (s.chip.hart n).sbEmpty = false) ∧
    (let s : State := rS id
     let n : Nat := 0
     let v : DWord := 7
     let h := s.chip.hart n
     s.chip.ready n = true ∧
     h.priv = .m ∧
     h.virt = false ∧
     h.sbEmpty = true ∧
     (v.getLsbD 2 = true ∨ fld v 0 0 ≠ h.csrFld 0x7C0 0 0)) ∧
    (let s : State := rS id
     let n : Nat := 0
     let v : DWord := 2
     let h := s.chip.hart n
     s.chip.ready n = true ∧
     h.priv = .m ∧
     h.virt = false ∧
     h.sbEmpty = true ∧
     v.getLsbD 2 = false ∧
     fld v 0 0 = h.csrFld 0x7C0 0 0) ∧
    (let s : State := rS id
     let n : Nat := 0
     let v : DWord := 0x50
     let h := s.chip.hart n
     s.chip.ready n = true ∧
     h.priv = .m ∧
     h.virt = false ∧
     (fld (h.csr 0x5C2) 31 0 + 2 ^ 32 - fld v 63 32) % 2 ^ 32 ≤ 2 ^ fld (h.csr 0x5C0) 8 4) :=
  ⟨by decide +kernel,
    by decide +kernel,
    by decide +kernel,
    by decide +kernel⟩

theorem meets_TrapsEnterAndReturn :
    (let s : State := rS fun h => {h.setCsr 0x305 0x80000001 with resv := some 3}
     let n : Nat := 0
     let k : Nat := 13
     let h := s.chip.hart n
     h.live = true ∧
     k < 64 ∧
     (h.priv = .m ∨ h.csrFld 0x302 k k = 0)) ∧
    (let s : State := rS fun h => ((h.setCsr 0x304 0x888).setCsr 0x344 0x80).setCsr 0x300 0x8
     let n : Nat := 0
     let k : Nat := 7
     let h := s.chip.hart n
     h.live = true ∧
     s.chip.intTakes n k = true ∧
     h.held = none ∧
     s.chip.midway n = false) ∧
    (let s : State := rS fun h =>
        {((h.setCsr 0x304 0x888).setCsr 0x344 0x80).setCsr 0x300 0x8 with held := some (.scalar {rd:=1,rs1:=2} 5)}
     let n : Nat := 0
     let k : Nat := 7
     let h := s.chip.hart n
     h.live = true ∧
     (s.chip.intTakes n k = false ∨ h.held ≠ none ∨ s.chip.midway n = true)) ∧
    (let s : State := rS fun h =>
        {((h.setCsr 0x304 0x888).setCsr 0x344 0x80).setCsr 0x300 0x8 with cbo := some 64}
     let n : Nat := 0
     let h := s.chip.hart n
     h.live = true ∧
     s.chip.midway n = true) ∧
    (let s : State := rS id
     let n : Nat := 0
     s.chip.ready n = true) ∧
    (let s : State := rS fun h => ((h.setCsr 0x341 0x2003).setCsr 0x141 0x3001).setCsr 0x300 0x0000008000001980
     let n : Nat := 0
     let h := s.chip.hart n
     s.chip.ready n = true ∧
     h.sbEmpty = true ∧
     h.priv = .m ∧
     h.virt = false) :=
  ⟨by decide +kernel,
    by decide +kernel,
    by decide +kernel,
    by decide +kernel,
    by decide +kernel,
    by decide +kernel⟩

end Csrs

namespace HartMemory

def mset (c : Chip) : Chip :=
    { c with ctl := { c.ctl with regs := Sparse.put (Sparse.put c.ctl.regs (regKey 0 0 0x2008) 64) (regKey 0 0 0x2010) 1 } }
def mS : State := st (mset tChip)
def dl : Line := 0x0123456789ABCDEF0011223344556677
def lnW (stt : L2State) : L2Line := { line := 0x40, st := stt, data := dl }
def cS (l : Option L2Line) (f : Hart → Hart) : State :=
  st ((mS.chip.modHart 0 fun h => f { h with pc := 0x100, x := [(10, 0x1008), (11, 0xFEDCBA9876543210)], v := [(4, 0x123), (5, 0x456)] }).modCore 0 fun k => { k with l2 := match l with | some x => [(16 * 0x40 + 2, x)] | none => [] })
def ld : LoadOp := { rd := 5, rs1 := 10, imm := -4, size := 4, signed := true }
def entW (pa : Nat) (b : List Byte) : SbEnt := { kind := .scalar, pa := pa, bytes := b }
def sop : StoreOp := { rs1 := 10, rs2 := 11, size := 8 }
def tl : TlbEnt := { asid := 0, vmid := 0, virt := false, global := false, vpn := 0, size := 12, pa := 0x1000, r := true, w := true, x := true, u := false, d := true, mt := .pma }

theorem meets_LoadsReadCachesOrAreHeld :
    (let s : State := cS (lnW .s) id
     let n : Nat := 0
     let k : Nat := 0
     let pa : Nat := 0x1004
     let op : LoadOp := ld
     let l : L2Line := lnW .s
     let h := s.chip.hart n
     let va := h.addr op.rs1 op.imm
     s.chip.ready n = true ∧
     s.chip.liveCore n = some k ∧
     (op.fp = true → h.fsOn = true) ∧
     op.wrong = false ∧
     op.early = none ∧
     0 < op.size ∧
     va % 64 + op.size ≤ 64 ∧
     s.chip.translate n va .load = .ok pa .pma ∧
     s.chip.region pa = .memory ∧
     h.overlap false [(pa, op.size)] = .none ∧
     (s.chip.core k).line (pa / 64) = some l ∧
     l.poison = false) ∧
    (let s : State := cS (lnW .s) fun h => {h with sb := [entW 0x1004 [1]]}
     let n : Nat := 0
     let k : Nat := 0
     let pa : Nat := 0x1004
     let op : LoadOp := ld
     let h := s.chip.hart n
     let va := h.addr op.rs1 op.imm
     s.chip.liveCore n = some k ∧
     op.wrong = false ∧
     0 < op.size ∧
     va % 64 + op.size ≤ 64 ∧
     s.chip.translate n va .load = .ok pa .pma ∧
     s.chip.region pa = .memory ∧
     s.chip.ready n = true ∧
     (op.fp = true → h.fsOn = true) ∧
     op.early = none ∧
     h.overlap false [(pa, op.size)] = .held) ∧
    (let s : State := cS (lnW .s) fun h => {h with sb := [entW 0x1004 [1]], held := some (.scalar ld 0x1004)}
     let n : Nat := 0
     let k : Nat := 0
     let pa : Nat := 0x1004
     let op : LoadOp := ld
     let h := s.chip.hart n
     let va := h.addr op.rs1 op.imm
     s.chip.liveCore n = some k ∧
     op.wrong = false ∧
     0 < op.size ∧
     va % 64 + op.size ≤ 64 ∧
     s.chip.translate n va .load = .ok pa .pma ∧
     s.chip.region pa = .memory ∧
     h.held = some (.scalar op va) ∧
     h.overlap false [(pa, op.size)] ≠ .none) ∧
    (let s : State := cS (lnW .s) fun h => {h with held := some (.scalar ld 0x1004)}
     let n : Nat := 0
     let k : Nat := 0
     let pa : Nat := 0x1004
     let op : LoadOp := ld
     let h := s.chip.hart n
     let va := h.addr op.rs1 op.imm
     s.chip.liveCore n = some k ∧
     op.wrong = false ∧
     0 < op.size ∧
     va % 64 + op.size ≤ 64 ∧
     s.chip.translate n va .load = .ok pa .pma ∧
     s.chip.region pa = .memory ∧
     (let l := lnW .s
     h.held = some (.scalar op va) ∧
     h.overlap false [(pa, op.size)] = .none ∧
     (s.chip.core k).line (pa / 64) = some l ∧
     l.poison = false)) :=
  ⟨by decide +kernel,
    by decide +kernel,
    by decide +kernel,
    by decide +kernel⟩

theorem meets_StoresCommitInOrder :
    (let s : State := cS none id
     let n : Nat := 0
     let pa : Nat := 0x1008
     let op : StoreOp := sop
     let h := s.chip.hart n
     let va := h.addr op.rs1 op.imm
     s.chip.ready n = true ∧
     (op.fp = true → h.fsOn = true) ∧
     0 < op.size ∧
     va % 64 + op.size ≤ 64 ∧
     s.chip.translate n va .store = .ok pa .pma ∧
     s.chip.region pa = .memory ∧
     h.sb.length < 96) ∧
    (let s : State := cS (lnW .e) fun h => {h with sb := [entW 0x1008 [1,2,3,4]]}
     let n : Nat := 0
     let k : Nat := 0
     let e : SbEnt := entW 0x1008 [1,2,3,4]
     let l : L2Line := lnW .e
     let h := s.chip.hart n
     let line := e.pa / 64
     s.chip.coreOfHart n = some k ∧
     h.sb = [e] ∧
     e.wrong = false ∧
     (e.kind = .scalar ∨ e.kind = .vector) ∧
     (s.chip.core k).line line = some l ∧
     (l.st = .m ∨ l.st = .e) ∧
     (s.chip.core k).buffered line = none) ∧
    (let s : State := cS (lnW .o) fun h => {h with sb := [entW 0x1008 [1,2,3,4]]}
     let n : Nat := 0
     let k : Nat := 0
     let e : SbEnt := entW 0x1008 [1,2,3,4]
     let h := s.chip.hart n
     let line := e.pa / 64
     s.chip.coreOfHart n = some k ∧
     h.sb = [e] ∧
     e.wrong = false ∧
     (e.kind = .scalar ∨ e.kind = .vector) ∧
     (s.chip.core k).reqs.length < 48 ∧
     (s.chip.core k).pending line = none ∧
     (s.chip.core k).buffered line = none ∧
     (let l := lnW .o
     (s.chip.core k).line line = some l ∧
     (l.st = .s ∨ l.st = .o))) ∧
    (let s : State := cS none fun h => {h with sb := [entW 0x1008 [1,2,3,4]]}
     let n : Nat := 0
     let k : Nat := 0
     let e : SbEnt := entW 0x1008 [1,2,3,4]
     let h := s.chip.hart n
     let line := e.pa / 64
     s.chip.coreOfHart n = some k ∧
     h.sb = [e] ∧
     e.wrong = false ∧
     (e.kind = .scalar ∨ e.kind = .vector) ∧
     (s.chip.core k).reqs.length < 48 ∧
     (s.chip.core k).pending line = none ∧
     (s.chip.core k).buffered line = none ∧
     (s.chip.core k).line line = none) :=
  ⟨by decide +kernel,
    by decide +kernel,
    by decide +kernel,
    by decide +kernel⟩

theorem meets_AtomicsUpdateOwnedLines :
    (let s : State := cS (lnW .e) id
     let n : Nat := 0
     let k : Nat := 0
     let pa : Nat := 0x1008
     let rs1 : Nat := 10
     let size : Nat := 8
     let l : L2Line := lnW .e
     let h := s.chip.hart n
     let va := h.addr rs1 0
     s.chip.ready n = true ∧
     s.chip.liveCore n = some k ∧
     h.sbEmpty = true ∧
     (size = 4 ∨ size = 8) ∧
     va % size = 0 ∧
     s.chip.translate n va .store = .ok pa .pma ∧
     s.chip.region pa = .memory ∧
     (s.chip.core k).buffered (pa / 64) = none ∧
     (s.chip.core k).line (pa / 64) = some l ∧
     (l.st = .m ∨ l.st = .e) ∧
     l.poison = false) ∧
    (let s : State := cS (lnW .m) fun h => {h with resv := some 0x40}
     let n : Nat := 0
     let k : Nat := 0
     let pa : Nat := 0x1008
     let rs1 : Nat := 10
     let size : Nat := 8
     let l : L2Line := lnW .m
     let h := s.chip.hart n
     let va := h.addr rs1 0
     s.chip.ready n = true ∧
     s.chip.liveCore n = some k ∧
     (size = 4 ∨ size = 8) ∧
     va % size = 0 ∧
     s.chip.region pa = .memory ∧
     (s.chip.core k).buffered (pa / 64) = none ∧
     (s.chip.core k).line (pa / 64) = some l ∧
     s.chip.translate n va .load = .ok pa .pma ∧
     h.overlap false [(pa, size)] = .none ∧
     l.poison = false ∧
     s.chip.translate n va .store = .ok pa .pma ∧
     h.sbEmpty = true ∧
     (s.chip.core k).heldSnp = [] ∧
     h.resv = some (pa / 64) ∧
     (l.st = .m ∨ l.st = .e)) ∧
    (let s : State := cS (lnW .s) id
     let n : Nat := 0
     let k : Nat := 0
     let pa : Nat := 0x1008
     let rs1 : Nat := 10
     let size : Nat := 4
     let l : L2Line := lnW .s
     let h := s.chip.hart n
     let va := h.addr rs1 0
     s.chip.ready n = true ∧
     s.chip.liveCore n = some k ∧
     (size = 4 ∨ size = 8) ∧
     va % size = 0 ∧
     s.chip.region pa = .memory ∧
     (s.chip.core k).buffered (pa / 64) = none ∧
     (s.chip.core k).line (pa / 64) = some l ∧
     s.chip.translate n va .store = .ok pa .pma ∧
     h.sbEmpty = true ∧
     (s.chip.core k).heldSnp = [] ∧
     h.resv ≠ some (pa / 64)) :=
  ⟨by decide +kernel,
    by decide +kernel,
    by decide +kernel⟩

theorem meets_FencesAndPageWalks :
    (let s : State := cS (some {lnW .s with l1i := true}) fun h => {h with tlb := [tl, {tl with virt := true}]}
     let n : Nat := 0
     let k : Nat := 0
     let pred : BitVec 4 := 15
     let succ : BitVec 4 := 15
     let h := s.chip.hart n
     s.chip.ready n = true ∧
     s.chip.liveCore n = some k ∧
     (h.sbEmpty = true ∨ pred.getLsbD 0 = false ∨ succ.getLsbD 1 = false) ∧
     h.sbEmpty = true ∧
     h.priv = .m ∧
     h.virt = false) ∧
    (let s : State := cS (lnW .s) fun h => {h with sb := [entW 0x1004 [1]]}
     let n : Nat := 0
     let k : Nat := 0
     let pred : BitVec 4 := 1
     let succ : BitVec 4 := 2
     let h := s.chip.hart n
     s.chip.ready n = true ∧
     s.chip.liveCore n = some k ∧
     h.sbEmpty = false ∧
     pred.getLsbD 0 = true ∧
     succ.getLsbD 1 = true) :=
  ⟨by decide +kernel,
    by decide +kernel⟩

end HartMemory

namespace HartAccess

def mset (c : Chip) : Chip :=
    { c with ctl := { c.ctl with regs := Sparse.put (Sparse.put c.ctl.regs (regKey 0 0 0x2008) 64) (regKey 0 0 0x2010) 1 } }
def mS : State := st (mset tChip)
def dl : Line := 0x0123456789ABCDEF0011223344556677
def lnW (stt : L2State) : L2Line := { line := 0x40, st := stt, data := dl }
def cS (l : Option L2Line) (f : Hart → Hart) : State :=
  st ((mS.chip.modHart 0 fun h => f { h with pc := 0x100, x := [(10, 0x1008), (11, 0xFEDCBA9876543210)], v := [(4, 0x123), (5, 0x456)] }).modCore 0 fun k => { k with l2 := match l with | some x => [(16 * 0x40 + 2, x)] | none => [] })
def entW (pa : Nat) (b : List Byte) : SbEnt := { kind := .scalar, pa := pa, bytes := b }
def wk : Walk := { va := 0x4000, acc := .load }
def vm : VMemOp := { v := 4, rs1 := 10, eew := 8 }
def vS (l : Option L2Line) (vl : Nat) (f : Hart → Hart) : State :=
    cS l fun h => f ((h.setCsr cVtype 0x18).setCsr cVl (BitVec.ofNat 64 vl))
def vspans (s : State) (a : Access) := (s.chip.vmemSpans 0 vm a ((s.chip.hart 0).active false)).1
def io (w : Bool) (u off size : Nat) : IoOp := { write := w, reg := 11, addr := .ctl (.block u off), size := size }

theorem meets_CacheBlockOperationsReachHome :
    (let s : State := cS (lnW .m) fun h => {h with cbo := some 0x40}
     let n : Nat := 0
     let k : Nat := 0
     let pa : Nat := 0x1000
     let rs1 : Nat := 10
     let l : L2Line := lnW .m
     let h := s.chip.hart n
     let va := h.addr rs1 0 / 64 * 64
     let line := pa / 64
     s.chip.ready n = true ∧
     s.chip.liveCore n = some k ∧
     h.sbEmpty = true ∧
     h.priv = .m ∧
     s.chip.region pa = .memory ∧
     h.cbo = some line ∧
     (s.chip.core k).pending line = none ∧
     s.chip.translate n va .store = .ok pa .pma ∧
     (s.chip.core k).buffered line = none ∧
     (s.chip.core k).line line = some l ∧
     (l.st = .m ∨ l.st = .e)) ∧
    (let s : State := cS none id
     let n : Nat := 0
     let k : Nat := 0
     let pa : Nat := 0x1000
     let rs1 : Nat := 10
     let h := s.chip.hart n
     let va := h.addr rs1 0 / 64 * 64
     let line := pa / 64
     s.chip.ready n = true ∧
     s.chip.liveCore n = some k ∧
     h.sbEmpty = true ∧
     h.priv = .m ∧
     s.chip.region pa = .memory ∧
     h.cbo = none ∧
     s.chip.translate n va .load = .ok pa .pma ∧
     s.chip.translate n va .store = .ok pa .pma ∧
     (s.chip.core k).line line = none ∧
     (s.chip.core k).reqs.length < 48 ∧
     (s.chip.core k).pending line = none ∧
     (s.chip.core k).buffered line = none) :=
  ⟨by decide +kernel,
    by decide +kernel⟩

/-- An Inval of line 0x40 held against the reservation of hart 0. -/
def snpM : Msg := { kind := .inval, src := .home 0, dst := .core 0, line := 0x40 }
def snpS : State :=
  let c := (cS none fun h => { h with resv := some 0x40 }).chip
  st (c.modCore 0 fun k => { k with heldSnp := [snpM] })

theorem meets_SpeculationLeavesNoArchitecturalTrace :
    (let s : State := cS none fun h =>
        {h with walk := some {wk with wrong:=true}, sb := [entW 0x1000 [1], {entW 0x1000 [1] with wrong := true}]}
     let n : Nat := 0
     let k : Nat := 0
     let line : Nat := 0x40
     let t : DWord := 0x100
     let a : RedirAt := .ex
     let h := s.chip.hart n
     s.chip.liveCore n = some k ∧
     h.pc = t ∧
     (h.csrFld 0x7C0 0 0 = 0 ∨ detRedirect a h.cf = true) ∧
     h.csrFld 0x7C0 1 0 = 0 ∧
     s.chip.region (line * 64) = .memory ∧
     (s.chip.core k).line line = none ∧
     (s.chip.core k).reqs.length < 48 ∧
     (s.chip.core k).pending line = none ∧
     (s.chip.core k).buffered line = none ∧
     (s.chip.core h.core).heldSnp = []) ∧
    (let s : State := cS none fun h => { (h.setCsr 0x7C0 1) with cf := some .jal }
     let n : Nat := 0
     let k : Nat := 0
     let t : DWord := 0x100
     let a : RedirAt := .ex
     let h := s.chip.hart n
     s.chip.liveCore n = some k ∧
     (h.pc ≠ t ∨ (h.csrFld 0x7C0 0 0 = 1 ∧ detRedirect a h.cf = false)) ∧
     h.csrFld 0x7C0 1 0 ≠ 0) ∧
    (let s : State := cS none id
     let n : Nat := 0
     let k : Nat := 0
     let t : DWord := 0x104
     let a : RedirAt := .ex
     let h := s.chip.hart n
     s.chip.liveCore n = some k ∧
     (h.pc ≠ t ∨ (h.csrFld 0x7C0 0 0 = 1 ∧ detRedirect a h.cf = false))) ∧
    (let s : State := snpS
     let n : Nat := 0
     let k : Nat := 0
     let m : Msg := snpM
     let h := s.chip.hart n
     s.chip.liveCore n = some k ∧
     h.core = k ∧
     (s.chip.core k).heldSnp = [m] ∧
     (s.chip.core k).hartValid = true ∧
     (s.chip.core k).hartId = n ∧
     (s.chip.core k).fills = [] ∧
     m.kind = .inval ∧
     m.rcl = false ∧
     m ∉ s.chip.mesh ∧
     h.resv = some m.line) :=
  ⟨by decide +kernel,
    by decide +kernel,
    by decide +kernel,
    by decide +kernel⟩

theorem meets_WfiRestAndWake :
    (let s : State := cS (some {lnW .s with l1i := true}) fun h => {h with resv := some 3}
     let n : Nat := 0
     let k : Nat := 0
     let h := s.chip.hart n
     s.chip.coreOfHart n = some k ∧
     (s.chip.core k).reqs = [] ∧
     s.chip.ready n = true ∧
     h.sbEmpty = true ∧
     h.priv = .m ∧
     h.virt = false ∧
     s.chip.intPending n = false ∧
     h.csrFld 0x7C1 15 0 ≠ 0) ∧
    (let s : State := cS (some {lnW .s with l1i := true}) fun h =>
        {(h.setCsr 0x304 0x80).setCsr 0x344 0x80 with run := .wfi, resv := some 3}
     let n : Nat := 0
     let k : Nat := 0
     let h := s.chip.hart n
     s.chip.coreOfHart n = some k ∧
     (s.chip.core k).reqs = [] ∧
     h.run = .wfi ∧
     h.csrFld 0x7C1 15 0 ≠ 0xFFFF ∧
     s.chip.intPending n = true) ∧
    (let s : State := cS (lnW .s) fun h => {h.setCsr 0x7C1 0 with resv := some 3}
     let n : Nat := 0
     let k : Nat := 0
     let h := s.chip.hart n
     s.chip.coreOfHart n = some k ∧
     (s.chip.core k).reqs = [] ∧
     s.chip.ready n = true ∧
     h.sbEmpty = true ∧
     h.priv = .m ∧
     h.virt = false ∧
     s.chip.intPending n = false ∧
     h.csrFld 0x7C1 15 0 = 0) ∧
    (let s : State := cS (lnW .s) fun h => {(h.setCsr 0x304 0x80).setCsr 0x344 0x80 with resv := some 3}
     let n : Nat := 0
     let k : Nat := 0
     let h := s.chip.hart n
     s.chip.coreOfHart n = some k ∧
     (s.chip.core k).reqs = [] ∧
     s.chip.ready n = true ∧
     h.sbEmpty = true ∧
     h.priv = .m ∧
     h.virt = false ∧
     s.chip.intPending n = true) ∧
    (let s : State := cS (some {lnW .s with l1i := true}) fun h => {h.setCsr 0x7C1 0xFFFF with run := .wfi, resv := some 3}
     let n : Nat := 0
     let k : Nat := 0
     let h := s.chip.hart n
     s.chip.coreOfHart n = some k ∧
     (s.chip.core k).reqs = [] ∧
     h.run = .wfi ∧
     h.csrFld 0x7C1 15 0 = 0xFFFF) ∧
    (let s : State := cS (some {lnW .s with l1i := true}) fun h =>
        {(h.setCsr 0x304 0x80).setCsr 0x344 0x80 with run := .rest, resv := some 3}
     let n : Nat := 0
     let k : Nat := 0
     let h := s.chip.hart n
     s.chip.coreOfHart n = some k ∧
     (s.chip.core k).reqs = [] ∧
     h.run = .rest ∧
     s.chip.intPending n = true) ∧
    (let s : State := cS (some {lnW .s with l1i := true}) fun h =>
        {(h.setCsr 0x304 0x80).setCsr 0x344 0x80 with run := .waking false, resv := some 3}
     let n : Nat := 0
     let k : Nat := 0
     let h := s.chip.hart n
     s.chip.coreOfHart n = some k ∧
     (s.chip.core k).reqs = [] ∧
     h.run = .waking false ∧
     (s.chip.core k).fills = []) ∧
    (let s : State := cS (lnW .s) id
     let n : Nat := 0
     let k : Nat := 0
     let h := s.chip.hart n
     s.chip.coreOfHart n = some k ∧
     (s.chip.core k).reqs = [] ∧
     h.live = true ∧
     h.held = none ∧
     s.chip.midway n = false) :=
  ⟨by decide +kernel,
    by decide +kernel,
    by decide +kernel,
    by decide +kernel,
    by decide +kernel,
    by decide +kernel,
    by decide +kernel,
    by decide +kernel⟩

theorem meets_VectorMemoryAccesses :
    (let s : State := vS none 0 id
     let n : Nat := 0
     let k : Nat := 0
     let op : VMemOp := vm
     let h := s.chip.hart n
     s.chip.ready n = true ∧
     s.chip.liveCore n = some k ∧
     op.wrong = false ∧
     h.vst = 0 ∧
     h.vmemLegal op = true ∧
     h.vl = 0) ∧
    (let s : State := vS none 0 id
     let n : Nat := 0
     let k : Nat := 0
     let op : VMemOp := vm
     let h := s.chip.hart n
     s.chip.ready n = true ∧
     s.chip.liveCore n = some k ∧
     op.wrong = false ∧
     h.vst = 0 ∧
     h.vmemLegal op = true ∧
     h.vl = 0) ∧
    (let s : State := vS (lnW .s) 4 id
     let n : Nat := 0
     let k : Nat := 0
     let op : VMemOp := vm
     let l : List (Nat × List (Nat × Nat)) := vspans (vS (lnW .s) 4 id) .load
     let h := s.chip.hart n
     let w := VMemOp.dataBytes h op
     let es := joinEntries (l.flatMap fun e => vecEntries .vector e.2 (leBytes (h.elem op.v (8 * w) e.1) w))
     s.chip.ready n = true ∧
     s.chip.liveCore n = some k ∧
     op.wrong = false ∧
     h.vst = 0 ∧
     h.vmemLegal op = true ∧
     h.vl ≠ 0 ∧
     s.chip.vmemSpans n op .store (h.active op.masked) = (l, none) ∧
     h.sb.length + es.length ≤ 96) ∧
    (let s : State := vS (lnW .s) 4 id
     let n : Nat := 0
     let k : Nat := 0
     let op : VMemOp := vm
     let l : List (Nat × List (Nat × Nat)) := vspans (vS (lnW .s) 4 id) .load
     let h := s.chip.hart n
     s.chip.ready n = true ∧
     s.chip.liveCore n = some k ∧
     op.wrong = false ∧
     h.vst = 0 ∧
     h.vmemLegal op = true ∧
     (let vals := ((vS (lnW .s) 4 id).chip.vmemRead 0 0 (vspans (vS (lnW .s) 4 id) .load)).1
     let d := ((vS (lnW .s) 4 id).chip.vmemRead 0 0 (vspans (vS (lnW .s) 4 id) .load)).2.2
     h.vl ≠ 0 ∧
     s.chip.vmemSpans n op .load (h.active op.masked) = (l, none) ∧
     (∀ e ∈ l, ∀ a ∈ spanAddrs e.2, (h.storeOf false a).isSome = false) ∧
     s.chip.vmemRead k n l = (vals, none, d))) ∧
    (let s : State := vS (lnW .s) 4 (fun h => {h with sb := [entW 0x1010 [1]]})
     let n : Nat := 0
     let k : Nat := 0
     let op : VMemOp := vm
     let l : List (Nat × List (Nat × Nat)) := vspans (vS (lnW .s) 4 id) .load
     let h := s.chip.hart n
     s.chip.ready n = true ∧
     s.chip.liveCore n = some k ∧
     op.wrong = false ∧
     h.vst = 0 ∧
     h.vmemLegal op = true ∧
     h.vl ≠ 0 ∧
     s.chip.vmemSpans n op .load (h.active op.masked) = (l, none) ∧
     (∃ e ∈ l, ∃ a ∈ spanAddrs e.2, (h.storeOf false a).isSome = true)) :=
  ⟨by decide +kernel,
    by decide +kernel,
    by decide +kernel,
    by decide +kernel,
    by decide +kernel⟩

theorem meets_ControlAccessRetiresOrFaults :
    (let s : State := cS none id
     let n : Nat := 0
     let op : IoOp := io true 0 0x4010 4
     let a : CtlAddr := .block 0 0x4010
     s.chip.ready n = true ∧
     op.addr = .ctl a ∧
     (op.fp = true → (s.chip.hart n).fsOn = true) ∧
     s.chip.ioPmp n op = true ∧
     accessError op.size (ctlOff a) = false ∧
     op.write = true) ∧
    (let s : State := cS none id
     let n : Nat := 0
     let op : IoOp := io false 0 0x4010 8
     let a : CtlAddr := .block 0 0x4010
     s.chip.ready n = true ∧
     op.addr = .ctl a ∧
     (op.fp = true → (s.chip.hart n).fsOn = true) ∧
     s.chip.ioPmp n op = true ∧
     accessError op.size (ctlOff a) = false ∧
     op.write = false) ∧
    (let s : State := cS none id
     let n : Nat := 0
     let op : IoOp := io true 0 0x4012 4
     let a : CtlAddr := .block 0 0x4012
     s.chip.ready n = true ∧
     op.addr = .ctl a ∧
     (op.fp = true → (s.chip.hart n).fsOn = true) ∧
     s.chip.ioPmp n op = true ∧
     accessError op.size (ctlOff a) = true) :=
  ⟨by decide +kernel,
    by decide +kernel,
    by decide +kernel⟩

end HartAccess

namespace Fences

def mset (c : Chip) : Chip :=
    { c with ctl := { c.ctl with regs := Sparse.put (Sparse.put c.ctl.regs (regKey 0 0 0x2008) 64) (regKey 0 0 0x2010) 1 } }
def l3put (c : Chip) (line : Nat) (d : Line) : Chip := c.modHome (homeSlice line) fun h =>
    { h with l3 := Sparse.put h.l3 (32 * homeSet line) { line := line, dirty := false, data := d } }
def mS : State := st (mset tChip)
def wk : Walk := { va := 0x4000, acc := .load }
def satp : DWord := 0x8000000000000010
def pmp (h : Hart) : Hart := (h.setCsr 0x3B0 0x003FFFFFFFFFFFFF).setCsr 0x3A0 0x1F
def walkS (pte : Line) (w : Walk) (f : Hart → Hart := id) : State :=
    st (l3put (mS.chip.modHart 0 fun h => f { pmp (h.setCsr 0x180 satp) with priv := .s, walk := some w }) 0x400 pte)
def wrW (s : State) : (WalkEnd × Chip) := s.chip.fullWalk 0 wk.va wk.acc ((s.chip.hart 0).walk.getD wk).wrong
def fq := walkS 0x07 {wk with wrong := true} fun h => h.setCsr 0x30A (1 <<< 61)
def fe (s : State) : TlbEnt := match (wrW s).1 with | .fill e => e | _ => { asid := 0, vmid := 0, virt := false, global := false, vpn := 0, size := 12, pa := 0x1000, r := true, w := true, x := true, u := false, d := true, mt := .pma }

theorem meets_FencesAndPageWalks :
    (let s : State := walkS 0xC7 wk
     let n : Nat := 0
     let w : Walk := wk
     let d : Chip := (wrW (walkS 0xC7 wk)).2
     (s.chip.hart n).live = true ∧
     (s.chip.hart n).walk = some w ∧
     (let e := fe (walkS 0xC7 wk)
     s.chip.fullWalk n w.va w.acc w.wrong w.guest w.exec = (.fill e, d))) ∧
    (let s : State := walkS 0 {wk with wrong := true}
     let n : Nat := 0
     let w : Walk := {wk with wrong := true}
     let d : Chip := (wrW (walkS 0 {wk with wrong := true})).2
     (s.chip.hart n).live = true ∧
     (s.chip.hart n).walk = some w ∧
     (let x := 13
     let g := 0
     s.chip.fullWalk n w.va w.acc w.wrong w.guest w.exec = (.trap x g, d) ∧
     w.wrong = true)) ∧
    (let s : State := fq
     let n : Nat := 0
     let w : Walk := {wk with wrong := true}
     let d : Chip := (wrW fq).2
     (s.chip.hart n).live = true ∧
     (s.chip.hart n).walk = some w ∧
     s.chip.fullWalk n w.va w.acc w.wrong w.guest w.exec = (.quit, d)) :=
  ⟨by decide +kernel,
    by decide +kernel,
    by decide +kernel⟩

end Fences

namespace Registers

def rdW (u off : Nat) : RegDef := (regAt (kindOf u) off).getD { name := "", off := 0, fields := [] }
def s0 : State := st tBare
def f0 : Fld := { hi := 15, lo := 0, acc := .rw }
def f1 : Fld := { hi := 16, lo := 16, acc := .w1s }
def f2 : Fld := { hi := 17, lo := 17, acc := .w1c }
def f3W : Fld := { hi := 18, lo := 18, acc := .ro }
def rT : RegDef := { name := "T", off := 0, fields := [f0, f1, f2, f3W] }
def pS (f : Ctl → Ctl) : State := st { tBare with ctl := f tBare.ctl }

theorem meets_RegisterWritesAreCheckedThenMerged :
    (let s : State := s0
     let src : Src := .hart 0
     let u : Nat := 0
     let off : Nat := 0x4010
     let v : Word := 0x12
     let r : RegDef := rdW 0 0x4010
     let c := s.chip
     s.chip.opens src u = true ∧
     regAt (kindOf u) off = some r ∧
     r.role = .plain ∧
     c.mapped u off = true ∧
     r.readOnly = false ∧
     c.regCheck src u off r v = none ∧
     u = 0 ∧
     0x1040 ≤ off ∧
     off ≠ 0x2400 ∧
     off < 0x5000) ∧
    (let s : State := s0
     let src : Src := .pf0
     let u : Nat := 23
     let off : Nat := 0x1040
     let v : Word := 1
     let r : RegDef := rdW 23 0x1040
     let c := s.chip
     s.chip.opens src u = true ∧
     regAt (kindOf u) off = some r ∧
     r.role = .plain ∧
     (let al : Nat := 0x800
     let f : Fld := { hi := 0, lo := 0, acc := .rw, en := true }
     let b : Nat := 0
     al < 0x1000 ∧
     al % 4 = 0 ∧
     aliasOf al = (off, b) ∧
     c.regionOff u al = none ∧
     r.fieldOf b = some f ∧
     (f.acc = .rw ∨ f.acc = .w1s ∨ f.acc = .w1c ∨ f.acc = .wo) ∧
     (let w := setFld (c.view src u off &&& r.bits fun g => decide (g.acc = .rw)) b b (fld v 0 0)
     c.regCheck src u off r w = none))) ∧
    (let s : State := s0
     let src : Src := .hart 0
     let u : Nat := 0
     let off : Nat := 0x4010
     let v : Word := 0xFFFFFFFF
     let r : RegDef := rdW 0 0x4010
     let c := s.chip
     s.chip.opens src u = true ∧
     regAt (kindOf u) off = some r ∧
     r.role = .plain ∧
     (let e := 3
     c.mapped u off = true ∧
     r.readOnly = false ∧
     c.regCheck src u off r v = some e)) ∧
    (let r : RegDef := rT
     let f : Fld := f0
     let i : Nat := 15
     (r.fields.Pairwise fun a b => a.hi < b.lo ∨ b.hi < a.lo) ∧
     (∀ g ∈ r.fields, g.lo ≤ g.hi ∧ g.hi < 32) ∧
     f ∈ r.fields ∧
     f.lo ≤ i ∧
     i ≤ f.hi) :=
  ⟨by decide +kernel,
    by decide +kernel,
    by decide +kernel,
    by decide +kernel⟩

theorem meets_ComplementPairsCommitOnlyTogether :
    (let s : State := pS fun c => {c with pend := [(regKey 0 0 0x2000, 0x5)]}
     let src : Src := .hart 0
     let u : Nat := 0
     let off : Nat := 0x2004
     let v : Word := 0xFFFFFFFA
     let r : RegDef := rdW 0 0x2004
     let c := s.chip
     let bank := c.bankOf u off
     c.opens src u = true ∧
     c.mapped u off = true ∧
     regAt (kindOf u) off = some r ∧
     (¬ (src = .pf1 ∧ c.pf1Absent u off v 0 = true)) ∧
     r.role = .xCpl ∧
     (c.pairCommit src u bank off r v).1 = none ∧
     (let n : Nat := 0
     let m : MsetReg := Sys2Proof.MsetReg.base
     u = 0 ∧
     off = msetOff n (msetReg m + 4) ∧
     (c.pairCommit src 0 bank off r v).1 = none)) ∧
    (let s : State := pS fun c => {c with pend := [(regKey 0 0 0x6098, 0x0)], armed := [(regKey 0 0 0x6090, 0x1000)]}
     let src : Src := .hart 0
     let u : Nat := 0
     let off : Nat := 0x609C
     let v : Word := 0xFFFFFFFF
     let r : RegDef := rdW 0 0x609C
     let c := s.chip
     let bank := c.bankOf u off
     c.opens src u = true ∧
     c.mapped u off = true ∧
     regAt (kindOf u) off = some r ∧
     (¬ (src = .pf1 ∧ c.pf1Absent u off v 0 = true)) ∧
     r.role = .hiCpl ∧
     (c.pairCommit src u bank off r v).1 = none ∧
     12 ≤ off ∧
     u = 0 ∧
     off = 0x609C ∧
     (c.pairCommit src 0 bank off r v).1 = none) ∧
    (let s : State := s0
     let src : Src := .hart 0
     let u : Nat := 0
     let off : Nat := 0x2000
     let v : Word := 0x5
     let r : RegDef := rdW 0 0x2000
     let c := s.chip
     c.opens src u = true ∧
     c.mapped u off = true ∧
     regAt (kindOf u) off = some r ∧
     (¬ (src = .pf1 ∧ c.pf1Absent u off v 0 = true)) ∧
     (r.role = .x ∨ r.role = .lo ∨ r.role = .hi) ∧
     c.lockedFor src u off r = false) ∧
    (let s : State := pS fun c => {c with pend := [(regKey 0 0 0x2000, 0x5)]}
     let src : Src := .hart 0
     let u : Nat := 0
     let off : Nat := 0x2004
     let v : Word := 0xFFFFFFFB
     let r : RegDef := rdW 0 0x2004
     let c := s.chip
     let bank := c.bankOf u off
     c.opens src u = true ∧
     c.mapped u off = true ∧
     regAt (kindOf u) off = some r ∧
     (¬ (src = .pf1 ∧ c.pf1Absent u off v 0 = true)) ∧
     (let q := 5
     r.role = .xCpl ∧
     c.pending u bank (off - 4) = some q ∧
     q ≠ ~~~ v ∧
     c.lockedFor src u off r = false ∧
     c.pairLocked u (off - 4) q = false)) ∧
    (let s : State := pS fun c => {c with pend := [(regKey 0 0 0x6090, 0x5)]}
     let src : Src := .hart 0
     let u : Nat := 0
     let off : Nat := 0x6094
     let v : Word := 0xFFFFFFFA
     let r : RegDef := rdW 0 0x6094
     let c := s.chip
     let bank := c.bankOf u off
     c.opens src u = true ∧
     c.mapped u off = true ∧
     regAt (kindOf u) off = some r ∧
     (¬ (src = .pf1 ∧ c.pf1Absent u off v 0 = true)) ∧
     r.role = .loCpl ∧
     c.lockedFor src u off r = false ∧
     c.pending u bank (off - 4) = some (~~~ v)) :=
  ⟨by decide +kernel,
    by decide +kernel,
    by decide +kernel,
    by decide +kernel,
    by decide +kernel⟩

end Registers

namespace Mailboxes

def rdW (u off : Nat) : RegDef := (regAt (kindOf u) off).getD { name := "", off := 0, fields := [] }
def ring : Ring := { en := true, quiesced := false, acc := 5, ci := 3, wi := 9, head := 7 }
def rS : State := st (tRing ring)
def pg : State := st { tRing ring with insts := [(0, { st := .active }), (0x100, { st := .active, ranges := [(2, (3, 1))] })] }

theorem meets_LocksErrorsAndMailboxes :
    let s : State := st { tChip with ctl := { mbox := [(0, {sel := 0x300000, pend := true, seq := 255})]} }
    let src : Src := .hart 0
    let u : Nat := 0
    let c := s.chip
    c.takes src 0 0x2400 1 = true ∧
    c.takes src u 0x1018 1 = true ∧
    c.takes src u 0x100C 0x10000 = true ∧
    (c.mbox u).pend = true := by
  decide +kernel

theorem meets_ReadsFaultsAndSummaries :
    let s : State := st (tChip.modUnit 152 fun u => {u with err := 5})
    let src : Src := .hart 0
    let u : Nat := 152
    let off : Nat := 0x1040
    let bank : Nat := 0
    let r : RegDef := rdW 152 0x1040
    let c := s.chip
    c.opens src u = true ∧
    c.mapped u off = true ∧
    regAt (kindOf u) off = some r ∧
    r.role = .plain ∧
    (¬ (u = 0 ∧ 0x100000 ≤ off)) ∧
    parityAt u bank off = some (u, bank, off) ∧
    c.present u = true ∧
    c.pwr.clocks = true ∧
    c.faulty u bank off = false ∧
    bank < 2 ^ 20 ∧
    off < 2 ^ 28 ∧
    u ≤ 512 ∧
    isGroup u = false := by
  decide +kernel

theorem meets_DoorbellsMoveRingIndexes :
    (let s : State := rS
     let src : Src := .pf0
     let u : Nat := 23
     let off : Nat := 0x30
     let pi : Nat := 6
     let r : RingId := .sh 0 3
     let c := s.chip
     let x := c.ring r
     let adm := if src = .pf1 then 1 else 0
     let fits := pi ≠ x.acc ∧ sub32 pi x.acc ≤ c.ringSize r ∧ sub32 pi x.ci ≤ c.ringSize r
     let region := c.opens src u = true ∧ off < dbSize u ∧ off % 8 = 0 ∧ c.dbBase u % 8 = 0 ∧ c.faulty u 0 0x1044 = false
     pi < 2 ^ 32 ∧
     region ∧
     regionRing u off adm = some (r, false) ∧
     c.reaches src (c.ringOwner r) = true ∧
     c.ringHears r = true ∧
     fits ∧
     (let d : DWord := 0x1234
     region ∧
     regionRing u off adm = some (r, false) ∧
     fld d 63 32 ≠ 2 ^ 32 - 1 - fld d 31 0)) ∧
    (let s : State := rS
     let src : Src := .hart 0
     let u : Nat := 23
     let off : Nat := 0x38
     let pi : Nat := 9
     let r : RingId := .sh 0 3
     let c := s.chip
     let x := c.ring r
     let adm := if src = .pf1 then 1 else 0
     let reached := (c.inst (c.ringOwner r)).st ≠ .absent ∧ (c.inst (c.ringOwner r)).st ≠ .resetting ∧ x.en = true ∧
         pi ≠ x.head ∧ sub32 pi x.head ≤ sub32 x.wi x.head
     let region := c.opens src u = true ∧ off < dbSize u ∧ off % 8 = 0 ∧ c.dbBase u % 8 = 0 ∧ c.faulty u 0 0x1044 = false
     pi < 2 ^ 32 ∧
     region ∧
     regionRing u off adm = some (r, true) ∧
     c.reaches src (c.ringOwner r) = true ∧
     reached) ∧
    (let s : State := rS
     let src : Src := .hart 0
     let u : Nat := 23
     let off : Nat := 0x1008
     let pi : Nat := 9
     let c := s.chip
     let adm := if src = .pf1 then 1 else 0
     let region := c.opens src u = true ∧ off < dbSize u ∧ off % 8 = 0 ∧ c.dbBase u % 8 = 0 ∧ c.faulty u 0 0x1044 = false
     pi < 2 ^ 32 ∧
     region ∧
     regionRing u off adm = none) ∧
    (let s : State := pg
     let off : Nat := 0
     let iid : Nat := 0x100
     let pi : Nat := 6
     let r : RingId := .sh 0 3
     let c := s.chip
     let x := c.ring r
     let fits := pi ≠ x.acc ∧ sub32 pi x.acc ≤ c.ringSize r ∧ sub32 pi x.ci ≤ c.ringSize r
     let page := c.pwr.clocks = true ∧ (c.inst iid).st ≠ .absent ∧ off < 4096
     pi < 2 ^ 32 ∧
     page ∧
     off % 16 = 0 ∧
     (let width := 4
     width ≠ 8) ∧
     (c.inst iid).slot iid (off / 16) = some r ∧
     c.ringHears r = true ∧
     fits) ∧
    (let s : State := pg
     let off : Nat := 8
     let iid : Nat := 0x100
     let pi : Nat := 9
     let r : RingId := .sh 0 3
     let c := s.chip
     let x := c.ring r
     let reached := (c.inst (c.ringOwner r)).st ≠ .absent ∧ (c.inst (c.ringOwner r)).st ≠ .resetting ∧ x.en = true ∧
         pi ≠ x.head ∧ sub32 pi x.head ≤ sub32 x.wi x.head
     let page := c.pwr.clocks = true ∧ (c.inst iid).st ≠ .absent ∧ off < 4096
     pi < 2 ^ 32 ∧
     page ∧
     off % 16 = 8 ∧
     (c.inst iid).slot iid (off / 16) = some r ∧
     reached) :=
  ⟨by decide +kernel,
    by decide +kernel,
    by decide +kernel,
    by decide +kernel,
    by decide +kernel⟩

end Mailboxes

namespace RingFetch

def s0 : State := st tChip
def hdr (idx op fl len : Nat) : List Byte := leBytes (op + 256 * fl + 65536 * len) 4 ++ leBytes idx 2 ++ leBytes (65535 - idx) 2
def cp : List Byte := hdr 3 1 0 0 ++ leBytes 0x40000 8 ++ leBytes 0x41000 8 ++ leBytes 100 4 ++ leBytes 0 4
def ring : Ring := { en := true, quiesced := false, acc := 5, ci := 3, wi := 9, head := 7 }
def fS (bs : List Byte) : State := st (withBytes (tRing ring) 0x10060 bs)
def rdS (s : State) := s.chip.instRead 0 0x10060 32
def c2W (s : State) (d : Desc) := ((rdS s).2.addrsOk 0 (descAddrs (.sh 0 3) d)).2
def dp (bs : List Byte) : Desc :=
    { idx := 3, bytes := bs, cmpl := bsNat bs 0 2 / 256 % 4 ≠ 0, irq := bsNat bs 0 2 / 512 % 2 = 1, slots := 1 }
def badW := hdr 4 1 0 0 ++ cp.drop 8
def pS : State := st { (fS cp).chip with poison := [0x10040] }
def finW (cm : Bool) (n : Nat) : Desc := { dp cp with fin := some n, cmpl := cm }
def cS (d : Desc) : State := st (tRing {ring with ci := 4, descs := [d]})
def poppedW (s : State) (n : Nat) := ((s.chip.modRing (.sh 0 3) fun x => { x with descs := [] }).countDone (.sh 0 3) n)
def wrt (s : State) (d : Desc) (n : Nat) : Bool × Chip := (poppedW s n).instWrite 0 ((poppedW s n).cringBase (.sh 0 3) + 16 *
    (9 % 16)) (recordBytes 9 16 (d.record n))
def mxD : State := st { (withRegs tChip [(17,0,0x1040,1)]) with funcs := [(0, { msixEn := true, table := [(5, { mask := false })] })] }
def mxE (f : Func) : State := st ({ (withRegs tChip [(17,0,0x1040,1)]) with funcs := [(0, f)] }.modPx 0 fun p =>
  { p with subs := [(0, { up := true })] })
def fu : Func := { msixEn := true, table := [(5, { addr := 0xFEE00000, data := 77, mask := false })] }

theorem meets_LocksErrorsAndMailboxes :
    let s : State := s0
    let src : Src := .hart 0
    let u : Nat := 0
    let sel : Nat := 0x800000
    let c := s.chip
    sel < 2 ^ 24 ∧
    c.takes src u 0x1020 (BitVec.ofNat 32 sel) = true := by
  decide +kernel

theorem meets_RingsFetchAndComplete :
    (let s : State := fS cp
     let r : RingId := .sh 0 3
     let bs : List Byte := cp
     let c1 : Chip := (rdS (fS cp)).2
     let c2 : Chip := c2W (fS cp) (dp cp)
     let c := s.chip
     let x := c.ring r
     let slot := c.ringBase r + 32 * (x.ci % c.ringSize r)
     let good := bsNat bs 4 2 = x.ci % 65536 ∧ bsNat bs 6 2 = 65535 - x.ci % 65536
     let plain : Desc := { idx := x.ci, bytes := bs, cmpl := bsNat bs 0 2 / 256 % 4 ≠ 0, irq := bsNat bs 0 2 / 512 % 2 = 1, slots := 1 }
     (c.recordFaulted r = false ∧
     c.mayFetch r = true ∧
     c.instRead (c.ringOwner r) slot 32 = (.ok bs false, c1) ∧
     good ∧
     1 ≤ plain.opcode ∧
     plain.opcode ≤ 4 ∧
     1 ≤ sub32 x.acc x.ci ∧
     shFields { plain with bytes := bs ++ [] } = none ∧
     c1.addrsOk (c.ringOwner r) (descAddrs r { plain with bytes := bs ++ [] }) = (true, c2)) ∧
     (∃ e n, r = .sh e n)) ∧
    (let s : State := fS badW
     let r : RingId := .sh 0 3
     let bs : List Byte := badW
     let c1 : Chip := (rdS (fS badW)).2
     let c := s.chip
     let x := c.ring r
     let slot := c.ringBase r + 32 * (x.ci % c.ringSize r)
     let good := bsNat bs 4 2 = x.ci % 65536 ∧ bsNat bs 6 2 = 65535 - x.ci % 65536
     c.recordFaulted r = false ∧
     c.mayFetch r = true ∧
     c.instRead (c.ringOwner r) slot 32 = (.ok bs false, c1) ∧
     (¬ good)) ∧
    (let s : State := pS
     let r : RingId := .sh 0 3
     let bs : List Byte := cp
     let c1 : Chip := (rdS pS).2
     let c := s.chip
     let x := c.ring r
     let slot := c.ringBase r + 32 * (x.ci % c.ringSize r)
     c.recordFaulted r = false ∧
     c.mayFetch r = true ∧
     c.instRead (c.ringOwner r) slot 32 = (.ok bs true, c1)) ∧
    (let s : State := cS (finW false 0)
     let r : RingId := .sh 0 3
     let d : Desc := finW false 0
     let c := s.chip
     let x := c.ring r
     c.recordFaulted r = false ∧
     (c.inst (c.ringOwner r)).st = .active ∧
     x.held = [] ∧
     x.descs = [d] ∧
     d.fin = some 0 ∧
     d.cmpl = false) ∧
    (let s : State := cS (finW true 0)
     let r : RingId := .sh 0 3
     let c1 : Chip := (wrt (cS (finW true 0)) (finW true 0) 0).2
     let d : Desc := finW true 0
     let st : Nat := 0
     let c := s.chip
     let x := c.ring r
     let popped := (c.modRing r fun x => { x with descs := [] }).countDone r st
     c.recordFaulted r = false ∧
     (c.inst (c.ringOwner r)).st = .active ∧
     x.held = [] ∧
     x.descs = [d] ∧
     d.fin = some st ∧
     (st ≠ 0 ∨ d.cmpl = true) ∧
     d.irq = false ∧
     x.failed = false ∧
     c.cringFull r = false ∧
     c1.rings = popped.rings ∧
     popped.instWrite (c.ringOwner r) (popped.cringBase r + 16 * (x.wi % popped.cringSize r)) (recordBytes x.wi
         (popped.cringSize r) (d.record st)) = (true, c1)) :=
  ⟨⟨by decide +kernel, ⟨0, 3, rfl⟩⟩,
    by decide +kernel,
    by decide +kernel,
    by decide +kernel,
    by decide +kernel⟩

theorem meets_MsixSendsOrPends :
    (let s : State := mxE fu
     let iid : Nat := 0
     let v : Nat := 5
     let f : Nat := 0
     let c := s.chip
     let x := c.func f
     let e : MsixEnt := Sparse.at x.table {} v
     let open_ := x.msixEn = true ∧ x.fmask = false ∧ e.mask = false
     let awake := (Sparse.at (c.px 0).subs {} 0 : Sub).up = true ∧ (Sparse.at (c.px 0).subs {} 0 : Sub).l1 = 0
     c.vecFunc iid = f ∧
     (c.inst iid).st ≠ .stopped ∧
     (let rid := 0
     open_ ∧
     c.dmaOf f = .host rid ∧
     awake) ∧
     x.pba.contains v = false) ∧
    (let s : State := mxE {fu with fmask := true, pba := [5]}
     let iid : Nat := 0
     let v : Nat := 5
     let f : Nat := 0
     let c := s.chip
     let x := c.func f
     let e : MsixEnt := Sparse.at x.table {} v
     let open_ := x.msixEn = true ∧ x.fmask = false ∧ e.mask = false
     let awake := (Sparse.at (c.px 0).subs {} 0 : Sub).up = true ∧ (Sparse.at (c.px 0).subs {} 0 : Sub).l1 = 0
     c.vecFunc iid = f ∧
     (c.inst iid).st ≠ .stopped ∧
     (¬ open_) ∧
     (let rid := 0
     x.pba.contains v = true ∧
     (c.inst f).st ≠ .stopped ∧
     c.dmaOf f = .host rid ∧
     awake)) ∧
    (let s : State := mxD
     let iid : Nat := 0
     let v : Nat := 5
     let f : Nat := 0
     let c := s.chip
     let x := c.func f
     let e : MsixEnt := Sparse.at x.table {} v
     let open_ := x.msixEn = true ∧ x.fmask = false ∧ e.mask = false
     let awake := (Sparse.at (c.px 0).subs {} 0 : Sub).up = true ∧ (Sparse.at (c.px 0).subs {} 0 : Sub).l1 = 0
     c.vecFunc iid = f ∧
     (c.inst iid).st ≠ .stopped ∧
     (let rid := 0
     open_ ∧
     c.dmaOf f = .host rid ∧
     ¬ awake)) :=
  ⟨by decide +kernel,
    by decide +kernel,
    by decide +kernel⟩

end RingFetch

namespace Homes

def dl : Line := 0x0123456789ABCDEF0011223344556677
def l3l : L3Line := { line := 0x40, dirty := true, data := dl }
def m0 : Msg := { kind := .ack, src := .core 5, dst := .home 64, line := 0x40 }
def hS (f : Home → Home) : State := st (tMem.modHome 64 f)
def l3k := 32 * 0x40
def de (stt : DirState) (p : List Nat) : DirEnt := { line := 0x40, st := stt, ptrs := p }
def dkey := 0x40 * 16
def L3 (h : Home) : Home := { h with l3 := [(l3k, l3l)] }
def D (e : DirEnt) (h : Home) : Home := { h with dir := [(dkey, e)] }
def wbm (k : MsgKind) : Msg :=
    { kind := .wbData, src := .core 5, dst := .home 64, line := 0x40, data := dl, mask := BitVec.allOnes 64 }
def pn : Pen := Pen.opened 0x40 .f64Add dl false 0
def rmW : Msg := { m0 with mode := .f64Add, data := 0x3FF0000000000000, mask := BitVec.allOnes 64 }
def pn1 := pn.apply {rmW with kind := .redOp} 1
def penH (h : Home) : Home := { h with pens := [(2, pn1)], l3 := [(l3k, {l3l with pen := true})] }
def tw : Txn := { line := 0x40, req := {rmW with kind := .redOp}, stage := .waitPen }

theorem meets_HomeGrantsReads :
    (let s : State := hS L3
     let i : Nat := 64
     let r : Nat := 5
     let m : Msg := m0
     let l : L3Line := l3l
     let c := s.chip
     let q (j : MsgKind) : Msg := { m with kind := j }
     let uncached := (c.home i).dirFind m.line = none ∧ ((c.home i).dirWay (homeSet m.line)).isSome = true
     let held := (c.home i).l3Data m.line = some l
     m.src = .core r ∧
     m.zero = false ∧
     (c.home i).openPen m.line = none ∧
     c.homeFree i (q .rdShared) = true ∧
     uncached ∧
     held ∧
     c.homeFree i (q .rdOwn) = true ∧
     c.homeFree i (q .rdOnce) = true ∧
     m.maint = .none ∧
     (c.home i).dirFind m.line = none ∧
     c.homeFree i (q .ncRd) = true) ∧
    (let s : State := hS (D (de .exclusive [7]))
     let i : Nat := 64
     let r : Nat := 5
     let m : Msg := m0
     let k : Nat := dkey
     let x : Nat := 7
     let e : DirEnt := de .exclusive [7]
     let c := s.chip
     let q (j : MsgKind) : Msg := { m with kind := j }
     let owned := (c.home i).dirFind m.line = some (k, e) ∧ e.owner = some x
     m.src = .core r ∧
     m.zero = false ∧
     (c.home i).openPen m.line = none ∧
     c.homeFree i (q .rdShared) = true ∧
     owned ∧
     c.homeFree i (q .rdOwn) = true ∧
     e.st = .exclusive) ∧
    (let s : State := hS (D (de .shared [5]))
     let i : Nat := 64
     let r : Nat := 5
     let m : Msg := m0
     let k : Nat := dkey
     let e : DirEnt := de .shared [5]
     let c := s.chip
     let q (j : MsgKind) : Msg := { m with kind := j }
     m.src = .core r ∧
     m.zero = false ∧
     (c.home i).openPen m.line = none ∧
     c.homeFree i (q .upgrade) = true ∧
     (c.home i).dirFind m.line = some (k, e) ∧
     e.lists r = true ∧
     e.st ≠ .exclusive ∧
     c.holders e [r] = []) :=
  ⟨by decide +kernel,
    by decide +kernel,
    by decide +kernel⟩

theorem meets_HomeTakesPutsAndReductions :
    (let s : State := hS fun h => L3 ({h with slots := [(5, wbm .wbData)]})
     let i : Nat := 64
     let r : Nat := 5
     let m : Msg := m0
     let wb : Msg := wbm .wbData
     let n : Nat := 0
     let o : L3Line := l3l
     let c := s.chip
     let hm := c.home i
     let q (j : MsgKind) : Msg := { m with kind := j }
     let put := hm.openPen m.line = none ∧ Sparse.find hm.slots r = some wb ∧ wb.line = m.line
     let room := hm.freePen = some n ∧ hm.penOf m.line = none ∧ hm.spilled m.line = none ∧ hm.l3Data m.line = some o
     m.src = .core r ∧
     c.homeFree i (q .putDirty) = true ∧
     put ∧
     hm.dirFind m.line = none ∧
     c.homeFree i (q .putClean) = true ∧
     c.homeFree i (q .ncWr) = true ∧
     hm.openPen m.line = none ∧
     c.homeFree i (q .redOp) = true ∧
     m.red ≠ .close ∧
     room) ∧
    (let s : State := hS fun h => L3 (D (de .exclusive [5]) {h with slots := [(5, wbm .wbData)]})
     let i : Nat := 64
     let r : Nat := 5
     let m : Msg := m0
     let wb : Msg := wbm .wbData
     let k : Nat := dkey
     let e : DirEnt := de .exclusive [5]
     let c := s.chip
     let hm := c.home i
     let q (j : MsgKind) : Msg := { m with kind := j }
     let put := hm.openPen m.line = none ∧ Sparse.find hm.slots r = some wb ∧ wb.line = m.line
     let owns := hm.dirFind m.line = some (k, e) ∧ e.st = .exclusive ∧ e.ptrs = [r] ∧ m.keep = false ∧ m.discard = false
     m.src = .core r ∧
     c.homeFree i (q .putDirty) = true ∧
     put ∧
     owns ∧
     (hm.l3Find m.line).isSome = true ∧
     c.homeFree i (q .putClean) = true) ∧
    (let s : State := hS penH
     let i : Nat := 64
     let r : Nat := 5
     let m : Msg := rmW
     let n : Nat := 2
     let p : Pen := pn1
     let c := s.chip
     let hm := c.home i
     let q (j : MsgKind) : Msg := { m with kind := j }
     m.src = .core r ∧
     c.homeFree i (q .redOp) = true ∧
     m.red ≠ .close ∧
     hm.penOf m.line = some (n, p) ∧
     p.st = .opened ∧
     p.mode = m.mode ∧
     hm.dirFind m.line = none) ∧
    (let s : State := hS penH
     let i : Nat := 64
     let r : Nat := 5
     let m : Msg := {rmW with red := .close}
     let n : Nat := 2
     let p : Pen := pn1
     let c := s.chip
     let hm := c.home i
     let q (j : MsgKind) : Msg := { m with kind := j }
     m.src = .core r ∧
     c.homeFree i (q .redOp) = true ∧
     m.red = .close ∧
     hm.penOf m.line = some (n, p) ∧
     p.st = .opened ∧
     hm.spilled m.line = none ∧
     (hm.l3Find m.line).isSome = true) ∧
    (let s : State := hS fun h => { h with spill := [(2, pn1)] }
     let i : Nat := 64
     let r : Nat := 5
     let m : Msg := {rmW with red := .close}
     let n : Nat := 2
     let p : Pen := pn1
     let c := s.chip
     let hm := c.home i
     let q (j : MsgKind) : Msg := { m with kind := j }
     m.src = .core r ∧
     c.homeFree i (q .redOp) = true ∧
     m.red = .close ∧
     hm.penOf m.line = none ∧
     hm.spilled m.line = some (n, p) ∧
     hm.closes = []) ∧
    (let s : State := hS fun h => L3 {h with txns := [tw]}
     let i : Nat := 64
     let r : Nat := 5
     let m : Msg := rmW
     let n : Nat := 0
     let o : L3Line := l3l
     let t : Txn := tw
     let c := s.chip
     let hm := c.home i
     let q (j : MsgKind) : Msg := { m with kind := j }
     let room := hm.freePen = some n ∧ hm.penOf m.line = none ∧ hm.spilled m.line = none ∧ hm.l3Data m.line = some o
     m.src = .core r ∧
     hm.txnOf m.line = some t ∧
     t.stage = .waitPen ∧
     t.req = q .redOp ∧
     room ∧
     hm.closes = [] ∧
     hm.drain = []) :=
  ⟨by decide +kernel,
    by decide +kernel,
    by decide +kernel,
    by decide +kernel,
    by decide +kernel,
    by decide +kernel⟩

end Homes

namespace Answers

def dl : Line := 0x0123456789ABCDEF0011223344556677
def lnW (stt : L2State) : L2Line := { line := 0x40, st := stt, data := dl }
def kk := 16 * 0x40 + 2
def cS (l : L2State) (f : Hart → Hart := id) : State := st ((tMem.modHart 0 f).modCore 0 fun k =>
    { k with l2 := [(kk, lnW l)] })
def sm : Msg := { kind := .inval, src := .home 64, dst := .core 0, line := 0x40, req := .core 5 }
def hS (f : Home → Home) : State := st (tMem.modHome 64 f)
def am : Msg := { kind := .ack, src := .core 5, dst := .home 64, line := 0x40 }
def tg : Txn := { line := 0x40, req := { am with kind := .rdOwn }, stage := .grant, needAck := true }
def w0 : WbEnt := { line := 0x40, st := .m, data := dl, poison := false, sent := true }
def r0 : L2Req := { line := 0x40, kind := .rdOwn }
def tg2 : Txn := { tg with req := { am with kind := .rdOwn, src := .core 7 }, await := [5], cmpDue := true }
def kS (f : Core → Core) : State := st (tMem.modCore 0 f)
def bm : Msg := { kind := .ack, src := .home 64, dst := .core 0, line := 0x40, data := dl, grant := .m }
def pn : Pen := Pen.opened 0x40 .f64Add dl false 0
def posW : MaintPos := { all := false, set := 0x40, way := 2 }
def mst : MaintSt := { op := 1, pos := posW }
def nm : Msg := { am with kind := .ncWr }
def o0 : L3Line := {line := 0x40, dirty := true, data := dl}
def pos3 : MaintPos := { all := true, set := 0, way := 0 }

theorem meets_SnoopsMoveLines :
    (let s : State := cS .m
     let x : Nat := 0
     let k : Nat := kk
     let m : Msg := sm
     let l : L2Line := lnW .m
     let c := s.chip
     m.dst = .core x ∧
     (c.core x).find m.line = some (k, l) ∧
     (c.core x).buffered m.line = none ∧
     (c.core x).fills = [] ∧
     m.clean = false ∧
     m.once = false ∧
     c.resvHolds x m.line = false ∧
     (m.rcl = false ∨ l.st.dirty = false)) ∧
    (let s : State := cS .m fun h => {h with resv := some 0x40}
     let x : Nat := 0
     let k : Nat := kk
     let m : Msg := sm
     let l : L2Line := lnW .m
     let c := s.chip
     m.dst = .core x ∧
     (c.core x).find m.line = some (k, l) ∧
     (c.core x).buffered m.line = none ∧
     (c.core x).fills = [] ∧
     c.resvHolds x m.line = true) ∧
    (let s : State := cS .o
     let x : Nat := 0
     let k : Nat := kk
     let m : Msg := {sm with rcl := true}
     let l : L2Line := lnW .o
     let c := s.chip
     m.dst = .core x ∧
     (c.core x).find m.line = some (k, l) ∧
     (c.core x).buffered m.line = none ∧
     (c.core x).fills = [] ∧
     c.resvHolds x m.line = false ∧
     m.rcl = true ∧
     l.st.dirty = true) :=
  ⟨by decide +kernel,
    by decide +kernel,
    by decide +kernel⟩

theorem meets_AnswersEndTransactions :
    (let s : State := kS fun k => {k with wb := [w0]}
     let x : Nat := 0
     let m : Msg := bm
     let w : WbEnt := w0
     let c := s.chip
     m.dst = .core x ∧
     (c.core x).pending m.line = none ∧
     (c.core x).wb = [w] ∧
     w.line = m.line ∧
     w.sent = true ∧
     (c.core x).fills = []) ∧
    (let s : State := kS fun k => {k with reqs := [r0]}
     let x : Nat := 0
     let m : Msg := bm
     let r : L2Req := r0
     let c := s.chip
     let fills := m.dst = .core x ∧ (c.core x).pending m.line = some r ∧ r.kind ≠ .ncRd ∧ (c.core x).find m.line = none ∧
         ((c.core x).freeWay (l2Set m.line)).isSome = true ∧ (c.core x).takesFill m.line = true ∧ (m.waitCmp = false ∨ r.gotCmp = true)
     (fills) ∧
     (∃ j, m.src = .home j ∨ m.src = .mc j ∨ m.src = .core j)) ∧
    (let s : State := hS fun h => {h with txns := [tg]}
     let i : Nat := 64
     let m : Msg := am
     let t : Txn := tg
     let c := s.chip
     let hm := c.home i
     m.dst = .home i ∧
     hm.txnOf m.line = some t ∧
     t.stage = .grant ∧
     t.req.src = m.src ∧
     t.needAck = true ∧
     t.await = [] ∧
     t.cmpDue = false ∧
     hm.drain = []) ∧
    (let s : State := hS fun h => {h with txns := [tg2]}
     let i : Nat := 64
     let x : Nat := 5
     let m : Msg := am
     let t : Txn := tg2
     let c := s.chip
     let hm := c.home i
     m.dst = .home i ∧
     m.src = .core x ∧
     (hm.txns.find? fun y => y.blocks m.line) = some t ∧
     t.stage = .grant ∧
     t.req.kind = .rdOwn ∧
     t.await = [x] ∧
     t.cmpDue = true ∧
     t.needAck = true) ∧
    (let s : State := hS id
     let i : Nat := 64
     let x : Nat := 5
     let m : Msg := {am with data := dl, forPut := true}
     let c := s.chip
     let hm := c.home i
     m.dst = .home i ∧
     m.src = .core x ∧
     m.forPut = true ∧
     hm.txnOf m.line = none) ∧
    (let s : State := kS fun k => {k with reqs := [{r0 with kind := .upgrade}], l2 := [(kk, lnW .s)]}
     let x : Nat := 0
     let m : Msg := bm
     let l : L2Line := lnW .s
     let r : L2Req := {r0 with kind := .upgrade}
     let c := s.chip
     m.dst = .core x ∧
     m.src = .home (homeSlice m.line) ∧
     m.err = false ∧
     (c.core x).pending m.line = some r ∧
     r.kind = .upgrade ∧
     r.zero = false ∧
     (c.core x).line m.line = some l) ∧
    (let m : Msg := {am with src := .home 64, dst := .mc 0}
     let n := 0
     m.dst = .mc n ∧
     n < 12) :=
  ⟨by decide +kernel,
    ⟨by decide +kernel, ⟨_, Or.inl rfl⟩⟩,
    by decide +kernel,
    by decide +kernel,
    by decide +kernel,
    by decide +kernel,
    by decide +kernel⟩

theorem meets_QueuesEvictionsAndMaintenance :
    (let s : State := cS .m
     let src : Src := .hart 0
     let i : Nat := 64
     let x : Nat := 0
     let k : Nat := kk
     let line : Nat := 0x40
     let l : L2Line := lnW .m
     let pos : MaintPos := posW
     let c := s.chip
     let l2 (n : Nat) := c.takes src (uCore x) 0x1044 (BitVec.ofNat 32 (maintWord n pos)) = true ∧ pos.way < 16 ∧
         pos.set < 1024 ∧ visitKeys (c.core x).l2 pos 16 0 = [k] ∧ Sparse.find (c.core x).l2 k = some l ∧
         (c.core x).find l.line = some (k, l) ∧ (c.core x).wb = [] ∧ (c.core x).pending l.line = none
     (c.core x).find line = some (k, l) ∧
     l.line = line ∧
     (c.core x).wb = [] ∧
     (c.core x).pending line = none ∧
     x < 200 ∧
     l2 1 ∧
     l.st.dirty = true ∧
     l2 2 ∧
     l2 3 ∧
     i < 100) ∧
    (let s : State := hS fun h => {h with l3 := [(32*0x40, o0)]}
     let src : Src := .hart 0
     let i : Nat := 64
     let k : Nat := 32*0x40
     let o : L3Line := o0
     let pos : MaintPos := pos3
     let c := s.chip
     let hm := c.home i
     let l3 (n : Nat) := c.takes src (uSlice i) 0x1080 (BitVec.ofNat 32 (maintWord n pos)) = true ∧ pos.way < 32 ∧
         pos.set < 2048 ∧ visitKeys hm.l3 pos 32 0 = [k] ∧ Sparse.find hm.l3 k = some o ∧ o.pen = false
     i < 100 ∧
     l3 1 ∧
     o.dirty = true ∧
     l3 2 ∧
     l3 3) ∧
    (let s : State := hS fun h => {h with waitq := [(0x40, [nm])]}
     let i : Nat := 64
     let line : Nat := 0x40
     let m : Msg := nm
     let ms : List Msg := []
     let c := s.chip
     let hm := c.home i
     Sparse.at hm.waitq [] line = m :: ms ∧
     hm.txnOf line = none ∧
     hm.blocked line = false ∧
     m.line = line ∧
     m.kind = .ncWr ∧
     ms.length < 15 ∧
     (({ hm with waitq := Sparse.del hm.waitq line } : Home).poolFor m).isSome = true ∧
     c.isMemory (line * 64) = true ∧
     hm.openPen line = none ∧
     hm.dirFind line = none) ∧
    (let s : State := hS fun h => {h with txns := [tg], ports := [(3, nm)]}
     let i : Nat := 64
     let line : Nat := 0x40
     let m : Msg := nm
     let pt : Nat := 3
     let c := s.chip
     let hm := c.home i
     (Sparse.at hm.waitq [] line).length < 16 ∧
     hm.blocked line = true ∧
     (hm.ports.filter fun e => decide (e.2.line = line)) = [(pt, m)]) ∧
    (let s : State := kS fun k => {k with maint := some mst}
     let x : Nat := 0
     let mt : MaintSt := mst
     let c := s.chip
     x < 200 ∧
     (c.core x).maint = some mt ∧
     visitKeys (c.core x).l2 mt.pos 16 mt.next = []) ∧
    (let s : State := hS fun h => {h with pens := [(2, pn)], l3 := [(32*0x40, {o0 with pen := true})]}
     let src : Src := .hart 0
     let i : Nat := 64
     let k : Nat := 2
     let p : Pen := pn
     let c := s.chip
     let hm := c.home i
     i < 100 ∧
     c.takes src (uSlice i) 0x1100 1 = true ∧
     hm.pens = [(k, p)] ∧
     p.st = .opened ∧
     hm.spill = [] ∧
     hm.blocked p.line = false) :=
  ⟨by decide +kernel,
    by decide +kernel,
    by decide +kernel,
    by decide +kernel,
    by decide +kernel,
    by decide +kernel⟩

/-- Sixteen retries at the present instant. -/
def again : List Nat := List.replicate 16 0

theorem meets_LinksRetryAndSpareWires :
    (let s : State := st { tChip with links := [(0, {retries := again, spared := 1})] }
     let l : LinkId := {unit := 0, num := 0}
     let ws : List Nat := [3]
     let c := s.chip
     (c.link l).down = false ∧
     (c.link l).retiring = false ∧
     16 ≤ (c.recentRetries l).length ∧
     (c.link l).spared + ws.length ≤ 2) ∧
    (let s : State := st { tChip with links := [(21 * 65536 + 3, {retries := 0 :: again, spared := 1})] }
     let l : LinkId := {unit := 21, num := 3}
     let ws : List Nat := [3, 4]
     let c := s.chip
     (c.link l).down = false ∧
     (c.link l).retiring = false ∧
     16 ≤ (c.recentRetries l).length ∧
     2 < (c.link l).spared + ws.length ∧
     linkEdge40 l = true ∧
     c.edge40Clear = true) ∧
    (let s : State := st { tChip with
       links := [(21 * 65536 + 3, {retries := again, spared := 1})]
       mesh := [{ kind := .ncRd, src := .core 0, dst := .unit 21, line := 0 }] }
     let l : LinkId := {unit := 21, num := 3}
     let ws : List Nat := [3, 4]
     let c := s.chip
     (c.link l).down = false ∧
     (c.link l).retiring = false ∧
     16 ≤ (c.recentRetries l).length ∧
     2 < (c.link l).spared + ws.length ∧
     linkEdge40 l = true ∧
     c.edge40Clear = false) :=
  ⟨by decide +kernel,
    by decide +kernel,
    by decide +kernel⟩

end Answers

namespace Channels

def tr (l : List (Nat × Nat × Nat × Word)) : List (Nat × Nat × Nat × Word) := (5,0,0x1040,0x30000) :: (5,0,0x1058,1) :: l
def cM (f : Mc → Mc) (l : List (Nat × Nat × Nat × Word) := []) : State :=
    st ((withRegs tMem (tr l)).modMc 0 fun m => f { m with logical := [0, 1] })
def rqW : McReq := { msg := { kind := .rdShared, src := .home 64, dst := .mc 0, line := 0x40, req := .core 5 }, loc := 0x40 }
def ww (i : Nat) : McWr := { rank := 0, idx := 2*i, data := BitVec.ofNat 512 (i+1), poison := decide (i = 3) }
def spW (k : Nat) := fun m : Mc => {m with logical := [0,1]}
def cM1 : State := st ((withRegs tMem [(6,0,0x1040,0x70001),(6,0,0x1058,1)]).modMc 1 fun m => { m with logical := [0, 1, 2] })

theorem meets_MemoryChannelsServeAndSpare :
    (let s : State := cM (fun m => {m with queue := [{rqW with loc := 0x41}, rqW]})
     let n : Nat := 0
     let rank : Nat := 0
     let idx : Nat := 0
     let r : McReq := rqW
     let c := s.chip
     let m := c.mc n
     let co := c.coord n r.loc
     m.pause = none ∧
     m.adm = [] ∧
     (if co.sub = 0 then m.drainA else m.drainB) = false ∧
     (m.queue.find? fun q => decide (c.reqBank n q = (co.sub, co.bankNo))) = some r ∧
     r.errs = [] ∧
     m.buffered co.rank co.idx = none ∧
     c.spareState n ≠ 2 ∧
     Sparse.at m.bad [] (memKey n co.rank co.idx) = [] ∧
     c.trained n = true ∧
     idx < 4 ∧
     Sparse.at m.refIdx 0 rank = idx ∧
     c.ranksPresent n / 2 ^ rank % 2 = 1 ∧
     c.regFld (uMc n) 0 0x1054 8 8 = 1 ∧
     c.faulty (uMc n) 0 0x1054 = false ∧
     m.patrol + 1 < m.logical.length * c.rankLines n ∧
     Sparse.at m.bad [] (memKey n (c.coord n m.patrol).rank (c.coord n m.patrol).idx) = [] ∧
     (Sparse.at m.ranks {} rank).cap < 2) ∧
    (let s : State := cM (fun m => {m with wbufA := (List.range 20).map ww, drainA := true})
     let n : Nat := 0
     let c := s.chip
     let m := c.mc n
     m.drainA = true ∧
     c.mem.wf = true) ∧
    (let s : State := cM (fun m => { spW 0 m with trig := [(1, .ceThreshold)] }) [(5,0,0x1040,0x70000),(5,0,0x1044,0xA),(5,0,0x1048,1)]
     let src : Src := .bellwether
     let n : Nat := 0
     let rank : Nat := 1
     let c := s.chip
     n < 12 ∧
     rank < 8 ∧
     c.spareState n = 1 ∧
     rank ∈ c.activeRanks n ∧
     (let cause := .ceThreshold
     (rank, cause) ∈ (c.mc n).trig) ∧
     (∀ t ∈ (c.mc n).trig, rank ≤ t.1) ∧
     c.takes src (uMc n) 0x1048 (BitVec.ofNat 32 (rank * 2 ^ 16 + 2 ^ 19)) = true) ∧
    (let s : State := cM (fun m => {m with cp := 8}) [(5,0,0x1040,0x70000),(5,0,0x1044,0xA),(5,0,0x1048,0x12)]
     let n : Nat := 0
     let rank : Nat := 1
     let c := s.chip
     let m := c.mc n
     let lr := (m.logical.findIdx? (· = c.spareSource n)).getD 0
     let co := c.coord n (lr * c.rankLines n + m.cp)
     n < 12 ∧
     rank < 8 ∧
     c.spareState n = 2 ∧
     m.cp < c.rankLines n ∧
     m.buffered (c.spareSource n) co.idx = none ∧
     Sparse.at m.bad [] (memKey n (c.spareSource n) co.idx) = [] ∧
     (c.rawLine (memKey n (c.spareSource n) co.idx)).2 = false ∧
     c.wrUsed n (m.cp % 2) < 64 ∧
     (m.cp + 1) % 2 ^ 20 ≠ 0) ∧
    (let s : State := cM (fun m => {m with cp := 2^29}) [(5,0,0x1040,0x70000),(5,0,0x1044,0xA),(5,0,0x1048,0x12)]
     let n : Nat := 0
     let rank : Nat := 1
     let c := s.chip
     let m := c.mc n
     n < 12 ∧
     rank < 8 ∧
     c.spareState n = 2 ∧
     c.rankLines n ≤ m.cp ∧
     c.spareSource n < 8) ∧
    (let s : State := cM1
     let src : Src := .hart 0
     let n : Nat := 1
     let rank : Nat := 1
     let v : Word := 0xA
     let c := s.chip
     n < 12 ∧
     rank < 8 ∧
     c.takes src (uMc n) 0x1044 v = true) :=
  ⟨by decide +kernel,
    by decide +kernel,
    by decide +kernel,
    by decide +kernel,
    by decide +kernel,
    by decide +kernel⟩

end Channels

namespace Frames

def eC (l : List (Nat × Nat × Nat × Word)) (f : EthPort → EthPort := id) : Chip := (withRegs tMem l).modEth 0 f
def eS (l : List (Nat × Nat × Nat × Word)) (f : EthPort → EthPort := id) : State := st (eC l f)
def upW : List (Nat × Nat × Nat × Word) := [(21,0,0x1044,3), (21,0,0x1048,0x101), (21,0,0x1040,1)]
def pkt (n : Nat) : List Byte := [0,1,2,3,4,5, 6,7,8,9,10,11, 8,0, 0x45,0,0,50, 0,0,0,0, 64,6,0,0, 10,0,0,1, 10,0,0,2] ++
    (List.range (n-34)).map (BitVec.ofNat 8)
def rxd (len pay : Nat) : List Byte := leBytes (0x20 + 256 + 65536 * len) 4 ++ leBytes 0 2 ++ leBytes 65535 2 ++
    leBytes 0x40000 8 ++ leBytes 0x50000 8 ++ leBytes pay 4 ++ leBytes 0 4
def desc (bs : List Byte) : Desc :=
    { idx := 0, bytes := bs, cmpl := bsNat bs 0 2 / 256 % 4 ≠ 0, irq := bsNat bs 0 2 / 512 % 2 = 1, slots := 1 }
def rcfg (x : Word) : List (Nat × Nat × Nat × Word) := [(28,0,0x1098,0x440 ||| x), (28,0,0x10A0,0x10000),(28,0,0x10A8,0x20000)]
def rS (x : Word) (r : Ring) (f : EthPort → EthPort := id) (fl : FlowTab := {}) : State :=
    st { eC (upW ++ rcfg x) f with rings := [(ringKey (.rx 0), r)], flow := fl }
def rg (ds : List Desc) : Ring := { en := true, quiesced := false, acc := 4, ci := 1, descs := ds }
def hf : HeldFrame := { q := 0, mac := 0, prio := 0, bytes := pkt 80, dsize := 1, info := 5 }
def D1 := desc (rxd 64 64)
def fS (bs : List Byte) : State := st (withBytes (rS 0 { en := true, quiesced := false, acc := 4}).chip 0x10000 bs)
def rdS := (fS (rxd 64 64)).chip.instRead 0 0x10000 32
def adr (op : Nat) : List Byte := leBytes (op) 4 ++ leBytes 0 2 ++ leBytes 65535 2 ++ leBytes 0x40000 8 ++ leBytes 0 16
def rss : List Byte := leBytes 3 4 ++ leBytes 0 2 ++ leBytes 65535 2 ++ [2, 0, 8, 0] ++
    (List.range 8).flatMap (fun i => leBytes (10*i) 2) ++ leBytes 0 4
def mp (n : Nat) : List Byte := List.replicate 10 0 ++ [0xFF, 0xFF] ++ (leBytes n 4).reverse
def rec0 (act : Nat) : List Byte := mp 0x0A000001 ++ mp 0x0A000002 ++ [0x12,0x34,0,80,6,4,0,0,0,0,0,0] ++ leBytes act 4 ++
    leBytes 0 16
def X : FlowRec := match flowRec (rec0 36) false with | some x => x | none => ⟨false,0,0,0,false,0,0,0⟩
def fe : FlowEnt := { udp := false, src := 0, dst := 1, sport := 0x1234, dport := 80, action := 4, owner := 0 }
def slotW (n : Nat) : AddrSlot := { fam6 := false, addr := BitVec.ofNat 128 (0xFFFF00000000 + n), vni := 0, refs := 1 }
def ki := 8 * (flowBuckets fe.key).1
def ft : FlowTab := { ents := [(ki, fe)], slots := [(0, slotW 0x0A000001), (1, slotW 0x0A000002)], order := [(0,0)] }
def aS (d : List Byte) (act : Nat) : State := st
    { withBytes (withRegs tMem [(513,0,0x1088,0x444)]) 0x40000 (rec0 act) with rings := [(ringKey (.adm 0), rg [desc d])], flow := ft }
def ard (s : State) := s.chip.instRead 0 0x40000 64

theorem meets_EthernetLinksAndPauses :
    (let s : State := eS (upW ++ [(21,0,0x1050,0xF7), (21,0,0x1054,0x20001)]) (fun e =>
        {e with xoff := 8, macs := [(0,{paused := 0xF0})]})
     let p : Nat := 0
     let m : Nat := 0
     let prio : Nat := 3
     let c := s.chip
     let u := uEth p
     let pfc := c.regFld u 0 0x1050 16 16 = 0
     p < 2 ∧
     m < 8 ∧
     prio < 8 ∧
     c.unitRuns u = true ∧
     (c.reg u 0 0x1044).getLsbD m = true ∧
     m < c.macCount p ∧
     c.macUp p m = true ∧
     pfc ∧
     (c.eth p).xoff.getLsbD prio = true ∧
     (c.eth p).occupancy (some prio) < c.regFld u 0 0x1054 26 16 * 1024) ∧
    (let s : State := eS (upW ++ [(21,0,0x1050,0x10000)])
     let p : Nat := 0
     let m : Nat := 0
     let prio : Nat := 3
     let c := s.chip
     let u := uEth p
     let pfc := c.regFld u 0 0x1050 16 16 = 0
     p < 2 ∧
     m < 8 ∧
     prio < 8 ∧
     c.macUp p m = true ∧
     (¬ pfc)) :=
  ⟨by decide +kernel,
    by decide +kernel⟩

theorem meets_FramesReachTheirQueues :
    (let s : State := fS (rxd 64 64)
     let p : Nat := 0
     let m : Nat := 0
     let q : Nat := 0
     let bytes : List Byte := pkt 70
     let bs : List Byte := rxd 64 64
     let c1 : Chip := rdS.2
     let c2 : Chip := (rdS.2.addrsOk 0 (descAddrs (.rx 0) D1)).2
     let c := s.chip
     let u := uEth p
     let open_ := c.unitRuns u = true ∧ c.macUp p m = true ∧ (c.reg u 0 0x1044).getLsbD m = true ∧ c.held u = false ∧
         c.held uFlow = false
     let good := 64 ≤ bytes.length + 4 ∧ bytes.length + 4 ≤ c.maxFrame p ∧ (c.eth p).occupancy none + bytes.length ≤ 2 ^ 21
     let pr := parseFrame bytes
     let h := toeplitz c.hashKey (hashInput pr)
     let steered := c.regFld uFlow 0 0x1040 0 0 = 0 ∧ q = Sparse.at c.flow.rss 0 (512 * c.regFld u 0 0x1058 (4 * m + 3) (4 * m)
         + h % 512) ∧ (c.ring (.rx q)).en = true ∧ (c.inst (c.ringOwner (.rx q))).st ≠ .resetting
     let plain : Desc := { idx := (c.ring (.rx q)).ci, bytes := bs, cmpl := bsNat bs 0 2 / 256 % 4 ≠ 0, irq := bsNat bs 0 2 / 512 % 2 = 1, slots := 1 }
     open_ ∧
     good ∧
     steered ∧
     c.startable (.rx q) = none ∧
     c.regFld uFlow q 0x1098 15 15 = 0 ∧
     c.mayFetch (.rx q) = true ∧
     c.instRead (c.ringOwner (.rx q)) (c.ringBase (.rx q) + 32 * ((c.ring (.rx q)).ci % c.ringSize (.rx q))) 32 = (.ok bs
         false, c1) ∧
     bsNat bs 4 2 = (c.ring (.rx q)).ci % 65536 ∧
     bsNat bs 6 2 = 65535 - (c.ring (.rx q)).ci % 65536 ∧
     plain.opcode = 0x20 ∧
     1 ≤ sub32 (c.ring (.rx q)).acc (c.ring (.rx q)).ci ∧
     rxFields { plain with bytes := bs ++ [] } = none ∧
     c1.addrsOk (c.ringOwner (.rx q)) (descAddrs (.rx q) { plain with bytes := bs ++ [] }) = (true, c2)) ∧
    (let s : State := rS 0 (rg [D1])
     let p : Nat := 0
     let m : Nat := 0
     let q : Nat := 0
     let bytes : List Byte := pkt 70
     let d : Desc := D1
     let c := s.chip
     let u := uEth p
     let open_ := c.unitRuns u = true ∧ c.macUp p m = true ∧ (c.reg u 0 0x1044).getLsbD m = true ∧ c.held u = false ∧
         c.held uFlow = false
     let good := 64 ≤ bytes.length + 4 ∧ bytes.length + 4 ≤ c.maxFrame p ∧ (c.eth p).occupancy none + bytes.length ≤ 2 ^ 21
     let pr := parseFrame bytes
     let h := toeplitz c.hashKey (hashInput pr)
     let steered := c.regFld uFlow 0 0x1040 0 0 = 0 ∧ q = Sparse.at c.flow.rss 0 (512 * c.regFld u 0 0x1058 (4 * m + 3) (4 * m)
         + h % 512) ∧ (c.ring (.rx q)).en = true ∧ (c.inst (c.ringOwner (.rx q))).st ≠ .resetting
     open_ ∧
     good ∧
     steered ∧
     (∀ x ∈ (c.eth p).held, x.q ≠ q) ∧
     c.startable (.rx q) = some d) ∧
    (let s : State := rS 0x8000 (rg [])
     let p : Nat := 0
     let m : Nat := 0
     let q : Nat := 0
     let bytes : List Byte := pkt 70
     let c := s.chip
     let u := uEth p
     let open_ := c.unitRuns u = true ∧ c.macUp p m = true ∧ (c.reg u 0 0x1044).getLsbD m = true ∧ c.held u = false ∧
         c.held uFlow = false
     let good := 64 ≤ bytes.length + 4 ∧ bytes.length + 4 ≤ c.maxFrame p ∧ (c.eth p).occupancy none + bytes.length ≤ 2 ^ 21
     let pr := parseFrame bytes
     let h := toeplitz c.hashKey (hashInput pr)
     let steered := c.regFld uFlow 0 0x1040 0 0 = 0 ∧ q = Sparse.at c.flow.rss 0 (512 * c.regFld u 0 0x1058 (4 * m + 3) (4 * m)
         + h % 512) ∧ (c.ring (.rx q)).en = true ∧ (c.inst (c.ringOwner (.rx q))).st ≠ .resetting
     open_ ∧
     good ∧
     steered ∧
     c.startable (.rx q) = none ∧
     c.regFld uFlow q 0x1098 15 15 = 1) ∧
    (let s : State := rS 0x8000 (rg [])
     let p : Nat := 0
     let m : Nat := 0
     let bytes : List Byte := pkt 50
     let c := s.chip
     let u := uEth p
     let open_ := c.unitRuns u = true ∧ c.macUp p m = true ∧ (c.reg u 0 0x1044).getLsbD m = true ∧ c.held u = false ∧
         c.held uFlow = false
     open_ ∧
     bytes.length + 4 < 64) ∧
    (let s : State := rS 0x8000 (rg [])
     let p : Nat := 0
     let m : Nat := 0
     let bytes : List Byte := pkt 2000
     let c := s.chip
     let u := uEth p
     let open_ := c.unitRuns u = true ∧ c.macUp p m = true ∧ (c.reg u 0 0x1044).getLsbD m = true ∧ c.held u = false ∧
         c.held uFlow = false
     open_ ∧
     64 ≤ bytes.length + 4 ∧
     c.maxFrame p < bytes.length + 4) ∧
    (let s : State := rS 0 (rg [D1]) fun e => {e with held := [hf, {hf with q := 3}]}
     let p : Nat := 0
     let q : Nat := 0
     let d : Desc := D1
     let f : HeldFrame := hf
     let c := s.chip
     ((c.eth p).held.find? fun x => x.q = q) = some f ∧
     (c.ring (.rx q)).en = true ∧
     c.startable (.rx q) = some d) ∧
    (let s : State := rS 0 {rg [D1] with en := false} fun e => {e with held := [hf, {hf with q := 3}]}
     let p : Nat := 0
     let q : Nat := 0
     let f : HeldFrame := hf
     let c := s.chip
     ((c.eth p).held.find? fun x => x.q = q) = some f ∧
     (c.ring (.rx q)).en = false) :=
  ⟨by decide +kernel,
    by decide +kernel,
    by decide +kernel,
    by decide +kernel,
    by decide +kernel,
    by decide +kernel,
    by decide +kernel⟩

theorem meets_AdminDescriptorsChangeSteering :
    (let s : State := aS (adr 1) 36
     let iid : Nat := 0
     let i : Nat := ki
     let k : Nat := fe.key
     let q : Nat := 9
     let d : Desc := desc (adr 1)
     let bs : List Byte := rec0 36
     let c1 : Chip := (ard (aS (adr 1) 36)).2
     let x : FlowRec := X
     let e : FlowEnt := fe
     let c := s.chip
     let r := RingId.adm iid
     let next (op : Nat) := c.startable r = some d ∧ d.opcode = op ∧ c.flow.order.head? = some (iid, d.idx)
     let read := c.instRead iid (d.fld 8 8) 64 = (.ok bs false, c1)
     let found := c1.flow.keyOf x.v6 x.src x.dst x.vni x.udp x.sport x.dport = some k ∧ c1.flow.find k = some (i, e) ∧
         (iid = 0 ∨ e.owner = iid)
     next 1 ∧
     read ∧
     flowRec bs false = some x ∧
     c1.queueGlobal iid (x.action / 4 % 8192) = some q ∧
     found) ∧
    (let s : State := aS (adr 1) 3
     let iid : Nat := 0
     let d : Desc := desc (adr 1)
     let bs : List Byte := rec0 3
     let c1 : Chip := (ard (aS (adr 1) 3)).2
     let c := s.chip
     let r := RingId.adm iid
     let next (op : Nat) := c.startable r = some d ∧ d.opcode = op ∧ c.flow.order.head? = some (iid, d.idx)
     let read := c.instRead iid (d.fld 8 8) 64 = (.ok bs false, c1)
     next 1 ∧
     read ∧
     flowRec bs false = none) ∧
    (let s : State := aS (adr 2) 36
     let iid : Nat := 0
     let i : Nat := ki
     let k : Nat := fe.key
     let d : Desc := desc (adr 2)
     let bs : List Byte := rec0 36
     let c1 : Chip := (ard (aS (adr 2) 36)).2
     let x : FlowRec := X
     let e : FlowEnt := fe
     let c := s.chip
     let r := RingId.adm iid
     let next (op : Nat) := c.startable r = some d ∧ d.opcode = op ∧ c.flow.order.head? = some (iid, d.idx)
     let read := c.instRead iid (d.fld 8 8) 64 = (.ok bs false, c1)
     let found := c1.flow.keyOf x.v6 x.src x.dst x.vni x.udp x.sport x.dport = some k ∧ c1.flow.find k = some (i, e) ∧
         (iid = 0 ∨ e.owner = iid)
     next 2 ∧
     read ∧
     flowRec bs true = some x ∧
     found) ∧
    (let s : State := aS rss 36
     let iid : Nat := 0
     let d : Desc := desc rss
     let c := s.chip
     let r := RingId.adm iid
     let next (op : Nat) := c.startable r = some d ∧ d.opcode = op ∧ c.flow.order.head? = some (iid, d.idx)
     next 3) :=
  ⟨by decide +kernel,
    by decide +kernel,
    by decide +kernel,
    by decide +kernel⟩

end Frames

namespace Queues

def upW : List (Nat × Nat × Nat × Word) := [(21,0,0x1044,1), (21,0,0x1048,0x101)]
def pkt (n : Nat) : List Byte := [0,1,2,3,4,5, 6,7,8,9,10,11, 8,0, 0x45,0,0,50, 0,0,0,0, 64,6,0,0, 10,0,0,1, 10,0,0,2] ++
    (List.range (n-34)).map (BitVec.ofNat 8)
def hd (op len : Nat) : List Byte := leBytes (op + 65536 * len) 4 ++ leBytes 0 2 ++ leBytes 65535 2
def txd (op len : Nat) (x : List Byte) : List Byte := hd op len ++ x
def desc (bs : List Byte) : Desc :=
    { idx := 0, bytes := bs, cmpl := bsNat bs 0 2 / 256 % 4 ≠ 0, irq := bsNat bs 0 2 / 512 % 2 = 1, slots := 1 }
def rg (ds : List Desc) : Ring := { en := true, quiesced := false, acc := 4, ci := 1, descs := ds }
def tS (d : Desc) : State := st
    { withBytes (withBytes (withRegs tMem (upW ++ [(28,8192,0x1098,0x02000440), (28,8192,0x10A0,0x10000),(28,8192,0x10A8,0x20000)])) 0x40000 (pkt 70)) 0x50000 [1,2,3,4,5] with rings := [(ringKey (.tx 0), rg [d])] }
def dfW (s : State) : Sparse Int := ((drrPick (fun q => 1024 * s.chip.regFld uFlow (8192 + q) 0x1098 31 24) (s.chip.txReadyOf 0
    0) (s.chip.mac 0 0).cur (s.chip.mac 0 0).deficit).map (·.2)).getD []
def c0W (s : State) := s.chip.modMac 0 0 fun x => { x with cur := 0, deficit := dfW s }
def f1 := desc (txd 0x10 70 (leBytes 0x40000 8 ++ leBytes 0 16))
def r1 (s : State) := (c0W s).readBuf 0 0x40000 70
def fr (d : Desc) (b : List Byte) := (txFrames d 1522 b).getD []
def f2 := desc (txd 0x11 70 (leBytes 0x40000 8 ++ leBytes 0 4 ++ leBytes 5 4 ++ leBytes 0x50000 8))
def r2 (s : State) := (r1 s).2.2.2.readBuf 0 0x50000 5
def f3W := desc (txd 0x12 20 ((List.range 24).map (BitVec.ofNat 8)))
def midJob (d : Desc) : Desc := { d with started := true, left := [pkt 70, pkt 60] }
def qS (r : RingId) (x : Ring) (l : List (Nat × Nat × Nat × Word) := []) : State :=
    st { withRegs tMem l with rings := [(ringKey r, x)] }
def offW : Ring := { acc := 7, ci := 6 }
def on (ds : List Desc) : Ring := { en := true, quiesced := false, acc := 7, ci := 6, descs := ds }
def ds : List Desc := [{ idx := 4, bytes := [], started := true}, { idx := 5, bytes := [] }]

theorem meets_TransmitHandsFramesToItsMac :
    (let s : State := tS f1
     let q : Nat := 0
     let d : Desc := f1
     let a : List Byte := (r1 (tS f1)).1
     let c1 : Chip := (r1 (tS f1)).2.2.2
     let fs : List (List Byte) := fr f1 (r1 (tS f1)).1
     let df : Sparse Int := dfW (tS f1)
     let c := s.chip
     let r := RingId.tx q
     let p := c.txPort q
     let m := c.txMac q
     let c0 := c.modMac p m fun x => { x with cur := q, deficit := df }
     let turn (op : Nat) := d.opcode = op ∧ c.macUp p m = true ∧
         drrPick (fun q => 1024 * c.regFld uFlow (8192 + q) 0x1098 31 24) (c.txReadyOf p m) (c.mac p m).cur (c.mac p m).deficit
         = some (q, df)
     let starts (op : Nat) := c.txStarted q = none ∧ c.startable r = some d ∧ d.started = false ∧ turn op
     starts 0x10 ∧
     c0.readBuf (c.ringOwner r) (d.fld 8 8) d.length = (a, false, 0, c1) ∧
     txFrames d (c1.maxFrame p) a = some fs) ∧
    (let s : State := tS f2
     let q : Nat := 0
     let d : Desc := f2
     let a : List Byte := (r1 (tS f2)).1
     let b : List Byte := (r2 (tS f2)).1
     let c1 : Chip := (r1 (tS f2)).2.2.2
     let c2 : Chip := (r2 (tS f2)).2.2.2
     let fs : List (List Byte) := fr f2 ((r1 (tS f2)).1 ++ (r2 (tS f2)).1)
     let df : Sparse Int := dfW (tS f2)
     let c := s.chip
     let r := RingId.tx q
     let p := c.txPort q
     let m := c.txMac q
     let c0 := c.modMac p m fun x => { x with cur := q, deficit := df }
     let turn (op : Nat) := d.opcode = op ∧ c.macUp p m = true ∧
         drrPick (fun q => 1024 * c.regFld uFlow (8192 + q) 0x1098 31 24) (c.txReadyOf p m) (c.mac p m).cur (c.mac p m).deficit
         = some (q, df)
     let starts (op : Nat) := c.txStarted q = none ∧ c.startable r = some d ∧ d.started = false ∧ turn op
     starts 0x11 ∧
     c0.readBuf (c.ringOwner r) (d.fld 8 8) d.length = (a, false, 0, c1) ∧
     c1.readBuf (c.ringOwner r) (d.fld 24 8) (d.fld 20 4) = (b, false, 0, c2) ∧
     txFrames d (c2.maxFrame p) (a ++ b) = some fs) ∧
    (let s : State := tS f3W
     let q : Nat := 0
     let d : Desc := f3W
     let fs : List (List Byte) := fr f3W ((f3W.bytes.drop 8).take 20)
     let df : Sparse Int := dfW (tS f3W)
     let c := s.chip
     let r := RingId.tx q
     let p := c.txPort q
     let m := c.txMac q
     let turn (op : Nat) := d.opcode = op ∧ c.macUp p m = true ∧
         drrPick (fun q => 1024 * c.regFld uFlow (8192 + q) 0x1098 31 24) (c.txReadyOf p m) (c.mac p m).cur (c.mac p m).deficit
         = some (q, df)
     let starts (op : Nat) := c.txStarted q = none ∧ c.startable r = some d ∧ d.started = false ∧ turn op
     let inl := (d.bytes.drop 8).take d.length
     starts 0x12 ∧
     txFrames d (c.maxFrame p) inl = some fs) ∧
    (let s : State := tS (midJob f1)
     let q : Nat := 0
     let d : Desc := midJob f1
     let df : Sparse Int := dfW (tS (midJob f1))
     let c := s.chip
     let r := RingId.tx q
     let p := c.txPort q
     let m := c.txMac q
     let turn (op : Nat) := d.opcode = op ∧ c.macUp p m = true ∧
         drrPick (fun q => 1024 * c.regFld uFlow (8192 + q) 0x1098 31 24) (c.txReadyOf p m) (c.mac p m).cur (c.mac p m).deficit
         = some (q, df)
     let goes (op : Nat) := c.txStarted q = some d ∧ d.started = true ∧ turn op
     goes 0x10 ∧
     q < 8192 ∧
     p < 2 ∧
     m < 8 ∧
     (Sparse.find c.rings (ringKey r)).isSome = true) ∧
    (let s : State := tS (midJob f2)
     let q : Nat := 0
     let d : Desc := midJob f2
     let df : Sparse Int := dfW (tS (midJob f2))
     let c := s.chip
     let r := RingId.tx q
     let p := c.txPort q
     let m := c.txMac q
     let turn (op : Nat) := d.opcode = op ∧ c.macUp p m = true ∧
         drrPick (fun q => 1024 * c.regFld uFlow (8192 + q) 0x1098 31 24) (c.txReadyOf p m) (c.mac p m).cur (c.mac p m).deficit
         = some (q, df)
     let goes (op : Nat) := c.txStarted q = some d ∧ d.started = true ∧ turn op
     goes 0x11) ∧
    (let s : State := tS (midJob f3W)
     let q : Nat := 0
     let d : Desc := midJob f3W
     let df : Sparse Int := dfW (tS (midJob f3W))
     let c := s.chip
     let r := RingId.tx q
     let p := c.txPort q
     let m := c.txMac q
     let turn (op : Nat) := d.opcode = op ∧ c.macUp p m = true ∧
         drrPick (fun q => 1024 * c.regFld uFlow (8192 + q) 0x1098 31 24) (c.txReadyOf p m) (c.mac p m).cur (c.mac p m).deficit
         = some (q, df)
     let goes (op : Nat) := c.txStarted q = some d ∧ d.started = true ∧ turn op
     goes 0x12) :=
  ⟨by decide +kernel,
    by decide +kernel,
    by decide +kernel,
    by decide +kernel,
    by decide +kernel,
    by decide +kernel⟩

theorem meets_QueuesEnableDisableAndQuiesce :
    (let s : State := qS (.rx 5) offW
     let src : Src := .hart 0
     let r : RingId := .rx 5
     let q : Nat := 5
     let v : Word := 0
     let c := s.chip
     let c1 := c.selectRing src r
     let en : Nat × Nat := match r with | .rx _ => (uFlow, 0x109C) | .tx _ => (uFlow, 0x109C) | .sh e _ => (uShears e, 0x1058) | .dv d _ => (uDrover d, 0x1064) | .adm _ => (uIm, 0x109C)
     (r ≠ .adm (admInst src) ∧
     c1.ringAt src en.1 en.2 = some r ∧
     c1.takes src en.1 en.2 1 = true ∧
     (c1.ring r).en = false ∧
     (c.ring r).en = false ∧
     (c.ring r).descs = [] ∧
     (c.ring r).held = [] ∧
     r = .rx q ∧
     c1.bankOf uFlow 0x10B0 = q ∧
     c1.takes src uFlow 0x10B0 v = true) ∧
     (∀ e n, (r = .sh e n ∨ r = .dv e n) → e < 2)) ∧
    (let s : State := qS (.tx 5) (on ds)
     let src : Src := .hart 0
     let r : RingId := .tx 5
     let c := s.chip
     let c1 := c.selectRing src r
     let en : Nat × Nat := match r with | .rx _ => (uFlow, 0x109C) | .tx _ => (uFlow, 0x109C) | .sh e _ => (uShears e, 0x1058) | .dv d _ => (uDrover d, 0x1064) | .adm _ => (uIm, 0x109C)
     (r ≠ .adm (admInst src) ∧
     c1.ringAt src en.1 en.2 = some r ∧
     c1.takes src en.1 en.2 0 = true ∧
     (c1.ring r).en = true) ∧
     (∀ e n, (r = .sh e n ∨ r = .dv e n) → e < 2)) ∧
    (let s : State := qS (.adm 0) offW
     let src : Src := .hart 0
     let r : RingId := .adm 0
     let c := s.chip
     let own (b : Nat) : Word := BitVec.ofNat 32 (((c.view src uFlow 0x1040) &&& 0xFFFFFFFD#32).toNat + 2 * b)
     (r = .adm (admInst src) ∧
     (c.ring r).en = false ∧
     c.takes src uFlow 0x1040 (own 1) = true) ∧
     (∀ e n, (r = .sh e n ∨ r = .dv e n) → e < 2)) ∧
    (let s : State := qS (.adm 0) (on ds)
     let src : Src := .hart 0
     let r : RingId := .adm 0
     let c := s.chip
     let own (b : Nat) : Word := BitVec.ofNat 32 (((c.view src uFlow 0x1040) &&& 0xFFFFFFFD#32).toNat + 2 * b)
     (r = .adm (admInst src) ∧
     (c.ring r).en = true ∧
     c.takes src uFlow 0x1040 (own 0) = true) ∧
     (∀ e n, (r = .sh e n ∨ r = .dv e n) → e < 2)) :=
  ⟨⟨by decide +kernel, by rintro e n (h | h) <;> cases h <;> decide⟩,
    ⟨by decide +kernel, by rintro e n (h | h) <;> cases h <;> decide⟩,
    ⟨by decide +kernel, by rintro e n (h | h) <;> cases h <;> decide⟩,
    ⟨by decide +kernel, by rintro e n (h | h) <;> cases h <;> decide⟩⟩

end Queues

namespace Lanes

def hd (op : Nat) : List Byte := leBytes op 4 ++ leBytes 0 2 ++ leBytes 65535 2
def desc (bs : List Byte) : Desc := { idx := 0, bytes := bs, slots := 1, started := true }
def mv (op a b n : Nat) : Desc := desc (hd op ++ leBytes a 8 ++ leBytes b 8 ++ leBytes n 4 ++ leBytes 0 4)
def jS (d : Desc) (f : Engine → Engine := id) : State :=
  st { withBytes (withBytes (tRing { en := true, quiesced := false, acc := 4, ci := 1, descs := [d] }) 0x40000 [1,2,3,4,5,6]) 0x50000 [1,2,9,4,5,6] with engines := [(0, f { lanes := [(2, { job := some (3, 0) })] })] }
def cp := (jS (mv 1 0x40000 0x48000 6)).chip.copyChunks 0 0x40000 0x48000 6
def fl := mv 2 0x1122334455667788 0x48003 6
def fw := (jS fl).chip.writeLines 0 0x48003 ((List.range 6).map fun i => fl.bytes.getD (8 + (0x48003 + i) % 8) 0) false fun _
    => none
def crW (op : Nat) := mv op 0x40000 0 6
def rdW (s : State) (n : Nat) := s.chip.readBuf 0 0x40000 n
def c2W := crW (3 + 2^12)
def coW (n : Nat) := mv 4 0x40000 0x50000 n
def rb (n : Nat) := (rdW (jS (coW n)) n).2.2.2.readBuf 0 0x50000 n
def w0 : Desc := { crW 3 with started := false }
def dS : State := let s := jS w0 fun x => {x with lanes := [(0, {job := some (9,9)})], cur := 3, credit := 2}
  st (withRegs s.chip [(23,3,0x1054,0x02030404), (23,0,0x1040,0x1001)])
def lS := st (withRegs (jS (crW 3) fun x => {x with lanes := [(2, {job := some (3, 0), faulted := true})]}).chip
    [(23,3,0x1054,0x02030404), (23,0,0x1040,0x1001)])

theorem meets_ShearsLanesMoveData :
    (let s : State := jS (mv 1 0x40000 0x48000 6)
     let e : Nat := 0
     let n : Nat := 3
     let l : Nat := 2
     let d : Desc := mv 1 0x40000 0x48000 6
     let c1 : Chip := cp.2.2.2.2
     let c := s.chip
     let r := RingId.sh e n
     let iid := c.ringOwner r
     let job (op : Nat) := c.laneJob e n (fun y => y.opcode = op) = some d ∧ (c.inst iid).st ≠ .resetting ∧
         (c.inst iid).st ≠ .stopped
     let len := d.fld 24 4
     let ln := (c.engine e).lane l
     job 1 ∧
     c.copyChunks iid (d.fld 8 8) (d.fld 16 8) len = (len, len, false, 0, c1) ∧
     ln.retired = false) ∧
    (let s : State := jS fl
     let e : Nat := 0
     let n : Nat := 3
     let d : Desc := fl
     let c1 : Chip := fw.2
     let c := s.chip
     let r := RingId.sh e n
     let iid := c.ringOwner r
     let job (op : Nat) := c.laneJob e n (fun y => y.opcode = op) = some d ∧ (c.inst iid).st ≠ .resetting ∧
         (c.inst iid).st ≠ .stopped
     let len := d.fld 24 4
     let pat := (List.range len).map fun i => d.bytes.getD (8 + (d.fld 16 8 + i) % 8) 0
     job 2 ∧
     c.writeLines iid (d.fld 16 8) pat false (fun _ => none) = (len, c1)) ∧
    (let s : State := jS (crW 3)
     let e : Nat := 0
     let n : Nat := 3
     let d : Desc := crW 3
     let a : List Byte := (rdW (jS (crW 3)) 6).1
     let c1 : Chip := (rdW (jS (crW 3)) 6).2.2.2
     let c := s.chip
     let r := RingId.sh e n
     let iid := c.ringOwner r
     let job (op : Nat) := c.laneJob e n (fun y => y.opcode = op) = some d ∧ (c.inst iid).st ≠ .resetting ∧
         (c.inst iid).st ≠ .stopped
     let len := d.fld 24 4
     let v := crcOf (if d.bflag 11 then poly32 else polyC) (d.fld 16 4) a
     job 3 ∧
     c.readBuf iid (d.fld 8 8) len = (a, false, 0, c1) ∧
     (d.bflag 12 = false ∨ v = d.fld 20 4)) ∧
    (let s : State := jS c2W
     let e : Nat := 0
     let n : Nat := 3
     let d : Desc := c2W
     let a : List Byte := (rdW (jS c2W) 6).1
     let c1 : Chip := (rdW (jS c2W) 6).2.2.2
     let c := s.chip
     let r := RingId.sh e n
     let iid := c.ringOwner r
     let job (op : Nat) := c.laneJob e n (fun y => y.opcode = op) = some d ∧ (c.inst iid).st ≠ .resetting ∧
         (c.inst iid).st ≠ .stopped
     let len := d.fld 24 4
     let v := crcOf (if d.bflag 11 then poly32 else polyC) (d.fld 16 4) a
     job 3 ∧
     c.readBuf iid (d.fld 8 8) len = (a, false, 0, c1) ∧
     d.bflag 12 = true ∧
     v ≠ d.fld 20 4) ∧
    (let s : State := jS (coW 2)
     let e : Nat := 0
     let n : Nat := 3
     let d : Desc := coW 2
     let a : List Byte := (rdW (jS (coW 2)) 2).1
     let b : List Byte := (rb 2).1
     let c1 : Chip := (rdW (jS (coW 2)) 2).2.2.2
     let c2 : Chip := (rb 2).2.2.2
     let c := s.chip
     let r := RingId.sh e n
     let iid := c.ringOwner r
     let job (op : Nat) := c.laneJob e n (fun y => y.opcode = op) = some d ∧ (c.inst iid).st ≠ .resetting ∧
         (c.inst iid).st ≠ .stopped
     let len := d.fld 24 4
     let both := c.readBuf iid (d.fld 8 8) len = (a, false, 0, c1) ∧ c1.readBuf iid (d.fld 16 8) a.length = (b, false, 0, c2) ∧ a.length = b.length
     job 4 ∧
     both ∧
     a = b) ∧
    (let s : State := jS (coW 6)
     let e : Nat := 0
     let n : Nat := 3
     let k : Nat := 2
     let d : Desc := coW 6
     let a : List Byte := (rdW (jS (coW 6)) 6).1
     let b : List Byte := (rb 6).1
     let c1 : Chip := (rdW (jS (coW 6)) 6).2.2.2
     let c2 : Chip := (rb 6).2.2.2
     let c := s.chip
     let r := RingId.sh e n
     let iid := c.ringOwner r
     let job (op : Nat) := c.laneJob e n (fun y => y.opcode = op) = some d ∧ (c.inst iid).st ≠ .resetting ∧
         (c.inst iid).st ≠ .stopped
     let len := d.fld 24 4
     let both := c.readBuf iid (d.fld 8 8) len = (a, false, 0, c1) ∧ c1.readBuf iid (d.fld 16 8) a.length = (b, false, 0, c2) ∧ a.length = b.length
     job 4 ∧
     both ∧
     k < a.length ∧
     k < 2 ^ 32 - 1 ∧
     (∀ i, i < k → a[i]? = b[i]?) ∧
     a[k]? ≠ b[k]?) ∧
    (let s : State := dS
     let e : Nat := 0
     let n : Nat := 3
     let l : Nat := 1
     let cr : Nat := 1
     let d : Desc := w0
     let c := s.chip
     let r := RingId.sh e n
     e < 2 ∧
     c.regFld (uShears e) 0 0x1040 0 0 = 1 ∧
     c.held (uShears e) = false ∧
     c.unitRuns (uShears e) = true ∧
     c.freeLane e = some l ∧
     (c.engine e).cur = n ∧
     (c.engine e).credit = cr + 1 ∧
     n ∈ c.ringsWithWork e ∧
     c.startable r = some d) ∧
    (let s : State := lS
     let e : Nat := 0
     let n : Nat := 3
     let l : Nat := 2
     let w : Nat := 0
     let d : Desc := w0
     let c := s.chip
     let r := RingId.sh e n
     let iid := c.ringOwner r
     let job (op : Nat) := c.laneJob e n (fun y => y.opcode = op) = some d ∧ (c.inst iid).st ≠ .resetting ∧
         (c.inst iid).st ≠ .stopped
     let ln := (c.engine e).lane l
     let j := (3,0)
     ln.retired = false ∧
     ln.faulted = true ∧
     ln.job = some j ∧
     w ≠ l ∧
     w < 16 ∧
     (c.modLane e l fun y => { y with job := none, retired := true }).freeLane e = some w) :=
  ⟨by decide +kernel,
    by decide +kernel,
    by decide +kernel,
    by decide +kernel,
    by decide +kernel,
    by decide +kernel,
    by decide +kernel,
    by decide +kernel⟩

end Lanes

namespace Streams

def hd (op : Nat) : List Byte := leBytes op 4 ++ leBytes 0 2 ++ leBytes 65535 2
def desc (bs : List Byte) : Desc := { idx := 0, bytes := bs, slots := 2, started := true }
def cd (op len cap ctx ix fmt bl l2 off : Nat) : Desc := desc (hd op ++ leBytes 0x40000 8 ++ leBytes 0x50000 8 ++
    leBytes len 4 ++ leBytes cap 4 ++ leBytes ctx 8 ++ leBytes ix 8 ++ leBytes fmt 1 ++ leBytes bl 1 ++ leBytes 0 1 ++
    leBytes l2 1 ++ leBytes 0 4 ++ leBytes off 8)
def jC (src : List Byte) (d : Desc) : Chip :=
  { withBytes (tRing { en := true, quiesced := false, acc := 4, ci := 1, descs := [d] }) 0x40000 src with engines := [(0, { lanes := [(2, { job := some (3, 0) })] })] }
def Z : List Byte := List.replicate 100 7
def st0 : List Byte := [1, 3, 0, 0xFC, 0xFF, 65, 66, 67]
def x0 (c : Chip) (cmp : Bool) (d : Desc) : Option StreamCtx × Chip := c.openCtx 0 cmp d
def dX : StreamCtx := ⟨0,0,true,0,0,0,0,0,0,[],0,0,[],false⟩
def px (c : Chip) (cmp : Bool) (d : Desc) := ((x0 c cmp d).1.getD dX)
def rb (c : Chip) (cmp : Bool) (d : Desc) := (x0 c cmp d).2.readBuf 0 0x40000 (d.fld 24 4)
def enc (c : Chip) (d : Desc) : List Byte := let x := px c true d; (encStream d.format d.level x.total (x.hist ++ (rb c true d).1)).parts.flatten.drop x.out
def wrW (c : Chip) (cmp : Bool) (d : Desc) (new : List Byte) := ((rb c cmp d).2.2.2.writeLines 0 0x50000 new false fun _ =>
    none).2
def E1 := cd 0x10 1 200 0x60000 0 2 0 17 0
def C1 := jC Z E1
def D1 := cd 0x11 8 200 0x60000 0 0 0 17 0
def C2 := jC st0 D1
def decW (c : Chip) (d : Desc) := let x := px c false d; decStream d.format (if d.format = 3 then some (d.fld 51 1) else none) (x.hist ++ (rb c false d).1)
def emm (c : Chip) (d : Desc) := let x := px c false d; emitGuarded x.limit x.ratio (x.out + d.fld 28 4) (decW c d).made [] 0 0
def ctx (cmp : Bool) (left : Nat) (hist : List Byte) (o : Nat) (fmt : Nat) : StreamCtx :=
    { iid := 0, addr := 0x60000, comp := cmp, format := fmt, level := 0, log2 := 17, ratio := 0, limit := 0, left := left, hist := hist, out := o, total := 8, tag := List.replicate 64 0xAA }
def rC (src : List Byte) (d : Desc) (x : StreamCtx) : Chip := { withBytes (jC src d) 0x60000 x.tag with ctxs := [x] }
def D2 := cd (0x11 + 2^11) 3 200 0x60000 0 0 0 17 0
def C3 := rC [65,66,67] D2 (ctx false 3 [1, 3, 0, 0xFC, 0xFF] 0 0)
def E2 := cd (0x10 + 2^11) 1 200 0x60000 0 1 0 17 0
def C4 := rC st0 E2 {ctx true 1 [] 2 1 with total := 1}
def C5 := jC st0 E2
def C6 := jC st0 D2
def E3 := cd 0x10 100 5000 0 0 4 12 0 0
def E4 (len : Nat) : Desc := { cd 0x10 len 20000 0 0x70000 4 0 0 (2^33) with ready := true }
def bS (len : Nat) := jC Z (E4 len)
def b1 (len : Nat) := (bS len).readBuf 0 0x40000 1
def ou (len : Nat) := containerBlock false 0 (2^33) (b1 len).1
def w1 (len : Nat) := ((b1 len).2.2.2.writeLines 0 0x50000 (ou len) false fun _ => none)
def w2 (len : Nat) := ((w1 len).2.writeLines 0 0x70000 (leBytes (2^33) 8 ++ leBytes 0 4 ++
    leBytes (ou len).length 4) false fun _ => none)

theorem meets_CompressionJobsComplete :
    (let s : State := st C1
     let e : Nat := 0
     let n : Nat := 3
     let d : Desc := E1
     let x : StreamCtx := px C1 true E1
     let bs : List Byte := (rb C1 true E1).1
     let new : List Byte := enc C1 E1
     let c1 : Chip := (x0 C1 true E1).2
     let c2 : Chip := (rb C1 true E1).2.2.2
     let c3 : Chip := wrW C1 true E1 (enc C1 E1)
     let c := s.chip
     let r := RingId.sh e n
     let iid := c.ringOwner r
     let live := (c.inst iid).st ≠ .resetting ∧ (c.inst iid).st ≠ .stopped
     let comp (rs : Bool) := live ∧ (if rs then c.laneJob e n (fun y => decide (y.opcode = 0x10) && y.resumes) else
         c.laneJob e n fun y => decide (y.opcode = 0x10) && !y.resumes && !y.ready) = some d
     let start (cmp : Bool) := d.stream = true ∧ c.openCtx iid cmp d = (some x, c1) ∧ x.poison = false ∧
         c1.readBuf iid (d.fld 8 8) (d.fld 24 4) = (bs, false, 0, c2)
     let m := encStream d.format d.level x.total (x.hist ++ bs)
     let fits := m.parts.flatten.length ≤ x.out + d.fld 28 4 ∧ new = m.parts.flatten.drop x.out
     let written := c2.writeLines iid (d.fld 16 8) new false (fun _ => none) = (new.length, c3)
     comp false ∧
     start true ∧
     fits ∧
     written) ∧
    (let s : State := st C2
     let e : Nat := 0
     let n : Nat := 3
     let d : Desc := D1
     let x : StreamCtx := px C2 false D1
     let bs : List Byte := (rb C2 false D1).1
     let new : List Byte := [65,66,67]
     let used : Nat := (emm C2 D1).2.1
     let c1 : Chip := (x0 C2 false D1).2
     let c2 : Chip := (rb C2 false D1).2.2.2
     let c3 : Chip := wrW C2 false D1 [65,66,67]
     let c := s.chip
     let r := RingId.sh e n
     let iid := c.ringOwner r
     let live := (c.inst iid).st ≠ .resetting ∧ (c.inst iid).st ≠ .stopped
     let deco (rs : Bool) := live ∧ (if rs then c.laneJob e n (fun y => decide (y.opcode = 0x11) && y.resumes) else
         c.laneJob e n fun y => decide (y.opcode = 0x11) && !y.resumes) = some d
     let start (cmp : Bool) := d.stream = true ∧ c.openCtx iid cmp d = (some x, c1) ∧ x.poison = false ∧
         c1.readBuf iid (d.fld 8 8) (d.fld 24 4) = (bs, false, 0, c2)
     let dec := decStream d.format (if d.format = 3 then some (d.fld 51 1) else none) (x.hist ++ bs)
     let whole := ∃ out, emitGuarded x.limit x.ratio (x.out + d.fld 28 4) dec.made [] 0 0 = (out, used, .none) ∧
         dec.err = none ∧ new = out.drop x.out
     let written := c2.writeLines iid (d.fld 16 8) new false (fun _ => none) = (new.length, c3)
     (deco false ∧
     start false ∧
     written) ∧
     whole) ∧
    (let s : State := st C3
     let e : Nat := 0
     let n : Nat := 3
     let d : Desc := D2
     let x : StreamCtx := px C3 false D2
     let bs : List Byte := (rb C3 false D2).1
     let new : List Byte := [65,66,67]
     let used : Nat := (emm C3 D2).2.1
     let c1 : Chip := (x0 C3 false D2).2
     let c2 : Chip := (rb C3 false D2).2.2.2
     let c3 : Chip := wrW C3 false D2 [65,66,67]
     let c := s.chip
     let r := RingId.sh e n
     let iid := c.ringOwner r
     let live := (c.inst iid).st ≠ .resetting ∧ (c.inst iid).st ≠ .stopped
     let deco (rs : Bool) := live ∧ (if rs then c.laneJob e n (fun y => decide (y.opcode = 0x11) && y.resumes) else
         c.laneJob e n fun y => decide (y.opcode = 0x11) && !y.resumes) = some d
     let start (cmp : Bool) := d.stream = true ∧ c.openCtx iid cmp d = (some x, c1) ∧ x.poison = false ∧
         c1.readBuf iid (d.fld 8 8) (d.fld 24 4) = (bs, false, 0, c2)
     let dec := decStream d.format (if d.format = 3 then some (d.fld 51 1) else none) (x.hist ++ bs)
     let whole := ∃ out, emitGuarded x.limit x.ratio (x.out + d.fld 28 4) dec.made [] 0 0 = (out, used, .none) ∧
         dec.err = none ∧ new = out.drop x.out
     let written := c2.writeLines iid (d.fld 16 8) new false (fun _ => none) = (new.length, c3)
     (deco true ∧
     d.stream = true ∧
     start false ∧
     written) ∧
     whole) ∧
    (let s : State := st C4
     let e : Nat := 0
     let n : Nat := 3
     let d : Desc := E2
     let x : StreamCtx := px C4 true E2
     let bs : List Byte := (rb C4 true E2).1
     let new : List Byte := enc C4 E2
     let c1 : Chip := (x0 C4 true E2).2
     let c2 : Chip := (rb C4 true E2).2.2.2
     let c3 : Chip := wrW C4 true E2 (enc C4 E2)
     let c := s.chip
     let r := RingId.sh e n
     let iid := c.ringOwner r
     let live := (c.inst iid).st ≠ .resetting ∧ (c.inst iid).st ≠ .stopped
     let comp (rs : Bool) := live ∧ (if rs then c.laneJob e n (fun y => decide (y.opcode = 0x10) && y.resumes) else
         c.laneJob e n fun y => decide (y.opcode = 0x10) && !y.resumes && !y.ready) = some d
     let start (cmp : Bool) := d.stream = true ∧ c.openCtx iid cmp d = (some x, c1) ∧ x.poison = false ∧
         c1.readBuf iid (d.fld 8 8) (d.fld 24 4) = (bs, false, 0, c2)
     let m := encStream d.format d.level x.total (x.hist ++ bs)
     let fits := m.parts.flatten.length ≤ x.out + d.fld 28 4 ∧ new = m.parts.flatten.drop x.out
     let written := c2.writeLines iid (d.fld 16 8) new false (fun _ => none) = (new.length, c3)
     comp true ∧
     start true ∧
     fits ∧
     written) ∧
    (let s : State := st C5
     let e : Nat := 0
     let n : Nat := 3
     let d : Desc := E2
     let c1 : Chip := (x0 C5 true E2).2
     let c := s.chip
     let r := RingId.sh e n
     let iid := c.ringOwner r
     let live := (c.inst iid).st ≠ .resetting ∧ (c.inst iid).st ≠ .stopped
     let comp (rs : Bool) := live ∧ (if rs then c.laneJob e n (fun y => decide (y.opcode = 0x10) && y.resumes) else
         c.laneJob e n fun y => decide (y.opcode = 0x10) && !y.resumes && !y.ready) = some d
     comp true ∧
     c.openCtx iid true d = (none, c1)) ∧
    (let s : State := st C6
     let e : Nat := 0
     let n : Nat := 3
     let d : Desc := D2
     let c1 : Chip := (x0 C6 false D2).2
     let c := s.chip
     let r := RingId.sh e n
     let iid := c.ringOwner r
     let live := (c.inst iid).st ≠ .resetting ∧ (c.inst iid).st ≠ .stopped
     let deco (rs : Bool) := live ∧ (if rs then c.laneJob e n (fun y => decide (y.opcode = 0x11) && y.resumes) else
         c.laneJob e n fun y => decide (y.opcode = 0x11) && !y.resumes) = some d
     deco true ∧
     c.openCtx iid false d = (none, c1)) ∧
    (let s : State := st (jC Z E3)
     let e : Nat := 0
     let n : Nat := 3
     let d : Desc := E3
     let c := s.chip
     let r := RingId.sh e n
     let iid := c.ringOwner r
     let live := (c.inst iid).st ≠ .resetting ∧ (c.inst iid).st ≠ .stopped
     let comp (rs : Bool) := live ∧ (if rs then c.laneJob e n (fun y => decide (y.opcode = 0x10) && y.resumes) else
         c.laneJob e n fun y => decide (y.opcode = 0x10) && !y.resumes && !y.ready) = some d
     comp false ∧
     d.stream = false) ∧
    (let s : State := st (bS 1)
     let e : Nat := 0
     let n : Nat := 3
     let d : Desc := E4 1
     let bs : List Byte := (b1 1).1
     let c1 : Chip := (b1 1).2.2.2
     let c2 : Chip := (w1 1).2
     let c4 : Chip := (w2 1).2
     let c := s.chip
     let r := RingId.sh e n
     let iid := c.ringOwner r
     let live := (c.inst iid).st ≠ .resetting ∧ (c.inst iid).st ≠ .stopped
     let size := 2 ^ d.fld 49 1
     let len := min size (d.fld 24 4 - d.consumed)
     let out := containerBlock (d.format = 5) d.level ((d.fld 56 8 + d.consumed) % 2 ^ 64) bs
     c.laneJob e n (fun y => y.ready) = some d ∧
     live ∧
     c.readBuf iid (d.fld 8 8 + d.consumed) len = (bs, false, 0, c1) ∧
     d.poison = false ∧
     d.produced + out.length ≤ d.fld 28 4 ∧
     c1.writeLines iid (d.fld 16 8 + d.produced) out false (fun _ => none) = (out.length, c2) ∧
     c2.writeLines iid (d.fld 40 8 + 16 * d.info) (leBytes (d.fld 56 8 + d.consumed) 8 ++ leBytes d.produced 4 ++
         leBytes out.length 4) false (fun _ => none) = (16, c4) ∧
     d.fld 40 8 ≠ 0 ∧
     d.consumed + len = d.fld 24 4) ∧
    (let s : State := st (bS 3)
     let e : Nat := 0
     let n : Nat := 3
     let d : Desc := E4 3
     let bs : List Byte := (b1 3).1
     let c1 : Chip := (b1 3).2.2.2
     let c2 : Chip := (w1 3).2
     let c4 : Chip := (w2 3).2
     let c := s.chip
     let r := RingId.sh e n
     let iid := c.ringOwner r
     let live := (c.inst iid).st ≠ .resetting ∧ (c.inst iid).st ≠ .stopped
     let size := 2 ^ d.fld 49 1
     let len := min size (d.fld 24 4 - d.consumed)
     let out := containerBlock (d.format = 5) d.level ((d.fld 56 8 + d.consumed) % 2 ^ 64) bs
     c.laneJob e n (fun y => y.ready) = some d ∧
     live ∧
     c.readBuf iid (d.fld 8 8 + d.consumed) len = (bs, false, 0, c1) ∧
     d.poison = false ∧
     d.produced + out.length ≤ d.fld 28 4 ∧
     c1.writeLines iid (d.fld 16 8 + d.produced) out false (fun _ => none) = (out.length, c2) ∧
     c2.writeLines iid (d.fld 40 8 + 16 * d.info) (leBytes (d.fld 56 8 + d.consumed) 8 ++ leBytes d.produced 4 ++
         leBytes out.length 4) false (fun _ => none) = (16, c4) ∧
     d.fld 40 8 ≠ 0 ∧
     d.consumed + len < d.fld 24 4 ∧
     c4.stopping iid = false) :=
  ⟨by decide +kernel,
    ⟨by decide +kernel, ⟨(emm C2 D1).1, by decide +kernel⟩⟩,
    ⟨by decide +kernel, ⟨(emm C3 D2).1, by decide +kernel⟩⟩,
    by decide +kernel,
    by decide +kernel,
    by decide +kernel,
    by decide +kernel,
    by decide +kernel,
    by decide +kernel⟩

end Streams

namespace Drovers

def dC (x : DvCore) (f : Drover → Drover := id) (l : List (Nat × Nat × Nat × Word) := []) : Chip :=
  let c := withRegs tMem ([(25,0,0x1040,1), (25,0,0x1100,0x3),(25,0,0x1108,0)] ++ l)
  { c with units := c.units ++ [(449, {cur := 0, initDone := true})], drovers := [(0, f { cores := [(0, x)], t := 100 })] }
def dS (x : DvCore) (f : Drover → Drover := id) (l : List (Nat × Nat × Nat × Word) := []) : State := st (dC x f l)
def cpu : DvCore := { run := true, x := [(5, 0x12345678), (6, 0xFFFFFFF3)], ldReg := 5, pc := 8, now := 33 }
def rr : DvReg := { rd := 7, rs1 := 5, rs2 := 6 }
def w3 (f3 : Nat) : Nat := 0x33 + 7 * 2^7 + f3 * 2^12 + 5 * 2^15 + 6 * 2^20
def im (w : Nat) : DvCore := { cpu with imem := ({cpu with imem := []}).imem.write 8 (leBytes w 4) }
def mo : DvMem := { reg := 5, rs1 := 6, imm := 4, size := 2 }
def q0 : DvMiss := { reg := 7, pa := 0x40010, size := 2, signed := true }
def wq : DvWq := { core := 0, line := 0x1000, iova := 0x40000, data := 0, mask := 1, opened := 60 }
def at6 (a : Nat) : DvCore := { cpu with x := [(5, 0xABCD8765), (6, BitVec.ofNat 32 a)] }
def tr3 := (dC (at6 0x80040010) (fun y =>
    {y with pfb := [{line := 0x1001, data := none}], cache := [(16, {line := 0x2000, data := 0, lru := 0})]})).dvTranslate 0 0
    0x40010 false
def msW := dS {cpu with miss := some q0} (fun y =>
    {y with pfb := [{line := 0x1001, data := none}], wq := [{wq with line := 9}]})
def msr := readOf ((withBytes msW.chip 0x40010 [0x34,0xF2]).busRead 0x40000 64)
def dr : State := dS {cpu with sq := [(0x40010, 0x40010, [1,2]), (0x40020, 0x40020, [3])]} (fun y =>
    {y with wq := [{wq with closed := true}, {wq with line := 7}], cache := [(0, {line := 0x1000, data := 0, lru := 0})]})
def hd (op : Nat) : List Byte := leBytes op 4 ++ leBytes 0 2 ++ leBytes 65535 2
def de : Desc := { idx := 2, bytes := hd 0x80 ++ (List.range 24).map (BitVec.ofNat 8) }
def tk : Desc := { de with taken := true }
def mta : MaintSt := { op := 3, pos := {all := false, set := 0, way := 0} }
def rng (s : State) (ds : List Desc) : State := st
    { s.chip with rings := [(ringKey (.dv 0 9), {en := true, quiesced := false, acc := 9, ci := 3, descs := ds})] }
def inb := rng (dS {at6 0x10001FE0 with inbox := [(9, 2), (4, 4)]}) [de, {de with idx := 3}]
def r6W : DvReg := { rd := 7, rs1 := 6, rs2 := 8 }
def P0 : MaintPos := {all := false, set := 255, way := 15}
def cmpS := rng (dS {at6 0x10001FF0 with x := (at6 0x10001FF0).x ++ [(8, 0x49)], ldm := ({cpu with imem := []}).imem.write 0x1FF0 (leBytes 5 4 ++ leBytes 7 4 ++ leBytes 8 4 ++ leBytes 9 4)})
    [{de with fin := some 0}, {tk with idx := 3}]
def offc := dS cpu id [(25,0,0x1040,0)]

theorem meets_DroverRegisterInstructions :
    (let s : State := dS (im (w3 0))
     let d : Nat := 0
     let k : Nat := 0
     let r : DvReg := rr
     let c := s.chip
     let x := c.dvCore d k
     c.dvLive d k = true ∧
     x.waiting = false ∧
     x.miss = none ∧
     x.stalled = false ∧
     (let w := w3 0
     let f3 := 0
     x.pc < 0x4000 ∧
     leNat (x.imem.read x.pc 4) = w ∧
     w % 128 = 0x33 ∧
     w / 2 ^ 25 = 0 ∧
     w / 2 ^ 12 % 8 = f3 ∧
     w / 2 ^ 7 % 32 = r.rd ∧
     w / 2 ^ 15 % 32 = r.rs1 ∧
     w / 2 ^ 20 % 32 = r.rs2)) ∧
    (let s : State := dS (im (0x37 + 7 * 2^7 + 0xABCDE000))
     let d : Nat := 0
     let k : Nat := 0
     let r : DvReg := {rr with rd := 7}
     let c := s.chip
     let x := c.dvCore d k
     c.dvLive d k = true ∧
     x.waiting = false ∧
     x.miss = none ∧
     x.stalled = false ∧
     (let w := 0x37 + 7 * 2^7 + 0xABCDE000
     x.pc < 0x4000 ∧
     leNat (x.imem.read x.pc 4) = w ∧
     w % 128 = 0x37 ∧
     w / 2 ^ 7 % 32 = r.rd)) :=
  ⟨by decide +kernel,
    by decide +kernel⟩

theorem meets_DroverMemoryAccesses :
    (let s : State := dS (at6 0x80040010) (fun y =>
        {y with pfb := [{line := 0x1001, data := none}], cache := [(16, {line := 0x2000, data := 0, lru := 0})]})
     let d : Nat := 0
     let k : Nat := 0
     let iova : Nat := 0x40010
     let pa : Nat := 0x40010
     let wr : Bool := true
     let op : DvMem := {mo with imm := 0}
     let r : DvReg := {rr with rs1 := 6}
     let c1 : Chip := tr3.2
     let c := s.chip
     let x := c.dvCore d k
     let a := (((x.getX op.rs1 : Int) + op.imm) % 2 ^ 32).toNat
     let la := x.getX r.rs1
     let ready := c.dvLive d k = true ∧ x.waiting = false ∧ x.miss = none ∧ x.stalled = false
     let there := c.dvAddr d k la = .aperture iova wr ∧ c.dvTranslate d k iova false = (.pa pa, c1)
     ready ∧
     a % op.size = 0 ∧
     c.dvAddr d k a = .aperture iova wr ∧
     x.sq = [] ∧
     c.dvTranslate d k iova false = (.pa pa, c1) ∧
     c1.dvHit d k (pa / 64) = none ∧
     c.dvAddr d k a = .aperture iova true ∧
     x.sq.length < 4 ∧
     c.dvTranslate d k iova true = (.pa pa, c1) ∧
     there ∧
     (c1.drover d).line (pa / 64) = none ∧
     (∀ e ∈ (c1.drover d).pfb, e.line ≠ pa / 64) ∧
     (c1.drover d).pfb.length < 8 ∧
     c1.dvWrites d k (pa / 64) = false) ∧
    (let s : State := dr
     let d : Nat := 0
     let k : Nat := 0
     let n : Nat := 0
     let iova : Nat := 0x40010
     let pa : Nat := 0x40010
     let op : DvMem := mo
     let w : DvWq := {wq with closed := true}
     let bs : List Byte := [1,2]
     let rest : List (Nat × Nat × List Byte) := [(0x40020, 0x40020, [3])]
     let c := s.chip
     let x := c.dvCore d k
     let y := c.drover d
     let a := (((x.getX op.rs1 : Int) + op.imm) % 2 ^ 32).toNat
     let ready := c.dvLive d k = true ∧ x.waiting = false ∧ x.miss = none ∧ x.stalled = false
     ready ∧
     a % op.size ≠ 0 ∧
     x.sq = (pa, iova, bs) :: rest ∧
     y.wq.length < 64 ∧
     (∀ e ∈ y.wq, e.core = k → e.line = pa / 64 → e.closed = true) ∧
     y.wq[n]? = some w ∧
     (w.closed = true ∨ w.opened + 32 ≤ y.t)) ∧
    (let s : State := dS (at6 0x10001FF8)
     let d : Nat := 0
     let k : Nat := 0
     let op : DvMem := mo
     let c := s.chip
     let x := c.dvCore d k
     let a := (((x.getX op.rs1 : Int) + op.imm) % 2 ^ 32).toNat
     let ready := c.dvLive d k = true ∧ x.waiting = false ∧ x.miss = none ∧ x.stalled = false
     ready ∧
     a % op.size = 0 ∧
     0x10000000 ≤ a ∧
     a < 0x10002000) ∧
    (let s : State := st (withBytes msW.chip 0x40010 [0x34,0xF2])
     let d : Nat := 0
     let k : Nat := 0
     let m : DvMiss := q0
     let c1 : Chip := msr.2
     let bs : List Byte := msr.1
     let c := s.chip
     let x := c.dvCore d k
     let y := c.drover d
     x.miss = some m ∧
     m.reg ≠ 0 ∧
     (∀ e ∈ y.wq, e.line ≠ m.pa / 64) ∧
     y.line (m.pa / 64) = none ∧
     c.busRead (64 * (m.pa / 64)) 64 = (.ok bs false, c1)) :=
  ⟨by decide +kernel,
    by decide +kernel,
    by decide +kernel,
    by decide +kernel⟩

theorem meets_DroverControlAndInbox :
    (let s : State := inb
     let src : Src := .hart 0
     let d : Nat := 0
     let k : Nat := 0
     let n : Nat := 9
     let idx : Nat := 2
     let r : DvReg := r6W
     let e : Desc := de
     let rest : List (Nat × Nat) := [(4,4)]
     let pos : MaintPos := P0
     let c := s.chip
     let u := uDrover d
     let x := c.dvCore d k
     let a := x.getX r.rs1
     let ready := c.dvLive d k = true ∧ x.waiting = false ∧ x.miss = none ∧ x.stalled = false
     let ldm (n : Nat) := a % n = 0 ∧ 0x10000000 ≤ a ∧ a + n ≤ 0x10002000
     let sel := c.put32 src u 0x1054 (k + 2 ^ 8 * fld (c.reg u 0 0x1054) 13 8)
     let maint (op : Nat) := c.takes src u 0x1050 (BitVec.ofNat 32 (maintWord op pos)) = true ∧ pos.way < 16 ∧ pos.set < 256
     d < 2 ∧
     k < 32 ∧
     ready ∧
     ldm 32 ∧
     x.inbox = (n, idx) :: rest ∧
     ((c.ring (.dv d n)).descs.find? fun v => v.idx = idx) = some e ∧
     r.rd ≠ 0 ∧
     c.dvLive d k = true ∧
     x.inbox ≠ [] ∧
     x.waiting = false ∧
     sel.bankOf u 0x1058 = k ∧
     sel.takes src u 0x1058 0 = true ∧
     (sel.dvCore d k).run = true ∧
     maint 1 ∧
     maint 2 ∧
     maint 3) ∧
    (let s : State := dS (at6 0x10001FE0)
     let d : Nat := 0
     let k : Nat := 0
     let n : Nat := 9
     let r : DvReg := r6W
     let c := s.chip
     let x := c.dvCore d k
     let a := x.getX r.rs1
     let ready := c.dvLive d k = true ∧ x.waiting = false ∧ x.miss = none ∧ x.stalled = false
     let ldm (n : Nat) := a % n = 0 ∧ 0x10000000 ≤ a ∧ a + n ≤ 0x10002000
     d < 2 ∧
     k < 32 ∧
     ready ∧
     ldm 32 ∧
     x.inbox = [] ∧
     c.dvLive d k = true ∧
     x.stalled = false) ∧
    (let s : State := cmpS
     let d : Nat := 0
     let k : Nat := 0
     let n : Nat := 9
     let idx : Nat := 2
     let r : DvReg := r6W
     let e : Desc := {tk with idx := 3}
     let c := s.chip
     let u := uDrover d
     let x := c.dvCore d k
     let a := x.getX r.rs1
     let ready := c.dvLive d k = true ∧ x.waiting = false ∧ x.miss = none ∧ x.stalled = false
     let ldm (n : Nat) := a % n = 0 ∧ 0x10000000 ≤ a ∧ a + n ≤ 0x10002000
     let rq := x.getX r.rs2 % 64
     let rec16 := x.ldm.read (a - 0x10000000) 16
     d < 2 ∧
     k < 32 ∧
     ready ∧
     ldm 16 ∧
     c.regFld u rq 0x1060 20 16 = k ∧
     ((c.ring (.dv d rq)).descs.find? fun v => v.taken && v.fin.isNone) = some e ∧
     bsNat rec16 0 1 ≤ 0x0E ∧
     c.dvQuiet d k = true ∧
     c.dvPendingRecs d k < 4) ∧
    (let s : State := dS {cpu with run := false}
     let src : Src := .hart 0
     let d : Nat := 0
     let k : Nat := 0
     let c := s.chip
     let u := uDrover d
     let sel := c.put32 src u 0x1054 (k + 2 ^ 8 * fld (c.reg u 0 0x1054) 13 8)
     d < 2 ∧
     k < 32 ∧
     sel.bankOf u 0x1058 = k ∧
     sel.takes src u 0x1058 1 = true ∧
     (sel.dvCore d k).run = false) ∧
    (let s : State := dS cpu (fun y =>
        {y with maint := some mta, cache := [(4095, {line := 0x10FF, data := 0, lru := 0}), (0, {line := 0x1000, data := 0, lru := 0})]})
     let d : Nat := 0
     let k : Nat := 0
     let mt : MaintSt := mta
     let c := s.chip
     let y := c.drover d
     d < 2 ∧
     k < 32 ∧
     y.maint = some mt ∧
     mt.op = 3 ∧
     y.wq = []) ∧
    (let s : State := offc
     let src : Src := .hart 0
     let d : Nat := 0
     let k : Nat := 0
     let c := s.chip
     let u := uDrover d
     d < 2 ∧
     k < 32 ∧
     c.regFld u 0 0x1040 0 0 = 0 ∧
     c.takes src u 0x1040 (c.reg u 0 0x1040 ||| 1#32) = true) :=
  ⟨by decide +kernel,
    by decide +kernel,
    by decide +kernel,
    by decide +kernel,
    by decide +kernel,
    by decide +kernel⟩

end Drovers

namespace Inbound

def upSub : Sub := { up := true, width := 16, speed := 5 }
def win (t : WinType) (b l x : Nat) : Window :=
    { en := true, type := t, sub := 0, pport := 2, psub := 1, base := b, limit := l, xlat := x }
def pC (p : Px) (l : List (Nat × Nat × Nat × Word) := []) : Chip :=
    { withRegs tMem l with pxs := [(1, p), (2, { subs := [(1, upSub)] })] }
def pS (p : Px) (l : List (Nat × Nat × Nat × Word) := []) : State := st (pC p l)
def px0 : Px := { subs := [(0, upSub)] }
def dma : Px := { px0 with wins := [(0, win .inDma 0x8000 0x100000 0x0)] }
def W0 := win .inDma 0x8000 0x100000 0x0
def tw (a : Nat) : Tlp := { port := 1, sub := 0, rid := 0x100, addr := a, bytes := [1,2,3,4,5] }
def td (a : Nat) : Tlp := { port := 1, sub := 0, rid := 0x100, addr := a, len := 5 }
def pw := win .peer 0x8000 0x100000 0x40000
def a1 := W0.map 0x9010
def tr (c : Chip) (a : Nat) (w : Bool) := c.ioTranslate 1 (deviceId 1 0x100) none a w
def c1W := (tr (pC dma) a1 true).2
def c2W := (tr (pC dma) a1 false).2
def rdW := readOf (c2W.busRead (((tr (pC dma) a1 false).1).getD 0) 5)
def offI (c : Chip) : Chip := c.setIo32 0x10 0
def c3W := (tr (offI (pC dma)) a1 true)
def iW := win .inDma 0x8000 0x100000 (0x000F000100000000 + 0x1000 - 0x1000)
def iA := iW.map 0x8000
/-- A window on a hole of the map. -/
def hW := win .inDma 0x8000 0x100000 0x000E100000000000
def c4W := tr (pC {px0 with wins := [(0, iW)]}) iA true

theorem meets_InboundRequestsFollowWindows :
    (let s : State := pS dma
     let t : Tlp := tw 0x10
     let c := s.chip
     let p := t.port
     let open_ (i n : Nat) (d : Chip) : Prop := ((d.px i).subAt n).up = true ∧ ((d.px i).subAt n).l1 = 0
     p < 4 ∧
     c.arrives t = true ∧
     c.inWindow p t.sub t.addr = none ∧
     open_ p t.sub c) ∧
    (let s : State := pS {px0 with wins := [(0, pw)]}
     let t : Tlp := tw 0x8010
     let w : Window := pw
     let c := s.chip
     let p := t.port
     let open_ (i n : Nat) (d : Chip) : Prop := ((d.px i).subAt n).up = true ∧ ((d.px i).subAt n).l1 = 0
     p < 4 ∧
     c.arrives t = true ∧
     c.inWindow p t.sub t.addr = some w ∧
     w.type = .peer ∧
     open_ w.pport w.psub c ∧
     t.ep = false ∧
     (let tag := 0
     (c.px w.pport).freeTag w.psub = some tag)) ∧
    (let s : State := st (offI (pC dma))
     let t : Tlp := tw 0x9010
     let w : Window := W0
     let c1 : Chip := c3W.2
     let c := s.chip
     let p := t.port
     let a := w.map t.addr
     p < 4 ∧
     c.arrives t = true ∧
     c.inWindow p t.sub t.addr = some w ∧
     w.type = .inDma ∧
     c.ioTranslate p (deviceId p t.rid) t.pasid a true = (none, c1) ∧
     t.ep = false ∧
     t.bytes ≠ []) ∧
    (let s : State := pS {px0 with wins := [(0, iW)]}
     let t : Tlp := tw 0x8000
     let w : Window := iW
     let pa : Nat := iA
     let c1 : Chip := c4W.2
     let c := s.chip
     let p := t.port
     let a := w.map t.addr
     p < 4 ∧
     c.arrives t = true ∧
     c.inWindow p t.sub t.addr = some w ∧
     w.type = .inDma ∧
     c.ioTranslate p (deviceId p t.rid) t.pasid a true = (some pa, c1) ∧
     t.ep = false ∧
     c1.region pa = .imsic ∧
     pa % 4096 = 0 ∧
     t.bytes ≠ [] ∧
     a % 4096 + t.bytes.length ≤ 4096) ∧
    (let s : State := pS dma
     let t : Tlp := tw 0x9010
     let w : Window := W0
     let pa : Nat := ((tr (pC dma) a1 true).1).getD 0
     let c1 : Chip := c1W
     let c2 : Chip := (c1W.physWrite (((tr (pC dma) a1 true).1).getD 0) [1,2,3,4,5] false 0 (fun _ => none)).getD tChip
     let c := s.chip
     let p := t.port
     let a := w.map t.addr
     p < 4 ∧
     c.arrives t = true ∧
     c.inWindow p t.sub t.addr = some w ∧
     w.type = .inDma ∧
     c.ioTranslate p (deviceId p t.rid) t.pasid a true = (some pa, c1) ∧
     t.ep = false ∧
     t.bytes ≠ [] ∧
     a % 4096 + t.bytes.length ≤ 4096 ∧
     c1.region pa = .memory ∧
     c1.physWrite pa t.bytes false 0 (fun _ => none) = some c2) ∧
    (let s : State := pS dma
     let t : Tlp := td 0x9010
     let w : Window := W0
     let pa : Nat := ((tr (pC dma) a1 false).1).getD 0
     let c1 : Chip := c2W
     let c2 : Chip := rdW.2
     let bs : List Byte := rdW.1
     let q : Bool := false
     let c := s.chip
     let p := t.port
     let a := w.map t.addr
     p < 4 ∧
     c.arrives t = true ∧
     c.inWindow p t.sub t.addr = some w ∧
     w.type = .inDma ∧
     c.ioTranslate p (deviceId p t.rid) t.pasid a false = (some pa, c1) ∧
     0 < t.len ∧
     a % 4096 + t.len ≤ 4096 ∧
     c1.busRead pa t.len = (.ok bs q, c2)) ∧
    (let s : State := pS { px0 with wins := [(0, hW)] }
     let t : Tlp := tw 0x8000
     let w : Window := hW
     let pa : Nat := 0x000E100000000000
     let c1 : Chip := (tr (pC { px0 with wins := [(0, hW)] }) 0x000E100000000000 true).2
     let c := s.chip
     let p := t.port
     let a := w.map t.addr
     p < 4 ∧
     c.arrives t = true ∧
     c.inWindow p t.sub t.addr = some w ∧
     w.type = .inDma ∧
     c.ioTranslate p (deviceId p t.rid) t.pasid a true = (some pa, c1) ∧
     t.ep = false ∧
     c1.region pa ≠ .imsic ∧
     c1.region pa ≠ .memory) :=
  ⟨by decide +kernel,
    by decide +kernel,
    by decide +kernel,
    by decide +kernel,
    by decide +kernel,
    by decide +kernel,
    by decide +kernel⟩

end Inbound

namespace Outbound

def upSub : Sub := { up := true, width := 16, speed := 5 }
def base1 := 0x000F100000000000 + 0x00003C0000000000
def win (t : WinType) (x : Nat) : Window :=
    { en := true, type := t, sub := 0, pport := 2, psub := 1, base := base1, limit := base1 + 0x100000, xlat := x }
def pC (p : Px) (l : List (Nat × Nat × Nat × Word) := []) : Chip := { withRegs tMem l with pxs := [(1, p)] }
def pS (p : Px) (l : List (Nat × Nat × Nat × Word) := []) (m : List Msg := []) : State := st { pC p l with mesh := m }
def px0 : Px := { subs := [(0, upSub)] }
def mm (k : MsgKind) : Msg :=
    { kind := k, src := .core 5, dst := .unit 18, line := base1 / 64, off := 8, size := 4, data := 0x11223344556677889900 <<< 64 }
def wM := win .outMem 0x4000000
def R0 : NpReq := { sub := 0, tag := 3, who := .mesh (mm .ncRd), len := 4 }
def cfgm (k : MsgKind) : Msg := { mm k with line := (base1 + 0x8000) / 64 }
def wC0 := win .outCfg 0
def R1 : NpReq := {R0 with who := .mesh (mm .ncWr)}
def lS (p : Px) (l : List (Nat × Nat × Nat × Word) := []) : State :=
    st { pC p ([(18,0,0x1040,0x2D),(18,0,0x1044,1)] ++ l) with }
def r7 : RegDef := match regAt (kindOf 18) 0x107C with | some r => r | none => { name := "", off := 0, fields := [] }
def pend : State := st
    { (lS px0 [(18,1,0x105C,0x1)]).chip with ctl := { (lS px0 [(18,1,0x105C,0x1),(18,1,0x1060,0),(18,1,0x1064,0xF4C00),(18,1,0x1068,0x10000),(18,1,0x106C,0xF4C00)]).chip.ctl with pend := [(regKey 18 0 0x1078, 1)] } }
def epS : State := st
    { (lS px0).chip with ctl := (withRegs (lS px0).chip [(17,0,0x1040,1)]).ctl, pxs := [(0, px0)], funcs := [(0,{})], insts := [(0,{st := .active}),(0x100, {st := .active})] }

theorem meets_OutboundRequestsComplete :
    (let s : State := pS {px0 with np := [R0]}
     let port : Nat := 1
     let tag : Nat := 3
     let m : Msg := mm .ncRd
     let r : NpReq := R0
     let c := s.chip
     let pa := m.line * 64 + m.off
     let x := c.px port
     let here := m.dst = .unit (uPx port) ∧ c.unitRuns (uPx port) = true
     port < 4 ∧
     here ∧
     c.outWindow port pa = none ∧
     (m.kind = .ncRd ∨ m.kind = .ncWr) ∧
     (x.np.find? fun q => decide (q.sub = r.sub ∧ q.tag = tag)) = some r ∧
     r.who = .mesh m ∧
     c.unitRuns (uPx port) = true ∧
     (x.subAt r.sub).up = true ∧
     m.kind = .ncRd ∧
     (m.kind = .ncRd ∨ m.kind = .ncWr) ∧
     (¬ (port = 0 ∧ c.endpoint = true)) ∧
     (x.np.filter fun q => decide (q.sub = r.sub)) = [r] ∧
     r.sub < 4) ∧
    (let s : State := pS {px0 with wins := [(0, wM)]}
     let port : Nat := 1
     let tag : Nat := 0
     let m : Msg := mm .ncRd
     let w : Window := wM
     let c := s.chip
     let pa := m.line * 64 + m.off
     let x := c.px port
     let sub := w.sub
     let here := m.dst = .unit (uPx port) ∧ c.unitRuns (uPx port) = true
     let live := (x.subAt sub).up = true ∧ (x.subAt sub).l1 = 0
     port < 4 ∧
     here ∧
     c.outWindow port pa = some w ∧
     w.type = .outMem ∧
     m.kind = .ncRd ∧
     live ∧
     x.freeTag sub = some tag ∧
     (∀ q ∈ x.np, ¬ (q.sub = sub ∧ q.tag = tag)) ∧
     c.unitRuns (uPx port) = true ∧
     (x.subAt sub).up = true) ∧
    (let s : State := pS {px0 with wins := [(0, wM)]} [] [mm .ncWr]
     let port : Nat := 1
     let m : Msg := mm .ncWr
     let w : Window := wM
     let c := s.chip
     let pa := m.line * 64 + m.off
     let x := c.px port
     let sub := w.sub
     let here := m.dst = .unit (uPx port) ∧ c.unitRuns (uPx port) = true
     let live := (x.subAt sub).up = true ∧ (x.subAt sub).l1 = 0
     port < 4 ∧
     here ∧
     c.outWindow port pa = some w ∧
     w.type = .outMem ∧
     m.kind = .ncWr ∧
     live) ∧
    (let s : State := pS {px0 with subs := [], wins := [(0, wM)]}
     let port : Nat := 1
     let m : Msg := mm .ncRd
     let w : Window := wM
     let c := s.chip
     let pa := m.line * 64 + m.off
     let x := c.px port
     let sub := w.sub
     let here := m.dst = .unit (uPx port) ∧ c.unitRuns (uPx port) = true
     port < 4 ∧
     here ∧
     c.outWindow port pa = some w ∧
     w.type = .outMem ∧
     m.kind = .ncRd ∧
     (x.subAt sub).up = false) ∧
    (let s : State := pS {px0 with subs := [], wins := [(0, wC0)]}
     let port : Nat := 1
     let m : Msg := cfgm .ncRd
     let w : Window := wC0
     let c := s.chip
     let pa := m.line * 64 + m.off
     let here := m.dst = .unit (uPx port) ∧ c.unitRuns (uPx port) = true
     port < 4 ∧
     here ∧
     c.outWindow port pa = some w ∧
     w.type = .outCfg ∧
     (pa - w.base) / 2 ^ 20 % 256 = w.xlat % 256 ∧
     (pa - w.base) / 2 ^ 15 % 32 ≠ 0 ∧
     m.kind = .ncRd) ∧
    (let s : State := pS {px0 with subs := [], wins := [(0, wC0)]}
     let port : Nat := 1
     let m : Msg := cfgm .ncWr
     let w : Window := wC0
     let c := s.chip
     let pa := m.line * 64 + m.off
     let here := m.dst = .unit (uPx port) ∧ c.unitRuns (uPx port) = true
     port < 4 ∧
     here ∧
     c.outWindow port pa = some w ∧
     w.type = .outCfg ∧
     (pa - w.base) / 2 ^ 20 % 256 = w.xlat % 256 ∧
     (pa - w.base) / 2 ^ 15 % 32 ≠ 0 ∧
     m.kind = .ncWr) ∧
    (let s : State := pS {px0 with np := [R1], sent := [{sub := 0, tag := 3, kind := .cfgWrite0, addr := 0}]}
     let port : Nat := 1
     let tag : Nat := 3
     let m : Msg := mm .ncWr
     let r : NpReq := R1
     let c := s.chip
     let x := c.px port
     port < 4 ∧
     (x.np.find? fun q => decide (q.sub = r.sub ∧ q.tag = tag)) = some r ∧
     r.who = .mesh m ∧
     c.unitRuns (uPx port) = true ∧
     (x.subAt r.sub).up = true ∧
     m.kind = .ncWr) :=
  ⟨by decide +kernel,
    by decide +kernel,
    by decide +kernel,
    by decide +kernel,
    by decide +kernel,
    by decide +kernel,
    by decide +kernel⟩

theorem meets_LinksTrainAndSleep :
    (let s : State := lS {px0 with subs := [(0, {upSub with l1 := 1})]} [(18,0,0x1050,0x700)]
     let src : Src := .hart 0
     let port : Nat := 1
     let sub : Nat := 0
     let width : Nat := 4
     let speed : Nat := 5
     let level : Nat := 3
     let c := s.chip
     let u := uPx port
     let x := c.px port
     let y := x.subAt sub
     let lanes := (c.sublinks port).getD sub 0
     let bits (d : Chip) (hi lo : Nat) : Nat := d.regFld u 0 0x1048 hi lo
     port < 4 ∧
     sub < 4 ∧
     c.takes src u 0x1044 (c.reg u 0 0x1044 ||| 2) = true ∧
     sub < (c.sublinks port).length ∧
     c.unitRuns u = true ∧
     c.regFld u 0 0x1044 0 0 = 1 ∧
     0 < width ∧
     width ≤ lanes ∧
     speed ≤ c.regFld u 0 0x1040 5 3 ∧
     (¬ (port = 0 ∧ c.endpoint = true ∧ c.pwr.perst0 = true)) ∧
     speed < 8 ∧
     width < 32 ∧
     (¬ (port = 0 ∧ c.endpoint = true)) ∧
     y.up = true ∧
     (∀ q ∈ x.np, q.sub ≠ sub) ∧
     fld (c.reg u 0 0x1050) 8 8 = 1 ∧
     y.waiting = [] ∧
     (¬ (sub = 0 ∧ bits c 4 4 = 1 ∧ c.setNames port = true)) ∧
     (level = 2 ∧ fld (c.reg u 0 0x1050) 9 9 = 1 ∨ level = 3 ∧ fld (c.reg u 0 0x1050) 10 10 = 1) ∧
     y.l1 = 1 ∧
     y.l1 ≠ 0) ∧
    (let s : State := lS {px0 with subs := [(0, {upSub with l1 := 1, waiting := [{sub := 0, kind := .msg, addr := 0}]})]}
        [(18,0,0x1044,0)]
     let src : Src := .hart 0
     let port : Nat := 1
     let sub : Nat := 0
     let c := s.chip
     let u := uPx port
     port < 4 ∧
     sub < 4 ∧
     c.takes src u 0x1044 (c.reg u 0 0x1044 ||| 1) = true ∧
     c.regFld u 0 0x1044 1 0 = 0 ∧
     sub < (c.sublinks port).length) ∧
    (let s : State := lS px0 [(18,0,0x1050,0x700)]
     let port : Nat := 1
     let sub : Nat := 0
     let level : Nat := 1
     let c := s.chip
     let u := uPx port
     let x := c.px port
     let y := x.subAt sub
     let bits (d : Chip) (hi lo : Nat) : Nat := d.regFld u 0 0x1048 hi lo
     port < 4 ∧
     sub < 4 ∧
     y.up = true ∧
     fld (c.reg u 0 0x1050) 8 8 = 1 ∧
     y.waiting = [] ∧
     (∀ q ∈ x.np, q.sub ≠ sub) ∧
     (¬ (sub = 0 ∧ bits c 4 4 = 1 ∧ c.setNames port = true)) ∧
     level = 1 ∧
     y.l1 = 0) ∧
    (let s : State := pend
     let src : Src := .hart 0
     let port : Nat := 1
     let sub : Nat := 0
     let v : Word := 0xFFFFFFFE
     let r : RegDef := r7
     let c := s.chip
     let u := uPx port
     port < 4 ∧
     sub < 4 ∧
     regAt (kindOf u) 0x107C = some r ∧
     c.opens src u = true ∧
     (c.pairCommit src u (c.bankOf u 0x107C) 0x107C r v).1 = none) ∧
    (let s : State := epS
     let port : Nat := 1
     let sub : Nat := 0
     let c := s.chip
     port < 4 ∧
     sub < 4 ∧
     c.endpoint = true ∧
     ((c.px 0).subAt 0).up = true) ∧
    (let s : State := lS px0 [(18,0,0x1040,0x68),(18,0,0x1048,1)]
     let port : Nat := 1
     let sub : Nat := 0
     let c := s.chip
     let u := uPx port
     port < 4 ∧
     sub < 4 ∧
     c.cxlUp port = true ∧
     c.regFld u 0 0x1040 6 6 = 1 ∧
     (¬ (port = 0 ∧ c.endpoint = true)) ∧
     8 ≤ (c.sublinks port).getD 0 0) :=
  ⟨by decide +kernel,
    by decide +kernel,
    by decide +kernel,
    by decide +kernel,
    by decide +kernel,
    by decide +kernel⟩

end Outbound

namespace Instances

def vf : Nat := 0x1005
def iC (x : Inst) (l : List (Nat × Nat × Nat × Word) := []) : Chip :=
  { withRegs tMem ([(513,0,0x1040,0x1005)] ++ l) with insts := [(0,{st := .active}), (vf, x), (0x100,{st := .active, ranges := [(0,(8,8))]})] }
def fe (o : Nat) : FlowEnt := { udp := false, src := 0, dst := 1, sport := 0x1234, dport := 80, action := 4, owner := o }
def fl : FlowTab := { ents := [(3, fe vf), (5, fe 0x100)], slots := [(0, {fam6 := false, addr := 1, vni := 0, refs := 2}),(1, {fam6 := false, addr := 2, vni := 0, refs := 2})] }
def act : Inst := { st := .active, ranges := [(0,(16,4)),(2,(0,2))], quota := 3 }
def shad : List (Nat × Nat × Nat × Word) := [(513, imRangeBank vf 0, 0x1054, 20), (513, imRangeBank vf 0, 0x1058, 4), (513, vf,
    0x105C, 7)]
def rgs : Sparse Ring := [(ringKey (.rx 17),
    {en := true, quiesced := false, acc := 9, ci := 5, descs := [{idx := 3, bytes := [], started := true}, {idx := 4, bytes := []}]})]
def fS (i : InstState) (f : Chip → Chip := id) : State := st (f {iC {act with st := i} [] with flow := fl, rings := rgs})
def small : Inst := { st := .frozen, ranges := [(0,(16,4))] }
def bC (l : List (Nat × Nat × Nat × Word)) : Chip :=
    { iC small ((513,0,0x1060,0x40000) :: (513,0,0x1068,1) :: l) with rings := rgs, flow := fl }
def r0 : RegDef := match regAt .instMgmt 0x1044 with | some r => r | none => { name := "", off := 0, fields := [] }
def at_W (c : Chip) (op : Nat) := c.regStore .pf0 513 0x1044 r0 (BitVec.ofNat 32 (0x100 + op))
def bl := (bC []).blob vf
def w1 := (at_W (bC []) 5).instWrite 0 (0x40000 + 64) bl.2
def w2 := w1.2.instWrite 0 0x40000 bl.1
def rec1 : List Byte := bl.2.drop 16 |>.take 64
def oneW : List Byte := leBytes 1 4 ++ leBytes 1 4 ++ leBytes 64 4 ++ zeros 4 ++ rec1
def hdr (x : Inst) (b : List Byte) : List Byte := let h0 := blobHeader x vf (64 + b.length) 1 0; blobHeader x vf (64 + b.length) 1 (crcOf polyC 0 (h0 ++ b))
def rS (h b : List Byte) (p : NatSet := []) : State := st { withBytes (bC []) 0x40000 (h ++ b) with poison := p }
def R1 (s : State) := (at_W s.chip 6).instRead 0 0x40000 64
def R2 (s : State) (n : Nat) := (R1 s).2.instRead 0 0x40040 n
def bx := {small with quota := 4}
def oneB := oneW.dropLast ++ [9]
def hb := 0 :: (hdr small oneW).drop 1

theorem meets_InstanceCommandsAct :
    (let s : State := st {iC {act with st := .frozen, dirty := some {buf := 0, base := 0x1000, pages := 500}} [(513,0,0x1068,1)] with flow := fl, rings := rgs}
     let src : Src := .pf0
     let c := s.chip
     let iid := c.regFld uIm 0 0x1040 15 0
     let x := c.inst iid
     let ok (op : Nat) := c.takes src uIm 0x1044 (BitVec.ofNat 32 (0x100 + op)) = true
     let states (op : Nat) : List InstState := [[], [.absent], [.active, .frozen, .stopped], [.active, .frozen, .stopped],
         [.active], [.frozen], [.frozen], [.frozen], [.active, .freezing, .frozen]].getD op []
     let allowed (op : Nat) : Prop := iid ≠ 0 ∧ if op < 9 then x.st ∈ states op else x.dirty.isSome = true
     let rows : List (Nat × Instr) := [(1, .create src), (2, .destroy src), (3, .reset src), (4, .freeze src), (5, .save src),
         (6, .restore src), (7, .unfreeze src), (8, .dirtyStart src), (9, .dirtySwap src), (10, .dirtyStop src)]
     let bits : Dirty := { buf := c.imBuf, base := (c.reg uIm 0 0x1070).toNat + 2 ^ 32 * (c.reg uIm 0 0x1074).toNat, pages := (c.reg uIm 0 0x1078).toNat }
     (let e := (1, .create .pf0)
     e ∈ rows ∧
     ok e.1 ∧
     (¬ allowed e.1)) ∧
     ok 2 ∧
     allowed 2 ∧
     ok 3 ∧
     allowed 3 ∧
     ok 7 ∧
     allowed 7 ∧
     ok 8 ∧
     allowed 8 ∧
     bits.pages ≤ 8 * c.imBufLen ∧
     (let b := {buf := 0, base := 0x1000, pages := 500}
     ok 9 ∧
     allowed 9 ∧
     x.dirty = some b ∧
     b.pages ≤ 8 * c.imBufLen) ∧
     ok 10 ∧
     allowed 10) ∧
    (let s : State := st {iC {} shad with flow := fl}
     let src : Src := .pf0
     let c := s.chip
     let iid := c.regFld uIm 0 0x1040 15 0
     let x := c.inst iid
     let ok (op : Nat) := c.takes src uIm 0x1044 (BitVec.ofNat 32 (0x100 + op)) = true
     let states (op : Nat) : List InstState := [[], [.absent], [.active, .frozen, .stopped], [.active, .frozen, .stopped],
         [.active], [.frozen], [.frozen], [.frozen], [.active, .freezing, .frozen]].getD op []
     let allowed (op : Nat) : Prop := iid ≠ 0 ∧ if op < 9 then x.st ∈ states op else x.dirty.isSome = true
     ok 1 ∧
     allowed 1 ∧
     c.createCheck iid = 0) ∧
    (let s : State := st {iC {} ((513, imRangeBank vf 0, 0x1054, 10)::shad.drop 1) with flow := fl}
     let src : Src := .pf0
     let c := s.chip
     let iid := c.regFld uIm 0 0x1040 15 0
     let x := c.inst iid
     let ok (op : Nat) := c.takes src uIm 0x1044 (BitVec.ofNat 32 (0x100 + op)) = true
     let states (op : Nat) : List InstState := [[], [.absent], [.active, .frozen, .stopped], [.active, .frozen, .stopped],
         [.active], [.frozen], [.frozen], [.frozen], [.active, .freezing, .frozen]].getD op []
     let allowed (op : Nat) : Prop := iid ≠ 0 ∧ if op < 9 then x.st ∈ states op else x.dirty.isSome = true
     ok 1 ∧
     allowed 1 ∧
     c.createCheck iid ≠ 0) ∧
    (let s : State := st {iC act [(513,0,0x1068,1),(513,0,0x1078,8000)] with flow := fl, rings := rgs}
     let src : Src := .pf0
     let c := s.chip
     let iid := c.regFld uIm 0 0x1040 15 0
     let x := c.inst iid
     let ok (op : Nat) := c.takes src uIm 0x1044 (BitVec.ofNat 32 (0x100 + op)) = true
     let states (op : Nat) : List InstState := [[], [.absent], [.active, .frozen, .stopped], [.active, .frozen, .stopped],
         [.active], [.frozen], [.frozen], [.frozen], [.active, .freezing, .frozen]].getD op []
     let allowed (op : Nat) : Prop := iid ≠ 0 ∧ if op < 9 then x.st ∈ states op else x.dirty.isSome = true
     ok 4 ∧
     allowed 4) ∧
    (let s : State := st {iC {act with st := .frozen} [] with flow := fl, rings := rgs}
     let src : Src := .pf0
     let c := s.chip
     let iid := c.regFld uIm 0 0x1040 15 0
     let x := c.inst iid
     let ok (op : Nat) := c.takes src uIm 0x1044 (BitVec.ofNat 32 (0x100 + op)) = true
     let states (op : Nat) : List InstState := [[], [.absent], [.active, .frozen, .stopped], [.active, .frozen, .stopped],
         [.active], [.frozen], [.frozen], [.frozen], [.active, .freezing, .frozen]].getD op []
     let allowed (op : Nat) : Prop := iid ≠ 0 ∧ if op < 9 then x.st ∈ states op else x.dirty.isSome = true
     ok 5 ∧
     allowed 5 ∧
     c.imBufLen < 64 + (c.blobSections iid).flatten.length) :=
  ⟨by decide +kernel,
    by decide +kernel,
    by decide +kernel,
    by decide +kernel,
    by decide +kernel⟩

set_option maxRecDepth 100000 in
theorem meets_StateBlobsMoveAnInstance :
    (let s : State := st (bC [])
     let src : Src := .pf0
     let r5 : RegDef := r0
     let h : List Byte := bl.1
     let b : List Byte := bl.2
     let c1 : Chip := w1.2
     let c2 : Chip := w2.2
     let c := s.chip
     let iid := c.regFld uIm 0 0x1040 15 0
     let x := c.inst iid
     let at_ (op : Nat) (r : RegDef) : Chip := c.regStore src uIm 0x1044 r (BitVec.ofNat 32 (0x100 + op))
     let ready (op : Nat) (r : RegDef) := c.takes src uIm 0x1044 (BitVec.ofNat 32 (0x100 + op)) = true ∧
         regAt .instMgmt 0x1044 = some r ∧ iid ≠ 0 ∧ x.st = .frozen
     ready 5 r5 ∧
     c.blob iid = (h, b) ∧
     64 + b.length ≤ c.imBufLen ∧
     (at_ 5 r5).instWrite 0 (c.imBuf + 64) b = (true, c1) ∧
     c1.instWrite 0 c.imBuf h = (true, c2)) ∧
    (let s : State := rS (hdr small oneW) oneW
     let src : Src := .pf0
     let r6 : RegDef := r0
     let h : List Byte := hdr small oneW
     let body : List Byte := oneW
     let p : Bool := false
     let c1 : Chip := (R1 (rS (hdr small oneW) oneW)).2
     let c2 : Chip := (R2 (rS (hdr small oneW) oneW) 80).2
     let g : List Byte := rec1
     let c := s.chip
     let iid := c.regFld uIm 0 0x1040 15 0
     let x := c.inst iid
     let at_ (op : Nat) (r : RegDef) : Chip := c.regStore src uIm 0x1044 r (BitVec.ofNat 32 (0x100 + op))
     let ready (op : Nat) (r : RegDef) := c.takes src uIm 0x1044 (BitVec.ofNat 32 (0x100 + op)) = true ∧
         regAt .instMgmt 0x1044 = some r ∧ iid ≠ 0 ∧ x.st = .frozen
     let headOk := bsNat h 0 4 = 0x42534D41 ∧ bsNat h 4 2 = 1 ∧ 64 ≤ bsNat h 8 4 ∧ bsNat h 8 4 ≤ c.imBufLen
     let crcOk := bsNat h 12 4 = crcOf polyC 0 (h.take 12 ++ zeros 4 ++ h.drop 16 ++ body)
     let counts := bsNat h 6 1 = blobKind iid ∧ (∀ k, k < 10 → bsNat h (20 + 2 * k) 2 = (x.range k).2) ∧ bsNat h 40 4 = x.quota
     let reads := ready 6 r6 ∧ (at_ 6 r6).instRead 0 c.imBuf 64 = (.ok h false, c1)
     let rest := reads ∧ headOk ∧ c1.instRead 0 (c.imBuf + 64) (bsNat h 8 4 - 64) = (.ok body p, c2)
     rest ∧
     p = false ∧
     crcOk ∧
     blobParse (bsNat h 16 2) body = some [(1, [g])] ∧
     counts ∧
     c1.insts = c.insts ∧
     c2.insts = c.insts ∧
     bsNat g 0 1 = 0 ∧
     bsNat g 2 2 < (x.range 0).2 ∧
     (x.range 0).1 + bsNat g 2 2 < 8192) ∧
    (let s : State := rS (hdr bx oneW) oneW
     let src : Src := .pf0
     let r6 : RegDef := r0
     let h : List Byte := hdr bx oneW
     let body : List Byte := oneW
     let p : Bool := false
     let c1 : Chip := (R1 (rS (hdr bx oneW) oneW)).2
     let c2 : Chip := (R2 (rS (hdr bx oneW) oneW) 80).2
     let secs : List (Nat × List (List Byte)) := [(1,[rec1])]
     let c := s.chip
     let iid := c.regFld uIm 0 0x1040 15 0
     let x := c.inst iid
     let at_ (op : Nat) (r : RegDef) : Chip := c.regStore src uIm 0x1044 r (BitVec.ofNat 32 (0x100 + op))
     let ready (op : Nat) (r : RegDef) := c.takes src uIm 0x1044 (BitVec.ofNat 32 (0x100 + op)) = true ∧
         regAt .instMgmt 0x1044 = some r ∧ iid ≠ 0 ∧ x.st = .frozen
     let headOk := bsNat h 0 4 = 0x42534D41 ∧ bsNat h 4 2 = 1 ∧ 64 ≤ bsNat h 8 4 ∧ bsNat h 8 4 ≤ c.imBufLen
     let crcOk := bsNat h 12 4 = crcOf polyC 0 (h.take 12 ++ zeros 4 ++ h.drop 16 ++ body)
     let counts := bsNat h 6 1 = blobKind iid ∧ (∀ k, k < 10 → bsNat h (20 + 2 * k) 2 = (x.range k).2) ∧ bsNat h 40 4 = x.quota
     let reads := ready 6 r6 ∧ (at_ 6 r6).instRead 0 c.imBuf 64 = (.ok h false, c1)
     let rest := reads ∧ headOk ∧ c1.instRead 0 (c.imBuf + 64) (bsNat h 8 4 - 64) = (.ok body p, c2)
     rest ∧
     p = false ∧
     crcOk ∧
     blobParse (bsNat h 16 2) body = some secs ∧
     (¬ counts) ∧
     c1.insts = c.insts ∧
     c2.insts = c.insts) ∧
    (let s : State := rS (hdr small oneW) oneB
     let src : Src := .pf0
     let r6 : RegDef := r0
     let h : List Byte := hdr small oneW
     let body : List Byte := oneB
     let p : Bool := false
     let c1 : Chip := (R1 (rS (hdr small oneW) oneB)).2
     let c2 : Chip := (R2 (rS (hdr small oneW) oneB) 80).2
     let c := s.chip
     let iid := c.regFld uIm 0 0x1040 15 0
     let x := c.inst iid
     let at_ (op : Nat) (r : RegDef) : Chip := c.regStore src uIm 0x1044 r (BitVec.ofNat 32 (0x100 + op))
     let ready (op : Nat) (r : RegDef) := c.takes src uIm 0x1044 (BitVec.ofNat 32 (0x100 + op)) = true ∧
         regAt .instMgmt 0x1044 = some r ∧ iid ≠ 0 ∧ x.st = .frozen
     let headOk := bsNat h 0 4 = 0x42534D41 ∧ bsNat h 4 2 = 1 ∧ 64 ≤ bsNat h 8 4 ∧ bsNat h 8 4 ≤ c.imBufLen
     let crcOk := bsNat h 12 4 = crcOf polyC 0 (h.take 12 ++ zeros 4 ++ h.drop 16 ++ body)
     let reads := ready 6 r6 ∧ (at_ 6 r6).instRead 0 c.imBuf 64 = (.ok h false, c1)
     let rest := reads ∧ headOk ∧ c1.instRead 0 (c.imBuf + 64) (bsNat h 8 4 - 64) = (.ok body p, c2)
     rest ∧
     p = false ∧
     (¬ crcOk)) ∧
    (let s : State := rS (hdr small oneW) oneW [0x40080]
     let src : Src := .pf0
     let r6 : RegDef := r0
     let h : List Byte := hdr small oneW
     let body : List Byte := oneW
     let p : Bool := true
     let c1 : Chip := (R1 (rS (hdr small oneW) oneW [0x40080])).2
     let c2 : Chip := (R2 (rS (hdr small oneW) oneW [0x40080]) 80).2
     let c := s.chip
     let iid := c.regFld uIm 0 0x1040 15 0
     let x := c.inst iid
     let at_ (op : Nat) (r : RegDef) : Chip := c.regStore src uIm 0x1044 r (BitVec.ofNat 32 (0x100 + op))
     let ready (op : Nat) (r : RegDef) := c.takes src uIm 0x1044 (BitVec.ofNat 32 (0x100 + op)) = true ∧
         regAt .instMgmt 0x1044 = some r ∧ iid ≠ 0 ∧ x.st = .frozen
     let headOk := bsNat h 0 4 = 0x42534D41 ∧ bsNat h 4 2 = 1 ∧ 64 ≤ bsNat h 8 4 ∧ bsNat h 8 4 ≤ c.imBufLen
     let reads := ready 6 r6 ∧ (at_ 6 r6).instRead 0 c.imBuf 64 = (.ok h false, c1)
     let rest := reads ∧ headOk ∧ c1.instRead 0 (c.imBuf + 64) (bsNat h 8 4 - 64) = (.ok body p, c2)
     rest ∧
     p = true) ∧
    (let s : State := rS hb oneW
     let src : Src := .pf0
     let r6 : RegDef := r0
     let h : List Byte := hb
     let c1 : Chip := (R1 (rS hb oneW)).2
     let c := s.chip
     let iid := c.regFld uIm 0 0x1040 15 0
     let x := c.inst iid
     let at_ (op : Nat) (r : RegDef) : Chip := c.regStore src uIm 0x1044 r (BitVec.ofNat 32 (0x100 + op))
     let ready (op : Nat) (r : RegDef) := c.takes src uIm 0x1044 (BitVec.ofNat 32 (0x100 + op)) = true ∧
         regAt .instMgmt 0x1044 = some r ∧ iid ≠ 0 ∧ x.st = .frozen
     let headOk := bsNat h 0 4 = 0x42534D41 ∧ bsNat h 4 2 = 1 ∧ 64 ≤ bsNat h 8 4 ∧ bsNat h 8 4 ≤ c.imBufLen
     let reads := ready 6 r6 ∧ (at_ 6 r6).instRead 0 c.imBuf 64 = (.ok h false, c1)
     reads ∧
     (¬ headOk)) :=
  ⟨by decide +kernel,
    by decide +kernel,
    by decide +kernel,
    by decide +kernel,
    by decide +kernel,
    by decide +kernel⟩

theorem meets_InstanceResetsAndStops :
    (let s : State := st {(fS .freezing).chip with rings := [(ringKey (.dv 0 3), {descs := [{idx := 0, bytes := [], taken := true}]})], imBusy := some (vf, 4)}
     let iid : Nat := vf
     let f : Nat := 0
     let c := s.chip
     let x := c.inst iid
     let serves (i : Nat) := (c.inst i).st ≠ .absent ∧ (c.inst i).st ≠ .resetting
     x.st = .freezing ∧
     c.laneBusyFor iid = false ∧
     (∀ r ∈ c.ringsOf iid, ∀ e ∈ (c.ring r).descs, e.taken = true ∧ e.fin = none) ∧
     (∀ e ∈ c.dvCoresOf iid, (c.dvCore e.1 e.2).miss = none ∧ c.dvQuiet e.1 e.2 = true) ∧
     serves iid ∧
     (c.func f).bme = true) ∧
    (let s : State := st {(fS .resetting).chip with engines := [], imBusy := some (vf, 3)}
     let iid : Nat := vf
     let c := s.chip
     let x := c.inst iid
     x.st = .resetting ∧
     c.laneBusyFor iid = false) ∧
    (let s : State := st {(fS .stopped).chip with funcs := [(0,{bme := false}),(0x100,{bme := false})]}
     let f : Nat := 0
     let c := s.chip
     (c.func f).bme = false) :=
  ⟨by decide +kernel,
    by decide +kernel,
    by decide +kernel⟩

end Instances

namespace Records

def vrec (cls : ErrClass) (o : Nat) : ErrRec :=
    { status := mkStatus {cls := cls, struct := 3} false, info := 0x30020, order := o }
def eC (u : Nat) (l : List (Nat × ErrRec)) : Chip := { tMem with errs := l.map fun e => (4*u + e.1, e.2), errSeq := 9 }
def iS (unit : Nat) (ctl : Word) (l : List (Nat × Nat × Nat × Word) := []) (f : Chip → Chip := id) : State :=
    st (f (withRegs tMem ([(0,0,0x4010,BitVec.ofNat 32 unit),(0,0,0x4014,ctl)] ++ l)))
def cc (f : Hart → Hart := id) (g : Chip → Chip := id) : State :=
    st (g ({ (tMem.modHart 0 f) with cores := [(0, {tCore with residue := [5]}), (48, {spare := true}), (49, {spare := true})], mtime := 100 }))
def m0 : Mig := { hart := 0, old := 0, new := 48, asked := true, back := .wfi }
def sbf (h : Hart) : Hart :=
    { h with sb := [{ kind := .scalar, pa := 0x1000, bytes := [1] }, { kind := .scalar, pa := 0x1000, bytes := [1], wrong := true }], resv := some 3, x := [(3, 7)] }
def cS (th : Word) (g : Chip → Chip := id) : State := cc sbf fun c => g (withRegs c [(0,0,0x400C,th),(27,0,0x1040,4)])
def mo : Mig := { m0 with moved := true, old := 5 }

theorem meets_ErrorRecordsAreLoggedAndWritten :
    (let s : State := st (eC 5 [(0, vrec .deferred 1), (1, vrec .corrected 2), (2, vrec .corrected 3), (3, vrec .fatal 4)])
     let src : Src := .hart 0
     let u : Nat := 5
     let i : Nat := 1
     let t : Nat := 0x0F
     let f : RecReg := .info
     let v : DWord := 77
     let c := s.chip
     let r := c.errRec u i
     let logs (j : Nat) := (c.errRec u j).control.getLsbD 0 = true
     let bad (j : Nat) := (c.errRec u j).valid = true
     let writes := c.opens src 0 = true ∧ c.present u = true
     u ≤ 512 ∧
     i < 4 ∧
     t < 256 ∧
     c.errSeq < 2 ^ 64 ∧
     (∀ j, j < 4 → logs j ∧ bad j ∧ (c.errRec u j).order < 2 ^ 64) ∧
     r.cls ≠ .fatal ∧
     (∀ j, j < 4 → j ≠ i → r.cls.rank < (c.errRec u j).cls.rank ∨ r.cls.rank = (c.errRec u j).cls.rank ∧
         r.order < (c.errRec u j).order) ∧
     writes ∧
     bad i ∧
     (f ≠ .status ∨ v ≠ 0) ∧
     fld v 63 48 = 0 ∧
     v.getLsbD 32 = false) ∧
    (let s : State := st (eC 5 [(0, vrec .corrected 1)])
     let src : Src := .hart 0
     let u : Nat := 5
     let i : Nat := 1
     let t : Nat := 0x0F
     let c := s.chip
     let logs (j : Nat) := (c.errRec u j).control.getLsbD 0 = true
     let bad (j : Nat) := (c.errRec u j).valid = true
     let writes := c.opens src 0 = true ∧ c.present u = true
     u ≤ 512 ∧
     i < 4 ∧
     t < 256 ∧
     c.errSeq < 2 ^ 64 ∧
     logs i ∧
     (¬ bad i) ∧
     (∀ j, j < i → logs j → bad j) ∧
     writes) ∧
    (let s : State := st (withRegs (eC 5 [(0, vrec .deferred 1), (1, vrec .corrected 2)]) [(0,0,0x4008,1)])
     let u : Nat := 5
     let i : Nat := 1
     let t : Nat := 0x0F
     let c := s.chip
     u ≤ 512 ∧
     i < 4 ∧
     t < 256 ∧
     c.errSeq < 2 ^ 64 ∧
     c.regFld 0 0 0x4008 0 0 = 1 ∧
     c.boot.restart = false) ∧
    (let s : State := st (eC 5 [(1, {vrec .fatal 1 with status := 0x88})])
     let src : Src := .hart 0
     let u : Nat := 5
     let i : Nat := 1
     let t : Nat := 0x0F
     let v : DWord := 0x97 ||| 0x0001000000000000
     let c := s.chip
     let bad (j : Nat) := (c.errRec u j).valid = true
     let writes := c.opens src 0 = true ∧ c.present u = true
     u ≤ 512 ∧
     i < 4 ∧
     t < 256 ∧
     c.errSeq < 2 ^ 64 ∧
     writes ∧
     (¬ bad i) ∧
     fld v 63 48 ≠ 0) :=
  ⟨by decide +kernel,
    by decide +kernel,
    by decide +kernel,
    by decide +kernel⟩

theorem meets_InjectedFaultsFireOnce :
    (let s : State := iS 21 0
     let src : Src := .hart 0
     let u : Nat := 21
     let line : Nat := 0
     let v : Word := 0x10012
     let c := s.chip
     let ctl := c.reg 0 0 0x4014
     let armed := fld ctl 16 16 = 1 ∧ c.faulty 0 0 0x4014 = false ∧ c.faulty 0 0 0x4010 = false
     let here := u = c.regFld 0 0 0x4010 15 0 ∧ (fld ctl 10 10 = 0 ∨ line = c.injLine)
     c.takes src 0 0x4014 v = true ∧
     v.getLsbD 16 = true ∧
     (¬ armed ∨ ¬ here)) ∧
    (let s : State := iS 21 0x10012
     let u : Nat := 21
     let line : Nat := 0
     let c := s.chip
     let ctl := c.reg 0 0 0x4014
     let armed := fld ctl 16 16 = 1 ∧ c.faulty 0 0 0x4014 = false ∧ c.faulty 0 0 0x4010 = false
     let here := u = c.regFld 0 0 0x4010 15 0 ∧ (fld ctl 10 10 = 0 ∨ line = c.injLine)
     armed ∧
     here ∧
     fld ctl 7 0 = 0x12 ∧
     c.bankClear u = true ∧
     u ≤ 512) ∧
    (let s : State := iS 5 0x1050F [(0,0,0x4018,0x1000)]
     let u : Nat := 5
     let line : Nat := 0x40
     let l : Nat := 0x1000
     let ch : Nat := 0
     let c := s.chip
     let ctl := c.reg 0 0 0x4014
     let armed := fld ctl 16 16 = 1 ∧ c.faulty 0 0 0x4014 = false ∧ c.faulty 0 0 0x4010 = false
     let here := u = c.regFld 0 0 0x4010 15 0 ∧ (fld ctl 10 10 = 0 ∨ line = c.injLine)
     armed ∧
     here ∧
     fld ctl 7 0 = 0x0F ∧
     c.mapAddr (64 * line) = some (false, ch, l) ∧
     ch = u - 5) :=
  ⟨by decide +kernel,
    by decide +kernel,
    by decide +kernel⟩

theorem meets_FailingCoresMoveTheirHart :
    (let s : State := cS 4
     let src : Src := .hart 0
     let h : Nat := 0
     let k : Nat := 0
     let sp : Nat := 48
     let c := s.chip
     let x := c.hart h
     let u := uCore k
     let th := c.regFld 0 0 0x400C 7 0
     let recent := (c.core k).residue.filter fun t => decide (c.mtime.toNat < t + 10 ^ 8)
     let ask := c.takes src uBellwether 0x104C (BitVec.ofNat 32 (h + 2 ^ 16)) = true ∧ h < 2 ^ 16
     k < 200 ∧
     h < 2 ^ 16 ∧
     c.coreOfHart h = some k ∧
     x.live = true ∧
     recent.length + 1 < th ∧
     c.bankClear u = true ∧
     c.boot.restart = false ∧
     c.freeSpare (paddockOfCore k) = some sp ∧
     k ≠ sp ∧
     ask ∧
     x.run.onCore = true ∧
     (∀ q ∈ c.migs, q.hart ≠ h) ∧
     x.run ≠ .stopped) ∧
    (let s : State := cS 2
     let h : Nat := 0
     let k : Nat := 0
     let sp : Nat := 48
     let c := s.chip
     let x := c.hart h
     let th := c.regFld 0 0 0x400C 7 0
     let recent := (c.core k).residue.filter fun t => decide (c.mtime.toNat < t + 10 ^ 8)
     k < 200 ∧
     h < 2 ^ 16 ∧
     c.coreOfHart h = some k ∧
     x.live = true ∧
     c.boot.restart = false ∧
     c.freeSpare (paddockOfCore k) = some sp ∧
     k ≠ sp ∧
     th ≤ recent.length + 1 ∧
     c.faulty 0 0 0x400C = false) ∧
    (let s : State := cS 2 fun c => {c with boot := {c.boot with restart := true}}
     let h : Nat := 0
     let k : Nat := 0
     let c := s.chip
     let x := c.hart h
     k < 200 ∧
     h < 2 ^ 16 ∧
     c.coreOfHart h = some k ∧
     x.live = true ∧
     c.boot.restart = true) ∧
    (let s : State := cS 2 fun c => {c with cores := [(0, tCore)]}
     let src : Src := .hart 0
     let h : Nat := 0
     let k : Nat := 0
     let c := s.chip
     let x := c.hart h
     let ask := c.takes src uBellwether 0x104C (BitVec.ofNat 32 (h + 2 ^ 16)) = true ∧ h < 2 ^ 16
     k < 200 ∧
     h < 2 ^ 16 ∧
     c.coreOfHart h = some k ∧
     ask ∧
     x.run.onCore = true ∧
     (∀ q ∈ c.migs, q.hart ≠ h) ∧
     c.boot.restart = false ∧
     c.freeSpare (paddockOfCore k) = none) ∧
    (let s : State := st ((cS 2).chip.modHart 0 fun x => {x with run := .stopped})
     let src : Src := .hart 0
     let h : Nat := 0
     let k : Nat := 0
     let c := s.chip
     let x := c.hart h
     let ask := c.takes src uBellwether 0x104C (BitVec.ofNat 32 (h + 2 ^ 16)) = true ∧ h < 2 ^ 16
     k < 200 ∧
     h < 2 ^ 16 ∧
     c.coreOfHart h = some k ∧
     ask ∧
     x.run.onCore = false) ∧
    (let s : State := st { ((cS 2).chip.modHart 0 fun x => {x with run := .migrating 48}) with migs := [m0], cores := [(0, tCore), (48, {spare := true, power := .run})]}
     let h : Nat := 0
     let k : Nat := 0
     let m : Mig := m0
     let c := s.chip
     k < 200 ∧
     h < 2 ^ 16 ∧
     c.coreOfHart h = some k ∧
     (c.migs.find? fun (q : Mig) => decide (q.hart = h) && !q.moved) = some m ∧
     (c.core m.new).power = .run ∧
     m.old ≠ m.new ∧
     c.hartAwaits h m.old = false) ∧
    (let s : State := st { ((cS 2).chip.modHart 0 fun x => { x with run := .migrating 48, sb := [{ kind := .red, pa := 0x1000, bytes := [], sent := true }] }) with migs := [m0] }
     let h : Nat := 0
     let k : Nat := 0
     let m : Mig := m0
     let c := s.chip
     k < 200 ∧
     h < 2 ^ 16 ∧
     c.coreOfHart h = some k ∧
     (c.migs.find? fun (q : Mig) => decide (q.hart = h) && !q.moved) = some m ∧
     c.hartAwaits h m.old = true) ∧
    (let s : State := cS 2 fun c => {c with cores := [(0, tCore), (5, {retiring := true, power := .run})], migs := [mo]}
     let h : Nat := 0
     let k : Nat := 0
     let sp : Nat := 5
     let m : Mig := mo
     let c := s.chip
     k < 200 ∧
     h < 2 ^ 16 ∧
     c.coreOfHart h = some k ∧
     (c.core sp).retiring = true ∧
     (c.core sp).l2 = [] ∧
     (c.core sp).wb = [] ∧
     (c.core sp).reqs = [] ∧
     (c.migs.find? fun (q : Mig) => decide (q.old = sp)) = some m) :=
  ⟨by decide +kernel,
    by decide +kernel,
    by decide +kernel,
    by decide +kernel,
    by decide +kernel,
    by decide +kernel,
    by decide +kernel,
    by decide +kernel⟩

end Records

namespace Counters

def smpW : SampleInfo := { ctr := 3, iaddr := 0x1234 }
def hS (f : Hart → Hart) : State := onMem f
def cs (b : DWord) (h : Hart) : Hart := (((h.setCsr 0x5C0 ((1000#64 <<< 32) ||| 0x861 ||| b)).setCsr 0x323 2).setCsr 0x5C1
    0x40000).setCsr 0xB03 5
def pmp (h : Hart) : Hart := (h.setCsr 0x3B0 0x003FFFFFFFFFFFFF).setCsr 0x3A0 0x1F

theorem meets_CountersOverflowAndSample :
    (let s : State := hS fun h => {(cs 0 h).setCsr 0x5C2 63 with tsFly := [smpW, smpW]}
     let h : Nat := 0
     let n : Nat := 3
     let rem : Nat := 55
     let i : SampleInfo := smpW
     let rest : List SampleInfo := [smpW]
     let c := s.chip
     let x := c.hart h
     let wr := x.csrFld 0x5C2 31 0
     let rd := x.csrFld 0x5C2 63 32
     let log2 := x.csrFld 0x5C0 8 4
     let k := (wr + x.tsFly.length) % 2 ^ 32
     let used := (k + 2 ^ 32 - rd) % 2 ^ 32
     let smp := x.live = true ∧ 3 ≤ n ∧ n ≤ 10 ∧ i.ctr = n ∧ x.samples n = true
     x.live = true ∧
     3 ≤ n ∧
     n ≤ 10 ∧
     rem < 2 ^ 64 ∧
     smp ∧
     (2 ^ log2 ≤ used ∨ 4 ≤ x.tsFly.length) ∧
     x.tsFly = i :: rest) ∧
    (let s : State := hS (cs 0)
     let h : Nat := 0
     let n : Nat := 3
     let i : SampleInfo := smpW
     let c := s.chip
     let x := c.hart h
     let wr := x.csrFld 0x5C2 31 0
     let rd := x.csrFld 0x5C2 63 32
     let log2 := x.csrFld 0x5C0 8 4
     let k := (wr + x.tsFly.length) % 2 ^ 32
     let used := (k + 2 ^ 32 - rd) % 2 ^ 32
     let pa := (x.csr 0x5C1).toNat + 64 * (k % 2 ^ log2)
     let smp := x.live = true ∧ 3 ≤ n ∧ n ≤ 10 ∧ i.ctr = n ∧ x.samples n = true
     smp ∧
     used < 2 ^ log2 ∧
     x.tsFly.length < 4 ∧
     (x.pmpOk .s .store pa = false ∨ c.isMemory pa = false)) ∧
    (let s : State := hS fun h => pmp (cs 0 h)
     let h : Nat := 0
     let n : Nat := 3
     let i : SampleInfo := smpW
     let c := s.chip
     let x := c.hart h
     let wr := x.csrFld 0x5C2 31 0
     let rd := x.csrFld 0x5C2 63 32
     let log2 := x.csrFld 0x5C0 8 4
     let k := (wr + x.tsFly.length) % 2 ^ 32
     let used := (k + 2 ^ 32 - rd) % 2 ^ 32
     let pa := (x.csr 0x5C1).toNat + 64 * (k % 2 ^ log2)
     let smp := x.live = true ∧ 3 ≤ n ∧ n ≤ 10 ∧ i.ctr = n ∧ x.samples n = true
     smp ∧
     used < 2 ^ log2 ∧
     x.tsFly.length < 4 ∧
     x.pmpOk .s .store pa = true ∧
     c.isMemory pa = true) :=
  ⟨by decide +kernel,
    by decide +kernel,
    by decide +kernel⟩

end Counters

namespace Power

def bS (b : Nat) (x : Bank) (l : List (Nat × Nat × Nat × Word) := []) : State :=
    st { withRegs tMem l with banks := [(b, x)], mtime := 777 }
def pS (f : Chip → Chip) (l : List (Nat × Nat × Nat × Word) := []) : State :=
    st { f (withRegs tMem ([(27,0,0x1040,4)] ++ l)) with mtime := 777 }
def many : Sparse Core := (List.range 30).map fun k => (k,
    { tCore with ramp := if k = 0 then none else some .wfiExit, rampAt := 770, rampOn := true})
def uS (u : Nat) (x : UnitSt) (f : Chip → Chip := id) (l : List (Nat × Nat × Nat × Word) := []) : State :=
    pS (fun c => f (c.modUnit u fun _ => x)) l

theorem meets_TallyBanksStartAndStop :
    (let s : State := bS 3 {c1 := 7, run := true, stop := some 900} [(0,0,tbOff 3 0,0x41),(0,0,0x5C00,0x80050000)]
     let src : Src := .hart 0
     let b : Nat := 3
     let c := s.chip
     let x := c.bank b
     let ctl := c.reg 0 0 (tbOff b 0)
     b < 42 ∧
     c.takes src 0 (tbOff b 0) (ctl ||| 8) = true ∧
     fld ctl 5 2 = 0 ∧
     x.run = true ∧
     x.stop.isSome = true ∧
     x.done = false ∧
     fld ctl 6 6 = 1 ∧
     c.faulty 0 0 (tbOff b 0) = false ∧
     c.regFld 0 0 0x5C00 31 31 = 1 ∧
     c.faulty 0 0 0x5C00 = false ∧
     c.takes src 0 0x5C04 1 = true ∧
     c.takes src 0 0x5C04 2 = true) ∧
    (let s : State := bS 3 {c1 := 7} [(0,0,tbOff 3 0,1),(0,0,tbOff 3 4,50)]
     let src : Src := .hart 0
     let b : Nat := 3
     let c := s.chip
     let x := c.bank b
     let ctl := c.reg 0 0 (tbOff b 0)
     b < 42 ∧
     c.takes src 0 (tbOff b 0) (ctl ||| 4) = true ∧
     fld ctl 5 2 = 0 ∧
     x.run = false) :=
  ⟨by decide +kernel,
    by decide +kernel⟩

theorem meets_OperatingPointsAndRamps :
    (let s : State := pS id
     let src : Src := .hart 0
     let f : Nat := 3
     let v : Word := 0x500
     let c := s.chip
     (f < 20 ∧
     c.pwr.clocks = true ∧
     fld v 3 2 = 0 ∧
     fld v 7 7 = 0 ∧
     fld v 31 12 = 0 ∧
     fld v 11 8 < 12 ∧
     c.bwServes = true ∧
     c.wakeEnds f = false) ∧
     (src = .bellwether ∨ ∃ h, src = .hart h)) ∧
    (let s : State := pS fun c => {c with cores := many}
     let k : Nat := 0
     let p : Nat := 0
     let kind : RampKind := .wfiExit
     let c := s.chip
     let x := c.core k
     x.ramp = none ∧
     (kind ≠ .wfiExit ∨ c.quietRoom (paddockOfCore k) = false) ∧
     x.rampOn = true ∧
     (∀ e ∈ c.rampsOf p, e.2.rampAnn = false)) ∧
    (let s : State := pS fun c => c.announce 0 .restWake
     let k : Nat := 0
     let p : Nat := 0
     let c := s.chip
     let x := c.core k
     x.ramp.isSome = true ∧
     x.rampAnn = true ∧
     x.rampOn = false ∧
     (∃ e ∈ c.rampsOf p, e.2.rampAnn = true)) ∧
    (let s : State := pS id
     let k : Nat := 0
     let kind : RampKind := .wfiExit
     let c := s.chip
     let x := c.core k
     x.ramp = none ∧
     kind = .wfiExit ∧
     c.quietRoom (paddockOfCore k) = true) ∧
    (let s : State := pS fun c => { c with cores := [(0, { tCore with power := .waking })], mtime := 290 }
     let f : Nat := 0
     let c := s.chip
     c.bwServes = true ∧
     c.wakeEnds f = true) :=
  ⟨⟨by decide +kernel, Or.inr ⟨_, rfl⟩⟩,
    by decide +kernel,
    by decide +kernel,
    by decide +kernel,
    by decide +kernel⟩

theorem meets_ThermalAndPowerLimitsAct :
    let s : State := pS (fun c => c) [(0,0,0x6004,90),(0,0,0x6000,400)]
    let p : Nat := 0
    let f : Nat := 0
    let temp : Nat := 130
    let c := s.chip
    c.bwServes = true ∧
    c.faulty 0 0 0x6004 = false ∧
    c.faulty 0 0 0x6000 = false ∧
    p < 4 ∧
    f < 20 ∧
    125 ≤ temp ∧
    c.boot.restart = false ∧
    c.pwr.pwrgood = true ∧
    p < 6 ∧
    c.bankClear (uPaddock p) = true := by
  decide +kernel

theorem meets_UnitsPowerUpAndTheControllerRestarts :
    (let s : State := uS 18 {cur := 0, busy := true, target := 2}
     let src : Src := .bellwether
     let u : Nat := 18
     let req : Nat := 0
     let c := s.chip
     let x := c.unit u
     let b := uBellwether
     let kind (l : List Kind) := kindOf u ∈ l
     (c.pwr.clocks = true ∧
     u ≤ 512 ∧
     c.present u = true ∧
     reqWritable u = true ∧
     (req = 0 ∨ req = 2) ∧
     c.powerBusy u req = false ∧
     x.busy = true ∧
     kind [.busPort, .shears] ∧
     x.target = 2 ∧
     c.bwServes = true ∧
     c.bankClear b = true) ∧
     (src = .bellwether ∨ ∃ n, src = .hart n)) ∧
    (let s : State := uS 23 {cur := 2, busy := true, target := 0} id [(23,0,0x1040,3),(24,0,0x1040,3)]
     let u : Nat := 23
     let c := s.chip
     let x := c.unit u
     let kind (l : List Kind) := kindOf u ∈ l
     x.busy = true ∧
     kind [.ethPort, .shears] ∧
     x.target = 0 ∧
     x.cur ≠ 0) ∧
    (let s : State := uS (uDvCore 0 3) {cur := 2, busy := true, target := 0}
     let u : Nat := uDvCore 0 3
     let k : Nat := 3
     let d0 : Nat := 0
     let c := s.chip
     let x := c.unit u
     d0 < 2 ∧
     k < 32 ∧
     u = uDvCore d0 k ∧
     x.busy = true ∧
     x.cur ≠ 0 ∧
     x.target = 0 ∧
     (c.unit (uDrover d0)).cur ≠ 2) ∧
    (let s : State := uS (uDrover 1) {cur := 0, busy := true, target := 2}
     let u : Nat := uDrover 1
     let k : Nat := 3
     let d0 : Nat := 1
     let c := s.chip
     let x := c.unit u
     d0 < 2 ∧
     k < 32 ∧
     u = uDrover d0 ∧
     x.busy = true ∧
     x.target = 2) ∧
    (let s : State := pS fun c =>
        {c with cores := [(0, {tCore with power := .poweringUp})], harts := [(0, {tHart with run := .off})]}
     let k : Nat := 0
     let c := s.chip
     (c.core k).power = .poweringUp ∧
     k < 200) ∧
    (let s : State := pS fun c =>
        {c with cores := [(0, tCore),(48,{spare := true})], boot := {c.boot with restart := true, waiting := [0]}}
     let c := s.chip
     c.boot.restart = true) :=
  ⟨⟨by decide +kernel, by first | exact Or.inl rfl | exact Or.inr ⟨_, rfl⟩⟩,
    by decide +kernel,
    by decide +kernel,
    by decide +kernel,
    by decide +kernel,
    by decide +kernel⟩

end Power

namespace Boot

def imgHeader : List Byte := leBytes
    0x4c04c8e94089e258be1cb19c7de109cb75e7fd75ee87b27591073ea5b0bff8581731837b2f0f1fca9c4872b594fadb4dd6af2c875f905a6a726f7764a222778d0d186fa78b742bb925a1cd698bc1b58212954f192a32bb4877f55d86ecb93c7f05f2c63e2ada0dcfec40740cda862bb5f58a0a77c026b22a3432b642dbffe6d334983813f4c6745459057b6d21e571afbc5079f64d54784b3f5e1c1cd682149e84b0cce7487ff5351fcc71ec46ad1789ead3413046b58360c41d55ce12e9dbdc8795f133f86b60e849f94d830460053d716f2c3d782725a4797c3e4406347a280d6db95b52f334ac710438ab920f5202b2d1da75a824c13947fc29ac2eb7e7ce5a15cec4039a6296c27627e5ef2849cd0c691722c860ee069f56e1f4daf952360000000008000004000000000800000000000008000000010000000246575742
    320
def cellsAt (b : Nat) (l : List Byte) : Memory := ((List.range l.length).zip l).filterMap fun e => if e.2 = 0 then none else
    some ⟨b + e.1, e.2⟩
def imgAt (b : Nat) : Memory := cellsAt b imgHeader ++ cellsAt (b + 0x1000) [0x13] ++ cellsAt (b + 0x80000) [0x73, 0, 0, 0x10,
    0x73, 0, 0, 0x10]
def flashA (m : Memory) : Chip :=
    { Chip.reset with pwr := { pwrgood := true, clocks := true }, boot := { standby := true }, fuse := { keyHash := 0xa28ad301cd4ecaf6ca5095404130349ca303e9e676247d33ffcdcade8ec6f9a1648ac80a91da2fefe5e552ddf14c4988, rollback := 2 }, flash := { bytes := m } }
/-- An RDIMM of 16 Gb devices with two ranks, of grades 0 and 1. -/
def dimm1 : Dimm := { kind := .rdimm, grades := 3, density := 16, ranks := 2 }
def pop1 : ChanPop := { dimms := [dimm1], trained := 0b11 }
def trained : Chip := (flashA []).setPhase 1
def im : List Byte := [0x73, 0, 0, 0x10, 0x73, 0, 0, 0x10]
def bootM : Chip := { tMem.setPhase 2 with flash := { bytes := Memory.write [] 0x80000 im }, boot := { standby := true, load := 0x8000000, entry := 0x8000004, image := 8, digest := sha384 im } }
def entW (c : Chip) := ((c.setPhase 3).setIo32 0x10 1).bootWrite c.boot.load (c.flash.bytes.read (c.boot.copyBase + 0x80000)
    c.boot.image)
def after2 : Chip := bootM
def rdW (c : Chip) := readOf ((entW c).busRead c.boot.load c.boot.image)
def after3 : Chip := { after2 with boot := { after2.boot with digest := 5 } }

theorem meets_BootAndResetPhases :
    let s : State := st (flashA (imgAt 0))
    let c := s.chip
    let auth := c.pwr.pwrgood = true ∧ c.phase = 0 ∧ c.pwr.cold = false ∧ c.boot.restart = false
    c.boot.standby = true ∧
    auth ∧
    c.pwr.straps.getLsbD 2 = false ∧
    c.copyFails 0 = none ∧
    c.pwr.pwrgood = true := by
  decide +kernel

theorem meets_BootAndResetPhases_1 :
    let s : State := State.reset
    let c := s.chip
    c.boot.standby = false := by
  decide +kernel

theorem meets_BootAndResetPhases_2 :
    let s : State := st {flashA (imgAt 0x1F00000) with pwr := {pwrgood := true, clocks := true, straps := 4}}
    let a : Nat := 1
    let c := s.chip
    let auth := c.pwr.pwrgood = true ∧ c.phase = 0 ∧ c.pwr.cold = false ∧ c.boot.restart = false
    auth ∧
    (c.pwr.straps.getLsbD 2 = true ∨ c.copyFails 0 = some a) ∧
    c.copyFails 0x01F00000 = none := by
  decide +kernel

theorem meets_BootAndResetPhases_3 :
    let s : State := st (flashA [])
    let a : Nat := 1
    let b : Nat := 1
    let c := s.chip
    let auth := c.pwr.pwrgood = true ∧ c.phase = 0 ∧ c.pwr.cold = false ∧ c.boot.restart = false
    auth ∧
    (c.pwr.straps.getLsbD 2 = true ∨ c.copyFails 0 = some a) ∧
    c.copyFails 0x01F00000 = some b := by
  decide +kernel

theorem meets_BootAndResetPhases_4 :
    let s : State := st trained
    let n : Nat := 0
    let pops : List ChanPop := [pop1]
    let q : ChanPop := pop1
    let info : ChanInfo := { type := 1, speed := 1, dpc := 0, density := 0, rpd := 1 }
    let c := s.chip
    let up := (popRanks q).filter fun r => q.trained.getLsbD r
    let plain := c.flash.ranks = [] ∧ c.flash.cfg.spares = [] ∧ c.flash.cfg.msets = []
    c.phase = 1 ∧
    c.pwr.clocks = true ∧
    plain ∧
    pops[n]? = some q ∧
    n < 12 ∧
    chanInfo q = some info ∧
    up ≠ [] := by
  decide +kernel

theorem meets_BootAndResetPhases_5 :
    let s : State := st trained
    let pops : List ChanPop := [{pop1 with trained := 0}, {pop1 with dimms := [dimm1, { dimm1 with ranks := 4 }]}]
    let c := s.chip
    c.phase = 1 ∧
    c.pwr.clocks = true ∧
    (∀ p ∈ pops, chanInfo p = none ∨ p.trained = 0) ∧
    (∀ k, k < 12 → (c.unit (uMc k)).initDone = false) := by
  decide +kernel

theorem meets_BootAndResetPhases_6 :
    let s : State := st after2
    let bs : List Byte := (rdW after2).1
    let e : Bool := false
    let c2 : Chip := (rdW after2).2
    let c := s.chip
    let entered := ((c.setPhase 3).setIo32 0x10 1).bootWrite c.boot.load (c.flash.bytes.read (c.boot.copyBase + 0x80000)
        c.boot.image)
    let checked := c.phase = 2 ∧ c.pwr.clocks = true ∧ entered.busRead c.boot.load c.boot.image = (.ok bs e, c2)
    checked ∧
    sha384 bs = c.boot.digest := by
  decide +kernel

theorem meets_BootAndResetPhases_7 :
    let s : State := st after3
    let bs : List Byte := (rdW after3).1
    let e : Bool := false
    let c2 : Chip := (rdW after3).2
    let c := s.chip
    let entered := ((c.setPhase 3).setIo32 0x10 1).bootWrite c.boot.load (c.flash.bytes.read (c.boot.copyBase + 0x80000)
        c.boot.image)
    let checked := c.phase = 2 ∧ c.pwr.clocks = true ∧ entered.busRead c.boot.load c.boot.image = (.ok bs e, c2)
    checked ∧
    sha384 bs ≠ c.boot.digest := by
  decide +kernel

theorem meets_BootAndResetPhases_8 :
    let s : State := st { after2 with boot := { after2.boot with pops := [pop1] } }
    let c := s.chip
    let plain := c.flash.ranks = [] ∧ c.flash.cfg.spares = [] ∧ c.flash.cfg.msets = []
    c.pwr.pwrgood = true ∧
    c.pwr.clocks = true ∧
    c.boot.pops ≠ [] ∧
    plain := by
  decide +kernel

end Boot

end Sys2Proof.Tests
end

section
/-! The scope of the device (R2-R5): what a command's guard answers, that the parts of the device follow its fuses, that time
keeps the fuses, and from these the two statements about safe queues. -/

namespace Sys2Proof.Machine

/-! The guard of a command. -/

/-- The meaning of every command is an effect behind the guard of the parts that `partsOf` lists for it. -/
theorem exec_eq_onParts (i : Instr) (s : State) : ∃ f : Chip → Chip, exec i s = onParts (partsOf i) s f := by
  cases i <;> (unfold exec; exact ⟨_, rfl⟩)

/-- A command that names a missing part stops as the fault of a part that it names and the device lacks. -/
theorem onParts_fault {l : List (Part × Nat)} {s : State} (h : (l.all fun e => decide (e.2 < s.chip.parts e.1)) = false)
    (f : Chip → Chip) : ∃ p n, (p, n) ∈ l ∧ s.chip.parts p ≤ n ∧ onParts l s f = .fault (.noSuchPart p n) := by
  cases hf : l.find? (fun e => decide (s.chip.parts e.1 ≤ e.2)) with
  | none =>
    have hall : ∀ e ∈ l, e.2 < s.chip.parts e.1 := by simpa using hf
    simp only [List.all_eq_false, decide_eq_true_eq] at h
    obtain ⟨e, he, hlack⟩ := h
    exact absurd (hall e he) hlack
  | some e =>
    have hlack : s.chip.parts e.1 ≤ e.2 := by simpa using List.find?_some hf
    exact ⟨e.1, e.2, List.mem_of_find?_eq_some hf, hlack, by simp [onParts, hf]⟩

theorem exec_fault_of_not_serves {i : Instr} {s : State} (h : s.chip.serves i = false) :
    ∃ p n, (p, n) ∈ partsOf i ∧ s.chip.parts p ≤ n ∧ exec i s = .fault (.noSuchPart p n) := by
  obtain ⟨f, he⟩ := exec_eq_onParts i s
  rw [he]
  exact onParts_fault h f

/-- `exec_next`, field by field: the queue and the fuses are as before. -/
theorem exec_keeps_queue_and_fuse {i : Instr} {s : State} (h : s.chip.serves i = true) :
    ∃ t, exec i s = .next t ∧ t.pending = s.pending ∧ t.chip.fuse = s.chip.fuse := by
  obtain ⟨c, he⟩ := exec_next i h
  exact ⟨_, he, rfl, rfl⟩

/-! The parts follow the fuses (R2-R5). -/

theorem Chip.parts_of_fuse_eq {c d : Chip} (h : d.fuse = c.fuse) (p : Part) : d.parts p = c.parts p := by
  cases p with
  | hart => simp only [Chip.parts, Chip.nHarts, h]
  | ethPort => simp only [Chip.parts, h]
  | _ => rfl

theorem Chip.serves_of_fuse_eq {c d : Chip} (h : d.fuse = c.fuse) (i : Instr) : d.serves i = c.serves i := by
  simp only [Chip.serves, Chip.parts_of_fuse_eq h]

/-- A device with the fuses of the largest member has the parts that `fullParts` counts (R2, R3). -/
theorem Chip.parts_of_full {c : Chip} (h : c.fuse.full = true) (p : Part) : c.parts p = fullParts p := by
  simp only [Fuses.full, Bool.and_eq_true, decide_eq_true_eq] at h
  obtain ⟨hmember, heth⟩ := h
  cases p with
  | hart => simp [Chip.parts, Chip.nHarts, fullParts, hmember]
  | ethPort => simpa only [Chip.parts, fullParts] using heth
  | _ => rfl

theorem Chip.serves_of_full {c : Chip} (hc : c.fuse.full = true) {i : Instr} (hi : i.wf = true) : c.serves i = true := by
  simp only [Chip.serves, List.all_eq_true, decide_eq_true_eq]
  intro e he
  rw [Chip.parts_of_full hc]
  exact Laws.Reach.every i hi e he

/-! A tick keeps the fuses. -/

/-- Folding changes that keep the fuses keeps them. -/
theorem Chip.foldl_fuse {β : Type} {f : Chip → β → Chip} (h : ∀ c b, (f c b).fuse = c.fuse) (l : List β) (c : Chip) :
    (l.foldl f c).fuse = c.fuse :=
  List.foldlRecOn (motive := fun d => d.fuse = c.fuse) l f rfl fun d hd b _ => (h d b).trans hd

@[simp] theorem Chip.setRegFld_fuse (c : Chip) (u b o hi lo v : Nat) : (c.setRegFld u b o hi lo v).fuse = c.fuse := rfl

@[simp] theorem Chip.countReg_fuse (c : Chip) (u b o n : Nat) : (c.countReg u b o n).fuse = c.fuse := rfl

@[simp] theorem Chip.edgeRetired_fuse (c : Chip) : c.edgeRetired.fuse = c.fuse := by
  unfold Chip.edgeRetired
  split <;> rfl

@[simp] theorem Chip.meshCycle_fuse (c : Chip) : c.meshCycle.fuse = c.fuse := rfl

@[simp] theorem Chip.meshRun_fuse (c : Chip) (n : Nat) : (c.meshRun n).fuse = c.fuse := by
  rw [← Chip.edgeRetired_fuse c]
  unfold Chip.meshRun
  dsimp only
  split
  · rfl
  · exact Chip.foldl_fuse (fun c _ => c.meshCycle_fuse) _ _

@[simp] theorem Chip.pauseTick_fuse (c : Chip) : c.pauseTick.fuse = c.fuse := by
  refine Chip.foldl_fuse (fun c n => ?_) _ c
  split
  · split
    · simp
    · rfl
  · rfl

@[simp] theorem Chip.hotline_fuse (c : Chip) : c.hotline.fuse = c.fuse := by
  refine Chip.foldl_fuse (fun c e => ?_) _ c
  exact c.countReg_fuse (uSlice e.1) 0 0x1084 tickMc

@[simp] theorem Chip.dvTick_fuse (c : Chip) : c.dvTick.fuse = c.fuse := by
  refine Chip.foldl_fuse (fun c d => ?_) _ c
  split <;> simp

@[simp] theorem Chip.bankTick_fuse (c : Chip) (b : Nat) : (c.bankTick b).fuse = c.fuse := by
  unfold Chip.bankTick
  dsimp only
  split <;> rfl

/-- Time changes no fuse (R2, R493). -/
@[simp] theorem Chip.tick_fuse (c : Chip) : c.tick.fuse = c.fuse := by
  have hstandby : (if c.boot.standby then { c with mtime := c.mtime + 1 } else c).fuse = c.fuse := by
    split <;> rfl
  unfold Chip.tick
  generalize (if c.boot.standby then { c with mtime := c.mtime + 1 } else c) = d at hstandby
  dsimp only
  split
  · exact hstandby
  · rw [Chip.foldl_fuse Chip.bankTick_fuse, Chip.dvTick_fuse, Chip.hotline_fuse, Chip.pauseTick_fuse, Chip.meshRun_fuse, hstandby]

/-! Safe states. -/

/-- A shorter queue on a device with the same fuses is safe when the longer one is. -/
theorem State.Safe.of_subset {s t : State} (hs : s.Safe) (hq : t.pending ⊆ s.pending) (hf : t.chip.fuse = s.chip.fuse) :
    t.Safe := fun i hi => (Chip.serves_of_fuse_eq hf i).trans (hs i (hq hi))

/-- What a step from a safe state can do: it takes the front of the queue, if there is one, and leaves the fuses. -/
theorem State.Safe.step_next {s : State} (hs : s.Safe) :
    ∃ t, step s = .next t ∧ t.chip.fuse = s.chip.fuse ∧ t.pending = s.pending.tail := by
  obtain ⟨pending, c⟩ := s
  cases pending with
  | nil => exact ⟨_, rfl, c.tick_fuse, rfl⟩
  | cons i rest =>
    obtain ⟨t, he, hq, hf⟩ := exec_keeps_queue_and_fuse (s := ⟨rest, c⟩) (hs i List.mem_cons_self)
    exact ⟨t, he, hf, hq⟩

/-- Every step keeps safety. -/
theorem State.Safe.step_safe {s : State} (hs : s.Safe) :
    ∃ t, step s = .next t ∧ t.Safe ∧ t.chip.fuse = s.chip.fuse ∧ t.pending = s.pending.tail := by
  obtain ⟨t, hstep, hf, hq⟩ := hs.step_next
  exact ⟨t, hstep, hs.of_subset (hq ▸ s.pending.tail_subset) hf, hf, hq⟩

/-- A safe queue of `n` commands is empty after `n` steps, each of which answers a next state. -/
theorem State.Safe.queue_empties (n : Nat) {s : State} (hs : s.Safe) (hn : s.pending.length = n) :
    ∃ t, stepsNext n s = some t ∧ t.pending = [] ∧ t.chip.fuse = s.chip.fuse := by
  induction n generalizing s with
  | zero => exact ⟨s, rfl, List.length_eq_zero_iff.mp hn, rfl⟩
  | succ n ih =>
    obtain ⟨t, hstep, ht, hf, hq⟩ := hs.step_safe
    have hlen : t.pending.length = n := by rw [hq, List.length_tail, hn, Nat.add_sub_cancel]
    obtain ⟨u, hu, hempty, hfu⟩ := ih ht hlen
    exact ⟨u, by simp only [stepsNext, hstep, hu], hempty, hfu.trans hf⟩

/-- On the largest member a queue of well-formed commands is safe (R2, R3). -/
theorem State.safe_of_full {s : State} (hfull : s.chip.fuse.full = true) (hwf : ∀ i ∈ s.pending, i.wf = true) : s.Safe :=
  fun i hi => Chip.serves_of_full hfull (hwf i hi)

/-! The statements. -/

/-- Settles O59: the guard of each command decides by the fuses, and no step changes them. -/
theorem safeStatesStaySafe : Obligations.SafeStatesStaySafe :=
  ⟨fun _ _ => exec_keeps_queue_and_fuse, fun _ _ => exec_fault_of_not_serves, fun _ hs => hs.step_safe⟩

/-- Settles O60: on the largest member well-formed queues are safe, and a safe queue empties, by induction on its length. -/
theorem fullMembersRunEveryCommand : Obligations.FullMembersRunEveryCommand := by
  refine ⟨fun i s hwf hfull => ?_, fun s hfull hwf => (State.safe_of_full hfull hwf).queue_empties _ rfl⟩
  obtain ⟨t, he, -, -⟩ := exec_keeps_queue_and_fuse (s := s) (Chip.serves_of_full hfull hwf)
  exact ⟨t, he⟩

end Sys2Proof.Machine
end

section
/-! Logged errors (R420-R422, R438): the record that an error leaves, what logging it can change, and that it takes the first
record of a clear bank. -/

namespace Sys2Proof.Machine

/-! Records read in a device that has the same table of them. -/

theorem Chip.unit_of_units {c d : Chip} (h : d.units = c.units) (u : Nat) : d.unit u = c.unit u := by
  unfold Chip.unit
  rw [h]

theorem Chip.hart_of_harts {c d : Chip} (h : d.harts = c.harts) (n : Nat) : d.hart n = c.hart n := by
  unfold Chip.hart
  rw [h]

theorem Chip.errRec_of_errs {c d : Chip} (h : d.errs = c.errs) (u i : Nat) : d.errRec u i = c.errRec u i := by
  unfold Chip.errRec
  rw [h]

@[simp] theorem Chip.modHart_core (c : Chip) (n k : Nat) (f : Hart → Hart) : (c.modHart n f).core k = c.core k := rfl
@[simp] theorem Chip.modHart_unit (c : Chip) (n u : Nat) (f : Hart → Hart) : (c.modHart n f).unit u = c.unit u := rfl

/-! The record that an error leaves (R420, R422). -/

/-- The low byte of the status of a new record: valid, its class, and whether more than one error occurred. -/
def statusLow (k : ErrClass) (mo : Bool) : Nat :=
  1 + (match k with | .corrected => 2 | .deferred => 4 | .uncorrected => 8 + 2 ^ 7 | .fatal => 8) + bit mo * 2 ^ 6

theorem mkStatus_mod (e : ErrInfo) (mo : Bool) : (mkStatus e mo).toNat % 2 ^ 8 = statusLow e.cls mo := by
  have hlow : statusLow e.cls mo < 2 ^ 8 := by cases e.cls <;> cases mo <;> decide
  rw [mkStatus, BitVec.toNat_ofNat, Nat.mod_mod_of_dvd _ (by decide)]
  cases hk : e.cls <;> simp only [hk, statusLow, reduceCtorEq, if_true, if_false] at hlow ⊢ <;> omega

theorem mkStatus_getLsbD (e : ErrInfo) (mo : Bool) {i : Nat} (hi : i < 8) :
    (mkStatus e mo).getLsbD i = (statusLow e.cls mo).testBit i := by
  rw [← mkStatus_mod, Nat.testBit_mod_two_pow]
  simp [hi, BitVec.getLsbD]

/-- The record that an error leaves in a place of a unit's bank. -/
def Chip.newRec (c : Chip) (u i : Nat) (e : ErrInfo) (mo : Bool) : ErrRec :=
  { control := (c.errRec u i).control
    status := mkStatus e mo
    addr := BitVec.ofNat 64 e.addr
    info := BitVec.ofNat 64 (u + e.struct * 2 ^ 16 + e.indexA % 256 * 2 ^ 24 + e.indexB % 65536 * 2 ^ 32
      + bit e.injected * 2 ^ 48 + bit e.migrated * 2 ^ 49)
    suppl := BitVec.ofNat 64 (e.owner % 65536 + min 255 e.bits * 2 ^ 16)
    time := c.mtime
    order := c.errSeq }

section newRec
variable (c : Chip) (u i : Nat) (e : ErrInfo) (mo : Bool)

theorem Chip.writeRec_eq : c.writeRec u i e mo =
    ({ c.setErrRec u i (c.newRec u i e mo) with errSeq := c.errSeq + 1 } : Chip).signalRec (c.newRec u i e mo) := rfl

/-- The status is hidden so that the kernel compares the two controls and not the records. -/
@[simp] theorem Chip.newRec_control : (c.newRec u i e mo).control = (c.errRec u i).control := by
  unfold Chip.newRec
  generalize mkStatus e mo = st
  rfl

@[simp] theorem Chip.newRec_valid : (c.newRec u i e mo).valid = true := by
  refine (mkStatus_getLsbD e mo (by decide)).trans ?_
  cases e.cls <;> cases mo <;> rfl

@[simp] theorem Chip.newRec_cls : (c.newRec u i e mo).cls = e.cls := by
  simp only [ErrRec.cls, Chip.newRec, mkStatus_getLsbD e mo (show 2 < 8 by decide), mkStatus_getLsbD e mo (show 3 < 8 by decide),
    mkStatus_getLsbD e mo (show 7 < 8 by decide)]
  cases e.cls <;> cases mo <;> rfl

@[simp] theorem Chip.newRec_multiple : (c.newRec u i e mo).status.getLsbD 6 = mo := by
  refine (mkStatus_getLsbD e mo (by decide)).trans ?_
  cases e.cls <;> cases mo <;> rfl

theorem Chip.newRec_struct (hu : u < 2 ^ 16) (hs : e.struct < 2 ^ 8) : (c.newRec u i e mo).struct = e.struct := by
  have hi : bit e.injected ≤ 1 := by cases e.injected <;> decide
  have hm : bit e.migrated ≤ 1 := by cases e.migrated <;> decide
  simp only [ErrRec.struct, Chip.newRec, fld, BitVec.toNat_ofNat]
  omega

theorem Chip.newRec_unit (hu : u < 2 ^ 16) : fld (c.newRec u i e mo).info 15 0 = u := by
  simp only [Chip.newRec, fld, BitVec.toNat_ofNat]
  omega

theorem Chip.newRec_owner : fld (c.newRec u i e mo).suppl 15 0 = e.owner % 2 ^ 16 := by
  simp only [Chip.newRec, fld, BitVec.toNat_ofNat]
  omega

theorem Chip.newRec_migrated (hu : u < 2 ^ 16) (hs : e.struct < 2 ^ 8) : (c.newRec u i e mo).migrated = e.migrated := by
  have hi : bit e.injected ≤ 1 := by cases e.injected <;> decide
  have hm : bit e.migrated ≤ 1 := by cases e.migrated <;> decide
  have hbit : (c.newRec u i e mo).info.toNat / 2 ^ 49 % 2 = bit e.migrated := by
    simp only [Chip.newRec, BitVec.toNat_ofNat]
    omega
  rw [ErrRec.migrated, BitVec.getLsbD, Nat.testBit_eq_decide_div_mod_eq, hbit]
  cases e.migrated <;> rfl

end newRec

/-- Device `d` is device `c` but for its units, its error records and what messages change. -/
def OnlyRecords (c d : Chip) : Prop :=
  { d with units := c.units, errs := c.errs, errSeq := c.errSeq, imsic := c.imsic, msiDrops := c.msiDrops } = c

theorem OnlyRecords.trans {a b c : Chip} (h : OnlyRecords a b) (g : OnlyRecords b c) : OnlyRecords a c := by
  have hab : ({ b with units := a.units, errs := a.errs, errSeq := a.errSeq, imsic := a.imsic, msiDrops := a.msiDrops } : Chip)
    = a := h
  exact (congrArg (fun x : Chip =>
    { x with units := a.units, errs := a.errs, errSeq := a.errSeq, imsic := a.imsic, msiDrops := a.msiDrops }) g).trans hab

/-- A message changes the interrupt files or the count of dropped messages. -/
theorem Chip.sigMessage_eq (c : Chip) (off : Nat) : ∃ f n, c.sigMessage off = { c with imsic := f, msiDrops := n } := by
  unfold Chip.sigMessage Chip.imsicSet
  split
  · split <;> exact ⟨_, _, rfl⟩
  · exact ⟨_, _, rfl⟩

/-- The signal of a record that is not fatal is a message or nothing. -/
theorem Chip.signalRec_eq (c : Chip) {r : ErrRec} (h : r.cls ≠ .fatal) :
    ∃ f n, c.signalRec r = { c with imsic := f, msiDrops := n } := by
  unfold Chip.signalRec
  simp only [if_neg h]
  split_ifs
  · exact c.sigMessage_eq _
  · exact c.sigMessage_eq _
  · exact ⟨_, _, rfl⟩

theorem Chip.writeRec_onlyRecords (c : Chip) (u i : Nat) {e : ErrInfo} (mo : Bool) (h : e.cls ≠ .fatal) :
    OnlyRecords c (c.writeRec u i e mo) := by
  obtain ⟨f, n, hs⟩ := Chip.signalRec_eq { c.setErrRec u i (c.newRec u i e mo) with errSeq := c.errSeq + 1 }
    (r := c.newRec u i e mo) (by rwa [Chip.newRec_cls])
  rw [Chip.writeRec_eq, hs]
  rfl

/-- Logging an error that is not fatal changes units, records and what messages change, whichever rule of R421 applies. -/
theorem Chip.logErr_onlyRecords (c : Chip) (u : Nat) {e : ErrInfo} (h : e.cls ≠ .fatal) : OnlyRecords c (c.logErr u e) := by
  have hmod : OnlyRecords c (c.modUnit u fun x => { x with err := x.err ||| summaryBit e }) := rfl
  unfold Chip.logErr
  extract_lets d rs rs' vs same newest lowest
  split
  · dsimp only
    split <;> rfl
  · split
    · exact hmod.trans (Chip.writeRec_onlyRecords _ _ _ _ h)
    · split
      · exact hmod.trans (Chip.writeRec_onlyRecords _ _ _ _ h)
      · rw [if_neg h]
        split <;> rfl

/-- With a constant key the first record that passes the test is the best. -/
theorem bestRec_const_cons (i n : Nat) (r : ErrRec) (l : List (Nat × ErrRec)) {p : ErrRec → Bool} (h : p r = true) :
    bestRec ((i, r) :: l) p (fun _ => n) = some i := by
  unfold bestRec
  rw [List.filter_cons_of_pos (p := fun e : Nat × ErrRec => p e.2) (a := (i, r)) h, List.foldl_cons]
  refine congrArg (Option.map Prod.fst) (List.foldlRecOn (motive := (· = some (i, n))) _ _ rfl ?_)
  rintro _ rfl e -
  exact if_neg (Nat.lt_irrefl n)

/-- An error of a unit whose bank is clear takes record 0 (R421). -/
theorem Chip.logErr_bankClear {c : Chip} {u : Nat} (h : c.bankClear u = true) (e : ErrInfo) :
    c.logErr u e = (c.modUnit u fun x => { x with err := x.err ||| summaryBit e }).writeRec u 0 e false := by
  obtain ⟨hvalid, hlogs⟩ : (∀ i < 4, (c.errRec u i).valid = false) ∧ (c.errRec u 0).control.getLsbD 0 = true := by
    simpa [Chip.bankClear] using h
  unfold Chip.logErr
  extract_lets d rs rs' vs same newest lowest
  have hfirst : ∃ l, rs' = (0, d.errRec u 0) :: l :=
    ⟨_, List.filter_cons_of_pos (p := fun r : Nat × ErrRec => r.2.control.getLsbD 0) (a := (0, d.errRec u 0)) hlogs⟩
  have hvs : vs = [] := by
    refine List.filter_eq_nil_iff.mpr fun r hr => ?_
    obtain ⟨i, hi, rfl⟩ := List.mem_map.mp (List.mem_of_mem_filter hr)
    exact Bool.eq_false_iff.mp (hvalid i (List.mem_range.mp hi))
  obtain ⟨l, hl⟩ := hfirst
  have hfree : (!(d.errRec u 0).valid) = true := by rw [show (d.errRec u 0).valid = false from hvalid 0 (by decide)]; rfl
  have hsame : bestRec [] same (·.order) = none := rfl
  rw [hvs, hl, bestRec_const_cons 0 0 _ l (p := fun r => !r.valid) hfree, hsame, ite_self]

@[simp] theorem Chip.sigMessage_units (c : Chip) (off : Nat) : (c.sigMessage off).units = c.units := by
  obtain ⟨f, n, h⟩ := c.sigMessage_eq off
  rw [h]

@[simp] theorem Chip.sigMessage_errs (c : Chip) (off : Nat) : (c.sigMessage off).errs = c.errs := by
  obtain ⟨f, n, h⟩ := c.sigMessage_eq off
  rw [h]

@[simp] theorem Chip.signalRec_units (c : Chip) (r : ErrRec) : (c.signalRec r).units = c.units := by
  unfold Chip.signalRec
  extract_lets enc d
  have hd : d.units = c.units := by unfold d; split <;> rfl
  split_ifs <;> simp [hd]

@[simp] theorem Chip.signalRec_errs (c : Chip) (r : ErrRec) : (c.signalRec r).errs = c.errs := by
  unfold Chip.signalRec
  extract_lets enc d
  have hd : d.errs = c.errs := by unfold d; split <;> rfl
  split_ifs <;> simp [hd]

/-- An error of a unit whose bank is clear leaves the record of R420 in place 0. -/
theorem Chip.logErr_wrote {c : Chip} {u : Nat} (h : c.bankClear u = true) {e : ErrInfo} (hu : u < 2 ^ 16)
    (hs : e.struct < 2 ^ 8) :
    c.wrote (c.logErr u e) u 0 e.cls e.struct (e.owner % 2 ^ 16) e.migrated := by
  have hrec : (c.logErr u e).errRec u 0 = c.newRec u 0 e false := by
    rw [Chip.logErr_bankClear h, Chip.writeRec_eq]
    simp only [Chip.errRec, Chip.signalRec_errs, Chip.setErrRec, Sparse.at_put_self]
    rfl
  have herr : ((c.logErr u e).unit u).err = (c.unit u).err ||| summaryBit e := by
    rw [Chip.logErr_bankClear h, Chip.writeRec_eq, Chip.unit_of_units (Chip.signalRec_units _ _)]
    exact congrArg UnitSt.err (Chip.modUnit_self c u fun x => { x with err := x.err ||| summaryBit e })
  unfold Chip.wrote
  rw [hrec]
  exact ⟨Chip.newRec_valid .., Chip.newRec_cls .., Chip.newRec_struct _ _ _ _ _ hu hs, Chip.newRec_unit _ _ _ _ _ hu,
    Chip.newRec_owner .., Chip.newRec_migrated _ _ _ _ _ hu hs, Chip.newRec_multiple .., rfl,
    Chip.newRec_control .., herr⟩

/-- A record that is new against one device is new against every device with the same records, units and time. -/
theorem Chip.wrote_of_eq {b c d : Chip} (he : b.errs = c.errs) (hu : b.units = c.units) (ht : b.mtime = c.mtime) {u i : Nat}
    {k : ErrClass} {struct owner : Nat} {mig : Bool} (h : b.wrote d u i k struct owner mig) :
    c.wrote d u i k struct owner mig := by
  simpa only [Chip.wrote, Chip.errRec_of_errs he, Chip.unit_of_units hu, ht] using h

theorem Chip.bankClear_of_errs {c d : Chip} (h : d.errs = c.errs) (u : Nat) : d.bankClear u = c.bankClear u := by
  simp only [Chip.bankClear, Chip.errRec_of_errs h]

end Sys2Proof.Machine
end

section
/-! Units change power state and the Bellwether controller restarts alone (R36-R38, R358, R359, R488): what an accepted request,
the end of a transition, a watchdog expiry and the end of a restart do, and from these the statement. -/

namespace Sys2Proof.Machine

/-- A table filtered by number lists a number when the filter keeps it. -/
theorem Sparse.find_filter {α : Type} (p : Nat → Bool) (m : Sparse α) (n : Nat) :
    Sparse.find (m.filter fun e => p e.1) n = if p n = true then Sparse.find m n else none := by
  induction m with
  | nil => simp [Sparse.find]
  | cons e t ih =>
    obtain ⟨k, v⟩ := e
    by_cases hk : p k = true
    · simp only [List.filter_cons_of_pos (p := fun e : Nat × α => p e.1) (a := (k, v)) hk, Sparse.find, ih]
      by_cases hn : n = k <;> simp [hn, hk]
    · simp only [List.filter_cons_of_neg (p := fun e : Nat × α => p e.1) (a := (k, v)) hk, Sparse.find, ih]
      by_cases hn : n = k <;> simp [hn, hk]

/-! Commands. -/

/-- A command's answer from its effect, for a claim that does not speak of the fuses. -/
theorem RunsTo.of_fuseless {i : Instr} {s : State} {P : Chip → Prop} (f : Chip → Chip)
    (he : exec i s = onParts (partsOf i) s f) (hP : P (f s.chip)) (hfuse : ∀ d g, P d → P (d.withFuse g)) : RunsTo i s P :=
  RunsTo.of he (hfuse _ _ hP)

/-! A unit asked for a power state (R36-R38). -/

/-- The write of an acceptable REQ that no transition or use of the unit holds off. -/
theorem Chip.controlWrite_power {c : Chip} {src : Src} {u req : Nat} (hsrc : src = .bellwether ∨ ∃ n, src = .hart n)
    (hclk : c.pwr.clocks = true) (hu : u ≤ 512) (hpres : c.present u = true) (hreq : reqWritable u = true)
    (hr : req = 0 ∨ req = 2) (hbusy : c.powerBusy u req = false) :
    c.controlWrite src (.desc u 0x18) 4 (BitVec.ofNat 64 req) = (c.powerRequest u req).clearFault 0 (1 + u) 0x18 := by
  have hfold : kindOf u ≠ .fold := fun hk => by simp [reqWritable, hk] at hreq
  have hword : c.descWrite u 0x18 ((BitVec.ofNat 64 req).setWidth 32) = (c.powerRequest u req).clearFault 0 (1 + u) 0x18 := by
    have hu' : ¬ 512 < u := by omega
    rcases hr with rfl | rfl <;> simp [Chip.descWrite, hu', hpres, hreq, hfold, hbusy, fld]
  rcases hsrc with rfl | ⟨n, rfl⟩ <;>
    simpa [Chip.controlWrite, Chip.throughBar, ctlOff, accessError, hclk, Chip.write32] using hword

@[simp] theorem Chip.clearFault_fuse (c : Chip) (u b o : Nat) : (c.clearFault u b o).fuse = c.fuse := rfl
@[simp] theorem Chip.clearFault_unit (c : Chip) (u b o n : Nat) : (c.clearFault u b o).unit n = c.unit n := rfl

@[simp] theorem Chip.powerRequest_fuse (c : Chip) (u req : Nat) : (c.powerRequest u req).fuse = c.fuse := rfl

theorem Chip.powerRequest_unit_ne {u j : Nat} (h : j ≠ u) (c : Chip) (req : Nat) : (c.powerRequest u req).unit j = c.unit j :=
  Chip.modUnit_ne h c _

theorem Chip.powerRequest_unit_self (c : Chip) (u req : Nat) :
    (c.powerRequest u req).unit u =
      if (c.unit u).cur = BitVec.ofNat 2 req ∧ (c.unit u).busy = false then { c.unit u with req := BitVec.ofNat 2 req }
      else { c.unit u with req := BitVec.ofNat 2 req, target := BitVec.ofNat 2 req, busy := true } := by
  simp [Chip.powerRequest]

/-! The end of a transition (R33, R37). -/

@[simp] theorem Chip.freshBlock_units (c : Chip) (u : Nat) : (c.freshBlock u).units = c.units := by
  unfold Chip.freshBlock
  dsimp only
  split <;> rfl

@[simp] theorem Chip.unitFresh_units (c : Chip) (u : Nat) : (c.unitFresh u).units = c.units := by
  unfold Chip.unitFresh
  split <;> rfl

@[simp] theorem Chip.unitFresh_ctl (c : Chip) (u : Nat) : (c.unitFresh u).ctl = c.ctl := by
  unfold Chip.unitFresh
  split <;> rfl

/-- A block other than that of PX0, whose ROLE follows a strap, loses every stored value, and no other block does. -/
theorem Chip.freshBlock_find {c : Chip} {u : Nat} (hu : u ≠ uPx 0) (n : Nat) :
    Sparse.find (c.freshBlock u).ctl.regs n = if n / 2 ^ 48 = u then none else Sparse.find c.ctl.regs n := by
  have hblock : c.freshBlock u = c.resetBlock u := by simp [Chip.freshBlock, hu]
  rw [hblock]
  refine (Sparse.find_filter (fun k => !decide (k / 2 ^ 48 = u)) c.ctl.regs n).trans ?_
  split <;> simp_all

/-- A bus port or engine that reaches Off: its unit shows the state, and its registers stay. -/
theorem Chip.powerDone_off {c : Chip} {u : Nat} (hbusy : (c.unit u).busy = true) (hk : kindOf u ∈ [Kind.busPort, .shears])
    (ht : (c.unit u).target = 2) :
    c.powerDone u = c.modUnit u fun y => { y with cur := 2, busy := false, initDone := false } := by
  simp only [List.mem_cons, List.not_mem_nil, or_false] at hk
  rcases hk with hk | hk <;> simp [Chip.powerDone, hbusy, hk, ht]

/-- A network port or engine that leaves Off for Run: its block and what it holds start afresh, then its unit shows the state. -/
theorem Chip.powerDone_run {c : Chip} {u : Nat} (hbusy : (c.unit u).busy = true) (hk : kindOf u ∈ [Kind.ethPort, .shears])
    (ht : (c.unit u).target = 0#2) (hcur : (c.unit u).cur ≠ 0#2) :
    c.powerDone u = ((c.freshBlock u).unitFresh u).modUnit u fun y => { y with cur := 0, busy := false, initDone := true } := by
  simp only [List.mem_cons, List.not_mem_nil, or_false] at hk
  rcases hk with hk | hk <;> simp [Chip.powerDone, hbusy, hk, ht, hcur]

/-- After that transition the unit shows Run, its registers are at reset, and those of every other block stay (R37). -/
theorem Chip.powerDone_run_shows {c : Chip} {u : Nat} (hbusy : (c.unit u).busy = true) (hk : kindOf u ∈ [Kind.ethPort, .shears])
    (ht : (c.unit u).target = 0#2) (hcur : (c.unit u).cur ≠ 0#2) :
    (c.powerDone u).unit u = { c.unit u with cur := 0, busy := false, initDone := true } ∧
      ∀ n, Sparse.find (c.powerDone u).ctl.regs n = if n / 2 ^ 48 = u then none else Sparse.find c.ctl.regs n := by
  have hu : u ≠ uPx 0 := by
    rintro rfl
    simp [kindOf_uPx] at hk
  rw [Chip.powerDone_run hbusy hk ht hcur]
  constructor
  · rw [Chip.modUnit_self, Chip.unit_of_units (Chip.unitFresh_units _ u), Chip.unit_of_units (c.freshBlock_units u)]
  · intro n
    rw [Chip.modUnit_ctl, Chip.unitFresh_ctl, Chip.freshBlock_find hu]

/-! Drover cores and clusters (R36, R37). -/

theorem kindOf_uDvCore {d k : Nat} (hd : d < 2) (hk : k < 32) : kindOf (uDvCore d k) = .droverCore := by
  unfold kindOf uDvCore
  repeat rw [if_neg (by omega)]
  rw [if_pos (by omega)]

theorem uDvCore_ne_uDrover {d e k : Nat} (hd : d < 2) : uDrover d ≠ uDvCore e k := by
  unfold uDrover uDvCore
  omega

theorem uDvCore_injective (d : Nat) : Function.Injective (uDvCore d) := fun j k h => by
  unfold uDvCore at h
  omega

@[simp] theorem Chip.modDvCore_self (c : Chip) (d k : Nat) (f : DvCore → DvCore) :
    (c.modDvCore d k f).dvCore d k = f (c.dvCore d k) := by
  simp [Chip.modDvCore, Chip.dvCore]

/-- The unit of a drover core brought to a state shows it. -/
@[simp] theorem Chip.dvCoreTo_unit_self (c : Chip) (d k : Nat) (s : BitVec 2) :
    (c.dvCoreTo d k s).unit (uDvCore d k) =
      { c.unit (uDvCore d k) with cur := s, busy := false, target := s, initDone := decide (s = 0) } := by
  unfold Chip.dvCoreTo
  dsimp only
  rw [Chip.modUnit_self]
  split <;> rfl

/-- Bringing a drover core to a state leaves every other unit alone. -/
theorem Chip.dvCoreTo_unit_ne {c : Chip} {d k u : Nat} (h : u ≠ uDvCore d k) (s : BitVec 2) :
    (c.dvCoreTo d k s).unit u = c.unit u := by
  unfold Chip.dvCoreTo
  dsimp only
  rw [Chip.modUnit_ne h]
  split <;> rfl

/-- A drover core that leaves Off for Run begins as after reset. -/
theorem Chip.dvCoreTo_run_dvCore {c : Chip} {d k : Nat} (h : (c.unit (uDvCore d k)).cur ≠ 0) :
    (c.dvCoreTo d k 0).dvCore d k = {} := by
  unfold Chip.dvCoreTo
  dsimp only
  rw [if_pos ⟨rfl, h⟩]
  exact Chip.modDvCore_self _ d k _

/-- The cores of a list brought to one state leave each unit that is none of them alone. -/
theorem Chip.foldl_dvCoreTo_unit_ne {d u : Nat} (s : BitVec 2) (l : List Nat) (h : ∀ k ∈ l, u ≠ uDvCore d k) (c : Chip) :
    (l.foldl (fun c k => c.dvCoreTo d k s) c).unit u = c.unit u :=
  List.foldlRecOn (motive := fun e : Chip => e.unit u = c.unit u) l _ rfl
    fun _ he k hk => (Chip.dvCoreTo_unit_ne (h k hk) s).trans he

/-- Each core of a list brought to one state shows it. -/
theorem Chip.foldl_dvCoreTo_cur {d k : Nat} (s : BitVec 2) {l : List Nat} (hk : k ∈ l) (c : Chip) :
    ((l.foldl (fun c j => c.dvCoreTo d j s) c).unit (uDvCore d k)).cur = s := by
  induction l generalizing c with
  | nil => simp at hk
  | cons j t ih =>
    by_cases ht : k ∈ t
    · exact ih ht _
    · obtain rfl : k = j := (List.mem_cons.mp hk).resolve_right ht
      rw [List.foldl_cons, Chip.foldl_dvCoreTo_unit_ne s t (fun i hi e => ht (by rwa [uDvCore_injective d e])),
        Chip.dvCoreTo_unit_self]

/-- A core of a cluster that is not Off reaches its target alone. -/
theorem Chip.powerDone_dvCore {c : Chip} {d k : Nat} (hd : d < 2) (hk : k < 32) (hbusy : (c.unit (uDvCore d k)).busy = true)
    (hcl : (c.unit (uDrover d)).cur ≠ 2#2) :
    c.powerDone (uDvCore d k) = c.dvCoreTo d k (c.unit (uDvCore d k)).target := by
  have hdiv : (uDvCore d k - 449) / 32 = d := by unfold uDvCore; omega
  have hmod : (uDvCore d k - 449) % 32 = k := by unfold uDvCore; omega
  simp [Chip.powerDone, hbusy, kindOf_uDvCore hd hk, hdiv, hmod, hcl]

/-- A cluster that reaches Off takes its 32 cores with it. -/
theorem Chip.powerDone_clusterOff {c : Chip} {d : Nat} (hd : d < 2) (hbusy : (c.unit (uDrover d)).busy = true)
    (ht : (c.unit (uDrover d)).target = 2) :
    c.powerDone (uDrover d) = (List.range 32).foldl (fun c k => c.dvCoreTo d k 2)
      (c.modUnit (uDrover d) fun y => { y with cur := 2, busy := false, initDone := false }) := by
  have hd' : uDrover d - 25 = d := by unfold uDrover; omega
  simp [Chip.powerDone, hbusy, kindOf_uDrover hd, ht, hd']

/-! A core that has powered up (R488). -/

/-- The core runs and its unit shows it. -/
def Chip.coreRuns (c : Chip) (k : Nat) : Chip :=
  (c.modCore k fun x => { x with power := .run }).modUnit (uCore k) fun u => { u with cur := 0, busy := false, initDone := true }

theorem Chip.coreRuns_core (c : Chip) (k : Nat) : (c.coreRuns k).core k = { c.core k with power := .run } :=
  Chip.modCore_self c k fun x => { x with power := .run }

theorem Chip.coreRuns_unit (c : Chip) (k : Nat) :
    (c.coreRuns k).unit (uCore k) = { c.unit (uCore k) with cur := 0, busy := false, initDone := true } :=
  Chip.modUnit_self (c.modCore k _) (uCore k) _

theorem Chip.coreRuns_hart (c : Chip) (k n : Nat) : (c.coreRuns k).hart n = c.hart n := rfl

/-- The end of a power-up: the core runs, and a hart that it holds begins. -/
theorem Chip.corePowerUp_eq {c : Chip} {k : Nat} (h : (c.core k).power = .poweringUp) :
    c.corePowerUp k =
      if (c.core k).hartValid = true then (c.coreRuns k).modHart (c.core k).hartId Hart.begin else c.coreRuns k := by
  unfold Chip.corePowerUp
  rw [if_neg (not_not_intro h)]
  change (if ((c.coreRuns k).core k).hartValid = true then (c.coreRuns k).modHart ((c.coreRuns k).core k).hartId Hart.begin
    else c.coreRuns k) = _
  rw [Chip.coreRuns_core]

theorem Chip.corePowerUp_core {c : Chip} {k : Nat} (h : (c.core k).power = .poweringUp) :
    (c.corePowerUp k).core k = { c.core k with power := .run } := by
  rw [Chip.corePowerUp_eq h]
  split <;> simp only [Chip.modHart_core, Chip.coreRuns_core]

theorem Chip.corePowerUp_unit {c : Chip} {k : Nat} (h : (c.core k).power = .poweringUp) :
    (c.corePowerUp k).unit (uCore k) = { c.unit (uCore k) with cur := 0, busy := false, initDone := true } := by
  rw [Chip.corePowerUp_eq h]
  split <;> simp only [Chip.modHart_unit, Chip.coreRuns_unit]

theorem Chip.corePowerUp_begins {c : Chip} {k : Nat} (h : (c.core k).power = .poweringUp) (hv : (c.core k).hartValid = true)
    (hoff : (c.hart (c.core k).hartId).run = .off) : ((c.corePowerUp k).hart (c.core k).hartId).run = .running := by
  rw [Chip.corePowerUp_eq h, if_pos hv, Chip.modHart_self, Chip.coreRuns_hart, Hart.begin, if_pos hoff]

/-! The Bellwether controller restarts (R357-R359). -/

theorem regKey_bellwether_injective {o p : Nat} (h : regKey uBellwether 0 o = regKey uBellwether 0 p) : o = p :=
  Nat.add_left_cancel h

theorem Chip.setPhase_phase (c : Chip) (p : Nat) : (c.setRegFld uBellwether 0 0x1040 2 0 p).phase = p % 8 := by
  simp only [Chip.phase, Chip.regFld, Chip.setRegFld, Chip.reg_setReg_self]
  exact fld_setFld_self _ 2 0 p (by decide)

theorem Chip.phase_setReg_ne {o : Nat} (h : o ≠ 0x1040) (c : Chip) (w : Word) :
    (c.setReg uBellwether 0 o w).phase = c.phase := by
  simp only [Chip.phase, Chip.regFld]
  rw [Chip.reg_setReg_ne fun e => h (regKey_bellwether_injective e).symm]

/-- What a restart shows in the registers: the phase, and the version of the firmware that runs. -/
def Chip.bwShows (c : Chip) (phase : Nat) (version : Word) : Chip :=
  (c.setRegFld uBellwether 0 0x1040 2 0 phase).setReg uBellwether 0 0x1044 version

@[simp] theorem Chip.bwShows_phase (c : Chip) (p : Nat) (v : Word) : (c.bwShows p v).phase = p % 8 := by
  unfold Chip.bwShows
  rw [Chip.phase_setReg_ne (by decide), Chip.setPhase_phase]

@[simp] theorem Chip.bwShows_version (c : Chip) (p : Nat) (v : Word) : (c.bwShows p v).reg uBellwether 0 0x1044 = v :=
  Chip.reg_setReg_self ..

@[simp] theorem Chip.bwShows_boot (c : Chip) (p : Nat) (v : Word) : (c.bwShows p v).boot = c.boot := rfl
@[simp] theorem Chip.bwShows_errs (c : Chip) (p : Nat) (v : Word) : (c.bwShows p v).errs = c.errs := rfl
@[simp] theorem Chip.bwShows_units (c : Chip) (p : Nat) (v : Word) : (c.bwShows p v).units = c.units := rfl
@[simp] theorem Chip.bwShows_mtime (c : Chip) (p : Nat) (v : Word) : (c.bwShows p v).mtime = c.mtime := rfl
@[simp] theorem Chip.bwShows_harts (c : Chip) (p : Nat) (v : Word) : (c.bwShows p v).harts = c.harts := rfl
@[simp] theorem Chip.bwShows_mem (c : Chip) (p : Nat) (v : Word) : (c.bwShows p v).mem = c.mem := rfl

/-- The device as the watchdog leaves it but for the record: the controller restarts from ROM (R358). -/
def Chip.bwDown (c : Chip) : Chip := ({ c with boot := { c.boot with restart := true } } : Chip).bwShows 0 0

theorem Chip.bwWatchdog_eq {c : Chip} (h : c.bwServes = true) :
    c.bwWatchdog = c.bwDown.logErr uBellwether { cls := .corrected, struct := 0x19 } := by
  unfold Chip.bwWatchdog
  rw [h]
  rfl

/-- The device as a restart that is done finds it, before the migrations that waited run. -/
def Chip.bwBack (c : Chip) : Chip :=
  ({ c with boot := { c.boot with restart := false, waiting := [] } } : Chip).bwShows 4 c.fwVersion

theorem Chip.bwRestartDone_eq {c : Chip} (h : c.boot.restart = true) :
    c.bwRestartDone = c.boot.waiting.foldl (fun d h => d.migStart h false) c.bwBack := by
  unfold Chip.bwRestartDone
  rw [h]
  rfl

/-- Device `d` has the Bellwether controller's registers, the boot state and the memory of device `c`. -/
structure KeepsBellwether (c d : Chip) : Prop where
  reg : ∀ off, d.reg uBellwether 0 off = c.reg uBellwether 0 off
  boot : d.boot = c.boot
  mem : d.mem = c.mem

theorem KeepsBellwether.trans {a b c : Chip} (h : KeepsBellwether a b) (g : KeepsBellwether b c) : KeepsBellwether a c :=
  ⟨fun o => (g.reg o).trans (h.reg o), g.boot.trans h.boot, g.mem.trans h.mem⟩

theorem KeepsBellwether.phase {c d : Chip} (h : KeepsBellwether c d) : d.phase = c.phase := by
  simp only [Chip.phase, Chip.regFld, h.reg]

theorem Chip.reg_of_ctl {c d : Chip} (h : d.ctl = c.ctl) (u b o : Nat) : d.reg u b o = c.reg u b o := by
  simp only [Chip.reg, h]

theorem KeepsBellwether.of_ctl {c d : Chip} (hc : d.ctl = c.ctl) (hb : d.boot = c.boot) (hm : d.mem = c.mem) :
    KeepsBellwether c d := ⟨fun o => Chip.reg_of_ctl hc _ _ o, hb, hm⟩

theorem OnlyRecords.keepsBellwether {c d : Chip} (h : OnlyRecords c d) : KeepsBellwether c d := by
  have hctl := congrArg Chip.ctl h
  have hboot := congrArg Chip.boot h
  have hmem := congrArg Chip.mem h
  exact .of_ctl hctl hboot hmem

theorem OnlyRecords.harts {c d : Chip} (h : OnlyRecords c d) : d.harts = c.harts := by
  have hharts := congrArg Chip.harts h
  exact hharts

/-- PWR_STATUS stands in the package block. -/
theorem Chip.pwrStatus_keepsBellwether (c : Chip) : KeepsBellwether c c.pwrStatus := by
  have hkey (off : Nat) : regKey uBellwether 0 off ≠ regKey 0 0 0x6008 := by unfold regKey uBellwether; omega
  constructor
  · intro off
    simp only [Chip.pwrStatus, Chip.setRegFld, Chip.reg_setReg_ne (hkey off)]
  · simp only [Chip.pwrStatus, Chip.setRegFld, Chip.setReg_boot]
  · simp only [Chip.pwrStatus, Chip.setRegFld, Chip.setReg_mem]

@[simp] theorem Chip.pwrStatus_harts (c : Chip) : c.pwrStatus.harts = c.harts := by
  simp only [Chip.pwrStatus, Chip.setRegFld, Chip.setReg_harts]

/-- Announcing a ramp changes a core and the power state, of which PWR_STATUS reports. -/
theorem Chip.announce_eq (c : Chip) (k : Nat) (r : RampKind) :
    ∃ l p, c.announce k r = ({ c with cores := l, pwr := p } : Chip).pwrStatus := ⟨_, _, rfl⟩

theorem Chip.announce_keepsBellwether (c : Chip) (k : Nat) (r : RampKind) : KeepsBellwether c (c.announce k r) := by
  obtain ⟨l, p, he⟩ := c.announce_eq k r
  rw [he]
  have hd : KeepsBellwether c { c with cores := l, pwr := p } := .of_ctl rfl rfl rfl
  exact hd.trans (Chip.pwrStatus_keepsBellwether _)

@[simp] theorem Chip.announce_harts (c : Chip) (k : Nat) (r : RampKind) : (c.announce k r).harts = c.harts := by
  obtain ⟨l, p, he⟩ := c.announce_eq k r
  rw [he, Chip.pwrStatus_harts]

theorem Chip.hartStop_keepsBellwether (c : Chip) (h : Nat) : KeepsBellwether c (c.hartStop h) := by
  unfold Chip.hartStop
  split
  · exact .of_ctl rfl rfl rfl
  next k _ =>
    split
    · exact .of_ctl rfl rfl rfl
    · have hmod : KeepsBellwether c (c.modHart h fun x => { x with run := .stopped }) :=
        .of_ctl (Chip.modHart_ctl ..) (Chip.modHart_boot ..) (Chip.modHart_mem ..)
      exact hmod.trans (Chip.logErr_onlyRecords _ _ ErrClass.noConfusion).keepsBellwether

theorem KeepsBellwether.withMigs {c d : Chip} (h : KeepsBellwether c d) (l : List Mig) :
    KeepsBellwether c { d with migs := l } := ⟨h.reg, h.boot, h.mem⟩

/-- A hart with a free spare in its paddock starts to move there: a power-up of the spare is announced (R427). -/
theorem Chip.migStart_spare {c : Chip} {h k s : Nat} (hr : c.boot.restart = false) (hk : c.coreOfHart h = some k)
    (hs : c.freeSpare (paddockOfCore k) = some s) (asked : Bool) :
    ((c.migStart h asked).hart h).run = .migrating s ∧ KeepsBellwether c (c.migStart h asked) := by
  generalize hx : c.migStart h asked = x
  unfold Chip.migStart at hx
  split at hx
  next hn => simp [hk] at hn
  next k' hk' =>
    obtain rfl : k = k' := Option.some_inj.mp (hk.symm.trans hk')
    rw [if_neg (by simp [hr])] at hx
    split at hx
    next hn => simp [hs] at hn
    next s' hs' =>
      obtain rfl : s = s' := Option.some_inj.mp (hs.symm.trans hs')
      extract_lets back d1 d2 d3 d4 d5 at hx
      have hharts : x.harts = d1.harts := by simp [← hx, d5, d4, d3, d2]
      have hkeep : KeepsBellwether c d4 :=
        .of_ctl (by simp [d4, d3, d2, d1]) (by simp [d4, d3, d2, d1]) (by simp [d4, d3, d2, d1])
      refine ⟨by simp [Chip.hart_of_harts hharts, d1], ?_⟩
      rw [← hx]
      exact (hkeep.trans (d4.announce_keepsBellwether s .powerUp)).withMigs _

/-- Starting a migration, outside a restart, keeps what the Bellwether controller shows. -/
theorem Chip.migStart_keepsBellwether {c : Chip} (hr : c.boot.restart = false) (h : Nat) (asked : Bool) :
    KeepsBellwether c (c.migStart h asked) := by
  cases hk : c.coreOfHart h with
  | none =>
    simp only [Chip.migStart, hk]
    exact .of_ctl rfl rfl rfl
  | some k =>
    cases hs : c.freeSpare (paddockOfCore k) with
    | none =>
      simp only [Chip.migStart, hk, hr, hs, Bool.false_eq_true, if_false]
      split
      · exact .of_ctl rfl rfl rfl
      · exact c.hartStop_keepsBellwether h
    | some s => exact (Chip.migStart_spare hr hk hs asked).2

theorem Chip.foldl_migStart_keepsBellwether (l : List Nat) {c : Chip} (hr : c.boot.restart = false) :
    KeepsBellwether c (l.foldl (fun d h => d.migStart h false) c) :=
  List.foldlRecOn (motive := KeepsBellwether c) l _ (.of_ctl rfl rfl rfl)
    fun d hd h _ => hd.trans (d.migStart_keepsBellwether (by rw [hd.boot, hr]) h false)

/-- A watchdog expiry in PHASE RUN restarts the controller alone, with a corrected record. -/
theorem Chip.bwWatchdog_restarts {c : Chip} (h : c.bwServes = true) (hb : c.bankClear uBellwether = true) :
    c.bwWatchdog.phase = 0 ∧ c.bwWatchdog.reg uBellwether 0 0x1044 = 0 ∧ c.bwWatchdog.boot.restart = true ∧
      c.wrote c.bwWatchdog uBellwether 0 .corrected 0x19 0 false ∧ c.bwWatchdog.harts = c.harts ∧
      c.bwWatchdog.mem = c.mem := by
  have herrs : c.bwDown.errs = c.errs := Chip.bwShows_errs ..
  have hwrote := Chip.logErr_wrote (c := c.bwDown) ((Chip.bankClear_of_errs herrs _).trans hb)
    (e := { cls := .corrected, struct := 0x19 }) (by decide) (by decide)
  have hlog := c.bwDown.logErr_onlyRecords uBellwether (e := { cls := .corrected, struct := 0x19 }) (by decide)
  have hkeep := hlog.keepsBellwether
  rw [Chip.bwWatchdog_eq h]
  refine ⟨hkeep.phase.trans (Chip.bwShows_phase ..), (hkeep.reg _).trans (Chip.bwShows_version ..), ?_, ?_, ?_, ?_⟩
  · rw [hkeep.boot, Chip.bwDown, Chip.bwShows_boot]
  · exact Chip.wrote_of_eq herrs (Chip.bwShows_units ..) (Chip.bwShows_mtime ..) hwrote
  · exact hlog.harts.trans (Chip.bwShows_harts ..)
  · exact hkeep.mem.trans (Chip.bwShows_mem ..)

theorem Chip.bwBack_boot (c : Chip) : c.bwBack.boot = { c.boot with restart := false, waiting := [] } := Chip.bwShows_boot ..
theorem Chip.bwBack_coreOfHart (c : Chip) (h : Nat) : c.bwBack.coreOfHart h = c.coreOfHart h := rfl
theorem Chip.bwBack_freeSpare (c : Chip) (p : Nat) : c.bwBack.freeSpare p = c.freeSpare p := rfl

/-- A restart that is done shows PHASE RUN and the version, whatever migrations waited. -/
theorem Chip.bwRestartDone_keepsBellwether {c : Chip} (h : c.boot.restart = true) : KeepsBellwether c.bwBack c.bwRestartDone := by
  rw [Chip.bwRestartDone_eq h]
  exact Chip.foldl_migStart_keepsBellwether _ (by rw [Chip.bwBack_boot])

/-- The one migration that waited runs. -/
theorem Chip.bwRestartDone_migrates {c : Chip} {h k s : Nat} (hr : c.boot.restart = true) (hw : c.boot.waiting = [h])
    (hk : c.coreOfHart h = some k) (hs : c.freeSpare (paddockOfCore k) = some s) :
    (c.bwRestartDone.hart h).run = .migrating s := by
  rw [Chip.bwRestartDone_eq hr, hw]
  exact (Chip.migStart_spare (c := c.bwBack) (by rw [Chip.bwBack_boot]) ((c.bwBack_coreOfHart h).trans hk)
    ((c.bwBack_freeSpare _).trans hs) false).1

/-! The statement. -/

/-- Settles O55, command by command: the request, the ends of the four kinds of transition, the core, the watchdog, the end of
a restart and the heartbeat. -/
theorem unitsPowerUpAndTheControllerRestarts : Obligations.UnitsPowerUpAndTheControllerRestarts := by
  intro s src u req k h d0
  refine ⟨?_, ?_, ?_, ?_, ?_, ?_, ?_, ?_, ?_⟩
  · intro hsrc hclk hu hpres hreq hr hbusy
    have heq := Chip.controlWrite_power hsrc hclk hu hpres hreq hr hbusy
    refine RunsTo.keep (fun c => c.controlWrite src (.desc u 0x18) 4 (BitVec.ofNat 64 req)) rfl ?_ ?_
    · simp only [heq, Chip.clearFault_fuse, Chip.powerRequest_fuse]
    · simp only [heq, Chip.clearFault_unit]
      exact ⟨rfl, fun j hj => Chip.powerRequest_unit_ne hj _ _, Chip.powerRequest_unit_self _ _ _⟩
  · intro hbusy hk ht
    refine RunsTo.of_fuseless (·.powerDone u) rfl ?_ (fun _ _ hd => hd)
    rw [Chip.powerDone_off hbusy hk ht]
    exact ⟨Chip.modUnit_self _ _ _, rfl⟩
  · intro hbusy hk ht hcur
    refine RunsTo.of_fuseless (·.powerDone u) rfl ?_ (fun _ _ hd => hd)
    obtain ⟨hunit, hregs⟩ := Chip.powerDone_run_shows hbusy hk ht hcur
    exact ⟨hunit, fun n hn => (hregs n).trans (if_pos hn), fun n hn => (hregs n).trans (if_neg hn)⟩
  · rintro hd hk rfl hbusy hcur ht hcl
    refine RunsTo.of_fuseless (·.powerDone (uDvCore d0 k)) rfl ?_ (fun _ _ hd => hd)
    rw [Chip.powerDone_dvCore hd hk hbusy hcl, ht]
    exact ⟨by simp, Chip.dvCoreTo_run_dvCore hcur⟩
  · rintro hd hk rfl hbusy ht
    refine RunsTo.of_fuseless (·.powerDone (uDrover d0)) rfl ?_ (fun _ _ hd => hd)
    rw [Chip.powerDone_clusterOff hd hbusy ht]
    have hunit := Chip.foldl_dvCoreTo_unit_ne (d := d0) 2 (List.range 32) (fun j _ => uDvCore_ne_uDrover hd (e := d0) (k := j))
      (s.chip.modUnit (uDrover d0) fun y => { y with cur := 2, busy := false, initDone := false })
    rw [Chip.modUnit_self] at hunit
    exact ⟨congrArg UnitSt.cur hunit, congrArg UnitSt.busy hunit, Chip.foldl_dvCoreTo_cur 2 (List.mem_range.mpr hk) _⟩
  · intro hp _
    exact RunsTo.of_fuseless (·.corePowerUp k) rfl
      ⟨Chip.corePowerUp_core hp, Chip.corePowerUp_unit hp, Chip.corePowerUp_begins hp⟩ (fun _ _ hd => hd)
  · intro hs hb
    exact RunsTo.of_fuseless Chip.bwWatchdog rfl (Chip.bwWatchdog_restarts hs hb) (fun _ _ hd => hd)
  · intro hr
    refine RunsTo.of_fuseless Chip.bwRestartDone rfl ?_ (fun _ _ hd => hd)
    have hkeep := Chip.bwRestartDone_keepsBellwether hr
    have hboot := hkeep.boot.trans s.chip.bwBack_boot
    exact ⟨hkeep.phase.trans (Chip.bwShows_phase ..), congrArg Boot.restart hboot, congrArg Boot.waiting hboot,
      (hkeep.reg _).trans (Chip.bwShows_version ..), hkeep.mem.trans (Chip.bwShows_mem ..),
      fun q sp hw hq hsp => Chip.bwRestartDone_migrates hr hw hq hsp⟩
  · intro hs
    exact Runs.keep Chip.bwHeartbeat rfl rfl (if_pos hs)

end Sys2Proof.Machine
end

section
/-! A step, and accesses of harts to control space (R48-R50, R102): which accesses are errors, what an error changes, and what an
instruction that performs one leaves in its hart. -/

namespace Sys2Proof.Machine

/-- Settles O57: the three parts are how `step`, `decodeTableWord` and `withFetchWord` are defined. -/
theorem stepRunsTheFrontCommand : Obligations.StepRunsTheFrontCommand :=
  ⟨fun _ _ _ => rfl, fun _ => rfl, fun _ _ _ => ⟨rfl, rfl⟩⟩

/-! Access errors (R49). -/

/-- Offsets that differ by a multiple of 8 bytes are aligned alike for every width. -/
theorem accessError_sub {b o : Nat} (hb : 8 ∣ b) (hbo : b ≤ o) (w : Nat) : accessError w (o - b) = accessError w o := by
  have hmod : w = 1 ∨ w = 2 ∨ w = 4 ∨ w = 8 → (o - b) % w = o % w := by
    rintro (rfl | rfl | rfl | rfl) <;> omega
  by_cases hw : w = 1 ∨ w = 2 ∨ w = 4 ∨ w = 8
  · simp only [accessError, hmod hw]
  · simp only [not_or] at hw
    simp [accessError, hw]

/-- The structure or block that an offset of BAR0 names lies at a multiple of 8 bytes (R380, R398). -/
theorem barAt_aligned {f o p : Nat} (h : barAt f o = .msix p ∨ ∃ u, barAt f o = .block u p) :
    ∃ b, 8 ∣ b ∧ b ≤ o ∧ p = o - b := by
  unfold barAt at h
  split_ifs at h with hmap hpf hmsix hpage hvmsix
  · simp at h
  · simp only [BarAt.msix.injEq, exists_false, or_false] at h
    exact ⟨0x100000, by norm_num, hmsix.1, h.symm⟩
  · split at h
    next e he =>
      have hle := List.find?_some he
      simp only [Bool.and_eq_true, decide_eq_true_eq] at hle
      simp only [BarAt.block.injEq, reduceCtorEq, false_or, exists_eq_left'] at h
      have hdvd : ∀ e ∈ barBlocks, 8 ∣ e.2.1 := by simp [barBlocks]
      exact ⟨e.2.1, hdvd e (List.mem_of_find?_eq_some he), hle.1, h.symm⟩
    next => simp at h
  · simp at h
  · simp only [BarAt.msix.injEq, exists_false, or_false] at h
    exact ⟨0x10000, by norm_num, by omega, h.symm⟩
  · simp at h

/-- An access through BAR0 is an access error where the access that it stands for is one. -/
theorem Chip.throughBar_accessError (c : Chip) (src : Src) (a : CtlAddr) (w : Nat) :
    accessError w (ctlOff (c.throughBar src a).2) = accessError w (ctlOff a) := by
  cases a with
  | bar f o =>
    unfold Chip.throughBar
    dsimp only
    split
    · rfl
    · split
      next p hp =>
        obtain ⟨b, hb, hbo, rfl⟩ := barAt_aligned (.inl hp)
        exact accessError_sub hb hbo w
      next u p hp =>
        obtain ⟨b, hb, hbo, rfl⟩ := barAt_aligned (.inr ⟨u, hp⟩)
        exact accessError_sub hb hbo w
      next => rfl
  | _ => rfl

/-- Recording an access changes LAST_ERR of some block at most. -/
theorem Chip.record_eq (c : Chip) (src : Src) (a : CtlAddr) (code : Nat) : ∃ k, c.record src a code = { c with ctl := k } := by
  cases a <;> exact ⟨_, rfl⟩

/-- A write that is an access error changes LAST_ERR of some block at most (R49). -/
theorem Chip.controlWrite_accessError {c : Chip} {a : CtlAddr} {w : Nat} (h : accessError w (ctlOff a) = true) (src : Src)
    (data : DWord) : ∃ k, c.controlWrite src a w data = { c with ctl := k } := by
  have herr := (c.throughBar_accessError src a w).trans h
  unfold Chip.controlWrite
  dsimp only
  split
  · exact ⟨_, rfl⟩
  · exact c.record_eq _ _ _

/-- A read that is an access error changes LAST_ERR of some block at most (R49). -/
theorem Chip.controlRead_accessError {c : Chip} {a : CtlAddr} {w : Nat} (h : accessError w (ctlOff a) = true) (src : Src) :
    ∃ k, (c.controlRead src a w).2 = { c with ctl := k } := by
  have herr := (c.throughBar_accessError src a w).trans h
  unfold Chip.controlRead
  dsimp only
  split
  · exact ⟨_, rfl⟩
  · exact c.record_eq _ _ _

/-! Trap entry (R98, R111). -/

@[simp] theorem Hart.setCsr_x (h : Hart) (n : Nat) (v : DWord) : (h.setCsr n v).x = h.x := rfl
@[simp] theorem Hart.setCsr_csrs (h : Hart) (n : Nat) (v : DWord) : (h.setCsr n v).csrs = Sparse.put h.csrs n v := rfl

theorem Hart.enterTrap_x (h : Hart) (i : Bool) (cause : Nat) (tval : DWord) : (h.enterTrap i cause tval).x = h.x := by
  unfold Hart.enterTrap
  dsimp only
  split <;> simp only [Hart.setCsr_x, Hart.flushPred]

/-- A trap from M-mode is handled in M-mode. -/
theorem Hart.trapLevel_machine {h : Hart} (hm : h.priv = .m) (i : Bool) (cause : Nat) : h.trapLevel i cause = .m :=
  if_pos (.inl hm)

/-- A trap from M-mode writes mstatus, then mepc, mcause and mtval, then mtval2 and mtinst, and goes to the handler. -/
theorem Hart.enterTrap_of_machine {h : Hart} (hm : h.priv = .m) (cause : Nat) (tval : DWord) :
    ∃ (g : Hart) (s p : DWord), g.pc = h.pc ∧ h.enterTrap false cause tval =
      { ((((((g.setCsr cMstatus s).setCsr 0x341 g.pc).setCsr 0x342 (causeWord false cause)).setCsr 0x343 tval).setCsr
          0x34B 0).setCsr 0x34A 0) with priv := .m, virt := false, pc := p } := by
  unfold Hart.enterTrap
  extract_lets g gva s1 s2 s
  have hlevel : g.trapLevel false cause = .m := Hart.trapLevel_machine hm _ _
  rw [hlevel]
  exact ⟨g, s, _, rfl, rfl⟩

/-- An exception taken in M-mode saves the pc, the cause and xtval in the registers of M-mode. -/
theorem Hart.enterTrap_csr_of_machine {h : Hart} (hm : h.priv = .m) (cause : Nat) (tval : DWord) :
    (h.enterTrap false cause tval).csr 0x341 = h.pc ∧
      (h.enterTrap false cause tval).csr 0x342 = BitVec.ofNat 64 cause ∧ (h.enterTrap false cause tval).csr 0x343 = tval := by
  obtain ⟨g, s, p, hpc, he⟩ := Hart.enterTrap_of_machine hm cause tval
  have hcsr (k : Nat) : (h.enterTrap false cause tval).csr k = ((((((g.setCsr cMstatus s).setCsr 0x341 g.pc).setCsr 0x342
      (causeWord false cause)).setCsr 0x343 tval).setCsr 0x34B 0).setCsr 0x34A 0).csr k := by
    rw [he]
    rfl
  simp [hcsr, Hart.csr_setCsr, hpc, causeWord, bit]

/-! Registers that a load writes. -/

theorem Hart.fsDirty_f (h : Hart) : h.fsDirty.f = h.f := by
  unfold Hart.fsDirty
  dsimp only
  split <;> rfl

theorem Hart.getF_setF_self (h : Hart) (r : Nat) (v : DWord) : (h.setF r v).getF r = v := by
  simp [Hart.getF, Hart.setF, Hart.fsDirty_f]

theorem Hart.fsDirty_pc (h : Hart) : h.fsDirty.pc = h.pc := by
  unfold Hart.fsDirty
  dsimp only
  split <;> rfl

theorem Hart.setF_pc (h : Hart) (r : Nat) (v : DWord) : (h.setF r v).pc = h.pc := Hart.fsDirty_pc _

/-! An instruction that performs an access to an I/O region (R102). -/

/-- A change of a hart, an event and the retirement: the hart's registers are those of the change, and its pc has moved. -/
theorem Chip.retire_event_hart (d : Chip) (n : Nat) (f : Hart → Hart) (code um len lat : Nat) :
    let e := (d.modHart n fun h => (f h).event code um).retire n len lat
    (e.hart n).pc = (f (d.hart n)).pc + BitVec.ofNat 64 len ∧ (e.hart n).x = (f (d.hart n)).x ∧ (e.hart n).f = (f (d.hart n)).f := by
  obtain ⟨hbody, hpc, -, -⟩ := Hart.event_counts (f (d.hart n)) code um 1
  obtain ⟨hbody', hpc', -, -⟩ := Chip.retire_counts (d.modHart n fun h => (f h).event code um) n len lat 1
  rw [Chip.modHart_self] at hbody' hpc'
  have hall := hbody'.trans hbody
  have hx := congrArg Hart.x hall
  have hf := congrArg Hart.f hall
  exact ⟨hpc'.trans (congrArg (· + BitVec.ofNat 64 len) hpc), hx, hf⟩

theorem Chip.ioStored_hart (d : Chip) (n : Nat) (op : IoOp) :
    ((d.ioStored n op).hart n).pc = (d.hart n).pc + BitVec.ofNat 64 op.len ∧ ((d.ioStored n op).hart n).x = (d.hart n).x := by
  obtain ⟨hpc, hx, -⟩ := d.retire_event_hart n id 0x202 1 op.len 1
  exact ⟨hpc, hx⟩

/-- The hart with the value that a load of an I/O region returns in its register. -/
def Hart.ioResult (h : Hart) (op : IoOp) (v : Nat) : Hart :=
  if op.fp then h.setF op.reg (boxed (fmtOfSize op.size) (v % 2 ^ (8 * op.size)))
  else h.setX op.reg (loadValue (leBytes v op.size) op.signed)

@[simp] theorem Hart.ioResult_pc (h : Hart) (op : IoOp) (v : Nat) : (h.ioResult op v).pc = h.pc := by
  unfold Hart.ioResult
  split
  · exact h.setF_pc _ _
  · exact h.setX_pc _ _

theorem Chip.ioLoaded_hart (d : Chip) (n : Nat) (op : IoOp) (v : Nat) :
    ((d.ioLoaded n op v).hart n).pc = (d.hart n).pc + BitVec.ofNat 64 op.len ∧
      (op.fp = false → op.reg % 32 ≠ 0 →
        ((d.ioLoaded n op v).hart n).getX op.reg = loadValue (leBytes v op.size) op.signed) ∧
      (op.fp = true → ((d.ioLoaded n op v).hart n).getF op.reg = boxed (fmtOfSize op.size) (v % 2 ^ (8 * op.size))) := by
  obtain ⟨hpc, hx, hf⟩ := d.retire_event_hart n (·.ioResult op v) 0x201 1 op.len 14
  rw [Hart.ioResult_pc] at hpc
  have hgetX : ((d.ioLoaded n op v).hart n).getX op.reg = ((d.hart n).ioResult op v).getX op.reg :=
    congrArg (fun x => if op.reg % 32 = 0 then 0 else Sparse.at x 0 (op.reg % 32)) hx
  have hgetF : ((d.ioLoaded n op v).hart n).getF op.reg = ((d.hart n).ioResult op v).getF op.reg :=
    congrArg (fun x => Sparse.at x 0 (op.reg % 32)) hf
  refine ⟨hpc, fun hfp hreg => ?_, fun hfp => ?_⟩
  · simp [hgetX, Hart.ioResult, hfp, Hart.getX_setX, hreg]
  · simp [hgetF, Hart.ioResult, hfp, Hart.getF_setF_self]

/-- An access error's exception keeps the x registers; in M-mode it saves pc, cause and address (R49). -/
theorem Chip.ioFault_hart (d : Chip) (n : Nat) (op : IoOp) :
    ((d.ioFault n op).hart n).x = (d.hart n).x ∧
      ((d.hart n).priv = .m → ((d.ioFault n op).hart n).csr 0x341 = (d.hart n).pc ∧
        ((d.ioFault n op).hart n).csr 0x342 = (if op.write then 7 else 5) ∧
        ((d.ioFault n op).hart n).csr 0x343 = BitVec.ofNat 64 op.va) := by
  rw [Chip.ioFault, Chip.raise, Chip.modHart_self]
  refine ⟨Hart.enterTrap_x _ _ _ _, fun hm => ?_⟩
  obtain ⟨hpc, hcause, hval⟩ := Hart.enterTrap_csr_of_machine hm (if op.write then xStoreAcc else xLoadAcc) (BitVec.ofNat 64 op.va)
  refine ⟨hpc, hcause.trans ?_, hval⟩
  split <;> rfl

/-- A ready hart performs its access where PMP permits it. -/
theorem Chip.ioAccess_ctl {c : Chip} {n : Nat} {op : IoOp} {a : CtlAddr} (hr : c.ready n = true) (ha : op.addr = .ctl a)
    (hfp : op.fp = true → (c.hart n).fsOn = true) (hpmp : c.ioPmp n op = true) : c.ioAccess n op = c.ioCtl n op a := by
  obtain ⟨k, hcore, hheld, -⟩ := Chip.ready_core hr
  have hillegal : (op.fp && !(c.hart n).fsOn) = false := by
    cases hf : op.fp with
    | false => rfl
    | true => simp [hfp hf]
  simp [Chip.ioAccess, hcore, hheld, hillegal, hpmp, Chip.ioPerform, ha]

theorem Chip.ioCtl_write {c : Chip} {op : IoOp} {a : CtlAddr} (herr : accessError op.size (ctlOff a) = false)
    (hw : op.write = true) (n : Nat) :
    c.ioCtl n op a = (c.controlWrite (.hart n) a op.size ((c.hart n).ioValue op)).ioStored n op := by
  simp [Chip.ioCtl, herr, hw]

theorem Chip.ioCtl_read {c : Chip} {op : IoOp} {a : CtlAddr} (herr : accessError op.size (ctlOff a) = false)
    (hw : op.write = false) (n : Nat) :
    c.ioCtl n op a = (c.controlRead (.hart n) a op.size).2.ioLoaded n op (c.controlRead (.hart n) a op.size).1.toNat := by
  simp [Chip.ioCtl, herr, hw]

/-- An access error is an exception in a device whose registers have recorded it at most. -/
theorem Chip.ioCtl_accessError {c : Chip} {op : IoOp} {a : CtlAddr} (herr : accessError op.size (ctlOff a) = true) (n : Nat) :
    ∃ k, c.ioCtl n op a = ({ c with ctl := k } : Chip).ioFault n op := by
  cases hw : op.write with
  | true =>
    obtain ⟨k, hk⟩ := Chip.controlWrite_accessError (c := c) herr (.hart n) ((c.hart n).ioValue op)
    exact ⟨k, by simp [Chip.ioCtl, hw, herr, hk]⟩
  | false =>
    obtain ⟨k, hk⟩ := Chip.controlRead_accessError (c := c) herr (.hart n)
    exact ⟨k, by simp [Chip.ioCtl, hw, herr, hk]⟩

/-- Settles O17: an aligned access is performed and its instruction retires; an access error changes LAST_ERR at most, and then
the exception is taken. -/
theorem controlAccessRetiresOrFaults : Obligations.ControlAccessRetiresOrFaults := by
  intro s n op a h hready haddr hfp hpmp
  have hrun : ∀ {P : Chip → Prop}, P (s.chip.ioCtl n op a) → (∀ d g, P d → P (d.withFuse g)) → RunsTo (.ioAccess n op) s P := by
    intro P hP hfuse
    refine RunsTo.of_fuseless (fun c => c.traced n fun c => c.ioAccess n op) rfl ?_ hfuse
    rw [Chip.traced_ready hready, Chip.ioAccess_ctl hready haddr hfp hpmp]
    exact hP
  refine ⟨fun herr hw => hrun ?_ (fun _ _ hd => hd), fun herr hw => hrun ?_ (fun _ _ hd => hd),
    fun herr => hrun ?_ (fun _ _ hd => hd)⟩
  · rw [Chip.ioCtl_write herr hw]
    obtain ⟨hpc, hx⟩ := Chip.ioStored_hart (s.chip.controlWrite (.hart n) a op.size (h.ioValue op)) n op
    exact ⟨hpc, hx, rfl, rfl, rfl⟩
  · rw [Chip.ioCtl_read herr hw]
    obtain ⟨hpc, hx, hf⟩ := Chip.ioLoaded_hart (s.chip.controlRead (.hart n) a op.size).2 n op
      (s.chip.controlRead (.hart n) a op.size).1.toNat
    exact ⟨hpc, rfl, rfl, hx, hf⟩
  · obtain ⟨k, hio⟩ := Chip.ioCtl_accessError (c := s.chip) herr n
    rw [hio]
    obtain ⟨hx, hcsr⟩ := Chip.ioFault_hart { s.chip with ctl := k } n op
    exact ⟨hx, rfl, hcsr⟩

end Sys2Proof.Machine
end

section
/-! Registers of a block (R50-R61): what an access to a block that answers comes to, the bits that an accepted write stores, what a
write of a complement pair leaves, and from these the statements on register writes, pairs, locks and mailboxes. -/

namespace Sys2Proof.Machine

/-! Blocks that answer. -/

theorem Chip.opens_iff {c : Chip} {src : Src} {u : Nat} : c.opens src u = true ↔
    c.pwr.clocks = true ∧ c.seesBlock src u = true ∧ c.present u = true ∧ c.barClosed src = false := by
  simp [Chip.opens, and_assoc]

theorem Chip.mapped_iff {c : Chip} {u off : Nat} : c.mapped u off = true ↔
    off % 4 = 0 ∧ 0x1000 ≤ off ∧ c.regionOff u off = none ∧
      ¬ (u = 0 ∧ (0x100000 ≤ off ∨ 0x3000 ≤ off ∧ off < 0x4000)) ∧ dvWindow u off = none := by
  simp only [Chip.mapped, Bool.and_eq_true, Bool.not_eq_true', decide_eq_true_eq, Option.isNone_iff_eq_none, and_assoc,
    ← Bool.not_eq_true, Bool.or_eq_true]

theorem accessError_word {off : Nat} (h : off % 4 = 0) : accessError 4 off = false := by simp [accessError, h]

theorem bankPage_low {off : Nat} (h : off < 0x100000) : bankPage off = none := by
  unfold bankPage
  rw [if_neg (by omega)]

section access
variable {c : Chip} {src : Src} {u off : Nat}

/-- A 32-bit write outside a block's doorbell region. -/
theorem Chip.controlWrite_word (ho : c.opens src u = true) (hal : off % 4 = 0) (hdb : c.regionOff u off = none) (data : DWord) :
    c.controlWrite src (.block u off) 4 data = c.write32 src (.block u off) (data.setWidth 32) := by
  obtain ⟨hclk, hsee, hpres, hbar⟩ := Chip.opens_iff.mp ho
  simp [Chip.controlWrite, Chip.throughBar, ctlOff, hclk, hsee, hpres, hbar, hdb, accessError_word hal]

/-- A 32-bit write in the register map is the write of that register. -/
theorem Chip.controlWrite_mapped (ho : c.opens src u = true) (hm : c.mapped u off = true) (data : DWord) :
    c.controlWrite src (.block u off) 4 data = c.regWrite src u off (data.setWidth 32) := by
  obtain ⟨hal, hlow, hdb, hpkg, hwin⟩ := Chip.mapped_iff.mp hm
  obtain ⟨-, -, -, hbar⟩ := Chip.opens_iff.mp ho
  have hbank : (if u = 0 ∧ c.seesBlock src 0 = true then bankPage off else none) = none := by
    split
    · exact bankPage_low (by omega)
    · rfl
  rw [Chip.controlWrite_word ho hal hdb, Chip.write32, if_neg (by simp [hbar]), if_neg (by omega), if_neg (by omega), hbank, hwin,
    ite_self]

/-- A 32-bit write of a word that stands for one bit of a register (R58). -/
theorem Chip.controlWrite_alias (ho : c.opens src u = true) (hal : off % 4 = 0) (hlow : off < 0x1000)
    (hdb : c.regionOff u off = none) (data : DWord) :
    c.controlWrite src (.block u off) 4 data = c.aliasWrite src u off (data.setWidth 32) := by
  obtain ⟨-, -, -, hbar⟩ := Chip.opens_iff.mp ho
  rw [Chip.controlWrite_word ho hal hdb, Chip.write32, if_neg (by simp [hbar]), if_neg (by omega), if_pos hlow]

/-- An aligned access of an agent is no access error. -/
theorem Chip.writeFrom_word (hal : off % 4 = 0) (data : DWord) :
    c.writeFrom src (.block u off) 4 data = c.controlWrite src (.block u off) 4 data := by
  have hport : c.portError src (.block u off) 4 = false := by
    simp [Chip.portError, Chip.throughBar, ctlOff, accessError_word hal]
  simp [Chip.writeFrom, hport]

theorem Chip.readTo_word (hal : off % 4 = 0) :
    c.readTo src (.block u off) 4 =
      { (c.controlRead src (.block u off) 4).2 with lastRead := (c.controlRead src (.block u off) 4).1 } := by
  have hport : c.portError src (.block u off) 4 = false := by
    simp [Chip.portError, Chip.throughBar, ctlOff, accessError_word hal]
  simp [Chip.readTo, hport]

/-- A 32-bit read in the register map is the read of that register. -/
theorem Chip.controlRead_mapped (ho : c.opens src u = true) (hm : c.mapped u off = true) :
    c.controlRead src (.block u off) 4 = ((c.regRead src u off).1.setWidth 64, (c.regRead src u off).2) := by
  obtain ⟨hal, hlow, hdb, hpkg, hwin⟩ := Chip.mapped_iff.mp hm
  obtain ⟨hclk, -, -, hbar⟩ := Chip.opens_iff.mp ho
  have hbank : (if u = 0 ∧ c.seesBlock src 0 = true then bankPage off else none) = none := by
    split
    · exact bankPage_low (by omega)
    · rfl
  have hread : c.read32 src (.block u off) = c.regRead src u off := by
    rw [Chip.read32, if_neg (by simp [hbar]), if_neg (by omega), if_neg (by simp [hdb]), if_neg (by omega), hbank, hwin, ite_self]
  have hfull (w : Word) : BitVec.ofNat 64 (w.toNat / 2 ^ (8 * (off % 4)) % 2 ^ (8 * 4)) = w.setWidth 64 := by
    rw [hal, Nat.mul_zero, Nat.pow_zero, Nat.div_one, Nat.mod_eq_of_lt w.isLt, BitVec.ofNat_toNat]
  simp only [Chip.controlRead, Chip.throughBar, ctlOff, hclk, accessError_word hal, ctlAt, hfull]
  simp [hal, hread]

/-- A member's blocks follow its fuses. -/
theorem Chip.present_of_fuse {d : Chip} (h : d.fuse = c.fuse) (u : Nat) : d.present u = c.present u := by
  simp only [Chip.present, h]

theorem Chip.seesBlock_of_fuse {d : Chip} (h : d.fuse = c.fuse) (src : Src) (u : Nat) : d.seesBlock src u = c.seesBlock src u := by
  simp only [Chip.seesBlock, Chip.present_of_fuse h]

/-- A rejection is recorded in the block that the source reaches (R50). -/
theorem Chip.refuse_of_opens {d : Chip} (ho : c.opens src u = true) (h : d.fuse = c.fuse) (off code : Nat) :
    d.refuse src u off code = d.recordErr u code (ctlOffset u off) := by
  obtain ⟨-, hsee, hpres, -⟩ := Chip.opens_iff.mp ho
  simp [Chip.refuse, Chip.seesBlock_of_fuse h, Chip.present_of_fuse h, hsee, hpres]

end access

/-! The bits of a register (R52). -/

/-- The fields of a register, each within the word, share no bit. -/
def FieldsApart (l : List Fld) : Prop :=
  (l.Pairwise fun a b => a.hi < b.lo ∨ b.hi < a.lo) ∧ ∀ g ∈ l, g.lo ≤ g.hi ∧ g.hi < 32

theorem FieldsApart.filter {l : List Fld} (h : FieldsApart l) (p : Fld → Bool) : FieldsApart (l.filter p) :=
  ⟨h.1.filter p, fun g hg => h.2 g (List.mem_of_mem_filter hg)⟩

theorem Fld.mask_getLsbD (f : Fld) (i : Nat) :
    (BitVec.ofNat 32 f.mask).getLsbD i = (decide (i < 32) && (decide (f.lo ≤ i) && decide (i < f.hi + 1))) := by
  rw [BitVec.getLsbD_ofNat, Fld.mask, Nat.testBit_mul_two_pow, Nat.testBit_two_pow_sub_one]
  by_cases h : f.lo ≤ i
  · simp only [h, decide_true, Bool.true_and]
    congr 2
    simp only [eq_iff_iff]
    omega
  · simp [h]

/-- Masks of fields apart add up to the bits of the fields. -/
theorem FieldsApart.sum_getLsbD {l : List Fld} (h : FieldsApart l) (i : Nat) :
    (BitVec.ofNat 32 ((l.map Fld.mask).sum)).getLsbD i = l.any fun f => (BitVec.ofNat 32 f.mask).getLsbD i := by
  induction l generalizing i with
  | nil => simp
  | cons f t ih =>
    obtain ⟨hpair, hword⟩ := h
    obtain ⟨hf, ht⟩ := List.pairwise_cons.mp hpair
    have ih := ih ⟨ht, fun g hg => hword g (List.mem_cons_of_mem _ hg)⟩
    have hdisj : BitVec.ofNat 32 f.mask &&& BitVec.ofNat 32 ((t.map Fld.mask).sum) = 0#32 := by
      refine BitVec.eq_of_getLsbD_eq fun j hj => ?_
      rw [BitVec.getLsbD_and, ih, BitVec.getLsbD_zero, Bool.and_eq_false_imp]
      intro hfj
      rw [List.any_eq_false]
      intro g hg hgj
      rw [Fld.mask_getLsbD] at hfj hgj
      simp only [Bool.and_eq_true, decide_eq_true_eq] at hfj hgj
      have := hf g hg
      omega
    rw [List.map_cons, List.sum_cons, BitVec.ofNat_add, BitVec.add_eq_or_of_and_eq_zero _ _ hdisj, BitVec.getLsbD_or, ih,
      List.any_cons]

/-- A bit lies in one field at most. -/
theorem FieldsApart.unique {l : List Fld} (h : FieldsApart l) {f g : Fld} (hf : f ∈ l) (hg : g ∈ l) {i : Nat}
    (hfi : f.lo ≤ i ∧ i ≤ f.hi) (hgi : g.lo ≤ i ∧ i ≤ g.hi) : g = f := by
  by_contra hne
  have hsymm : Std.Symm fun a b : Fld => a.hi < b.lo ∨ b.hi < a.lo := ⟨fun _ _ => Or.symm⟩
  have hapart := h.1.forall hg hf hne
  omega

/-- A bit of a field is among the bits that a property selects when the field has the property. -/
theorem RegDef.bits_getLsbD {r : RegDef} (h : FieldsApart r.fields) {f : Fld} (hf : f ∈ r.fields) {i : Nat} (hlo : f.lo ≤ i)
    (hhi : i ≤ f.hi) (p : Fld → Bool) : (r.bits p).getLsbD i = p f := by
  have hword := (h.2 f hf).2
  rw [RegDef.bits, (h.filter p).sum_getLsbD, Bool.eq_iff_iff]
  simp only [List.any_eq_true, List.mem_filter, Fld.mask_getLsbD, Bool.and_eq_true, decide_eq_true_eq]
  constructor
  · rintro ⟨g, ⟨hg, hp⟩, -, hgl, hgh⟩
    rwa [h.unique hf hg ⟨hlo, hhi⟩ ⟨hgl, by omega⟩] at hp
  · exact fun hp => ⟨f, ⟨hf, hp⟩, by omega, hlo, by omega⟩

/-- What a bit of a field becomes in an accepted write (R52). -/
theorem RegDef.merge_getLsbD {r : RegDef} (h : FieldsApart r.fields) {f : Fld} (hf : f ∈ r.fields) {i : Nat} (hlo : f.lo ≤ i)
    (hhi : i ≤ f.hi) (old v : Word) :
    (r.merge old v).getLsbD i =
      match f.acc with
      | .rw => v.getLsbD i
      | .w1s => old.getLsbD i || v.getLsbD i
      | .w1c => old.getLsbD i && !v.getLsbD i
      | _ => old.getLsbD i := by
  have hi : i < 32 := by have := (h.2 f hf).2; omega
  simp only [RegDef.merge, BitVec.getLsbD_and, BitVec.getLsbD_or, BitVec.getLsbD_not, RegDef.bits_getLsbD h hf hlo hhi, hi,
    decide_true, Bool.true_and]
  cases f.acc <;> simp

/-! What an accepted write stores (R52). -/

section store
variable {c : Chip} {src : Src} {u off : Nat} {r : RegDef} {v : Word}

/-- Storing changes a register's value and its fault at most. -/
theorem Chip.regStore_eq (c : Chip) (src : Src) (u off : Nat) (r : RegDef) (v : Word) :
    ∃ l k, c.regStore src u off r v = { c with ctl := { c.ctl with regs := l, faulted := k } } := by
  unfold Chip.regStore
  dsimp only
  split <;> exact ⟨_, _, rfl⟩

@[simp] theorem Chip.regStore_fuse : (c.regStore src u off r v).fuse = c.fuse := by
  obtain ⟨l, k, h⟩ := c.regStore_eq src u off r v
  rw [h]

/-- Storing of a register that is no view of another and keeps every bit. -/
theorem Chip.regStore_own (hft : ftAdmin u off = false) (hkept : keptElsewhere u off = 0)
    (hbits : r.bits (fun f => decide (f.acc = .rw) || decide (f.acc = .w1s) || decide (f.acc = .w1c)) ≠ 0) :
    c.regStore src u off r v =
      (c.setReg u (c.bankOf u off) off (r.merge (c.reg u (c.bankOf u off) off) v)).clearFault u (c.bankOf u off) off := by
  have hall (w : Word) : w &&& ~~~ (0 : Word) = w := BitVec.and_allOnes
  simp only [Chip.regStore, Chip.place, hft, hkept, hall, Bool.false_eq_true, false_and, if_false, if_neg hbits]

end store

theorem ringEnOff_header {off : Nat} (h : off < 0x1040) (u : Nat) : ringEnOff u off = false := by
  unfold ringEnOff
  split <;> simp <;> omega

/-- The common header lies in bank 0. -/
theorem Chip.bankOf_header {off : Nat} (h : off < 0x1040) (c : Chip) (u : Nat) : c.bankOf u off = 0 := by
  unfold Chip.bankOf
  split
  · exact if_neg (by omega)
  · exact if_neg (by omega)
  · rw [if_neg (by omega), if_neg (by omega)]
  · exact if_neg (by omega)
  · dsimp only
    rw [if_neg (by omega), if_neg (by omega), if_neg (by omega)]
  · rfl

theorem keptElsewhere_header {off : Nat} (h : off < 0x1040) (hsel : off ≠ 0x1020) (u : Nat) : keptElsewhere u off = 0 := by
  unfold keptElsewhere
  simp only [hsel, ringEnOff_header h, Bool.false_eq_true, if_false]
  split
  · exact if_neg (by omega)
  · exact if_neg (by omega)
  · rfl

theorem keptElsewhere_package {off : Nat} (hsel : off ≠ 0x1020) : keptElsewhere 0 off = 0 := if_neg hsel

theorem ftAdmin_header {off : Nat} (h : off < 0x1040) (u : Nat) : ftAdmin u off = false := by
  simp [ftAdmin]
  omega

/-! Writes of plain registers (R50, R52, R53, R58, R514). -/

section plain
variable {c : Chip} {src : Src} {u off : Nat} {r : RegDef} {v : Word}

/-- The write of a plain register in the register map of a block that answers. -/
theorem Chip.controlWrite_plain (ho : c.opens src u = true) (hm : c.mapped u off = true) (hr : regAt (kindOf u) off = some r)
    (hp : r.role = .plain) (hro : r.readOnly = false) :
    c.controlWrite src (.block u off) 4 (v.setWidth 64) =
      match c.regCheck src u off r v with
      | some e => c.recordErr u e (ctlOffset u off)
      | none => (c.regStore src u off r v).regEffect src u off v (c.view src u off) := by
  obtain ⟨hclk, hsee, hpres, hbar⟩ := Chip.opens_iff.mp ho
  obtain ⟨hal, hlow, hdb, hpkg, hwin⟩ := Chip.mapped_iff.mp hm
  have hv : (v.setWidth 64).setWidth 32 = v := BitVec.setWidth_setWidth_of_le _ (by decide)
  rw [Chip.controlWrite_reg _ hclk hsee hpres hbar hal hlow hdb (by omega) (by omega) hwin hr hro hp, hv]
  cases c.regCheck src u off r v with
  | none => rfl
  | some e => exact Chip.refuse_of_opens ho rfl off e

/-- The write of a bit's own word is checked, stored and has its effect as the write of the register with that bit (R58). -/
theorem Chip.controlWrite_alias_plain {al b : Nat} {f : Fld} (ho : c.opens src u = true) (hr : regAt (kindOf u) off = some r)
    (hp : r.role = .plain) (hlow : al < 0x1000) (hal : al % 4 = 0) (hal' : aliasOf al = (off, b)) (hdb : c.regionOff u al = none)
    (hf : r.fieldOf b = some f) (hacc : f.acc = .rw ∨ f.acc = .w1s ∨ f.acc = .w1c ∨ f.acc = .wo) :
    let w := setFld (c.view src u off &&& r.bits fun g => decide (g.acc = .rw)) b b (fld v 0 0)
    c.regCheck src u off r w = none →
    c.controlWrite src (.block u al) 4 (v.setWidth 64) = (c.regStore src u off r w).regEffect src u off w (c.view src u off) := by
  intro w hcheck
  obtain ⟨-, hsee, hpres, -⟩ := Chip.opens_iff.mp ho
  have hv : (v.setWidth 64).setWidth 32 = v := BitVec.setWidth_setWidth_of_le _ (by decide)
  have hwritable : ¬ (r.role ≠ .plain ∨ f.acc = .ro ∨ f.acc = .rsv ∨ f.acc = .rc ∨ c.seesBlock src u = false) := by
    rcases hacc with h | h | h | h <;> simp [hp, h, hsee]
  rw [Chip.controlWrite_alias ho hal hlow hdb, hv, Chip.aliasWrite, hal']
  simp only [hr, hf, Option.map_some, if_neg hwritable, hpres]
  rw [show c.regCheck src u off r (setFld _ b b (fld v 0 0)) = none from hcheck]
  rfl

end plain

/-- A package register with a writable bit below the Tally banks stores every bit of it. -/
theorem packageRegs_bits {r : RegDef} (hr : r ∈ packageRegs) (hp : r.role = .plain) (hro : r.readOnly = false)
    (hoff : r.off < 0x5000) :
    r.bits (fun f => decide (f.acc = .rw) || decide (f.acc = .w1s) || decide (f.acc = .w1c)) ≠ 0 := by
  have hall : ∀ r ∈ packageRegs, r.role = .plain → r.readOnly = false → r.off < 0x5000 →
      r.bits (fun f => decide (f.acc = .rw) || decide (f.acc = .w1s) || decide (f.acc = .w1c)) ≠ 0 := by decide
  exact hall r hr hp hro hoff

/-- A register of a list is one of its definitions, which starts no later. -/
theorem findReg_mem {l : List RegDef} {off : Nat} {r : RegDef} (h : findReg l off = some r) : r ∈ l ∧ r.off ≤ off := by
  have hoff := List.find?_some h
  simp only [Bool.and_eq_true, decide_eq_true_eq] at hoff
  exact ⟨List.mem_of_find?_eq_some h, hoff.1.1⟩

/-- Of the package registers below the Tally banks MSET_LOCK alone has an effect of its own. -/
theorem Chip.regEffect_package {off : Nat} (h0 : 0x1040 ≤ off) (h1 : off ≠ 0x2400) (h2 : off < 0x5000) (c : Chip) (src : Src)
    (v old : Word) : c.regEffect src 0 off v old = c := by
  unfold Chip.regEffect
  extract_lets rises sw
  rw [if_neg (by omega), if_neg (by omega), if_neg (by omega)]
  change (if off = 0x2400 ∧ _ then _ else if _ then _ else if _ then _ else if _ then _ else c) = c
  rw [if_neg (by omega), if_neg (by omega), if_neg (by omega), if_neg (by omega)]

/-- Settles O18: the checks and the merge of one write, the package registers, the words of single bits, and the bits of a merge. -/
theorem registerWritesAreCheckedThenMerged : Obligations.RegisterWritesAreCheckedThenMerged := by
  refine ⟨?_, fun r old v f i hpair hword hf hlo hhi => RegDef.merge_getLsbD ⟨hpair, hword⟩ hf hlo hhi old v⟩
  intro s src u off v r c ho hr hp
  refine ⟨?_, ?_, ?_⟩
  · intro e hm hro hcheck
    obtain ⟨hal, -⟩ := Chip.mapped_iff.mp hm
    refine Runs.keep (fun c => c.writeFrom src (.block u off) 4 (v.setWidth 64)) rfl rfl ?_
    rw [Chip.writeFrom_word hal, Chip.controlWrite_plain ho hm hr hp hro, hcheck]
  · rintro hm hro hcheck rfl hlow hlock hhigh
    obtain ⟨hal, -⟩ := Chip.mapped_iff.mp hm
    have hstore : c.regStore src 0 off r v = (c.setReg 0 0 off (r.merge (c.reg 0 0 off) v)).clearFault 0 0 off := by
      have hreg : findReg packageRegs off = some r := by
        rw [← hr, regAt, if_neg (by omega)]
        rfl
      obtain ⟨hmem, hle⟩ := findReg_mem hreg
      exact Chip.regStore_own rfl (keptElsewhere_package (by omega)) (packageRegs_bits hmem hp hro (by omega))
    have hwrite : c.writeFrom src (.block 0 off) 4 (v.setWidth 64) = c.regStore src 0 off r v := by
      rw [Chip.writeFrom_word hal, Chip.controlWrite_plain ho hm hr hp hro, hcheck]
      exact Chip.regEffect_package hlow hlock hhigh _ _ _ _
    refine RunsTo.keep (fun c => c.writeFrom src (.block 0 off) 4 (v.setWidth 64)) rfl ?_ ?_
    · rw [hwrite, Chip.regStore_fuse]
    · rw [hwrite, hstore]
      exact ⟨Chip.reg_setReg_self c 0 0 off _, fun k hk => Sparse.find_put_ne hk _ _, rfl⟩
  · intro al f b hlow hal halias hdb hf hacc w hcheck
    refine Runs.of (f := fun c => c.controlWrite src (.block u al) 4 (v.setWidth 64)) rfl ?_
    rw [Chip.controlWrite_alias_plain ho hr hp hlow hal halias hdb hf hacc hcheck]

/-! Locks, LAST_ERR and the mailbox (R55, R56, R66, R67, R233). -/

theorem Sparse.find_del {α : Type} (m : Sparse α) (n k : Nat) : (Sparse.del m n).find k = if k = n then none else m.find k := by
  induction m with
  | nil => simp [Sparse.del, Sparse.find]
  | cons e t ih =>
    obtain ⟨j, w⟩ := e
    by_cases hj : n = j
    · subst hj
      simp only [Sparse.del, if_true, ih, Sparse.find]
      split <;> rfl
    · simp only [Sparse.del, if_neg hj, Sparse.find, ih]
      by_cases hk : k = j
      · simp [hk, Ne.symm hj]
      · simp [hk]

/-- The fields of MSET_LOCK and BLK_LOCK: LOCK, which a write sets. -/
def lockFields : List Fld := [{ hi := 0, lo := 0, acc := .w1s }, { hi := 31, lo := 1, acc := .rsv }]

/-- A lock register reads LOCK = 1 after the write of 1. -/
theorem RegDef.merge_lock {r : RegDef} (h : r.fields = lockFields) (old : Word) : fld (r.merge old 1) 0 0 = 1 := by
  have hapart : FieldsApart r.fields := by rw [h]; unfold FieldsApart; decide
  have hbit := RegDef.merge_getLsbD hapart (f := { hi := 0, lo := 0, acc := .w1s }) (by simp [h, lockFields]) (i := 0) (by decide)
    (by decide) old 1
  have hone : (r.merge old 1).getLsbD 0 = true := by rw [hbit]; simp
  apply Nat.eq_of_testBit_eq
  intro i
  rw [fld_testBit]
  cases i with
  | zero => simpa using hone
  | succ i => simp [Nat.testBit_succ]

/-- An accepted write of 1 to a lock register sets LOCK. -/
theorem Chip.regStore_lock {c : Chip} {src : Src} {u off : Nat} {r : RegDef} (hfields : r.fields = lockFields)
    (hft : ftAdmin u off = false) (hkept : keptElsewhere u off = 0) :
    (c.regStore src u off r 1).regFld u (c.bankOf u off) off 0 0 = 1 := by
  have hbits : r.bits (fun f => decide (f.acc = .rw) || decide (f.acc = .w1s) || decide (f.acc = .w1c)) ≠ 0 := by
    rw [RegDef.bits, hfields]
    decide
  rw [Chip.regStore_own hft hkept hbits]
  exact (congrArg (fld · 0 0) (Chip.reg_setReg_self ..)).trans (RegDef.merge_lock hfields _)

/-- An accepted write through `put32` is stored and has its effect. -/
theorem Chip.takes_put32 {c : Chip} {src : Src} {u off n : Nat} (h : c.takes src u off (BitVec.ofNat 32 n) = true) :
    ∃ r, regAt (kindOf u) off = some r ∧ c.put32 src u off n =
      (c.regStore src u off r (BitVec.ofNat 32 n)).regEffect src u off (BitVec.ofNat 32 n) (c.view src u off) :=
  Chip.takes_write _ (BitVec.setWidth_ofNat_of_le (by decide) n) h

/-- The key of a register of the interleave sets. -/
def setsKey (k : Nat) : Bool := decide (regKey 0 0 0x2000 ≤ k) && decide (k < regKey 0 0 0x2400)

theorem setsKey_of_lt {off : Nat} (hlo : 0x2000 ≤ off) (hhi : off < 0x2400) : setsKey (regKey 0 0 off) = true := by
  unfold setsKey regKey
  exact Bool.and_eq_true_iff.mpr ⟨decide_eq_true (by omega), decide_eq_true (by omega)⟩

/-- The device without the pending and armed halves of the interleave sets. -/
def Chip.dropSets (c : Chip) : Chip :=
  { c with ctl := { c.ctl with
    pend := c.ctl.pend.filter fun e => !setsKey e.1
    armed := c.ctl.armed.filter fun e => !setsKey e.1 } }

/-- MSET_LOCK drops them (R233). -/
theorem Chip.regEffect_msetLock (c : Chip) (src : Src) (old : Word) : c.regEffect src 0 0x2400 1#32 old = c.dropSets := rfl

theorem Chip.dropSets_none (c : Chip) {off : Nat} (hlo : 0x2000 ≤ off) (hhi : off < 0x2400) :
    c.dropSets.pending 0 0 off = none ∧ Sparse.find c.dropSets.ctl.armed (regKey 0 0 off) = none := by
  have hgone (m : Sparse Word) : Sparse.find (m.filter fun e => !setsKey e.1) (regKey 0 0 off) = none := by
    rw [Sparse.find_filter (fun k => !setsKey k), setsKey_of_lt hlo hhi]
    rfl
  exact ⟨hgone _, hgone _⟩

/-- A header register that is neither LAST_ERR nor MBOX_SEL has no effect of its own. -/
theorem Chip.regEffect_header {off : Nat} (h : off < 0x1040) (herr : off ≠ 0x100C) (hsel : off ≠ 0x1020) (c : Chip) (src : Src)
    (u : Nat) (v old : Word) : c.regEffect src u off v old = c := by
  unfold Chip.regEffect
  extract_lets rises sw
  rw [if_neg herr, if_neg hsel, if_pos h]

theorem Chip.regEffect_select (c : Chip) (src : Src) (u : Nat) (v old : Word) :
    c.regEffect src u 0x1020 v old = c.setMbox u { c.mbox u with sel := fld v 23 0, valid := false, pend := true } := rfl

@[simp] theorem Chip.mbox_setMbox_self (c : Chip) (u : Nat) (m : Mbox) : (c.setMbox u m).mbox u = m := Sparse.at_put_self _ _ _ _

/-- The completion of a snapshot that was asked for (R67). -/
theorem Chip.snapshotDone_pending {c : Chip} {u : Nat} (h : (c.mbox u).pend = true) :
    c.snapshotDone u = { c.setMbox u { c.mbox u with
      valid := true, pend := false, seq := ((c.mbox u).seq + 1) % 256, data := (c.boxItem u (c.mbox u).sel).getD 0 }
      with fresh := c.fresh + 2 } :=
  if_neg (by simp [h])

/-- Settles O20: the four writes through what they store and do, and the completion of a snapshot. -/
theorem locksErrorsAndMailboxes : Obligations.LocksErrorsAndMailboxes := by
  intro s src u sel c
  refine ⟨?_, ?_, ?_, ?_, ?_⟩
  · intro ht
    obtain ⟨r, hr, hput⟩ := Chip.takes_put32 (n := 1) ht
    have hfields : r.fields = lockFields := by
      cases hr
      rfl
    refine RunsTo.of_fuseless (fun c => c.put32 src uPackage 0x2400 1) rfl ?_ (fun _ _ hd => hd)
    rw [show uPackage = 0 from rfl, hput, Chip.regEffect_msetLock]
    exact ⟨Chip.regStore_lock hfields rfl rfl, fun off hlo hhi => Chip.dropSets_none _ hlo hhi⟩
  · intro ht
    obtain ⟨r, hr, hput⟩ := Chip.takes_put32 (n := 1) ht
    have hfields : r.fields = lockFields := by
      cases hr
      rfl
    refine RunsTo.of_fuseless (fun c => c.put32 src u 0x1018 1) rfl ?_ (fun _ _ hd => hd)
    have hlock := Chip.regStore_lock (c := c) (src := src) (u := u) (off := 0x1018) hfields (ftAdmin_header (by decide) u)
      (keptElsewhere_header (by decide) (by decide) u)
    rw [Chip.bankOf_header (by decide)] at hlock
    rw [hput, Chip.regEffect_header (by decide) (by decide) (by decide)]
    exact hlock
  · intro ht
    obtain ⟨r, hr, hput⟩ := Chip.takes_put32 (n := 0x10000) ht
    have hstore : c.regStore src u 0x100C r (BitVec.ofNat 32 0x10000) = c := by
      cases hr
      rfl
    refine Runs.keep (fun c => c.put32 src u 0x100C 0x10000) rfl rfl ?_
    rw [hput, hstore]
    rfl
  · intro hsel ht
    obtain ⟨r, hr, hput⟩ := Chip.takes_put32 (n := sel) ht
    have hfld : fld (BitVec.ofNat 32 sel) 23 0 = sel := by
      simp only [fld, BitVec.toNat_ofNat]
      omega
    obtain ⟨l, k, hstore⟩ := c.regStore_eq src u 0x1020 r (BitVec.ofNat 32 sel)
    have hbox : (c.put32 src u 0x1020 sel).mbox u = { c.mbox u with sel := sel, valid := false, pend := true } := by
      rw [hput, Chip.regEffect_select, Chip.mbox_setMbox_self, hfld, hstore]
      rfl
    have hseq := congrArg Mbox.seq hbox
    exact RunsTo.of_fuseless (fun c => c.put32 src u 0x1020 sel) rfl ⟨hbox, hseq⟩ (fun _ _ hd => hd)
  · intro hp
    have hdone := Chip.snapshotDone_pending hp
    have hbox : (c.snapshotDone u).mbox u = { c.mbox u with
        valid := true, pend := false, seq := ((c.mbox u).seq + 1) % 256, data := (c.boxItem u (c.mbox u).sel).getD 0 } := by
      rw [hdone]
      exact Chip.mbox_setMbox_self _ _ _
    refine RunsTo.keep (·.snapshotDone u) rfl (by rw [hdone]; rfl) ?_
    rw [hbox]
    refine ⟨rfl, rfl, rfl, fun x hx => ?_, by rw [hdone]; rfl, by rw [hdone]; rfl⟩
    rw [hx]
    rfl

end Sys2Proof.Machine
end

section
/-! Complement pairs (R59-R61, R231, R498, R515): what a write of either half of a pair leaves, and from it the statement. -/

namespace Sys2Proof.Machine

section pair
variable {c : Chip} {src : Src} {u off : Nat} {v : Word} {r : RegDef}

/-! The pieces of a commit. -/

@[simp] theorem Chip.pending_dropPending_self (c : Chip) (u b o : Nat) : (c.dropPending u b o).pending u b o = none :=
  (Sparse.find_del _ _ _).trans (if_pos rfl)

@[simp] theorem Chip.dropPending_fuse (c : Chip) (u b o : Nat) : (c.dropPending u b o).fuse = c.fuse := rfl
@[simp] theorem Chip.disarm_fuse (c : Chip) (u b o : Nat) : (c.disarm u b o).fuse = c.fuse := rfl

/-- A write of X, X_LO or X_HI makes its value pending and may disarm. -/
theorem Chip.pairPend_eq (c : Chip) (u b o : Nat) (r : RegDef) (v : Word) : ∃ k, c.pairPend u b o r v =
    { c with ctl := { c.ctl with pend := Sparse.put c.ctl.pend (regKey u b o) v, armed := k } } := by
  unfold Chip.pairPend
  dsimp only
  split <;> exact ⟨_, rfl⟩

/-- A commit stores the value, clears the fault of its register, and may set a window. -/
theorem Chip.pairStore_eq (c : Chip) (u b o : Nat) (v : Word) : ∃ p k, c.pairStore u b o v =
    { c with pxs := p, ctl := { c.ctl with regs := Sparse.put c.ctl.regs (regKey u b o) v, faulted := k } } := by
  unfold Chip.pairStore
  dsimp only
  split <;> exact ⟨_, _, rfl⟩

@[simp] theorem Chip.pairStore_fuse (c : Chip) (u b o : Nat) (v : Word) : (c.pairStore u b o v).fuse = c.fuse := by
  obtain ⟨p, k, h⟩ := c.pairStore_eq u b o v
  rw [h]

theorem Chip.pairStore_regs (c : Chip) (u b o : Nat) (v : Word) :
    (c.pairStore u b o v).ctl.regs = Sparse.put c.ctl.regs (regKey u b o) v := by
  obtain ⟨p, k, h⟩ := c.pairStore_eq u b o v
  rw [h]

theorem Chip.pairStore_pend (c : Chip) (u b o : Nat) (v : Word) : (c.pairStore u b o v).ctl.pend = c.ctl.pend := by
  obtain ⟨p, k, h⟩ := c.pairStore_eq u b o v
  rw [h]

@[simp] theorem Chip.pairStore_pending (c : Chip) (u b o : Nat) (v : Word) (u' b' o' : Nat) :
    (c.pairStore u b o v).pending u' b' o' = c.pending u' b' o' := by
  simp only [Chip.pending, Chip.pairStore_pend]

@[simp] theorem Chip.reg_pairStore_self (c : Chip) (u b o : Nat) (v : Word) : (c.pairStore u b o v).reg u b o = v := by
  simp [Chip.reg, Chip.pairStore_regs]

theorem Chip.reg_pairStore_ne {b o o' : Nat} (h : o' ≠ o) (c : Chip) (u : Nat) (v : Word) :
    (c.pairStore u b o v).reg u b o' = c.reg u b o' := by
  have hkey : regKey u b o' ≠ regKey u b o := fun e => h (Nat.add_left_cancel e)
  simp only [Chip.reg, Chip.pairStore_regs, Sparse.find_put_ne hkey]

/-! The write of a register of a pair. -/

/-- A write of X, X_LO or X_HI that no lock rejects is pending. -/
theorem Chip.regWrite_pend (ho : c.opens src u = true) (hr : regAt (kindOf u) off = some r)
    (hpf1 : ¬ (src = .pf1 ∧ c.pf1Absent u off v 0 = true)) (hrole : r.role = .x ∨ r.role = .lo ∨ r.role = .hi)
    (hlock : c.lockedFor src u off r = false) : c.regWrite src u off v = c.pairPend u (c.bankOf u off) off r v := by
  obtain ⟨-, hsee, hpres, -⟩ := Chip.opens_iff.mp ho
  have hplain : r.role ≠ .plain := by rcases hrole with h | h | h <;> simp [h]
  rw [Chip.regWrite, hr]
  simp only [hsee, hpres, hplain, hpf1, hrole, hlock, decide_false, Bool.and_false, Bool.not_true, Bool.or_self,
    Bool.false_eq_true, if_false, if_true]

/-- A write of X_CPL, X_LO_CPL or X_HI_CPL is the commit that it asks for. -/
theorem Chip.regWrite_commit (ho : c.opens src u = true) (hr : regAt (kindOf u) off = some r)
    (hpf1 : ¬ (src = .pf1 ∧ c.pf1Absent u off v 0 = true)) (hrole : r.role = .xCpl ∨ r.role = .loCpl ∨ r.role = .hiCpl)
    {e : Option Nat} {d : Chip} (hd : d.fuse = c.fuse) (hcommit : c.pairCommit src u (c.bankOf u off) off r v = (e, d)) :
    c.regWrite src u off v = match e with
      | some e => d.recordErr u e (ctlOffset u off)
      | none => d := by
  obtain ⟨-, hsee, hpres, -⟩ := Chip.opens_iff.mp ho
  have hplain : r.role ≠ .plain := by rcases hrole with h | h | h <;> simp [h]
  have hfirst : ¬ (r.role = .x ∨ r.role = .lo ∨ r.role = .hi) := by rcases hrole with h | h | h <;> simp [h]
  rw [Chip.regWrite, hr]
  simp only [hsee, hpres, hplain, hpf1, hfirst, hcommit, decide_false, Bool.and_false, Bool.not_true, Bool.or_self,
    Bool.false_eq_true, if_false]
  cases e with
  | none => rfl
  | some e => exact Chip.refuse_of_opens ho hd off e

/-- The complement of a pending low half arms it. -/
theorem Chip.pairCommit_arms {bank : Nat} (hrole : r.role = .loCpl) (hlock : c.lockedFor src u off r = false)
    (hp : c.pending u bank (off - 4) = some (~~~ v)) :
    c.pairCommit src u bank off r v = (none, { c.dropPending u bank (off - 4) with
      ctl := { (c.dropPending u bank (off - 4)).ctl with armed := Sparse.put c.ctl.armed (regKey u bank (off - 4)) (~~~ v) } }) := by
  simp only [Chip.pairCommit, hrole, hlock, hp]
  rfl

/-- A commit of X_CPL that nothing rejects stores the complement of what was written. -/
theorem Chip.pairCommit_x {bank : Nat} (hrole : r.role = .xCpl) (hok : (c.pairCommit src u bank off r v).1 = none) :
    c.pairCommit src u bank off r v = (none, (c.dropPending u bank (off - 4)).pairStore u bank (off - 4) (~~~ v)) := by
  cases hp : c.pending u bank (off - 4) with
  | none => simp [Chip.pairCommit, hrole, hp] at hok
  | some q =>
    simp only [Chip.pairCommit, hrole, hp] at hok ⊢
    by_cases hlock : (c.lockedFor src u off r || c.pairLocked u (off - 4) q) = true
    · rw [if_pos hlock] at hok
      cases hok
    · rw [if_neg hlock] at hok ⊢
      by_cases hq : q = ~~~ v
      · subst hq
        cases hcheck : c.pairCheck src u (off - 4) bank ((regAt (kindOf u) (off - 4)).getD r) (~~~ v) with
        | some e => simp [hcheck] at hok
        | none => simp
      · simp [hq] at hok

/-- A commit of X_HI_CPL that nothing rejects stores the armed low half and the complement of what was written. -/
theorem Chip.pairCommit_hi {bank : Nat} (hrole : r.role = .hiCpl) (hok : (c.pairCommit src u bank off r v).1 = none) :
    ∃ l, Sparse.find c.ctl.armed (regKey u bank (off - 12)) = some l ∧ c.pairCommit src u bank off r v =
      (none, ((((c.dropPending u bank (off - 4)).disarm u bank (off - 12)).pairStore u bank (off - 12) l).pairStore u bank (off - 4)
        (~~~ v))) := by
  cases harm : Sparse.find c.ctl.armed (regKey u bank (off - 12)) with
  | none =>
    simp only [Chip.pairCommit, hrole, harm] at hok
    split at hok <;> cases hok
  | some l =>
    refine ⟨l, rfl, ?_⟩
    simp only [Chip.pairCommit, hrole, harm] at hok ⊢
    split_ifs at hok ⊢
    rfl

/-- A write of X_CPL that is no complement drops the pending value. -/
theorem Chip.pairCommit_mismatch {bank : Nat} {q : Word} (hrole : r.role = .xCpl) (hp : c.pending u bank (off - 4) = some q)
    (hq : q ≠ ~~~ v) (hlock : c.lockedFor src u off r = false) (hset : c.pairLocked u (off - 4) q = false) :
    c.pairCommit src u bank off r v = (some errPairMismatch, c.dropPending u bank (off - 4)) := by
  simp [Chip.pairCommit, hrole, hp, hq, hlock, hset]

/-- What the commit of X_CPL leaves. -/
theorem Chip.regWrite_x (ho : c.opens src u = true) (hr : regAt (kindOf u) off = some r)
    (hpf1 : ¬ (src = .pf1 ∧ c.pf1Absent u off v 0 = true)) (hrole : r.role = .xCpl)
    (hok : (c.pairCommit src u (c.bankOf u off) off r v).1 = none) :
    (c.regWrite src u off v).pending u (c.bankOf u off) (off - 4) = none ∧
      (c.regWrite src u off v).reg u (c.bankOf u off) (off - 4) = ~~~ v := by
  rw [Chip.regWrite_commit ho hr hpf1 (.inl hrole) (by simp) (Chip.pairCommit_x hrole hok)]
  simp

/-- What the commit of X_HI_CPL leaves. -/
theorem Chip.regWrite_hi (ho : c.opens src u = true) (hr : regAt (kindOf u) off = some r)
    (hpf1 : ¬ (src = .pf1 ∧ c.pf1Absent u off v 0 = true)) (hrole : r.role = .hiCpl)
    (hok : (c.pairCommit src u (c.bankOf u off) off r v).1 = none) (hoff : 12 ≤ off) :
    some ((c.regWrite src u off v).reg u (c.bankOf u off) (off - 12)) =
        Sparse.find c.ctl.armed (regKey u (c.bankOf u off) (off - 12)) ∧
      (c.regWrite src u off v).reg u (c.bankOf u off) (off - 4) = ~~~ v := by
  obtain ⟨l, harm, hcommit⟩ := Chip.pairCommit_hi hrole hok
  rw [Chip.regWrite_commit ho hr hpf1 (.inr (.inr hrole)) (by simp) hcommit, harm]
  simp [Chip.reg_pairStore_ne (show off - 12 ≠ off - 4 by omega)]

/-- A register's row that puts a word writes it in the register map. -/
theorem Chip.put32_mapped (ho : c.opens src u = true) (hm : c.mapped u off = true) (v : Word) :
    c.put32 src u off v.toNat = c.regWrite src u off v := by
  rw [Chip.put32, Chip.controlWrite_mapped ho hm, BitVec.ofNat_toNat, BitVec.setWidth_setWidth_of_le _ (by decide),
    BitVec.setWidth_eq]

theorem Chip.controlWrite_wide (ho : c.opens src u = true) (hm : c.mapped u off = true) (v : Word) :
    c.controlWrite src (.block u off) 4 (v.setWidth 64) = c.regWrite src u off v := by
  rw [Chip.controlWrite_mapped ho hm, BitVec.setWidth_setWidth_of_le _ (by decide), BitVec.setWidth_eq]

end pair

/-- The register that an interleave set commits through is a complement (R229, R231). -/
theorem msetReg_role {n : Nat} (hn : n < 16) (m : MsetReg) {r : RegDef} (hr : regAt (kindOf 0) (msetOff n (msetReg m + 4)) = some r) :
    r.role = .xCpl := by
  have hall : ∀ n < 16, ∀ o ∈ [0x00, 0x08, 0x10, 0x18, 0x20],
      (regAt (kindOf 0) (msetOff n (o + 4))).map (·.role) = some .xCpl := by decide
  have hrole := hall n hn (msetReg m) (by cases m <;> decide)
  rw [hr] at hrole
  exact Option.some_inj.mp hrole

/-- Settles O19: the write of X, then the commits by role, the rejected complement, the interleave sets and the boot entry. -/
theorem complementPairsCommitOnlyTogether : Obligations.ComplementPairsCommitOnlyTogether := by
  intro s src u off v r c bank ho hm hr hpf1
  have hwide := Chip.controlWrite_wide (c := s.chip) ho hm v
  refine ⟨?_, ?_, ?_, ?_, ?_, ?_, ?_⟩
  · intro hrole hlock
    obtain ⟨k, hpend⟩ := c.pairPend_eq u bank off r v
    have hwrite := (hwide.trans (Chip.regWrite_pend ho hr hpf1 hrole hlock)).trans hpend
    refine RunsTo.keep (fun c => c.controlWrite src (.block u off) 4 (v.setWidth 64)) rfl (by rw [hwrite]) ?_
    rw [hwrite]
    exact ⟨Sparse.find_put_self _ _ _, rfl, rfl⟩
  · intro hrole hlock hp
    have hwrite := hwide.trans (Chip.regWrite_commit ho hr hpf1 (.inr (.inl hrole)) (by simp) (Chip.pairCommit_arms hrole hlock hp))
    refine RunsTo.keep (fun c => c.controlWrite src (.block u off) 4 (v.setWidth 64)) rfl (by rw [hwrite]; rfl) ?_
    rw [hwrite]
    exact ⟨Chip.pending_dropPending_self _ _ _ _, Sparse.find_put_self _ _ _, rfl, rfl⟩
  · intro hrole hok
    refine RunsTo.of_fuseless (fun c => c.controlWrite src (.block u off) 4 (v.setWidth 64)) rfl ?_ (fun _ _ hd => hd)
    rw [hwide]
    exact Chip.regWrite_x ho hr hpf1 hrole hok
  · intro hrole hok hoff
    refine RunsTo.of_fuseless (fun c => c.controlWrite src (.block u off) 4 (v.setWidth 64)) rfl ?_ (fun _ _ hd => hd)
    rw [hwide]
    exact Chip.regWrite_hi ho hr hpf1 hrole hok hoff
  · intro q hrole hp hq hlock hset
    have hwrite := hwide.trans (Chip.regWrite_commit ho hr hpf1 (.inl hrole) (by simp)
      (Chip.pairCommit_mismatch hrole hp hq hlock hset))
    exact Runs.keep (fun c => c.controlWrite src (.block u off) 4 (v.setWidth 64)) rfl rfl hwrite
  · rintro n m rfl rfl hok hserves
    have hn : n < 16 := by
      simp only [Chip.serves, partsOf, List.all_append, Bool.and_eq_true, List.all_cons, decide_eq_true_eq] at hserves
      exact hserves.2.1
    refine RunsTo.of_fuseless (fun c => c.put32 src uPackage (msetOff n (msetReg m + 4)) v.toNat) rfl ?_ (fun _ _ hd => hd) hserves
    rw [show uPackage = 0 from rfl, Chip.put32_mapped ho hm]
    exact Chip.regWrite_x ho hr hpf1 (msetReg_role hn m hr) hok
  · rintro rfl rfl hok
    have hrole : r.role = .hiCpl := by
      cases hr
      rfl
    refine RunsTo.of_fuseless (fun c => c.put32 src uPackage 0x609C v.toNat) rfl ?_ (fun _ _ hd => hd)
    rw [show uPackage = 0 from rfl, Chip.put32_mapped ho hm]
    exact Chip.regWrite_hi ho hr hpf1 hrole hok (by decide)

end Sys2Proof.Machine
end

section
/-! Reads, parity faults and summaries (R34, R41, R48, R52, R63): what a read of a plain register clears, what a faulted register
leaves, how an error of a leaf reaches its ancestors' summaries, and from these the statement. -/

namespace Sys2Proof.Machine

/-! Reads (R48, R52). -/

/-- The RC bits of a register. -/
def RegDef.rcBits (r : RegDef) : Word := r.bits fun f => decide (f.acc = .rc)

theorem Chip.regRead_plain {c : Chip} {src : Src} {u off : Nat} {r : RegDef} (ho : c.opens src u = true)
    (hr : regAt (kindOf u) off = some r) (hp : r.role = .plain) :
    c.regRead src u off = (c.view src u off,
      if r.rcBits = 0 then c else c.setReg u (c.bankOf u off) off (c.view src u off &&& ~~~ r.rcBits)) := by
  obtain ⟨-, hsee, hpres, -⟩ := Chip.opens_iff.mp ho
  have hview : c.pairView src u off r = c.view src u off := by simp only [Chip.pairView, hp]
  rw [Chip.regRead, hr]
  simp only [hsee, hpres, hview, Bool.not_true, Bool.false_eq_true, if_false]
  change (if r.rcBits = 0 then _ else _) = _
  split <;> rfl

/-! Parity faults (R63). -/

theorem Chip.writeRec_units (c : Chip) (u i : Nat) (e : ErrInfo) (mo : Bool) : (c.writeRec u i e mo).units = c.units := by
  rw [Chip.writeRec_eq, Chip.signalRec_units]
  rfl

/-- Whichever rule of R421 applies, a logged error changes the summary of its unit and no other unit (R34). -/
theorem Chip.logErr_units (c : Chip) (u : Nat) (e : ErrInfo) :
    (c.logErr u e).units = (c.modUnit u fun x => { x with err := x.err ||| summaryBit e }).units := by
  unfold Chip.logErr
  extract_lets d rs rs' vs same newest lowest
  split
  · dsimp only
    split <;> rfl
  · split
    · exact Chip.writeRec_units _ _ _ _ _
    · split
      · exact Chip.writeRec_units _ _ _ _ _
      · split
        · split
          · exact Chip.writeRec_units _ _ _ _ _
          · rfl
        · split <;> rfl

theorem Chip.logErr_unit_self (c : Chip) (u : Nat) (e : ErrInfo) :
    (c.logErr u e).unit u = { c.unit u with err := (c.unit u).err ||| summaryBit e } := by
  rw [Chip.unit_of_units (c.logErr_units u e), Chip.modUnit_self]

theorem Chip.logErr_unit_ne {u k : Nat} (h : k ≠ u) (c : Chip) (e : ErrInfo) : (c.logErr u e).unit k = c.unit k := by
  rw [Chip.unit_of_units (c.logErr_units u e), Chip.modUnit_ne h]

theorem NatSet.mem_insert (m : NatSet) (n : Nat) : n ∈ NatSet.insert m n := by
  induction m with
  | nil => simp [NatSet.insert]
  | cons k t ih =>
    unfold NatSet.insert
    split_ifs with h1 h2
    · simp
    · simp [h2]
    · simp [ih]

/-- A device in which a register is faulted. -/
def Chip.markFault (c : Chip) (key : Nat) : Chip :=
  { c with ctl := { c.ctl with faulted := NatSet.insert c.ctl.faulted key } }

/-- A faulted register holds its block (R63). -/
theorem Chip.markFault_held {c d : Chip} {v b x : Nat} (hctl : d.ctl = (c.markFault (regKey v b x)).ctl) (hb : b < 2 ^ 20)
    (hx : x < 2 ^ 28) :
    d.faulty v b x = true ∧ d.held v = true := by
  have hmem : regKey v b x ∈ d.ctl.faulted := by
    rw [hctl]
    exact NatSet.mem_insert _ _
  have hblock : regKey v b x / 2 ^ 48 = v := by
    unfold regKey
    omega
  refine ⟨List.contains_iff_mem.mpr hmem, ?_⟩
  have hin : regKey v b x ∈ d.faultsOf v := List.mem_filter.mpr ⟨hmem, decide_eq_true hblock⟩
  cases hf : d.faultsOf v with
  | nil => simp [hf] at hin
  | cons k t => simp [Chip.held, hf]

/-- The record of a register's parity mismatch (R63). -/
def regFaultInfo (u off v x : Nat) : ErrInfo :=
  { cls := .uncorrected, struct := 0x18, indexB := (x - 0x1000) / 4,
    addr := (if off = 0x18 then 0x40 * u + off else (ctlOffset v x).toNat), at_ := 4 }

/-- What the first mismatch of a register comes to: the register faulted and an uncorrected record of a register fault. -/
theorem Chip.parityFault_eq {c : Chip} {u bank off v b x : Nat} (hp : parityAt u bank off = some (v, b, x))
    (hpres : c.present u = true) (hclk : c.pwr.clocks = true) (hfault : c.faulty v b x = false) :
    ∃ e : ErrInfo, e.cls = .uncorrected ∧ e.struct = 0x18 ∧
      c.parityFault u bank off = (c.markFault (regKey v b x)).logErr (if v = uIm then 0 else v) e := by
  have hnew : c.ctl.faulted.contains (regKey v b x) = false := hfault
  refine ⟨regFaultInfo u off v x, rfl, rfl, ?_⟩
  rw [Chip.parityFault, hp]
  simp only [hpres, hnew, hclk, Bool.not_true, Bool.or_self, Bool.false_eq_true, if_false]
  rfl

/-! The tree of units (R28, R32). -/

theorem kindOf_paddock {v : Nat} (h1 : 1 ≤ v) (h2 : v ≤ 4) : kindOf v = .paddock := by
  unfold kindOf
  rw [if_neg (by omega), if_pos h2]

theorem kindOf_fold {v : Nat} (h1 : 29 ≤ v) (h2 : v ≤ 48) : kindOf v = .fold := by
  rw [show v = uFold (v - 29) by unfold uFold; omega]
  exact kindOf_uFold (by omega)

theorem kindOf_tile {v : Nat} (h1 : 49 ≤ v) (h2 : v ≤ 148) : kindOf v = .tile := by
  unfold kindOf
  repeat rw [if_neg (by omega)]
  rw [if_pos h2]

theorem kindOf_coreOrSlice {v : Nat} (h1 : 149 ≤ v) (h2 : v ≤ 448) : kindOf v = .core ∨ kindOf v = .l3Slice := by
  unfold kindOf
  repeat rw [if_neg (by omega)]
  rw [if_pos h2]
  split
  · exact .inr rfl
  · exact .inl rfl

theorem kindOf_cluster {v : Nat} (h1 : 25 ≤ v) (h2 : v ≤ 26) : kindOf v = .droverCluster := by
  rw [show v = uDrover (v - 25) by unfold uDrover; omega]
  exact kindOf_uDrover (by omega)

theorem kindOf_droverCore {v : Nat} (h1 : 449 ≤ v) (h2 : v ≤ 512) : kindOf v = .droverCore := by
  rw [show v = uDvCore ((v - 449) / 32) ((v - 449) % 32) by unfold uDvCore; omega]
  exact kindOf_uDvCore (by omega) (by omega)

/-- The top level: units 1 to 28, whose parent is the package. -/
theorem parentOf_top {v : Nat} (h : v ≤ 28) : parentOf v = 0 := by
  have hall : ∀ v < 29, parentOf v = 0 := by decide
  exact hall v (by omega)

/-- Where a unit stands in the tree: the package's own children, folds in paddocks, tiles in folds, cores and slices in tiles, and
drover cores in clusters. -/
theorem parentOf_eq {v : Nat} (h : v ≤ 512) :
    parentOf v = if v ≤ 28 then 0 else if v ≤ 48 then 1 + (v - 29) / 5 else if v ≤ 148 then 29 + (v - 49) / 5
      else if v ≤ 448 then 49 + (v - 149) / 3 else 25 + (v - 449) / 32 := by
  split_ifs with h1 h2 h3 h4
  · exact parentOf_top h1
  · unfold parentOf; rw [kindOf_fold (by omega) h2]
  · unfold parentOf; rw [kindOf_tile (by omega) h3]
  · unfold parentOf; rcases kindOf_coreOrSlice (by omega) h4 with hk | hk <;> rw [hk]
  · unfold parentOf; rw [kindOf_droverCore (by omega) h]

theorem parentOf_lt {v : Nat} (h0 : v ≠ 0) (h : v ≤ 512) : parentOf v < v := by
  rw [parentOf_eq h]
  split_ifs <;> omega

/-- A unit is among its parent's children. -/
theorem mem_childrenOf_parentOf {v : Nat} (h0 : v ≠ 0) (h : v ≤ 512) : v ∈ childrenOf (parentOf v) := by
  suffices hrange : firstChild (parentOf v) ≤ v ∧ v < firstChild (parentOf v) + childCount (parentOf v) by
    refine List.mem_map.mpr ⟨v - firstChild (parentOf v), List.mem_range.mpr ?_, ?_⟩ <;> omega
  rw [parentOf_eq h]
  unfold firstChild childCount
  split_ifs with h1 h2 h3 h4
  · rw [show kindOf 0 = .package from rfl]; dsimp only; omega
  · rw [kindOf_paddock (by omega) (by omega)]; dsimp only; omega
  · rw [kindOf_fold (by omega) (by omega)]; dsimp only; omega
  · rw [kindOf_tile (by omega) (by omega)]; dsimp only; omega
  · rw [kindOf_cluster (by omega) (by omega)]; dsimp only; omega

theorem isGroup_of_mem {v p : Nat} (h : v ∈ childrenOf p) : isGroup p = true := by
  obtain ⟨k, hk, -⟩ := List.mem_map.mp h
  have hpos := List.mem_range.mp hk
  simp only [isGroup, decide_eq_true_eq]
  omega

/-! Summaries (R34, R41). -/

/-- Bits gathered over a list are those of the start and of each member. -/
theorem foldl_or_testBit {α : Type} (f : α → Nat) (l : List α) (a i : Nat) :
    (l.foldl (fun a v => a ||| f v) a).testBit i = (a.testBit i || l.any fun v => (f v).testBit i) := by
  induction l generalizing a with
  | nil => simp
  | cons v t ih => rw [List.foldl_cons, ih, Nat.testBit_or, List.any_cons, Bool.or_assoc]

/-- An error bit of a child is in its group's summary. -/
theorem Chip.groupSum_err {c : Chip} {p v i : Nat} (hv : v ∈ childrenOf p) (hi : i < 5) (h : (c.errOf v).testBit i = true) :
    (c.groupSum p).err.getLsbD i = true := by
  have hany : ((childrenOf p).foldl (fun a v => a ||| c.errOf v) (c.unit p).err.toNat).testBit i = true := by
    rw [foldl_or_testBit, List.any_eq_true.mpr ⟨v, hv, h⟩, Bool.or_true]
  unfold Chip.groupSum
  dsimp only
  generalize (childrenOf p).foldl (fun a v => a ||| c.errOf v) (c.unit p).err.toNat = e at hany
  generalize ((childrenOf p).findIdx? fun v => decide (c.errOf v ≠ 0)).getD 0xFF = n
  rw [BitVec.getLsbD_ofNat, ← hany, decide_eq_true (show i < 32 by omega), Bool.true_and]
  have hlow : (e + 2 ^ 8 * n) % 2 ^ 8 = e % 2 ^ 8 := Nat.add_mul_mod_self_left _ _ _
  have hbit := congrArg (Nat.testBit · i) hlow
  simp only [Nat.testBit_mod_two_pow, show i < 8 by omega, decide_true, Bool.true_and] at hbit
  exact hbit

/-- After a group is summed, its own error bits as an ancestor takes them include its child's. -/
theorem Chip.sumUnit_errOf {c : Chip} {p v i : Nat} (hv : v ∈ childrenOf p) (hi : i < 5) (h : (c.errOf v).testBit i = true) :
    ((c.sumUnit p).errOf p).testBit i = true := by
  have hsum : Sparse.at (c.sumUnit p).sums {} p = c.groupSum p := Sparse.at_put_self _ _ _ _
  rw [Chip.errOf, if_pos (isGroup_of_mem hv), hsum, fld_testBit, Nat.zero_add, Chip.groupSum_err hv hi h]
  simpa using hi

/-- Summing groups changes their summaries and no other. -/
theorem Chip.foldl_sumUnit_eq (l : List Nat) (c : Chip) : ∃ t, l.foldl Chip.sumUnit c = { c with sums := t } ∧
    ∀ g, g ∉ l → Sparse.find t g = Sparse.find c.sums g := by
  induction l generalizing c with
  | nil => exact ⟨c.sums, rfl, fun _ _ => rfl⟩
  | cons p l ih =>
    obtain ⟨t, ht, hne⟩ := ih (c.sumUnit p)
    refine ⟨t, ht, fun g hg => ?_⟩
    simp only [List.mem_cons, not_or] at hg
    exact (hne g hg.2).trans (Sparse.find_put_ne hg.1 _ _)

/-- Ancestors are numbered below the unit. -/
theorem lt_of_mem_ancestors {n v g : Nat} (hv : v ≤ 512) (h : g ∈ ancestorsOf.go n v) : g < v := by
  induction n generalizing v with
  | zero => simp [ancestorsOf.go] at h
  | succ n ih =>
    unfold ancestorsOf.go at h
    split at h
    · simp at h
    next h0 =>
      have hlt := parentOf_lt h0 hv
      rcases List.mem_cons.mp h with rfl | h
      · exact hlt
      · exact (ih (by omega) h).trans hlt

/-- An error bit of a unit reaches the summary of each ancestor, the nearest first. -/
theorem Chip.ancestors_err {n v i : Nat} {c : Chip} (hv : v ≤ 512) (hi : i < 5) (h : (c.errOf v).testBit i = true) :
    ∀ g ∈ ancestorsOf.go n v, (Sparse.at ((ancestorsOf.go n v).foldl Chip.sumUnit c).sums {} g).err.getLsbD i = true := by
  induction n generalizing v c with
  | zero => simp [ancestorsOf.go]
  | succ n ih =>
    unfold ancestorsOf.go
    split
    · simp
    next h0 =>
      have hlt := parentOf_lt h0 hv
      have hchild := mem_childrenOf_parentOf h0 hv
      intro g hg
      rw [List.foldl_cons]
      by_cases hmem : g ∈ ancestorsOf.go n (parentOf v)
      · exact ih (by omega) (Chip.sumUnit_errOf hchild hi h) g hmem
      · obtain rfl := (List.mem_cons.mp hg).resolve_right hmem
        obtain ⟨t, ht, hne⟩ := Chip.foldl_sumUnit_eq (ancestorsOf.go n (parentOf v)) (c.sumUnit (parentOf v))
        have hsum : Sparse.at t {} (parentOf v) = c.groupSum (parentOf v) := by
          rw [Sparse.at, hne _ hmem]
          exact Sparse.at_put_self _ _ _ _
        rw [ht, hsum]
        exact Chip.groupSum_err hchild hi h

/-- Settles O21: a read of a plain register, the first mismatch of a register, and a leaf's error on its way up the tree. -/
theorem readsFaultsAndSummaries : Obligations.ReadsFaultsAndSummaries := by
  intro s src u off bank r c
  refine ⟨?_, ?_, ?_⟩
  · intro ho hm hr hp _
    obtain ⟨hal, -⟩ := Chip.mapped_iff.mp hm
    have hread : c.readTo src (.block u off) 4 =
        { (c.regRead src u off).2 with lastRead := (c.view src u off).setWidth 64 } := by
      rw [Chip.readTo_word hal, Chip.controlRead_mapped ho hm, Chip.regRead_plain ho hr hp]
    rw [Chip.regRead_plain ho hr hp] at hread
    refine RunsTo.keep (fun c => c.readTo src (.block u off) 4) rfl ?_ ?_
    · rw [hread]
      dsimp only
      split <;> rfl
    · rw [hread]
      refine ⟨rfl, fun h0 => ?_, fun h0 => ?_⟩
      · rw [if_pos (show r.rcBits = 0 from h0)]
      · rw [if_neg (show r.rcBits ≠ 0 from h0)]
        exact Chip.reg_setReg_self _ _ _ _ _
  · intro v b x hp hpres hclk hfault hb hx g
    obtain ⟨e, hcls, hstruct, heq⟩ := Chip.parityFault_eq hp hpres hclk hfault
    have hctl : (c.parityFault u bank off).ctl = (c.markFault (regKey v b x)).ctl := by
      rw [heq]
      have hlog := Chip.logErr_onlyRecords (c.markFault (regKey v b x)) g (e := e) (by simp [hcls])
      have hctl := congrArg Chip.ctl hlog
      exact hctl
    obtain ⟨hfaulty, hheld⟩ := Chip.markFault_held hctl hb hx
    refine RunsTo.of_fuseless (·.parityFault u bank off) rfl ⟨hfaulty, hheld, ?_, fun k hk => ?_⟩ (fun _ _ hd => hd)
    · have hbits : summaryBit e = 20 := by rw [summaryBit, hcls, hstruct]; rfl
      rw [heq, Chip.logErr_unit_self, hbits]
      simp
    · rw [heq, Chip.logErr_unit_ne hk]
      rfl
  · intro hu hleaf
    have hprop : c.propagate u = (ancestorsOf u).foldl Chip.sumUnit c := by simp [Chip.propagate, hleaf]
    obtain ⟨t, ht, -⟩ := Chip.foldl_sumUnit_eq (ancestorsOf u) c
    refine RunsTo.keep (·.propagate u) rfl (by rw [hprop, ht]) ?_
    rw [hprop]
    refine ⟨by rw [ht], fun g hg i hi => ?_⟩
    have hbit : (c.errOf u).testBit i = true := by rwa [Chip.errOf, hleaf]
    exact Chip.ancestors_err hu (BitVec.lt_of_getLsbD hi) hbit g hg

end Sys2Proof.Machine
end

section
/-! Doorbells (R75-R77, R304, R397): the index that a doorbell carries, what it moves, where it lies, and from these the statement. -/

namespace Sys2Proof.Machine

/-- A doorbell's index is read back where the halves are complements (R75). -/
theorem doorbellIndex_complements {pi : Nat} (h : pi < 2 ^ 32) :
    doorbellIndex (BitVec.ofNat 64 (pi + 2 ^ 32 * (2 ^ 32 - 1 - pi))) = some pi := by
  obtain ⟨q, hq⟩ : ∃ q, q = 2 ^ 32 - 1 - pi := ⟨_, rfl⟩
  have hword : (BitVec.ofNat 64 (pi + 2 ^ 32 * q)).toNat = pi + 2 ^ 32 * q := by
    rw [BitVec.toNat_ofNat, Nat.mod_eq_of_lt (by omega)]
  have hlow : fld (BitVec.ofNat 64 (pi + 2 ^ 32 * q)) 31 0 = pi := by
    rw [fld, hword]
    omega
  have hhigh : fld (BitVec.ofNat 64 (pi + 2 ^ 32 * q)) 63 32 = q := by
    rw [fld, hword]
    omega
  rw [← hq, doorbellIndex, hlow, hhigh, if_pos hq]

/-! What a doorbell moves. -/

/-- The index that moves the ring's ACC. -/
def Chip.accFits (c : Chip) (r : RingId) (pi : Nat) : Prop :=
  pi ≠ (c.ring r).acc ∧ sub32 pi (c.ring r).acc ≤ c.ringSize r ∧ sub32 pi (c.ring r).ci ≤ c.ringSize r

/-- The index that moves the ring's HEAD. -/
def Chip.headReached (c : Chip) (r : RingId) (pi : Nat) : Prop :=
  (c.inst (c.ringOwner r)).st ≠ .absent ∧ (c.inst (c.ringOwner r)).st ≠ .resetting ∧ (c.ring r).en = true ∧
    pi ≠ (c.ring r).head ∧ sub32 pi (c.ring r).head ≤ sub32 (c.ring r).wi (c.ring r).head

section ring
variable {c : Chip} {r : RingId} {data : DWord} {pi : Nat} {drop : Chip → Chip}

theorem Chip.ringDoorbell_moves (hpi : doorbellIndex data = some pi) (hhears : c.ringHears r = true) (hfits : c.accFits r pi) :
    c.ringDoorbell r data drop = c.modRing r fun y => { y with acc := pi } := by
  obtain ⟨hne, hacc, hci⟩ := hfits
  have hroom : ¬ (c.ringSize r < sub32 pi (c.ring r).acc ∨ c.ringSize r < sub32 pi (c.ring r).ci) := by omega
  rw [Chip.ringDoorbell, hpi]
  simp only [hhears, Bool.not_true, Bool.false_eq_true, if_false, if_neg hne, if_neg hroom]

theorem Chip.ringDoorbell_drops (h : doorbellIndex data = none) : c.ringDoorbell r data drop = drop c := by
  rw [Chip.ringDoorbell, h]

theorem Chip.headDoorbell_moves (hpi : doorbellIndex data = some pi) (hreached : c.headReached r pi) :
    c.headDoorbell r data drop = c.modRing r fun y => { y with head := pi } := by
  obtain ⟨habsent, hreset, hen, hne, hwi⟩ := hreached
  rw [Chip.headDoorbell, hpi]
  cases hst : (c.inst (c.ringOwner r)).st <;>
    simp_all only [ne_eq, not_true_eq_false, Bool.true_or, Bool.not_true, Bool.false_eq_true, if_false, if_true]

end ring

/-! Where a doorbell lies. -/

section region
variable {c : Chip} {src : Src} {u off : Nat}

/-- The words of a block's doorbell region that hear 64-bit writes. -/
def Chip.inRegion (c : Chip) (src : Src) (u off : Nat) : Prop :=
  c.opens src u = true ∧ off < dbSize u ∧ off % 8 = 0 ∧ c.dbBase u % 8 = 0 ∧ c.faulty u 0 0x1044 = false

/-- A 64-bit doorbell in the region of a block that answers. -/
theorem Chip.doorbell_region (h : c.inRegion src u off) (data : DWord) :
    c.doorbell src (.region u off) 8 data = c.regionWrite src u off 8 data := by
  obtain ⟨hopens, hsize, hal, hbase, hfault⟩ := h
  obtain ⟨hclk, hsee, hpres, hbar⟩ := Chip.opens_iff.mp hopens
  have hoff : c.regionOff u (c.dbBase u + off) = some off := by
    rw [Chip.regionOff, if_pos ⟨by omega, by omega, hfault⟩]
    simp
  have herr : accessError 8 (c.dbBase u + off) = false := by
    simp [accessError]
    omega
  simp [Chip.doorbell, Chip.controlWrite, Chip.throughBar, ctlOff, hclk, hsee, hpres, hbar, herr, hoff]

/-- A 64-bit write at a ring's place in a region. -/
theorem Chip.regionWrite_ring {r : RingId} {hd : Bool} (hal : off % 8 = 0)
    (hring : regionRing u off (if src = .pf1 then 1 else 0) = some (r, hd)) (hreach : c.reaches src (c.ringOwner r) = true)
    (data : DWord) : c.regionWrite src u off 8 data =
      if hd then c.headDoorbell r data (·.dropDoorbell u) else c.ringDoorbell r data (·.dropDoorbell u) := by
  simp [Chip.regionWrite, hring, hal, hreach]

/-- A ring that the source does not reach drops a doorbell as one that is none does. -/
theorem Chip.regionWrite_bad {r : RingId} {data : DWord} (hal : off % 8 = 0)
    (hring : regionRing u off (if src = .pf1 then 1 else 0) = some (r, false)) (hbad : doorbellIndex data = none) :
    c.regionWrite src u off 8 data = c.countReg u 0 0x1014 := by
  cases hreach : c.reaches src (c.ringOwner r) with
  | true =>
    rw [Chip.regionWrite_ring hal hring hreach, if_neg Bool.false_ne_true, Chip.ringDoorbell_drops hbad]
    rfl
  | false =>
    simp [Chip.regionWrite, hring, hal, hreach]
    rfl

end region

section page
variable {c : Chip} {src : Src} {iid off : Nat} {r : RingId}

/-- Bytes of a doorbell page that has an owner. -/
def Chip.inPage (c : Chip) (iid off : Nat) : Prop := c.pwr.clocks = true ∧ (c.inst iid).st ≠ .absent ∧ off < 4096

/-- A write at a ring's slot in a doorbell page. -/
theorem Chip.doorbell_page (h : c.inPage iid off) (hslot : (c.inst iid).slot iid (off / 16) = some r) (width : Nat) (data : DWord) :
    c.doorbell src (.page iid off) width data =
      if width ≠ 8 ∨ off % 8 ≠ 0 then (c.dropDoorbell (ringUnit r)).recordErr (ringUnit r) errBadWidth (BitVec.ofNat 32 off)
      else if off % 16 = 8 then c.headDoorbell r data (·.dropDoorbell (ringUnit r))
      else c.ringDoorbell r data (·.dropDoorbell (ringUnit r)) := by
  obtain ⟨hclk, hst, hoff⟩ := h
  have hin : ¬ ((c.inst iid).st = .absent ∨ 4096 ≤ off) := by
    rintro (h | h)
    · exact hst h
    · omega
  simp only [Chip.doorbell, hclk, Bool.not_true, Bool.false_eq_true, if_false, Chip.doorbellWrite, Chip.pageWrite, if_neg hin, hslot]

end page

/-- Settles O22: a doorbell's place names its ring, and the ring moves the index or drops the doorbell. -/
theorem doorbellsMoveRingIndexes : Obligations.DoorbellsMoveRingIndexes := by
  intro s src u off iid pi r c x adm data fits reached region page hpi
  have hindex : doorbellIndex data = some pi := doorbellIndex_complements hpi
  refine ⟨?_, ?_, ?_, ?_, ?_, ?_, ?_⟩
  · intro hregion hring hreach hhears hfits
    obtain ⟨-, -, hal, -⟩ := id hregion
    refine Runs.keep (·.doorbell src (.region u off) 8 data) rfl rfl ?_
    rw [Chip.doorbell_region hregion, Chip.regionWrite_ring hal hring hreach, if_neg Bool.false_ne_true,
      Chip.ringDoorbell_moves hindex hhears hfits]
  · intro hpage hal hslot hhears hfits
    refine Runs.keep (·.doorbell src (.page iid off) 8 data) rfl rfl ?_
    rw [Chip.doorbell_page hpage hslot, if_neg (by omega), if_neg (by omega), Chip.ringDoorbell_moves hindex hhears hfits]
  · intro hregion hring hreach hreached
    obtain ⟨-, -, hal, -⟩ := id hregion
    refine Runs.keep (·.doorbell src (.region u off) 8 data) rfl rfl ?_
    rw [Chip.doorbell_region hregion, Chip.regionWrite_ring hal hring hreach, if_pos rfl, Chip.headDoorbell_moves hindex hreached]
  · intro hpage hal hslot hreached
    refine Runs.keep (·.doorbell src (.page iid off) 8 data) rfl rfl ?_
    rw [Chip.doorbell_page hpage hslot, if_neg (by omega), if_pos hal, Chip.headDoorbell_moves hindex hreached]
  · intro width hpage hwidth hslot
    refine Runs.keep (·.doorbell src (.page iid off) width data) rfl rfl ?_
    rw [Chip.doorbell_page hpage hslot, if_pos (.inl hwidth)]
    rfl
  · intro d hregion hring hbad
    obtain ⟨-, -, hal, -⟩ := id hregion
    refine Runs.keep (·.doorbell src (.region u off) 8 d) rfl rfl ?_
    rw [Chip.doorbell_region hregion, Chip.regionWrite_bad hal hring (if_neg hbad)]
  · intro d hregion hring
    refine Runs.keep (·.doorbell src (.region u off) 8 d) rfl rfl ?_
    rw [Chip.doorbell_region hregion, Chip.regionWrite, hring]
    rfl

end Sys2Proof.Machine
end

section
/-! Fetch of descriptors and completion records (R73, R78, R79): what a fetched slot leaves in its ring, what a finished descriptor
leaves, and from these the statement. -/

namespace Sys2Proof.Machine

/-! Fetch (R73). -/

/-- A ring that has taken the descriptor of one slot. -/
def Chip.takeSlot (c : Chip) (r : RingId) (d : Desc) : Chip :=
  c.modRing r fun x => { x with ci := (x.ci + 1) % 2 ^ 32, descs := x.descs ++ [d] }

/-- The slot at CI. -/
def Chip.ciSlot (c : Chip) (r : RingId) : Nat := c.ringBase r + 32 * ((c.ring r).ci % c.ringSize r)

/-- The header's index fields of a slot's bytes name the slot at an index (R73, step 1). -/
def indexGood (bs : List Byte) (ci : Nat) : Prop := bsNat bs 4 2 = ci % 65536 ∧ bsNat bs 6 2 = 65535 - ci % 65536

/-- An accepted descriptor of one slot. -/
def slotDesc (ci : Nat) (bs : List Byte) : Desc :=
  { idx := ci, bytes := bs, cmpl := bsNat bs 0 2 / 256 % 4 ≠ 0, irq := bsNat bs 0 2 / 512 % 2 = 1, slots := 1 }

/-- Opcodes 1 to 4 of Shears are defined and take one slot (R308, R309). -/
theorem opDefined_shears {e n op : Nat} (h : op ≤ 4) : opDefined (.sh e n) op = true := decide_eq_true (.inl h)

theorem descSlots_shears {e n op len : Nat} (h : op ≤ 4) : descSlots (.sh e n) op len = 1 := if_neg (by omega)

section fetch
variable {c c1 c2 : Chip} {r : RingId} {bs : List Byte}

/-- A descriptor that reads poisoned is taken with its status. -/
theorem Chip.fetchDesc_poison (hmay : c.mayFetch r = true)
    (hread : c.instRead (c.ringOwner r) (c.ciSlot r) 32 = (.ok bs true, c1)) :
    c.fetchDesc r = c1.takeSlot r { idx := (c.ring r).ci, bytes := bs, fin := some 0x0A } := by
  unfold Chip.ciSlot at hread
  simp only [Chip.fetchDesc, hmay, Bool.not_true, Bool.false_eq_true, if_false, hread, if_true]
  rfl

/-- A descriptor whose index field is wrong is taken with its status. -/
theorem Chip.fetchDesc_index (hmay : c.mayFetch r = true)
    (hread : c.instRead (c.ringOwner r) (c.ciSlot r) 32 = (.ok bs false, c1)) (hbad : ¬ indexGood bs (c.ring r).ci) :
    c.fetchDesc r = c1.takeSlot r { idx := (c.ring r).ci, bytes := bs, fin := some 0x01 } := by
  unfold Chip.ciSlot at hread
  have hwrong : bsNat bs 4 2 ≠ (c.ring r).ci % 65536 ∨ bsNat bs 6 2 ≠ 65535 - (c.ring r).ci % 65536 :=
    Decidable.not_and_iff_or_not.mp hbad
  simp only [Chip.fetchDesc, hmay, Bool.not_true, Bool.false_eq_true, if_false, hread, if_pos hwrong]
  rfl

/-- A one-slot job of Shears that every check passes is taken and waits. -/
theorem Chip.fetchDesc_shears {e n : Nat} (hr : r = .sh e n) (hmay : c.mayFetch r = true)
    (hread : c.instRead (c.ringOwner r) (c.ciSlot r) 32 = (.ok bs false, c1)) (hgood : indexGood bs (c.ring r).ci)
    (hlo : 1 ≤ bsNat bs 0 1) (hhi : bsNat bs 0 1 ≤ 4) (hacc : 1 ≤ sub32 (c.ring r).acc (c.ring r).ci)
    (hfields : shFields (slotDesc (c.ring r).ci bs) = none)
    (haddrs : c1.addrsOk (c.ringOwner r) (descAddrs r (slotDesc (c.ring r).ci bs)) = (true, c2)) :
    c.fetchDesc r = c2.takeSlot r (slotDesc (c.ring r).ci bs) := by
  subst hr
  obtain ⟨hidx, hcpl⟩ := hgood
  have hright : ¬ (bsNat bs 4 2 ≠ (c.ring (.sh e n)).ci % 65536 ∨ bsNat bs 6 2 ≠ 65535 - (c.ring (.sh e n)).ci % 65536) :=
    fun h => h.elim (· hidx) (· hcpl)
  have hroom : ¬ sub32 (c.ring (.sh e n)).acc (c.ring (.sh e n)).ci < 1 := by omega
  have hjob : bsNat bs 0 1 ≠ 0 := by omega
  unfold Chip.ciSlot at hread
  unfold slotDesc at hfields haddrs
  simp only [Chip.fetchDesc, hmay, hread, if_neg hright, Desc.opcode, Desc.fld, opDefined_shears hhi, descSlots_shears hhi,
    if_neg hroom, Nat.sub_self, Chip.readSlots, List.append_nil, Chip.badFields, hfields, haddrs, if_neg hjob, Bool.not_true,
    Bool.false_eq_true, if_false]
  rfl

end fetch

/-! Completion (R78, R79). -/

section complete
variable {c c1 : Chip} {r : RingId} {d : Desc} {st : Nat}

@[simp] theorem Chip.ring_modRing_self (c : Chip) (r : RingId) (f : Ring → Ring) : (c.modRing r f).ring r = f (c.ring r) :=
  Sparse.at_upd_self _ _ _ _

theorem Chip.countDone_rings (c : Chip) (r : RingId) (st : Nat) : (c.countDone r st).rings = c.rings := by
  cases r <;> rfl

theorem Chip.countDone_owner (c : Chip) (r : RingId) (st : Nat) (f : Ring → Ring) :
    ((c.modRing r f).countDone r st).ringOwner r = c.ringOwner r := by
  cases r <;> rfl

/-- A ring of an owner in service, with no record held back, writes those of its finished descriptors. -/
theorem Chip.recordWrite_active (hfault : c.recordFaulted r = false) (hst : (c.inst (c.ringOwner r)).st = .active)
    (hheld : (c.ring r).held = []) : c.recordWrite r = c.writeFinished r (c.ring r).descs.length := by
  have hnone : c.writeHeld r ([] : List CRec).length = c := rfl
  rw [Chip.recordWrite, hfault, if_neg Bool.false_ne_true, hst]
  simp only [Chip.writeRecords, hheld, hnone, List.isEmpty_nil, if_true]

/-- The ring's only descriptor, finished, leaves it without a record. -/
theorem Chip.writeFinished_quiet (hdescs : (c.ring r).descs = [d]) (hfin : d.fin = some 0) (hcmpl : d.cmpl = false) :
    c.writeFinished r 1 = (c.modRing r fun x => { x with descs := [] }).countDone r 0 := by
  simp only [Chip.writeFinished, hdescs, hfin, hcmpl, and_self, if_true]

/-- The ring's only descriptor, finished, leaves it with a record. -/
theorem Chip.writeFinished_record (hdescs : (c.ring r).descs = [d]) (hfin : d.fin = some st) (hrec : st ≠ 0 ∨ d.cmpl = true)
    (hok : (c.ring r).failed = false) (hroom : c.cringFull r = false) :
    c.writeFinished r 1 = ((c.modRing r fun x => { x with descs := [] }).countDone r st).putRecord r (d.record st) := by
  have hloud : ¬ (st = 0 ∧ d.cmpl = false) := by
    rintro ⟨h0, h1⟩
    simp [h0, h1] at hrec
  simp only [Chip.writeFinished, hdescs, hfin, if_neg hloud, hok, hroom, Bool.false_eq_true, if_false]

/-- A record that is written takes one place of the completion ring (R78). -/
theorem Chip.putRecord_written {x : CRec} (hirq : x.irq = false)
    (hwrite : c.instWrite (c.ringOwner r) (c.cringBase r + 16 * ((c.ring r).wi % c.cringSize r))
      (recordBytes (c.ring r).wi (c.cringSize r) x) = (true, c1)) :
    c.putRecord r x = c1.modRing r fun g => { g with wi := (g.wi + 1) % 2 ^ 32 } := by
  simp only [Chip.putRecord, hwrite, hirq, Bool.false_eq_true, if_false]

end complete

/-- Settles O23: the three fetches, and the two ways in which a finished descriptor leaves its ring. -/
theorem ringsFetchAndComplete : Obligations.RingsFetchAndComplete := by
  intro s r bs c1 c2 d st c x slot fetched good plain popped hfault
  refine ⟨?_, ?_, ?_, ?_, ?_⟩
  · intro hmay hread
    refine Runs.of (f := (·.fetchDesc r)) rfl ?_
    rw [Chip.fetchDesc_poison hmay hread]
    rfl
  · intro hmay hread hbad
    refine Runs.of (f := (·.fetchDesc r)) rfl ?_
    rw [Chip.fetchDesc_index hmay hread hbad]
    rfl
  · rintro hmay hread hgood ⟨e, n, rfl⟩ hlo hhi hacc hfields haddrs
    refine Runs.of (f := (·.fetchDesc (.sh e n))) rfl ?_
    rw [List.append_nil] at hfields haddrs ⊢
    rw [Chip.fetchDesc_shears rfl hmay hread hgood hlo hhi hacc hfields haddrs]
    rfl
  · intro hst hheld hdescs hfin hcmpl
    refine Runs.keep (·.recordWrite r) rfl ?_ ?_
    · cases r <;> rfl
    · rw [Chip.recordWrite_active hfault hst hheld, hdescs]
      exact Chip.writeFinished_quiet hdescs hfin hcmpl
  · intro hst hheld hdescs hfin hrec hirq hok hroom hrings hwrite
    have hring : popped.ring r = { x with descs := [] } := by
      rw [Chip.ring, Chip.countDone_rings]
      exact Chip.ring_modRing_self c r _
    have hput : popped.putRecord r (d.record st) = c1.modRing r fun g => { g with wi := (g.wi + 1) % 2 ^ 32 } := by
      refine Chip.putRecord_written hirq ?_
      rw [hring, Chip.countDone_owner]
      exact hwrite
    have hwritten : c.recordWrite r = c1.modRing r fun g => { g with wi := (g.wi + 1) % 2 ^ 32 } := by
      rw [Chip.recordWrite_active hfault hst hheld, hdescs]
      exact (Chip.writeFinished_record hdescs hfin hrec hok hroom).trans hput
    refine RunsTo.of_fuseless (·.recordWrite r) rfl ?_ (fun _ _ hd => hd)
    rw [hwritten]
    refine ⟨?_, rfl⟩
    rw [Chip.ring_modRing_self, Chip.ring, hrings]
    exact congrArg (fun g : Ring => { g with wi := (g.wi + 1) % 2 ^ 32 }) hring

end Sys2Proof.Machine
end

section
/-! Harts but for their counts: the relation that `OnlyHart` compares harts by, which changes of a hart keep it, and how a command
of a ready hart runs. -/

namespace Sys2Proof.Machine

/-! Two tables. -/

theorem Sparse.put_put {α : Type} (m : Sparse α) (n : Nat) (v w : α) : Sparse.put (Sparse.put m n v) n w = Sparse.put m n w := by
  induction m with
  | nil => simp [Sparse.put]
  | cons e t ih =>
    obtain ⟨k, u⟩ := e
    rcases Nat.lt_trichotomy n k with h | h | h
    · simp [Sparse.put, h]
    · simp [Sparse.put, h]
    · simp [Sparse.put, Nat.not_lt_of_gt h, (Nat.ne_of_lt h).symm, ih]

/-- Two changes of one hart are one. -/
theorem Chip.modHart_modHart (c : Chip) (n : Nat) (f g : Hart → Hart) :
    (c.modHart n f).modHart n g = c.modHart n fun h => g (f h) := by
  simp only [Chip.modHart, Sparse.upd, Sparse.at_put_self, Sparse.put_put]

/-! Harts that agree. -/

/-- Two harts that differ in their counts, in the time of their last instruction and in the occupancies that their counters saw
last, and in nothing else. -/
def Hart.agrees (g h : Hart) : Prop := g.body = h.body ∧ g.pc = h.pc ∧ ∀ k, countCsr k = false → g.csr k = h.csr k

theorem Hart.agrees.refl (h : Hart) : h.agrees h := ⟨rfl, rfl, fun _ _ => rfl⟩

theorem Hart.agrees.trans {a b c : Hart} (h : a.agrees b) (g : b.agrees c) : a.agrees c :=
  ⟨h.1.trans g.1, h.2.1.trans g.2.1, fun k hk => (h.2.2 k hk).trans (g.2.2 k hk)⟩

theorem Hart.counts.agrees {g h : Hart} (e : h.counts g) : g.agrees h := ⟨e.1, e.2.1, e.2.2.2⟩

/-- Occurrences of an event are counts (R447). -/
theorem Hart.event_agrees (h : Hart) (code um : Nat) : (h.event code um).agrees h := (h.event_counts code um 1).agrees

namespace Hart.agrees

variable {g h : Hart} (e : g.agrees h)
include e

theorem pc : g.pc = h.pc := e.2.1

/-- A CSR that counts nothing is the same. -/
theorem csr {k : Nat} (hk : countCsr k = false) : g.csr k = h.csr k := e.2.2 k hk

/-- A change of what neither counts nor is a CSR keeps harts agreeing. -/
theorem update (f : Hart → Hart) (hbody : ∀ a, (f a).body = (f a.body).body := by intro _; rfl)
    (hpc : ∀ a b : Hart, a.pc = b.pc → (f a).pc = (f b).pc := by intro _ _ hab; exact hab)
    (hcsrs : ∀ a, (f a).csrs = a.csrs := by intro _; rfl) : (f g).agrees (f h) := by
  refine ⟨?_, hpc _ _ e.2.1, fun k hk => ?_⟩
  · rw [hbody g, hbody h, e.1]
  · have hcsr (a : Hart) : (f a).csr k = a.csr k := congrArg (fun m => (Sparse.find m k).getD (csrReset k)) (hcsrs a)
    rw [hcsr, hcsr, e.2.2 k hk]

theorem setCsr (n : Nat) (v : DWord) : (g.setCsr n v).agrees (h.setCsr n v) := by
  refine ⟨e.1, e.2.1, fun k hk => ?_⟩
  rw [Hart.csr_setCsr, Hart.csr_setCsr, e.2.2 k hk]

theorem setX (r : Nat) (v : DWord) : (g.setX r v).agrees (h.setX r v) := by
  refine e.update (·.setX r v) (fun a => ?_) (fun a b hab => ?_) fun a => ?_
  · unfold Hart.setX; split <;> rfl
  · rw [Hart.setX_pc, Hart.setX_pc, hab]
  · unfold Hart.setX; split <;> rfl

theorem event (code um : Nat) : (g.event code um).agrees h := (Hart.event_agrees g code um).trans e

theorem csrFld {k : Nat} (hk : countCsr k = false) (hi lo : Nat) : g.csrFld k hi lo = h.csrFld k hi lo :=
  congrArg (fld · hi lo) (e.2.2 k hk)

/-- Every field but the pc, the CSRs and what counts is the same. -/
theorem field {α : Type} (p : Hart → α) (hp : ∀ a : Hart, p a.body = p a := by intro _; rfl) : p g = p h :=
  (hp g).symm.trans ((congrArg p e.1).trans (hp h))

end Hart.agrees

/-! The device but for one hart. -/

theorem OnlyHart.refl (c : Chip) (n : Nat) : OnlyHart c c n (c.hart n) := ⟨rfl, fun _ _ => rfl, Hart.agrees.refl _⟩

namespace OnlyHart

variable {c d : Chip} {n : Nat} {x : Hart} (e : OnlyHart c d n x)
include e

theorem agrees : (d.hart n).agrees x := e.2.2

/-- A further change of the hart. -/
theorem modHart {f : Hart → Hart} {y : Hart} (h : (f (d.hart n)).agrees y) : OnlyHart c (d.modHart n f) n y := by
  refine ⟨e.1, fun k hk => (Chip.modHart_ne hk d f).trans (e.2.1 k hk), ?_⟩
  rw [Chip.modHart_self]
  exact h

/-- The hart retires an instruction (R92). -/
theorem retire (len lat uops : Nat) : OnlyHart c (d.retire n len lat uops) n { x with pc := x.pc + BitVec.ofNat 64 len } := by
  refine ⟨e.1, fun k hk => (Chip.retire_ne hk d len lat uops).trans (e.2.1 k hk), ?_⟩
  obtain ⟨hbody, hpc, -, hcsr⟩ := Chip.retire_counts d n len lat uops
  obtain ⟨hb, hp, hk⟩ := e.agrees
  exact ⟨hbody.trans hb, hpc.trans (congrArg (· + BitVec.ofNat 64 len) hp), fun k h => (hcsr k h).trans (hk k h)⟩

/-- An instruction that sets the pc by itself retires. -/
theorem retire_zero (lat uops : Nat) : OnlyHart c (d.retire n 0 lat uops) n x := by
  have hret := e.retire 0 lat uops
  rwa [show x.pc + BitVec.ofNat 64 0 = x.pc from BitVec.add_zero _] at hret

/-- A further change of what neither counts nor is a CSR. -/
theorem update (f : Hart → Hart) (hbody : ∀ a, (f a).body = (f a.body).body := by intro _; rfl)
    (hpc : ∀ a b : Hart, a.pc = b.pc → (f a).pc = (f b).pc := by intro _ _ hab; exact hab)
    (hcsrs : ∀ a, (f a).csrs = a.csrs := by intro _; rfl) : OnlyHart c (d.modHart n f) n (f x) :=
  e.modHart (e.agrees.update f hbody hpc hcsrs)

end OnlyHart

/-- What retiring an instruction leaves of its hart (R92). -/
theorem Chip.retire_agrees (c : Chip) (n len lat uops : Nat) :
    ((c.retire n len lat uops).hart n).agrees { c.hart n with pc := (c.hart n).pc + BitVec.ofNat 64 len } :=
  ((OnlyHart.refl c n).retire len lat uops).agrees

/-- A change of the hart that agrees with `y`, then the retirement of its instruction. -/
theorem OnlyHart.modHart_retire {c : Chip} {n : Nat} {f : Hart → Hart} {y : Hart} (h : (f (c.hart n)).agrees y)
    (len lat uops : Nat) : OnlyHart c ((c.modHart n f).retire n len lat uops) n { y with pc := y.pc + BitVec.ofNat 64 len } :=
  ((OnlyHart.refl c n).modHart h).retire len lat uops

/-! Commands of a ready hart. -/

section ready

variable {i : Instr} {s : State} {n : Nat} {ahead : Bool} (f : Chip → Chip) (hr : s.chip.ready n = true)
  (he : exec i s = onParts (partsOf i) s fun c => c.traced n f ahead)
include hr he

theorem Runs.of_ready {c : Chip} (hk : c.fuse = s.chip.fuse) (hf : f s.chip = c) : Runs i s c :=
  Runs.keep _ he hk (by rw [Chip.traced_ready hr, hf])

theorem RunsTo.of_ready {P : Chip → Prop} (hk : (f s.chip).fuse = s.chip.fuse) (hf : P (f s.chip)) : RunsTo i s P := by
  refine RunsTo.keep _ he ?_ ?_ <;> rw [Chip.traced_ready hr] <;> assumption

/-- The same, where what is said does not depend on the fuses. -/
theorem RunsTo.of_ready_fuseless {P : Chip → Prop} (hf : P (f s.chip)) (hfuse : ∀ d g, P d → P (d.withFuse g)) :
    RunsTo i s P := by
  refine RunsTo.of_fuseless _ he ?_ hfuse
  rw [Chip.traced_ready hr]
  exact hf

theorem RunsTo.hart_of_ready {x : Hart} (h : OnlyHart s.chip (f s.chip) n x) : RunsTo i s fun c => OnlyHart s.chip c n x :=
  RunsTo.of_ready f hr he h.fuse h

end ready

/-- A ready hart holds no load back. -/
theorem Chip.ready_held {c : Chip} {n : Nat} (h : c.ready n = true) : (c.hart n).held = none := by
  obtain ⟨-, -, hheld, -⟩ := Chip.ready_core h
  exact hheld

/-- A ready hart has performed no load early. -/
theorem Chip.ready_early {c : Chip} {n : Nat} (h : c.ready n = true) : (c.hart n).early = [] := by
  obtain ⟨-, -, -, hearly, -⟩ := Chip.ready_core h
  exact hearly

theorem Chip.ready_liveCore {c : Chip} {n : Nat} (h : c.ready n = true) : ∃ k, c.liveCore n = some k := by
  obtain ⟨k, hcore, -⟩ := Chip.ready_core h
  exact ⟨k, hcore⟩

/-- A hart that executes instructions runs on the core that HART_VALID names. -/
theorem Chip.liveCore_iff {c : Chip} {n k : Nat} : c.liveCore n = some k ↔ (c.hart n).live = true ∧ c.coreOfHart n = some k := by
  unfold Chip.liveCore
  split <;> simp [*]

/-- With no load performed early there is none to discard. -/
theorem Hart.dropEarly_of_nil {h : Hart} (he : h.early = []) : h.dropEarly = h := by
  rw [Hart.dropEarly, ← he]

/-- With no load performed early a store overlaps none. -/
theorem Hart.violated_of_nil {h : Hart} (he : h.early = []) (l : List (Nat × Nat)) : h.violated l = h := by
  rw [Hart.violated, he]
  rfl

end Sys2Proof.Machine
end

section
/-! Control transfers (R97, R99, R100, R450): what a jump and a branch leave of their hart. -/

namespace Sys2Proof.Machine

/-- Training changes prediction state, and records the transfer (R97, R99). -/
theorem Hart.train_eq (h : Hart) (cf : CfKind) (taken ret : Bool) (target : DWord) (link : Option DWord) :
    ∃ p, h.train cf taken ret target link = { h with pred := p, cf := some cf } := by
  unfold Hart.train
  extract_lets g
  split <;> exact ⟨_, rfl⟩

theorem Hart.setX_with_pred (h : Hart) (r : Nat) (v : DWord) (p : Pred) (cf : Option CfKind) :
    ({ h with pred := p, cf := cf } : Hart).setX r v = { h.setX r v with pred := p, cf := cf } := by
  unfold Hart.setX
  split <;> rfl

/-- A jump writes its link and moves the pc to its target. -/
theorem Chip.jump_only (c : Chip) (n rd len : Nat) (target : DWord) (um : Nat) (cf : CfKind) (call ret : Bool) :
    ∃ p : Pred, OnlyHart c (c.jump n rd len target um cf call ret) n
      { (c.hart n).setX rd ((c.hart n).pc + BitVec.ofNat 64 len) with pc := target, pred := p, cf := some cf } := by
  obtain ⟨p, htrain⟩ := (c.hart n).train_eq cf true ret target (if call then some ((c.hart n).pc + BitVec.ofNat 64 len) else none)
  have hlink := ((Hart.event_agrees { c.hart n with pred := p, cf := some cf } 0x101 um).setX rd
    ((c.hart n).pc + BitVec.ofNat 64 len)).update ({ · with pc := target }) (hpc := fun _ _ _ => rfl)
  rw [Hart.setX_with_pred (c.hart n)] at hlink
  refine ⟨p, ((OnlyHart.refl c n).modHart ?_).retire_zero 1 1⟩
  dsimp only
  rw [htrain]
  exact hlink

/-- A branch moves the pc to its target when it is taken, and past itself when it is not. -/
theorem Chip.branch_only (c : Chip) (n len : Nat) (taken : Bool) (target : DWord) :
    let d := c.modHart n fun h => (h.train (.branch taken) taken false target none).event 0x101 1
    ∃ p : Pred, OnlyHart c (if taken then (d.modHart n fun h => { h with pc := target }).retire n 0 1 else d.retire n len 1) n
      { c.hart n with pc := if taken then target else (c.hart n).pc + BitVec.ofNat 64 len, pred := p, cf := some (.branch taken) } := by
  intro d
  obtain ⟨p, htrain⟩ := (c.hart n).train_eq (.branch taken) taken false target none
  have hd : OnlyHart c d n { c.hart n with pred := p, cf := some (.branch taken) } :=
    (OnlyHart.refl c n).modHart (htrain ▸ Hart.event_agrees _ 0x101 1)
  cases taken with
  | false => exact ⟨p, hd.retire len 1 1⟩
  | true => exact ⟨p, (hd.update ({ · with pc := target }) (hpc := fun _ _ _ => rfl)).retire_zero 1 1⟩

section transfer

variable {c : Chip} {n : Nat} (hr : c.ready n = true)
include hr

theorem Chip.instruction_jal (rd len : Nat) (off : Int) :
    c.instruction n (.jal rd off) len = c.jump n rd len ((c.hart n).pc + BitVec.ofInt 64 off) 2 .jal (isLink rd) false := by
  obtain ⟨k, hcore, hheld, -⟩ := Chip.ready_core hr
  simp only [Chip.instruction, hcore, hheld, Option.isSome_none, Bool.false_eq_true, if_false]

theorem Chip.instruction_jalr (rd rs1 len : Nat) (off : Int) :
    c.instruction n (.jalr rd rs1 off) len = c.jump n rd len (((c.hart n).getX rs1 + BitVec.ofInt 64 off) &&& ~~~1#64)
      (if isLink rs1 && !isLink rd then 8 else 4) .jalr (isLink rd) (isLink rs1 && !isLink rd) := by
  obtain ⟨k, hcore, hheld, -⟩ := Chip.ready_core hr
  simp only [Chip.instruction, hcore, hheld, Option.isSome_none, Bool.false_eq_true, if_false]

theorem Chip.instruction_branch (f : BrFn) (rs1 rs2 len : Nat) (off : Int) :
    let taken := brTaken f ((c.hart n).getX rs1) ((c.hart n).getX rs2)
    let target := (c.hart n).pc + BitVec.ofInt 64 off
    let d := c.modHart n fun h => (h.train (.branch taken) taken false target none).event 0x101 1
    c.instruction n (.branch f rs1 rs2 off) len =
      if taken then (d.modHart n fun h => { h with pc := target }).retire n 0 1 else d.retire n len 1 := by
  obtain ⟨k, hcore, hheld, -⟩ := Chip.ready_core hr
  simp only [Chip.instruction, hcore, hheld, Option.isSome_none, Bool.false_eq_true, if_false]

end transfer

/-- Settles O2, by the two ways in which an instruction transfers control. -/
theorem controlTransfersMoveThePc : Obligations.ControlTransfersMoveThePc := by
  intro s n len rd rs1 rs2 off h link fin hready
  have hruns : ∀ {op : HartOp} {x : Hart} {cf : CfKind}, aheadOp op = false →
      (∃ p : Pred, OnlyHart s.chip (s.chip.instruction n op len) n { x with pred := p, cf := some cf }) →
      RunsTo (.instruction n op len) s (fin x cf) := fun _ ⟨p, hp⟩ =>
    RunsTo.of_ready (·.instruction n _ len) hready rfl hp.fuse ⟨p, hp⟩
  refine ⟨hruns rfl ?_, hruns rfl ?_, fun f => hruns rfl ?_⟩
  · rw [Chip.instruction_jal hready]
    exact s.chip.jump_only n rd len _ 2 .jal (isLink rd) false
  · rw [Chip.instruction_jalr hready]
    exact s.chip.jump_only n rd len _ _ .jalr (isLink rd) _
  · rw [Chip.instruction_branch hready]
    exact s.chip.branch_only n len _ _

end Sys2Proof.Machine
end

section
/-! Molenaide reductions (R84-R87, R101): the exception of the first check that fails, and the entries that a reduction leaves in
the store buffer. -/

namespace Sys2Proof.Machine

/-- The entry of a reduction in the store buffer (R87): its register's bytes, in a mode. -/
def redEntry (op : MolOp) (pa : Nat) (bytes : List Byte) (pair : Bool) (mode : RedMode) (red : RedKind) : SbEnt :=
  { kind := .red, pa := pa, bytes := bytes, pair := pair, mode := mode, red := red, wrong := op.wrong }

/-- Entries marked where their instruction is on a wrong path (R101). -/
def markedBy (op : MolOp) (l : List SbEnt) : List SbEnt := l.map fun e => { e with wrong := op.wrong }

/-- A hart with entries at the end of its store buffer. -/
def Hart.enterSb (h : Hart) (l : List SbEnt) : Hart := { h with sb := h.sb ++ l }

/-- The 32 bytes of a vector register. -/
def Hart.halfLine (h : Hart) (r : Nat) : List Byte := leBytes (h.getV r).toNat 32

/-- A misaligned address, after the checks of the operands (R86). -/
theorem Chip.molSend_misaligned {c : Chip} {n : Nat} {op : MolOp} (hw : op.wrong = false)
    (hva : (c.hart n).addr op.rs1 0 % 64 ≠ 0) (es : Nat → List SbEnt) (um : Nat) :
    c.molSend n op es um = c.raise n 6 (BitVec.ofNat 64 ((c.hart n).addr op.rs1 0)) := by
  simp only [Chip.molSend, if_pos hva, hw, Bool.false_eq_true, if_false, xStoreMis]

section reduction

variable {c : Chip} {n : Nat} {op : MolOp} (hr : c.ready n = true)
include hr

/-- Entries that fit in the store buffer enter it, and the instruction retires but on a wrong path (R87, R101). -/
theorem Chip.molSend_enters {pa : Nat} (hva : (c.hart n).addr op.rs1 0 % 64 = 0)
    (htr : c.translate n ((c.hart n).addr op.rs1 0) .store = .ok pa .pma) (hmem : c.region pa = .memory)
    {es : Nat → List SbEnt} (hroom : (c.hart n).sb.length + (es pa).length ≤ 96) (um : Nat) :
    OnlyHart c (c.molSend n op es um) n { c.hart n with
      sb := (c.hart n).sb ++ markedBy op (es pa)
      pc := if op.wrong then (c.hart n).pc else (c.hart n).pc + 4 } := by
  have hfits : (c.hart n).sbRoom (markedBy op (es pa)).length = true := by
    rw [markedBy, List.length_map]
    exact decide_eq_true hroom
  have hsend : c.molSend n op es um =
      if op.wrong then c.modHart n (·.enterSb (markedBy op (es pa)))
      else (c.modHart n fun h => (((h.enterSb (markedBy op (es pa))).violated [(pa, 64)]).event 0x202 4).event 0x601 um).retire n 4 1
        (markedBy op (es pa)).length := by
    rw [markedBy] at hfits ⊢
    simp only [Chip.molSend, hva, htr, hmem, hfits, Chip.ready_held hr, ne_eq, not_true_eq_false, or_self, if_false,
      Option.isSome_none, Bool.not_true, Bool.or_self, Bool.false_eq_true, Hart.enterSb]
  have henter : ((c.hart n).enterSb (markedBy op (es pa))).agrees ((c.hart n).enterSb (markedBy op (es pa))) := Hart.agrees.refl _
  rw [hsend]
  cases hw : op.wrong with
  | true => exact (OnlyHart.refl c n).modHart henter
  | false =>
    refine OnlyHart.modHart_retire (y := (c.hart n).enterSb (markedBy op (es pa))) ?_ 4 1 _
    rw [Hart.violated_of_nil (h := (c.hart n).enterSb _) (Chip.ready_early hr)]
    exact (henter.event 0x202 4).event 0x601 um

/-- An operation that has no such element type is illegal (R85). -/
theorem Chip.molReduce_undefined {fn : Nat} {ty : RedTy} (hw : op.wrong = false) (hmode : molMode fn ty = none) (um : Nat) :
    c.molReduce n fn ty op um = c.raise n 2 ((molWord fn (redTyCode ty) op).setWidth 64) := by
  obtain ⟨k, hcore⟩ := Chip.ready_liveCore hr
  simp only [Chip.molReduce, hcore, hmode, hw, Bool.false_eq_true, if_false, Chip.illegal, Chip.insBits, xIllegal]

/-- A reduction of a register pair whose operands or whose vector state forbid it is illegal (R86). -/
theorem Chip.molReduce_illegal {fn : Nat} {ty : RedTy} {mode : RedMode} (hw : op.wrong = false)
    (hmode : molMode fn ty = some (mode, .contrib))
    (hbad : op.rd ≠ 0 ∨ op.vs2 % 2 = 1 ∨ (c.hart n).vsOn = false ∨ (c.hart n).vstart ≠ 0) (um : Nat) :
    c.molReduce n fn ty op um = c.raise n 2 ((molWord fn (redTyCode ty) op).setWidth 64) := by
  obtain ⟨k, hcore⟩ := Chip.ready_liveCore hr
  simp only [Chip.molReduce, hcore, hmode, hw, Bool.false_eq_true, if_false, Chip.illegal, Chip.insBits, xIllegal, decide_true,
    true_and]
  by_cases hop : op.rd ≠ 0 ∨ op.vs2 % 2 = 1
  · rw [if_pos hop]
  · have hvec : (!(c.hart n).vsOn || decide ((c.hart n).vstart ≠ 0)) = true := by
      rcases hbad with h | h | h | h
      · exact absurd (.inl h) hop
      · exact absurd (.inr h) hop
      · simp [h]
      · simp [h]
    rw [if_neg hop, if_pos hvec]

/-- A reduction whose operand checks pass sends the two halves of its pair. -/
theorem Chip.molReduce_pair {fn : Nat} {ty : RedTy} {mode : RedMode} (hrd : op.rd = 0) (hvs : (c.hart n).vsOn = true)
    (hstart : (c.hart n).vstart = 0) (hmode : molMode fn ty = some (mode, .contrib)) (heven : op.vs2 % 2 = 0) (um : Nat) :
    c.molReduce n fn ty op um = c.molSend n op (fun pa =>
      [{ kind := .red, pa := pa, bytes := (c.hart n).halfLine op.vs2, pair := true, mode := mode, red := .contrib },
       { kind := .red, pa := pa, bytes := (c.hart n).halfLine (op.vs2 + 1), pair := false, mode := mode, red := .contrib }]) um := by
  obtain ⟨k, hcore⟩ := Chip.ready_liveCore hr
  simp [Chip.molReduce, hcore, hmode, hrd, hvs, hstart, heven, Hart.halfLine]

/-- A reduction of 16-bit elements sends one register. -/
theorem Chip.molReduce_half {fn : Nat} {ty : RedTy} {mode : RedMode} {red : RedKind} (hrd : op.rd = 0)
    (hvs : (c.hart n).vsOn = true) (hstart : (c.hart n).vstart = 0) (hmode : molMode fn ty = some (mode, red))
    (hred : red ≠ .contrib) (um : Nat) :
    c.molReduce n fn ty op um = c.molSend n op (fun pa =>
      [{ kind := .red, pa := pa, bytes := (c.hart n).halfLine op.vs2, pair := false, mode := mode, red := red }]) um := by
  obtain ⟨k, hcore⟩ := Chip.ready_liveCore hr
  simp [Chip.molReduce, hcore, hmode, hrd, hvs, hstart, hred, Hart.halfLine]

theorem Chip.molClose_illegal (hw : op.wrong = false) (hbad : op.rd ≠ 0 ∨ op.vs2 ≠ 0) :
    c.molClose n op = c.raise n 2 ((molWord 3 0 op).setWidth 64) := by
  obtain ⟨k, hcore⟩ := Chip.ready_liveCore hr
  simp only [Chip.molClose, hcore, if_pos hbad, hw, Bool.false_eq_true, if_false, Chip.illegal, Chip.insBits, xIllegal]

theorem Chip.molClose_sends (hrd : op.rd = 0) (hvs2 : op.vs2 = 0) :
    c.molClose n op = c.molSend n op (fun pa => [{ kind := .red, pa := pa, bytes := [], red := .close }]) 4 := by
  obtain ⟨k, hcore⟩ := Chip.ready_liveCore hr
  simp [Chip.molClose, hcore, hrd, hvs2]

/-- What a reduction of a register pair that passes every check leaves: the entries of its two registers. -/
theorem Chip.molReduce_pair_only {pa fn : Nat} {ty : RedTy} {mode : RedMode} (hrd : op.rd = 0) (hvs : (c.hart n).vsOn = true)
    (hstart : (c.hart n).vstart = 0) (hva : (c.hart n).addr op.rs1 0 % 64 = 0)
    (htr : c.translate n ((c.hart n).addr op.rs1 0) .store = .ok pa .pma) (hmem : c.region pa = .memory)
    (hroom : (c.hart n).sb.length ≤ 94) (heven : op.vs2 % 2 = 0) (hmode : molMode fn ty = some (mode, .contrib)) (um : Nat) :
    OnlyHart c (c.molReduce n fn ty op um) n { c.hart n with
      sb := (c.hart n).sb ++ [redEntry op pa ((c.hart n).halfLine op.vs2) true mode .contrib,
        redEntry op pa ((c.hart n).halfLine (op.vs2 + 1)) false mode .contrib]
      pc := if op.wrong then (c.hart n).pc else (c.hart n).pc + 4 } := by
  rw [Chip.molReduce_pair hr hrd hvs hstart hmode heven]
  exact Chip.molSend_enters (es := fun _ => [_, _]) hr hva htr hmem (Nat.add_le_add_right hroom 2) um

theorem Chip.molReduce_half_only {pa fn : Nat} {ty : RedTy} {mode : RedMode} {red : RedKind} (hrd : op.rd = 0)
    (hvs : (c.hart n).vsOn = true) (hstart : (c.hart n).vstart = 0) (hva : (c.hart n).addr op.rs1 0 % 64 = 0)
    (htr : c.translate n ((c.hart n).addr op.rs1 0) .store = .ok pa .pma) (hmem : c.region pa = .memory)
    (hroom : (c.hart n).sb.length ≤ 94) (hmode : molMode fn ty = some (mode, red)) (hred : red ≠ .contrib) (um : Nat) :
    OnlyHart c (c.molReduce n fn ty op um) n { c.hart n with
      sb := (c.hart n).sb ++ [redEntry op pa ((c.hart n).halfLine op.vs2) false mode red]
      pc := if op.wrong then (c.hart n).pc else (c.hart n).pc + 4 } := by
  rw [Chip.molReduce_half hr hrd hvs hstart hmode hred]
  exact Chip.molSend_enters (es := fun _ => [_]) hr hva htr hmem (Nat.add_le_add_right (hroom.trans (by decide : 94 ≤ 95)) 1) um

end reduction

/-- Settles O6: the exceptions in the order of the checks, then the entries of a pair, of a half and of a close. -/
theorem reductionsCheckAndEnterStoreBuffer : Obligations.ReductionsCheckAndEnterStoreBuffer := by
  refine ⟨fun s n op => ?_, fun s n op pa => ?_⟩
  · intro h va trap bad hready hw
    refine ⟨fun hbad => ⟨?_, ?_, ?_⟩, fun hbad => ?_, fun hrd hva => ⟨fun heven hvs hstart => ?_, fun hvs2 => ?_⟩,
      fun ty hty => ⟨?_, ?_⟩⟩
    · exact Runs.of_ready (·.molReduce n 0 .d op 1) hready rfl rfl (Chip.molReduce_illegal hready hw rfl hbad 1)
    · exact Runs.of_ready (·.molReduce n 1 .s op 2) hready rfl rfl (Chip.molReduce_illegal hready hw rfl hbad 2)
    · exact Runs.of_ready (·.molReduce n 2 .l op 2) hready rfl rfl (Chip.molReduce_illegal hready hw rfl hbad 2)
    · exact Runs.of_ready (·.molClose n op) hready rfl rfl (Chip.molClose_illegal hready hw hbad)
    · refine Runs.of_ready (·.molReduce n 0 .s op 1) hready rfl rfl ?_
      rw [Chip.molReduce_pair hready hrd hvs hstart rfl heven]
      exact Chip.molSend_misaligned hw hva _ 1
    · refine Runs.of_ready (·.molClose n op) hready rfl rfl ?_
      rw [Chip.molClose_sends hready hrd hvs2]
      exact Chip.molSend_misaligned hw hva _ 4
    · refine Runs.of_ready (·.molReduce n 1 ty op 2) hready rfl rfl (Chip.molReduce_undefined hready hw ?_ 2)
      rcases hty with rfl | rfl <;> rfl
    · refine Runs.of_ready (·.molReduce n 2 ty op 2) hready rfl rfl (Chip.molReduce_undefined hready hw ?_ 2)
      rcases hty with rfl | rfl <;> rfl
  · intro h va half ent fin two hready hrd hva htr hmem hroom
    refine ⟨fun hvs hstart heven => ?_, fun hvs hstart => ?_, fun hvs2 => ?_⟩
    · have hpair {fn : Nat} {ty : RedTy} {mode : RedMode} (hmode : molMode fn ty = some (mode, .contrib)) (um : Nat) :
          fin (two mode) (s.chip.molReduce n fn ty op um) :=
        Chip.molReduce_pair_only hready hrd hvs hstart hva htr hmem hroom heven hmode um
      exact ⟨RunsTo.hart_of_ready (·.molReduce n 0 .d op 1) hready rfl (hpair rfl 1),
        RunsTo.hart_of_ready (·.molReduce n 0 .s op 1) hready rfl (hpair rfl 1),
        RunsTo.hart_of_ready (·.molReduce n 0 .l op 1) hready rfl (hpair rfl 1),
        RunsTo.hart_of_ready (·.molReduce n 1 .d op 2) hready rfl (hpair rfl 2),
        RunsTo.hart_of_ready (·.molReduce n 1 .s op 2) hready rfl (hpair rfl 2),
        RunsTo.hart_of_ready (·.molReduce n 1 .l op 2) hready rfl (hpair rfl 2),
        RunsTo.hart_of_ready (·.molReduce n 2 .d op 2) hready rfl (hpair rfl 2),
        RunsTo.hart_of_ready (·.molReduce n 2 .s op 2) hready rfl (hpair rfl 2),
        RunsTo.hart_of_ready (·.molReduce n 2 .l op 2) hready rfl (hpair rfl 2)⟩
    · exact ⟨RunsTo.hart_of_ready (·.molReduce n 0 .h op 1) hready rfl
          (Chip.molReduce_half_only hready hrd hvs hstart hva htr hmem hroom rfl (by decide) 1),
        RunsTo.hart_of_ready (·.molReduce n 0 .bf op 1) hready rfl
          (Chip.molReduce_half_only hready hrd hvs hstart hva htr hmem hroom rfl (by decide) 1)⟩
    · refine RunsTo.hart_of_ready (·.molClose n op) hready rfl ?_
      rw [Chip.molClose_sends hready hrd hvs2]
      exact Chip.molSend_enters (es := fun _ => [_]) hready hva htr hmem (Nat.add_le_add_right (hroom.trans (by decide : 94 ≤ 95)) 1) 4

end Sys2Proof.Machine
end

section
/-! CSR writes of a hart (R88-R91, R96, R98, R446, R447, R454-R456): what an instruction that writes a CSR in M-mode comes to, and
what each of the core's own CSRs stores. -/

namespace Sys2Proof.Machine

/-! Fields of one bit. -/

theorem fld_single {w : Nat} (x : BitVec w) (i : Nat) : fld x i i = (x.getLsbD i).toNat := by
  rw [BitVec.getLsbD, Nat.toNat_testBit, fld, show i + 1 - i = 1 by omega, pow_one]

theorem fld_single_eq_one {w : Nat} {x : BitVec w} {i : Nat} : fld x i i = 1 ↔ x.getLsbD i = true := by
  rw [fld_single]
  cases x.getLsbD i <;> decide

/-! A CSR instruction in M-mode. -/

/-- A CSR that M-mode writes as storage, whatever the state of the hart. -/
def plainCsr (k : Nat) : Bool :=
  csrExists k && decide (k / 1024 % 4 ≠ 3) && !([0x001, 0x002, 0x003, 0x008, 0x009, 0x00A, 0x00F, 0x015, 0x151, 0x15C, 0x251, 0x25C,
    0x351, 0x35C, 0x5C3].contains k)

theorem Hart.csrAccess_machine {h : Hart} {k : Nat} (hm : h.priv = .m) (hv : h.virt = false) (hk : plainCsr k = true) :
    h.csrAccess k true = .ok 0 := by
  simp only [plainCsr, Bool.and_eq_true, decide_eq_true_eq, Bool.not_eq_true', List.contains_eq_mem, decide_eq_false_iff_not,
    List.mem_cons, List.not_mem_nil, or_false, not_or] at hk
  obtain ⟨⟨hexists, hwritable⟩, hkind⟩ := hk
  have hcounter : ¬ (0xC00 ≤ k ∧ k ≤ 0xC1F) := by omega
  have hvector : ¬ (k = 0xC20 ∨ k = 0xC21 ∨ k = 0xC22) := by omega
  simp [Hart.csrAccess, Hart.stateenOk, hm, hv, hexists, hwritable, hkind, hcounter, hvector]
  intros
  split <;> rfl

theorem Hart.filePage_plain {h : Hart} {k : Nat} (hk : plainCsr k = true) : h.filePage k = none := by
  simp only [plainCsr, Bool.and_eq_true, Bool.not_eq_true', List.contains_eq_mem, decide_eq_false_iff_not, List.mem_cons,
    List.not_mem_nil, or_false, not_or] at hk
  simp [Hart.filePage, hk]

theorem Hart.readCsr_plain (h : Hart) {k : Nat} (hk : plainCsr k = true) : h.readCsr k = h := by
  have hdrops : k ≠ cTsdrops := by rintro rfl; exact absurd hk (by decide)
  exact if_neg hdrops

/-- A write of a CSR in M-mode returns its value, and writes its storage. -/
theorem Chip.csrOp_machine {c : Chip} {n k : Nat} (hm : (c.hart n).priv = .m) (hv : (c.hart n).virt = false)
    (hk : plainCsr k = true) (f : DWord → DWord) :
    c.csrOp n k true f = (.ok (c.csrValue n k), c.modHart n (·.writeCsr k (f (c.csrValue n k)))) := by
  have hseed : k ≠ 0x015 := by rintro rfl; exact absurd hk (by decide)
  have hread : (fun x : Hart => x.readCsr k) = fun x => x := funext fun x => x.readCsr_plain hk
  simp only [Chip.csrOp, Hart.csrAccess_machine hm hv hk, hv, Bool.false_eq_true, if_false, if_neg hseed, Hart.filePage_plain hk, if_true,
    hread, Chip.modHart_modHart]

/-- Younger instructions are fetched again after a serialising instruction (R96). -/
def Hart.serialised (h : Hart) : Hart := { h.dropEarly with refetch := true }

theorem Hart.serialised_of_nil {h : Hart} (he : h.early = []) : h.serialised = { h with refetch := true } := by
  rw [Hart.serialised, Hart.dropEarly_of_nil he]

theorem Hart.agrees.serialised {g h : Hart} (e : g.agrees h) (he : h.early = []) :
    g.serialised.agrees { h with refetch := true } :=
  Hart.serialised_of_nil he ▸ e.update Hart.serialised

section write

variable {c : Chip} {n k : Nat} (hr : c.ready n = true)
include hr

/-- A write that serialises waits for the store buffer (R96). -/
theorem Chip.csrIns_waits (hsb : (c.hart n).sbEmpty = false) (hk : serialCsr k = true) (f : DWord → DWord) :
    c.csrIns n k 0 true f 4 = c := by
  obtain ⟨core, hcore⟩ := Chip.ready_liveCore hr
  simp only [Chip.csrIns, hcore, hk, hsb, Bool.true_and, and_self, or_true, if_true]

variable (hm : (c.hart n).priv = .m) (hv : (c.hart n).virt = false) (hk : plainCsr k = true)
include hm hv hk

theorem Chip.csrIns_machine (hsb : serialCsr k = true → (c.hart n).sbEmpty = true) (f : DWord → DWord) :
    c.csrIns n k 0 true f 4 =
      let d := (c.retire n 4 1).modHart n (·.writeCsr k (f (c.csrValue n k)))
      if serialCsr k then d.modHart n Hart.serialised else d := by
  obtain ⟨core, hcore⟩ := Chip.ready_liveCore hr
  have hret := c.retire_agrees n 4 1 1
  have hgo : ¬ ((c.hart n).held.isSome = true ∨ serialCsr k = true ∧ (c.hart n).sbEmpty = false) := by
    rw [Chip.ready_held hr]
    rintro (h | ⟨h, h'⟩)
    · cases h
    · rw [hsb h] at h'
      cases h'
  have hread : c.csrOp n k true f = (.ok (c.csrValue n k), _) := Chip.csrOp_machine hm hv hk f
  have hwrite := Chip.csrOp_machine (c := c.retire n 4 1) (n := n) ((hret.field (·.priv)).trans hm)
    ((hret.field (·.virt)).trans hv) hk fun _ => f (c.csrValue n k)
  have hx0 : (fun h : Hart => h.setX 0 (c.csrValue n k)) = fun h => h := rfl
  simp only [Chip.csrIns, hcore, if_neg hgo, hread, hwrite, hx0, Chip.modHart_modHart, Bool.true_and]
  rfl

/-- What a write that does not serialise leaves. -/
theorem Chip.csrIns_plain {x : Hart} (hser : serialCsr k = false) (f : DWord → DWord)
    (hx : (((c.retire n 4 1).hart n).writeCsr k (f (c.csrValue n k))).agrees x) : OnlyHart c (c.csrIns n k 0 true f 4) n x := by
  have hop := Chip.csrIns_machine hr hm hv hk (fun h => absurd (h.symm.trans hser) (by decide)) f
  rw [hop]
  simp only [hser, Bool.false_eq_true, if_false]
  exact ((OnlyHart.refl c n).retire 4 1 1).modHart hx

/-- What a write that serialises leaves. -/
theorem Chip.csrIns_serial {x : Hart} (hser : serialCsr k = true) (hsb : (c.hart n).sbEmpty = true) (f : DWord → DWord)
    (hx : (((c.retire n 4 1).hart n).writeCsr k (f (c.csrValue n k))).agrees x) (he : x.early = []) :
    OnlyHart c (c.csrIns n k 0 true f 4) n { x with refetch := true } := by
  rw [Chip.csrIns_machine hr hm hv hk (fun _ => hsb) f]
  simp only [hser, if_true]
  have hwritten := ((OnlyHart.refl c n).retire 4 1 1).modHart (f := (·.writeCsr k (f (c.csrValue n k)))) hx
  exact hwritten.modHart (hwritten.agrees.serialised he)

end write

/-! The core's own CSRs. -/

/-- A write of mol.bpctl keeps DET and PFOFF, and discards prediction state where DET changes or FLUSH is written 1 (R89, R90). -/
theorem Hart.writeCsr_bpctl (h : Hart) (v : DWord) :
    h.writeCsr 0x7C0 v = if v.getLsbD 2 = true ∨ fld v 0 0 ≠ h.csrFld 0x7C0 0 0
      then { h.setCsr 0x7C0 (v &&& 3) with pred := {} } else h.setCsr 0x7C0 (v &&& 3) := by
  have hdet : (h.setCsr 0x7C0 (v &&& 3)).csrFld 0x7C0 0 0 = fld v 0 0 := by
    rw [Hart.csrFld, Hart.csr_setCsr_self]
    simp [fld_single]
  have hcond : (h.setCsr 0x7C0 (v &&& 3)).csrFld 0x7C0 0 0 ≠ h.csrFld 0x7C0 0 0 ∨ fld v 2 2 = 1 ↔
      v.getLsbD 2 = true ∨ fld v 0 0 ≠ h.csrFld 0x7C0 0 0 := by
    rw [hdet, fld_single_eq_one, or_comm]
  have hbpctl : h.writeCsr 0x7C0 v = if (h.setCsr 0x7C0 (v &&& 3)).csrFld 0x7C0 0 0 ≠ h.csrFld 0x7C0 0 0 ∨ fld v 2 2 = 1
      then (h.setCsr 0x7C0 (v &&& 3)).flushPred else h.setCsr 0x7C0 (v &&& 3) := rfl
  rw [hbpctl, Hart.flushPred]
  simp only [hcond]

theorem Hart.writeCsr_bpctl_flush {h : Hart} {v : DWord} (hv : v.getLsbD 2 = true ∨ fld v 0 0 ≠ h.csrFld 0x7C0 0 0) :
    h.writeCsr 0x7C0 v = { h.setCsr 0x7C0 (v &&& 3) with pred := {} } := by
  rw [Hart.writeCsr_bpctl, if_pos hv]

theorem Hart.writeCsr_bpctl_keep {h : Hart} {v : DWord} (hf : v.getLsbD 2 = false) (hdet : fld v 0 0 = h.csrFld 0x7C0 0 0) :
    h.writeCsr 0x7C0 v = h.setCsr 0x7C0 (v &&& 3) := by
  rw [Hart.writeCsr_bpctl, if_neg (by rw [hf, hdet]; simp)]

theorem Hart.writeCsr_restctl (h : Hart) (v : DWord) :
    h.writeCsr 0x7C1 v = h.setCsr 0x7C1 ((h.csr 0x7C1 &&& 0x10000) ||| (v &&& 0xFFFF)) := rfl

theorem csrNext_minstret (old v : DWord) : csrNext 0xB02 old v = v := by
  generalize hk : 0xB02 = k
  unfold csrNext
  rw [if_neg (by subst hk; decide), if_neg (by omega), if_neg (by omega)]
  split <;> cases hk
  rfl

theorem Hart.writeCsr_minstret (h : Hart) (v : DWord) : h.writeCsr 0xB02 v = h.setCsr 0xB02 v := by
  simp [Hart.writeCsr, csrNext_minstret]

theorem Hart.writeCsr_inhibit (h : Hart) (v : DWord) : h.writeCsr 0x320 v = h.setCsr 0x320 (v &&& 0x7FD) := rfl

theorem Hart.writeCsr_tsctl (h : Hart) (v : DWord) : h.writeCsr 0x5C0 v = h.setCsr 0x5C0 (tsctlNext (h.csr 0x5C0) v) := rfl

/-- A write of mol.tsidx takes RD where the ring holds what it says (R456). -/
theorem Hart.writeCsr_tsidx {h : Hart} {v : DWord}
    (hring : (fld (h.csr 0x5C2) 31 0 + 2 ^ 32 - fld v 63 32) % 2 ^ 32 ≤ 2 ^ fld (h.csr 0x5C0) 8 4) :
    h.writeCsr 0x5C2 v = h.setCsr 0x5C2 (setFld (h.csr 0x5C2) 63 32 (fld v 63 32)) := by
  have hwrite : h.writeCsr 0x5C2 v = h.writeTsidx v := by simp [Hart.writeCsr, cTsidx]
  rw [hwrite]
  unfold Hart.writeTsidx
  exact if_pos hring

section core

variable {c : Chip} {n : Nat} (hr : c.ready n = true) (hm : (c.hart n).priv = .m) (hv : (c.hart n).virt = false)
include hr hm hv

section serial

variable (hsb : (c.hart n).sbEmpty = true) (f : DWord → DWord)
include hsb

theorem Chip.csrIns_bpctl_flush {w : DWord} (hf : f ((c.hart n).csr 0x7C0) = w)
    (hw : w.getLsbD 2 = true ∨ fld w 0 0 ≠ (c.hart n).csrFld 0x7C0 0 0) :
    OnlyHart c (c.csrIns n 0x7C0 0 true f 4) n
      { (c.hart n).setCsr 0x7C0 (w &&& 3) with pred := {}, pc := (c.hart n).pc + 4, refetch := true } := by
  have hret := c.retire_agrees n 4 1 1
  refine Chip.csrIns_serial (x := { (c.hart n).setCsr 0x7C0 (w &&& 3) with pred := {}, pc := (c.hart n).pc + 4 })
    hr hm hv (by decide) rfl hsb f ?_ (Chip.ready_early hr)
  have hval : f (c.csrValue n 0x7C0) = w := hf
  have hdet : ((c.retire n 4 1).hart n).csrFld 0x7C0 0 0 = (c.hart n).csrFld 0x7C0 0 0 := hret.csrFld rfl 0 0
  rw [hval, Hart.writeCsr_bpctl_flush (hdet ▸ hw)]
  exact (hret.setCsr 0x7C0 (w &&& 3)).update ({ · with pred := {} })

theorem Chip.csrIns_bpctl_keep {v : DWord} (hflush : v.getLsbD 2 = false) (hdet : fld v 0 0 = (c.hart n).csrFld 0x7C0 0 0) :
    OnlyHart c (c.csrIns n 0x7C0 0 true (fun _ => v) 4) n
      { (c.hart n).setCsr 0x7C0 (v &&& 3) with pc := (c.hart n).pc + 4, refetch := true } := by
  have hret := c.retire_agrees n 4 1 1
  refine Chip.csrIns_serial (x := { (c.hart n).setCsr 0x7C0 (v &&& 3) with pc := (c.hart n).pc + 4 })
    hr hm hv (by decide) rfl hsb _ ?_ (Chip.ready_early hr)
  rw [Hart.writeCsr_bpctl_keep hflush (hdet.trans (hret.csrFld rfl 0 0).symm)]
  exact hret.setCsr 0x7C0 (v &&& 3)

theorem Chip.csrIns_restctl (v : DWord) :
    OnlyHart c (c.csrIns n 0x7C1 0 true (fun _ => v) 4) n
      { (c.hart n).setCsr 0x7C1 (((c.hart n).csr 0x7C1 &&& 0x10000) ||| (v &&& 0xFFFF)) with
        pc := (c.hart n).pc + 4, refetch := true } := by
  have hret := c.retire_agrees n 4 1 1
  have hold : ((c.retire n 4 1).hart n).csr 0x7C1 = (c.hart n).csr 0x7C1 := hret.csr rfl
  refine Chip.csrIns_serial
    (x := { (c.hart n).setCsr 0x7C1 (((c.hart n).csr 0x7C1 &&& 0x10000) ||| (v &&& 0xFFFF)) with pc := (c.hart n).pc + 4 })
    hr hm hv (by decide) rfl hsb _ ?_ (Chip.ready_early hr)
  rw [Hart.writeCsr_restctl, hold]
  exact hret.setCsr 0x7C1 _

end serial

/-- The write's own instruction is not counted in what it writes (R446). -/
theorem Chip.csrIns_minstret (v : DWord) :
    let d := c.csrIns n 0xB02 0 true (fun _ => v) 4
    (d.hart n).csr 0xB02 = v ∧ (d.hart n).pc = (c.hart n).pc + 4 := by
  intro d
  have hop := Chip.csrIns_machine (k := 0xB02) hr hm hv (by decide) (fun h => absurd h (by decide)) fun _ => v
  simp only [show serialCsr 0xB02 = false from rfl, Bool.false_eq_true, if_false, Hart.writeCsr_minstret] at hop
  have hd : d.hart n = ((c.retire n 4 1).hart n).setCsr 0xB02 v := by
    rw [show d = _ from hop, Chip.modHart_self]
  rw [hd]
  exact ⟨Hart.csr_setCsr_self _ _ _, (c.retire_agrees n 4 1 1).pc⟩

theorem Chip.csrIns_inhibit (v : DWord) :
    OnlyHart c (c.csrIns n 0x320 0 true (fun _ => v) 4) n
      { (c.hart n).setCsr 0x320 (v &&& 0x7FD) with pc := (c.hart n).pc + 4 } := by
  refine Chip.csrIns_plain hr hm hv (by decide) rfl _ ?_
  rw [Hart.writeCsr_inhibit]
  exact (c.retire_agrees n 4 1 1).setCsr 0x320 _

theorem Chip.csrIns_tsctl (v : DWord) :
    OnlyHart c (c.csrIns n 0x5C0 0 true (fun _ => v) 4) n
      { (c.hart n).setCsr 0x5C0 (tsctlNext ((c.hart n).csr 0x5C0) v) with pc := (c.hart n).pc + 4 } := by
  have hret := c.retire_agrees n 4 1 1
  have hold : ((c.retire n 4 1).hart n).csr 0x5C0 = (c.hart n).csr 0x5C0 := hret.csr rfl
  refine Chip.csrIns_plain hr hm hv (by decide) rfl _ ?_
  rw [Hart.writeCsr_tsctl, hold]
  exact hret.setCsr 0x5C0 _

theorem Chip.csrIns_tsidx {v : DWord} (hring : (fld ((c.hart n).csr 0x5C2) 31 0 + 2 ^ 32 - fld v 63 32) % 2 ^ 32 ≤
      2 ^ fld ((c.hart n).csr 0x5C0) 8 4) :
    OnlyHart c (c.csrIns n 0x5C2 0 true (fun _ => v) 4) n
      { (c.hart n).setCsr 0x5C2 (setFld ((c.hart n).csr 0x5C2) 63 32 (fld v 63 32)) with pc := (c.hart n).pc + 4 } := by
  have hret := c.retire_agrees n 4 1 1
  have hold : ((c.retire n 4 1).hart n).csr 0x5C2 = (c.hart n).csr 0x5C2 := hret.csr rfl
  have hsize : ((c.retire n 4 1).hart n).csr 0x5C0 = (c.hart n).csr 0x5C0 := hret.csr rfl
  refine Chip.csrIns_plain hr hm hv (by decide) rfl _ ?_
  rw [Hart.writeCsr_tsidx (hold.symm ▸ hsize.symm ▸ hring), hold]
  exact hret.setCsr 0x5C2 _

end core

/-- FLUSH is not stored (R90). -/
theorem and_or_flush (o : DWord) : ((o &&& 3) ||| 4) &&& 3 = o &&& 3 := by
  rw [BitVec.and_or_distrib_right, BitVec.and_assoc]
  exact BitVec.or_zero

/-- Settles O7: the wait for the store buffer, then the writes of each of the core's CSRs. -/
theorem coreCsrWritesSerialise : Obligations.CoreCsrWritesSerialise := by
  refine ⟨fun s n v op hr hsb => ?_, fun s n v => ?_, fun s n v => ?_⟩
  · obtain ⟨core, hcore⟩ := Chip.ready_liveCore hr
    refine ⟨?_, ?_, ?_, ?_, ?_, ?_⟩
    · exact Runs.of_ready (·.bpctlWrite n v) hr rfl rfl (Chip.csrIns_waits hr hsb rfl _)
    · exact Runs.of_ready (·.restctlWrite n v) hr rfl rfl (Chip.csrIns_waits hr hsb rfl _)
    · exact Runs.of_ready (·.bpctlFlush n) hr rfl rfl (Chip.csrIns_waits hr hsb rfl _)
    · refine Runs.of_ready (·.serialising n op) hr rfl rfl ?_
      simp only [Chip.serialising, hcore, hsb, Bool.not_false, Bool.true_or, if_true]
    · refine Runs.of_ready (·.fenceI n) hr rfl rfl ?_
      simp only [Chip.fenceI, hcore, hsb, Bool.not_false, Bool.true_or, if_true]
    · refine Runs.of_ready (·.wfi n) hr rfl rfl ?_
      simp only [Chip.wfi, hcore, hsb, Bool.not_false, Bool.true_or, if_true]
  · intro h moved hr hm hv hsb
    refine ⟨fun hw => ?_, fun hf hdet => ?_, ?_, ?_⟩
    · exact RunsTo.hart_of_ready (·.bpctlWrite n v) hr rfl (Chip.csrIns_bpctl_flush hr hm hv hsb (fun _ => v) rfl hw)
    · exact RunsTo.hart_of_ready (·.bpctlWrite n v) hr rfl (Chip.csrIns_bpctl_keep hr hm hv hsb hf hdet)
    · have hflush := Chip.csrIns_bpctl_flush hr hm hv hsb (fun o => (o &&& 3) ||| 4) rfl (.inl (by simp))
      rw [and_or_flush] at hflush
      exact RunsTo.hart_of_ready (·.bpctlFlush n) hr rfl hflush
    · exact RunsTo.hart_of_ready (·.restctlWrite n v) hr rfl (Chip.csrIns_restctl hr hm hv hsb v)
  · intro h hr hm hv
    refine ⟨?_, ?_, ?_, fun hring => ?_⟩
    · have hminstret := Chip.csrIns_minstret hr hm hv v
      exact RunsTo.of_ready_fuseless (·.counterWrite n 0xB02 v) hr rfl hminstret fun _ _ hd => hd
    · exact RunsTo.hart_of_ready (·.counterWrite n 0x320 v) hr rfl (Chip.csrIns_inhibit hr hm hv v)
    · exact RunsTo.hart_of_ready (·.tsctlWrite n v) hr rfl (Chip.csrIns_tsctl hr hm hv v)
    · exact RunsTo.hart_of_ready (·.tsidxWrite n v) hr rfl (Chip.csrIns_tsidx hr hm hv hring)

end Sys2Proof.Machine
end

section
/-! Traps and their returns (R80, R83, R96, R98, R111, R116, R118, R126): what a hart is on entry to M-mode, and what MRET and
SRET make of it. -/

namespace Sys2Proof.Machine

/-- A CSR depends on the storage only. -/
theorem Hart.csr_congr {g h : Hart} (e : g.csrs = h.csrs) (k : Nat) : g.csr k = h.csr k :=
  congrArg (fun m => (Sparse.find m k).getD (csrReset k)) e

/-! Entry to M-mode. -/

/-- mstatus on entry to a trap that M-mode handles: MPIE, MIE, MPP, MPV and GVA. -/
def Hart.trapStatus (h : Hart) (gva : Bool) : DWord :=
  let s := setFld (h.csr 0x300) 7 7 (fld (h.csr 0x300) 3 3)
  setFld (setFld (setFld (setFld s 3 3 0) 12 11 h.priv.code) 39 39 (bit h.virt)) 38 38 (bit gva)

/-- A hart with the registers of a trap that M-mode handles, at the handler. -/
def Hart.trapped (h : Hart) (status handler : DWord) (cause : Nat) (tval : DWord) : Hart :=
  { ((((((h.setCsr 0x300 status).setCsr 0x341 h.pc).setCsr 0x342 (causeWord false cause)).setCsr 0x343 tval).setCsr
      0x34B 0).setCsr 0x34A 0) with
    resv := none, held := none, walk := none, run := .running, ioSt := false, cbo := none, ncGot := [], vst := 0, early := []
    pred := {}, priv := .m, virt := false, pc := handler }

theorem Hart.trapped_csr (h : Hart) (status handler : DWord) (cause : Nat) (tval : DWord) (k : Nat) :
    (h.trapped status handler cause tval).csr k = ((((((h.setCsr 0x300 status).setCsr 0x341 h.pc).setCsr 0x342
      (causeWord false cause)).setCsr 0x343 tval).setCsr 0x34B 0).setCsr 0x34A 0).csr k :=
  Hart.csr_congr rfl k

/-- An exception of M-mode, or one that medeleg does not delegate, is handled in M-mode. -/
theorem Hart.enterTrap_undelegated {h : Hart} {cause : Nat} (hd : h.priv = .m ∨ h.csrFld 0x302 cause cause = 0) (tval : DWord) :
    ∃ gva handler, h.enterTrap false cause tval = h.trapped (h.trapStatus gva) handler cause tval ∧
      handler = (h.csr 0x305 >>> 2) <<< 2 := by
  unfold Hart.enterTrap
  extract_lets g gva s1 s2 s
  have hlevel : g.trapLevel false cause = .m := if_pos hd
  rw [hlevel]
  refine ⟨gva, _, rfl, ?_⟩
  have hbase : g.csr 0x305 = h.csr 0x305 := Hart.csr_congr rfl _
  simp only [handlerPc, Bool.false_and, Bool.false_eq_true, if_false]
  repeat rw [Hart.csr_setCsr_ne (by decide)]
  rw [hbase]

section status

variable (h : Hart) (gva : Bool)

theorem Hart.trapStatus_mpp : fld (h.trapStatus gva) 12 11 = h.priv.code := by
  simp (disch := decide) only [Hart.trapStatus, fld_setFld_ne, fld_setFld_self]
  cases h.priv <;> rfl

theorem Hart.trapStatus_mpie : fld (h.trapStatus gva) 7 7 = h.csrFld 0x300 3 3 := by
  simp (disch := decide) only [Hart.trapStatus, fld_setFld_ne, fld_setFld_self]
  exact Nat.mod_eq_of_lt (fld_lt _ 3 3)

theorem Hart.trapStatus_mie : fld (h.trapStatus gva) 3 3 = 0 := by
  simp (disch := decide) only [Hart.trapStatus, fld_setFld_ne, fld_setFld_self]
  rfl

theorem Hart.trapStatus_mpv : fld (h.trapStatus gva) 39 39 = bit h.virt := by
  simp (disch := decide) only [Hart.trapStatus, fld_setFld_ne, fld_setFld_self]
  cases h.virt <;> rfl

end status

/-- The registers that a trap into M-mode saves. -/
theorem Hart.trapped_saves (h : Hart) (status handler : DWord) (cause : Nat) (tval : DWord) :
    let x := h.trapped status handler cause tval
    x.csr 0x300 = status ∧ x.csr 0x341 = h.pc ∧ x.csr 0x342 = BitVec.ofNat 64 cause ∧ x.csr 0x343 = tval := by
  simp [Hart.trapped_csr, Hart.csr_setCsr, causeWord, bit]

theorem Hart.trapped_keeps (h : Hart) (status handler : DWord) (cause : Nat) (tval : DWord) :
    let x := h.trapped status handler cause tval
    x.x = h.x ∧ x.f = h.f ∧ x.v = h.v ∧ x.sb = h.sb := by
  simp only [Hart.trapped, Hart.setCsr, and_self]

/-! Return from a trap. -/

/-- mstatus after MRET: MIE, MPIE, MPP, MPV, and MPRV where the mode is less than M. -/
def mretStatus (s : DWord) (p : Priv) : DWord :=
  let s := setFld (setFld (setFld (setFld s 3 3 (fld s 7 7)) 7 7 1) 12 11 0) 39 39 0
  if p = .m then s else setFld s 17 17 0

def mretPriv (s : DWord) : Priv := if fld s 12 11 = 3 then .m else if fld s 12 11 = 1 then .s else .u

theorem mretPriv_ne_m {s : DWord} : mretPriv s ≠ .m ↔ fld s 12 11 ≠ 3 := by
  unfold mretPriv
  split
  · simp [*]
  · split <;> simp [*]

/-- A hart back in the mode that a trap came from, with what follows to be fetched again. -/
def Hart.returned (h : Hart) (p : Priv) (v : Bool) (pc : DWord) : Hart :=
  { h with pred := {}, priv := p, virt := v, pc := pc, early := [], refetch := true }

theorem Hart.returned_csr (h : Hart) (p : Priv) (v : Bool) (pc : DWord) (k : Nat) : (h.returned p v pc).csr k = h.csr k :=
  Hart.csr_congr rfl k

theorem Hart.mret_eq (h : Hart) :
    let p := mretPriv (h.csr 0x300)
    ∃ pc, h.mret.serialised = (h.setCsr 0x300 (mretStatus (h.csr 0x300) p)).returned p
        (decide (p ≠ .m) && decide (h.csrFld 0x300 39 39 = 1)) pc ∧ pc = (h.csr 0x341 >>> 1) <<< 1 := by
  refine ⟨_, rfl, ?_⟩
  have hepc : (h.setCsr 0x300 (mretStatus (h.csr 0x300) (mretPriv (h.csr 0x300)))).flushPred.csr 0x341 = h.csr 0x341 :=
    (Hart.csr_congr rfl _).trans (Hart.csr_setCsr_ne (by decide) _ _)
  exact congrArg (fun a : DWord => (a >>> 1) <<< 1) hepc

/-- mstatus after SRET from HS-mode or M-mode: SIE, SPIE, SPP and MPRV. -/
def sretStatus (s : DWord) : DWord := setFld (setFld (setFld (setFld s 1 1 (fld s 5 5)) 5 5 1) 8 8 0) 17 17 0

theorem Hart.sret_eq {h : Hart} (hv : h.virt = false) :
    ∃ pc, h.sret.serialised = ((h.setCsr 0x300 (sretStatus (h.csr 0x300))).setCsrFld 0x600 7 7 0).returned
        (if h.csrFld 0x300 8 8 = 1 then .s else .u) (decide (h.csrFld 0x600 7 7 = 1)) pc ∧ pc = (h.csr 0x141 >>> 1) <<< 1 := by
  rw [Hart.sret, hv]
  refine ⟨_, rfl, ?_⟩
  have hepc : ((h.setCsr 0x300 (sretStatus (h.csr 0x300))).setCsrFld 0x600 7 7 0).flushPred.csr 0x141 = h.csr 0x141 :=
    (Hart.csr_congr rfl _).trans ((Hart.csr_setCsr_ne (by decide) _ _).trans (Hart.csr_setCsr_ne (by decide) _ _))
  exact congrArg (fun a : DWord => (a >>> 1) <<< 1) hepc

section mretStatus

variable (s : DWord) (p : Priv)

theorem mretStatus_mie : fld (mretStatus s p) 3 3 = fld s 7 7 := by
  unfold mretStatus
  split <;> simp (disch := decide) only [fld_setFld_ne, fld_setFld_self]
  · exact Nat.mod_eq_of_lt (fld_lt _ 7 7)
  · exact Nat.mod_eq_of_lt (fld_lt _ 7 7)

theorem mretStatus_mpie : fld (mretStatus s p) 7 7 = 1 := by
  unfold mretStatus
  split <;> simp (disch := decide) only [fld_setFld_ne, fld_setFld_self] <;> rfl

theorem mretStatus_mpp : fld (mretStatus s p) 12 11 = 0 := by
  unfold mretStatus
  split <;> simp (disch := decide) only [fld_setFld_ne, fld_setFld_self] <;> rfl

end mretStatus

theorem sretStatus_sie (s : DWord) : fld (sretStatus s) 1 1 = fld s 5 5 := by
  simp (disch := decide) only [sretStatus, fld_setFld_ne, fld_setFld_self]
  exact Nat.mod_eq_of_lt (fld_lt _ 5 5)

theorem sretStatus_spp (s : DWord) : fld (sretStatus s) 8 8 = 0 := by
  simp (disch := decide) only [sretStatus, fld_setFld_ne, fld_setFld_self]
  rfl

section machine

variable {c : Chip} {n : Nat} (hr : c.ready n = true) (hsb : (c.hart n).sbEmpty = true) (hm : (c.hart n).priv = .m)
include hr hsb hm

theorem Chip.serialising_mret : c.serialising n .mret = (c.retire n 0 1).modHart n (·.mret.serialised) := by
  obtain ⟨k, hcore⟩ := Chip.ready_liveCore hr
  have hpriv : ¬ ((c.hart n).priv ≠ .m) := fun h => h hm
  have hheld := Chip.ready_held hr
  simp only [Chip.serialising, hcore, hsb, hheld, Option.isSome_none, Bool.not_true, Bool.or_self, Bool.false_eq_true, if_false,
    if_neg hpriv]
  rfl

theorem Chip.serialising_sret (hv : (c.hart n).virt = false) :
    c.serialising n .sret = (c.retire n 0 1).modHart n (·.sret.serialised) := by
  obtain ⟨k, hcore⟩ := Chip.ready_liveCore hr
  have hu : (c.hart n).priv ≠ .u := by rw [hm]; decide
  have hs : (c.hart n).priv ≠ .s := by rw [hm]; decide
  have hheld := Chip.ready_held hr
  simp only [Chip.serialising, hcore, hsb, hheld, hv, hu, hs, Option.isSome_none, Bool.not_true, Bool.or_self, Bool.false_eq_true,
    if_false, false_and, and_false]
  rfl

/-- What MRET leaves (R96, R98). -/
theorem Chip.mret_returns :
    let h := c.hart n
    let d := c.serialising n .mret
    let x := d.hart n
    x.pc = (h.csr 0x341 >>> 1) <<< 1 ∧ x.priv = mretPriv (h.csr 0x300) ∧
      x.virt = (decide (h.csrFld 0x300 12 11 ≠ 3) && decide (h.csrFld 0x300 39 39 = 1)) ∧
      x.csrFld 0x300 3 3 = h.csrFld 0x300 7 7 ∧ x.csrFld 0x300 7 7 = 1 ∧ x.csrFld 0x300 12 11 = 0 ∧
      x.pred = {} ∧ x.refetch = true ∧ x.x = h.x ∧ x.f = h.f ∧ x.v = h.v ∧ d.aside = c.aside := by
  intro h d x
  have hret := c.retire_agrees n 0 1 1
  have hepc : ((c.retire n 0 1).hart n).csr 0x341 = h.csr 0x341 := hret.csr rfl
  have hold : ((c.retire n 0 1).hart n).csr 0x300 = h.csr 0x300 := hret.csr rfl
  obtain ⟨pc, hmret, hpc⟩ := ((c.retire n 0 1).hart n).mret_eq
  have hd : d = (c.retire n 0 1).modHart n (·.mret.serialised) := Chip.serialising_mret hr hsb hm
  have hx : x = _ := (congrArg (·.hart n) hd).trans ((Chip.modHart_self _ _ _).trans hmret)
  rw [Hart.csrFld, hold] at hx
  rw [hepc] at hpc
  have hstatus : x.csr 0x300 = mretStatus (h.csr 0x300) (mretPriv (h.csr 0x300)) := by
    rw [hx, Hart.returned_csr, Hart.csr_setCsr_self]
  have haside : d.aside = c.aside := (congrArg Chip.aside hd).trans ((OnlyHart.refl c n).retire 0 1 1).1
  have hvirt : decide (mretPriv (h.csr 0x300) ≠ .m) = decide (h.csrFld 0x300 12 11 ≠ 3) := decide_eq_decide.mpr mretPriv_ne_m
  refine ⟨?_, ?_, ?_, ?_, ?_, ?_, ?_, ?_, ?_, ?_, ?_, haside⟩
  · rw [hx]
    exact hpc
  · rw [hx]
    rfl
  · rw [hx, ← hvirt]
    rfl
  · rw [Hart.csrFld, hstatus, mretStatus_mie]
    rfl
  · rw [Hart.csrFld, hstatus, mretStatus_mpie]
  · rw [Hart.csrFld, hstatus, mretStatus_mpp]
  · rw [hx]
    rfl
  · rw [hx]
    rfl
  · rw [hx]
    exact hret.field (·.x)
  · rw [hx]
    exact hret.field (·.f)
  · rw [hx]
    exact hret.field (·.v)

/-- What SRET leaves in M-mode (R96, R98). -/
theorem Chip.sret_returns (hv : (c.hart n).virt = false) :
    let h := c.hart n
    let d := c.serialising n .sret
    let x := d.hart n
    x.pc = (h.csr 0x141 >>> 1) <<< 1 ∧ x.priv = (if h.csrFld 0x300 8 8 = 1 then .s else .u) ∧
      x.csrFld 0x300 1 1 = h.csrFld 0x300 5 5 ∧ x.csrFld 0x300 8 8 = 0 ∧
      x.pred = {} ∧ x.refetch = true ∧ x.x = h.x ∧ d.aside = c.aside := by
  intro h d x
  have hret := c.retire_agrees n 0 1 1
  have hepc : ((c.retire n 0 1).hart n).csr 0x141 = h.csr 0x141 := hret.csr rfl
  have hold : ((c.retire n 0 1).hart n).csr 0x300 = h.csr 0x300 := hret.csr rfl
  obtain ⟨pc, hsret, hpc⟩ := Hart.sret_eq (h := (c.retire n 0 1).hart n) ((hret.field (·.virt)).trans hv)
  have hd : d = (c.retire n 0 1).modHart n (·.sret.serialised) := Chip.serialising_sret hr hsb hm hv
  have hx : x = _ := (congrArg (·.hart n) hd).trans ((Chip.modHart_self _ _ _).trans hsret)
  rw [Hart.csrFld, hold] at hx
  rw [hepc] at hpc
  have hstatus : x.csr 0x300 = sretStatus (h.csr 0x300) := by
    rw [hx, Hart.returned_csr, Hart.setCsrFld, Hart.csr_setCsr_ne (by decide), Hart.csr_setCsr_self]
  have haside : d.aside = c.aside := (congrArg Chip.aside hd).trans ((OnlyHart.refl c n).retire 0 1 1).1
  refine ⟨?_, ?_, ?_, ?_, ?_, ?_, ?_, haside⟩
  · rw [hx]
    exact hpc
  · rw [hx]
    rfl
  · rw [Hart.csrFld, hstatus, sretStatus_sie]
    rfl
  · rw [Hart.csrFld, hstatus, sretStatus_spp]
  · rw [hx]
    rfl
  · rw [hx]
    rfl
  · rw [hx]
    exact hret.field (·.x)

end machine

/-- Devices that are the same but for their harts have the same fuses. -/
theorem Chip.fuse_of_aside {c d : Chip} (h : d.aside = c.aside) : d.fuse = c.fuse := by
  have hfuse := congrArg Chip.fuse h
  exact hfuse

/-- What an exception that M-mode handles leaves (R98, R111, R116). -/
theorem Chip.raise_undelegated {c : Chip} {n k : Nat}
    (hd : (c.hart n).priv = .m ∨ (c.hart n).csrFld 0x302 k k = 0) (v : DWord) :
    let h := c.hart n
    let d := c.raise n k v
    let x := d.hart n
    x.csr 0x341 = h.pc ∧ x.csr 0x342 = BitVec.ofNat 64 k ∧ x.csr 0x343 = v ∧
      x.csrFld 0x300 12 11 = h.priv.code ∧ x.csrFld 0x300 7 7 = h.csrFld 0x300 3 3 ∧ x.csrFld 0x300 3 3 = 0 ∧
      x.csrFld 0x300 39 39 = bit h.virt ∧ x.priv = .m ∧ x.virt = false ∧ x.pc = (h.csr 0x305 >>> 2) <<< 2 ∧
      x.resv = none ∧ x.pred = {} ∧ x.x = h.x ∧ x.f = h.f ∧ x.v = h.v ∧ x.sb = h.sb ∧
      d.aside = c.aside ∧ ∀ j, j ≠ n → d.hart j = c.hart j := by
  intro h d x
  obtain ⟨gva, handler, htrap, hhandler⟩ := Hart.enterTrap_undelegated hd v
  obtain ⟨hstatus, hepc, hcause, htval⟩ := h.trapped_saves (h.trapStatus gva) handler k v
  have hx : x = h.trapped (h.trapStatus gva) handler k v := (Chip.modHart_self c n _).trans htrap
  have hfld (hi lo : Nat) : x.csrFld 0x300 hi lo = fld (h.trapStatus gva) hi lo := by rw [Hart.csrFld, hx, hstatus]
  refine ⟨?_, ?_, ?_, (hfld 12 11).trans (h.trapStatus_mpp gva), (hfld 7 7).trans (h.trapStatus_mpie gva),
    (hfld 3 3).trans (h.trapStatus_mie gva), (hfld 39 39).trans (h.trapStatus_mpv gva), ?_⟩
  · rw [hx, hepc]
  · rw [hx, hcause]
  · rw [hx, htval]
  · rw [hx]
    obtain ⟨hregs, hfregs, hvregs, hsb⟩ := h.trapped_keeps (h.trapStatus gva) handler k v
    exact ⟨rfl, rfl, hhandler, rfl, rfl, hregs, hfregs, hvregs, hsb, rfl, fun j hj => Chip.modHart_ne hj c _⟩

/-- The exceptions that an instruction raises by its kind (R80, R83, R126). -/
theorem Chip.instruction_traps {c : Chip} {n : Nat} (hr : c.ready n = true) (len : Nat) :
    c.instruction n .ecall len = c.raise n (c.hart n).ecallCause 0 ∧
      c.instruction n .ebreak len = c.raise n 3 (c.hart n).pc ∧ c.instruction n .unimplemented len = c.illegal n := by
  obtain ⟨k, hcore, hheld, -⟩ := Chip.ready_core hr
  refine ⟨?_, ?_, ?_⟩ <;> simp only [Chip.instruction, hcore, hheld, Option.isSome_none, Bool.false_eq_true, if_false, xBreak]

theorem Hart.ecallCause_eq (h : Hart) :
    h.ecallCause = match h.priv with | .m => 11 | .s => (if h.virt then 10 else 9) | .u => 8 := by
  unfold Hart.ecallCause
  cases h.priv <;> cases h.virt <;> rfl

/-- Settles O8: M-mode's traps, the interrupts, the exceptions of ECALL, EBREAK and illegal instructions, and the returns. -/
theorem trapsEnterAndReturn : Obligations.TrapsEnterAndReturn := by
  refine ⟨fun s n k v => ?_, fun s n k v => ?_, fun s n len => ?_, fun s n => ?_⟩
  · intro h hlive hk hd
    have htrap : s.chip.trapEntry n false k v = s.chip.raise n k v := if_pos hlive
    have hraise := Chip.raise_undelegated hd v
    rw [← htrap] at hraise
    exact RunsTo.keep (·.trapEntry n false k v) rfl (by rw [htrap]; rfl) hraise
  · intro h hlive
    have htrap : s.chip.trapEntry n true k v =
        if s.chip.intTakes n k && h.held.isNone && !s.chip.midway n then s.chip.modHart n (·.enterTrap true k 0) else s.chip :=
      if_pos hlive
    refine ⟨fun htakes hheld hmid => ?_, fun hno => ?_⟩
    · refine Runs.keep (·.trapEntry n true k v) rfl rfl ?_
      simp only [htrap, htakes, hheld, hmid, Option.isNone_none, Bool.not_false, Bool.and_self, if_true]
    · refine Runs.keep (·.trapEntry n true k v) rfl rfl ?_
      have hcond : ¬ (s.chip.intTakes n k && h.held.isNone && !s.chip.midway n) = true := by
        simpa [and_assoc, or_iff_not_imp_left] using hno
      simp only [htrap, if_neg hcond]
  · intro h trap hr
    obtain ⟨hecall, hebreak, hunimpl⟩ := Chip.instruction_traps hr len
    refine ⟨?_, ?_, ?_⟩
    · exact Runs.of_ready (·.instruction n .ecall len) hr rfl rfl (hecall.trans (h.ecallCause_eq ▸ rfl))
    · exact Runs.of_ready (·.instruction n .ebreak len) hr rfl rfl hebreak
    · exact RunsTo.of_ready (·.instruction n .unimplemented len) hr rfl (by rw [hunimpl]; rfl) ⟨_, hunimpl⟩
  · intro h hr hsb hm hv
    have hmret := Chip.mret_returns hr hsb hm
    have hsret := Chip.sret_returns hr hsb hm hv
    obtain ⟨-, -, -, -, -, -, -, -, -, -, -, hm_aside⟩ := hmret
    obtain ⟨-, -, -, -, -, -, -, hs_aside⟩ := hsret
    exact ⟨RunsTo.of_ready (·.serialising n .mret) hr rfl (Chip.fuse_of_aside hm_aside) (Chip.mret_returns hr hsb hm),
      RunsTo.of_ready (·.serialising n .sret) hr rfl (Chip.fuse_of_aside hs_aside) (Chip.sret_returns hr hsb hm hv)⟩

end Sys2Proof.Machine
end

section
/-! Lines of a core's caches (R147-R149): what an access through the L1D, and a store into a line that the core owns, leave of the
line that they are of. -/

namespace Sys2Proof.Machine

/-! Tables. -/

/-- What a search of a table finds it still finds where it is replaced by something that the search accepts. -/
theorem Sparse.find?_put {α : Type} {p : Nat × α → Bool} {k : Nat} {v w : α} :
    ∀ {m : Sparse α}, m.find? p = some (k, v) → p (k, w) = true → (Sparse.put m k w).find? p = some (k, w)
  | [], hm, _ => by cases hm
  | (j, u) :: t, hm, hw => by
    unfold Sparse.put
    split
    · exact List.find?_cons_of_pos hw
    · split
      · exact List.find?_cons_of_pos hw
      · rename_i hlt hne
        cases hp : p (j, u) with
        | true =>
          rw [List.find?_cons_of_pos hp] at hm
          exact absurd (congrArg (fun e => e.1) (Option.some.inj hm)) (Ne.symm hne)
        | false =>
          rw [List.find?_cons_of_neg (by simp [hp])] at hm ⊢
          exact Sparse.find?_put hm hw

theorem Sparse.mem_of_find {α : Type} {k : Nat} {v : α} : ∀ {m : Sparse α}, Sparse.find m k = some v → (k, v) ∈ m
  | (j, u) :: t, hm => by
    unfold Sparse.find at hm
    split at hm
    · cases hm
      subst k
      exact List.mem_cons_self
    · exact List.mem_cons_of_mem _ (Sparse.mem_of_find hm)

/-! L1. -/

/-- A fill for a line that an L1 lacks makes no room from the line itself. -/
theorem L1.fill_leaves_other {a : L1} {line n : Nat} (h : (a.fill line).2 = some n) : n ≠ line := by
  unfold L1.fill at h
  split at h
  · cases h
  · next hmiss =>
    rintro rfl
    have hway := Sparse.mem_of_find h
    rw [L1.find, Option.map_eq_none_iff, List.find?_eq_none] at hmiss
    exact hmiss _ hway (by simp)

/-! L2. -/

theorem Core.line_congr {x y : Core} (h : x.l2 = y.l2) (n : Nat) : x.line n = y.line n := by
  rw [Core.line, Core.line, Core.find, Core.find, h]

/-- The record of a line, with where it stands. -/
theorem Core.find_of_line {x : Core} {n : Nat} {l : L2Line} (h : x.line n = some l) : ∃ k, x.find n = some (k, l) ∧ l.line = n := by
  obtain ⟨⟨k, l'⟩, hfind, rfl⟩ := Option.map_eq_some_iff.mp h
  exact ⟨k, hfind, by simpa using List.find?_some hfind⟩

theorem Core.line_setLine {x : Core} {n : Nat} {l l' : L2Line} {f : L2Line → Option L2Line} (h : x.line n = some l)
    (hf : f l = some l') (hn : l'.line = n) : (x.setLine n f).line n = some l' := by
  obtain ⟨k, hfind, -⟩ := Core.find_of_line h
  have hset : x.setLine n f = { x with l2 := Sparse.put x.l2 k l' } := by
    simp only [Core.setLine, hfind, hf]
  have hfind' : (x.setLine n f).find n = some (k, l') := by
    rw [hset]
    exact Sparse.find?_put hfind (by simp [hn])
  exact congrArg (Option.map (·.2)) hfind'

/-- A line that leaves an L1 is another one. -/
theorem Core.line_leaves (x : Core) {n : Nat} {v : Option Nat} (hv : v ≠ some n) {f : L2Line → L2Line}
    (hf : ∀ l, (f l).line = l.line) : (x.leaves v f).line n = x.line n := by
  cases v with
  | none => rfl
  | some m =>
    have hm : n ≠ m := fun e => hv (congrArg some e.symm)
    have hline (e : Nat × L2Line) : (if e.2.line = m then (e.1, f e.2) else e).2.line = e.2.line := by
      split
      · exact hf e.2
      · rfl
    simp only [Core.line, Core.find, Core.leaves, List.find?_map, Function.comp_def, hline, Option.map_map]
    refine Option.map_congr fun e he => ?_
    have hn : e.2.line = n := by simpa using List.find?_some he
    rw [if_neg (hn ▸ hm)]

theorem Core.missL1_l2 (x : Core) (a : L1) (n : Nat) : (x.missL1 a n).l2 = x.l2 := by
  unfold Core.missL1
  split <;> rfl

/-! An access through the L1D. -/

/-- A core after an access through its L1D to a line that its L2 holds. -/
def Core.usedD (x : Core) (n : Nat) : Core :=
  let y := (x.missL1 x.l1d n).setLine n fun l => some { l with l1d := true }
  ({ y with l1d := (x.l1d.fill n).1 } : Core).leaves (x.l1d.fill n).2 fun l => { l with l1d := false }

theorem Core.line_usedD {x : Core} {n : Nat} {l : L2Line} (h : x.line n = some l) :
    (x.usedD n).line n = some { l with l1d := true } := by
  have hmiss : (x.missL1 x.l1d n).line n = some l := (Core.line_congr (x.missL1_l2 x.l1d n) n).trans h
  obtain ⟨-, -, hn⟩ := Core.find_of_line h
  have hset := Core.line_setLine (f := fun l => some { l with l1d := true }) hmiss rfl hn
  have hother : (x.l1d.fill n).2 ≠ some n := fun e => L1.fill_leaves_other e rfl
  exact (Core.line_leaves _ hother (f := fun l => { l with l1d := false }) fun _ => rfl).trans ((Core.line_congr rfl n).trans hset)

/-- An access through the L1D changes its core, and may lose a reservation (R116). -/
theorem Chip.useD_eq (c : Chip) (k n : Nat) :
    c.useD k n = match ((c.core k).l1d.fill n).2 with
      | some m => (c.modCore k (·.usedD n)).dropResv k m
      | none => c.modCore k (·.usedD n) := rfl

/-- A lost reservation is all that a line's leaving does to harts. -/
theorem Chip.dropResv_hart (c : Chip) (k m j : Nat) : ∃ r, (c.dropResv k m).hart j = { c.hart j with resv := r } := by
  unfold Chip.dropResv
  split
  · rcases eq_or_ne j (c.core k).hartId with rfl | hj
    · rw [Chip.modHart_self]
      split
      · exact ⟨none, rfl⟩
      · exact ⟨_, rfl⟩
    · rw [Chip.modHart_ne hj]
      exact ⟨_, rfl⟩
  · exact ⟨_, rfl⟩

@[simp] theorem Chip.dropResv_core (c : Chip) (k m j : Nat) : (c.dropResv k m).core j = c.core j := by
  unfold Chip.dropResv
  split <;> rfl

@[simp] theorem Chip.dropResv_aside (c : Chip) (k m : Nat) : (c.dropResv k m).aside = c.aside := by
  unfold Chip.dropResv
  split <;> rfl

/-- What an access through the L1D leaves of the harts, of its core, and of the rest of the device. -/
theorem Chip.useD_hart (c : Chip) (k n j : Nat) : ∃ r, (c.useD k n).hart j = { c.hart j with resv := r } := by
  rw [Chip.useD_eq]
  split
  · exact Chip.dropResv_hart _ k _ j
  · exact ⟨_, rfl⟩

theorem Chip.useD_core (c : Chip) (k n : Nat) : (c.useD k n).core k = (c.core k).usedD n := by
  rw [Chip.useD_eq]
  split
  · rw [Chip.dropResv_core, Chip.modCore_self]
  · rw [Chip.modCore_self]

theorem Chip.useD_aside (c : Chip) (k n : Nat) : (c.useD k n).aside = (c.modCore k (·.usedD n)).aside := by
  rw [Chip.useD_eq]
  split
  · rw [Chip.dropResv_aside]
  · rfl

theorem Chip.useD_mem (c : Chip) (k n : Nat) : (c.useD k n).mem = c.mem := by
  have hmem := congrArg Chip.mem (c.useD_aside k n)
  exact hmem

theorem Chip.useD_line {c : Chip} {k n : Nat} {l : L2Line} (h : (c.core k).line n = some l) :
    ((c.useD k n).core k).line n = some { l with l1d := true } := by
  rw [Chip.useD_core]
  exact Core.line_usedD h

/-! A store into a line that its core owns. -/

section writeL1

variable (c : Chip) (k n off : Nat) (bs : List Byte)

theorem Chip.writeL1_hart (j : Nat) : ∃ r, (c.writeL1 k n off bs).hart j = { c.hart j with resv := r } := by
  exact Chip.useD_hart _ k n j

theorem Chip.writeL1_mem : (c.writeL1 k n off bs).mem = c.mem := Chip.useD_mem _ k n

theorem Chip.writeL1_line {l : L2Line} (h : (c.core k).line n = some l) :
    ((c.writeL1 k n off bs).core k).line n =
      some { l with st := .m, l1d := true, data := mergeLine l.data (lineOf bs <<< (8 * off)) (byteMask off bs.length) } := by
  obtain ⟨-, -, hn⟩ := Core.find_of_line h
  refine Chip.useD_line (l := { l with st := .m, data := mergeLine l.data (lineOf bs <<< (8 * off)) (byteMask off bs.length) }) ?_
  rw [Chip.modCore_self]
  exact Core.line_setLine h rfl hn

end writeL1

/-! Snoops that a core holds back. -/

theorem Core.setLine_heldSnp (x : Core) (n : Nat) (f : L2Line → Option L2Line) : (x.setLine n f).heldSnp = x.heldSnp := by
  unfold Core.setLine
  split
  · rfl
  · split <;> rfl

theorem Core.usedD_heldSnp (x : Core) (n : Nat) : (x.usedD n).heldSnp = x.heldSnp := by
  have hmiss : (x.missL1 x.l1d n).heldSnp = x.heldSnp := by
    unfold Core.missL1
    split <;> rfl
  unfold Core.usedD Core.leaves
  dsimp only
  split
  · exact (Core.setLine_heldSnp _ _ _).trans hmiss
  · exact (Core.setLine_heldSnp _ _ _).trans hmiss

theorem Chip.writeL1_heldSnp (c : Chip) (k n off : Nat) (bs : List Byte) :
    ((c.writeL1 k n off bs).core k).heldSnp = (c.core k).heldSnp := by
  rw [Chip.writeL1, Chip.useD_core, Core.usedD_heldSnp, Chip.modCore_self, Core.setLine_heldSnp]

/-- With no snoop held back none proceeds. -/
theorem Chip.releaseSnoops_none {c : Chip} {k : Nat} (h : (c.core k).heldSnp = []) :
    c.releaseSnoops k = c.modCore k fun x => { x with heldSnp := [] } := by
  rw [Chip.releaseSnoops, h]
  rfl

theorem Core.writable_of_owned {x : Core} {n : Nat} {l : L2Line} (h : x.line n = some l) (hst : l.st = .m ∨ l.st = .e)
    (hwb : x.buffered n = none) : x.writable n = some l := by
  have howned : l.st.owned = true := by rcases hst with e | e <;> rw [e] <;> rfl
  rw [Core.writable, h, hwb]
  simp [howned]

theorem leBytes_length (x n : Nat) : (leBytes x n).length = n := by
  induction n generalizing x with
  | zero => rfl
  | succ n ih => rw [leBytes, List.length_cons, ih]

end Sys2Proof.Machine
end

section
/-! Atomics (R112, R115, R116): what an AMO, an LR and an SC leave of their hart and of the line that they are of. -/

namespace Sys2Proof.Machine

theorem Hart.setX_with_resv (h : Hart) (r : Nat) (v : DWord) (l : Option Nat) :
    ({ h with resv := l } : Hart).setX r v = { h.setX r v with resv := l } := by
  unfold Hart.setX
  split <;> rfl

/-- A hart that is as said but for its pc and its reservation. -/
theorem Hart.agrees.same {g x : Hart} {r : Option Nat} {p : DWord} (e : g.agrees { x with resv := r, pc := p }) : g.same x := by
  have hresv : g.resv = r := e.field (·.resv)
  rw [Hart.same, hresv]
  exact e.1

/-- A hart at the end of an SC. -/
def Hart.endSc (h : Hart) (rd : Nat) (v : DWord) : Hart := { h.dropEarly.setX rd v with resv := none }

theorem Chip.atomicAddr_ok {c : Chip} {n va size pa : Nat} {acc : Access} (hal : va % size = 0)
    (htr : c.translate n va acc = .ok pa .pma) (hmem : c.region pa = .memory) :
    c.atomicAddr n va size acc = .ok [(pa, size)] .pma := by
  simp only [Chip.atomicAddr, hal, htr, hmem, ne_eq, not_true_eq_false, or_self, if_false]

section atomic

variable {c : Chip} {n k pa rd rs1 rs2 size : Nat} {l : L2Line} (hr : c.ready n = true) (hcore : c.liveCore n = some k)
  (hsize : size = 4 ∨ size = 8) (hal : (c.hart n).addr rs1 0 % size = 0) (hmem : c.region pa = .memory)
  (hline : (c.core k).line (pa / 64) = some l)
include hr hcore hsize hal hmem hline

theorem Chip.amo_stores (f : AmoFn) (hsb : (c.hart n).sbEmpty = true) (htr : c.translate n ((c.hart n).addr rs1 0) .store = .ok pa .pma)
    (hwb : (c.core k).buffered (pa / 64) = none) (hst : l.st = .m ∨ l.st = .e) (hp : l.poison = false) :
    let old := ((lineBytes l.data).drop (pa % 64)).take size
    c.amo n f rd rs1 rs2 size = ((c.writeL1 k (pa / 64) (pa % 64)
        (leBytes (amoResult f (8 * size) (leNat old) (((c.hart n).getX rs2).toNat % 2 ^ (8 * size))) size)).modHart n fun h =>
      (h.violated [(pa, size)]).dropEarly.setX rd (loadValue old true)).retire n 4 4 2 := by
  have hsizes : ¬ (size ≠ 4 ∧ size ≠ 8) := by omega
  have hheld := Chip.ready_held hr
  simp only [Chip.amo, hcore, if_neg hsizes, hsb, hheld, Chip.atomicAddr_ok hal htr hmem, List.headD_cons,
    Core.writable_of_owned hline hst hwb, hp, Option.isSome_none, Bool.not_true, Bool.or_self, Bool.false_eq_true, if_false]

/-- An LR reads its line and reserves it. -/
theorem Chip.lr_reserves (htr : c.translate n ((c.hart n).addr rs1 0) .load = .ok pa .pma)
    (hover : (c.hart n).overlap false [(pa, size)] = .none) (hp : l.poison = false) :
    c.lr n rd rs1 size = (((if l.l1d then c else c.modHart n fun h => h.event 0x301 1).useD k (pa / 64)).modHart n fun h =>
      { h.dropEarly.setX rd (loadValue (((lineBytes l.data).drop (pa % 64)).take size) true) with
        resv := some (pa / 64) }).retire n 4 (if l.l1d then 4 else 14) := by
  have hsizes : ¬ (size ≠ 4 ∧ size ≠ 8) := by omega
  have hheld := Chip.ready_held hr
  simp only [Chip.lr, hcore, if_neg hsizes, hheld, Chip.atomicAddr_ok hal htr hmem, hover, Chip.readPieces, Chip.readPiece, hline, hp,
    List.append_nil, Bool.and_true, List.headD_cons, Option.isSome_none, ne_eq, not_true_eq_false, Bool.false_eq_true, if_false]

omit hmem hline in
/-- An SC without its reservation stores nothing. -/
theorem Chip.sc_fails (hmem : c.region pa = .memory) (htr : c.translate n ((c.hart n).addr rs1 0) .store = .ok pa .pma)
    (hsb : (c.hart n).sbEmpty = true) (hresv : (c.hart n).resv ≠ some (pa / 64)) :
    c.sc n rd rs1 rs2 size = ((c.modHart n (·.endSc rd 1)).retire n 4 4 2).releaseSnoops k := by
  have hsizes : ¬ (size ≠ 4 ∧ size ≠ 8) := by omega
  have hheld := Chip.ready_held hr
  simp only [Chip.sc, hcore, if_neg hsizes, hsb, hheld, Chip.atomicAddr_ok hal htr hmem, List.headD_cons,
    Option.isSome_none, Bool.not_true, Bool.or_self, Bool.false_eq_true, if_false]
  exact if_pos hresv

/-- An SC with its reservation stores into its line. -/
theorem Chip.sc_stores (htr : c.translate n ((c.hart n).addr rs1 0) .store = .ok pa .pma)
    (hsb : (c.hart n).sbEmpty = true) (hresv : (c.hart n).resv = some (pa / 64)) (hwb : (c.core k).buffered (pa / 64) = none)
    (hst : l.st = .m ∨ l.st = .e) :
    c.sc n rd rs1 rs2 size = ((((c.writeL1 k (pa / 64) (pa % 64) (leBytes ((c.hart n).getX rs2).toNat size)).modHart n
      (·.violated [(pa, size)])).modHart n (·.endSc rd 0)).retire n 4 4 2).releaseSnoops k := by
  have hsizes : ¬ (size ≠ 4 ∧ size ≠ 8) := by omega
  have hheld := Chip.ready_held hr
  simp only [Chip.sc, hcore, if_neg hsizes, hsb, hheld, Chip.atomicAddr_ok hal htr hmem, List.headD_cons, hresv,
    Core.writable_of_owned hline hst hwb, Option.isSome_none, Bool.not_true, Bool.or_self, Bool.false_eq_true, ne_eq, not_true_eq_false,
    if_false]
  rfl

end atomic

/-! What they leave. -/

/-- A device `d` whose hart differs from `h` in its reservation only, after an AMO or SC has ended there with `f`. -/
theorem Chip.endSc_leaves {d : Chip} {n k rd : Nat} {h : Hart} {r : Option Nat} (hd : d.hart n = { h with resv := r })
    (he : h.early = []) (hheld : (d.core k).heldSnp = []) (v : DWord) :
    let e := ((d.modHart n (·.endSc rd v)).retire n 4 4 2).releaseSnoops k
    (e.hart n).body = { h.setX rd v with resv := none }.body ∧ (e.hart n).pc = h.pc + 4 ∧ e.mem = d.mem ∧
      ∀ j, (e.core k).line j = (d.core k).line j := by
  intro e
  have hend : (d.hart n).endSc rd v = { h.setX rd v with resv := none } := by
    rw [hd, Hart.endSc, Hart.dropEarly_of_nil (h := { h with resv := r }) he, Hart.setX_with_resv]
  have hret := (d.modHart n (·.endSc rd v)).retire_agrees n 4 4 2
  rw [Chip.modHart_self, hend] at hret
  have he : e = ((d.modHart n (·.endSc rd v)).retire n 4 4 2).modCore k fun x => { x with heldSnp := [] } :=
    Chip.releaseSnoops_none hheld
  refine ⟨?_, ?_, ?_, fun j => ?_⟩
  · rw [he]
    exact hret.1
  · rw [he]
    exact hret.pc.trans (congrArg (· + 4#64) (h.setX_pc rd v))
  · rw [he]
    rfl
  · rw [he, Chip.modCore_self]
    rfl

/-- The hart of a device `d`, of which only the reservation differs from `h`, after an AMO. -/
theorem Chip.endAmo_leaves {d : Chip} {n rd : Nat} {h : Hart} {r : Option Nat} (hd : d.hart n = { h with resv := r })
    (he : h.early = []) (l : List (Nat × Nat)) (v : DWord) :
    let e := (d.modHart n fun x => (x.violated l).dropEarly.setX rd v).retire n 4 4 2
    (e.hart n).same (h.setX rd v) ∧ (e.hart n).pc = h.pc + 4 := by
  have hend : ((d.hart n).violated l).dropEarly.setX rd v = { h.setX rd v with resv := r } := by
    rw [hd, Hart.violated_of_nil (h := { h with resv := r }) he, Hart.dropEarly_of_nil (h := { h with resv := r }) he,
      Hart.setX_with_resv]
  have hret := (d.modHart n fun x => (x.violated l).dropEarly.setX rd v).retire_agrees n 4 4 2
  rw [Chip.modHart_self, hend] at hret
  exact ⟨hret.same (x := h.setX rd v), hret.pc.trans (congrArg (· + 4#64) (h.setX_pc rd v))⟩

/-- The hart after an LR has performed on device `d`, where it agrees with `h` but for its reservation. -/
theorem Chip.endLr_leaves {d : Chip} {n rd line lat : Nat} {h : Hart} (hpc : (d.hart n).pc = h.pc) (v : DWord) :
    let e := (d.modHart n fun x => { x.dropEarly.setX rd v with resv := some line }).retire n 4 lat
    (e.hart n).resv = some line ∧ (e.hart n).pc = h.pc + 4 ∧ (rd % 32 ≠ 0 → (e.hart n).getX rd = v) := by
  have hret := (d.modHart n fun x => { x.dropEarly.setX rd v with resv := some line }).retire_agrees n 4 lat 1
  rw [Chip.modHart_self] at hret
  refine ⟨hret.field (·.resv), ?_, fun hrd => ?_⟩
  · exact hret.pc.trans (congrArg (· + 4#64) (((d.hart n).dropEarly.setX_pc rd v).trans hpc))
  · refine (hret.field (·.getX rd)).trans ?_
    have hget := (d.hart n).dropEarly.getX_setX rd rd v
    rw [if_pos ⟨rfl, hrd⟩] at hget
    exact hget

/-- Counting a miss, then the access through the L1D, leaves the pc. -/
theorem Chip.useD_event_pc (c : Chip) (n k line : Nat) (hit : Bool) :
    (((if hit then c else c.modHart n fun h => h.event 0x301 1).useD k line).hart n).pc = (c.hart n).pc := by
  obtain ⟨r, hhart⟩ := (if hit then c else c.modHart n fun h => h.event 0x301 1).useD_hart k line n
  rw [hhart]
  cases hit with
  | true => rfl
  | false => exact (congrArg Hart.pc (Chip.modHart_self c n _)).trans (Hart.event_agrees (c.hart n) 0x301 1).pc

/-- Settles O11, by the equation of each atomic and what it leaves of its hart and its line. -/
theorem atomicsUpdateOwnedLines : Obligations.AtomicsUpdateOwnedLines := by
  refine ⟨fun s n k pa rd rs1 rs2 size f l => ?_, fun s n k pa rd rs1 rs2 size l => ?_⟩
  · intro h va old hr hcore hsb hsize hal htr hmem hwb hline hst hp
    refine RunsTo.of_ready_fuseless (·.amo n f rd rs1 rs2 size) hr rfl ?_ fun _ _ hd => hd
    have hamo := Chip.amo_stores (rd := rd) (rs2 := rs2) hr hcore hsize hal hmem hline f hsb htr hwb hst hp
    rw [hamo]
    obtain ⟨r, hhart⟩ := s.chip.writeL1_hart k (pa / 64) (pa % 64)
      (leBytes (amoResult f (8 * size) (leNat old) ((h.getX rs2).toNat % 2 ^ (8 * size))) size) n
    obtain ⟨hsame, hpc⟩ := Chip.endAmo_leaves (rd := rd) hhart (Chip.ready_early hr) [(pa, size)] (loadValue old true)
    exact ⟨hsame, hpc, Chip.writeL1_mem _ _ _ _ _, Chip.writeL1_line _ _ _ _ _ hline⟩
  · intro h va hr hcore hsize hal hmem hline hwb
    refine ⟨fun htr hover hp => ?_, fun htr hsb hheld => ⟨fun hresv => ?_, fun hresv hst => ?_⟩⟩
    · refine RunsTo.of_ready_fuseless (·.lr n rd rs1 size) hr rfl ?_ fun _ _ hd => hd
      have hlr := Chip.lr_reserves (rd := rd) hr hcore hsize hal hmem hline htr hover hp
      rw [hlr]
      exact Chip.endLr_leaves (s.chip.useD_event_pc n k (pa / 64) l.l1d) _
    · refine RunsTo.of_ready_fuseless (·.sc n rd rs1 rs2 size) hr rfl ?_ fun _ _ hd => hd
      have hsc := Chip.sc_fails (rd := rd) (rs2 := rs2) hr hcore hsize hal hmem htr hsb hresv
      rw [hsc]
      exact Chip.endSc_leaves (r := h.resv) rfl (Chip.ready_early hr) hheld 1
    · refine RunsTo.of_ready_fuseless (·.sc n rd rs1 rs2 size) hr rfl ?_ fun _ _ hd => hd
      have hsc := Chip.sc_stores (rd := rd) (rs2 := rs2) hr hcore hsize hal hmem hline htr hsb hresv hwb hst
      rw [hsc]
      obtain ⟨r, hhart⟩ := s.chip.writeL1_hart k (pa / 64) (pa % 64) (leBytes (h.getX rs2).toNat size) n
      have hviol := Hart.violated_of_nil (h := { h with resv := r }) (Chip.ready_early hr) [(pa, size)]
      have hheld' := (s.chip.writeL1_heldSnp k (pa / 64) (pa % 64) (leBytes (h.getX rs2).toNat size)).trans hheld
      have hstored := s.chip.writeL1_line k (pa / 64) (pa % 64) (leBytes (h.getX rs2).toNat size) hline
      rw [leBytes_length] at hstored
      obtain ⟨hbody, hpc, hmem', hlines⟩ := Chip.endSc_leaves (rd := rd) (n := n)
        (d := (s.chip.writeL1 k (pa / 64) (pa % 64) (leBytes (h.getX rs2).toNat size)).modHart n (·.violated [(pa, size)]))
        (by rw [Chip.modHart_self, hhart, hviol]) (Chip.ready_early hr) hheld' 0
      exact ⟨hbody, hpc, hmem'.trans (Chip.writeL1_mem _ _ _ _ _), (hlines _).trans hstored⟩

end Sys2Proof.Machine
end

section
/-! Fences and page walks (R96, R103, R114). -/

namespace Sys2Proof.Machine

/-! Fences. -/

section fence

variable {c : Chip} {n k : Nat} (hr : c.ready n = true)
include hr

theorem Chip.fence_waits (hsb : (c.hart n).sbEmpty = false) {pred succ : BitVec 4} (hp : pred.getLsbD 0 = true)
    (hs : succ.getLsbD 1 = true) : c.fence n pred succ false = c := by
  obtain ⟨core, hcore⟩ := Chip.ready_liveCore hr
  simp only [Chip.fence, hcore, hsb, hp, hs, and_self, or_true, if_true]

/-- A fence that does not wait retires. -/
theorem Chip.fence_only {pred succ : BitVec 4} {tso : Bool}
    (hgo : tso = true ∨ (c.hart n).sbEmpty = true ∨ pred.getLsbD 0 = false ∨ succ.getLsbD 1 = false) :
    OnlyHart c (c.fence n pred succ tso) n { c.hart n with pc := (c.hart n).pc + 4 } := by
  obtain ⟨core, hcore⟩ := Chip.ready_liveCore hr
  have hnow : ¬ ((c.hart n).held.isSome = true ∨
      (tso = false ∧ pred.getLsbD 0 = true ∧ succ.getLsbD 1 = true ∧ (c.hart n).sbEmpty = false)) := by
    rw [Chip.ready_held hr]
    rintro (h | ⟨ht, hp, hs, hsb⟩)
    · cases h
    · rw [ht, hsb, hp, hs] at hgo
      exact absurd hgo (by decide)
  have hfence : c.fence n pred succ tso = (if succ.getLsbD 1 then c.modHart n Hart.dropEarly else c).retire n 4 1 := by
    simp only [Chip.fence, hcore]
    exact if_neg hnow
  have hdrop : OnlyHart c (c.modHart n Hart.dropEarly) n (c.hart n) :=
    (OnlyHart.refl c n).modHart (by rw [Hart.dropEarly_of_nil (Chip.ready_early hr)]; exact Hart.agrees.refl _)
  rw [hfence]
  split
  · exact hdrop.retire 4 1 1
  · exact (OnlyHart.refl c n).retire 4 1 1

theorem Chip.fenceI_restarts (hcore : c.liveCore n = some k) (hsb : (c.hart n).sbEmpty = true) :
    c.fenceI n = ((c.modCore k Core.emptyI).modHart n Hart.serialised).retire n 4 1 := by
  have hheld := Chip.ready_held hr
  simp only [Chip.fenceI, hcore, hsb, hheld, Option.isSome_none, Bool.not_true, Bool.or_self, Bool.false_eq_true, if_false]
  rfl

end fence

/-- The hart's own translations gone (R114), as SFENCE.VMA with both operands x0 leaves it in M-mode. -/
def Hart.ownFenced (h : Hart) : Hart :=
  { h with
    itlb := h.itlb.filter fun e => e.virt
    dtlb := h.dtlb.filter fun e => e.virt
    tlb := h.tlb.filter fun e => e.virt
    pwc := h.pwc.filter fun e => e.virt || e.gst }

theorem Hart.fenced_own {h : Hart} (hv : h.virt = false) : h.fenced (h.fenceArg .sfenceVma 0 0) = h.ownFenced := by
  have harg : h.fenceArg .sfenceVma 0 0 = { gst := false, virt := false, addr := none, asid := none, vmid := none } := by
    simp [Hart.fenceArg, hv]
  have htlb (e : TlbEnt) : (!(h.fenceArg .sfenceVma 0 0).tlb e) = e.virt := by
    rw [harg, FenceArg.tlb]
    cases e.virt <;> rfl
  have hpwc (e : PwcEnt) : (!(h.fenceArg .sfenceVma 0 0).pwc e) = (e.virt || e.gst) := by
    rw [harg, FenceArg.pwc]
    cases e.virt <;> cases e.gst <;> rfl
  simp only [Hart.fenced, htlb, hpwc, Hart.ownFenced]

theorem Chip.sfence_own {c : Chip} {n : Nat} (hr : c.ready n = true) (hsb : (c.hart n).sbEmpty = true)
    (hm : (c.hart n).priv = .m) (hv : (c.hart n).virt = false) :
    c.sfence n .sfenceVma 0 0 =
      (c.modHart n fun h => { (h.fenced (h.fenceArg .sfenceVma 0 0)).dropEarly with refetch := h.refetch || true }).retire n 4 1 := by
  obtain ⟨core, hcore⟩ := Chip.ready_liveCore hr
  have hstop : (c.hart n).fenceStop .sfenceVma = none := by simp [Hart.fenceStop, hm, hv]
  have hheld := Chip.ready_held hr
  simp only [Chip.sfence, hcore, hstop, hheld, hsb, Option.isSome_none, Bool.not_true, Bool.and_false, Bool.or_self,
    Bool.false_eq_true, if_false]
  rfl

theorem Chip.sfence_only {c : Chip} {n : Nat} (hr : c.ready n = true) (hsb : (c.hart n).sbEmpty = true)
    (hm : (c.hart n).priv = .m) (hv : (c.hart n).virt = false) :
    OnlyHart c (c.sfence n .sfenceVma 0 0) n { (c.hart n).ownFenced with refetch := true, pc := (c.hart n).pc + 4 } := by
  have hend : ((c.hart n).fenced ((c.hart n).fenceArg .sfenceVma 0 0)).dropEarly = (c.hart n).ownFenced := by
    rw [Hart.fenced_own hv, Hart.dropEarly_of_nil (h := (c.hart n).ownFenced) (Chip.ready_early hr)]
  rw [Chip.sfence_own hr hsb hm hv]
  refine OnlyHart.modHart_retire (y := { (c.hart n).ownFenced with refetch := true }) ?_ 4 1 1
  dsimp only
  rw [hend, Bool.or_true]
  exact Hart.agrees.refl _

/-! Page walks. -/

/-- A fill is the first entry of its TLB, and ends the walk. -/
theorem Hart.fillTlb_head (h : Hart) (acc : Access) (e : TlbEnt) : ((h.fillTlb acc e).tlbs acc).head? = some e := by
  by_cases hacc : acc = .fetch
  · simp [Hart.fillTlb, Hart.tlbs, hacc]
  · simp [Hart.fillTlb, Hart.tlbs, hacc]

theorem Hart.fillTlb_walk (h : Hart) (acc : Access) (e : TlbEnt) : (h.fillTlb acc e).walk = none := by
  unfold Hart.fillTlb
  dsimp only
  split <;> rfl

theorem Hart.fillTlb_pc (h : Hart) (acc : Access) (e : TlbEnt) : (h.fillTlb acc e).pc = h.pc := by
  unfold Hart.fillTlb
  dsimp only
  split <;> rfl

section walk

variable {c d : Chip} {n : Nat} {w : Walk} (hlive : (c.hart n).live = true) (hw : (c.hart n).walk = some w)
include hlive hw

theorem Chip.pageWalk_eq : c.pageWalk n = c.doWalk n w := by
  simp only [Chip.pageWalk, hw, hlive, if_true]

theorem Chip.pageWalk_fill {e : TlbEnt} (he : c.fullWalk n w.va w.acc w.wrong w.guest w.exec = (.fill e, d)) :
    c.pageWalk n = d.modHart n (·.fillTlb w.acc e) := by
  simp only [Chip.pageWalk_eq hlive hw, Chip.doWalk, he]

/-- A walk that ends without a translation, and without an exception. -/
theorem Chip.pageWalk_ends (he : c.fullWalk n w.va w.acc w.wrong w.guest w.exec = (.quit, d) ∨
      ∃ x g, c.fullWalk n w.va w.acc w.wrong w.guest w.exec = (.trap x g, d) ∧ w.wrong = true) :
    c.pageWalk n = d.modHart n fun h => { h with walk := none } := by
  rw [Chip.pageWalk_eq hlive hw]
  rcases he with he | ⟨x, g, he, hwrong⟩
  · simp only [Chip.doWalk, he]
  · simp only [Chip.doWalk, he]
    exact if_pos hwrong

end walk

/-- Settles O12: the fences, then the ends of a walk. -/
theorem fencesAndPageWalks : Obligations.FencesAndPageWalks := by
  refine ⟨fun s n k pred succ => ?_, fun s n w d => ?_⟩
  · intro h moved hr hcore
    refine ⟨fun hsb hp hs => ?_, fun hgo => ?_, ?_, fun hsb => ?_, fun hsb hm hv => ?_⟩
    · exact Runs.of_ready (·.fence n pred succ false) hr rfl rfl (Chip.fence_waits hr hsb hp hs)
    · exact RunsTo.hart_of_ready (·.fence n pred succ false) hr rfl (Chip.fence_only hr (.inr hgo))
    · exact RunsTo.hart_of_ready (·.fence n pred succ true) hr rfl (Chip.fence_only hr (.inl rfl))
    · refine RunsTo.of_ready_fuseless (·.fenceI n) hr rfl ?_ fun _ _ hd => hd
      rw [Chip.fenceI_restarts hr hcore hsb]
      have hret := ((s.chip.modCore k Core.emptyI).modHart n Hart.serialised).retire_agrees n 4 1 1
      rw [Chip.modHart_self] at hret
      have hcore' (j : Nat) : (((s.chip.modCore k Core.emptyI).modHart n Hart.serialised).retire n 4 1).core j =
        (s.chip.modCore k Core.emptyI).core j := rfl
      refine ⟨hret.field (·.refetch), hret.pc, rfl, rfl, ?_, fun j hj => ?_⟩
      · rw [hcore', Chip.modCore_self, Core.emptyI]
      · rw [hcore', Chip.modCore_ne hj]
    · exact RunsTo.hart_of_ready (·.sfence n .sfenceVma 0 0) hr rfl (Chip.sfence_only hr hsb hm hv)
  · intro ended hlive hw
    have hended (he : s.chip.fullWalk n w.va w.acc w.wrong w.guest w.exec = (.quit, d) ∨
        ∃ x g, s.chip.fullWalk n w.va w.acc w.wrong w.guest w.exec = (.trap x g, d) ∧ w.wrong = true) :
        RunsTo (.pageWalk n) s ended := by
      refine RunsTo.of_fuseless (·.pageWalk n) rfl ?_ fun _ _ hd => hd
      rw [Chip.pageWalk_ends hlive hw he]
      have hhart := d.modHart_self n fun h => { h with walk := none }
      exact ⟨congrArg (·.tlb) hhart, congrArg (·.walk) hhart, congrArg (·.pc) hhart, congrArg (·.csrs) hhart, rfl⟩
    refine ⟨fun e he => ?_, fun he => hended (.inl he), fun x g he hwrong => hended (.inr ⟨x, g, he, hwrong⟩)⟩
    refine RunsTo.of_fuseless (·.pageWalk n) rfl ?_ fun _ _ hd => hd
    rw [Chip.pageWalk_fill hlive hw he]
    have hhart := d.modHart_self n (·.fillTlb w.acc e)
    refine ⟨?_, ?_, ?_, fun j hj => Chip.modHart_ne hj d _, rfl⟩
    · rw [hhart, Hart.fillTlb_head]
    · rw [hhart, Hart.fillTlb_walk]
    · rw [hhart, Hart.fillTlb_pc]

end Sys2Proof.Machine
end

section
/-! Requests of an L2 to the homes, and the cache-block operations (R117, R173). -/

namespace Sys2Proof.Machine

/-! A request sent. -/

/-- An L2 may ask for a line: a request entry is free, and neither a request nor a writeback of the line is on its way. -/
def Core.mayAsk (x : Core) (line : Nat) : Prop := x.reqs.length < 48 ∧ x.pending line = none ∧ x.buffered line = none

/-- A core with a further request. -/
def Core.asks (x : Core) (r : L2Req) : Core := { x with reqs := x.reqs ++ [r] }

theorem Core.mayAsk.pending {x : Core} {line : Nat} (h : x.mayAsk line) : x.pending line = none := h.2.1

theorem Core.asks_pending {x : Core} {r : L2Req} (h : x.pending r.line = none) : (x.asks r).pending r.line = some r := by
  rw [Core.pending] at h ⊢
  rw [Core.asks, List.find?_append, h]
  simp

theorem Core.mayAsk.not_refused {x : Core} {line : Nat} (h : x.mayAsk line) :
    ¬ ((decide (48 ≤ x.reqs.length) || (x.pending line).isSome || (x.buffered line).isSome) = true) := by
  obtain ⟨hlen, hpend, hwb⟩ := h
  have hroom : decide (48 ≤ x.reqs.length) = false := decide_eq_false (by omega)
  simp [hroom, hpend, hwb]

section ask

variable {c : Chip} {k line : Nat} (h : (c.core k).mayAsk line)
include h

theorem Chip.ask_sends (kind : MsgKind) (maint : Maint) :
    c.ask k line kind false maint = (c.modCore k (·.asks { line := line, kind := kind, maint := maint })).send
      { kind := kind, src := .core k, dst := .home (homeSlice line), line := line, maint := maint, clos := c.coreClos k } :=
  if_neg h.not_refused

theorem Chip.ask_core (kind : MsgKind) (maint : Maint) :
    (c.ask k line kind false maint).core k = (c.core k).asks { line := line, kind := kind, maint := maint } := by
  rw [Chip.ask_sends h]
  exact Chip.modCore_self c k (·.asks { line := line, kind := kind, maint := maint })

theorem Chip.ownZero_sends (hline : (c.core k).line line = none) :
    c.ownZero k line = (c.modCore k (·.asks { line := line, kind := .rdOwn, zero := true })).send
      { kind := .rdOwn, src := .core k, dst := .home (homeSlice line), line := line, zero := true, clos := c.coreClos k } := by
  have hlacks : ¬ ((c.core k).line line).isSome = true := by simp [hline]
  exact (if_neg hlacks).trans (if_neg h.not_refused)

end ask

/-! Cache-block operations. -/

theorem Hart.cboField_machine {h : Hart} (hm : h.priv = .m) (hi lo : Nat) :
    h.cboField hi lo = (some (2 ^ (hi + 1 - lo) - 1), false) := by
  simp only [Hart.cboField, hm]

section cbo

variable {c : Chip} {n k : Nat} (hr : c.ready n = true) (hcore : c.liveCore n = some k) (hsb : (c.hart n).sbEmpty = true)
include hr hcore hsb

/-- A cache-block operation on memory sends its request, and holds the line of its block (R173). -/
theorem Chip.cboSend_sends {pa rs1 : Nat} (hcbo : (c.hart n).cbo = none)
    (htr : c.translate n ((c.hart n).addr rs1 0 / 64 * 64) .load = .ok pa .pma) (hmem : c.region pa = .memory)
    (hask : (c.core k).mayAsk (pa / 64)) (mt : Maint) :
    c.cboSend n rs1 mt = (c.ask k (pa / 64) .rdOnce false mt).modHart n fun h => { h with cbo := some (pa / 64) } := by
  have hheld := Chip.ready_held hr
  have hpend : ((c.ask k (pa / 64) .rdOnce false mt).core k).pending (pa / 64) =
      some { line := pa / 64, kind := .rdOnce, maint := mt } := by
    rw [Chip.ask_core hask]
    exact Core.asks_pending (r := { line := pa / 64, kind := .rdOnce, maint := mt }) hask.pending
  simp only [Chip.cboSend, hcore, hsb, hheld, hcbo, htr, hmem, hpend, Option.isSome_none, Option.isSome_some, Bool.not_true,
    Bool.or_self, Bool.false_eq_true, ne_eq, not_true_eq_false, if_false, if_true]

/-- After its Cmp a cache-block operation retires. -/
theorem Chip.cboSend_retires {line rs1 : Nat} (hcbo : (c.hart n).cbo = some line) (hpend : (c.core k).pending line = none) (mt : Maint) :
    OnlyHart c (c.cboSend n rs1 mt) n { c.hart n with cbo := none, pc := (c.hart n).pc + 4 } := by
  have hheld := Chip.ready_held hr
  have hcboSend : c.cboSend n rs1 mt = (c.modHart n fun h => { h with cbo := none }).retire n 4 1 := by
    simp only [Chip.cboSend, hcore, hsb, hheld, hcbo, hpend, Option.isSome_none, Bool.not_true, Bool.or_self, Bool.false_eq_true,
      if_false]
  rw [hcboSend]
  exact c.retire_only n (fun h => { h with cbo := none }) 4 1 1

end cbo

section machine

variable {c : Chip} {n : Nat} (hm : (c.hart n).priv = .m) (rs1 : Nat)
include hm

/-- In M-mode no envcfg denies a cache-block operation, nor turns cbo.inval into cbo.flush. -/
theorem Chip.cboClean_machine : c.cboClean n rs1 = c.cboSend n rs1 .clean := by
  simp [Chip.cboClean, Hart.cboField_machine hm]

theorem Chip.cboFlush_machine : c.cboFlush n rs1 = c.cboSend n rs1 .flush := by
  simp [Chip.cboFlush, Hart.cboField_machine hm]

theorem Chip.cboInval_machine : c.cboInval n rs1 = c.cboSend n rs1 .inval := by
  simp [Chip.cboInval, Hart.cboField_machine hm]

end machine

/-! Zeroing a line. -/

section zero

variable {c : Chip} {n k pa rs1 : Nat} (hr : c.ready n = true) (hcore : c.liveCore n = some k) (hsb : (c.hart n).sbEmpty = true)
  (hm : (c.hart n).priv = .m) (hmem : c.region pa = .memory)
  (htr : c.translate n ((c.hart n).addr rs1 0 / 64 * 64) .store = .ok pa .pma)
include hr hcore hsb hm hmem htr

/-- Zero bytes into a line of which the core holds M or E. -/
def Core.zeroed (x : Core) (line : Nat) : Core := x.setLine line fun l => some { l with st := .m, data := 0, poison := false }

theorem Chip.cboZero_stores {l : L2Line} (hline : (c.core k).line (pa / 64) = some l) (hst : l.st = .m ∨ l.st = .e)
    (hwb : (c.core k).buffered (pa / 64) = none) :
    c.cboZero n rs1 = (((c.modCore k (·.zeroed (pa / 64))).useD k (pa / 64)).modHart n
      (·.violated [(pa / 64 * 64, 64)])).retire n 4 1 := by
  have hheld := Chip.ready_held hr
  simp only [Chip.cboZero, hcore, Hart.cboField_machine hm, hsb, hheld, htr, hmem, Core.writable_of_owned hline hst hwb,
    Option.isSome_none, Bool.not_true, Bool.or_self, Bool.false_eq_true, reduceCtorEq, ne_eq, not_true_eq_false, or_self, if_false]
  rfl

theorem Chip.cboZero_asks (hline : (c.core k).line (pa / 64) = none) : c.cboZero n rs1 = c.ownZero k (pa / 64) := by
  have hheld := Chip.ready_held hr
  have hlacks : (c.core k).writable (pa / 64) = none := by rw [Core.writable, hline]; rfl
  simp only [Chip.cboZero, hcore, Hart.cboField_machine hm, hsb, hheld, htr, hmem, hlacks,
    Option.isSome_none, Bool.not_true, Bool.or_self, Bool.false_eq_true, reduceCtorEq, ne_eq, not_true_eq_false, or_self, if_false]

end zero

theorem Chip.useD_mesh (c : Chip) (k n : Nat) : (c.useD k n).mesh = c.mesh := by
  have hmesh := congrArg Chip.mesh (c.useD_aside k n)
  exact hmesh

/-- What zeroing a line leaves. -/
theorem Chip.zeroed_leaves {c : Chip} {n k line : Nat} {l : L2Line} (he : (c.hart n).early = [])
    (hline : (c.core k).line line = some l) (spans : List (Nat × Nat)) :
    let d := (((c.modCore k (·.zeroed line)).useD k line).modHart n (·.violated spans)).retire n 4 1
    (d.core k).line line = some { l with st := .m, data := 0, poison := false, l1d := true } ∧
      (d.hart n).pc = (c.hart n).pc + 4 ∧ d.mem = c.mem ∧ d.mesh = c.mesh := by
  intro d
  obtain ⟨-, -, hl⟩ := Core.find_of_line hline
  have hzero : ((c.modCore k (·.zeroed line)).core k).line line = some { l with st := .m, data := 0, poison := false } := by
    rw [Chip.modCore_self]
    exact Core.line_setLine hline rfl hl
  obtain ⟨r, hhart⟩ := (c.modCore k (·.zeroed line)).useD_hart k line n
  have hviol := Hart.violated_of_nil (h := { c.hart n with resv := r }) he spans
  have hret := (((c.modCore k (·.zeroed line)).useD k line).modHart n (·.violated spans)).retire_agrees n 4 1 1
  have hpc : ((((c.modCore k (·.zeroed line)).useD k line).modHart n (·.violated spans)).hart n).pc = (c.hart n).pc := by
    rw [Chip.modHart_self, hhart]
    exact congrArg (·.pc) hviol
  exact ⟨Chip.useD_line hzero, hret.pc.trans (congrArg (· + 4#64) hpc), Chip.useD_mem _ k line, Chip.useD_mesh _ k line⟩

/-- Settles O13: the requests of the three operations, their ends, and cbo.zero on a line held and on one that is not. -/
theorem cacheBlockOperationsReachHome : Obligations.CacheBlockOperationsReachHome := by
  intro s n k pa rs1 l h va line msg sent hr hcore hsb hm hmem
  refine ⟨fun hcbo htr hlen hpend hwb => ?_, fun hcbo hpend => ?_, fun htr hwb => ⟨fun hline hst => ?_, fun hline hlen hpend => ?_⟩⟩
  · have hask : (s.chip.core k).mayAsk line := ⟨hlen, hpend, hwb⟩
    have hsent (mt : Maint) : sent mt (s.chip.cboSend n rs1 mt) := by
      rw [Chip.cboSend_sends hr hcore hsb hcbo htr hmem hask, Chip.ask_sends hask]
      have hhart := ((s.chip.modCore k (·.asks { line := line, kind := .rdOnce, maint := mt })).send
        { kind := .rdOnce, src := .core k, dst := .home (homeSlice line), line := line, maint := mt,
          clos := s.chip.coreClos k }).modHart_self n fun h => { h with cbo := some line }
      exact ⟨rfl, congrArg (·.cbo) hhart, congrArg (·.pc) hhart, rfl⟩
    refine ⟨RunsTo.of_ready_fuseless (·.cboClean n rs1) hr rfl ?_ fun _ _ hd => hd,
      RunsTo.of_ready_fuseless (·.cboFlush n rs1) hr rfl ?_ fun _ _ hd => hd,
      RunsTo.of_ready_fuseless (·.cboInval n rs1) hr rfl ?_ fun _ _ hd => hd⟩
    · rw [Chip.cboClean_machine hm]
      exact hsent .clean
    · rw [Chip.cboFlush_machine hm]
      exact hsent .flush
    · rw [Chip.cboInval_machine hm]
      exact hsent .inval
  · have hfin (mt : Maint) := Chip.cboSend_retires (rs1 := rs1) hr hcore hsb hcbo hpend mt
    refine ⟨RunsTo.hart_of_ready (·.cboClean n rs1) hr rfl ?_, RunsTo.hart_of_ready (·.cboFlush n rs1) hr rfl ?_,
      RunsTo.hart_of_ready (·.cboInval n rs1) hr rfl ?_⟩
    · rw [Chip.cboClean_machine hm]
      exact hfin .clean
    · rw [Chip.cboFlush_machine hm]
      exact hfin .flush
    · rw [Chip.cboInval_machine hm]
      exact hfin .inval
  · refine RunsTo.of_ready_fuseless (·.cboZero n rs1) hr rfl ?_ fun _ _ hd => hd
    rw [Chip.cboZero_stores hr hcore hsb hm hmem htr hline hst hwb]
    exact Chip.zeroed_leaves (Chip.ready_early hr) hline _
  · refine RunsTo.of_ready_fuseless (·.cboZero n rs1) hr rfl ?_ fun _ _ hd => hd
    have hask : (s.chip.core k).mayAsk line := ⟨hlen, hpend, hwb⟩
    rw [Chip.cboZero_asks hr hcore hsb hm hmem htr hline, Chip.ownZero_sends hask hline]
    exact ⟨rfl, rfl, rfl⟩

end Sys2Proof.Machine
end

section
/-! Snoops at an L2 (R116, R155, R156, R163, R166): what an L2 answers, and what it keeps. -/

namespace Sys2Proof.Machine

/-! The device around a snoop. -/

@[simp] theorem Chip.countSnoop_aside (c : Chip) (x um : Nat) : (c.countSnoop x um).aside = c.aside := by
  unfold Chip.countSnoop
  split <;> rfl

@[simp] theorem Chip.loseEarly_aside (c : Chip) (x line : Nat) : (c.loseEarly x line).aside = c.aside := by
  unfold Chip.loseEarly
  split <;> rfl

theorem Chip.core_of_aside {c d : Chip} (h : d.aside = c.aside) (x : Nat) : d.core x = c.core x := by
  have hcores := congrArg Chip.cores h
  exact congrArg (fun m => Sparse.at m {} x) hcores

theorem Chip.mesh_of_aside {c d : Chip} (h : d.aside = c.aside) : d.mesh = c.mesh := by
  have hmesh := congrArg Chip.mesh h
  exact hmesh

theorem Chip.mt_of_aside {c d : Chip} (h : d.aside = c.aside) : d.mt = c.mt := by
  have hmt := congrArg Chip.mt h
  exact hmt

@[simp] theorem Chip.arrive_core (c : Chip) (m : Msg) (x : Nat) : (c.arrive m).core x = c.core x := by
  unfold Chip.arrive
  split <;> rfl

@[simp] theorem Chip.arrive_mt (c : Chip) (m : Msg) : (c.arrive m).mt = c.mt := by
  unfold Chip.arrive
  split <;> rfl

/-- A device after a snoop that takes its line has been counted, and has been felt by the core's hart (R113, R116, R450). -/
def Chip.snooped (c : Chip) (x um : Nat) (m : Msg) : Chip := (((c.take m).countSnoop x um).dropResv x m.line).loseEarly x m.line

theorem Chip.snooped_aside (c : Chip) (x um : Nat) (m : Msg) : (c.snooped x um m).aside = (c.take m).aside := by
  rw [Chip.snooped, Chip.loseEarly_aside, Chip.dropResv_aside, Chip.countSnoop_aside]

/-! The line. -/

theorem Core.setLine_fills (x : Core) (n : Nat) (f : L2Line → Option L2Line) : (x.setLine n f).fills = x.fills := by
  unfold Core.setLine
  split
  · rfl
  · split <;> rfl

theorem Core.line_of_find {x : Core} {n k : Nat} {l : L2Line} (h : x.find n = some (k, l)) : x.line n = some l := by
  rw [Core.line, h]
  rfl

/-- A line that its L2 gives up. -/
def Core.gives (x : Core) (line : Nat) : Core := x.setLine line fun _ => none

/-- A line given up is gone from its place. -/
theorem Core.gives_find {x : Core} {line k : Nat} {l : L2Line} (h : x.find line = some (k, l)) :
    Sparse.find (x.gives line).l2 k = none := by
  have hdel : (x.gives line).l2 = Sparse.del x.l2 k := by simp only [Core.gives, Core.setLine, h]
  rw [hdel, Sparse.find_del, if_pos rfl]

theorem Core.found_of_find {x : Core} {line k : Nat} {l : L2Line} (h : x.find line = some (k, l)) (hwb : x.buffered line = none) :
    x.found line = some (l.st, l.data, l.poison) := by
  have hline : x.line line = some l := Core.line_of_find h
  simp only [Core.found, hline, hwb]

theorem Core.line_restate {x : Core} {line k : Nat} {l : L2Line} (h : x.find line = some (k, l)) (f : L2State → L2State) :
    (x.restate line f).line line = some { l with st := f l.st } := by
  have hline : x.line line = some l := Core.line_of_find h
  obtain ⟨-, -, hn⟩ := Core.find_of_line hline
  exact (Core.line_congr rfl line).trans (Core.line_setLine hline rfl hn)

/-- With no Data waiting there is none to place. -/
theorem Chip.refills_none {c : Chip} {x : Nat} (h : (c.core x).fills = []) : c.refills x = c := by
  rw [Chip.refills, h]
  rfl

/-! What a snoop comes to. -/

section snoop

variable {c : Chip} {x k : Nat} {m : Msg} {l : L2Line} (hfind : (c.core x).find m.line = some (k, l))
  (hwb : (c.core x).buffered m.line = none)
include hfind hwb

theorem Chip.l2FwdShared_shares (hclean : m.clean = false) (honce : m.once = false) :
    c.l2FwdShared x m = ((((c.take m).countSnoop x 1).modCore x (·.restate m.line L2State.forwarded)).send
      (fwdMsg x m .s l.data l.poison)).send (snpNo x m (if l.st.dirty then .o else .s)) := by
  have hcore : ((c.take m).countSnoop x 1).core x = c.core x := Chip.core_of_aside (c := c.take m) (Chip.countSnoop_aside _ x 1) x
  simp only [Chip.l2FwdShared, hcore, Core.found_of_find hfind hwb, hclean, honce, Bool.false_eq_true, if_false]

variable (hfills : (c.core x).fills = [])
include hfills

theorem Chip.l2FwdOwn_gives :
    c.l2FwdOwn x m = ((c.snooped x 2 m).modCore x (·.gives m.line)).send (fwdMsg x m .m l.data l.poison) := by
  have hcore : (c.snooped x 2 m).core x = c.core x := Chip.core_of_aside (c := c.take m) (c.snooped_aside x 2 m) x
  have hop : c.l2FwdOwn x m =
      (((c.snooped x 2 m).modCore x (·.gives m.line)).send (fwdMsg x m .m l.data l.poison)).refills x := by
    rw [Chip.snooped] at hcore ⊢
    simp only [Chip.l2FwdOwn, hcore, Core.found_of_find hfind hwb]
    rfl
  rw [hop]
  refine Chip.refills_none ?_
  have hgiven := Chip.modCore_self (c.snooped x 2 m) x (·.gives m.line)
  exact (congrArg (·.fills) hgiven).trans ((Core.setLine_fills _ _ _).trans (hcore ▸ hfills))

theorem Chip.l2Inval_gives :
    c.l2Inval x m = ((c.snooped x 4 m).modCore x (·.gives m.line)).send
      (if m.rcl && l.st.dirty then snpData x m.line l.data l.poison else snpNo x m .i) := by
  have hcore : (c.snooped x 4 m).core x = c.core x := Chip.core_of_aside (c := c.take m) (c.snooped_aside x 4 m) x
  have hop : c.l2Inval x m = (((c.snooped x 4 m).modCore x (·.gives m.line)).send
      (if m.rcl && l.st.dirty then snpData x m.line l.data l.poison else snpNo x m .i)).refills x := by
    rw [Chip.snooped] at hcore ⊢
    simp only [Chip.l2Inval, hcore, Core.found_of_find hfind hwb]
    rfl
  rw [hop]
  refine Chip.refills_none ?_
  have hgiven := Chip.modCore_self (c.snooped x 4 m) x (·.gives m.line)
  exact (congrArg (·.fills) hgiven).trans ((Core.setLine_fills _ _ _).trans (hcore ▸ hfills))

end snoop

/-- What giving a line up leaves, with the message that goes out. -/
theorem Chip.gives_answers {c d : Chip} {x k : Nat} {m : Msg} {l : L2Line} (hd : d.aside = ((c.arrive m).take m).aside)
    (hfind : (c.core x).find m.line = some (k, l)) (msg : Msg) :
    let e := (d.modCore x (·.gives m.line)).send msg
    Sparse.find (e.core x).l2 k = none ∧ c.answers e m [msg] := by
  intro e
  have hcore : d.core x = c.core x := (Chip.core_of_aside hd x).trans (c.arrive_core m x)
  have hgiven : e.core x = (c.core x).gives m.line := (Chip.modCore_self d x (·.gives m.line)).trans (by rw [hcore])
  have hmt : d.mt = c.mt := (Chip.mt_of_aside hd).trans (c.arrive_mt m)
  refine ⟨?_, ?_⟩
  · rw [hgiven]
    exact Core.gives_find hfind
  · have hmesh : e.mesh = d.mesh ++ [{ msg with birth := d.mt / 32 }] := rfl
    rw [Chip.answers, hmesh, Chip.mesh_of_aside hd, hmt]
    rfl

section served

variable {c : Chip} {x k : Nat} {m : Msg} {l : L2Line} (hdst : m.dst = .core x) (hfind : (c.core x).find m.line = some (k, l))
include hdst

theorem Chip.snoops_held (hresv : c.resvHolds x m.line = true) :
    let held := ((c.arrive m).take m).modCore x fun k => { k with heldSnp := k.heldSnp ++ [m] }
    c.invalAt m = held ∧ c.fwdOwnAt m = held := by
  constructor
  · simp only [Chip.invalAt, hdst, hresv, if_true]
  · simp only [Chip.fwdOwnAt, hdst, hresv, if_true]

omit hdst in
theorem Chip.snoops_held_leaves {d : Chip} (hd : d = ((c.arrive m).take m).modCore x fun k => { k with heldSnp := k.heldSnp ++ [m] }) :
    (d.core x).heldSnp = (c.core x).heldSnp ++ [m] ∧ c.answers d m [] := by
  have hcore := Chip.modCore_self ((c.arrive m).take m) x fun k => { k with heldSnp := k.heldSnp ++ [m] }
  have hsame : ((c.arrive m).take m).core x = c.core x := c.arrive_core m x
  rw [hsame] at hcore
  rw [hd]
  exact ⟨congrArg (·.heldSnp) hcore, (List.append_nil _).symm⟩

variable (hwb : (c.core x).buffered m.line = none)
include hfind hwb

theorem Chip.fwdSharedAt_leaves (hclean : m.clean = false) (honce : m.once = false) :
    ((c.fwdSharedAt m).core x).line m.line = some { l with st := l.st.forwarded } ∧
      c.answers (c.fwdSharedAt m) m [fwdMsg x m .s l.data l.poison, snpNo x m (if l.st.dirty then .o else .s)] := by
  have hserve : c.fwdSharedAt m = (c.arrive m).l2FwdShared x m := by simp only [Chip.fwdSharedAt, hdst]
  have harrive := c.arrive_core m x
  have hop := Chip.l2FwdShared_shares (c := c.arrive m) (harrive ▸ hfind) (harrive ▸ hwb) hclean honce
  have haside := ((c.arrive m).take m).countSnoop_aside x 1
  have hcore : (((c.arrive m).take m).countSnoop x 1).core x = c.core x := (Chip.core_of_aside haside x).trans harrive
  have hmt : (((c.arrive m).take m).countSnoop x 1).mt = c.mt := (Chip.mt_of_aside haside).trans (c.arrive_mt m)
  rw [hserve, hop]
  constructor
  · have hgiven := Chip.modCore_self (((c.arrive m).take m).countSnoop x 1) x (·.restate m.line L2State.forwarded)
    rw [hcore] at hgiven
    exact (congrArg (·.line m.line) hgiven).trans (Core.line_restate hfind _)
  · rw [Chip.answers, Chip.send_mesh, Chip.send_mesh]
    have hmesh := Chip.mesh_of_aside haside
    show ((((c.arrive m).take m).countSnoop x 1).mesh ++ [_]) ++ [_] = _
    rw [hmesh, List.append_assoc]
    simp only [Chip.send_mt, Chip.modCore_mt, hmt]
    rfl

variable (hfills : (c.core x).fills = []) (hresv : c.resvHolds x m.line = false)
include hfills hresv

theorem Chip.fwdOwnAt_leaves :
    Sparse.find ((c.fwdOwnAt m).core x).l2 k = none ∧ c.answers (c.fwdOwnAt m) m [fwdMsg x m .m l.data l.poison] := by
  have hserve : c.fwdOwnAt m = (c.arrive m).l2FwdOwn x m := by
    simp only [Chip.fwdOwnAt, hdst, hresv, Bool.false_eq_true, if_false]
  have harrive := c.arrive_core m x
  rw [hserve, Chip.l2FwdOwn_gives (harrive ▸ hfind) (harrive ▸ hwb) (harrive ▸ hfills)]
  exact Chip.gives_answers (Chip.snooped_aside _ x 2 m) hfind _

theorem Chip.invalAt_leaves :
    Sparse.find ((c.invalAt m).core x).l2 k = none ∧ c.answers (c.invalAt m) m
      [if m.rcl && l.st.dirty then snpData x m.line l.data l.poison else snpNo x m .i] := by
  have hserve : c.invalAt m = (c.arrive m).l2Inval x m := by
    simp only [Chip.invalAt, hdst, hresv, Bool.false_eq_true, if_false]
  have harrive := c.arrive_core m x
  rw [hserve, Chip.l2Inval_gives (harrive ▸ hfind) (harrive ▸ hwb) (harrive ▸ hfills)]
  exact Chip.gives_answers (Chip.snooped_aside _ x 4 m) hfind _

end served

/-- Settles O27: the line shared, given up to a requester, given up to the home or dropped, and the snoop held back. -/
theorem snoopsMoveLines : Obligations.SnoopsMoveLines := by
  intro s x k m l c q no fwd hdst hfind hwb hfills
  refine ⟨fun hclean honce => ?_, fun hresv => ?_, fun hresv hkeep => ?_, fun hresv hrcl hdirty => ?_, fun hresv => ⟨?_, ?_⟩⟩
  · refine RunsTo.of_fuseless (·.fwdSharedAt { m with kind := .fwdShared }) rfl ?_ fun _ _ hd => hd
    have hleaves := Chip.fwdSharedAt_leaves (c := c) (m := q .fwdShared) hdst hfind hwb hclean honce
    exact hleaves
  · exact RunsTo.of_fuseless (·.fwdOwnAt { m with kind := .fwdOwn }) rfl
      (Chip.fwdOwnAt_leaves (c := c) (m := q .fwdOwn) hdst hfind hwb hfills hresv) fun _ _ hd => hd
  · refine RunsTo.of_fuseless (·.invalAt { m with kind := .inval }) rfl ?_ fun _ _ hd => hd
    have hleaves := Chip.invalAt_leaves (c := c) (m := q .inval) hdst hfind hwb hfills hresv
    have hclean : ((q .inval).rcl && l.st.dirty) = false := by rcases hkeep with h | h <;> simp [q, h]
    rw [hclean] at hleaves
    exact hleaves
  · refine RunsTo.of_fuseless (·.invalAt { m with kind := .inval }) rfl ?_ fun _ _ hd => hd
    have hleaves := Chip.invalAt_leaves (c := c) (m := q .inval) hdst hfind hwb hfills hresv
    have hrecall : ((q .inval).rcl && l.st.dirty) = true := by simp [q, hrcl, hdirty]
    rw [hrecall] at hleaves
    exact hleaves
  · refine RunsTo.of_fuseless (·.invalAt { m with kind := .inval }) rfl ?_ fun _ _ hd => hd
    exact Chip.snoops_held_leaves (m := q .inval) (Chip.snoops_held (c := c) (m := q .inval) hdst hresv).1
  · refine RunsTo.of_fuseless (·.fwdOwnAt { m with kind := .fwdOwn }) rfl ?_ fun _ _ hd => hd
    exact Chip.snoops_held_leaves (m := q .fwdOwn) (Chip.snoops_held (c := c) (m := q .fwdOwn) hdst hresv).2

end Sys2Proof.Machine
end

section
/-! Redirects, prefetches, load redo and the release of held snoops (R97, R99-R101, R107, R113, R116). -/

namespace Sys2Proof.Machine

/-! Redirects. -/

/-- History and return address stack as the last wrong path found them (R97). -/
def Pred.repaired (p : Pred) : Pred :=
  match p.saved with
  | some (hist, ras) => { p with hist := hist, ras := ras, saved := none }
  | none => p

/-- A walk that no wrong path asked for. -/
def Hart.rightWalk (h : Hart) : Option Walk :=
  match h.walk with
  | some w => if w.wrong then none else some w
  | none => none

/-- A hart without what a wrong path left (R97, R101). -/
def Hart.repaired (h : Hart) : Hart :=
  { h with sb := h.sb.filter fun e => !e.wrong, walk := h.rightWalk, pred := h.pred.repaired }

/-- A walk of a wrong path ends. -/
theorem Hart.dropWrong_walk (h : Hart) :
    (match h.dropWrong.walk with
      | some w => if w.wrong then { h.dropWrong with walk := none } else h.dropWrong
      | none => h.dropWrong) = { h.dropWrong with walk := h.rightWalk } := by
  have hsame : h.dropWrong.walk = h.walk := rfl
  rcases hw : h.walk with _ | w
  · simp only [hsame, hw, Hart.rightWalk]
    rw [← hw]
    rfl
  · cases hwrong : w.wrong
    · simp only [hsame, hw, Hart.rightWalk, hwrong, Bool.false_eq_true, if_false]
      rw [← hw]
      rfl
    · simp only [hsame, hw, Hart.rightWalk, hwrong, if_true]

/-- History and return address stack restored in a hart, as a redirect does it. -/
def Hart.repairPred (h : Hart) : Hart :=
  match h.pred.saved with
  | some (hist, ras) => { h with pred := { h.pred with hist := hist, ras := ras, saved := none } }
  | none => h

theorem Hart.repairPred_eq (h : Hart) : h.repairPred = { h with pred := h.pred.repaired } := by
  unfold Hart.repairPred Pred.repaired
  rcases h.pred.saved with _ | ⟨hist, ras⟩ <;> rfl

/-- A redirect that is taken leaves its hart repaired, but for the events that it counts. -/
theorem Chip.branchRedirect_only {c : Chip} {n : Nat} {a : RedirAt} {t : DWord} (hlive : (c.hart n).live = true)
    (hpc : (c.hart n).pc = t) (hdet : (c.hart n).csrFld 0x7C0 0 0 = 0 ∨ detRedirect a (c.hart n).cf = true) :
    OnlyHart c (c.branchRedirect n a t) n (c.hart n).repaired := by
  have htaken : ((c.hart n).live && decide ((c.hart n).pc = t) &&
      (decide ((c.hart n).csrFld cBpctl 0 0 = 0) || detRedirect a (c.hart n).cf)) = true := by
    rw [hlive, decide_eq_true hpc]
    rcases hdet with h | h
    · rw [show (c.hart n).csrFld cBpctl 0 0 = 0 from h]; rfl
    · rw [h, Bool.or_true]; rfl
  refine (OnlyHart.refl c n).modHart ?_
  generalize c.hart n = h at htaken ⊢
  rw [if_pos htaken]
  extract_lets h1 h2 p h3
  have hwalk : h2 = { h.dropWrong with walk := h.rightWalk } := h.dropWrong_walk
  have hrep : h3 = h.repaired := (congrArg Hart.repairPred hwalk).trans (Hart.repairPred_eq _)
  rw [hrep]
  cases a with
  | d2 => exact (Hart.agrees.refl h.repaired).event 0x104 2
  | ex => exact ((Hart.agrees.refl h.repaired).event 0x103 15).event 0x104 4

/-- A redirect to another pc, or one that DET forbids, leaves its hart. -/
theorem Chip.branchRedirect_stays {c : Chip} {n : Nat} {a : RedirAt} {t : DWord}
    (hno : (c.hart n).pc ≠ t ∨ ((c.hart n).csrFld 0x7C0 0 0 = 1 ∧ detRedirect a (c.hart n).cf = false)) :
    OnlyHart c (c.branchRedirect n a t) n (c.hart n) := by
  have hnot : ¬ ((c.hart n).live && decide ((c.hart n).pc = t) &&
      (decide ((c.hart n).csrFld cBpctl 0 0 = 0) || detRedirect a (c.hart n).cf)) = true := by
    rcases hno with h | ⟨hdet, h⟩
    · simp [h]
    · simp [h, show (c.hart n).csrFld cBpctl 0 0 = 1 from hdet]
  refine (OnlyHart.refl c n).modHart ?_
  rw [if_neg hnot]
  exact Hart.agrees.refl _

/-! Load redo. -/

/-- Early loads of which one has lost its line are discarded, with every younger one (R113). -/
theorem Chip.orderRedo_only {c : Chip} {n : Nat} (hlive : (c.hart n).live = true) (line : Nat) :
    OnlyHart c (c.orderRedo n line) n
      (if (c.hart n).early.any (fun e => e.lost && e.spans.any fun p => decide (p.1 / 64 = line)) then { c.hart n with early := [] }
        else c.hart n) := by
  refine (OnlyHart.refl c n).modHart ?_
  simp only [hlive, Bool.true_and]
  split
  · exact Hart.event_agrees (c.hart n).dropEarly 0x207 2
  · exact Hart.agrees.refl _

/-! Prefetches. -/

theorem Chip.prefetchLine_off {c : Chip} {n : Nat} (hoff : (c.hart n).csrFld 0x7C0 1 0 ≠ 0) (line : Nat) :
    c.prefetchLine n line = c := by
  unfold Chip.prefetchLine
  split
  · rfl
  · exact if_pos (.inl hoff)

theorem Chip.prefetchLine_asks {c : Chip} {n k line : Nat} (hcore : c.liveCore n = some k) (hon : (c.hart n).csrFld 0x7C0 1 0 = 0)
    (hmem : c.region (line * 64) = .memory) (hline : (c.core k).line line = none) :
    c.prefetchLine n line = (c.ask k line .rdShared).modHart n fun h =>
      { (h.event 0x301 4).event 0x302 4 with pred := { h.pred with train := NatSet.insert h.pred.train line } } := by
  have hgo : ¬ ((c.hart n).csrFld cBpctl 1 0 ≠ 0 ∨ c.region (line * 64) ≠ .memory ∨ ((c.core k).line line).isSome = true) := by
    simp [show (c.hart n).csrFld cBpctl 1 0 = 0 from hon, hmem, hline]
  simp only [Chip.prefetchLine, hcore]
  exact if_neg hgo

/-- What a prefetch leaves of the mesh, of its hart and of memory. -/
theorem Chip.prefetchLine_leaves {c : Chip} {n k line : Nat} (hcore : c.liveCore n = some k)
    (hon : (c.hart n).csrFld 0x7C0 1 0 = 0) (hmem : c.region (line * 64) = .memory) (hline : (c.core k).line line = none)
    (hask : (c.core k).mayAsk line) :
    let d := c.prefetchLine n line
    d.mesh = c.mesh ++ [{ kind := .rdShared, src := .core k, dst := .home (homeSlice line), line := line, clos := c.coreClos k
                          birth := c.mt / 32 }] ∧
      (d.hart n).pc = (c.hart n).pc ∧ (d.hart n).x = (c.hart n).x ∧ d.mem = c.mem := by
  intro d
  have hd : d = _ := (Chip.prefetchLine_asks hcore hon hmem hline)
  rw [Chip.ask_sends hask] at hd
  have hevents : (((c.hart n).event 0x301 4).event 0x302 4).agrees (c.hart n) := (Hart.event_agrees (c.hart n) 0x301 4).event 0x302 4
  have hhart : d.hart n = { ((c.hart n).event 0x301 4).event 0x302 4 with
      pred := { (c.hart n).pred with train := NatSet.insert (c.hart n).pred.train line } } := by
    rw [hd, Chip.modHart_self]
    rfl
  refine ⟨?_, ?_, ?_, ?_⟩
  · rw [hd]
    rfl
  · rw [hhart]
    exact hevents.pc
  · rw [hhart]
    exact hevents.field (·.x)
  · rw [hd]
    rfl

/-! The release of held snoops. -/

theorem Chip.releaseSnoops_inval {c : Chip} {k : Nat} {m : Msg} (hheld : (c.core k).heldSnp = [m]) (hkind : m.kind = .inval) :
    c.releaseSnoops k = (c.modCore k fun x => { x with heldSnp := [] }).l2Inval k m := by
  rw [Chip.releaseSnoops, hheld]
  exact if_pos hkind

/-- A reservation that a snoop of its line takes (R116). -/
def Hart.losesResv (h : Hart) (line : Nat) : Hart := if h.resv = some line then { h with resv := none } else h

/-- Early loads of a line that a snoop has taken (R113). -/
def Hart.losesEarly (h : Hart) (line : Nat) : Hart :=
  { h with early := h.early.map fun e => if e.spans.any fun s => decide (s.1 / 64 = line) then { e with lost := true } else e }

/-- What a snoop does to the hart of its core. -/
def Hart.snooped (h : Hart) (um line : Nat) : Hart := ((h.event 0x306 um).losesResv line).losesEarly line

theorem Chip.snooped_modHart {c : Chip} {x : Nat} (hv : (c.core x).hartValid = true) (um : Nat) (m : Msg) :
    c.snooped x um m = (c.take m).modHart (c.core x).hartId (·.snooped um m.line) := by
  have hcount : (c.take m).countSnoop x um = (c.take m).modHart (c.core x).hartId (·.event 0x306 um) := if_pos hv
  have hresv (f : Hart → Hart) : ((c.take m).modHart (c.core x).hartId f).dropResv x m.line =
      ((c.take m).modHart (c.core x).hartId f).modHart (c.core x).hartId (·.losesResv m.line) := if_pos hv
  have hearly (f : Hart → Hart) : ((c.take m).modHart (c.core x).hartId f).loseEarly x m.line =
      ((c.take m).modHart (c.core x).hartId f).modHart (c.core x).hartId (·.losesEarly m.line) := if_pos hv
  rw [Chip.snooped, hcount, hresv, Chip.modHart_modHart, hearly, Chip.modHart_modHart]
  rfl

/-- A snoop takes the reservation of its line, and leaves the pc and the registers. -/
theorem Hart.snooped_leaves {h : Hart} {line : Nat} (hresv : h.resv = some line) (um : Nat) :
    (h.snooped um line).resv = none ∧ (h.snooped um line).x = h.x ∧ (h.snooped um line).pc = h.pc := by
  have hevent := Hart.event_agrees h 0x306 um
  have hres : (h.event 0x306 um).resv = some line := (hevent.field (·.resv)).trans hresv
  unfold Hart.snooped Hart.losesResv
  rw [if_pos hres]
  exact ⟨rfl, hevent.field (·.x), hevent.pc⟩

theorem Chip.l2Inval_unrecalled {c : Chip} {x : Nat} {m : Msg} (hrcl : m.rcl = false) (hfills : (c.core x).fills = []) :
    c.l2Inval x m = ((c.snooped x 4 m).modCore x (·.gives m.line)).send (snpNo x m .i) := by
  have hcore : (c.snooped x 4 m).core x = c.core x := Chip.core_of_aside (c := c.take m) (c.snooped_aside x 4 m) x
  have hop : c.l2Inval x m = (((c.snooped x 4 m).modCore x (·.gives m.line)).send (snpNo x m .i)).refills x := by
    unfold Chip.l2Inval
    dsimp only
    rcases ((((c.take m).countSnoop x 4).dropResv x m.line).loseEarly x m.line).core x |>.found m.line with _ | ⟨st, d, p⟩
    · rfl
    · simp only [hrcl, Bool.false_and, Bool.false_eq_true, if_false]
      rfl
  rw [hop]
  refine Chip.refills_none ?_
  have hgiven := Chip.modCore_self (c.snooped x 4 m) x (·.gives m.line)
  exact (congrArg (·.fills) hgiven).trans ((Core.setLine_fills _ _ _).trans (hcore ▸ hfills))

/-- With no snoop held back a release changes nothing (R116). -/
theorem Chip.releaseSnoops_none_core {c : Chip} {k : Nat} (h : (c.core k).heldSnp = []) (j : Nat) :
    (c.releaseSnoops k).core j = c.core j := by
  rw [Chip.releaseSnoops_none h]
  rcases eq_or_ne j k with rfl | hj
  · rw [Chip.modCore_self, ← h]
  · exact Chip.modCore_ne hj c _

/-- What the release of an Inval held against its line's reservation leaves (R116). -/
theorem Chip.releaseSnoops_leaves {c : Chip} {n k : Nat} {m : Msg} (hheld : (c.core k).heldSnp = [m])
    (hv : (c.core k).hartValid = true) (hid : (c.core k).hartId = n) (hfills : (c.core k).fills = []) (hkind : m.kind = .inval)
    (hrcl : m.rcl = false) (hmesh : m ∉ c.mesh) (hresv : (c.hart n).resv = some m.line) :
    let d := c.releaseSnoops k
    (d.core k).heldSnp = [] ∧ (d.hart n).resv = none ∧ (d.hart n).x = (c.hart n).x ∧ (d.hart n).pc = (c.hart n).pc ∧
      d.mesh = c.mesh ++ [{ snpNo k m .i with birth := c.mt / 32 }] ∧ d.homes = c.homes ∧ d.mem = c.mem := by
  intro d
  have hcore := c.modCore_self k fun x => { x with heldSnp := [] }
  have hd : d = (((c.modCore k fun x => { x with heldSnp := [] }).snooped k 4 m).modCore k (·.gives m.line)).send (snpNo k m .i) :=
    (Chip.releaseSnoops_inval hheld hkind).trans (Chip.l2Inval_unrecalled hrcl (hcore ▸ hfills))
  have hsnoop : (c.modCore k fun x => { x with heldSnp := [] }).snooped k 4 m =
      ((c.modCore k fun x => { x with heldSnp := [] }).take m).modHart n (·.snooped 4 m.line) := by
    have hsn := Chip.snooped_modHart (c := c.modCore k fun x => { x with heldSnp := [] }) (x := k) (hcore ▸ hv) 4 m
    rw [hsn, hcore, hid]
  rw [hsnoop] at hd
  have hhart : d.hart n = (c.hart n).snooped 4 m.line := by
    rw [hd]
    exact Chip.modHart_self ((c.modCore k fun x => { x with heldSnp := [] }).take m) n (·.snooped 4 m.line)
  obtain ⟨hresv', hx, hpc⟩ := Hart.snooped_leaves hresv 4
  refine ⟨?_, hhart ▸ hresv', hhart ▸ hx, hhart ▸ hpc, ?_, ?_, ?_⟩
  · have hgiven : d.core k = ({ c.core k with heldSnp := [] } : Core).gives m.line := by
      rw [hd]
      exact (Chip.modCore_self _ k (·.gives m.line)).trans (congrArg (·.gives m.line) hcore)
    rw [hgiven]
    exact Core.setLine_heldSnp _ _ _
  · rw [hd]
    show c.mesh.erase m ++ [_] = _
    rw [List.erase_of_not_mem hmesh]
    rfl
  · rw [hd]
    rfl
  · rw [hd]
    rfl

/-- Settles O14: redirects, load redo, prefetches, and the release of held snoops. -/
theorem speculationLeavesNoArchitecturalTrace : Obligations.SpeculationLeavesNoArchitecturalTrace := by
  intro s n k line t a h hcore
  have hlive : h.live = true := (Chip.liveCore_iff.mp hcore).1
  refine ⟨fun hpc hdet => ?_, fun hno => ?_, ?_, fun hoff => ?_, fun hon hmem hline hlen hpend hwb => ?_, fun hheld => ?_,
    fun m hk hheld hv hid hfills hkind hrcl hmesh hresv => ?_⟩
  · exact RunsTo.hart (·.branchRedirect n a t) rfl (Chip.branchRedirect_only hlive hpc hdet)
  · exact RunsTo.hart (·.branchRedirect n a t) rfl (Chip.branchRedirect_stays hno)
  · exact RunsTo.hart (·.orderRedo n line) rfl (Chip.orderRedo_only hlive line)
  · exact Runs.keep (·.prefetchLine n line) rfl rfl (Chip.prefetchLine_off hoff line)
  · exact RunsTo.of_fuseless (·.prefetchLine n line) rfl
      (Chip.prefetchLine_leaves hcore hon hmem hline ⟨hlen, hpend, hwb⟩) fun _ _ hd => hd
  · refine RunsTo.of_fuseless (fun c => c.releaseSnoops (c.hart n).core) rfl ?_ fun _ _ hd => hd
    have hrelease := Chip.releaseSnoops_none hheld
    rw [hrelease]
    exact ⟨rfl, rfl, rfl, hrelease ▸ Chip.releaseSnoops_none_core hheld⟩
  · refine RunsTo.of_fuseless (fun c => c.releaseSnoops (c.hart n).core) rfl ?_ fun _ _ hd => hd
    rw [show (s.chip.hart n).core = k from hk]
    exact Chip.releaseSnoops_leaves hheld hv hid hfills hkind hrcl hmesh hresv

end Sys2Proof.Machine
end

section
/-! WFI, Rest, wake and debug halt (R118-R120, R475-R477, R482, R487). -/

namespace Sys2Proof.Machine

/-! Rest. -/

/-- A hart on entry to Rest (R119). -/
def Hart.rested (h : Hart) : Hart :=
  { (h.setCsrFld 0x7C1 16 16 1).flushPred with
    run := .rest, resv := none, itlb := [], dtlb := [], tlb := [], pwc := [], walk := none, early := [] }

/-- A core on entry to Rest, its L1s emptied (R119). -/
def Core.rested (x : Core) : Core := { x.emptyL1 with power := .rest }

theorem Chip.enterRest_eq {c : Chip} {n k : Nat} (hk : c.coreOfHart n = some k) (hreqs : (c.core k).reqs = []) :
    c.enterRest n = ((c.modHart n Hart.rested).modCore k Core.rested).modUnit (uCore k)
      fun u => { u with cur := 1, busy := false } := by
  have hquiet : ¬ (!(c.core k).reqs.isEmpty) = true := by rw [hreqs]; decide
  simp only [Chip.enterRest, hk]
  exact if_neg hquiet

/-- A hart and its core in Rest, with the pc at `p`: the L1s, the TLBs, the page-walk cache and the predictors empty (R119). -/
def Chip.inRest (c d : Chip) (n k : Nat) (p : DWord) : Prop :=
  (d.hart n).run = .rest ∧ (d.hart n).pc = p ∧ (d.hart n).resv = none ∧ (d.hart n).itlb = [] ∧ (d.hart n).dtlb = [] ∧
    (d.hart n).tlb = [] ∧ (d.hart n).pwc = [] ∧ (d.core k).l1i = {} ∧ (d.core k).l1d = {} ∧
    (d.hart n).pred = {} ∧ (d.hart n).csrFld 0x7C1 16 16 = 1 ∧ (d.core k).power = .rest ∧ (d.unit (uCore k)).cur = 1 ∧
    (d.core k).l2 = (c.core k).l2.map (fun e => (e.1, { e.2 with l1i := false, l1d := false })) ∧ d.mem = c.mem

theorem Hart.rested_lastRest (h : Hart) : h.rested.csrFld 0x7C1 16 16 = 1 := by
  have hcsr : h.rested.csr 0x7C1 = setFld (h.csr 0x7C1) 16 16 1 :=
    (Hart.csr_congr rfl _).trans (Hart.csr_setCsr_self h 0x7C1 _)
  rw [Hart.csrFld, hcsr, fld_setFld_self _ _ _ _ (by decide)]
  rfl

theorem Chip.enterRest_leaves {c : Chip} {n k : Nat} (hk : c.coreOfHart n = some k) (hreqs : (c.core k).reqs = []) :
    c.inRest (c.enterRest n) n k (c.hart n).pc := by
  rw [Chip.enterRest_eq hk hreqs]
  have hhart : (((c.modHart n Hart.rested).modCore k Core.rested).modUnit (uCore k)
      fun u => { u with cur := 1, busy := false }).hart n = (c.hart n).rested := Chip.modHart_self c n Hart.rested
  have hcore : (((c.modHart n Hart.rested).modCore k Core.rested).modUnit (uCore k)
      fun u => { u with cur := 1, busy := false }).core k = (c.core k).rested :=
    Chip.modCore_self (c.modHart n Hart.rested) k Core.rested
  have hunit := Chip.modUnit_self ((c.modHart n Hart.rested).modCore k Core.rested) (uCore k)
    fun u => { u with cur := 1, busy := false }
  unfold Chip.inRest
  rw [hhart, hcore, hunit]
  exact ⟨rfl, rfl, rfl, rfl, rfl, rfl, rfl, rfl, rfl, rfl, (c.hart n).rested_lastRest, rfl, rfl, rfl, rfl⟩

/-! WFI. -/

section wfi

variable {c : Chip} {n : Nat} (hr : c.ready n = true) (hsb : (c.hart n).sbEmpty = true) (hm : (c.hart n).priv = .m)
  (hv : (c.hart n).virt = false)
include hr hsb hm hv

/-- WFI with an interrupt pending and locally enabled is a no-op (R118). -/
theorem Chip.wfi_noop (hint : c.intPending n = true) : c.wfi n = (c.retire n 4 1).modHart n Hart.serialised := by
  obtain ⟨k, hcore⟩ := Chip.ready_liveCore hr
  have hheld := Chip.ready_held hr
  simp only [Chip.wfi, hcore, hsb, hheld, hm, hv, hint, Option.isSome_none, Bool.not_true, Bool.or_self, Bool.false_eq_true,
    ne_eq, not_true_eq_false, false_and, reduceCtorEq, if_false, if_true]
  rfl

/-- A hart that WFI stalls. -/
def Hart.stalled (h : Hart) : Hart := { (h.setCsrFld 0x7C1 16 16 0).dropEarly with run := .wfi, refetch := true }

/-- WFI without one stalls the hart, or enters Rest at once with DELAY 0 (R118). -/
theorem Chip.wfi_stalls (hint : c.intPending n = false) :
    let d := (c.retire n 4 1).modHart n Hart.stalled
    c.wfi n = if (d.hart n).csrFld 0x7C1 15 0 = 0 then d.enterRest n else d := by
  obtain ⟨k, hcore⟩ := Chip.ready_liveCore hr
  have hheld := Chip.ready_held hr
  simp only [Chip.wfi, hcore, hsb, hheld, hm, hv, hint, Option.isSome_none, Bool.not_true, Bool.or_self, Bool.false_eq_true,
    ne_eq, not_true_eq_false, false_and, reduceCtorEq, if_false]
  rfl

end wfi

/-- A stalled hart agrees with the hart that WFI left, at the next instruction, with LAST_REST 0. -/
theorem Chip.wfi_hart {c : Chip} {n : Nat} (he : (c.hart n).early = []) :
    (((c.retire n 4 1).modHart n Hart.stalled).hart n).agrees
      { (c.hart n).setCsrFld 0x7C1 16 16 0 with pc := (c.hart n).pc + 4, run := .wfi, refetch := true } := by
  have hret := c.retire_agrees n 4 1 1
  have hold : ((c.retire n 4 1).hart n).csr 0x7C1 = (c.hart n).csr 0x7C1 := hret.csr rfl
  rw [Chip.modHart_self]
  have hcsr : (((c.retire n 4 1).hart n).setCsrFld 0x7C1 16 16 0).agrees
      { (c.hart n).setCsrFld 0x7C1 16 16 0 with pc := (c.hart n).pc + 4 } := by
    rw [Hart.setCsrFld, hold]
    exact hret.setCsr 0x7C1 _
  have hall := (hcsr.update Hart.dropEarly).update ({ · with run := .wfi, refetch := true })
  rw [Hart.dropEarly_of_nil (h := { (c.hart n).setCsrFld 0x7C1 16 16 0 with pc := (c.hart n).pc + 4 }) he] at hall
  exact hall

theorem Hart.setLastRest_fields (h : Hart) :
    (h.setCsrFld 0x7C1 16 16 0).csrFld 0x7C1 16 16 = 0 ∧ (h.setCsrFld 0x7C1 16 16 0).csrFld 0x7C1 15 0 = h.csrFld 0x7C1 15 0 := by
  rw [Hart.csrFld, Hart.csrFld, Hart.setCsrFld, Hart.csr_setCsr_self, fld_setFld_self _ _ _ _ (by decide),
    fld_setFld_ne _ _ _ _ _ _ (by decide) (by decide)]
  exact ⟨rfl, rfl⟩

theorem Chip.wfi_fields {c : Chip} {n : Nat} (he : (c.hart n).early = []) :
    (((c.retire n 4 1).modHart n Hart.stalled).hart n).csrFld 0x7C1 16 16 = 0 ∧
      (((c.retire n 4 1).modHart n Hart.stalled).hart n).csrFld 0x7C1 15 0 = (c.hart n).csrFld 0x7C1 15 0 := by
  obtain ⟨hlast, hdelay⟩ := (c.hart n).setLastRest_fields
  exact ⟨((Chip.wfi_hart he).csrFld rfl 16 16).trans hlast, ((Chip.wfi_hart he).csrFld rfl 15 0).trans hdelay⟩

/-! Wake. -/

theorem Chip.core_of_cores {c d : Chip} (h : d.cores = c.cores) (k : Nat) : d.core k = c.core k := by rw [Chip.core, h]; rfl

/-- Device `d` has the harts, the units, the memory and the cores of device `c`, and asserts LOADCAST wherever `c` does. -/
structure KeepsRun (c d : Chip) : Prop where
  harts : d.harts = c.harts
  cores : d.cores = c.cores
  units : d.units = c.units
  mem : d.mem = c.mem
  loadcast : d.pwr.loadcast = c.pwr.loadcast

theorem KeepsRun.refl (c : Chip) : KeepsRun c c := ⟨rfl, rfl, rfl, rfl, rfl⟩

theorem KeepsRun.trans {a b c : Chip} (h : KeepsRun a b) (g : KeepsRun b c) : KeepsRun a c :=
  ⟨g.harts.trans h.harts, g.cores.trans h.cores, g.units.trans h.units, g.mem.trans h.mem, g.loadcast.trans h.loadcast⟩

theorem Chip.setRegFld_keepsRun (c : Chip) (u b o hi lo v : Nat) : KeepsRun c (c.setRegFld u b o hi lo v) := ⟨rfl, rfl, rfl, rfl, rfl⟩

theorem Chip.pwrStatus_keepsRun (c : Chip) : KeepsRun c c.pwrStatus :=
  ((((Chip.setRegFld_keepsRun ..).trans (Chip.setRegFld_keepsRun ..)).trans (Chip.setRegFld_keepsRun ..)).trans
    (Chip.setRegFld_keepsRun ..)).trans (Chip.setRegFld_keepsRun ..)

theorem Chip.setStretch_keepsRun (c : Chip) (f : Nat) (g : StretchSt → StretchSt) : KeepsRun c (c.setStretch f g) := by
  unfold Chip.setStretch
  exact ⟨rfl, rfl, rfl, rfl, rfl⟩

theorem Chip.wakeStretch_keepsRun (c : Chip) : KeepsRun c c.wakeStretch := by
  unfold Chip.wakeStretch
  extract_lets top
  suffices ∀ (l : List Nat) (d : Chip), KeepsRun c d → KeepsRun c (l.foldl (fun (c : Chip) f =>
      if c.runRank f < top then c.setStretch f fun s => { s with wake := true } else c) d) from this _ c (KeepsRun.refl c)
  intro l
  induction l with
  | nil => exact fun d h => h
  | cons f t ih =>
    intro d h
    refine ih _ ?_
    dsimp only
    split
    · exact h.trans (Chip.setStretch_keepsRun ..)
    · exact h

/-- A core with an announced ramp. -/
def Core.announced (x : Core) (r : RampKind) (now : Nat) : Core :=
  { x with ramp := some r, rampAnn := true, rampOn := false, rampAt := now + 150 }

/-- An announced ramp: its core and LOADCAST (R476, R477). -/
theorem Chip.announce_leaves (c : Chip) (k : Nat) (r : RampKind) :
    ((c.announce k r).core k).power = (c.core k).power ∧ ((c.announce k r).core k).ramp = some r ∧
      ((c.announce k r).core k).rampAnn = true ∧ (c.announce k r).units = c.units ∧
      paddockOfCore k ∈ (c.announce k r).pwr.loadcast := by
  have hkeep := Chip.pwrStatus_keepsRun { c.modCore k (·.announced r c.mtime.toNat) with
    pwr := { c.pwr with loadcast := NatSet.insert c.pwr.loadcast (paddockOfCore k) } }
  have hcores : (c.announce k r).cores = (c.modCore k (·.announced r c.mtime.toNat)).cores := hkeep.cores
  have hcore : (c.announce k r).core k = (c.core k).announced r c.mtime.toNat :=
    (Chip.core_of_cores hcores k).trans (Chip.modCore_self c k (·.announced r c.mtime.toNat))
  rw [hcore]
  refine ⟨rfl, rfl, rfl, hkeep.units, ?_⟩
  have hloadcast : (c.announce k r).pwr.loadcast = NatSet.insert c.pwr.loadcast (paddockOfCore k) := hkeep.loadcast
  rw [hloadcast]
  exact NatSet.mem_insert _ _

/-- A granted ramp changes no hart, and no memory. -/
theorem Chip.grantRamp_harts (c : Chip) (k : Nat) (r : RampKind) : (c.grantRamp k r).harts = c.harts := by
  unfold Chip.grantRamp
  split
  · rfl
  · split
    · rfl
    · exact c.announce_harts k r

theorem Chip.grantRamp_mem (c : Chip) (k : Nat) (r : RampKind) : (c.grantRamp k r).mem = c.mem := by
  unfold Chip.grantRamp
  split
  · rfl
  · split
    · rfl
    · exact (c.announce_keepsBellwether k r).mem

section wake

variable {c : Chip} {n k : Nat} (hk : c.coreOfHart n = some k)
include hk

/-- A wake event ends the stall after WFI (R118). -/
theorem Chip.wakeEvent_wfi (hrun : (c.hart n).run = .wfi) (hint : c.intPending n = true) :
    c.wakeEvent n false = (c.grantRamp k .wfiExit).modHart n fun h => { h with run := .running } := by
  simp only [Chip.wakeEvent, hk, hint, hrun, Bool.or_true, Bool.not_true, Bool.false_eq_true, if_false]

/-- A wake event starts the wake from Rest, with an announced ramp (R120, R475). -/
theorem Chip.wakeEvent_rest (hrun : (c.hart n).run = .rest) (hint : c.intPending n = true) :
    c.wakeEvent n false = ((((c.modHart n fun h => { h with run := .waking false }).modCore k
      fun x => { x with power := .waking, wakeAt := c.mtime.toNat }).modUnit (uCore k)
        fun u => { u with busy := true }).announce k .restWake).wakeStretch := by
  simp only [Chip.wakeEvent, hk, hint, hrun, Bool.or_true, Bool.not_true, Bool.false_eq_true, if_false]

theorem Chip.restResume_runs (hrun : (c.hart n).run = .waking false) (hfills : (c.core k).fills = []) :
    c.restResume n = ((c.modCore k fun x => { x with power := .run }).modUnit (uCore k)
      fun u => { u with cur := 0, busy := false }).modHart n fun h => { h with run := .running } := by
  have hop : c.restResume n = (((c.modCore k fun x => { x with power := .run }).modUnit (uCore k)
      fun u => { u with cur := 0, busy := false }).modHart n fun h => { h with run := .running }).refills k := by
    simp only [Chip.restResume, hk, hrun, Bool.false_eq_true, if_false]
  rw [hop]
  refine Chip.refills_none ?_
  exact (congrArg (·.fills) (Chip.modCore_self c k fun x => { x with power := .run })).trans hfills

end wake

/-- What the start of a wake from Rest leaves. -/
theorem Chip.wakeEvent_leaves {c : Chip} {n k : Nat} (hk : c.coreOfHart n = some k) (hrun : (c.hart n).run = .rest)
    (hint : c.intPending n = true) :
    let d := c.wakeEvent n false
    (d.hart n).run = .waking false ∧ (d.core k).power = .waking ∧ (d.unit (uCore k)).busy = true ∧
      (d.core k).ramp = some .restWake ∧ (d.core k).rampAnn = true ∧ paddockOfCore k ∈ d.pwr.loadcast := by
  intro d
  have hd : d = _ := Chip.wakeEvent_rest hk hrun hint
  generalize hwaking : (((c.modHart n fun h => { h with run := .waking false }).modCore k
      fun x => { x with power := .waking, wakeAt := c.mtime.toNat }).modUnit (uCore k) fun u => { u with busy := true }) = e at hd
  have hkeep := (e.announce k .restWake).wakeStretch_keepsRun
  obtain ⟨hpower, hramp, hann, hunits, hloadcast⟩ := e.announce_leaves k .restWake
  have hhart : (e.hart n).run = .waking false := by
    rw [← hwaking]
    exact congrArg (·.run) (Chip.modHart_self c n fun h => { h with run := .waking false })
  have hcore : (e.core k).power = .waking := by
    rw [← hwaking]
    exact congrArg (·.power) (Chip.modCore_self (c.modHart n fun h => { h with run := .waking false }) k
      fun x => { x with power := .waking, wakeAt := c.mtime.toNat })
  have hunit : (e.unit (uCore k)).busy = true := by
    rw [← hwaking, Chip.modUnit_self]
  refine ⟨?_, ?_, ?_, ?_, ?_, ?_⟩
  · rw [hd, Chip.hart_of_harts hkeep.harts, Chip.hart_of_harts (e.announce_harts k .restWake)]
    exact hhart
  · rw [hd, Chip.core_of_cores hkeep.cores, hpower]
    exact hcore
  · rw [hd, Chip.unit_of_units hkeep.units, Chip.unit_of_units hunits]
    exact hunit
  · rw [hd, Chip.core_of_cores hkeep.cores]
    exact hramp
  · rw [hd, Chip.core_of_cores hkeep.cores]
    exact hann
  · rw [hd, hkeep.loadcast]
    exact hloadcast

/-! Debug halt. -/

theorem Chip.debugHalt_enters {c : Chip} {n : Nat} (hlive : (c.hart n).live = true) (hheld : (c.hart n).held = none)
    (hmid : c.midway n = false) : c.debugHalt n = c.modHart n Hart.enterDebug := by
  simp only [Chip.debugHalt, hlive, hheld, hmid, Option.isNone_none, and_self, if_true]

theorem Hart.enterDebug_leaves (h : Hart) :
    h.enterDebug.run = .debug ∧ h.enterDebug.csr 0x7B1 = h.pc ∧ h.enterDebug.pred = {} ∧ h.enterDebug.x = h.x := by
  refine ⟨rfl, ?_, rfl, rfl⟩
  unfold Hart.enterDebug
  extract_lets d
  exact (Hart.csr_congr rfl _).trans ((Hart.csr_setCsr_ne (by decide) (h.setCsr 0x7B1 h.pc) d).trans (Hart.csr_setCsr_self h 0x7B1 _))

/-- Settles O15: WFI, the entry to Rest, the wake and its end, and the debug halt. -/
theorem wfiRestAndWake : Obligations.WfiRestAndWake := by
  intro s n k h rested hk hreqs
  refine ⟨fun hr hsb hm hv => ⟨fun hint => ?_, fun hint hdelay => ?_, fun hint hdelay => ?_⟩, fun hrun hdelay => ?_,
    fun hrun hdelay => ?_, fun hrun hint => ?_, fun hrun hint => ?_, fun hrun hfills => ?_, fun hlive hheld hmid => ?_⟩
  · refine RunsTo.hart_of_ready (·.wfi n) hr rfl ?_
    rw [Chip.wfi_noop hr hsb hm hv hint]
    have hret := (OnlyHart.refl s.chip n).retire 4 1 1
    exact hret.modHart (hret.agrees.serialised (Chip.ready_early hr))
  · refine RunsTo.of_ready_fuseless (·.wfi n) hr rfl ?_ fun _ _ hd => hd
    have hstall := Chip.wfi_hart (Chip.ready_early hr)
    obtain ⟨hlast, hdel⟩ := Chip.wfi_fields (Chip.ready_early hr)
    have hwfi := Chip.wfi_stalls hr hsb hm hv hint
    rw [hwfi, if_neg (hdel ▸ hdelay)]
    exact ⟨hstall.field (·.run), hstall.pc, hlast, rfl⟩
  · refine RunsTo.of_ready_fuseless (·.wfi n) hr rfl ?_ fun _ _ hd => hd
    have hpc := (Chip.wfi_hart (Chip.ready_early hr)).pc
    obtain ⟨-, hdel⟩ := Chip.wfi_fields (Chip.ready_early hr)
    have hwfi := Chip.wfi_stalls hr hsb hm hv hint
    have hrest := Chip.enterRest_leaves (c := (s.chip.retire n 4 1).modHart n Hart.stalled) hk hreqs
    rw [hwfi, if_pos (hdel.trans hdelay)]
    rw [hpc] at hrest
    exact hrest
  · refine RunsTo.of_fuseless (·.restEntry n) rfl ?_ fun _ _ hd => hd
    have hgo : s.chip.restEntry n = s.chip.enterRest n := if_pos ⟨hrun, hdelay⟩
    rw [hgo]
    exact Chip.enterRest_leaves hk hreqs
  · refine Runs.keep (·.restEntry n) rfl rfl ?_
    exact if_neg fun hgo => hgo.2 hdelay
  · refine RunsTo.of_fuseless (·.wakeEvent n false) rfl ?_ fun _ _ hd => hd
    rw [Chip.wakeEvent_wfi hk hrun hint, Chip.modHart_self]
    have hhart : (s.chip.grantRamp k .wfiExit).hart n = h := Chip.hart_of_harts (s.chip.grantRamp_harts k .wfiExit) n
    exact ⟨rfl, congrArg (·.pc) hhart, s.chip.grantRamp_mem k .wfiExit⟩
  · exact RunsTo.of_fuseless (·.wakeEvent n false) rfl (Chip.wakeEvent_leaves hk hrun hint) fun _ _ hd => hd
  · refine RunsTo.of_fuseless (·.restResume n) rfl ?_ fun _ _ hd => hd
    rw [Chip.restResume_runs hk hrun hfills, Chip.modHart_self]
    have hcore := Chip.modCore_self s.chip k fun x => { x with power := .run }
    have hunit := Chip.modUnit_self (s.chip.modCore k fun x => { x with power := .run }) (uCore k)
      fun u => { u with cur := 0, busy := false }
    exact ⟨rfl, rfl, congrArg (·.power) hcore, congrArg (·.cur) hunit, congrArg (·.busy) hunit⟩
  · have hhart : (s.chip.debugHalt n).hart n = h.enterDebug := by
      rw [Chip.debugHalt_enters hlive hheld hmid]
      exact Chip.modHart_self _ n _
    obtain ⟨hdebug, hdpc, hpred, hx⟩ := h.enterDebug_leaves
    have haside : (s.chip.debugHalt n).aside = s.chip.aside := by
      rw [Chip.debugHalt_enters hlive hheld hmid]
      rfl
    refine RunsTo.keep (·.debugHalt n) rfl (Chip.fuse_of_aside haside) ?_
    rw [hhart]
    exact ⟨hdebug, hdpc, hpred, hx, haside⟩

end Sys2Proof.Machine
end

section
/-! Vector accesses of memory (R104, R108, R141). -/

namespace Sys2Proof.Machine

/-! State that a vector access changes. -/

/-- Marking VS dirty changes the status CSRs only. -/
theorem Hart.vsDirty_eq (h : Hart) : ∃ m, h.vsDirty = { h with csrs := m } := by
  unfold Hart.vsDirty
  dsimp only
  split <;> exact ⟨_, rfl⟩

theorem Hart.vsDirty_csr (h : Hart) {k : Nat} (hm : k ≠ 0x300) (hs : k ≠ 0x200) : h.vsDirty.csr k = h.csr k := by
  unfold Hart.vsDirty
  dsimp only
  split
  · exact (Hart.csr_setCsr_ne hs _ _).trans (Hart.csr_setCsr_ne hm _ _)
  · exact Hart.csr_setCsr_ne hm _ _

/-- Elements written into a hart, each as its index and bytes. -/
def Hart.setElems (h : Hart) (r w : Nat) (vals : List (Nat × List Byte)) : Hart :=
  vals.foldl (fun (x : Hart) e => x.setElem r w e.1 (leNat e.2)) h

theorem Hart.setElems_with_held (h : Hart) (r w : Nat) (vals : List (Nat × List Byte)) (l : Option HeldLoad) :
    ({ h with held := l } : Hart).setElems r w vals = { h.setElems r w vals with held := l } := by
  induction vals generalizing h with
  | nil => rfl
  | cons e t ih => exact ih (h.setElem r w e.1 (leNat e.2))

theorem Hart.setElems_pc (h : Hart) (r w : Nat) (vals : List (Nat × List Byte)) : (h.setElems r w vals).pc = h.pc := by
  induction vals generalizing h with
  | nil => rfl
  | cons e t ih => exact ih (h.setElem r w e.1 (leNat e.2))

section access

variable {c : Chip} {n k : Nat} {op : VMemOp} (hr : c.ready n = true) (hw : op.wrong = false) (hlegal : (c.hart n).vmemLegal op = true)
include hr hw hlegal

/-! No elements. -/

theorem Chip.vectorStore_empty (hvl : (c.hart n).vl = 0) :
    c.vectorStore n op = (c.modHart n (·.setCsr cVstart 0)).retire n 4 1 := by
  obtain ⟨core, hcore⟩ := Chip.ready_liveCore hr
  have hheld := Chip.ready_held hr
  simp only [Chip.vectorStore, hcore, hheld, hlegal, hvl, hw, Option.isSome_none, Bool.not_true, Bool.false_eq_true, if_false, if_true]

theorem Chip.vectorLoad_empty (hvl : (c.hart n).vl = 0) :
    c.vectorLoad n op = (c.modHart n (·.setCsr cVstart 0)).retire n 4 1 := by
  obtain ⟨core, hcore⟩ := Chip.ready_liveCore hr
  have hheld := Chip.ready_held hr
  simp only [Chip.vectorLoad, hcore, hheld, hlegal, hvl, hw, Option.isSome_none, Bool.not_true, Bool.false_eq_true, if_false, if_true]

variable (hvl : (c.hart n).vl ≠ 0) {l : List (Nat × List (Nat × Nat))}
include hvl

/-! Stores. -/

/-- The entries of a vector store whose active elements have the pieces `l`. -/
def Hart.vecStored (h : Hart) (op : VMemOp) (l : List (Nat × List (Nat × Nat))) : List SbEnt :=
  joinEntries (l.flatMap fun e => vecEntries .vector e.2 (leBytes (h.elem op.v (8 * VMemOp.dataBytes h op) e.1) (VMemOp.dataBytes h op)))

theorem Chip.vectorStore_enters (hvst : (c.hart n).vst = 0)
    (hspans : c.vmemSpans n op .store ((c.hart n).active op.masked) = (l, none))
    (hroom : (c.hart n).sb.length + ((c.hart n).vecStored op l).length ≤ 96) :
    c.vectorStore n op = (c.modHart n (·.enterSb ((c.hart n).vecStored op l))).vectorStored n op l none := by
  obtain ⟨core, hcore⟩ := Chip.ready_liveCore hr
  have hheld := Chip.ready_held hr
  have hfits : (c.hart n).sbRoom ((c.hart n).vecStored op l).length = true := decide_eq_true hroom
  rw [Hart.vecStored] at hfits ⊢
  simp only [Chip.vectorStore, hcore, hheld, hlegal, hvl, hw, hspans, hvst, List.drop_zero, hfits, Option.isSome_none, Bool.not_true,
    Bool.false_eq_true, if_false, if_true]
  rfl

/-! Loads. -/

omit hw in
theorem Chip.vectorLoad_goes (hcore : c.liveCore n = some k) : c.vectorLoad n op = c.vecLoadGo k n op := by
  have hheld := Chip.ready_held hr
  simp only [Chip.vectorLoad, hcore, hheld, hlegal, hvl, Option.isSome_none, Bool.not_true, Bool.false_eq_true, if_false]

variable (hcore : c.liveCore n = some k) (hspans : c.vmemSpans n op .load ((c.hart n).active op.masked) = (l, none))
include hcore hspans

/-- A vector load that an older store overlaps is held whole (R108). -/
theorem Chip.vectorLoad_held (hover : ∃ e ∈ l, ∃ a ∈ spanAddrs e.2, ((c.hart n).storeOf false a).isSome = true) :
    OnlyHart c (c.vectorLoad n op) n { c.hart n with held := some (.vector op) } := by
  have hany : (l.any fun e => (spanAddrs e.2).any fun a => ((c.hart n).storeOf false a).isSome) = true := by
    simpa only [List.any_eq_true] using hover
  have hop : c.vectorLoad n op =
      c.modHart n fun h => if h.held.isSome then h else { h.event 0x203 2 with held := some (.vector op) } := by
    rw [Chip.vectorLoad_goes hr hlegal hvl hcore]
    simp only [Chip.vecLoadGo, hspans, hw, hany, Bool.false_eq_true, if_false, if_true]
  have hfree : ¬ (c.hart n).held.isSome = true := by rw [Chip.ready_held hr]; exact Bool.false_ne_true
  rw [hop]
  refine (OnlyHart.refl c n).modHart ?_
  rw [if_neg hfree]
  exact (Hart.event_agrees (c.hart n) 0x203 2).update ({ · with held := some (.vector op) })

/-- A hart that has written the elements of a vector load. -/
def Hart.vecLoaded (h : Hart) (r w : Nat) (vals : List (Nat × List Byte)) : Hart := ({ h with held := none } : Hart).setElems r w vals

theorem Chip.vectorLoad_performs {d : Chip} {vals : List (Nat × List Byte)}
    (hclear : ∀ e ∈ l, ∀ a ∈ spanAddrs e.2, ((c.hart n).storeOf false a).isSome = false)
    (hread : c.vmemRead k n l = (vals, none, d)) :
    ∃ u, c.vectorLoad n op = ((d.modHart n (·.vecLoaded op.v (8 * VMemOp.dataBytes (c.hart n) op) vals)).modHart n fun h =>
      (h.setCsr cVstart 0).vsDirty.event 0x201 2).retire n 4 u u := by
  have hnone : (l.any fun e => (spanAddrs e.2).any fun a => ((c.hart n).storeOf false a).isSome) = false := by
    simpa using hclear
  refine ⟨vmemUops (c.hart n) op, ?_⟩
  rw [Chip.vectorLoad_goes hr hlegal hvl hcore]
  simp only [Chip.vecLoadGo, hspans, hw, hnone, hread, Bool.false_eq_true, if_false]
  rfl

end access

/-- What entering the store buffer and retiring leave of a hart that has performed no load early. -/
theorem Chip.vectorStored_only {c : Chip} {n : Nat} (he : (c.hart n).early = []) (hvst : (c.hart n).vst = 0) (op : VMemOp)
    (l : List (Nat × List (Nat × Nat))) (es : List SbEnt) :
    OnlyHart c ((c.modHart n (·.enterSb es)).vectorStored n op l none) n
      { (((c.hart n).enterSb es).setCsr cVstart 0).vsDirty with pc := (c.hart n).pc + 4 } := by
  obtain ⟨m, hdirty⟩ := (((c.hart n).enterSb es).setCsr cVstart 0).vsDirty_eq
  have hvst' : ({ (((c.hart n).enterSb es).setCsr cVstart 0).vsDirty with vst := 0 } : Hart) =
      (((c.hart n).enterSb es).setCsr cVstart 0).vsDirty := by
    rw [hdirty, ← hvst]
    rfl
  have hpc : (((c.hart n).enterSb es).setCsr cVstart 0).vsDirty.pc = (c.hart n).pc := by
    rw [hdirty]
    rfl
  have hearly : (((c.hart n).enterSb es).setCsr cVstart 0).vsDirty.early = [] := by
    rw [hdirty]
    exact he
  have henter := (OnlyHart.refl c n).modHart (f := (·.enterSb es)) (Hart.agrees.refl _)
  rw [← hpc]
  refine (henter.modHart ?_).retire 4 _ _
  rw [Chip.modHart_self, hvst', Hart.violated_of_nil hearly]
  exact Hart.event_agrees _ 0x202 2

/-- What the end of a vector load leaves of the hart that read its elements. -/
theorem Chip.vecLoaded_leaves (d : Chip) (n r w u : Nat) (vals : List (Nat × List Byte)) :
    let c := ((d.modHart n (·.vecLoaded r w vals)).modHart n fun h => (h.setCsr cVstart 0).vsDirty.event 0x201 2).retire n 4 u u
    (c.hart n).v = ((d.hart n).setElems r w vals).v ∧ (c.hart n).csr cVstart = 0 ∧ (c.hart n).pc = (d.hart n).pc + 4 ∧
      (c.hart n).held = none ∧ c.mem = d.mem := by
  intro c
  have hloaded : (d.hart n).vecLoaded r w vals = { (d.hart n).setElems r w vals with held := none } :=
    Hart.setElems_with_held _ r w vals none
  obtain ⟨m, hdirty⟩ := (((d.hart n).vecLoaded r w vals).setCsr cVstart 0).vsDirty_eq
  have hput := (OnlyHart.refl d n).modHart (f := (·.vecLoaded r w vals)) (Hart.agrees.refl _)
  have hend := hput.modHart (f := fun h => (h.setCsr cVstart 0).vsDirty.event 0x201 2)
    (y := (((d.hart n).vecLoaded r w vals).setCsr cVstart 0).vsDirty) (by rw [Chip.modHart_self]; exact Hart.event_agrees _ 0x201 2)
  have hret := (hend.retire 4 u u).agrees
  refine ⟨?_, ?_, ?_, ?_, rfl⟩
  · refine (hret.field (·.v)).trans ?_
    rw [hdirty]
    exact congrArg (·.v) hloaded
  · refine (hret.csr (k := cVstart) rfl).trans ?_
    exact (Hart.csr_congr rfl _).trans ((Hart.vsDirty_csr _ (by decide) (by decide)).trans (Hart.csr_setCsr_self _ _ _))
  · refine hret.pc.trans (congrArg (· + 4#64) ?_)
    rw [hdirty]
    exact (congrArg (·.pc) hloaded).trans ((d.hart n).setElems_pc r w vals)
  · refine (hret.field (·.held)).trans ?_
    rw [hdirty]
    exact congrArg (·.held) hloaded

/-- Settles O16: vector accesses of no elements, stores that enter the store buffer, loads held and loads performed. -/
theorem vectorMemoryAccesses : Obligations.VectorMemoryAccesses := by
  intro s n k op l h w es hr hcore hw hvst hlegal
  refine ⟨fun hvl => ⟨?_, ?_⟩, fun hvl hspans hroom => ?_, fun hvl hspans hover => ?_, fun vals d hvl hspans hclear hread => ?_⟩
  · refine RunsTo.hart_of_ready (·.vectorStore n op) hr rfl ?_
    rw [Chip.vectorStore_empty hr hw hlegal hvl]
    exact s.chip.retire_only n (·.setCsr cVstart 0) 4 1 1
  · refine RunsTo.hart_of_ready (·.vectorLoad n op) hr rfl ?_
    rw [Chip.vectorLoad_empty hr hw hlegal hvl]
    exact s.chip.retire_only n (·.setCsr cVstart 0) 4 1 1
  · refine RunsTo.hart_of_ready (·.vectorStore n op) hr rfl ?_
    rw [Chip.vectorStore_enters hr hw hlegal hvl hvst hspans hroom]
    exact Chip.vectorStored_only (Chip.ready_early hr) hvst op l es
  · exact RunsTo.hart_of_ready (·.vectorLoad n op) hr rfl (Chip.vectorLoad_held hr hw hlegal hvl hcore hspans hover)
  · refine RunsTo.of_ready_fuseless (·.vectorLoad n op) hr rfl ?_ fun _ _ hd => hd
    obtain ⟨u, hload⟩ := Chip.vectorLoad_performs hr hw hlegal hvl hcore hspans hclear hread
    rw [hload]
    exact d.vecLoaded_leaves n op.v (8 * w) u vals

end Sys2Proof.Machine
end

section
/-! Integer instructions and divides (R92, R126, R127, R144): what an integer instruction leaves of its hart, and the results of
the divides at any width. -/

namespace Sys2Proof.Machine

/-! Signed readings. -/

theorem sInt_eq_toInt {w : Nat} (hw : 0 < w) (x : Nat) : sInt w x = (BitVec.ofNat w x).toInt := by
  obtain ⟨k, rfl⟩ : ∃ k, w = k + 1 := ⟨w - 1, by omega⟩
  have hpow : 2 ^ (k + 1) = 2 * 2 ^ k := by ring
  rw [sInt, BitVec.toInt_eq_toNat_cond, BitVec.toNat_ofNat, Nat.add_sub_cancel]
  split <;> split
  · omega
  · push_cast; rfl
  · push_cast; rfl
  · omega

theorem sInt_mod (w x : Nat) : sInt w (x % 2 ^ w) = sInt w x := by
  simp [sInt]

theorem sext32_eq (x : Nat) : sext32 x = (BitVec.ofNat 32 x).signExtend 64 := by
  rw [sext32, sInt_eq_toInt (by decide)]
  rfl

theorem ofNat_wrapNat (w : Nat) (v : Int) : BitVec.ofNat w (wrapNat w v) = BitVec.ofInt w v := by
  rw [wrapNat, BitVec.ofInt, BitVec.ofNatLT_eq_ofNat]
  rfl

/-- The most negative number of w bits. -/
theorem sInt_intMin {w x : Nat} (hw : 0 < w) (hx : x % 2 ^ w = 2 ^ (w - 1)) : sInt w x = -(2 ^ (w - 1)) := by
  have hpow : (2 : Int) ^ w = 2 * 2 ^ (w - 1) := by rw [← pow_succ', Nat.sub_add_cancel hw]
  have hcast : (x : Int) % 2 ^ w = 2 ^ (w - 1) := by exact_mod_cast hx
  rw [sInt, if_pos hx.ge, hcast, hpow]
  ring

/-- Minus one in w bits. -/
theorem sInt_allOnes {w x : Nat} (hw : 0 < w) (hx : x % 2 ^ w = 2 ^ w - 1) : sInt w x = -1 := by
  have hpow : 2 ^ w = 2 * 2 ^ (w - 1) := by rw [← pow_succ', Nat.sub_add_cancel hw]
  have hpos : 0 < 2 ^ (w - 1) := Nat.two_pow_pos _
  have hcast : (x : Int) % 2 ^ w = 2 ^ w - 1 := by
    have h := congrArg (Nat.cast (R := Int)) hx
    rwa [Nat.cast_sub Nat.one_le_two_pow, Int.natCast_mod, Nat.cast_pow, Nat.cast_ofNat, Nat.cast_one] at h
  rw [sInt, if_pos (by omega), hcast]
  ring

/-! Quotients and remainders. -/

/-- A zero divisor gives all ones and the dividend (R126). -/
theorem divCore_zero {w b : Nat} (hb : b % 2 ^ w = 0) (signed rem : Bool) (a : Nat) :
    divCore signed rem w a b = if rem then a % 2 ^ w else 2 ^ w - 1 := by
  rw [divCore, if_pos hb]

/-- Signed overflow gives the dividend and zero (R126). -/
theorem divCore_overflow {w a b : Nat} (hw : 0 < w) (ha : a % 2 ^ w = 2 ^ (w - 1)) (hb : b % 2 ^ w = 2 ^ w - 1) (rem : Bool) :
    divCore true rem w a b = if rem then 0 else 2 ^ (w - 1) := by
  have hnz : b % 2 ^ w ≠ 0 := by
    have := Nat.one_lt_two_pow hw.ne'
    omega
  simp only [divCore, sInt_mod, if_neg hnz, if_true]
  rw [if_pos ⟨sInt_intMin hw ha, sInt_allOnes hw hb⟩]

theorem divCore_unsigned {w b : Nat} (hb : b % 2 ^ w ≠ 0) (rem : Bool) (a : Nat) :
    divCore false rem w a b = if rem then a % 2 ^ w % (b % 2 ^ w) else a % 2 ^ w / (b % 2 ^ w) := by
  simp only [divCore, if_neg hb, Bool.false_eq_true, if_false]

/-- Other signed quotients and remainders are those of truncated division. -/
theorem divCore_signed {w a b : Nat} (hb : b % 2 ^ w ≠ 0) (hov : ¬ (sInt w a = -(2 ^ (w - 1)) ∧ sInt w b = -1)) (rem : Bool) :
    divCore true rem w a b =
      wrapNat w (if rem then (sInt w a).tmod (sInt w b) else (sInt w a).tdiv (sInt w b)) := by
  simp only [divCore, sInt_mod, if_neg hb, if_neg hov, if_true]

/-! Scalar divides. -/

section scalar

variable {a b : DWord}

theorem divResult_zero (hb : b = 0) :
    divResult .div a b = BitVec.allOnes 64 ∧ divResult .divu a b = BitVec.allOnes 64 ∧
      divResult .rem a b = a ∧ divResult .remu a b = a := by
  have hz : b.toNat % 2 ^ 64 = 0 := by rw [hb]; rfl
  have hself : BitVec.ofNat 64 (a.toNat % 2 ^ 64) = a := by rw [Nat.mod_eq_of_lt a.isLt, BitVec.ofNat_toNat, BitVec.setWidth_eq]
  simp only [divResult, divShape, if_true, divCore_zero hz, Bool.false_eq_true, if_false, hself, and_true]
  decide

theorem divResult_word_zero (hb : b.setWidth 32 = 0#32) :
    divResult .divw a b = BitVec.allOnes 64 ∧ divResult .divuw a b = BitVec.allOnes 64 ∧
      divResult .remw a b = (a.setWidth 32).signExtend 64 ∧ divResult .remuw a b = (a.setWidth 32).signExtend 64 := by
  have hz : b.toNat % 2 ^ 32 = 0 := by simpa using congrArg BitVec.toNat hb
  have hself : BitVec.ofNat 32 (a.toNat % 2 ^ 32) = a.setWidth 32 := by
    apply BitVec.eq_of_toNat_eq
    simp
  simp only [divResult, divShape, divCore_zero hz, sext32_eq, Bool.false_eq_true, if_false, if_true, hself, and_true,
    show ¬ (32 = 64) by decide]
  decide

theorem divResult_overflow : divResult .div 0x8000000000000000 (BitVec.allOnes 64) = 0x8000000000000000 ∧
    divResult .rem 0x8000000000000000 (BitVec.allOnes 64) = 0 := by decide

theorem divResult_word_overflow (ha : a.setWidth 32 = 0x80000000#32) (hb : b.setWidth 32 = BitVec.allOnes 32) :
    divResult .divw a b = 0xFFFFFFFF80000000 ∧ divResult .remw a b = 0 := by
  have hmin : a.toNat % 2 ^ 32 = 2 ^ (32 - 1) := congrArg BitVec.toNat ha
  have hone : b.toNat % 2 ^ 32 = 2 ^ 32 - 1 := congrArg BitVec.toNat hb
  simp only [divResult, divShape, divCore_overflow (by decide : 0 < 32) hmin hone]
  decide

variable (hb : b ≠ 0)
include hb

theorem divisor_mod_ne : b.toNat % 2 ^ 64 ≠ 0 := by
  rw [Nat.mod_eq_of_lt b.isLt]
  exact fun h => hb (BitVec.eq_of_toNat_eq h)

theorem divResult_unsigned : divResult .divu a b = a / b ∧ divResult .remu a b = a % b := by
  simp only [divResult, divShape, divCore_unsigned (divisor_mod_ne hb), if_true, Bool.false_eq_true, if_false,
    Nat.mod_eq_of_lt a.isLt, Nat.mod_eq_of_lt b.isLt]
  exact ⟨(BitVec.udiv_def ..).symm, (BitVec.umod_def ..).symm⟩

theorem divResult_signed (hov : ¬ (a = 0x8000000000000000 ∧ b = BitVec.allOnes 64)) :
    divResult .div a b = a.sdiv b ∧ divResult .rem a b = a.srem b := by
  have hread (x : DWord) : sInt 64 x.toNat = x.toInt := by
    rw [sInt_eq_toInt (by decide), BitVec.ofNat_toNat, BitVec.setWidth_eq]
  have hcorner : ¬ (sInt 64 a.toNat = -(2 ^ (64 - 1)) ∧ sInt 64 b.toNat = -1) := by
    rw [hread, hread]
    exact fun ⟨hmin, hone⟩ => hov ⟨BitVec.eq_of_toInt_eq hmin, BitVec.eq_of_toInt_eq hone⟩
  simp only [divResult, divShape, divCore_signed (divisor_mod_ne hb) hcorner, if_true, Bool.false_eq_true, if_false, hread,
    ofNat_wrapNat]
  constructor
  · apply BitVec.eq_of_toInt_eq
    rw [BitVec.toInt_ofInt, BitVec.toInt_sdiv]
  · rw [← BitVec.toInt_srem, BitVec.ofInt_toInt]

end scalar

/-- A divide by zero takes 4 cc (R127). -/
theorem divLatency_zero (f : DivFn) (a : DWord) : divLatency f a 0 = 4 := by
  cases f <;> rfl

/-! Element divides (R126). -/

theorem vInt_div_zero {w x : Nat} (hx : x < 2 ^ w) (d : Nat) :
    vInt .div w x 0 d = some (2 ^ w - 1, false) ∧ vInt .divu w x 0 d = some (2 ^ w - 1, false) ∧
      vInt .rem w x 0 d = some (x, false) ∧ vInt .remu w x 0 d = some (x, false) := by
  have hz : 0 % 2 ^ w = 0 := Nat.zero_mod _
  simp only [vInt, divCore_zero hz, Bool.false_eq_true, if_false, if_true, Nat.mod_eq_of_lt hx, and_self]

theorem vInt_div_overflow {w : Nat} (hw : 0 < w) (d : Nat) :
    vInt .div w (2 ^ (w - 1)) (2 ^ w - 1) d = some (2 ^ (w - 1), false) ∧
      vInt .rem w (2 ^ (w - 1)) (2 ^ w - 1) d = some (0, false) := by
  have hmin : 2 ^ (w - 1) % 2 ^ w = 2 ^ (w - 1) := Nat.mod_eq_of_lt (Nat.pow_lt_pow_right (by decide) (by omega))
  have hone : (2 ^ w - 1) % 2 ^ w = 2 ^ w - 1 := Nat.mod_eq_of_lt (Nat.sub_lt (Nat.two_pow_pos w) Nat.one_pos)
  simp only [vInt, divCore_overflow hw hmin hone, Bool.false_eq_true, if_false, if_true, and_self]

/-! Instructions. -/

/-- An integer instruction writes rd and moves the pc past itself. -/
theorem Chip.intResult_only (c : Chip) (n rd : Nat) (v : DWord) (len lat : Nat) :
    OnlyHart c (c.intResult n rd v len lat) n { (c.hart n).setX rd v with pc := (c.hart n).pc + BitVec.ofNat 64 len } := by
  have hret := c.retire_only n (·.setX rd v) len lat 1
  rwa [Hart.setX_pc] at hret

theorem Chip.intResult_lat (c : Chip) (n rd : Nat) (v : DWord) (len lat : Nat) :
    ((c.intResult n rd v len lat).hart n).lat = lat := by
  obtain ⟨-, -, hlat, -⟩ := Chip.retire_counts (c.modHart n (·.setX rd v)) n len lat 1
  exact hlat

section ready

variable {c : Chip} {n : Nat} (hr : c.ready n = true)
include hr

theorem Chip.instruction_integer (rd rs1 rs2 len : Nat) (imm : Int) :
    let h := c.hart n
    (∀ f, c.instruction n (.alu f rd rs1 rs2) len =
      c.intResult n rd (aluResult f (h.getX rs1) (h.getX rs2)) len (aluLatency f)) ∧
    (∀ f, c.instruction n (.alui f rd rs1 imm) len = c.intResult n rd (aluResult f (h.getX rs1) (BitVec.ofInt 64 imm)) len 1) ∧
    (∀ f, c.instruction n (.un f rd rs1) len = c.intResult n rd (unResult f (h.getX rs1)) len 1) ∧
    c.instruction n (.lui rd imm) len = c.intResult n rd (BitVec.ofInt 64 (imm * 4096)) len 1 ∧
    c.instruction n (.auipc rd imm) len = c.intResult n rd (h.pc + BitVec.ofInt 64 (imm * 4096)) len 1 := by
  obtain ⟨k, hcore⟩ := Chip.ready_liveCore hr
  have hheld := Chip.ready_held hr
  refine ⟨fun f => ?_, fun f => ?_, fun f => ?_, ?_, ?_⟩ <;>
    simp only [Chip.instruction, hcore, hheld, Option.isSome_none, Bool.false_eq_true, if_false]

theorem Chip.integerDivide_eq (f : DivFn) (rd rs1 rs2 : Nat) :
    c.integerDivide n f rd rs1 rs2 = c.intResult n rd (divResult f ((c.hart n).getX rs1) ((c.hart n).getX rs2)) 4
      (divLatency f ((c.hart n).getX rs1) ((c.hart n).getX rs2)) := by
  obtain ⟨k, hcore⟩ := Chip.ready_liveCore hr
  have hheld := Chip.ready_held hr
  simp only [Chip.integerDivide, hcore, hheld, Option.isSome_none, Bool.false_eq_true, if_false]
  rfl

end ready

/-- Settles O1: integer instructions by their one form, the table of R126 at each width, and the divides with their times. -/
theorem integerArithmeticNeverTraps : Obligations.IntegerArithmeticNeverTraps := by
  refine ⟨fun s n len rd rs1 rs2 imm => ?_, fun a b => ?_, fun s n rd rs1 rs2 f => ?_⟩
  · intro h fin hr
    have hruns : ∀ {op : HartOp} {v : DWord} {lat : Nat}, aheadOp op = false →
        s.chip.instruction n op len = s.chip.intResult n rd v len lat → RunsTo (.instruction n op len) s (fin v) :=
      fun _ hop => RunsTo.hart_of_ready (·.instruction n _ len) hr rfl (by rw [hop]; exact s.chip.intResult_only n rd _ len _)
    obtain ⟨halu, halui, hun, hlui, hauipc⟩ := Chip.instruction_integer hr rd rs1 rs2 len imm
    exact ⟨fun f => hruns rfl (halu f), fun f => hruns rfl (halui f), fun f => hruns rfl (hun f), hruns rfl hlui,
      hruns rfl hauipc⟩
  · obtain ⟨hdiv, hrem⟩ := divResult_overflow
    refine ⟨divResult_zero, divResult_word_zero, hdiv, hrem, divResult_word_overflow, divResult_unsigned, divResult_signed,
      fun w x d hw hx => ?_⟩
    have hpos : 0 < w := Nat.pos_of_ne_zero (by rintro rfl; exact absurd hw (by decide))
    obtain ⟨hdz, hduz, hrz, hruz⟩ := vInt_div_zero hx d
    exact ⟨hdz, hduz, hrz, hruz, vInt_div_overflow hpos d⟩
  · intro h hr
    have hop := Chip.integerDivide_eq hr f rd rs1 rs2
    have hlat := s.chip.intResult_lat n rd (divResult f (h.getX rs1) (h.getX rs2)) 4 (divLatency f (h.getX rs1) (h.getX rs2))
    have honly := s.chip.intResult_only n rd (divResult f (h.getX rs1) (h.getX rs2)) 4 (divLatency f (h.getX rs1) (h.getX rs2))
    rw [← hop] at hlat honly
    refine RunsTo.of_ready (·.integerDivide n f rd rs1 rs2) hr rfl honly.fuse ⟨honly, hlat, fun hz => ?_⟩
    rw [hlat, hz, divLatency_zero]

end Sys2Proof.Machine
end

section
/-! Floating point (R130, R131): the rounding modes as arithmetic on the remainder, when a mode is reserved, and what an FP
instruction and the writes of frm and fflags leave of their hart. -/

namespace Sys2Proof.Machine

/-! Rounding (R130). -/

/-- z is an integer nearest to r + rem / 2^k. -/
def NearestTo (r rem k z : Nat) : Prop :=
  2 * (z * 2 ^ k) ≤ 2 * (r * 2 ^ k + rem) + 2 ^ k ∧ 2 * (r * 2 ^ k + rem) ≤ 2 * (z * 2 ^ k) + 2 ^ k

/-- The next integer is a nearest one when the remainder is at least one half. -/
theorem NearestTo.succ {r rem k : Nat} (hrem : rem < 2 ^ k) (h : 2 ^ k ≤ 2 * rem) : NearestTo r rem k (r + 1) := by
  have hnext : (r + 1) * 2 ^ k = r * 2 ^ k + 2 ^ k := Nat.succ_mul r _
  rw [NearestTo, hnext]
  omega

/-- The integer itself is a nearest one when the remainder is at most one half. -/
theorem NearestTo.self {r rem k : Nat} (h : 2 * rem ≤ 2 ^ k) : NearestTo r rem k r := by
  rw [NearestTo]
  omega

section rounding

variable (neg : Bool) (r rem k : Nat)

theorem roundUp_rne : roundUp .rne neg r rem k = if 2 ^ k < 2 * rem ∨ 2 * rem = 2 ^ k ∧ r % 2 = 1 then r + 1 else r := by
  simp [roundUp]

theorem roundUp_rmm : roundUp .rmm neg r rem k = if 2 ^ k ≤ 2 * rem then r + 1 else r := by
  simp [roundUp]

theorem roundUp_rtz : roundUp .rtz neg r rem k = r := rfl

theorem roundUp_rdn : roundUp .rdn neg r rem k = if neg && decide (rem ≠ 0) then r + 1 else r := by
  simp [roundUp, Nat.pos_iff_ne_zero]

theorem roundUp_rup : roundUp .rup neg r rem k = if !neg && decide (rem ≠ 0) then r + 1 else r := by
  simp [roundUp, Nat.pos_iff_ne_zero]

variable {rem k}

theorem roundUp_rne_nearest (hrem : rem < 2 ^ k) : NearestTo r rem k (roundUp .rne neg r rem k) := by
  rw [roundUp_rne]
  split
  · exact .succ hrem (by omega)
  · exact .self (by omega)

/-- A tie goes to the even neighbour. -/
theorem roundUp_rne_tie (htie : 2 * rem = 2 ^ k) : roundUp .rne neg r rem k % 2 = 0 := by
  rw [roundUp_rne]
  split <;> omega

theorem roundUp_rmm_nearest (hrem : rem < 2 ^ k) : NearestTo r rem k (roundUp .rmm neg r rem k) := by
  rw [roundUp_rmm]
  split
  · exact .succ hrem (by omega)
  · exact .self (by omega)

/-- A tie goes away from zero. -/
theorem roundUp_rmm_tie (htie : 2 * rem = 2 ^ k) : roundUp .rmm neg r rem k = r + 1 := by
  rw [roundUp_rmm, if_pos htie.ge]

end rounding

/-! Rounding modes of an instruction. -/

theorem rmOf_reserved {n : Nat} (hn : 5 ≤ n) : rmOf n = none := by
  obtain ⟨k, rfl⟩ := Nat.exists_eq_add_of_le' hn
  rfl

/-- An rm field that names no mode, by itself or through frm. -/
theorem Hart.rm_reserved {h : Hart} {rm : BitVec 3} (hrm : rm = 5#3 ∨ rm = 6#3 ∨ (rm = 7#3 ∧ 5 ≤ fld (h.csr cFrm) 2 0)) :
    h.rm rm = none := by
  rcases hrm with rfl | rfl | ⟨rfl, hfrm⟩
  · rfl
  · rfl
  · exact rmOf_reserved hfrm

/-! State that FP instructions change. -/

theorem Hart.fsDirty_csr (h : Hart) {k : Nat} (hm : k ≠ 0x300) (hs : k ≠ 0x200) : h.fsDirty.csr k = h.csr k := by
  unfold Hart.fsDirty
  dsimp only
  split
  · exact (Hart.csr_setCsr_ne hs _ _).trans (Hart.csr_setCsr_ne hm _ _)
  · exact Hart.csr_setCsr_ne hm _ _

theorem Hart.accrue_pc (h : Hart) (fl : BitVec 5) : (h.accrue fl).pc = h.pc := by
  unfold Hart.accrue
  split
  · rfl
  · exact Hart.fsDirty_pc _

/-- Flags are ORed into fflags (R131). -/
theorem Hart.accrue_fflags (h : Hart) (fl : BitVec 5) : (h.accrue fl).csr cFflags = h.csr cFflags ||| fl.setWidth 64 := by
  unfold Hart.accrue
  split
  · next hz => simp [hz]
  · rw [Hart.fsDirty_csr _ (by decide) (by decide), Hart.csr_setCsr_self]

theorem Hart.setF_csr (h : Hart) (r : Nat) (v : DWord) {k : Nat} (hm : k ≠ 0x300) (hs : k ≠ 0x200) :
    (h.setF r v).csr k = h.csr k :=
  Hart.fsDirty_csr _ hm hs

/-! FP instructions. -/

/-- An instruction of a ready hart that comes to an illegal-instruction exception. -/
theorem RunsTo.illegal_of_ready {i : Instr} {s : State} {n : Nat} {ahead : Bool} (f : Chip → Chip) (hr : s.chip.ready n = true)
    (he : exec i s = onParts (partsOf i) s fun c => c.traced n f ahead) (hf : f s.chip = s.chip.illegal n) :
    RunsTo i s fun c => s.chip.tookIllegal c n :=
  RunsTo.of_ready f hr he (by rw [hf]; rfl) ⟨_, hf⟩

/-- The result of an FP instruction written, with its flags accrued (R131, R133). -/
def Hart.putFp (h : Hart) (op : FpOp) : FpRes → Hart
  | .f r fl => (h.accrue fl).setF op.rd (boxed op.fmt r)
  | .x v fl => (h.accrue fl).setX op.rd v

theorem Hart.putFp_pc (h : Hart) (op : FpOp) (res : FpRes) : (h.putFp op res).pc = h.pc := by
  cases res with
  | f r fl => rw [Hart.putFp, Hart.setF_pc, Hart.accrue_pc]
  | x v fl => rw [Hart.putFp, Hart.setX_pc, Hart.accrue_pc]

/-- A write of frm or fflags stores the value, marks FP state and retires. -/
theorem Chip.writeFpCsr_only (c : Chip) (n k : Nat) (v : DWord) :
    OnlyHart c ((c.modHart n fun h => (h.setCsr k v).fsDirty).retire n 4 1) n
      { ((c.hart n).setCsr k v).fsDirty with pc := (c.hart n).pc + 4 } := by
  have hret := c.retire_only n (fun h => (h.setCsr k v).fsDirty) 4 1 1
  rwa [Hart.fsDirty_pc] at hret

section ready

variable {c : Chip} {n : Nat} (hr : c.ready n = true)
include hr

theorem Chip.fpInstruction_reserved {op : FpOp} (hfs : (c.hart n).fsOn = true) (hrounds : fpRounds op.fn = true)
    (hrm : (c.hart n).rm op.rm = none) : c.fpInstruction n op = c.illegal n := by
  obtain ⟨k, hcore⟩ := Chip.ready_liveCore hr
  have hheld := Chip.ready_held hr
  simp only [Chip.fpInstruction, hcore, hheld, hfs, hrounds, hrm, Option.isSome_none, Bool.false_eq_true, if_false, if_true,
    ite_self]

/-- An FP instruction that is not illegal writes its result and retires. -/
theorem Chip.fpInstruction_only {op : FpOp} {rm : Rm} (hfs : (c.hart n).fsOn = true) (hex : fpExists op = true)
    (hrm : if fpRounds op.fn then (c.hart n).rm op.rm = some rm else rm = .rne) :
    OnlyHart c (c.fpInstruction n op) n
      { (c.hart n).putFp op (fpResult (c.hart n) op rm) with pc := (c.hart n).pc + 4 } := by
  obtain ⟨k, hcore⟩ := Chip.ready_liveCore hr
  have hheld := Chip.ready_held hr
  have hop : c.fpInstruction n op =
      (c.modHart n fun h => (h.putFp op (fpResult h op rm)).event 0x501 1).retire n 4 (fpLatency op.fn op.fmt) := by
    simp only [Chip.fpInstruction, hcore, hheld, hfs, hex, Option.isSome_none, Bool.not_true, Bool.or_self, Bool.false_eq_true,
      if_false]
    split at hrm
    · next hrounds => simp only [hrounds, hrm, if_true]; rfl
    · next hrounds => simp only [hrounds, hrm]; rfl
  have hret := OnlyHart.modHart_retire (c := c) (n := n) (f := fun h => (h.putFp op (fpResult h op rm)).event 0x501 1)
    (Hart.event_agrees _ 0x501 1) 4 (fpLatency op.fn op.fmt) 1
  rw [Hart.putFp_pc, ← hop] at hret
  exact hret

theorem Chip.frmWrite_only (hfs : (c.hart n).fsOn = true) (v : BitVec 3) :
    OnlyHart c (c.frmWrite n v) n { ((c.hart n).setCsr cFrm (v.setWidth 64)).fsDirty with pc := (c.hart n).pc + 4 } := by
  obtain ⟨k, hcore⟩ := Chip.ready_liveCore hr
  simp only [Chip.frmWrite, hcore, hfs, Bool.not_true, Bool.false_eq_true, if_false]
  exact c.writeFpCsr_only n cFrm _

theorem Chip.fflagsWrite_only (hfs : (c.hart n).fsOn = true) (v : BitVec 5) :
    OnlyHart c (c.fflagsWrite n v) n { ((c.hart n).setCsr cFflags (v.setWidth 64)).fsDirty with pc := (c.hart n).pc + 4 } := by
  obtain ⟨k, hcore⟩ := Chip.ready_liveCore hr
  simp only [Chip.fflagsWrite, hcore, hfs, Bool.not_true, Bool.false_eq_true, if_false]
  exact c.writeFpCsr_only n cFflags _

theorem Chip.fflagsWrite_off (hfs : (c.hart n).fsOn = false) (v : BitVec 5) : c.fflagsWrite n v = c.illegal n := by
  obtain ⟨k, hcore⟩ := Chip.ready_liveCore hr
  simp only [Chip.fflagsWrite, hcore, hfs, Bool.not_false, if_true]

/-! Vector instructions with a reserved frm (R130). -/

variable (hfrm : 5 ≤ fld ((c.hart n).csr cFrm) 2 0)
include hfrm

theorem Chip.vectorInstruction_reserved {op : VOp} (hfp : vIsFp op = true) : c.vectorInstruction n op = c.illegal n := by
  obtain ⟨k, hcore⟩ := Chip.ready_liveCore hr
  have hheld := Chip.ready_held hr
  have hrm : rmOf ((c.hart n).csrFld cFrm 2 0) = none := rmOf_reserved hfrm
  simp only [Chip.vectorInstruction, hcore, hheld, hfp, hrm, Option.isSome_none, Option.isNone_none, Bool.or_true, Bool.and_self,
    Bool.false_eq_true, if_false, if_true]

theorem Chip.vectorReduction_reserved {op : VRedOp} (hfp : op.fn ∈ [VRedFn.fosum, .fusum, .fwosum, .fwusum, .fmin, .fmax]) :
    c.vectorReduction n op = c.illegal n := by
  obtain ⟨k, hcore⟩ := Chip.ready_liveCore hr
  have hheld := Chip.ready_held hr
  have hrm : rmOf ((c.hart n).csrFld cFrm 2 0) = none := rmOf_reserved hfrm
  have hisFp : [VRedFn.fosum, .fusum, .fwosum, .fwusum, .fmin, .fmax].contains op.fn = true := List.contains_iff_mem.mpr hfp
  simp only [Chip.vectorReduction, hcore, hheld, hisFp, hrm, Option.isSome_none, Bool.not_true, Bool.or_self, Bool.and_false,
    Bool.false_and, Bool.not_false, Bool.false_eq_true, if_false, if_true]

end ready

/-- frm holds the value that was written, and gives the mode of rm 0b111. -/
theorem Hart.rm_of_frm {h : Hart} {v : BitVec 3} (hfrm : h.csr cFrm = v.setWidth 64) : h.rm 7#3 = rmOf v.toNat := by
  have hfld : fld (v.setWidth 64) 2 0 = v.toNat := by
    simp [fld, Nat.mod_eq_of_lt v.isLt]
  rw [Hart.rm, if_pos rfl, Hart.csrFld, hfrm, hfld]

/-- Settles O3: the reserved modes of the three kinds of instruction, the write of frm, the modes of rm, and how each rounds. -/
theorem roundingModesFollowFrm : Obligations.RoundingModesFollowFrm := by
  refine ⟨fun s n op vop red v => ?_, fun h => ⟨rfl, rfl, rfl, rfl, rfl, rfl⟩, fun neg r rem k hrem => ?_⟩
  · intro h illegal hr
    refine ⟨fun hfs hrounds hrm => ?_, fun hfp hfrm => ?_, fun hfp hfrm => ?_, fun hfs => ?_⟩
    · exact RunsTo.illegal_of_ready (·.fpInstruction n op) hr rfl
        (Chip.fpInstruction_reserved hr hfs hrounds (Hart.rm_reserved hrm))
    · exact RunsTo.illegal_of_ready (·.vectorInstruction n vop) hr rfl (Chip.vectorInstruction_reserved hr hfrm hfp)
    · exact RunsTo.illegal_of_ready (·.vectorReduction n red) hr rfl (Chip.vectorReduction_reserved hr hfrm hfp)
    · have honly := Chip.frmWrite_only hr hfs v
      have hfrm : ((s.chip.frmWrite n v).hart n).csr cFrm = v.setWidth 64 :=
        (honly.agrees.csr rfl).trans ((Hart.csr_congr rfl _).trans
          ((Hart.fsDirty_csr _ (by decide) (by decide)).trans (Hart.csr_setCsr_self _ _ _)))
      exact RunsTo.of_ready (·.frmWrite n v) hr rfl honly.fuse ⟨honly, Hart.rm_of_frm hfrm⟩
  · exact ⟨roundUp_rne_nearest neg r hrem, roundUp_rne_tie neg r, roundUp_rmm_nearest neg r hrem, roundUp_rmm_tie neg r,
      roundUp_rtz neg r rem k, roundUp_rdn neg r rem k, roundUp_rup neg r rem k⟩

end Sys2Proof.Machine
end

section
/-! Arithmetic that retires (R130, R131, R142, R143): what an FP result leaves in fflags, and what a legal vector instruction and
an integer sum leave of their hart. -/

namespace Sys2Proof.Machine

theorem Hart.vsDirty_pc (h : Hart) : h.vsDirty.pc = h.pc := by
  obtain ⟨m, hdirty⟩ := h.vsDirty_eq
  rw [hdirty]

/-- The flags of a result. -/
def FpRes.flags : FpRes → BitVec 5
  | .f _ fl => fl
  | .x _ fl => fl

/-- fflags after an FP instruction (R131). -/
theorem Hart.putFp_fflags (h : Hart) (op : FpOp) (res : FpRes) :
    (h.putFp op res).csr cFflags =
      h.csr cFflags ||| res.flags.setWidth 64 := by
  cases res with
  | f r fl => exact (Hart.setF_csr _ _ _ (by decide) (by decide)).trans (h.accrue_fflags fl)
  | x v fl => exact (Hart.setX_csr _ _ _ _).trans (h.accrue_fflags fl)

theorem Hart.getX_setX_self (h : Hart) (r : Nat) (v : DWord) : (h.setX r v).getX r = if r % 32 = 0 then 0 else v := by
  rw [Hart.getX_setX]
  by_cases hr : r % 32 = 0
  · simp [hr, Hart.getX]
  · simp [hr]

/-- A sum, of no elements or of some: the value, no flags, and a latency. -/
theorem redResult_sum (f : Fmt) (rm : Rm) (w start : Nat) (es : List Nat) :
    (if es.isEmpty then (start, 0, 2) else redResult .sum f rm w start es) =
      (es.foldl (fun a b => (a + b) % 2 ^ w) start, 0, if es.isEmpty then 2 else 3 + clog2 es.length) := by
  cases es <;> rfl

section ready

variable {c : Chip} {n : Nat} (hr : c.ready n = true)
include hr

/-- A legal vector instruction writes what its elements give and retires (R142). -/
theorem Chip.vectorInstruction_only {op : VOp} {rm : Rm} {x : Hart} (hvl : (c.hart n).vl ≠ 0)
    (hlegal : (c.hart n).vLegal op = true) (hfp : vIsFp op = true → (c.hart n).fsOn = true)
    (hrm : rmOf ((c.hart n).csrFld cFrm 2 0) = some rm)
    (hx : (c.hart n).vExec op rm = some x) :
    OnlyHart c (c.vectorInstruction n op) n { x.vsDirty with pc := x.pc + 4 } := by
  obtain ⟨k, hcore⟩ := Chip.ready_liveCore hr
  have hheld := Chip.ready_held hr
  have hfpok : (vIsFp op && !(c.hart n).fsOn) = false := by
    cases hop : vIsFp op with
    | false => rfl
    | true => rw [hfp hop]; rfl
  simp only [Chip.vectorInstruction, hcore, hheld, hlegal, hrm, hx, hvl, hfpok, Option.isSome_none, Option.isNone_some,
    Option.getD_some, Bool.not_true, Bool.or_false, Bool.false_eq_true, if_false]
  rw [← Hart.vsDirty_pc x]
  exact OnlyHart.modHart_retire (f := fun _ => x.vsDirty.event 0x501 _) (Hart.event_agrees _ 0x501 _) 4 _ _

/-- The sum of vs1's first element and the active elements of vs2 is written, and the instruction retires (R143). -/
theorem Chip.vectorReduction_sum_only {red : VRedOp} (hvl : (c.hart n).vl ≠ 0) (hvs : (c.hart n).vsOn = true)
    (hvill : (c.hart n).vill = false) (hstart : (c.hart n).vstart = 0) (hgroup : red.vs2 % max 1 ((c.hart n).lmul8 / 8) = 0)
    (hsum : red.fn = .sum) :
    let h := c.hart n
    let elems := (h.active red.masked).map fun i => h.elem red.vs2 h.sew i
    let total := elems.foldl (fun a b => (a + b) % 2 ^ h.sew) (h.elem red.vs1 h.sew 0)
    OnlyHart c (c.vectorReduction n red) n { (h.setElem red.vd h.sew 0 total).vsDirty with pc := h.pc + 4 } := by
  intro h elems total
  obtain ⟨k, hcore⟩ := Chip.ready_liveCore hr
  have hheld := Chip.ready_held hr
  have hfp : [VRedFn.fosum, .fusum, .fwosum, .fwusum, .fmin, .fmax].contains VRedFn.sum = false := rfl
  have hwide : [VRedFn.fwosum, .fwusum, .wsumu, .wsum].contains VRedFn.sum = false := rfl
  have hop : ∃ lat, c.vectorReduction n red =
      (c.modHart n fun h => (h.setElem red.vd (c.hart n).sew 0 total).vsDirty).retire n 4 lat := by
    simp only [Chip.vectorReduction, hcore, hheld, hsum, hfp, hwide, hvs, hvill, hstart, hgroup, hvl, redResult_sum,
      Option.isSome_none, Bool.not_true, Bool.not_false, Bool.and_self, Bool.true_or,
      decide_true, Bool.false_eq_true, if_false]
    exact ⟨_, rfl⟩
  obtain ⟨lat, hop⟩ := hop
  have hret := c.retire_only n (fun h => (h.setElem red.vd (c.hart n).sew 0 total).vsDirty) 4 lat 1
  rw [Hart.vsDirty_pc, ← hop] at hret
  exact hret

end ready

/-- Settles O4: FP instructions, the write of fflags, and the vector instructions and sums that are legal. -/
theorem fpAndVectorArithmeticRetire : Obligations.FpAndVectorArithmeticRetire := by
  refine ⟨fun s n op rm => ?_, fun s n v => ?_, fun s n op red x => ?_⟩
  · intro h hr hfs hex hrm
    have honly := Chip.fpInstruction_only hr hfs hex hrm
    have hflags := (honly.agrees.csr (k := cFflags) rfl).trans ((Hart.csr_congr rfl _).trans (h.putFp_fflags op (fpResult h op rm)))
    refine RunsTo.of_ready (·.fpInstruction n op) hr rfl honly.fuse ?_
    dsimp only
    cases hres : fpResult h op rm with
    | f r fl =>
      rw [hres] at honly hflags
      exact ⟨(honly.agrees.field (·.getF op.rd)).trans (Hart.getF_setF_self _ _ _), hflags, honly⟩
    | x v fl =>
      rw [hres] at honly hflags
      exact ⟨(honly.agrees.field (·.getX op.rd)).trans (Hart.getX_setX_self _ _ _), hflags, honly⟩
  · intro h hr
    exact ⟨fun hfs => RunsTo.hart_of_ready (·.fflagsWrite n v) hr rfl (Chip.fflagsWrite_only hr hfs v),
      fun hfs => RunsTo.illegal_of_ready (·.fflagsWrite n v) hr rfl (Chip.fflagsWrite_off hr hfs v)⟩
  · intro h hr hvl
    refine ⟨fun hlegal hfp rm hrm hx => ?_, fun hvs hvill hstart hgroup hsum => ?_⟩
    · exact RunsTo.hart_of_ready (·.vectorInstruction n op) hr rfl (Chip.vectorInstruction_only hr hvl hlegal hfp hrm hx)
    · exact RunsTo.hart_of_ready (·.vectorReduction n red) hr rfl
        (Chip.vectorReduction_sum_only hr hvl hvs hvill hstart hgroup hsum)

end Sys2Proof.Machine
end

section
/-! Vector configuration (R140): the settings that vsetvl takes, and what it leaves of its hart. -/

namespace Sys2Proof.Machine

/-- A reserved field of vtype is nonzero, or holds a reserved value (R140). -/
def vtypeReserved (t : DWord) : Prop := fld t 62 8 ≠ 0 ∨ fld t 63 63 ≠ 0 ∨ 3 < fld t 5 3 ∨ fld t 2 0 = 4

/-- A setting is taken when no field is reserved and SEW ≤ LMUL x 64. -/
theorem vtypeLegal_iff {t : DWord} :
    vtypeLegal t = true ↔ ¬ vtypeReserved t ∧ 8 * (8 * 2 ^ fld t 5 3) ≤ lmul8 (fld t 2 0) * 64 := by
  simp only [vtypeLegal, vtypeReserved, Bool.and_eq_true, decide_eq_true_eq, not_or, not_not, not_lt, ne_eq, and_assoc,
    Nat.mul_comm (8 * 2 ^ fld t 5 3) 8]

theorem lmul8_eq_pow {m : Nat} (hm : m < 8) (hne : m ≠ 4) : ∃ k, lmul8 m = 2 ^ k := by
  interval_cases m
  exacts [⟨3, rfl⟩, ⟨4, rfl⟩, ⟨5, rfl⟩, ⟨6, rfl⟩, absurd rfl hne, ⟨0, rfl⟩, ⟨1, rfl⟩, ⟨2, rfl⟩]

/-- VLMAX divides out: SEW and LMUL are powers of two, so LMUL x 256 is a multiple of SEW at every setting that is taken. -/
theorem vlmaxOf_mul {t : DWord} (h : vtypeLegal t = true) : vlmaxOf t * (8 * 2 ^ fld t 5 3) = lmul8 (fld t 2 0) * 32 := by
  obtain ⟨hres, hle⟩ := vtypeLegal_iff.mp h
  have hne : fld t 2 0 ≠ 4 := fun h4 => hres (.inr (.inr (.inr h4)))
  obtain ⟨k, hk⟩ := lmul8_eq_pow (fld_lt t 2 0) hne
  have hek : fld t 5 3 ≤ k := by
    rw [hk] at hle
    exact (Nat.pow_le_pow_iff_right (by decide : 1 < 2)).mp (by omega)
  have hdvd : 8 * 2 ^ fld t 5 3 ∣ lmul8 (fld t 2 0) * 32 := by
    rw [hk, Nat.mul_comm]
    exact Nat.mul_dvd_mul (Nat.pow_dvd_pow 2 hek) (by decide)
  have hmax : vlmaxOf t = lmul8 (fld t 2 0) * 32 / (8 * 2 ^ fld t 5 3) := by
    rw [vlmaxOf, Nat.mul_div_assoc _ (by decide : 8 ∣ 256)]
  rw [hmax, Nat.div_mul_cancel hdvd]

theorem vlmaxOf_le (t : DWord) : vlmaxOf t ≤ 2048 := by
  have hlmul : lmul8 (fld t 2 0) ≤ 64 := by
    unfold lmul8
    split <;> decide
  have hdiv : vlmaxOf t ≤ lmul8 (fld t 2 0) * 256 / 8 := Nat.div_le_self _ _
  omega

/-- The vl that a setting gives for an AVL. -/
def vlOf (t : DWord) (avl : Nat) : Nat := if vtypeLegal t then min avl (vlmaxOf t) else 0

theorem vlOf_lt (t : DWord) (avl : Nat) : vlOf t avl < 2 ^ 64 := by
  have hmax := vlmaxOf_le t
  unfold vlOf
  split <;> omega

/-! LMUL as a fraction. -/

section fraction

variable {t : DWord} {lmul : Rat} (hlmul : (lmul8 (fld t 2 0) : Rat) = 8 * lmul)
include hlmul

theorem vtypeLegal_iff_fraction :
    vtypeLegal t = true ↔ ¬ vtypeReserved t ∧ ((8 * 2 ^ fld t 5 3 : Nat) : Rat) ≤ lmul * 64 := by
  have hratio : ((8 * 2 ^ fld t 5 3 : Nat) : Rat) ≤ lmul * 64 ↔ 8 * (8 * 2 ^ fld t 5 3) ≤ lmul8 (fld t 2 0) * 64 := by
    rw [← Nat.cast_le (α := Rat), Nat.cast_mul 8 (8 * _), Nat.cast_mul (lmul8 _), hlmul, Nat.cast_ofNat, Nat.cast_ofNat]
    constructor <;> intro hle <;> linarith
  rw [hratio, vtypeLegal_iff]

/-- vl = min(AVL, LMUL x 256 / SEW). -/
theorem vlOf_fraction (hlegal : vtypeLegal t = true) (avl : Nat) :
    (vlOf t avl : Rat) = min (avl : Rat) (lmul * 256 / (8 * 2 ^ fld t 5 3 : Nat)) := by
  have hsew : ((8 * 2 ^ fld t 5 3 : Nat) : Rat) ≠ 0 := by positivity
  have hmul : (vlmaxOf t : Rat) * (8 * 2 ^ fld t 5 3 : Nat) = lmul8 (fld t 2 0) * 32 := by exact_mod_cast vlmaxOf_mul hlegal
  have hmax : (vlmaxOf t : Rat) = lmul * 256 / (8 * 2 ^ fld t 5 3 : Nat) := by
    rw [eq_div_iff hsew, hmul, hlmul]
    ring
  rw [vlOf, if_pos hlegal, Nat.cast_min, hmax]

end fraction

/-! The hart. -/

/-- The vtype that a setting gives: vill alone where it is not taken. -/
def vtypeOf (t : DWord) : DWord := if vtypeLegal t then t else 0x8000000000000000#64

/-- The AVL that the operands of vsetvl give. -/
def Hart.avlOf (h : Hart) (rd : Nat) : AvlSrc → Nat
  | .reg r => if r % 32 = 0 then (if rd % 32 = 0 then h.vl else 2 ^ 64 - 1) else (h.getX r).toNat
  | .imm k => k

theorem Hart.avlOf_eq {h : Hart} {rd avl : Nat} {src : AvlSrc}
    (havl : (src = .imm avl ∧ avl < 32) ∨ (∃ r, src = .reg r ∧ r % 32 ≠ 0 ∧ avl = (h.getX r).toNat) ∨
      (∃ r, src = .reg r ∧ r % 32 = 0 ∧ rd % 32 ≠ 0 ∧ avl = 2 ^ 64 - 1) ∨
      (∃ r, src = .reg r ∧ r % 32 = 0 ∧ rd % 32 = 0 ∧ avl = h.vl)) :
    h.avlOf rd src = avl := by
  rcases havl with ⟨rfl, -⟩ | ⟨r, rfl, hr, rfl⟩ | ⟨r, rfl, hr, hrd, rfl⟩ | ⟨r, rfl, hr, hrd, rfl⟩
  · rfl
  · exact if_neg hr
  · exact (if_pos hr).trans (if_neg hrd)
  · exact (if_pos hr).trans (if_pos hrd)

/-- A hart with the vector CSRs that a setting gives. -/
def Hart.setVtype (h : Hart) (avl : Nat) (t : DWord) : Hart :=
  ((h.setCsr cVl (BitVec.ofNat 64 (vlOf t avl))).setCsr cVtype (vtypeOf t)).setCsr cVstart 0

/-- A hart with those CSRs, and its new vl in rd. -/
def Hart.configured (h : Hart) (rd avl : Nat) (t : DWord) : Hart :=
  ((h.setVtype avl t).setX rd (BitVec.ofNat 64 (vlOf t avl))).vsDirty

section configured

variable (h : Hart) (rd avl : Nat) (t : DWord)

theorem Hart.configured_csrs : let x := h.configured rd avl t
    x.vl = vlOf t avl ∧ x.csr cVtype = vtypeOf t ∧ x.csr cVstart = 0 := by
  intro x
  have hcsr {k : Nat} (hm : k ≠ 0x300) (hs : k ≠ 0x200) : x.csr k = (h.setVtype avl t).csr k :=
    (Hart.vsDirty_csr _ hm hs).trans (Hart.setX_csr _ _ _ _)
  unfold Hart.setVtype at hcsr
  refine ⟨?_, ?_, ?_⟩
  · rw [Hart.vl, hcsr (by decide) (by decide), Hart.csr_setCsr_ne (by decide), Hart.csr_setCsr_ne (by decide),
      Hart.csr_setCsr_self, BitVec.toNat_ofNat, Nat.mod_eq_of_lt (vlOf_lt t avl)]
  · rw [hcsr (by decide) (by decide), Hart.csr_setCsr_ne (by decide), Hart.csr_setCsr_self]
  · rw [hcsr (by decide) (by decide), Hart.csr_setCsr_self]

theorem Hart.configured_registers : let x := h.configured rd avl t
    x.pc = h.pc ∧ x.v = h.v ∧ x.f = h.f ∧
      ∀ q, x.getX q = (h.setX rd (BitVec.ofNat 64 (vlOf t avl))).getX q := by
  intro x
  obtain ⟨m, hdirty⟩ := ((h.setVtype avl t).setX rd (BitVec.ofNat 64 (vlOf t avl))).vsDirty_eq
  obtain ⟨l, hset⟩ := (h.setVtype avl t).setX_eq rd (BitVec.ofNat 64 (vlOf t avl))
  have hx : x = { (h.setVtype avl t).setX rd (BitVec.ofNat 64 (vlOf t avl)) with csrs := m } := hdirty
  have hregs : x = { h.setVtype avl t with x := l, csrs := m } := by rw [hx, hset]
  refine ⟨congrArg (·.pc) hregs, congrArg (·.v) hregs, congrArg (·.f) hregs, fun q => ?_⟩
  rw [hx]
  exact (Hart.getX_setX (h.setVtype avl t) rd q _).trans (Hart.getX_setX h rd q _).symm

end configured

/-- With vector state on, vsetvl configures its hart and retires. -/
theorem Chip.vsetvl_only {c : Chip} {n : Nat} (hr : c.ready n = true) (hvs : (c.hart n).vsOn = true) (rd : Nat) (src : AvlSrc)
    (t : DWord) :
    OnlyHart c (c.vsetvl n rd src t) n
      { (c.hart n).configured rd ((c.hart n).avlOf rd src) t with pc := (c.hart n).pc + 4 } := by
  obtain ⟨k, hcore⟩ := Chip.ready_liveCore hr
  have hop : c.vsetvl n rd src t = (c.modHart n (·.configured rd ((c.hart n).avlOf rd src) t)).retire n 4 1 := by
    simp only [Chip.vsetvl, hcore, hvs, Bool.not_true, Bool.false_eq_true, if_false]
    cases src <;> rfl
  have hret := c.retire_only n (·.configured rd ((c.hart n).avlOf rd src) t) 4 1 1
  obtain ⟨hpc, -⟩ := (c.hart n).configured_registers rd ((c.hart n).avlOf rd src) t
  rwa [hpc, ← hop] at hret

/-- Settles O5: the settings that are not taken and those that are, with LMUL as a fraction. -/
theorem vsetvlSetsVlAndVtype : Obligations.VsetvlSetsVlAndVtype := by
  intro s n rd avl src t h sew lmul reserved hr hvs havl
  have hlmul : (lmul8 (fld t 2 0) : Rat) = 8 * lmul := by
    have henc : fld t 2 0 < 8 := fld_lt t 2 0
    unfold lmul
    generalize fld t 2 0 = enc at henc
    interval_cases enc <;> norm_num [lmul8]
  have hlegal : vtypeLegal t = true ↔ ¬ reserved ∧ (sew : Rat) ≤ lmul * 64 := vtypeLegal_iff_fraction hlmul
  have honly := Chip.vsetvl_only hr hvs rd src t
  rw [Hart.avlOf_eq havl] at honly
  obtain ⟨hvl, hvtype, hvstart⟩ := h.configured_csrs rd avl t
  obtain ⟨-, hv, hf, hx⟩ := h.configured_registers rd avl t
  have hagrees := honly.agrees
  refine RunsTo.of_ready (·.vsetvl n rd src t) hr rfl honly.fuse ?_
  intro x
  have hvl' : x.vl = vlOf t avl := (congrArg BitVec.toNat (hagrees.csr (k := cVl) rfl)).trans hvl
  have hvtype' : x.csr cVtype = vtypeOf t := (hagrees.csr (k := cVtype) rfl).trans hvtype
  have hx' (q : Nat) : x.getX q = (h.setX rd (BitVec.ofNat 64 (vlOf t avl))).getX q :=
    (hagrees.field (·.getX q)).trans (hx q)
  refine ⟨hagrees.pc, congrArg BitVec.toNat ((hagrees.csr (k := cVstart) rfl).trans hvstart), honly.2.1, honly.1,
    (hagrees.field (·.v)).trans hv, (hagrees.field (·.f)).trans hf, fun r hne => ?_, fun r => ?_, fun hbad => ?_,
    fun hres hle => ?_⟩
  · rw [hx', Hart.getX_setX, if_neg (fun h => hne h.1)]
  · rw [Hart.getV, Hart.getV, Nat.add_mod_right]
  · have hno : ¬ vtypeLegal t = true := by
      rw [hlegal, not_and, not_le]
      exact fun hres => hbad.resolve_left hres
    have hzero : vlOf t avl = 0 := if_neg hno
    refine ⟨?_, hvl'.trans hzero, ?_⟩
    · rw [Hart.vill, Hart.csrFld, hvtype', vtypeOf, if_neg hno]
      rfl
    · rw [hx', Hart.getX_setX_self, hzero]
      exact ite_self 0
  · have hyes : vtypeLegal t = true := hlegal.mpr ⟨hres, hle⟩
    refine ⟨hvtype'.trans (if_pos hyes), ?_, fun hrd => ?_⟩
    · rw [hvl']
      exact vlOf_fraction hlmul hyes avl
    · rw [hx', Hart.getX_setX_self, if_neg hrd, hvl']

end Sys2Proof.Machine
end

section
/-! A home's turn (R44, R159-R161): what the operations of a home leave of it and send, and how a home that is free takes a
request. -/

namespace Sys2Proof.Machine

/-! Tables. -/

/-- What a search of a table does not find it finds once it is put there. -/
theorem Sparse.find?_put_new {α : Type} {p : Nat × α → Bool} {k : Nat} {w : α} (hw : p (k, w) = true) :
    ∀ {m : Sparse α}, m.find? p = none → (Sparse.put m k w).find? p = some (k, w)
  | [], _ => List.find?_cons_of_pos hw
  | e :: t, hm => by
    have he : ¬ p e = true := List.find?_eq_none.mp hm e List.mem_cons_self
    rw [List.find?_cons_of_neg he] at hm
    unfold Sparse.put
    split
    · exact List.find?_cons_of_pos hw
    · split
      · exact List.find?_cons_of_pos hw
      · rw [List.find?_cons_of_neg he]
        exact Sparse.find?_put_new hw hm

/-- A list without what a search accepts. -/
theorem find?_filter_not {α : Type} {p q : α → Bool} (hq : ∀ a, p a = true → q a = false) (l : List α) : (l.filter q).find? p = none := by
  rw [List.find?_eq_none]
  intro a ha hp
  have hkept := (List.mem_filter.mp ha).2
  rw [hq a hp] at hkept
  cases hkept

/-! What a home becomes. -/

/-- From device `a` to device `d`, home `i` becomes `hm` and the messages `l` are sent; the time of the mesh stands. -/
structure HomeTo (a d : Chip) (i : Nat) (hm : Home) (l : List Msg) : Prop where
  home : d.home i = hm
  mesh : d.mesh = a.mesh ++ l.map fun x => { x with birth := a.mt / 32 }
  mt : d.mt = a.mt

namespace HomeTo

variable {a d : Chip} {i : Nat} {hm : Home} {l : List Msg}

theorem refl (a : Chip) (i : Nat) : HomeTo a a i (a.home i) [] := ⟨rfl, (List.append_nil _).symm, rfl⟩

theorem modHome (h : HomeTo a d i hm l) (f : Home → Home) : HomeTo a (d.modHome i f) i (f hm) l :=
  ⟨by rw [Chip.modHome_self, h.home], h.mesh, h.mt⟩

theorem send (h : HomeTo a d i hm l) (m : Msg) : HomeTo a (d.send m) i hm (l ++ [m]) :=
  ⟨h.home, by rw [Chip.send_mesh, h.mesh, h.mt, List.map_append, List.append_assoc]; rfl, h.mt⟩

/-- A change beside the homes and the mesh does not show. -/
theorem beside (h : HomeTo a d i hm l) {e : Chip} (hhomes : e.homes = d.homes) (hmesh : e.mesh = d.mesh) (hmt : e.mt = d.mt) :
    HomeTo a e i hm l :=
  ⟨(congrArg (fun m : Sparse Home => m.at {} i) hhomes).trans h.home, hmesh.trans h.mesh, hmt.trans h.mt⟩

theorem logErr (h : HomeTo a d i hm l) (u : Nat) {e : ErrInfo} (he : e.cls ≠ .fatal) : HomeTo a (d.logErr u e) i hm l := by
  have honly := d.logErr_onlyRecords u he
  have hhomes := congrArg Chip.homes honly
  have hmesh := congrArg Chip.mesh honly
  have hmt := congrArg Chip.mt honly
  exact h.beside hhomes hmesh hmt

theorem setReg (h : HomeTo a d i hm l) (u b o : Nat) (w : Word) : HomeTo a (d.setReg u b o w) i hm l := h.beside rfl rfl rfl

theorem countReg (h : HomeTo a d i hm l) (u b o n : Nat) : HomeTo a (d.countReg u b o n) i hm l := h.setReg _ _ _ _

end HomeTo

/-- A home without the tracker entry of a line. -/
def Home.freed (hm : Home) (line : Nat) : Home := { hm with txns := hm.txns.filter fun t => !decide (t.line = line) }

/-- A line unblocks where no drain goes on. -/
theorem HomeTo.endTxn {a d : Chip} {i : Nat} {hm : Home} {l : List Msg} (h : HomeTo a d i hm l) (hdrain : hm.drain = []) (line : Nat) :
    HomeTo a (d.endTxn i line) i (hm.freed line) l := by
  have hfreed := h.modHome (·.freed line)
  have hend : d.endTxn i line = d.modHome i (·.freed line) := by
    have hempty : ((d.modHome i (·.freed line)).home i).drain.isEmpty = true := by
      rw [hfreed.home]
      exact List.isEmpty_iff.mpr hdrain
    exact if_pos hempty
  rw [hend]
  exact hfreed

/-! Tracker entries. -/

theorem Home.blocked_putTxn (hm : Home) (t : Txn) : (hm.putTxn t).blocked t.line = true := by
  have hany : ((hm.txns.filter fun x => !decide (x.line = t.line)) ++ [t]).any (fun y => y.blocks t.line) = true := by
    rw [List.any_append]
    simp [Txn.blocks]
  rw [Home.blocked, Bool.or_assoc, Bool.or_eq_true]
  exact Or.inl hany

theorem Home.txnOf_putTxn (hm : Home) (t : Txn) : (hm.putTxn t).txnOf t.line = some t := by
  have hgone : (hm.txns.filter fun x => !decide (x.line = t.line)).find? (fun x => decide (x.line = t.line)) = none :=
    find?_filter_not (fun x hx => by rw [hx]; rfl) _
  rw [Home.txnOf, Home.putTxn, List.find?_append, hgone]
  simp

theorem Home.txnOf_freed (hm : Home) (line : Nat) : (hm.freed line).txnOf line = none :=
  find?_filter_not (fun x hx => by rw [hx]; rfl) _

/-! The directory. -/

theorem Home.setDir_eq (hm : Home) (e : DirEnt) : ∃ m n, hm.setDir e = { hm with dir := m, clock := n } := by
  unfold Home.setDir
  dsimp only
  split
  · exact ⟨_, _, rfl⟩
  · split <;> exact ⟨_, _, rfl⟩

/-- An entry of the line, or room for one. -/
def Home.dirRoom (hm : Home) (line : Nat) : Prop := (hm.dirFind line).isSome = true ∨ (hm.dirWay (homeSet line)).isSome = true

theorem Home.dirFind_setDir {hm : Home} {e : DirEnt} (hroom : hm.dirRoom e.line) :
    ∃ k, (hm.setDir e).dirFind e.line = some (k, { e with lru := hm.clock }) := by
  have hkey (k : Nat) : (decide (((k, { e with lru := hm.clock }) : Nat × DirEnt).2.line = e.line)) = true := decide_eq_true rfl
  unfold Home.setDir
  dsimp only
  cases hfind : hm.dirFind e.line with
  | some f => exact ⟨f.1, Sparse.find?_put hfind (hkey _)⟩
  | none =>
    cases hway : hm.dirWay (homeSet e.line) with
    | some w => exact ⟨_, Sparse.find?_put_new (hkey _) hfind⟩
    | none => simp [Home.dirRoom, hfind, hway] at hroom

theorem Home.dirFind_dropDir (hm : Home) (line : Nat) : (hm.dropDir line).dirFind line = none :=
  find?_filter_not (fun x hx => by rw [hx]; rfl) _

/-- State and holders that the directory of a home lists for a line. -/
def Home.listed (hm : Home) (line : Nat) : Option (DirState × List Nat) := (hm.dirFind line).map fun e => (e.2.st, e.2.ptrs)

theorem Home.listed_setDir {hm : Home} {e : DirEnt} (hroom : hm.dirRoom e.line) :
    (hm.setDir e).listed e.line = some (e.st, e.ptrs) := by
  obtain ⟨k, hfind⟩ := Home.dirFind_setDir hroom
  rw [Home.listed, hfind]
  rfl

/-! The L3. -/

theorem Home.l3Find_of_data {hm : Home} {line : Nat} {l : L3Line} (h : hm.l3Data line = some l) :
    ∃ k, hm.l3Find line = some (k, l) ∧ l.pen = false := by
  unfold Home.l3Data at h
  cases hfind : hm.l3Find line with
  | none => rw [hfind] at h; cases h
  | some e =>
    obtain ⟨k, o⟩ := e
    rw [hfind] at h
    cases hpen : o.pen with
    | true => simp [hpen] at h
    | false =>
      simp only [hpen, Bool.false_eq_true, if_false] at h
      cases h
      exact ⟨k, rfl, hpen⟩

theorem Home.l3Data_of_find {hm : Home} {line k : Nat} {l : L3Line} (h : hm.l3Find line = some (k, l)) (hpen : l.pen = false) :
    hm.l3Data line = some l := by
  simp only [Home.l3Data, h, hpen, Bool.false_eq_true, if_false]

/-- A home whose L3 holds no copy of a line. -/
def Home.l3Gone (hm : Home) (line : Nat) : Home := { hm with l3 := hm.l3.filter fun e => !decide (e.2.line = line) }

theorem Home.l3Data_l3Gone (hm : Home) (line : Nat) : (hm.l3Gone line).l3Data line = none := by
  have hfind : (hm.l3Gone line).l3Find line = none := find?_filter_not (fun x hx => by rw [hx]; rfl) _
  rw [Home.l3Data, hfind]

/-- A line of an L3 written over its own copy (R151). -/
def Home.l3Put (hm : Home) (k : Nat) (l : L3Line) : Home := ({ hm with l3 := Sparse.put hm.l3 k l } : Home).use3 k

theorem Home.l3Find_l3Put {hm : Home} {line k : Nat} {o l : L3Line} (h : hm.l3Find line = some (k, o)) (hl : l.line = line) :
    (hm.l3Put k l).l3Find line = some (k, l) :=
  Sparse.find?_put h (decide_eq_true hl)

/-- The record of an L3 line that a write makes of the copy before. -/
def L3Line.written (o : L3Line) (d : Line) (p dirty : Bool) (clos : Nat) : L3Line :=
  { o with data := d, poison := p, dirty := dirty || (o.dirty && !o.pen), pen := false, clos := clos }

/-- A write of a line that the L3 holds goes over its own copy. -/
theorem HomeTo.l3Fill {a d : Chip} {i line k : Nat} {hm : Home} {l : List Msg} {o : L3Line} (h : HomeTo a d i hm l)
    (hfind : hm.l3Find line = some (k, o)) (x : Line) (p dirty : Bool) (clos : Nat) :
    HomeTo a (d.l3Fill i line x p dirty clos) i (hm.l3Put k (o.written x p dirty clos)) l := by
  have hfill : d.l3Fill i line x p dirty clos = d.modHome i (·.l3Put k (o.written x p dirty clos)) := by
    rw [Chip.l3Fill, h.home, hfind]
    rfl
  rw [hfill]
  exact h.modHome _

/-! Data from the home (R162). -/

/-- The Data of a home that holds the line in its L3. -/
def l3Msg (i : Nat) (m : Msg) (g : Grant) (l : L3Line) : Msg :=
  { kind := .data, src := .home i, dst := m.src, line := m.line, grant := g, data := l.data, poison := l.poison, ifetch := m.ifetch }

/-- A home after its L3 has supplied a line with a grant: a copy granted M leaves, any other is used (R147, R151). -/
def Home.supplied (hm : Home) (line k : Nat) (g : Grant) : Home := if g = .m then hm.l3Gone line else hm.use3 k

theorem HomeTo.supply {a d : Chip} {i k : Nat} {hm : Home} {l : List Msg} {m : Msg} {o : L3Line} (h : HomeTo a d i hm l)
    (hfind : hm.l3Find m.line = some (k, o)) (hpen : o.pen = false) (g : Grant) :
    HomeTo a (d.supply i m g false) i (hm.supplied m.line k g) (l ++ [l3Msg i m g o]) := by
  have hdata : (d.home i).l3Data m.line = some o := by
    rw [h.home]
    exact Home.l3Data_of_find hfind hpen
  have hused : d.supply i m g false = (d.modHome i (·.supplied m.line k g)).send (l3Msg i m g o) := by
    rw [Chip.supply, hdata]
    by_cases hg : g = .m
    · simp only [hg, if_true, Home.supplied]
      rfl
    · simp only [hg, if_false, Home.supplied, Chip.l3Hit, h.home, hfind]
      rfl
  rw [hused]
  exact (h.modHome _).send _

/-! A request that a free home takes. -/

theorem homePort_lt (standby : Bool) (i : Nat) (src : Agent) : homePort standby i src < 6 := by
  unfold homePort
  dsimp only
  cases src with
  | core n => dsimp only; split_ifs <;> omega
  | _ => dsimp only; split_ifs <;> omega

/-- A home that has taken a request from its port `p` (R160). -/
def Home.took (hm : Home) (p : Nat) : Home := { hm with ports := [], rr := p }

/-- Device `a` is device `c` once home `i` has taken the message `m`, which has arrived, from port `p`. -/
structure Chip.Took (c a : Chip) (i p : Nat) (m : Msg) : Prop where
  home : a.home i = (c.home i).took p
  mesh : a.mesh = ((c.arrive m).take m).mesh
  mt : a.mt = c.mt
  cores : a.cores = c.cores
  memory : a.isMemory (m.line * 64) = true

/-- What a home's turn sends answers the message. -/
theorem Chip.Took.answers {c a d : Chip} {i p : Nat} {m : Msg} {hm : Home} {l : List Msg} (t : c.Took a i p m)
    (h : HomeTo a d i hm l) : c.answers d m l := by
  rw [Chip.answers, h.mesh, t.mesh, t.mt]

/-- The only entry of the ports wins, if it can be accepted. -/
theorem Home.winner_single {hm : Home} {p : Nat} {m : Msg} (hp : p < 6) (hports : hm.ports = [(p, m)]) (hacc : hm.accepts m = true) :
    hm.winner = some (p, m) := by
  have hfind (j : Nat) : hm.ports.find? (fun e => decide (e.1 = j) && hm.accepts e.2) = if p = j then some (p, m) else none := by
    rw [hports]
    by_cases hj : p = j <;> simp [hj, hacc]
  obtain ⟨b, hb⟩ : ∃ b, hm.winner = some b := by
    rw [Home.winner, ← Option.isSome_iff_exists, List.findSome?_isSome_iff]
    refine ⟨p, List.mem_map.mpr ⟨(p + 11 - hm.rr % 6) % 6, List.mem_range.mpr (Nat.mod_lt _ (by decide)), by omega⟩, ?_⟩
    rw [hfind, if_pos rfl]
    rfl
  obtain ⟨j, -, hj⟩ := List.exists_of_findSome?_eq_some hb
  rw [hfind] at hj
  split at hj
  · rw [hb, ← hj]
  · cases hj

theorem Chip.arrive_eq (c : Chip) (m : Msg) : ∃ l, c.arrive m = { c with mesh := l } := by
  unfold Chip.arrive
  split <;> exact ⟨_, rfl⟩

theorem Chip.homeFree_iff {c : Chip} {i : Nat} {m : Msg} : c.homeFree i m = true ↔
    m.dst = .home i ∧ c.isMemory (m.line * 64) = true ∧ (c.home i).blocked m.line = false ∧ Sparse.at (c.home i).waitq [] m.line = [] ∧
      (c.home i).ports = [] ∧ (c.home i).inPool 0 < 52 ∧ (c.home i).drain = [] := by
  simp only [Chip.homeFree, Bool.and_eq_true, decide_eq_true_eq, Bool.not_eq_true', List.isEmpty_iff, and_assoc]

/-- A home with one request in its ports. -/
def Home.posted (hm : Home) (p : Nat) (m : Msg) : Home := { hm with ports := [(p, m)] }

section posted

variable {hm : Home} {p : Nat} {m : Msg} (hblocked : hm.blocked m.line = false) (hq : Sparse.at hm.waitq [] m.line = [])
  (hpool : hm.inPool 0 < 52)
include hblocked hq hpool

/-- A request to a line that nothing holds up can be accepted where a general tracker entry is free. -/
theorem Home.accepts_posted : (hm.posted p m).accepts m = true := by
  have hblocked' : (hm.posted p m).blocked m.line = false := hblocked
  have hq' : Sparse.at (hm.posted p m).waitq [] m.line = [] := hq
  have hpool' : (hm.posted p m).inPool 0 < 52 := hpool
  simp [Home.accepts, Home.poolFor, hblocked', hq', hpool']

/-- Accepted, it starts in that entry. -/
theorem Chip.accept_posted {c : Chip} {i : Nat} (hhome : c.home i = hm.posted p m) :
    c.accept i (p, m) = (c.modHome i fun x => { x with ports := x.ports.erase (p, m), rr := p }).startReq i m 0 := by
  have hblocked' : (c.home i).blocked m.line = false := by rw [hhome]; exact hblocked
  have hq' : Sparse.at (c.home i).waitq [] m.line = [] := by rw [hhome]; exact hq
  have hpool' : (c.home i).inPool 0 < 52 := by rw [hhome]; exact hpool
  simp [Chip.accept, Home.poolFor, hblocked', hq', hpool']

end posted

/-- A request arrives at a free home: it is taken, and starts (R160, R161). -/
theorem Chip.homeReq_free {c : Chip} {i : Nat} {m : Msg} (h : c.homeFree i m = true) :
    ∃ a p, c.Took a i p m ∧ (c.arrive m).homeReq i m = a.startReq i m 0 := by
  obtain ⟨-, hmem, hblocked, hq, hports, hpool, -⟩ := Chip.homeFree_iff.mp h
  obtain ⟨ms, harrive⟩ := c.arrive_eq m
  let p := homePort c.standby i m.src
  let b := ((c.arrive m).take m).modHome i fun x => { x with ports := x.ports ++ [(p, m)] }
  have hhome : ((c.arrive m).take m).home i = c.home i := by rw [harrive]; rfl
  have hposted : b.home i = (c.home i).posted p m := by
    rw [show b.home i = _ from Chip.modHome_self _ _ _, hhome, Home.posted, hports]
    rfl
  have hwin : (b.home i).winner = some (p, m) := by
    rw [hposted]
    exact Home.winner_single (homePort_lt _ _ _) rfl (Home.accepts_posted hblocked hq hpool)
  refine ⟨b.modHome i fun x => { x with ports := x.ports.erase (p, m), rr := p }, p, ⟨?_, rfl, c.arrive_mt m, ?_, ?_⟩, ?_⟩
  · rw [Chip.modHome_self, hposted]
    simp [Home.took, Home.posted]
  · show (c.arrive m).cores = c.cores
    rw [harrive]
  · show (c.arrive m).isMemory (m.line * 64) = true
    rw [harrive]
    exact hmem
  · have hp : homePort (c.arrive m).standby i m.src = p := by rw [harrive]
    have hnone : ((c.arrive m).home i).ports = [] := by
      rw [harrive]
      exact hports
    calc (c.arrive m).homeReq i m = b.arbitrate i m 49 := by
          simp only [Chip.homeReq, hp, hnone]
          rfl
      _ = b.accept i (p, m) := by
          rw [Chip.arbitrate, hwin]
          exact if_pos rfl
      _ = _ := Chip.accept_posted hblocked hq hpool hposted

/-- A request that reaches a free home. -/
theorem Chip.atHome_free {c : Chip} {i : Nat} {m : Msg} (h : c.homeFree i m = true) :
    ∃ a p, c.Took a i p m ∧ c.atHome m = a.startReq i m 0 := by
  obtain ⟨hdst, -⟩ := Chip.homeFree_iff.mp h
  obtain ⟨a, p, htook, hreq⟩ := Chip.homeReq_free h
  refine ⟨a, p, htook, ?_⟩
  rw [Chip.atHome, hdst]
  exact hreq

/-- A request to a line that is not open has its own effect at once. -/
theorem Chip.startReq_performs {a : Chip} {i : Nat} {m : Msg} (hmem : a.isMemory (m.line * 64) = true)
    (hopen : ((a.home i).openPen m.line).bind (closeCause m) = none) (pool : Nat) : a.startReq i m pool = a.perform i m pool := by
  simp only [Chip.startReq, hmem, hopen, Bool.not_true, Bool.false_eq_true, if_false]

/-- The home's own turn begins with the home as it has taken the request. -/
theorem Chip.Took.self {c a : Chip} {i p : Nat} {m : Msg} (t : c.Took a i p m) : HomeTo a a i ((c.home i).took p) [] := by
  have h := HomeTo.refl a i
  rwa [t.home] at h

/-- A request that closes no open line, at a free home. -/
theorem Chip.atHome_performs {c : Chip} {i : Nat} {m : Msg} (hfree : c.homeFree i m = true)
    (hopen : ((c.home i).openPen m.line).bind (closeCause m) = none) : ∃ a p, c.Took a i p m ∧ c.atHome m = a.perform i m 0 := by
  obtain ⟨a, p, htook, hop⟩ := Chip.atHome_free hfree
  refine ⟨a, p, htook, hop.trans (Chip.startReq_performs htook.memory ?_ 0)⟩
  rw [htook.home]
  exact hopen

theorem closeCause_none {x : Option Pen} (h : x = none) (m : Msg) : x.bind (closeCause m) = none := by rw [h]; rfl

end Sys2Proof.Machine
end

section
/-! Reads and upgrades at a home (R151, R156, R161, R162): what each leaves of the home and sends, and from these the statement. -/

namespace Sys2Proof.Machine

/-- The tracker entry of a granted request, which waits for the answers of `await` and for the Ack. -/
def grantTxn (m : Msg) (await : List Nat := []) : Txn :=
  { line := m.line, req := m, stage := .grant, await := await, needAck := true }

/-- The snoop of an owner that is to send a line to a requester with a grant. -/
def fwdSnoop (i : Nat) (k : MsgKind) (x : Nat) (m : Msg) (g : Grant) : Msg := { snoop i k x m with grant := g }

/-- The directory entry of an exclusive holder. -/
def ownEnt (line r : Nat) : DirEnt := { line := line, st := .exclusive, ptrs := [r] }

/-! A home that has supplied data. -/

theorem Home.blocked_supplied (hm : Home) (line k n : Nat) (g : Grant) : (hm.supplied line k g).blocked n = hm.blocked n := by
  unfold Home.supplied
  split <;> rfl

theorem Home.dir_supplied (hm : Home) (line k : Nat) (g : Grant) : (hm.supplied line k g).dir = hm.dir := by
  unfold Home.supplied
  split <;> rfl

theorem Home.listed_congr {hm hn : Home} (h : hn.dir = hm.dir) (line : Nat) : hn.listed line = hm.listed line := by
  rw [Home.listed, Home.listed, Home.dirFind, Home.dirFind, h]

theorem Home.l3Find_setDir (hm : Home) (e : DirEnt) (line : Nat) : (hm.setDir e).l3Find line = hm.l3Find line := by
  obtain ⟨m, n, h⟩ := hm.setDir_eq e
  rw [h]
  rfl

/-- A home that has granted a request, with the entry in its directory and the data from its L3, blocks and lists its line. -/
theorem Home.granted_supplied {hm : Home} {m : Msg} {e : DirEnt} (he : e.line = m.line) (hroom : hm.dirRoom m.line) (k : Nat) (g : Grant) :
    let hn := ((hm.setDir e).putTxn (grantTxn m)).supplied m.line k g
    hn.blocked m.line = true ∧ hn.listed m.line = some (e.st, e.ptrs) := by
  intro hn
  refine ⟨(Home.blocked_supplied _ _ _ _ _).trans (Home.blocked_putTxn _ (grantTxn m)), ?_⟩
  have hdir : hn.dir = (hm.setDir e).dir := Home.dir_supplied _ _ _ _
  rw [Home.listed_congr hdir, ← he]
  exact Home.listed_setDir (he ▸ hroom)

/-! What the requests come to. -/

section read

variable {a : Chip} {i r : Nat} {m : Msg}

theorem Chip.withDir_room (h : (a.home i).dirRoom m.line) : a.withDir i m = a.performRd i m := by
  have hroom : ((a.home i).dirFind m.line).isSome || ((a.home i).dirWay (homeSet m.line)).isSome := by
    rw [Bool.or_eq_true]
    exact h
  simp only [Chip.withDir, hroom, if_true]

variable (hsrc : m.src = .core r) (hzero : m.zero = false)
include hsrc hzero

theorem Chip.performRd_shared_uncached (hkind : m.kind = .rdShared) (hfind : (a.home i).dirFind m.line = none) :
    a.performRd i m = ((a.modHome i (·.setDir { line := m.line, st := if m.ifetch then .shared else .exclusive, ptrs := [r] })).putTxn i
      (grantTxn m)).supply i m (if m.ifetch then .s else .e) false := by
  simp only [Chip.performRd, hzero, hkind, hfind, hsrc, coreIx, Option.getD_some, Bool.false_eq_true, if_false, if_true]
  rfl

theorem Chip.performRd_own_uncached (hkind : m.kind = .rdOwn) (hfind : (a.home i).dirFind m.line = none) :
    a.performRd i m = ((a.modHome i (·.setDir (ownEnt m.line r))).putTxn i (grantTxn m)).supply i m .m false := by
  simp only [Chip.performRd, hzero, hkind, hfind, hsrc, coreIx, Option.getD_some, Bool.false_eq_true, if_false, reduceCtorEq]
  rfl

variable {k x : Nat} {e : DirEnt} (hfind : (a.home i).dirFind m.line = some (k, e)) (howner : e.owner = some x)
include hfind howner

omit hsrc in
theorem Chip.performRd_shared_owned (hkind : m.kind = .rdShared) :
    a.performRd i m = (a.putTxn i (grantTxn m [x])).send (fwdSnoop i .fwdShared x m .s) := by
  simp only [Chip.performRd, hzero, hkind, hfind, howner, Bool.false_eq_true, if_false, if_true]
  rfl

theorem Chip.performRd_own_owned (hkind : m.kind = .rdOwn) (hst : e.st = .exclusive) :
    a.performRd i m = ((a.modHome i (·.setDir (ownEnt m.line r))).putTxn i (grantTxn m)).send (fwdSnoop i .fwdOwn x m .m) := by
  simp only [Chip.performRd, hzero, hkind, hfind, howner, hst, hsrc, coreIx, Option.getD_some, Bool.false_eq_true, if_false, reduceCtorEq]
  rfl

end read

/-- An Upgrade of the only sharer (R162). -/
theorem Chip.performUpgrade_alone {a : Chip} {i r : Nat} {m : Msg} {e : DirEnt} (hsrc : m.src = .core r) (halone : a.holders e [r] = []) :
    a.performUpgrade i m e = ((a.modHome i (·.setDir (ownEnt m.line r))).putTxn i (grantTxn m)).send (cmpMsg i m false) := by
  simp only [Chip.performUpgrade, Chip.grantOwn, hsrc, coreIx, Option.getD_some, Option.map_some, halone]
  rfl

theorem Chip.performOnce_uncached {a : Chip} {i : Nat} {m : Msg} (hfind : (a.home i).dirFind m.line = none) :
    a.performOnce i m = (a.putTxn i (grantTxn m)).supply i m .none false := by
  simp only [Chip.performOnce, hfind]
  rfl

theorem Chip.holders_of_cores {a c : Chip} (h : a.cores = c.cores) (e : DirEnt) (l : List Nat) : a.holders e l = c.holders e l := by
  simp only [Chip.holders, Chip.sharers, Chip.foldCores, Chip.core, h]

/-! A home that is free takes the request and has its effect. -/

section taken

variable {c : Chip} {i r k x : Nat} {m : Msg} {l : L3Line} {e : DirEnt} (hfree : c.homeFree i m = true)
  (hopen : (c.home i).openPen m.line = none)
include hfree hopen

/-- A grant with data from the L3 to a requester that then is listed (R151, R162). -/
theorem Chip.atHome_granted {ent : DirEnt} {g : Grant} (hent : ent.line = m.line) (hroom : (c.home i).dirRoom m.line)
    (hheld : (c.home i).l3Data m.line = some l)
    (hop : ∀ a p, c.Took a i p m →
      a.perform i m 0 = ((a.modHome i (·.setDir ent)).putTxn i (grantTxn m)).supply i m g false) :
    let d := c.atHome m
    (d.home i).blocked m.line = true ∧ (d.home i).listed m.line = some (ent.st, ent.ptrs) ∧ c.answers d m [l3Msg i m g l] ∧
      (g = .m → (d.home i).l3Data m.line = none) := by
  intro d
  obtain ⟨a, p, htook, hd⟩ := Chip.atHome_performs hfree (closeCause_none hopen m)
  obtain ⟨k, hfind, hpen⟩ := Home.l3Find_of_data hheld
  have hset := (htook.self.modHome (·.setDir ent)).modHome (·.putTxn (grantTxn m))
  have hfind' : ((((c.home i).took p).setDir ent).putTxn (grantTxn m)).l3Find m.line = some (k, l) :=
    (Home.l3Find_setDir ((c.home i).took p) ent m.line).trans hfind
  have hto : HomeTo a d i _ [l3Msg i m g l] := (hd.trans (hop a p htook)) ▸ hset.supply hfind' hpen g
  obtain ⟨hblocked, hlisted⟩ := Home.granted_supplied (hm := (c.home i).took p) hent hroom k g
  rw [hto.home]
  refine ⟨hblocked, hlisted, htook.answers hto, ?_⟩
  rintro rfl
  exact Home.l3Data_l3Gone _ m.line

/-- A grant without data of the home's own: by the owner's snoop, or by Cmp (R162). -/
theorem Chip.atHome_sends {ent : DirEnt} {msg : Msg} (hent : ent.line = m.line) (hroom : (c.home i).dirRoom m.line)
    (hop : ∀ a p, c.Took a i p m → a.perform i m 0 = ((a.modHome i (·.setDir ent)).putTxn i (grantTxn m)).send msg) :
    let d := c.atHome m
    (d.home i).blocked m.line = true ∧ (d.home i).listed m.line = some (ent.st, ent.ptrs) ∧ c.answers d m [msg] := by
  intro d
  obtain ⟨a, p, htook, hd⟩ := Chip.atHome_performs hfree (closeCause_none hopen m)
  have hto : HomeTo a d i _ [msg] := (hd.trans (hop a p htook)) ▸ ((htook.self.modHome (·.setDir ent)).modHome (·.putTxn (grantTxn m))).send msg
  rw [hto.home]
  refine ⟨Home.blocked_putTxn _ (grantTxn m), ?_, htook.answers hto⟩
  have hdir : ((((c.home i).took p).setDir ent).putTxn (grantTxn m)).dir = (((c.home i).took p).setDir ent).dir := rfl
  rw [Home.listed_congr hdir, ← hent]
  exact Home.listed_setDir (hent ▸ hroom)

/-- A request that leaves the directory, whose data an owner sends (R162). -/
theorem Chip.atHome_forwards {msg : Msg}
    (hop : ∀ a p, c.Took a i p m → a.perform i m 0 = (a.putTxn i (grantTxn m [x])).send msg) :
    let d := c.atHome m
    (d.home i).blocked m.line = true ∧ (d.home i).dir = (c.home i).dir ∧ c.answers d m [msg] := by
  intro d
  obtain ⟨a, p, htook, hd⟩ := Chip.atHome_performs hfree (closeCause_none hopen m)
  have hto : HomeTo a d i _ [msg] := (hd.trans (hop a p htook)) ▸ (htook.self.modHome (·.putTxn (grantTxn m [x]))).send msg
  rw [hto.home]
  exact ⟨Home.blocked_putTxn _ (grantTxn m [x]), rfl, htook.answers hto⟩

/-- A read of the current data alone, from the L3 (R162, R170). -/
theorem Chip.atHome_reads (hfind : (c.home i).dirFind m.line = none) (hheld : (c.home i).l3Data m.line = some l)
    (hop : ∀ a p, c.Took a i p m → a.perform i m 0 = a.performOnce i m) :
    let d := c.atHome m
    (d.home i).blocked m.line = true ∧ (d.home i).dir = (c.home i).dir ∧ c.answers d m [l3Msg i m .none l] := by
  intro d
  obtain ⟨a, p, htook, hd⟩ := Chip.atHome_performs hfree (closeCause_none hopen m)
  obtain ⟨k, hl3, hpen⟩ := Home.l3Find_of_data hheld
  have hnone : (a.home i).dirFind m.line = none := by
    rw [htook.home]
    exact hfind
  have hto : HomeTo a d i _ [l3Msg i m .none l] := (hd.trans ((hop a p htook).trans (Chip.performOnce_uncached hnone))) ▸
    (htook.self.modHome (·.putTxn (grantTxn m))).supply (m := m) hl3 hpen .none
  rw [hto.home]
  exact ⟨(Home.blocked_supplied _ _ _ _ _).trans (Home.blocked_putTxn _ (grantTxn m)), Home.dir_supplied _ _ _ _, htook.answers hto⟩

end taken

/-- Settles O25: each request through what the home that takes it performs. -/
theorem homeGrantsReads : Obligations.HomeGrantsReads := by
  intro s i r m k x l e c q listed data fwd uncached held owned hsrc hzero hopen
  have hdst {j : MsgKind} (h : c.homeFree i (q j) = true) : (q j).dst = .home i := (Chip.homeFree_iff.mp h).1
  have hfound {a : Chip} {p : Nat} {n : Msg} (h : c.Took a i p n) (line : Nat) : (a.home i).dirFind line = (c.home i).dirFind line := by
    rw [h.home]
    rfl
  have hroomOf {a : Chip} {p : Nat} {n : Msg} (h : c.Took a i p n) {line : Nat} (hroom : (c.home i).dirRoom line) :
      (a.home i).dirRoom line := by
    rw [h.home]
    exact hroom
  refine ⟨?_, ?_, ?_, ?_, ?_, ?_, ?_⟩
  · rintro hfree ⟨hfind, hway⟩ hheld
    have hroom : (c.home i).dirRoom m.line := Or.inr hway
    refine RunsTo.of_fuseless (·.atHome (q .rdShared)) rfl ?_ fun _ _ hd => hd
    obtain ⟨hblocked, hlisted, hsent, -⟩ := Chip.atHome_granted (m := q .rdShared) (ent := { line := m.line, st := if m.ifetch then .shared else .exclusive, ptrs := [r] })
      hfree hopen rfl hroom hheld fun a p ht => (Chip.withDir_room (m := q .rdShared) (hroomOf ht hroom)).trans
        (Chip.performRd_shared_uncached (m := q .rdShared) hsrc hzero rfl ((hfound ht _).trans hfind))
    exact ⟨hblocked, hlisted, hsent⟩
  · rintro hfree ⟨hfind, howner⟩
    have hroom : (c.home i).dirRoom m.line := Or.inl (by rw [hfind]; rfl)
    refine RunsTo.of_fuseless (·.atHome (q .rdShared)) rfl ?_ fun _ _ hd => hd
    exact Chip.atHome_forwards hfree hopen fun a p ht => (Chip.withDir_room (m := q .rdShared) (hroomOf ht hroom)).trans
      (Chip.performRd_shared_owned (m := q .rdShared) hzero ((hfound ht _).trans hfind) howner rfl)
  · rintro hfree ⟨hfind, hway⟩ hheld
    have hroom : (c.home i).dirRoom m.line := Or.inr hway
    refine RunsTo.of_fuseless (·.atHome (q .rdOwn)) rfl ?_ fun _ _ hd => hd
    obtain ⟨hblocked, hlisted, hsent, hgone⟩ := Chip.atHome_granted (m := q .rdOwn) (ent := ownEnt m.line r)
      hfree hopen rfl hroom hheld fun a p ht => (Chip.withDir_room (m := q .rdOwn) (hroomOf ht hroom)).trans
        (Chip.performRd_own_uncached (m := q .rdOwn) hsrc hzero rfl ((hfound ht _).trans hfind))
    exact ⟨hblocked, hlisted, hgone rfl, hsent⟩
  · rintro hfree ⟨hfind, howner⟩ hst
    have hroom : (c.home i).dirRoom m.line := Or.inl (by rw [hfind]; rfl)
    refine RunsTo.of_fuseless (·.atHome (q .rdOwn)) rfl ?_ fun _ _ hd => hd
    exact Chip.atHome_sends (m := q .rdOwn) (ent := ownEnt m.line r) hfree hopen rfl hroom fun a p ht =>
      (Chip.withDir_room (m := q .rdOwn) (hroomOf ht hroom)).trans
        (Chip.performRd_own_owned (m := q .rdOwn) hsrc hzero ((hfound ht _).trans hfind) howner rfl hst)
  · intro hfree hfind hlists hst halone
    have hroom : (c.home i).dirRoom m.line := Or.inl (by rw [hfind]; rfl)
    refine RunsTo.of_fuseless (·.atHome (q .upgrade)) rfl ?_ fun _ _ hd => hd
    refine Chip.atHome_sends (m := q .upgrade) (ent := ownEnt m.line r) hfree hopen rfl hroom fun a p ht => ?_
    have hup : a.perform i (q .upgrade) 0 = a.performUpgrade i (q .upgrade) e := by
      simp [q, Chip.perform, hfound ht m.line, hfind, hsrc, coreIx, hlists, hst]
    exact hup.trans (Chip.performUpgrade_alone (m := q .upgrade) hsrc ((Chip.holders_of_cores ht.cores e [r]).trans halone))
  · intro errs hfree hmaint hfind hheld
    refine RunsTo.of_fuseless (·.rdOnceReq (q .rdOnce) errs) rfl ?_ fun _ _ hd => hd
    have hserve : c.rdOnceReq (q .rdOnce) errs = c.atHome (q .rdOnce) := by simp only [Chip.rdOnceReq, Chip.atHome, hdst hfree]
    rw [show s.chip.rdOnceReq (q .rdOnce) errs = _ from hserve]
    exact Chip.atHome_reads (m := q .rdOnce) hfree hopen hfind hheld fun a p _ => if_pos hmaint
  · intro hfree hfind hheld
    refine RunsTo.of_fuseless (·.ncReq (q .ncRd)) rfl ?_ fun _ _ hd => hd
    have hserve : c.ncReq (q .ncRd) = c.atHome (q .ncRd) := by simp only [Chip.ncReq, Chip.atHome, hdst hfree]
    rw [show s.chip.ncReq (q .ncRd) = _ from hserve]
    exact Chip.atHome_reads (m := q .ncRd) hfree hopen hfind hheld fun a p _ => rfl

end Sys2Proof.Machine
end

section
/-! Puts, uncached writes and reductions at a home (R165, R169, R171, R184, R185, R187, R188, R192): what each leaves of the home and
sends, and from these the statement. -/

namespace Sys2Proof.Machine

variable {a c d : Chip} {i r k n : Nat} {m wb : Msg} {hm : Home} {l : List Msg} {o : L3Line} {e : DirEnt} {p : Pen}

/-! Puts (R165). -/

/-- A home that has freed the writeback slot of a core and the tracker entry of a line. -/
def Home.putEnded (hm : Home) (r line : Nat) : Home := ({ hm with slots := Sparse.del hm.slots r } : Home).freed line

theorem Home.slots_putEnded (hm : Home) (r line : Nat) : Sparse.find (hm.putEnded r line).slots r = none :=
  (Sparse.find_del _ r r).trans (if_pos rfl)

/-- The answer of a home to a Put. -/
def putAnswer (i : Nat) (k : MsgKind) (m : Msg) : Msg := { kind := k, src := .home i, dst := m.src, line := m.line }

theorem Chip.perform_put (hput : isPut m = true) (hsrc : m.src = .core r) (hslot : Sparse.find (a.home i).slots r = some wb)
    (hline : wb.line = m.line) (pool : Nat) : a.perform i m pool = a.performPut i m wb := by
  have hkind : m.kind = .putDirty ∨ m.kind = .putClean := by simpa [isPut] using hput
  rcases hkind with h | h <;>
    simp only [Chip.perform, h, hsrc, coreIx, Option.bind_some, hslot, hline, if_true]

/-- A Put of the exclusive holder: the line in the L3, the entry freed. -/
theorem HomeTo.put_accepted (h : HomeTo a d i hm l) (hsrc : m.src = .core r) (hput : isPut m = true)
    (hfind : hm.dirFind m.line = some (k, e)) (hst : e.st = .exclusive) (hptrs : e.ptrs = [r]) (hkeep : m.keep = false)
    (hdiscard : m.discard = false) (hl3 : hm.l3Find m.line = some (n, o)) (hdrain : hm.drain = []) :
    HomeTo a (d.performPut i m wb) i
      (((hm.l3Put n (o.written wb.data wb.poison (decide (m.kind = .putDirty)) m.clos)).dropDir m.line).putEnded r m.line)
      (l ++ [putAnswer i .wbAck m]) := by
  have hfind' : (d.home i).dirFind m.line = some (k, e) := by rw [h.home]; exact hfind
  have hr : (coreIx m.src).getD 0 = r := by rw [hsrc]; rfl
  have hlists : e.lists r = true := by simp [DirEnt.lists, hptrs]
  have hremove : e.remove r = none := by simp only [DirEnt.remove, hst, hptrs, if_true]
  have hop : d.performPut i m wb =
      (((((d.l3Fill i m.line wb.data wb.poison (decide (m.kind = .putDirty)) m.clos).modHome i (·.dropDir m.line)).send
        (putAnswer i .wbAck m)).modHome i fun x => { x with slots := Sparse.del x.slots r })).endTxn i m.line := by
    have hkind : m.kind = .putDirty ∨ m.kind = .putClean := by simpa [isPut] using hput
    rcases hkind with hk | hk <;>
      simp only [Chip.performPut, hr, hfind', hlists, hdiscard, hkeep, hremove, hk, reduceCtorEq,
        decide_true, decide_false, Bool.false_eq_true, if_false, if_true] <;> rfl
  rw [hop]
  exact ((((h.l3Fill hl3 _ _ _ _).modHome _).send _).modHome _).endTxn hdrain m.line

/-- A Put of a core that the home does not list. -/
theorem HomeTo.put_stale (h : HomeTo a d i hm l) (hsrc : m.src = .core r) (hfind : hm.dirFind m.line = none) (hdrain : hm.drain = []) :
    HomeTo a (d.performPut i m wb) i (({ hm with stale := hm.stale + 1 } : Home).putEnded r m.line) (l ++ [putAnswer i .wbAckStale m]) := by
  have hfind' : (d.home i).dirFind m.line = none := by rw [h.home]; exact hfind
  have hop : d.performPut i m wb = (((d.modHome i fun x => { x with stale := x.stale + 1 }).send (putAnswer i .wbAckStale m)).modHome i
      fun x => { x with slots := Sparse.del x.slots r }).endTxn i m.line := by
    have hr : (coreIx m.src).getD 0 = r := by rw [hsrc]; rfl
    simp only [Chip.performPut, hr, hfind']
    rfl
  rw [hop]
  exact (((h.modHome _).send _).modHome _).endTxn hdrain m.line

/-! Uncached writes (R169). -/

/-- The tracker entry of an NcWr whose data is awaited. -/
def ncTxn (m : Msg) : Txn := { line := m.line, req := m, stage := .data }

theorem HomeTo.ncWr_alone (h : HomeTo a d i hm l) (hfind : hm.dirFind m.line = none) :
    HomeTo a (d.performNcWr i m) i ((hm.dropDir m.line).putTxn (ncTxn m)) (l ++ [cmpMsg i m false]) := by
  have hfind' : (d.home i).dirFind m.line = none := by rw [h.home]; exact hfind
  have hop : d.performNcWr i m = ((d.modHome i (·.dropDir m.line)).putTxn i (ncTxn m)).send (cmpMsg i m false) := by
    simp only [Chip.performNcWr, hfind']
    rfl
  rw [hop]
  exact ((h.modHome _).modHome _).send _

/-! Contributions (R184, R185). -/

/-- A home after a contribution to one of its pens. -/
def Home.contributed (hm : Home) (n : Nat) (p : Pen) (m : Msg) : Home :=
  { hm with pens := Sparse.put hm.pens n (p.apply m hm.clock), clock := hm.clock + 1 }

theorem Home.penOf_line {line : Nat} (h : hm.penOf line = some (n, p)) : p.line = line := by
  simpa using List.find?_some h

theorem Home.penOf_contributed (h : hm.penOf m.line = some (n, p)) :
    (hm.contributed n p m).penOf m.line = some (n, p.apply m hm.clock) :=
  have hline : p.line = m.line := Home.penOf_line h
  Sparse.find?_put h (decide_eq_true hline)

/-- A RedOp whose line has its pen ends. -/
theorem HomeTo.redDone (h : HomeTo a d i hm l) (hpen : hm.penOf m.line = some (n, p)) (hdrain : hm.drain = []) :
    HomeTo a (d.redDone i m) i ((hm.contributed n p m).freed m.line) (l ++ [cmpMsg i m false]) := by
  have hop : d.contribute i m = d.modHome i fun x => { x with pens := Sparse.put x.pens n (p.apply m x.clock), clock := x.clock + 1 } := by
    rw [Chip.contribute, h.home, hpen]
  rw [Chip.redDone, hop]
  exact ((h.modHome _).send _).endTxn hdrain m.line

/-- The pen that a line opens in, on its value in the L3 (R184). -/
def openedPen (m : Msg) (o : L3Line) (now : Nat) : Pen := { Pen.opened m.line m.mode o.data o.poison m.clos with last := now }

/-- A home that has opened a line in pen `n`, with its placeholder in place `k` of the L3 (R184, R517). -/
def Home.opens (hm : Home) (k n : Nat) (m : Msg) (o : L3Line) : Home :=
  { hm with
    l3 := Sparse.put hm.l3 k { line := m.line, dirty := false, pen := true, clos := m.clos }
    pens := Sparse.put hm.pens n (openedPen m o hm.clock)
    clock := hm.clock + 1 }

theorem Home.penOf_opens (h : hm.penOf m.line = none) : (hm.opens k n m o).penOf m.line = some (n, openedPen m o hm.clock) :=
  Sparse.find?_put_new (decide_eq_true rfl) h

theorem HomeTo.penValue (h : HomeTo a d i hm l) (hl3 : hm.l3Find m.line = some (k, o)) :
    HomeTo a (d.penValue i n m o.data o.poison) i (hm.opens k n m o) l := by
  have hplace : d.placeholder i m.line m.clos = d.modHome i fun x =>
      { x with l3 := Sparse.put x.l3 k { line := m.line, dirty := false, pen := true, clos := m.clos } } := by
    rw [Chip.placeholder, h.home, hl3]
  have hopened := (h.modHome fun x => { x with l3 := Sparse.put x.l3 k { line := m.line, dirty := false, pen := true, clos := m.clos } }).modHome
    fun x => { x with pens := Sparse.put x.pens n (openedPen m o x.clock), clock := x.clock + 1 }
  rw [Chip.penValue, hplace]
  split
  · exact hopened.logErr _ (show ErrClass.deferred ≠ .fatal by decide)
  · exact hopened

/-- Room for a line to open at once: a free pen, and the line's value in the L3. -/
structure Home.PenRoom (hm : Home) (line n : Nat) (o : L3Line) : Prop where
  pen : hm.freePen = some n
  fresh : hm.penOf line = none
  unspilled : hm.spilled line = none
  held : hm.l3Data line = some o

/-- The line opens, and takes the contribution that opened it. -/
theorem HomeTo.redFinish_opens (h : HomeTo a d i hm l) (hroom : hm.PenRoom m.line n o) (hdrain : hm.drain = []) :
    ∃ k, HomeTo a (d.redFinish i m) i (((hm.opens k n m o).contributed n (openedPen m o hm.clock) m).freed m.line)
      (l ++ [cmpMsg i m false]) := by
  obtain ⟨k, hl3, -⟩ := Home.l3Find_of_data hroom.held
  have hhere : hm.here m.line = some (o.data, o.poison) := by rw [Home.here, hroom.held]
  have hop : d.redFinish i m = (d.penValue i n m o.data o.poison).redDone i m := by
    simp only [Chip.redFinish, Chip.penOpen, h.home, hroom.fresh, hroom.unspilled, hroom.pen, hhere, Option.isSome_some, if_true]
  refine ⟨k, ?_⟩
  rw [hop]
  exact (h.penValue hl3).redDone (Home.penOf_opens hroom.fresh) hdrain

/-- The pen that a line has once it has opened and taken its first contribution: one, whatever the time. -/
theorem Home.penOf_opens_contributed (h : hm.penOf m.line = none) :
    ((((hm.opens k n m o).contributed n (openedPen m o hm.clock) m).freed m.line).penOf m.line).map (fun f => (f.2.mode, f.2.cnt, f.2.elems)) =
      some (m.mode, 1, ((Pen.opened m.line m.mode o.data o.poison m.clos).apply m 0).elems) := by
  have hpen : (((hm.opens k n m o).contributed n (openedPen m o hm.clock) m).freed m.line).penOf m.line = _ :=
    Home.penOf_contributed (Home.penOf_opens h)
  rw [hpen]
  rfl

theorem Chip.performRed_uncached (hred : m.red ≠ .close) (hfind : (a.home i).dirFind m.line = none) :
    a.performRed i m = a.redFinish i m := by
  simp only [Chip.performRed, hred, hfind, if_false]

theorem Chip.redFinish_resident (hpen : (a.home i).penOf m.line = some (n, p)) (hst : p.st = .opened) :
    a.redFinish i m = a.redDone i m := by
  simp only [Chip.redFinish, hpen, hst, if_true]

/-! Closes (R187, R188). -/

theorem HomeTo.sendAll (h : HomeTo a d i hm l) (ms : List Msg) : HomeTo a (d.sendAll ms) i hm (l ++ ms) := by
  induction ms generalizing d l with
  | nil => rw [List.append_nil]; exact h
  | cons x xs ih =>
    have hrest := ih (h.send x)
    rw [List.append_assoc] at hrest
    exact hrest

/-- A home that has closed a line's pen or slot. -/
def Home.penGone (hm : Home) (line : Nat) : Home :=
  { hm with
    pens := hm.pens.filter fun e => !decide (e.2.line = line)
    spill := hm.spill.filter fun e => !decide (e.2.line = line)
    drain := hm.drain.filter (· ≠ line) }

theorem Home.openPen_penGone (hm : Home) (line : Nat) : (hm.penGone line).openPen line = none := by
  have hpen : (hm.penGone line).penOf line = none := find?_filter_not (fun x hx => by rw [hx]; rfl) _
  have hspill : (hm.penGone line).spilled line = none := find?_filter_not (fun x hx => by rw [hx]; rfl) _
  rw [Home.openPen, hpen, hspill]
  rfl

/-- What a close counts and logs by its cause (R194, R201). -/
def Chip.closeNoted (c : Chip) (i line : Nat) : CloseBy → Chip
  | .access => c.countReg (uSlice i) 0 0x1114
  | .early => (c.countReg (uSlice i) 0 0x1110).logErr (uSlice i) { cls := .corrected, struct := 0x1B, addr := line * 64, at_ := 1 }
  | _ => c

/-- A device whose pen has closed, with its result in the L3 and its flags gathered. -/
def Chip.closedPen (c : Chip) (i : Nat) (p : Pen) (by_ : CloseBy) : Chip :=
  (((c.modHome i (·.penGone p.line)).l3Fill i p.line p.result.1 p.poison true p.clos).orReg (uSlice i) 0 0x1104
    (if by_ = .early then p.result.2 ||| 0x20#32 else p.result.2)).closeNoted i p.line by_

theorem Chip.closeWith_eq (c : Chip) (i : Nat) (p : Pen) (by_ : CloseBy) : c.closeWith i p by_ =
    if ((c.closedPen i p by_).home i).drain.isEmpty then (c.closedPen i p by_).setRegFld (uSlice i) 0 0x1100 1 1 0
    else c.closedPen i p by_ := by
  cases by_ <;> rfl

/-- A close, where the write of the result into the L3 leaves `hn`: flags, counts and records lie beside the home (R187, R191, R201). -/
theorem HomeTo.closeWith {hn : Home} {l' : List Msg}
    (h : HomeTo a ((d.modHome i (·.penGone p.line)).l3Fill i p.line p.result.1 p.poison true p.clos) i hn l') (by_ : CloseBy) :
    HomeTo a (d.closeWith i p by_) i hn l' := by
  have hflags (w : Word) := h.setReg (uSlice i) 0 0x1104 w
  have hclosed : HomeTo a (d.closedPen i p by_) i hn l' := by
    cases by_ with
    | access => exact (hflags _).countReg _ _ _ _
    | early => exact ((hflags _).countReg _ _ _ _).logErr _ (show ErrClass.corrected ≠ .fatal by decide)
    | rclose => exact hflags _
    | otherMode => exact hflags _
    | drain => exact hflags _
  rw [Chip.closeWith_eq]
  split
  · exact hclosed.setReg _ _ _ _
  · exact hclosed

theorem Home.openPen_of_penOf {line : Nat} (h : hm.penOf line = some (n, p)) : hm.openPen line = some p := by
  rw [Home.openPen, h]
  rfl

theorem Home.openPen_of_spilled {line : Nat} (hpen : hm.penOf line = none) (h : hm.spilled line = some (n, p)) : hm.openPen line = some p := by
  rw [Home.openPen, hpen, h]
  rfl

theorem Home.openPen_of_none {line : Nat} (hpen : hm.penOf line = none) (h : hm.spilled line = none) : hm.openPen line = none := by
  rw [Home.openPen, hpen, h]
  rfl

/-- mol.rclose of a resident line: the result in the L3, and Cmp. -/
theorem HomeTo.rclose (h : HomeTo a d i hm l) (hmem : d.isMemory (m.line * 64) = true) (hkind : m.kind = .redOp) (hred : m.red = .close)
    (hpen : hm.penOf m.line = some (n, p)) (hst : p.st = .opened) (hspill : hm.spilled m.line = none)
    (hl3 : hm.l3Find m.line = some (k, o)) (pool : Nat) :
    HomeTo a (d.startReq i m pool) i ((hm.penGone m.line).l3Put k (o.written p.result.1 p.poison true p.clos)) (l ++ [cmpMsg i m false]) := by
  have hline : p.line = m.line := Home.penOf_line hpen
  have hcause : (hm.openPen m.line).bind (closeCause m) = some .rclose := by
    rw [Home.openPen_of_penOf hpen]
    simp [closeCause, hkind, hred]
  have hop : d.startReq i m pool = (d.closeWith i p .rclose).send (cmpMsg i m false) := by
    simp only [Chip.startReq, hmem, h.home, hcause, hspill, Chip.closePen, hpen, hst, Chip.perform, hkind, Chip.performRed, hred,
      reduceCtorEq, Bool.not_true, Bool.false_eq_true, if_false, if_true]
  rw [hop]
  refine (HomeTo.closeWith ?_ .rclose).send _
  rw [hline]
  exact (h.modHome (·.penGone m.line)).l3Fill hl3 _ _ _ _

/-- The Close entry that reads a slot (R194). -/
def Chip.closeEntry (c : Chip) (i slot pen line : Nat) (k : CloseKind) (next : Option Nat) : CloseOp :=
  let ls := c.slotLines i slot
  let out := ls.filter c.slotServed
  { kind := k, line := line, slot := slot, pen := pen, left := out,
    got := (ls.filter fun n => !out.contains n).foldl (fun (s : Sparse (Line × Bool)) n => Sparse.put s n (0, true)) [], next := next }

theorem HomeTo.startClose (h : HomeTo a d i hm l) (slot pen line : Nat) (k : CloseKind) (next : Option Nat) :
    ∃ ms, HomeTo a (d.startClose i slot pen line k next) i
      { hm with closes := hm.closes ++ [d.closeEntry i slot pen line k next] } (l ++ ms) :=
  ⟨_, (h.modHome fun x => { x with closes := x.closes ++ [d.closeEntry i slot pen line k next] }).sendAll _⟩

/-- mol.rclose of a spilled line: the slot is read by a Close entry, for which the request waits (R187, R194; log 12). -/
theorem HomeTo.rclose_spilled (h : HomeTo a d i hm l) (hmem : d.isMemory (m.line * 64) = true) (hkind : m.kind = .redOp)
    (hred : m.red = .close) (hpen : hm.penOf m.line = none) (hspill : hm.spilled m.line = some (n, p)) (hcloses : hm.closes = [])
    (hblocked : hm.blocked m.line = false) (pool : Nat) :
    ∃ ms, HomeTo a (d.startReq i m pool) i
      (({ hm with closes := [d.closeEntry i n 0 m.line (.close .rclose) (some m.line)] } : Home).putTxn
        { line := m.line, req := m, pool := pool, stage := .waitClose }) (l ++ ms) := by
  have hcause : (hm.openPen m.line).bind (closeCause m) = some .rclose := by
    rw [Home.openPen_of_spilled hpen hspill]
    simp [closeCause, hkind, hred]
  have hcloseFree : hm.closeFree = true := by rw [Home.closeFree, hcloses]; rfl
  have hop : d.startReq i m pool = (d.startClose i n 0 m.line (.close .rclose) (some m.line)).putTxn i
      { line := m.line, req := m, pool := pool, stage := .waitClose } := by
    simp only [Chip.startReq, hmem, h.home, hcause, hspill, Chip.closeFirst, hcloseFree, hblocked, Bool.not_true, Bool.or_self,
      Bool.false_eq_true, if_false]
  obtain ⟨ms, hbegun⟩ := h.startClose n 0 m.line (.close .rclose) (some m.line)
  rw [hcloses] at hbegun
  rw [hop]
  exact ⟨ms, hbegun.modHome (·.putTxn { line := m.line, req := m, pool := pool, stage := .waitClose })⟩

/-- A line that waited for a pen goes on (R194). -/
theorem Chip.penResume_waitPen {t : Txn} {line : Nat} (hcloses : (c.home i).closes = []) (htxn : (c.home i).txnOf line = some t)
    (hst : t.stage = .waitPen) : c.penResume i line = (c.modHome i (·.freed line)).redFinish i t.req := by
  simp only [Chip.penResume, hcloses, List.find?_nil, Chip.retry, htxn, hst]
  rfl

/-! The statement. -/

/-- An accepted Put leaves its data in the L3 and its line Uncached. -/
theorem Chip.put_accepted (hfree : c.homeFree i m = true) (hput : isPut m = true) (hsrc : m.src = .core r)
    (hopen : (c.home i).openPen m.line = none) (hslot : Sparse.find (c.home i).slots r = some wb) (hline : wb.line = m.line)
    (hfind : (c.home i).dirFind m.line = some (k, e)) (hst : e.st = .exclusive) (hptrs : e.ptrs = [r]) (hkeep : m.keep = false)
    (hdiscard : m.discard = false) (hl3 : ((c.home i).l3Find m.line).isSome = true) :
    let x := c.atHome m
    (x.home i).dirFind m.line = none ∧ (((x.home i).l3Find m.line).map fun f => (f.2.data, f.2.poison)) = some (wb.data, wb.poison) ∧
      Sparse.find (x.home i).slots r = none ∧ (x.home i).stale = (c.home i).stale ∧ c.answers x m [putAnswer i .wbAck m] := by
  obtain ⟨-, -, -, -, -, -, hdrain⟩ := Chip.homeFree_iff.mp hfree
  obtain ⟨⟨j, o⟩, hl3⟩ := Option.isSome_iff_exists.mp hl3
  intro x
  obtain ⟨b, q, htook, hop⟩ := Chip.atHome_performs hfree (closeCause_none hopen m)
  have hto := htook.self.put_accepted (wb := wb) hsrc hput hfind hst hptrs hkeep hdiscard hl3 hdrain
  have hslot' : Sparse.find (b.home i).slots r = some wb := by rw [htook.home]; exact hslot
  rw [← Chip.perform_put hput hsrc hslot' hline 0, ← hop] at hto
  rw [hto.home]
  have holine : o.line = m.line := by simpa using List.find?_some hl3
  have hstored := Home.l3Find_l3Put (hm := (c.home i).took q) (l := o.written wb.data wb.poison (decide (m.kind = .putDirty)) m.clos)
    hl3 holine
  refine ⟨Home.dirFind_dropDir _ m.line, ?_, Home.slots_putEnded _ r m.line, rfl, htook.answers hto⟩
  exact (congrArg (Option.map fun f : Nat × L3Line => (f.2.data, f.2.poison)) hstored).trans rfl

/-- A stale Put leaves the L3 and the directory as they are. -/
theorem Chip.put_stale (hfree : c.homeFree i m = true) (hput : isPut m = true) (hsrc : m.src = .core r)
    (hopen : (c.home i).openPen m.line = none) (hslot : Sparse.find (c.home i).slots r = some wb) (hline : wb.line = m.line)
    (hfind : (c.home i).dirFind m.line = none) :
    let x := c.atHome m
    (x.home i).stale = (c.home i).stale + 1 ∧ (x.home i).l3 = (c.home i).l3 ∧ (x.home i).dir = (c.home i).dir ∧
      c.answers x m [putAnswer i .wbAckStale m] := by
  obtain ⟨-, -, -, -, -, -, hdrain⟩ := Chip.homeFree_iff.mp hfree
  intro x
  obtain ⟨b, q, htook, hop⟩ := Chip.atHome_performs hfree (closeCause_none hopen m)
  have hto := htook.self.put_stale (wb := wb) hsrc hfind hdrain
  have hslot' : Sparse.find (b.home i).slots r = some wb := by rw [htook.home]; exact hslot
  rw [← Chip.perform_put hput hsrc hslot' hline 0, ← hop] at hto
  rw [hto.home]
  exact ⟨rfl, rfl, rfl, htook.answers hto⟩

theorem Home.PenRoom.of_took {q : Nat} {line : Nat} (h : hm.PenRoom line n o) : (hm.took q).PenRoom line n o :=
  ⟨h.pen, h.fresh, h.unspilled, h.held⟩

/-- Settles O26: Puts by what performs them, the write, and the four cases of a reduction and its resumption. -/
theorem homeTakesPutsAndReductions : Obligations.HomeTakesPutsAndReductions := by
  intro s i r m wb k n o e p t c hm q rep put owns accepted stale fresh room hsrc
  have hdirty (h : c.homeFree i (q .putDirty) = true) : c.putDirtyReq (q .putDirty) = c.atHome (q .putDirty) := by
    simp only [Chip.putDirtyReq, Chip.atHome, (Chip.homeFree_iff.mp h).1]
  refine ⟨?_, ?_, ?_, ?_, ?_, ?_, ?_, ?_, ?_, ?_⟩
  · rintro hfree ⟨hopen, hslot, hline⟩ ⟨hfind, hst, hptrs, hkeep, hdiscard⟩ hl3
    refine RunsTo.of_fuseless (·.putDirtyReq (q .putDirty)) rfl ?_ fun _ _ hd => hd
    rw [show s.chip.putDirtyReq (q .putDirty) = _ from hdirty hfree]
    exact Chip.put_accepted (m := q .putDirty) hfree rfl hsrc hopen hslot hline hfind hst hptrs hkeep hdiscard hl3
  · rintro hfree ⟨hopen, hslot, hline⟩ ⟨hfind, hst, hptrs, hkeep, hdiscard⟩ hl3
    refine RunsTo.of_fuseless (·.atHome (q .putClean)) rfl ?_ fun _ _ hd => hd
    exact Chip.put_accepted (m := q .putClean) hfree rfl hsrc hopen hslot hline hfind hst hptrs hkeep hdiscard hl3
  · rintro hfree ⟨hopen, hslot, hline⟩ hfind
    refine RunsTo.of_fuseless (·.putDirtyReq (q .putDirty)) rfl ?_ fun _ _ hd => hd
    rw [show s.chip.putDirtyReq (q .putDirty) = _ from hdirty hfree]
    exact Chip.put_stale (m := q .putDirty) hfree rfl hsrc hopen hslot hline hfind
  · rintro hfree ⟨hopen, hslot, hline⟩ hfind
    refine RunsTo.of_fuseless (·.atHome (q .putClean)) rfl ?_ fun _ _ hd => hd
    exact Chip.put_stale (m := q .putClean) hfree rfl hsrc hopen hslot hline hfind
  · intro hfree hopen hfind
    refine RunsTo.of_fuseless (·.ncReq (q .ncWr)) rfl ?_ fun _ _ hd => hd
    have hserve : c.ncReq (q .ncWr) = c.atHome (q .ncWr) := by simp only [Chip.ncReq, Chip.atHome, (Chip.homeFree_iff.mp hfree).1]
    rw [show s.chip.ncReq (q .ncWr) = _ from hserve]
    obtain ⟨b, j, htook, hop⟩ := Chip.atHome_performs hfree (closeCause_none hopen (q .ncWr))
    have hto := htook.self.ncWr_alone (m := q .ncWr) hfind
    rw [show b.performNcWr i (q .ncWr) = c.atHome (q .ncWr) from hop.symm] at hto
    refine ⟨?_, htook.answers hto⟩
    rw [hto.home]
    exact Home.blocked_putTxn _ (ncTxn (q .ncWr))
  · intro hfree hred hpen hst hmode hfind
    obtain ⟨-, -, -, -, -, -, hdrain⟩ := Chip.homeFree_iff.mp hfree
    refine RunsTo.of_fuseless (·.atHome (q .redOp)) rfl ?_ fun _ _ hd => hd
    have hcause : ((c.home i).openPen (q .redOp).line).bind (closeCause (q .redOp)) = none := by
      rw [show (c.home i).openPen (q .redOp).line = some p from Home.openPen_of_penOf hpen]
      simp [closeCause, q, hred, hmode]
    obtain ⟨b, j, htook, hgo⟩ := Chip.atHome_performs hfree hcause
    have hto := htook.self.redDone (m := q .redOp) hpen hdrain
    have hop : b.perform i (q .redOp) 0 = b.redDone i (q .redOp) := by
      refine (Chip.performRed_uncached (m := q .redOp) hred ?_).trans (Chip.redFinish_resident (m := q .redOp) (n := n) (p := p) ?_ hst)
      · rw [htook.home]; exact hfind
      · rw [htook.home]; exact hpen
    rw [← hop, ← hgo] at hto
    rw [hto.home]
    exact ⟨Home.penOf_contributed (hm := (c.home i).took j) (m := q .redOp) hpen, htook.answers hto⟩
  · rintro hfree hred ⟨hpen, hnone, hspill, hheld⟩ hfind
    obtain ⟨-, -, -, -, -, -, hdrain⟩ := Chip.homeFree_iff.mp hfree
    have hroom : hm.PenRoom m.line n o := ⟨hpen, hnone, hspill, hheld⟩
    refine RunsTo.of_fuseless (·.atHome (q .redOp)) rfl ?_ fun _ _ hd => hd
    have hcause := closeCause_none (Home.openPen_of_none hnone hspill) (q .redOp)
    obtain ⟨b, j, htook, hgo⟩ := Chip.atHome_performs hfree hcause
    obtain ⟨k, hto⟩ := htook.self.redFinish_opens (m := q .redOp) hroom.of_took hdrain
    have hop : b.perform i (q .redOp) 0 = b.redFinish i (q .redOp) :=
      Chip.performRed_uncached (m := q .redOp) hred (by rw [htook.home]; exact hfind)
    rw [← hop, ← hgo] at hto
    refine ⟨?_, htook.answers hto⟩
    show (((c.atHome (q .redOp)).home i).penOf m.line).map _ = _
    rw [hto.home]
    exact Home.penOf_opens_contributed (m := q .redOp) hnone
  · intro hfree hred hpen hst hspill hl3
    obtain ⟨⟨j, o⟩, hl3⟩ := Option.isSome_iff_exists.mp hl3
    refine RunsTo.of_fuseless (·.atHome (q .redOp)) rfl ?_ fun _ _ hd => hd
    obtain ⟨b, j, htook, hgo⟩ := Chip.atHome_free hfree
    have hto := htook.self.rclose (m := q .redOp) htook.memory rfl hred hpen hst hspill hl3 0
    rw [← hgo] at hto
    rw [hto.home]
    have holine : o.line = m.line := by simpa using List.find?_some hl3
    have hfind := Home.l3Find_l3Put (hm := ((c.home i).took j).penGone m.line) (l := o.written p.result.1 p.poison true p.clos) hl3 holine
    have hdata := Home.l3Data_of_find hfind rfl
    refine ⟨Home.openPen_penGone _ m.line, ?_, htook.answers hto⟩
    exact (congrArg (Option.map fun f : L3Line => (f.data, f.poison)) hdata).trans rfl
  · intro hfree hred hpen hspill hcloses
    obtain ⟨-, -, hblocked, -⟩ := Chip.homeFree_iff.mp hfree
    refine RunsTo.of_fuseless (·.atHome (q .redOp)) rfl ?_ fun _ _ hd => hd
    obtain ⟨b, j, htook, hgo⟩ := Chip.atHome_free hfree
    obtain ⟨ms, hto⟩ := htook.self.rclose_spilled (m := q .redOp) htook.memory rfl hred hpen hspill hcloses hblocked 0
    rw [← hgo] at hto
    rw [hto.home]
    refine ⟨?_, rfl, hspill⟩
    exact (congrArg (Option.map fun y : Txn => (y.stage, y.req)) (Home.txnOf_putTxn _ _)).trans rfl
  · rintro htxn hst hreq ⟨hpen, hnone, hspill, hheld⟩ hcloses hdrain
    have hroom : hm.PenRoom m.line n o := ⟨hpen, hnone, hspill, hheld⟩
    refine RunsTo.of_fuseless (·.penResume i m.line) rfl ?_ fun _ _ hd => hd
    have hroom' : (hm.freed m.line).PenRoom m.line n o := ⟨hpen, hnone, hspill, hheld⟩
    obtain ⟨k, hto⟩ := ((HomeTo.refl c i).modHome (·.freed m.line)).redFinish_opens (m := q .redOp) hroom' hdrain
    rw [show s.chip.penResume i m.line = _ from Chip.penResume_waitPen hcloses htxn hst, hreq]
    refine ⟨?_, hto.mesh⟩
    show ((((c.modHome i (·.freed m.line)).redFinish i (q .redOp)).home i).penOf m.line).map _ = _
    rw [hto.home]
    exact Home.penOf_opens_contributed (m := q .redOp) (hm := hm.freed m.line) hnone

end Sys2Proof.Machine
end

section
/-! A core's turn (R122, R147, R149, R158, R165, R166): what the operations of an L2 leave of its core and send. -/

namespace Sys2Proof.Machine

/-- From device `a` to device `d`, core `x` becomes `k` and the messages `l` are sent; the time of the mesh stands. -/
structure CoreTo (a d : Chip) (x : Nat) (k : Core) (l : List Msg) : Prop where
  core : d.core x = k
  mesh : d.mesh = a.mesh ++ l.map fun y => { y with birth := a.mt / 32 }
  mt : d.mt = a.mt

namespace CoreTo

variable {a d : Chip} {x : Nat} {k : Core} {l : List Msg}

theorem refl (a : Chip) (x : Nat) : CoreTo a a x (a.core x) [] := ⟨rfl, (List.append_nil _).symm, rfl⟩

theorem modCore (h : CoreTo a d x k l) (f : Core → Core) : CoreTo a (d.modCore x f) x (f k) l :=
  ⟨by rw [Chip.modCore_self, h.core], h.mesh, h.mt⟩

theorem send (h : CoreTo a d x k l) (m : Msg) : CoreTo a (d.send m) x k (l ++ [m]) :=
  ⟨h.core, by rw [Chip.send_mesh, h.mesh, h.mt, List.map_append, List.append_assoc]; rfl, h.mt⟩

theorem sendAll (h : CoreTo a d x k l) (ms : List Msg) : CoreTo a (d.sendAll ms) x k (l ++ ms) := by
  induction ms generalizing d l with
  | nil => rw [List.append_nil]; exact h
  | cons y ys ih =>
    have hrest := ih (h.send y)
    rw [List.append_assoc] at hrest
    exact hrest

/-- Harts and free values do not show. -/
theorem aside (h : CoreTo a d x k l) {e : Chip} (he : e.aside = d.aside) : CoreTo a e x k l :=
  ⟨(Chip.core_of_aside he x).trans h.core, (Chip.mesh_of_aside he).trans h.mesh, (Chip.mt_of_aside he).trans h.mt⟩

theorem dropResv (h : CoreTo a d x k l) (y line : Nat) : CoreTo a (d.dropResv y line) x k l := h.aside (Chip.dropResv_aside d y line)

theorem refills (h : CoreTo a d x k l) (hfills : k.fills = []) : CoreTo a (d.refills x) x k l := by
  rw [Chip.refills_none (by rw [h.core]; exact hfills)]
  exact h

end CoreTo

/-- What a core's turn sends answers the message that it took. -/
theorem CoreTo.answers {c d : Chip} {x : Nat} {m : Msg} {k : Core} {l : List Msg} (h : CoreTo ((c.arrive m).take m) d x k l) :
    c.answers d m l := by
  have hmt : ((c.arrive m).take m).mt = c.mt := c.arrive_mt m
  rw [Chip.answers, h.mesh, hmt]

/-! Writeback buffers (R158, R165). -/

theorem CoreTo.sendPuts_none {a d : Chip} {x : Nat} {k : Core} {l : List Msg} (h : CoreTo a d x k l) (hwb : k.wb = []) :
    CoreTo a (d.sendPuts x) x { k with wb := [] } l := by
  have hop : d.sendPuts x = d.modCore x fun y => { y with wb := [] } := by
    rw [Chip.sendPuts, h.core, hwb]
    rfl
  rw [hop]
  exact h.modCore _

/-! Fills (R149, R163). -/

/-- A core whose L2 has placed a line in an empty place. -/
def Core.placed (k : Core) (n : Nat) (l : L2Line) : Core := ({ k with l2 := Sparse.put k.l2 n l } : Core).use2 n

theorem Core.line_placed {k : Core} {n : Nat} {l : L2Line} (h : k.find l.line = none) : (k.placed n l).line l.line = some l := by
  have hfind : (k.placed n l).find l.line = some (n, l) := Sparse.find?_put_new (decide_eq_true rfl) h
  exact congrArg (Option.map (·.2)) hfind

/-- A line that the L2 lacks goes into an empty way of its set. -/
theorem CoreTo.l2Fill {a d : Chip} {x : Nat} {k : Core} {l : List Msg} {y : L2Line} (h : CoreTo a d x k l) (hfind : k.find y.line = none)
    (hway : (k.freeWay (l2Set y.line)).isSome = true) : ∃ n, CoreTo a (d.l2Fill x y) x (k.placed n y) l := by
  obtain ⟨w, hw⟩ := Option.isSome_iff_exists.mp hway
  have hfree : Sparse.find k.l2 (16 * l2Set y.line + w) = none := by simpa using List.find?_some hw
  have hl2Way : k.l2Way (l2Set y.line) = some w := by
    rw [Core.l2Way, hw]
    rfl
  have hop : d.l2Fill x y = d.modCore x (·.placed (16 * l2Set y.line + w) y) := by
    simp only [Chip.l2Fill, h.core, hfind, hl2Way, hfree]
    rfl
  rw [hop]
  exact ⟨_, h.modCore _⟩

/-- A core after an instruction fetch of a line that its L2 holds, through its L1I. -/
def Core.usedI (x : Core) (n : Nat) : Core :=
  let y := (x.missL1 x.l1i n).setLine n fun l => some { l with l1i := true }
  ({ y with l1i := (x.l1i.fill n).1 } : Core).leaves (x.l1i.fill n).2 fun l => { l with l1i := false }

theorem Core.line_usedI {x : Core} {n : Nat} {l : L2Line} (h : x.line n = some l) : (x.usedI n).line n = some { l with l1i := true } := by
  have hmiss : (x.missL1 x.l1i n).line n = some l := (Core.line_congr (x.missL1_l2 x.l1i n) n).trans h
  obtain ⟨-, -, hn⟩ := Core.find_of_line h
  have hset := Core.line_setLine (f := fun l => some { l with l1i := true }) hmiss rfl hn
  have hother : (x.l1i.fill n).2 ≠ some n := fun e => L1.fill_leaves_other e rfl
  exact (Core.line_leaves _ hother (f := fun l => { l with l1i := false }) fun _ => rfl).trans ((Core.line_congr rfl n).trans hset)

/-- A core after an access to a line of its L2 through the L1 of the access. -/
def Core.used (x : Core) (ifetch : Bool) (n : Nat) : Core := if ifetch then x.usedI n else x.usedD n

/-- An access leaves a line's state and data. -/
theorem Core.line_used {x : Core} {n : Nat} {l : L2Line} (h : x.line n = some l) (ifetch : Bool) :
    ((x.used ifetch n).line n).map (fun f => (f.st, f.data, f.poison)) = some (l.st, l.data, l.poison) := by
  cases ifetch with
  | true => exact (congrArg (Option.map fun f : L2Line => (f.st, f.data, f.poison)) (Core.line_usedI h)).trans rfl
  | false => exact (congrArg (Option.map fun f : L2Line => (f.st, f.data, f.poison)) (Core.line_usedD h)).trans rfl

theorem CoreTo.used {a d : Chip} {x : Nat} {k : Core} {l : List Msg} (h : CoreTo a d x k l) (ifetch : Bool) (n : Nat) :
    CoreTo a (if ifetch then d.useI x n else d.useD x n) x (k.used ifetch n) l := by
  cases ifetch with
  | true =>
    have hop : d.useI x n = d.modCore x (·.usedI n) := rfl
    simp only [hop, if_true]
    exact h.modCore (·.usedI n)
  | false => exact (h.modCore (·.usedD n)).aside (Chip.useD_aside d x n)

theorem Core.pending_dropReq (k : Core) (line : Nat) : (k.dropReq line).pending line = none :=
  find?_filter_not (fun r hr => by rw [hr]; rfl) _

/-- The line that Data brings. -/
def dataLine (m : Msg) : L2Line := { line := m.line, st := grantState m.grant, data := m.data, poison := m.poison }

/-- Data that ends the request of its line fills the L2, and is acknowledged (R163). -/
theorem CoreTo.l2Place {a d : Chip} {x : Nat} {k : Core} {l : List Msg} {m : Msg} {r : L2Req} (h : CoreTo a d x k l)
    (hpend : k.pending m.line = some r) (hfind : k.find m.line = none) (hway : (k.freeWay (l2Set m.line)).isSome = true)
    (hcmp : m.waitCmp = false ∨ r.gotCmp = true) :
    ∃ n, CoreTo a (d.l2Place x m) x (((k.placed n (dataLine m)).used r.ifetch m.line).dropReq m.line) (l ++ [ackMsg (.core x) m.line]) := by
  have hwait : (m.waitCmp && (some r).any fun r => !r.gotCmp) = false := by rcases hcmp with e | e <;> simp [e]
  have hop : d.l2Place x m = ((if r.ifetch then (d.l2Fill x (dataLine m)).useI x m.line else (d.l2Fill x (dataLine m)).useD x m.line).modCore x
      (·.dropReq m.line)).send (ackMsg (.core x) m.line) := by
    simp only [Chip.l2Place, h.core, hpend, hwait, Bool.false_eq_true, if_false]
    rfl
  obtain ⟨n, hfill⟩ := h.l2Fill (y := dataLine m) hfind hway
  rw [hop]
  exact ⟨n, ((hfill.used r.ifetch m.line).modCore _).send _⟩

end Sys2Proof.Machine
end

section
/-! Answers (R161-R166, R193): what each answer ends at a home, at a core and at a memory controller, and from these the statement. -/

namespace Sys2Proof.Machine

/-! At a home. -/

theorem Chip.arrive_home (c : Chip) (m : Msg) (i : Nat) : (c.arrive m).home i = c.home i := by
  obtain ⟨l, h⟩ := c.arrive_eq m
  rw [h]
  rfl

/-- What a home sends on an answer. -/
theorem HomeTo.answers {c d : Chip} {i : Nat} {m : Msg} {hm : Home} {l : List Msg} (h : HomeTo ((c.arrive m).take m) d i hm l) :
    c.answers d m l := by
  have hmt : ((c.arrive m).take m).mt = c.mt := c.arrive_mt m
  rw [Chip.answers, h.mesh, hmt]

/-- A home whose device has taken an answer. -/
theorem HomeTo.taken (c : Chip) (m : Msg) (i : Nat) : HomeTo ((c.arrive m).take m) ((c.arrive m).take m) i (c.home i) [] := by
  have h := HomeTo.refl ((c.arrive m).take m) i
  rwa [show ((c.arrive m).take m).home i = c.home i from c.arrive_home m i] at h

section home

variable {a d : Chip} {i x line : Nat} {hm : Home} {l : List Msg} {t : Txn} {m : Msg}

theorem HomeTo.ack_ends (h : HomeTo a d i hm l) (htxn : hm.txnOf line = some t) (hst : t.stage = .grant) (hack : t.needAck = true)
    (hawait : t.await = []) (hcmp : t.cmpDue = false) (hdrain : hm.drain = []) :
    HomeTo a (d.ackAnswer i line t.req.src) i (hm.freed line) l := by
  have hop : d.ackAnswer i line t.req.src = d.endTxn i line := by
    simp [Chip.ackAnswer, h.home, htxn, hst, hack, hawait, hcmp]
  rw [hop]
  exact h.endTxn hdrain line

/-- The last answer to the snoops of a RdOwn (R162). -/
theorem HomeTo.snp_last (h : HomeTo a d i hm l) (htxn : (hm.txns.find? fun y => y.blocks line) = some t) (hst : t.stage = .grant)
    (hkind : t.req.kind = .rdOwn) (hawait : t.await = [x]) (hcmp : t.cmpDue = true) (hack : t.needAck = true) (kept : Kept) :
    HomeTo a (d.snpAnswer i line x kept) i (hm.putTxn { t with await := [], cmpDue := false }) (l ++ [cmpMsg i t.req false]) := by
  have hop : d.snpAnswer i line x kept = (d.send (cmpMsg i t.req false)).putTxn i { t with await := [], cmpDue := false } := by
    simp [Chip.snpAnswer, Chip.advance, h.home, htxn, hst, hkind, hawait, hcmp, hack]
  rw [hop]
  exact (h.send _).modHome _

end home

/-- The WbData of a Put that has not come yet waits in its sender's slot (R157). -/
theorem Chip.homeWbData_waits {c : Chip} {i x : Nat} {m : Msg} (hsrc : m.src = .core x) (hput : m.forPut = true)
    (htxn : (c.home i).txnOf m.line = none) :
    c.homeWbData i m = (c.take m).modHome i fun h => { h with slots := Sparse.put h.slots x m } := by
  have htxn' : ((c.take m).home i).txnOf m.line = none := htxn
  simp only [Chip.homeWbData, hput, htxn', hsrc, coreIx, if_true]

/-! At a core. -/

section core

variable {c : Chip} {x : Nat} {m : Msg} {r : L2Req}

theorem CoreTo.taken (c : Chip) (m : Msg) (x : Nat) : CoreTo ((c.arrive m).take m) ((c.arrive m).take m) x (c.core x) [] := by
  have h := CoreTo.refl ((c.arrive m).take m) x
  rwa [show ((c.arrive m).take m).core x = c.core x from c.arrive_core m x] at h

/-- WbAck and WbAckStale free the buffer entry of their line (R165, R166). -/
theorem Chip.wbAckAt_frees {w : WbEnt} (hdst : m.dst = .core x) (hpend : (c.core x).pending m.line = none) (hwb : (c.core x).wb = [w])
    (hline : w.line = m.line) (hsent : w.sent = true) (hfills : (c.core x).fills = []) :
    ((c.wbAckAt m).core x).wb = [] ∧ c.answers (c.wbAckAt m) m [] := by
  have hcore : ((c.arrive m).take m).core x = c.core x := c.arrive_core m x
  have hfreed := (CoreTo.taken c m x).modCore fun k => { k with wb := k.wb.filter fun w => !(decide (w.line = m.line) && w.sent) }
  have hempty : ((c.core x).wb.filter fun w => !(decide (w.line = m.line) && w.sent)) = [] := by simp [hwb, hline, hsent]
  have hto := (hfreed.sendPuts_none hempty).refills hfills
  have hop : c.wbAckAt m = ((((c.arrive m).take m).modCore x fun k =>
      { k with wb := k.wb.filter fun w => !(decide (w.line = m.line) && w.sent) }).sendPuts x).refills x := by
    simp only [Chip.wbAckAt, hdst, Chip.l2WbAck, hcore, hpend, Option.map_none, reduceCtorEq, if_false]
  rw [← hop] at hto
  rw [hto.core]
  exact ⟨rfl, hto.answers⟩

/-- Cmp grants an Upgrade of a line that is still held (R162). -/
theorem Chip.cmpAt_upgrades {l : L2Line} (hdst : m.dst = .core x) (hsrc : m.src = .home (homeSlice m.line)) (herr : m.err = false)
    (hpend : (c.core x).pending m.line = some r) (hkind : r.kind = .upgrade) (hzero : r.zero = false)
    (hline : (c.core x).line m.line = some l) :
    ((c.cmpAt m).core x).line m.line = some { l with st := .m } ∧ ((c.cmpAt m).core x).pending m.line = none ∧
      c.answers (c.cmpAt m) m [ackMsg (.core x) m.line] := by
  have hcore : ((c.arrive m).take m).core x = c.core x := c.arrive_core m x
  have hto := (((CoreTo.taken c m x).modCore (·.setLine m.line fun l => some { l with st := .m })).modCore (·.dropReq m.line)).send
    (ackMsg (.core x) m.line)
  have hop : c.cmpAt m = (((((c.arrive m).take m).modCore x (·.setLine m.line fun l => some { l with st := .m })).modCore x
      (·.dropReq m.line)).send (ackMsg (.core x) m.line)) := by
    simp [Chip.cmpAt, hdst, Chip.l2Cmp, hcore, hpend, herr, hsrc, hzero, hkind, hline]
  rw [← hop] at hto
  rw [hto.core]
  obtain ⟨-, -, hn⟩ := Core.find_of_line hline
  exact ⟨(Core.line_congr rfl m.line).trans (Core.line_setLine hline rfl hn), Core.pending_dropReq _ m.line, hto.answers⟩

/-- Data and FwdData fill the line in the state of their grant (R163, R164). -/
theorem Chip.dataAt_fills (hdst : m.dst = .core x) (hpend : (c.core x).pending m.line = some r) (hkind : r.kind ≠ .ncRd)
    (hfind : (c.core x).find m.line = none) (hway : ((c.core x).freeWay (l2Set m.line)).isSome = true)
    (htakes : (c.core x).takesFill m.line = true) (hcmp : m.waitCmp = false ∨ r.gotCmp = true) :
    (((c.dataAt m).core x).line m.line).map (fun f => (f.st, f.data, f.poison)) = some (grantState m.grant, m.data, m.poison) ∧
      ((c.dataAt m).core x).pending m.line = none ∧ c.answers (c.dataAt m) m [ackMsg (.core x) m.line] := by
  obtain ⟨n, hto⟩ := (CoreTo.taken c m x).l2Place hpend hfind hway hcmp
  have hop : c.dataAt m = ((c.arrive m).take m).l2Place x m := by
    have hkind' : ¬ ((some r).map (·.kind) = some .ncRd) := fun e => hkind (Option.some.inj e)
    simp only [Chip.dataAt, hdst, Chip.l2Data, Chip.arrive_core, hpend, hkind', htakes, if_false, if_true]
  rw [← hop] at hto
  rw [hto.core]
  have hplaced : ((c.core x).placed n (dataLine m)).line m.line = some (dataLine m) := Core.line_placed hfind
  exact ⟨Core.line_used hplaced r.ifetch, Core.pending_dropReq _ m.line, hto.answers⟩

end core

/-! At a memory controller (R193, R194). -/

/-- The registers and the mesh stay. -/
structure KeepsMesh (c d : Chip) : Prop where
  ctl : d.ctl = c.ctl
  mesh : d.mesh = c.mesh

theorem KeepsMesh.trans {a b c : Chip} (h : KeepsMesh a b) (g : KeepsMesh b c) : KeepsMesh a c :=
  ⟨g.ctl.trans h.ctl, g.mesh.trans h.mesh⟩

theorem Chip.logErr_keepsMesh (c : Chip) (u : Nat) {e : ErrInfo} (he : e.cls ≠ .fatal) : KeepsMesh c (c.logErr u e) := by
  have honly := c.logErr_onlyRecords u he
  have hctl := congrArg Chip.ctl honly
  have hmesh := congrArg Chip.mesh honly
  exact ⟨hctl, hmesh⟩

theorem Chip.activate_keepsMesh (c : Chip) (n : Nat) (co : Coord) : KeepsMesh c (c.activate n co) := by
  unfold Chip.activate
  dsimp only [Chip.pick]
  split_ifs <;> exact ⟨rfl, rfl⟩

theorem Chip.trigger_keepsMesh (c : Chip) (n rank : Nat) (cause : RetCause) : KeepsMesh c (c.trigger n rank cause) := by
  unfold Chip.trigger
  split <;> exact ⟨rfl, rfl⟩

theorem Chip.countCe_keepsMesh (c : Chip) (n rank : Nat) : KeepsMesh c (c.countCe n rank) := by
  unfold Chip.countCe
  extract_lets d th
  have hd : KeepsMesh c d := ⟨rfl, rfl⟩
  split
  · exact hd.trans (Chip.trigger_keepsMesh _ _ _ _)
  · exact hd

theorem Chip.countUe_keepsMesh (c : Chip) (n rank : Nat) : KeepsMesh c (c.countUe n rank) := by
  unfold Chip.countUe
  extract_lets d
  have hd : KeepsMesh c d := ⟨rfl, rfl⟩
  split
  · exact hd.trans (Chip.trigger_keepsMesh _ _ _ _)
  · exact hd

theorem Chip.storeLine_keepsMesh (c : Chip) (key : Nat) (x : Line) (p : Bool) : KeepsMesh c (c.storeLine key x p) := by
  unfold Chip.storeLine
  exact ⟨rfl, rfl⟩

theorem Chip.modMc_keepsMesh (c : Chip) (n : Nat) (f : Mc → Mc) : KeepsMesh c (c.modMc n f) := ⟨rfl, rfl⟩

theorem dramErr_not_fatal {cls : ErrClass} (h : cls ≠ .fatal) (co : Coord) (dev : Nat) (by_ : ReadBy) :
    (dramErr cls co dev by_).cls ≠ .fatal := h

/-- A line that a read may write back. -/
theorem KeepsMesh.rewrite {a c : Chip} (h : KeepsMesh a c) (n : Nat) (w : Bool) (key : Nat) (x : Line) (p : Bool) (f : Mc → Mc) :
    KeepsMesh a (if w then (c.storeLine key x p).modMc n f else c) := by
  have hstored := (c.storeLine_keepsMesh key x p).trans (Chip.modMc_keepsMesh _ n f)
  split
  · exact h.trans hstored
  · exact h

theorem Chip.readDram_keepsMesh (c : Chip) (n l : Nat) (co : Coord) (devs : List Nat) (by_ : ReadBy) :
    KeepsMesh c (c.readDram n l co devs by_).2.2.2 := by
  have hfresh {d : Chip} (k : Nat) (h : KeepsMesh c d) : KeepsMesh c { d with fresh := k } := ⟨h.ctl, h.mesh⟩
  have hopened : KeepsMesh c (c.activate n co) := c.activate_keepsMesh n co
  unfold Chip.readDram
  extract_lets key c1 c2
  obtain ⟨x, p⟩ := c1.rawLine key
  dsimp only
  split
  · exact hfresh _ hopened
  · refine KeepsMesh.trans ?_ (Chip.countCe_keepsMesh _ _ _)
    refine KeepsMesh.trans ?_ (Chip.logErr_keepsMesh _ _ (dramErr_not_fatal (by decide) _ _ _))
    refine KeepsMesh.trans ?_ (Chip.modMc_keepsMesh _ _ _)
    exact KeepsMesh.rewrite (hfresh _ hopened) _ _ _ _ _ _
  · refine KeepsMesh.trans ?_ (Chip.countUe_keepsMesh _ _ _)
    have hread := KeepsMesh.rewrite (hfresh (c1.fresh + 1 + 1) (hfresh (c1.fresh + 1) hopened)) n c2 key
      (Config.decodedLine (c1.fresh + 1) x) true fun m => { m with bad := Sparse.del m.bad key }
    split
    · exact hread
    · exact hread.trans (Chip.logErr_keepsMesh _ _ (dramErr_not_fatal (by decide) _ _ _))
  · exact hfresh _ (hfresh _ hopened)

theorem Chip.rankRead_keepsMesh (c : Chip) (n l : Nat) (co : Coord) (devs : List Nat) (by_ : ReadBy) :
    KeepsMesh c (c.rankRead n l co devs by_).2.2.2 := by
  unfold Chip.rankRead
  split
  · exact ⟨rfl, rfl⟩
  · exact c.readDram_keepsMesh n l co devs by_

theorem Chip.chanRead_keepsMesh (c : Chip) (n l : Nat) (devs : List Nat) (by_ : ReadBy) :
    KeepsMesh c (c.chanRead n l devs by_).2.2 := by
  have hfirst := c.rankRead_keepsMesh n l { c.coord n l with rank := c.servingRank n (c.coord n l) } devs by_
  unfold Chip.chanRead
  dsimp only
  split
  · exact hfirst.trans (Chip.rankRead_keepsMesh _ _ _ _ _ _)
  · exact hfirst

theorem Chip.mapAddr_of_ctl {c d : Chip} (h : d.ctl = c.ctl) (pa : Nat) : d.mapAddr pa = c.mapAddr pa := by
  have hon : d.msetOn = c.msetOn := funext fun n => by
    unfold Chip.msetOn
    rw [show d.faulty = c.faulty by unfold Chip.faulty; rw [h], Chip.regFld, Chip.regFld, Chip.reg_of_ctl h]
  have hset : d.mset = c.mset := funext fun n => by simp only [Chip.mset, Chip.reg_of_ctl h]
  simp only [Chip.mapAddr, Chip.msetsOn, hon, hset]

/-- The answer of controller `n` to a CLOSE for one line of the slot. -/
def closeMsg (n : Nat) (m : Msg) (line : Nat) (x : Line) (p : Bool) : Msg :=
  { kind := .data, src := .mc n, dst := m.src, line := line, data := x, poison := p }

/-- Line `line` of a slot at a controller that is asked to close it. -/
def Chip.closeRead (c : Chip) (n : Nat) (m : Msg) (line : Nat) : Chip :=
  match c.mapAddr (line * 64) with
  | some (false, ch, l) =>
    if ch = n then
      let r := c.chanRead n (l / 64) [] (.demand (line * 64))
      r.2.2.send (closeMsg n m line r.1 r.2.1)
    else c
  | _ => c

/-- From `c` to `d` controller `n` has answered the CLOSE `m` for those of the lines `js` that it serves (log 86). -/
structure Chip.Closes (c d : Chip) (n : Nat) (m : Msg) (js : List Nat) : Prop where
  ctl : d.ctl = c.ctl
  sends : ∃ l : List Msg, d.mesh = c.mesh ++ l ∧ l.map (fun y => y.line) = js.filter (fun j => decide (c.memAgent j = .mc n)) ∧
    ∀ y ∈ l, y.kind = .data ∧ y.src = .mc n ∧ y.dst = m.src

theorem Chip.Closes.trans {a b c : Chip} {n : Nat} {m : Msg} {js ks : List Nat} (h : a.Closes b n m js) (g : b.Closes c n m ks) :
    a.Closes c n m (js ++ ks) := by
  obtain ⟨l, hmesh, hlines, hall⟩ := h.sends
  obtain ⟨l', hmesh', hlines', hall'⟩ := g.sends
  have hserved : b.memAgent = a.memAgent := funext fun j => by simp only [Chip.memAgent, Chip.mapAddr_of_ctl h.ctl]
  refine ⟨g.ctl.trans h.ctl, l ++ l', ?_, ?_, fun y hy => (List.mem_append.mp hy).elim (hall y) (hall' y)⟩
  · rw [hmesh', hmesh, List.append_assoc]
  · rw [List.map_append, hlines, hlines', hserved, ← List.filter_append]

theorem Chip.Closes.other {c : Chip} {n line : Nat} (h : c.memAgent line ≠ .mc n) (m : Msg) : c.Closes c n m [line] :=
  ⟨rfl, [], (List.append_nil _).symm, by simp [h], by simp⟩

theorem Chip.closeRead_closes (c : Chip) (n : Nat) (m : Msg) (line : Nat) : c.Closes (c.closeRead n m line) n m [line] := by
  match hmap : c.mapAddr (line * 64) with
  | some (false, ch, l) =>
    have hagent : c.memAgent line = .mc ch := by simp only [Chip.memAgent, hmap]
    by_cases hch : ch = n
    · have hread := c.chanRead_keepsMesh n (l / 64) [] (.demand (line * 64))
      generalize hr : c.chanRead n (l / 64) [] (.demand (line * 64)) = r at hread
      have hop : c.closeRead n m line = r.2.2.send (closeMsg n m line r.1 r.2.1) := by
        simp only [Chip.closeRead, hmap, hch, if_true, hr]
      have hsent : (c.closeRead n m line).mesh = c.mesh ++ [{ closeMsg n m line r.1 r.2.1 with birth := r.2.2.mt / 32 }] := by
        rw [hop, Chip.send_mesh, hread.mesh]
      rw [hop] at hsent ⊢
      exact ⟨hread.ctl, _, hsent, by simp [hagent, hch, closeMsg], by simp [closeMsg]⟩
    · have hop : c.closeRead n m line = c := by simp only [Chip.closeRead, hmap, hch, if_false]
      rw [hop]
      exact .other (by simpa [hagent] using hch) m
  | some (true, ch, l) =>
    have hop : c.closeRead n m line = c := by simp only [Chip.closeRead, hmap]
    rw [hop]
    exact .other (by simp [Chip.memAgent, hmap]) m
  | none =>
    have hop : c.closeRead n m line = c := by simp only [Chip.closeRead, hmap]
    rw [hop]
    exact .other (by simp [Chip.memAgent, hmap]) m

theorem Chip.mcClose_eq (c : Chip) (n : Nat) (m : Msg) :
    c.mcClose n m = (List.range 32).foldl (fun d k => d.closeRead n m (m.line + k)) (c.take m) := by
  unfold Chip.mcClose
  congr 1

/-- A slot's lines in their order. -/
theorem Chip.closeReads_closes (n : Nat) (m : Msg) (ks : List Nat) :
    ∀ c : Chip, c.Closes (ks.foldl (fun d k => d.closeRead n m (m.line + k)) c) n m (ks.map fun j => m.line + j) := by
  induction ks with
  | nil => exact fun c => ⟨rfl, [], (List.append_nil _).symm, rfl, by simp⟩
  | cons k ks ih => exact fun c => (c.closeRead_closes n m (m.line + k)).trans (ih _)

/-! The statement. -/

/-- Settles O28: each answer by the lemma of what it ends. -/
theorem answersEndTransactions : Obligations.AnswersEndTransactions := by
  intro s i x m t l w r c hm q ack freed filled fills
  refine ⟨?_, ?_, ?_, ?_, ?_, ?_, ?_⟩
  · intro hdst htxn hst hsrc hack hawait hcmp hdrain
    refine RunsTo.of_fuseless (·.ackAt (q .ack)) rfl ?_ fun _ _ hd => hd
    have hto := (HomeTo.taken c (q .ack) i).ack_ends htxn hst hack hawait hcmp hdrain
    have hop : c.ackAt (q .ack) = ((c.arrive (q .ack)).take (q .ack)).ackAnswer i m.line t.req.src := by
      simp only [Chip.ackAt, q, hdst, hsrc]
    rw [← hop] at hto
    refine ⟨?_, hto.answers⟩
    rw [hto.home]
    exact Home.txnOf_freed _ m.line
  · intro hdst hsrc htxn hst hkind hawait hcmp hack
    refine RunsTo.of_fuseless (·.snpNoDataAt (q .snpNoData)) rfl ?_ fun _ _ hd => hd
    have hto := (HomeTo.taken c (q .snpNoData) i).snp_last htxn hst hkind hawait hcmp hack m.kept
    have hop : c.snpNoDataAt (q .snpNoData) = ((c.arrive (q .snpNoData)).take (q .snpNoData)).snpAnswer i m.line x m.kept := by
      simp only [Chip.snpNoDataAt, q, hdst, hsrc]
    rw [← hop] at hto
    refine ⟨?_, hto.answers⟩
    rw [hto.home]
    exact Home.txnOf_putTxn hm { t with await := [], cmpDue := false }
  · intro hdst hpend hwb hline hsent hfills
    have hfreed := fun j => Chip.wbAckAt_frees (m := q j) hdst hpend hwb hline hsent hfills
    exact ⟨RunsTo.of_fuseless (·.wbAckAt (q .wbAck)) rfl (hfreed _) fun _ _ hd => hd,
      RunsTo.of_fuseless (·.wbAckAt (q .wbAckStale)) rfl (hfreed _) fun _ _ hd => hd⟩
  · intro hdst hsrc herr hpend hkind hzero hline
    exact RunsTo.of_fuseless (·.cmpAt (q .cmp)) rfl (Chip.cmpAt_upgrades (m := q .cmp) hdst hsrc herr hpend hkind hzero hline)
      fun _ _ hd => hd
  · rintro ⟨hdst, hpend, hkind, hfind, hway, htakes, hcmp⟩ -
    have hfilled := fun j => Chip.dataAt_fills (m := q j) hdst hpend hkind hfind hway htakes hcmp
    exact ⟨RunsTo.of_fuseless (·.dataAt (q .data)) rfl (hfilled _) fun _ _ hd => hd,
      RunsTo.of_fuseless (·.dataAt (q .fwdData)) rfl (hfilled _) fun _ _ hd => hd⟩
  · intro hdst hsrc hput htxn
    refine RunsTo.of_fuseless (·.wbDataAt (q .wbData)) rfl ?_ fun _ _ hd => hd
    have hto := (HomeTo.taken c (q .wbData) i).modHome fun h => { h with slots := Sparse.put h.slots x (q .wbData) }
    have hop : c.wbDataAt (q .wbData) = (c.arrive (q .wbData)).homeWbData i (q .wbData) := by
      simp only [Chip.wbDataAt, q, hdst]
    have htxn' : ((c.arrive (q .wbData)).home i).txnOf (q .wbData).line = none := by
      rw [Chip.arrive_home]
      exact htxn
    rw [Chip.homeWbData_waits (m := q .wbData) hsrc hput htxn'] at hop
    rw [← hop] at hto
    refine ⟨?_, hto.answers⟩
    rw [hto.home]
    exact Sparse.find_put_self _ x (q .wbData)
  · intro n hdst hn
    refine RunsTo.of_fuseless (·.closeAt (q .close)) rfl ?_ fun _ _ hd => hd
    obtain ⟨l, hmesh, hlines, hall⟩ :=
      (Chip.closeReads_closes n (q .close) (List.range 32) ((c.arrive (q .close)).take (q .close))).sends
    obtain ⟨ms, harrive⟩ := c.arrive_eq (q .close)
    have hserved : ((c.arrive (q .close)).take (q .close)).memAgent = c.memAgent := by
      rw [harrive]
      rfl
    have hop : c.closeAt (q .close) = (c.arrive (q .close)).mcClose n (q .close) := by simp only [Chip.closeAt, q, hdst]
    rw [hserved] at hlines
    refine ⟨l, ?_, hlines, hall⟩
    rw [show s.chip.closeAt (q .close) = _ from hop, Chip.mcClose_eq]
    exact hmesh

end Sys2Proof.Machine
end

section
/-! Maintenance by set and way at an L2 and an L3 slice (R174-R177): what a write of the operation starts, and what a visit of a
position leaves. -/

namespace Sys2Proof.Machine

/-! Positions. -/

theorem Sparse.mem_put {α : Type} {k : Nat} {v : α} {e : Nat × α} : ∀ {m : Sparse α}, e ∈ Sparse.put m k v → e ∈ m ∨ e.1 = k
  | [], h => Or.inr (congrArg Prod.fst (List.mem_singleton.mp h))
  | f :: t, h => by
    unfold Sparse.put at h
    split at h
    · exact (List.mem_cons.mp h).elim (fun he => Or.inr (congrArg Prod.fst he)) Or.inl
    · split at h
      · exact (List.mem_cons.mp h).elim (fun he => Or.inr (congrArg Prod.fst he)) fun ht => Or.inl (List.mem_cons_of_mem _ ht)
      · refine (List.mem_cons.mp h).elim (fun he => Or.inl (he ▸ List.mem_cons_self)) fun ht => ?_
        exact (Sparse.mem_put ht).imp_left (List.mem_cons_of_mem _)

theorem Sparse.mem_del {α : Type} {k : Nat} {e : Nat × α} : ∀ {m : Sparse α}, e ∈ Sparse.del m k → e ∈ m
  | [], h => h
  | (_, _) :: _, h => by
    unfold Sparse.del at h
    split at h
    · exact List.mem_cons_of_mem _ (Sparse.mem_del h)
    · exact (List.mem_cons.mp h).elim (fun he => he ▸ List.mem_cons_self) fun ht => List.mem_cons_of_mem _ (Sparse.mem_del ht)

/-- Once the only place to visit has been visited, and no other was filled, none is left. -/
theorem visitKeys_after {α : Type} {m n : Sparse α} {pos : MaintPos} {ways k : Nat} (hkeys : visitKeys m pos ways 0 = [k])
    (hsub : ∀ e ∈ n, e ∈ m ∨ e.1 = k) : visitKeys n pos ways (k + 1) = [] := by
  rw [visitKeys, List.map_eq_nil_iff, List.filter_eq_nil_iff]
  intro e he hvisit
  obtain ⟨hpos, hlater⟩ := Bool.and_eq_true_iff.mp hvisit
  have hlater' : k + 1 ≤ e.1 := of_decide_eq_true hlater
  have hkey : e.1 = k := by
    rcases hsub e he with hm | hk
    · have hmem : e.1 ∈ visitKeys m pos ways 0 :=
        List.mem_map.mpr ⟨e, List.mem_filter.mpr ⟨hm, Bool.and_eq_true_iff.mpr ⟨hpos, decide_eq_true (Nat.zero_le _)⟩⟩, rfl⟩
      rw [hkeys] at hmem
      exact List.mem_singleton.mp hmem
    · exact hk
  omega

/-! Writebacks of an L2 (R165). -/

/-- The writeback buffer entry of a line, its Put sent. -/
def L2Line.wbEnt (y : L2Line) (line : Nat) (discard keep : Bool) : WbEnt :=
  { line := line, st := y.st, data := y.data, poison := y.poison, sent := true, discard := discard, keep := keep }

/-- The messages of a writeback, in the class of service of the core. -/
def putsOf (x clos : Nat) (w : WbEnt) : List Msg := (putMsgs x w).map fun m => { m with clos := clos }

section core

variable {a d : Chip} {x k n : Nat} {c : Core} {l : List Msg} {y : L2Line} {line : Nat}

/-- The only entry of a writeback buffer sends its Put. -/
theorem CoreTo.sendPuts_one {w : WbEnt} (h : CoreTo a d x c l) (hwb : c.wb = [w]) (hsent : w.sent = false) :
    CoreTo a (d.sendPuts x) x { c with wb := [{ w with sent := true }] } (l ++ putsOf x (d.coreClos x) w) := by
  have hop : d.sendPuts x = (d.modCore x fun y => { y with wb := [{ w with sent := true }] }).sendAll (putsOf x (d.coreClos x) w) := by
    simp only [Chip.sendPuts, h.core, hwb, List.foldl_cons, List.foldl_nil, hsent, List.any_cons, List.any_nil, Bool.false_and,
      Bool.or_self, Bool.false_eq_true, if_false, List.nil_append]
    rfl
  rw [hop]
  exact (h.modCore _).sendAll _

/-- A line that leaves the L2 goes to the writeback buffer, and its Put is sent (R165, R166). -/
theorem CoreTo.evict (h : CoreTo a d x c l) (hfind : c.find line = some (n, y)) (hwb : c.wb = []) (hpend : c.pending line = none)
    (discard : Bool) : CoreTo a (d.evict x line discard) x { c.gives line with wb := [y.wbEnt line discard false] }
      (l ++ putsOf x (d.coreClos x) (y.wbEnt line discard false)) := by
  let w : WbEnt := { y.wbEnt line discard false with sent := false }
  have hline : (d.core x).line line = some y := by rw [h.core]; exact Core.line_of_find hfind
  have hop : d.evict x line discard = ((d.modCore x fun z => { z.gives line with wb := z.wb ++ [w] }).sendPuts x).dropResv x line := by
    simp only [Chip.evict, hline]
    rw [if_neg (by simp [h.core, hwb, hpend])]
    rfl
  rw [hop]
  have hmoved := h.modCore fun z => { z.gives line with wb := z.wb ++ [w] }
  exact (hmoved.sendPuts_one (w := w) (by simp [hwb]) rfl).dropResv x line

/-- A core that has cleaned a line in place (R174). -/
def Core.cleaned (c : Core) (line : Nat) : Core := c.setLine line fun l => some { l with st := if l.st = .m then .e else .s }

/-- A dirty line is cleaned in place: a copy goes to the writeback buffer, and its Put is sent. -/
theorem CoreTo.cleanKeep (h : CoreTo a d x c l) (hfind : c.find line = some (n, y)) (hwb : c.wb = []) (hdirty : y.st.dirty = true) :
    CoreTo a (d.cleanKeep x line) x { c.cleaned line with wb := [y.wbEnt line false true] }
      (l ++ putsOf x (d.coreClos x) (y.wbEnt line false true)) := by
  let w : WbEnt := { y.wbEnt line false true with sent := false }
  have hline : (d.core x).line line = some y := by rw [h.core]; exact Core.line_of_find hfind
  have hop : d.cleanKeep x line = (d.modCore x fun z => { z.cleaned line with wb := z.wb ++ [w] }).sendPuts x := by
    simp only [Chip.cleanKeep, hline]
    rw [if_pos (by simp [h.core, hwb, hdirty])]
    rfl
  rw [hop]
  have hmoved := h.modCore fun z => { z.cleaned line with wb := z.wb ++ [w] }
  exact hmoved.sendPuts_one (w := w) (by simp [hwb]) rfl

/-! Visits of an L2. -/

/-- A core whose maintenance goes on from a place. -/
def Core.maintAt (c : Core) (p : Nat) : Core := { c with maint := c.maint.map fun m => { m with next := p } }

theorem CoreTo.l2Visits_done {op : Nat} {pos : MaintPos} {from_ : Nat} (h : CoreTo a d x c l) (hkeys : visitKeys c.l2 pos 16 from_ = [])
    (fuel : Nat) : CoreTo a (d.l2Visits x op pos from_ (fuel + 1)) x (c.maintAt l2End) l := by
  have hop : d.l2Visits x op pos from_ (fuel + 1) = d.modCore x (·.maintAt l2End) := by
    rw [Chip.l2Visits, h.core, hkeys]
    rfl
  rw [hop]
  exact h.modCore _

/-- The only place to visit is visited, and then none is left. -/
theorem CoreTo.l2Visits_one {op : Nat} {pos : MaintPos} {c' : Core} {l' : List Msg} (h : CoreTo a d x c l)
    (hkeys : visitKeys c.l2 pos 16 0 = [k]) (hwb : c.wb = []) (hheld : Sparse.find c.l2 k = some y) (hpend : c.pending y.line = none)
    (hvisit : CoreTo a (d.l2Visit x op k) x c' l') (hsub : ∀ e ∈ c'.l2, e ∈ c.l2 ∨ e.1 = k) (fuel : Nat) :
    CoreTo a (d.l2Visits x op pos 0 (fuel + 2)) x ((c'.maintAt (k + 1)).maintAt l2End) l' := by
  have hop : d.l2Visits x op pos 0 (fuel + 2) = ((d.l2Visit x op k).modCore x (·.maintAt (k + 1))).l2Visits x op pos (k + 1) (fuel + 1) := by
    rw [Chip.l2Visits]
    simp only [h.core, hkeys, hwb, hheld, hpend, Option.bind_some, List.length_nil, Option.isSome_none, Bool.or_false]
    rfl
  rw [hop]
  exact (hvisit.modCore (·.maintAt (k + 1))).l2Visits_done (c := c'.maintAt (k + 1)) (visitKeys_after hkeys hsub) fuel

/-- The operation `op` at the positions `pos`, all visited. -/
def maintEnd (op : Nat) (pos : MaintPos) : MaintSt := { op := op, pos := pos, next := l2End }

/-- A core that begins an operation (R174). -/
def Core.maintBegun (c : Core) (op : Nat) (pos : MaintPos) : Core := { c with maint := some { op := op, pos := pos } }

/-- The only line that an operation reaches, with its place free to visit. -/
structure Core.VisitsOne (c : Core) (pos : MaintPos) (k : Nat) (y : L2Line) : Prop where
  keys : visitKeys c.l2 pos 16 0 = [k]
  held : Sparse.find c.l2 k = some y
  found : c.find y.line = some (k, y)
  buffer : c.wb = []
  idle : c.pending y.line = none

theorem CoreTo.l2MaintStart {op : Nat} {pos : MaintPos} {c' : Core} {l' : List Msg} (h : CoreTo a d x c l) (hone : c.VisitsOne pos k y)
    (hvisit : CoreTo a ((d.modCore x (·.maintBegun op pos)).l2Visit x op k) x c' l') (hsub : ∀ e ∈ c'.l2, e ∈ c.l2 ∨ e.1 = k) :
    CoreTo a (d.l2MaintStart x op pos) x ((c'.maintAt (k + 1)).maintAt l2End) l' :=
  (h.modCore (·.maintBegun op pos)).l2Visits_one hone.keys hone.buffer hone.held hone.idle hvisit hsub 16383

theorem Chip.l2Visit_clean (hheld : Sparse.find (d.core x).l2 k = some y) : d.l2Visit x 1 k = d.cleanKeep x y.line := by
  simp only [Chip.l2Visit, hheld, if_true]

theorem Chip.l2Visit_evict {op : Nat} (hop : op ≠ 1) (hheld : Sparse.find (d.core x).l2 k = some y) :
    d.l2Visit x op k = d.evict x y.line (decide (op = 2)) := by
  simp only [Chip.l2Visit, hheld, hop, if_false]

theorem Core.gives_l2 (hfind : c.find line = some (k, y)) : (c.gives line).l2 = Sparse.del c.l2 k := by
  simp only [Core.gives, Core.setLine, hfind]

theorem Core.cleaned_l2 (hfind : c.find line = some (k, y)) :
    (c.cleaned line).l2 = Sparse.put c.l2 k { y with st := if y.st = .m then .e else .s } := by
  simp only [Core.cleaned, Core.setLine, hfind]

theorem Core.setLine_maint (c : Core) (line : Nat) (f : L2Line → Option L2Line) : (c.setLine line f).maint = c.maint := by
  unfold Core.setLine
  split
  · rfl
  · split <;> rfl

/-- Cleaning by set and way: the dirty line is cleaned in place, and its Put is sent. -/
theorem CoreTo.l2Maint_clean {pos : MaintPos} (h : CoreTo a d x c l) (hone : c.VisitsOne pos k y) (hdirty : y.st.dirty = true) :
    let e := d.l2MaintStart x 1 pos
    (e.core x).maint = some (maintEnd 1 pos) ∧ Sparse.find (e.core x).l2 k = some { y with st := if y.st = .m then .e else .s } ∧
      (e.core x).wb = [y.wbEnt y.line false true] := by
  intro e
  have hbegun := h.modCore (·.maintBegun 1 pos)
  have hcleaned := hbegun.cleanKeep (line := y.line) hone.found hone.buffer hdirty
  rw [← Chip.l2Visit_clean (k := k) (by rw [hbegun.core]; exact hone.held)] at hcleaned
  have hl2 := Core.cleaned_l2 (c := c.maintBegun 1 pos) hone.found
  have hto := h.l2MaintStart hone hcleaned fun f hf => Sparse.mem_put (hl2 ▸ hf)
  rw [hto.core]
  refine ⟨?_, ?_, rfl⟩
  · have hmaint : ((c.maintBegun 1 pos).cleaned y.line).maint = _ := Core.setLine_maint _ _ _
    simp only [Core.maintAt, hmaint]
    rfl
  · exact (congrArg (Sparse.find · k) hl2).trans (Sparse.find_put_self _ _ _)

/-- Invalidation by set and way: the line leaves through the writeback buffer. -/
theorem CoreTo.l2Maint_inval {op : Nat} {pos : MaintPos} (h : CoreTo a d x c l) (hone : c.VisitsOne pos k y) (hop : op ≠ 1) :
    let e := d.l2MaintStart x op pos
    (e.core x).maint = some (maintEnd op pos) ∧ Sparse.find (e.core x).l2 k = none ∧
      (e.core x).wb = [y.wbEnt y.line (decide (op = 2)) false] := by
  intro e
  have hbegun := h.modCore (·.maintBegun op pos)
  have hgone := hbegun.evict (line := y.line) hone.found hone.buffer hone.idle (decide (op = 2))
  rw [← Chip.l2Visit_evict (k := k) hop (by rw [hbegun.core]; exact hone.held)] at hgone
  have hl2 := Core.gives_l2 (c := c.maintBegun op pos) hone.found
  have hto := h.l2MaintStart hone hgone fun f hf => Or.inl (Sparse.mem_del (hl2 ▸ hf))
  rw [hto.core]
  refine ⟨?_, ?_, rfl⟩
  · have hmaint : ((c.maintBegun op pos).gives y.line).maint = _ := Core.setLine_maint _ _ _
    simp only [Core.maintAt, hmaint]
    rfl
  · exact Core.gives_find (x := c.maintBegun op pos) hone.found

end core

/-! The register that asks for an operation (R174). -/

theorem toNat_maintWord {op : Nat} {pos : MaintPos} (hop : op < 4) (hway : pos.way < 32) (hset : pos.set < 2048) :
    (BitVec.ofNat 32 (maintWord op pos)).toNat = maintWord op pos := by
  rw [BitVec.toNat_ofNat, Nat.mod_eq_of_lt]
  unfold maintWord bit
  split <;> omega

section decode

variable {op : Nat} {pos : MaintPos} (hop : op < 4)
include hop

theorem maintWord_starts (hway : pos.way < 32) (hset : pos.set < 2048) : (BitVec.ofNat 32 (maintWord op pos)).getLsbD 30 = true := by
  rw [← fld_single_eq_one, fld, toNat_maintWord hop hway hset]
  unfold maintWord bit
  split <;> omega

theorem fld_maintWord (hway : pos.way < 32) (hset : pos.set < 2048) : fld (BitVec.ofNat 32 (maintWord op pos)) 1 0 = op := by
  rw [fld, toNat_maintWord hop hway hset]
  unfold maintWord bit
  split <;> omega

theorem maintWord_all (hway : pos.way < 32) (hset : pos.set < 2048) : (BitVec.ofNat 32 (maintWord op pos)).getLsbD 2 = pos.all := by
  have hbit : fld (BitVec.ofNat 32 (maintWord op pos)) 2 2 = bit pos.all := by
    rw [fld, toNat_maintWord hop hway hset]
    unfold maintWord bit
    split <;> omega
  rw [fld_single] at hbit
  cases h : pos.all <;> simpa [h, bit] using hbit

theorem maintPos_l2 (hway : pos.way < 16) (hset : pos.set < 1024) : maintPos (BitVec.ofNat 32 (maintWord op pos)) 25 11 = pos := by
  have hset' : fld (BitVec.ofNat 32 (maintWord op pos)) 25 16 = pos.set := by
    rw [fld, toNat_maintWord hop (by omega) (by omega)]
    unfold maintWord bit
    split <;> omega
  have hway' : fld (BitVec.ofNat 32 (maintWord op pos)) 11 8 = pos.way := by
    rw [fld, toNat_maintWord hop (by omega) (by omega)]
    unfold maintWord bit
    split <;> omega
  rw [maintPos, hset', hway', maintWord_all hop (by omega) (by omega)]

theorem maintPos_l3 (hway : pos.way < 32) (hset : pos.set < 2048) : maintPos (BitVec.ofNat 32 (maintWord op pos)) 26 12 = pos := by
  have hset' : fld (BitVec.ofNat 32 (maintWord op pos)) 26 16 = pos.set := by
    rw [fld, toNat_maintWord hop hway hset]
    unfold maintWord bit
    split <;> omega
  have hway' : fld (BitVec.ofNat 32 (maintWord op pos)) 12 8 = pos.way := by
    rw [fld, toNat_maintWord hop hway hset]
    unfold maintWord bit
    split <;> omega
  rw [maintPos, hset', hway', maintWord_all hop hway hset]

end decode

/-- A device with other registers. -/
def Chip.withCtl (c : Chip) (k : Ctl) : Chip := { c with ctl := k }

/-- A device that has stored a register differs in its registers alone. -/
theorem Chip.put32_stored {c : Chip} {src : Src} {u off n : Nat} (h : c.takes src u off (BitVec.ofNat 32 n) = true) :
    ∃ k old, c.put32 src u off n = (c.withCtl k).regEffect src u off (BitVec.ofNat 32 n) old := by
  obtain ⟨r, -, hput⟩ := Chip.takes_put32 h
  obtain ⟨l, k, hstore⟩ := c.regStore_eq src u off r (BitVec.ofNat 32 n)
  exact ⟨_, _, hput.trans (by rw [hstore]; rfl)⟩

theorem Chip.regEffect_l2Maint {x : Nat} {v : Word} (hx : x < 200) (hv : v.getLsbD 30 = true) (c : Chip) (src : Src) (old : Word) :
    c.regEffect src (uCore x) 0x1044 v old = c.l2MaintStart x (fld v 1 0) (maintPos v 25 11) := by
  unfold Chip.regEffect
  extract_lets rises sw
  simp [kindOf_uCore hx, coreOfUnit_uCore, hv]

theorem Chip.regEffect_l3Maint {i : Nat} {v : Word} (hi : i < 100) (hv : v.getLsbD 30 = true) (c : Chip) (src : Src) (old : Word) :
    c.regEffect src (uSlice i) 0x1080 v old = c.l3MaintStart i (fld v 1 0) (maintPos v 26 12) := by
  unfold Chip.regEffect
  extract_lets rises sw
  simp [kindOf_uSlice hi, tileOfUnit_uSlice, hv]

theorem Chip.regEffect_drain {i : Nat} (hi : i < 100) (c : Chip) (src : Src) (old : Word) :
    c.regEffect src (uSlice i) 0x1100 1 old = c.startDrain i := by
  unfold Chip.regEffect
  extract_lets rises sw
  simp [kindOf_uSlice hi, tileOfUnit_uSlice]

/-- An operation by set and way at an L2 that its register takes. -/
theorem Chip.put32_l2Maint {c : Chip} {src : Src} {x op : Nat} {pos : MaintPos} (hx : x < 200) (hop : op < 4)
    (h : c.takes src (uCore x) 0x1044 (BitVec.ofNat 32 (maintWord op pos)) = true) (hway : pos.way < 16) (hset : pos.set < 1024) :
    ∃ k, c.put32 src (uCore x) 0x1044 (maintWord op pos) = (c.withCtl k).l2MaintStart x op pos := by
  obtain ⟨k, old, hput⟩ := Chip.put32_stored h
  refine ⟨k, hput.trans ?_⟩
  rw [Chip.regEffect_l2Maint hx (maintWord_starts hop (by omega) (by omega)), fld_maintWord hop (by omega) (by omega), maintPos_l2 hop hway hset]

/-- An operation by set and way at an L3 slice that its register takes. -/
theorem Chip.put32_l3Maint {c : Chip} {src : Src} {i op : Nat} {pos : MaintPos} (hi : i < 100) (hop : op < 4)
    (h : c.takes src (uSlice i) 0x1080 (BitVec.ofNat 32 (maintWord op pos)) = true) (hway : pos.way < 32) (hset : pos.set < 2048) :
    ∃ k, c.put32 src (uSlice i) 0x1080 (maintWord op pos) = (c.withCtl k).l3MaintStart i op pos := by
  obtain ⟨k, old, hput⟩ := Chip.put32_stored h
  refine ⟨k, hput.trans ?_⟩
  rw [Chip.regEffect_l3Maint hi (maintWord_starts hop hway hset), fld_maintWord hop hway hset, maintPos_l3 hop hway hset]

end Sys2Proof.Machine
end

section
/-! Wait queues, L3 maintenance and the drain (R160, R161, R174-R177, R201), and from these and the L2's operations the statement. -/

namespace Sys2Proof.Machine

variable {a c d : Chip} {i k n : Nat} {hm : Home} {l : List Msg} {o : L3Line} {p : Pen} {m : Msg}

/-! Writes of an L3 to memory (R157). -/

theorem HomeTo.sendMwr (h : HomeTo a d i hm l) : ∃ ws ms, HomeTo a (d.sendMwr i) i { hm with mwr := ws } (l ++ ms) := by
  unfold Chip.sendMwr
  exact ⟨_, _, (h.modHome fun x => { x with mwr := _ }).sendAll _⟩

theorem HomeTo.memPut (h : HomeTo a d i hm l) (line : Nat) (x : Line) (q : Bool) :
    ∃ ws ms, HomeTo a (d.memPut i line x q) i { hm with mwr := ws } (l ++ ms) := by
  unfold Chip.memPut
  split
  · exact ⟨hm.mwr, [], by rw [List.append_nil]; exact h⟩
  · exact (h.modHome fun y => { y with mwr := y.mwr ++ [{ line := line, data := x, poison := q }] }).sendMwr

/-- A place of the L3 is made free, its line written to memory if it is dirty. -/
theorem HomeTo.l3Way (h : HomeTo a d i hm l) {set clos w : Nat} {e : Chip} (hway : d.l3Way i set clos = some (w, e)) :
    ∃ z ws ms, HomeTo a e i { hm with l3 := z, mwr := ws } (l ++ ms) := by
  have hsame : ∃ z ws ms, HomeTo a d i { hm with l3 := z, mwr := ws } (l ++ ms) := ⟨hm.l3, hm.mwr, [], by rw [List.append_nil]; exact h⟩
  unfold Chip.l3Way at hway
  dsimp only at hway
  split at hway
  · cases hway
    exact hsame
  · split at hway
    · cases hway
    · split at hway
      · cases hway
        split
        · obtain ⟨ws, ms, hput⟩ := h.memPut _ _ _
          exact ⟨_, ws, ms, hput.modHome _⟩
        · obtain ⟨_, ws, ms, hput⟩ := hsame
          exact ⟨_, ws, ms, hput.modHome _⟩
      · cases hway
        exact hsame

/-- A home with other contents of its L3 and other writes to memory. -/
def Home.refilled (hm : Home) (z : Sparse L3Line) (t : Sparse Nat) (ws : List MemWr) : Home := { hm with l3 := z, l3tree := t, mwr := ws }

/-- A write into an L3, wherever it goes, leaves all else of its home. -/
theorem HomeTo.l3Fill_anywhere (h : HomeTo a d i hm l) (line : Nat) (x : Line) (q dirty : Bool) (clos : Nat) :
    ∃ z t ws ms, HomeTo a (d.l3Fill i line x q dirty clos) i (hm.refilled z t ws) (l ++ ms) := by
  have hsame : ∃ z t ws ms, HomeTo a d i (hm.refilled z t ws) (l ++ ms) :=
    ⟨hm.l3, hm.l3tree, hm.mwr, [], by rw [List.append_nil]; exact h⟩
  unfold Chip.l3Fill
  split
  · obtain ⟨_, _, ws, ms, hd⟩ := hsame
    exact ⟨_, _, ws, ms, hd.modHome _⟩
  · split
    next w e hway =>
      obtain ⟨_, ws, ms, he⟩ := h.l3Way hway
      exact ⟨_, _, ws, ms, he.modHome _⟩
    · split
      · obtain ⟨ws, ms, hput⟩ := h.memPut line x q
        exact ⟨hm.l3, hm.l3tree, ws, ms, hput⟩
      · exact hsame

/-! Maintenance by set and way at an L3 slice (R174-R177). -/

/-- A visit of a line that is not open: a dirty line is written to memory, unless it is only invalidated. -/
theorem HomeTo.l3Visit (h : HomeTo a d i hm l) (hheld : Sparse.find hm.l3 k = some o) (hpen : o.pen = false) (op : Nat) :
    ∃ ws ms, HomeTo a (d.l3Visit i op k) i
      { hm with l3 := if op = 1 then Sparse.put hm.l3 k { o with dirty := false } else Sparse.del hm.l3 k, mwr := ws } (l ++ ms) := by
  let e := if op ≠ 2 ∧ o.dirty = true then d.memPut i o.line o.data o.poison else d
  have hop : d.l3Visit i op k = if op = 1 then e.modHome i fun x => { x with l3 := Sparse.put x.l3 k { o with dirty := false } }
      else e.modHome i fun x => { x with l3 := Sparse.del x.l3 k } := by
    simp only [Chip.l3Visit, h.home, hheld, hpen, Bool.false_eq_true, if_false]
    rfl
  have hwritten : ∃ ws ms, HomeTo a e i { hm with mwr := ws } (l ++ ms) := by
    by_cases hw : op ≠ 2 ∧ o.dirty = true
    · simp only [e, hw, if_true, ne_eq, not_false_eq_true, and_self]
      exact h.memPut _ _ _
    · simp only [e, hw, if_false]
      exact ⟨hm.mwr, [], by rw [List.append_nil]; exact h⟩
  obtain ⟨ws, ms, he⟩ := hwritten
  rw [hop]
  refine ⟨ws, ms, ?_⟩
  split
  · exact he.modHome _
  · exact he.modHome _

/-- A slice whose operation has reached the line `o` in place `k`. -/
def Home.l3Done (hm : Home) (op : Nat) (pos : MaintPos) (k : Nat) (o : L3Line) (ws : List MemWr) : Home :=
  { hm with
    maint := some { op := op, pos := pos }
    l3 := if op = 1 then Sparse.put hm.l3 k { o with dirty := false } else Sparse.del hm.l3 k
    mwr := ws }

/-- An operation that reaches one line of the slice. -/
theorem HomeTo.l3MaintStart (h : HomeTo a d i hm l) {pos : MaintPos} (hkeys : visitKeys hm.l3 pos 32 0 = [k])
    (hheld : Sparse.find hm.l3 k = some o) (hpen : o.pen = false) (op : Nat) :
    ∃ ws ms, HomeTo a (d.l3MaintStart i op pos) i (hm.l3Done op pos k o ws) (l ++ ms) := by
  have hbegun := h.modHome fun x => { x with maint := some { op := op, pos := pos } }
  have hop : d.l3MaintStart i op pos = (d.modHome i fun x => { x with maint := some { op := op, pos := pos } }).l3Visit i op k := by
    simp only [Chip.l3MaintStart, hbegun.home, hkeys, List.foldl_cons, List.foldl_nil]
  rw [hop]
  exact hbegun.l3Visit (hm := { hm with maint := some { op := op, pos := pos } }) hheld hpen op

/-- Invalidation alone reads and writes no memory. -/
theorem Chip.l3MaintStart_inval_mcs {pos : MaintPos} (hkeys : visitKeys (d.home i).l3 pos 32 0 = [k])
    (hheld : Sparse.find (d.home i).l3 k = some o) (hpen : o.pen = false) : (d.l3MaintStart i 2 pos).mcs = d.mcs := by
  simp [Chip.l3MaintStart, Chip.l3Visit, hkeys, hheld, hpen]

/-! The end of an operation (R175). -/

theorem Chip.maintDone_core {x : Nat} {mt : MaintSt} (hx : x < 200) (hmaint : (c.core x).maint = some mt)
    (hkeys : visitKeys (c.core x).l2 mt.pos 16 mt.next = []) :
    ((c.maintDone (uCore x)).core x).maint = none ∧ ((c.maintDone (uCore x)).core x).l2 = (c.core x).l2 := by
  have hvisited := (CoreTo.refl c x).l2Visits_done (op := mt.op) hkeys l2End
  have hop : c.maintDone (uCore x) = (c.l2Visits x mt.op mt.pos mt.next (l2End + 1)).modCore x fun y => { y with maint := none } := by
    simp only [Chip.maintDone, kindOf_uCore hx, coreOfUnit_uCore, hmaint, hvisited.core]
    simp [Core.maintAt, hmaint]
  have hto := hvisited.modCore fun y => { y with maint := none }
  rw [hop, hto.core]
  exact ⟨rfl, rfl⟩

theorem Chip.maintDone_slice (hi : i < 100) : c.maintDone (uSlice i) = c.modHome i fun x => { x with maint := none } := by
  simp only [Chip.maintDone, kindOf_uSlice hi, tileOfUnit_uSlice]

/-! The drain (R201). -/

/-- A home that drains its open lines. -/
def Home.draining (hm : Home) (lines : List Nat) : Home := { hm with drain := lines }

/-- A home whose drain goes on with the lines that are still open. -/
def Home.drainLeft (hm : Home) : Home := { hm with drain := hm.drain.filter fun j => (hm.openPen j).isSome }

/-- The only line to drain closes, and BUSY falls. -/
theorem HomeTo.drainStep_one (h : HomeTo a d i hm l) (hline : hm.drain = [p.line]) (hpen : hm.penOf p.line = some (k, p))
    (hst : p.st = .opened) (hblocked : hm.blocked p.line = false) :
    ((d.drainStep i).home i).openPen p.line = none ∧ (d.drainStep i).regFld (uSlice i) 0 0x1100 1 1 = 0 := by
  obtain ⟨z, t, ws, ms, hfill⟩ := (h.modHome (·.penGone p.line)).l3Fill_anywhere p.line p.result.1 p.poison true p.clos
  let e := (d.closeWith i p .drain).modHome i (·.drainLeft)
  have he : HomeTo a e i ((hm.penGone p.line).refilled z t ws).drainLeft _ := (hfill.closeWith .drain).modHome (·.drainLeft)
  have hempty : (e.home i).drain = [] := by
    rw [he.home]
    simp [Home.drainLeft, Home.refilled, Home.penGone, hline]
  have hop : d.drainStep i = e.setRegFld (uSlice i) 0 0x1100 1 1 0 := by
    have hclose : d.closePen i p.line .drain = d.closeWith i p .drain := by
      simp only [Chip.closePen, h.home, hpen, hst, reduceCtorEq, if_false]
    simp only [Chip.drainStep, h.home, hline, List.foldl_cons, List.foldl_nil, hblocked, hpen, hclose, Bool.false_eq_true, if_false]
    exact if_pos (List.isEmpty_iff.mpr hempty)
  have hdrained := he.setReg (uSlice i) 0 0x1100 (setFld (e.reg (uSlice i) 0 0x1100) 1 1 0)
  rw [hop]
  refine ⟨?_, ?_⟩
  · rw [show (e.setRegFld (uSlice i) 0 0x1100 1 1 0).home i = _ from hdrained.home]
    exact Home.openPen_penGone hm p.line
  · rw [Chip.regFld, Chip.setRegFld, Chip.reg_setReg_self, fld_setFld_self _ _ _ _ (by decide), Nat.zero_mod]

/-- A slice with one open line drains at once. -/
theorem Chip.startDrain_one (hpens : (c.home i).pens = [(k, p)]) (hst : p.st = .opened) (hspill : (c.home i).spill = [])
    (hblocked : (c.home i).blocked p.line = false) :
    ((c.startDrain i).home i).openPen p.line = none ∧ (c.startDrain i).regFld (uSlice i) 0 0x1100 1 1 = 0 := by
  let b := c.modHome i fun x => x.draining x.openLines
  have hset := ((HomeTo.refl c i).modHome fun x => x.draining x.openLines).setReg (uSlice i) 0 0x1100
    (setFld (b.reg (uSlice i) 0 0x1100) 1 1 1)
  have hlines : (c.home i).openLines = [p.line] := by rw [Home.openLines, hpens, hspill]; rfl
  have hpen : (c.home i).penOf p.line = some (k, p) := by simp [Home.penOf, hpens]
  exact hset.drainStep_one (p := p) hlines hpen hst hblocked

/-! Wait queues (R160, R161). -/

/-- A home whose oldest waiting request of a line has left the queue. -/
def Home.dequeued (hm : Home) (line : Nat) (ms : List Msg) : Home :=
  { hm with waitq := if ms.isEmpty then Sparse.del hm.waitq line else Sparse.put hm.waitq line ms }

theorem Home.waitq_dequeued (hm : Home) (line : Nat) (ms : List Msg) : Sparse.at (hm.dequeued line ms).waitq [] line = ms := by
  cases ms with
  | nil =>
    have hgone : Sparse.find (Sparse.del hm.waitq line) line = none := (Sparse.find_del _ line line).trans (if_pos rfl)
    simp [Home.dequeued, Sparse.at, hgone]
  | cons m ms => exact Sparse.at_put_self _ _ _ _

/-- The oldest waiting request of an unblocked line starts. -/
theorem Chip.startQueued_starts {line : Nat} {ms : List Msg} {pool : Nat} (hq : Sparse.at (c.home i).waitq [] line = m :: ms)
    (htxn : (c.home i).txnOf line = none) (hblocked : (c.home i).blocked line = false) (hlen : ms.length < 15)
    (hpool : ({ c.home i with waitq := Sparse.del (c.home i).waitq line } : Home).poolFor m = some pool) :
    c.startQueued i line = (c.modHome i (·.dequeued line ms)).startReq i m pool := by
  have hlen' : ms.length ≠ 15 := by omega
  simp only [Chip.startQueued, htxn, hq, hblocked, hpool, hlen', Bool.false_eq_true, if_false]
  rfl

/-- The only port entry of a blocked line takes a free place of its queue. -/
theorem Chip.admitQueued_one {line pt : Nat} (hlen : (Sparse.at (c.home i).waitq [] line).length < 16)
    (hblocked : (c.home i).blocked line = true) (hports : ((c.home i).ports.filter fun e => decide (e.2.line = line)) = [(pt, m)]) :
    c.admitQueued i line = c.modHome i fun x =>
      { x with
        waitq := Sparse.put x.waitq line (Sparse.at (c.home i).waitq [] line ++ [m])
        ports := x.ports.erase (pt, m)
        rr := pt } := by
  have hlen' : ¬ 16 ≤ (Sparse.at (c.home i).waitq [] line).length := by omega
  simp [Chip.admitQueued, hblocked, hports, hlen']

/-! The statement. -/

/-- Settles O29: the queues, an eviction, the operations by set and way through the register that asks for them, and the drain. -/
theorem queuesEvictionsAndMaintenance : Obligations.QueuesEvictionsAndMaintenance := by
  intro s src i x k line m ms pt l o p pos mt c hm wbEnt l2 l3 busy2 busy3
  have hone {n : Nat} (h : l2 n) : (c.core x).VisitsOne pos k l := by
    obtain ⟨-, -, -, hkeys, hheld, hfind, hwb, hpend⟩ := h
    exact ⟨hkeys, hheld, hfind, hwb, hpend⟩
  have hcore {n : Nat} (hx : x < 200) (hn : n < 4) (h : l2 n) :
      ∃ e : Chip, CoreTo e e x (c.core x) [] ∧ c.put32 src (uCore x) 0x1044 (maintWord n pos) = e.l2MaintStart x n pos := by
    obtain ⟨htakes, hway, hset, -⟩ := h
    obtain ⟨j, hput⟩ := Chip.put32_l2Maint hx hn htakes hway hset
    exact ⟨c.withCtl j, CoreTo.refl (c.withCtl j) x, hput⟩
  have hslice {n : Nat} (hi : i < 100) (hn : n < 4) (h : l3 n) :
      ∃ e : Chip, e.mcs = c.mcs ∧ e.home i = hm ∧ c.put32 src (uSlice i) 0x1080 (maintWord n pos) = e.l3MaintStart i n pos ∧
        ∃ ws ms, HomeTo e (e.l3MaintStart i n pos) i (hm.l3Done n pos k o ws) ms := by
    obtain ⟨htakes, hway, hset, hkeys, hheld, hpen⟩ := h
    obtain ⟨j, hput⟩ := Chip.put32_l3Maint hi hn htakes hway hset
    obtain ⟨ws, ms, hto⟩ := (HomeTo.refl (c.withCtl j) i).l3MaintStart hkeys hheld hpen n
    exact ⟨c.withCtl j, rfl, rfl, hput, ws, _, hto⟩
  have hgone : Sparse.find (Sparse.del hm.l3 k) k = none := (Sparse.find_del hm.l3 k k).trans (if_pos rfl)
  refine ⟨?_, ?_, ?_, ?_, ?_, ?_, ?_, ?_, ?_, ?_, ?_, ?_⟩
  · intro hq htxn hblocked hline hkind hlen hpool hmem hopen hfind
    obtain ⟨j, hpool⟩ := Option.isSome_iff_exists.mp hpool
    subst hline
    refine RunsTo.of_fuseless (·.startQueued i m.line) rfl ?_ fun _ _ hd => hd
    have hto := ((HomeTo.refl c i).modHome (·.dequeued m.line ms))
    have hopen' : (((c.modHome i (·.dequeued m.line ms)).home i).openPen m.line).bind (closeCause m) = none :=
      closeCause_none (by rw [hto.home]; exact hopen) m
    have hserve : (c.modHome i (·.dequeued m.line ms)).perform i m j = (c.modHome i (·.dequeued m.line ms)).performNcWr i m := by
      simp only [Chip.perform, hkind]
    have hwr := hto.ncWr_alone (m := m) hfind
    rw [← hserve, ← Chip.startReq_performs (a := c.modHome i (·.dequeued m.line ms)) hmem hopen' j, ← Chip.startQueued_starts hq htxn hblocked hlen hpool] at hwr
    rw [hwr.home]
    exact ⟨Home.waitq_dequeued hm m.line ms, Home.blocked_putTxn _ (ncTxn m), hwr.mesh⟩
  · intro hlen hblocked hports
    refine RunsTo.of_fuseless (·.admitQueued i line) rfl ?_ fun _ _ hd => hd
    rw [show s.chip.admitQueued i line = _ from Chip.admitQueued_one hlen hblocked hports, Chip.modHome_self]
    exact ⟨Sparse.at_put_self _ _ _ _, rfl, rfl⟩
  · intro hfind hline hwb hpend
    subst hline
    refine RunsTo.of_fuseless (·.evict x l.line) rfl ?_ fun _ _ hd => hd
    have hto := (CoreTo.refl c x).evict hfind hwb hpend false
    rw [hto.core]
    refine ⟨Core.gives_find hfind, rfl, ?_⟩
    rw [hto.mesh, List.nil_append, putsOf, List.map_map]
    rfl
  · intro hx h hdirty
    obtain ⟨e, hto, hput⟩ := hcore hx (by decide) h
    refine RunsTo.of_fuseless (·.put32 src (uCore x) 0x1044 (maintWord 1 pos)) rfl ?_ fun _ _ hd => hd
    rw [show s.chip.put32 _ _ _ _ = _ from hput]
    exact hto.l2Maint_clean (hone h) hdirty
  · intro hx h
    obtain ⟨e, hto, hput⟩ := hcore hx (by decide) h
    refine RunsTo.of_fuseless (·.put32 src (uCore x) 0x1044 (maintWord 2 pos)) rfl ?_ fun _ _ hd => hd
    rw [show s.chip.put32 _ _ _ _ = _ from hput]
    exact hto.l2Maint_inval (hone h) (by decide)
  · intro hx h
    obtain ⟨e, hto, hput⟩ := hcore hx (by decide) h
    refine RunsTo.of_fuseless (·.put32 src (uCore x) 0x1044 (maintWord 3 pos)) rfl ?_ fun _ _ hd => hd
    rw [show s.chip.put32 _ _ _ _ = _ from hput]
    exact hto.l2Maint_inval (hone h) (by decide)
  · intro hi h hdirty
    obtain ⟨e, -, -, hput, ws, ms, hto⟩ := hslice hi (by decide) h
    refine RunsTo.of_fuseless (·.put32 src (uSlice i) 0x1080 (maintWord 1 pos)) rfl ?_ fun _ _ hd => hd
    rw [show s.chip.put32 _ _ _ _ = _ from hput]
    exact ⟨congrArg (·.maint) hto.home, hto.home ▸ Sparse.find_put_self _ _ _⟩
  · intro hi h
    obtain ⟨-, -, -, hkeys, hheld, hpen⟩ := id h
    obtain ⟨e, hmcs, hhome, hput, ws, ms, hto⟩ := hslice hi (by decide) h
    refine RunsTo.of_fuseless (·.put32 src (uSlice i) 0x1080 (maintWord 2 pos)) rfl ?_ fun _ _ hd => hd
    rw [show s.chip.put32 _ _ _ _ = _ from hput]
    refine ⟨congrArg (·.maint) hto.home, hto.home ▸ hgone, (Chip.l3MaintStart_inval_mcs (k := k) (o := o) ?_ ?_ hpen).trans hmcs⟩
    · rw [hhome]; exact hkeys
    · rw [hhome]; exact hheld
  · intro hi h
    obtain ⟨e, -, -, hput, ws, ms, hto⟩ := hslice hi (by decide) h
    refine RunsTo.of_fuseless (·.put32 src (uSlice i) 0x1080 (maintWord 3 pos)) rfl ?_ fun _ _ hd => hd
    rw [show s.chip.put32 _ _ _ _ = _ from hput]
    exact ⟨congrArg (·.maint) hto.home, hto.home ▸ hgone⟩
  · intro hx hmaint hkeys
    exact RunsTo.of_fuseless (·.maintDone (uCore x)) rfl (Chip.maintDone_core hx hmaint hkeys) fun _ _ hd => hd
  · intro hi
    refine RunsTo.of_fuseless (·.maintDone (uSlice i)) rfl ?_ fun _ _ hd => hd
    rw [Chip.maintDone_slice hi, Chip.modHome_self]
    exact ⟨rfl, rfl⟩
  · intro hi htakes hpens hst hspill hblocked
    refine RunsTo.of_fuseless (·.put32 src (uSlice i) 0x1100 1) rfl ?_ fun _ _ hd => hd
    obtain ⟨j, old, hput⟩ := Chip.put32_stored (n := 1) htakes
    rw [show s.chip.put32 _ _ _ _ = _ from hput, show (BitVec.ofNat 32 1) = 1 from rfl, Chip.regEffect_drain hi]
    exact Chip.startDrain_one (c := c.withCtl j) hpens hst hspill hblocked

end Sys2Proof.Machine
end

section
/-! Retries and spare wires of the mesh links, and the (4, 0) edge link that is retired (R211, R221, R434). -/

namespace Sys2Proof.Machine

variable {b c d : Chip} {l : LinkId}

/-- The state of the links, the messages in flight and the routes stay. -/
structure KeepsLinks (c d : Chip) : Prop where
  links : d.links = c.links
  mesh : d.mesh = c.mesh
  standby : d.standby = c.standby

theorem KeepsLinks.trans (h : KeepsLinks b c) (g : KeepsLinks c d) : KeepsLinks b d :=
  ⟨g.links.trans h.links, g.mesh.trans h.mesh, g.standby.trans h.standby⟩

theorem KeepsLinks.link (h : KeepsLinks c d) (l : LinkId) : d.link l = c.link l := by
  rw [Chip.link, h.links, Chip.link]

theorem Chip.logErr_keepsLinks (c : Chip) (u : Nat) {e : ErrInfo} (he : e.cls ≠ .fatal) : KeepsLinks c (c.logErr u e) := by
  have honly := c.logErr_onlyRecords u he
  have hlinks := congrArg Chip.links honly
  have hmesh := congrArg Chip.mesh honly
  have hstandby := congrArg Chip.standby honly
  exact ⟨hlinks, hmesh, hstandby⟩

/-- So does one corrected record for each of several wires. -/
theorem Chip.logWires_keepsLinks (u st : Nat) (ws : List Nat) (c : Chip) :
    KeepsLinks c (ws.foldl (fun (d : Chip) w => d.logErr u { cls := .corrected, struct := st, indexA := w }) c) :=
  List.foldlRecOn (motive := KeepsLinks c) ws _ ⟨rfl, rfl, rfl⟩ fun d h _ _ =>
    h.trans (d.logErr_keepsLinks u (show ErrClass.corrected ≠ .fatal by decide))

/-! One link changed. -/

@[simp] theorem Chip.link_modLink_self (c : Chip) (l : LinkId) (f : LinkSt → LinkSt) : (c.modLink l f).link l = f (c.link l) :=
  Sparse.at_upd_self _ _ _ _

/-- A link once it has been found to fail beyond its spares, at the edge link of (4, 0). -/
def Chip.retireLink (c : Chip) (l : LinkId) : Chip :=
  (c.modLink l fun y => { y with retries := [], pause := c.mtime.toNat + 200 }).modLink l fun y => { y with retiring := true }

theorem Chip.retireLink_link (c : Chip) (l : LinkId) :
    (c.retireLink l).link l = { c.link l with retries := [], pause := c.mtime.toNat + 200, retiring := true } := by
  simp [Chip.retireLink]

theorem Chip.retireLink_edge40Clear (c : Chip) (l : LinkId) : (c.retireLink l).edge40Clear = c.edge40Clear := rfl

/-! The edge link out of use (R211). -/

/-- A table with a function applied to every record. -/
theorem Sparse.find_mapRecords {α : Type} (f : α → α) (m : Sparse α) (n : Nat) :
    Sparse.find (m.map fun (e : Nat × α) => (e.1, f e.2)) n = (Sparse.find m n).map f := by
  induction m with
  | nil => rfl
  | cons e t ih =>
    obtain ⟨k, v⟩ := e
    by_cases hk : n = k <;> simp [Sparse.find, hk, ← ih]

/-- A link that is retiring has a record of its own. -/
theorem Chip.find_of_retiring (h : (c.link l).retiring = true) : Sparse.find c.links (linkKey l) = some (c.link l) := by
  unfold Chip.link Sparse.at at h ⊢
  cases hfind : Sparse.find c.links (linkKey l) with
  | none => rw [hfind] at h; cases h
  | some x => rfl

theorem Chip.edgeRetired_held (h : c.edge40Clear = false) : c.edgeRetired = c := by
  simp [Chip.edgeRetired, h]

/-- A retiring link goes out of use once the stop is clear, and the standby routes are taken. -/
theorem Chip.edgeRetired_clear (h : (c.link l).retiring = true) (hclear : c.edge40Clear = true) :
    c.edgeRetired.link l = { c.link l with retiring := false, down := true } ∧ c.edgeRetired.standby = true := by
  have hfind := Chip.find_of_retiring h
  have hany : (c.links.any fun e => e.2.retiring) = true := List.any_eq_true.mpr ⟨_, Sparse.mem_of_find hfind, h⟩
  rw [Chip.edgeRetired, hany, hclear, Bool.and_self, if_pos rfl]
  refine ⟨?_, rfl⟩
  have hmap := Sparse.find_mapRecords (fun x : LinkSt => if x.retiring then { x with retiring := false, down := true } else x)
    c.links (linkKey l)
  rw [hfind, Option.map_some, if_pos h] at hmap
  exact congrArg (·.getD {}) hmap

/-! The two commands. -/

/-- A link that works and retries counts it, and keeps the messages. -/
theorem Chip.linkRetry_counts (hup : (c.link l).down = false) :
    KeepsLinks (c.modLink l fun x => { x with retries := c.recentRetries l ++ [c.mtime.toNat] }) (c.linkRetry l) := by
  have hdelay (d : Chip) : KeepsLinks d (d.delayLink l) := ⟨rfl, rfl, rfl⟩
  simp only [Chip.linkRetry, hup, Bool.false_eq_true, if_false]
  exact (hdelay _).trans (Chip.logErr_keepsLinks _ _ (show ErrClass.corrected ≠ .fatal by decide))

section sparing
variable {ws : List Nat} (hup : (c.link l).down = false) (hused : (c.link l).retiring = false) (hmany : 16 ≤ (c.recentRetries l).length)
include hup hused hmany

/-- Nothing holds wire sparing off. -/
theorem Chip.sparing_due : ¬ ((c.recentRetries l).length < 16 ∨ (c.link l).down ∨ (c.link l).retiring) := by
  simp [hup, hused, hmany]

/-- A link that retried often enough, with spares left for its failing wires. -/
theorem Chip.wireSparing_spares (hleft : (c.link l).spared + ws.length ≤ 2) :
    KeepsLinks ((c.modLink l fun y => { y with retries := [], pause := c.mtime.toNat + 200 }).modLink l fun y =>
      { y with spared := y.spared + ws.length }) (c.wireSparing l ws) := by
  rw [Chip.wireSparing, if_neg (Chip.sparing_due hup hused hmany), if_pos hleft]
  exact Chip.logWires_keepsLinks _ _ _ _

/-- The edge link of (4, 0), with more failing wires than spares. -/
theorem Chip.wireSparing_edge (hleft : 2 < (c.link l).spared + ws.length) (hedge : linkEdge40 l = true) :
    KeepsLinks (c.retireLink l).edgeRetired (c.wireSparing l ws) := by
  rw [Chip.wireSparing, if_neg (Chip.sparing_due hup hused hmany), if_neg (Nat.not_le.mpr hleft), if_pos hedge]
  exact Chip.logErr_keepsLinks _ _ (show ErrClass.corrected ≠ .fatal by decide)

end sparing

/-! The statement. -/

/-- Settles O30: the retry, then the spare wires, the edge link out of use, and the edge link that waits for what is in flight. -/
theorem linksRetryAndSpareWires : Obligations.LinksRetryAndSpareWires := by
  intro s l ws c hup
  refine ⟨?_, fun hused hmany => ⟨fun hleft => ?_, fun hleft hedge hclear => ?_, fun hleft hedge hbusy => ?_⟩⟩
  · have hkeeps := Chip.linkRetry_counts hup
    refine RunsTo.of_fuseless (·.linkRetry l) rfl ?_ fun _ _ hd => hd
    exact ⟨(hkeeps.link l).trans (Chip.link_modLink_self _ _ _), hkeeps.mesh, hkeeps.standby⟩
  · have hkeeps := Chip.wireSparing_spares hup hused hmany hleft
    refine RunsTo.of_fuseless (·.wireSparing l ws) rfl ?_ fun _ _ hd => hd
    exact ⟨(hkeeps.link l).trans (by simp), hkeeps.standby⟩
  · have hkeeps := Chip.wireSparing_edge hup hused hmany hleft hedge
    have hretiring : ((c.retireLink l).link l).retiring = true := by rw [Chip.retireLink_link]
    obtain ⟨hlink, hstandby⟩ := Chip.edgeRetired_clear hretiring ((c.retireLink_edge40Clear l).trans hclear)
    refine RunsTo.of_fuseless (·.wireSparing l ws) rfl ?_ fun _ _ hd => hd
    exact ⟨congrArg (·.down) ((hkeeps.link l).trans hlink), hkeeps.standby.trans hstandby⟩
  · have hkeeps := Chip.wireSparing_edge hup hused hmany hleft hedge
    rw [Chip.edgeRetired_held ((c.retireLink_edge40Clear l).trans hbusy)] at hkeeps
    have hlink := (hkeeps.link l).trans (c.retireLink_link l)
    refine RunsTo.of_fuseless (·.wireSparing l ws) rfl ?_ fun _ _ hd => hd
    exact ⟨congrArg (·.retiring) hlink, (congrArg (·.down) hlink).trans hup, hkeeps.standby⟩

end Sys2Proof.Machine
end

section
/-! The spare of a channel and the start of a copy (R250, R252, R255, R258): what accepted writes of a controller's spare registers and
a trigger leave. -/

namespace Sys2Proof.Machine

variable {c d : Chip} {u b o n rank : Nat}

/-! Fields of registers. -/

theorem regKey_off_injective {p : Nat} (h : regKey u b o = regKey u b p) : o = p := Nat.add_left_cancel h

theorem Chip.regFld_of_ctl (h : d.ctl = c.ctl) (u b o hi lo : Nat) : d.regFld u b o hi lo = c.regFld u b o hi lo := by
  rw [Chip.regFld, Chip.reg_of_ctl h, Chip.regFld]

theorem Chip.regFld_setReg_self (c : Chip) (u b o : Nat) (w : Word) (hi lo : Nat) :
    (c.setReg u b o w).regFld u b o hi lo = fld w hi lo := by
  rw [Chip.regFld, Chip.reg_setReg_self]

/-- A write of a register leaves the fields of the block's other registers alone. -/
theorem Chip.regFld_setReg_ne {p : Nat} (h : o ≠ p) (c : Chip) (w : Word) (hi lo : Nat) :
    (c.setReg u b p w).regFld u b o hi lo = c.regFld u b o hi lo := by
  rw [Chip.regFld, Chip.reg_setReg_ne (fun e => h (regKey_off_injective e)), Chip.regFld]

theorem Chip.regFld_setRegFld_self {hi : Nat} (h : hi < 32) (c : Chip) (lo v : Nat) :
    (c.setRegFld u b o hi lo v).regFld u b o hi lo = v % 2 ^ (hi + 1 - lo) := by
  rw [Chip.setRegFld, Chip.regFld_setReg_self, fld_setFld_self _ _ _ _ h]

/-- A write of a field leaves the register's other fields alone. -/
theorem Chip.regFld_setRegFld_apart {hi lo y x : Nat} (h : hi < 32) (hd : hi < x ∨ y < lo) (c : Chip) (v : Nat) :
    (c.setRegFld u b o y x v).regFld u b o hi lo = c.regFld u b o hi lo := by
  rw [Chip.setRegFld, Chip.regFld_setReg_self, fld_setFld_ne _ _ _ _ _ _ h hd, Chip.regFld]

/-- A writable field takes the bits written, any other but those set or cleared by 1s keeps its own (R52). -/
theorem RegDef.fld_merge {r : RegDef} (h : FieldsApart r.fields) {f : Fld} (hf : f ∈ r.fields) (hs : f.acc ≠ .w1s) (hc : f.acc ≠ .w1c)
    (old v : Word) : fld (r.merge old v) f.hi f.lo = fld (if f.acc = .rw then v else old) f.hi f.lo := by
  refine Nat.eq_of_testBit_eq fun i => ?_
  rw [fld_testBit, fld_testBit]
  by_cases hi : i < f.hi + 1 - f.lo
  · rw [RegDef.merge_getLsbD h hf (by omega) (by omega)]
    cases hacc : f.acc <;> simp_all
  · simp [hi]

/-! A device with an error logged. -/

theorem Chip.mc_of_mcs (h : d.mcs = c.mcs) (n : Nat) : d.mc n = c.mc n := by
  rw [Chip.mc, h, Chip.mc]

theorem Chip.logErr_mcs (c : Chip) (u : Nat) {e : ErrInfo} (h : e.cls ≠ .fatal) : (c.logErr u e).mcs = c.mcs := by
  have hmcs := congrArg Chip.mcs (c.logErr_onlyRecords u h)
  exact hmcs

theorem Chip.logErr_ctl (c : Chip) (u : Nat) {e : ErrInfo} (h : e.cls ≠ .fatal) : (c.logErr u e).ctl = c.ctl :=
  (c.logErr_keepsMesh u h).ctl

/-! The spare registers of a controller (R258). -/

/-- The fields of MC_SPARE_CFG: SPARE, EN. -/
def spareCfgFields : List Fld :=
  [{ hi := 2, lo := 0, acc := .rw }, { hi := 3, lo := 3, acc := .rw, en := true }, { hi := 31, lo := 4, acc := .rsv }]

/-- The fields of MC_SPARE_CTL: STATE, SOURCE, CAUSE, the rank to force, FORCE. -/
def spareCtlFields : List Fld :=
  [{ hi := 1, lo := 0, acc := .ro }, { hi := 3, lo := 2, acc := .rsv }, { hi := 6, lo := 4, acc := .ro }, { hi := 7, lo := 7, acc := .rsv },
    { hi := 10, lo := 8, acc := .ro }, { hi := 15, lo := 11, acc := .rsv }, { hi := 18, lo := 16, acc := .rw },
    { hi := 19, lo := 19, acc := .wo }, { hi := 31, lo := 20, acc := .rsv }]

theorem spareCfgFields_apart : FieldsApart spareCfgFields := by unfold FieldsApart; decide

theorem spareCtlFields_apart : FieldsApart spareCtlFields := by unfold FieldsApart; decide

theorem spareCfg_fields {r : RegDef} (hn : n < 12) (h : regAt (kindOf (uMc n)) 0x1044 = some r) : r.fields = spareCfgFields := by
  rw [kindOf_uMc hn] at h
  cases h
  rfl

theorem spareCtl_fields {r : RegDef} (hn : n < 12) (h : regAt (kindOf (uMc n)) 0x1048 = some r) : r.fields = spareCtlFields := by
  rw [kindOf_uMc hn] at h
  cases h
  rfl

/-- A controller's registers lie in bank 0 of its block, none of their bits elsewhere. -/
theorem Chip.regStore_uMc {src : Src} {r : RegDef} {v : Word} (hn : n < 12) (ho : o ≠ 0x1020)
    (hbits : r.bits (fun f => decide (f.acc = .rw) || decide (f.acc = .w1s) || decide (f.acc = .w1c)) ≠ 0) :
    c.regStore src (uMc n) o r v =
      (c.setReg (uMc n) 0 o (r.merge (c.reg (uMc n) 0 o) v)).clearFault (uMc n) 0 o := by
  have hbank : c.bankOf (uMc n) o = 0 := by rw [Chip.bankOf, kindOf_uMc hn]
  have hft : ftAdmin (uMc n) o = false := by
    have hu : uMc n ≠ uFlow := by unfold uMc uFlow; omega
    simp [ftAdmin, hu]
  have hkept : keptElsewhere (uMc n) o = 0 := by simp [keptElsewhere, ringEnOff, kindOf_uMc hn, ho]
  rw [Chip.regStore_own hft hkept hbits, hbank]

theorem Chip.regEffect_spareCfg (hn : n < 12) (c : Chip) (src : Src) (v old : Word) :
    c.regEffect src (uMc n) 0x1044 v old = c.spareSet n := by
  have hu : uMc n - 5 = n := Nat.add_sub_cancel_left 5 n
  unfold Chip.regEffect
  extract_lets rises sw
  simp [kindOf_uMc hn, hu]

theorem Chip.regEffect_force (hn : n < 12) {v : Word} (hv : v.getLsbD 19 = true) (c : Chip) (src : Src) (old : Word) :
    c.regEffect src (uMc n) 0x1048 v old = c.retireRank n (fld v 18 16) .software := by
  have hu : uMc n - 5 = n := Nat.add_sub_cancel_left 5 n
  unfold Chip.regEffect
  extract_lets rises sw
  simp [kindOf_uMc hn, hu, hv]

/-! A spare set or removed (R258). -/

theorem spare_not_mem_logicalRanks (type trained spare retired : Nat) :
    spare ∉ logicalRanks type trained (some spare) retired := by
  unfold logicalRanks
  extract_lets up
  have hdown : up spare = false := by simp [up]
  split
  · simp only [List.mem_filterMap, Option.ite_none_right_eq_some, Option.some.injEq, not_exists, not_and]
    rintro k - hup rfl
    simp [hdown] at hup
  · simp [hdown]

theorem Chip.spareSet_sets (c : Chip) (n : Nat) :
    (c.spareSet n).spareRank n = c.spareRank n ∧ (c.spareSet n).spareState n = c.regFld (uMc n) 0 0x1044 3 3 ∧
      (c.regFld (uMc n) 0 0x1044 3 3 = 1 → c.spareRank n ∉ ((c.spareSet n).mc n).logical) := by
  have hon : c.regFld (uMc n) 0 0x1044 3 3 < 2 := fld_lt _ 3 3
  have hrank (v : Nat) : (c.setRegFld (uMc n) 0 0x1048 1 0 v).spareRank n = c.spareRank n :=
    Chip.regFld_setReg_ne (by decide) _ _ _ _
  refine ⟨hrank _, ?_, fun h => ?_⟩
  · refine (Chip.regFld_setRegFld_self (by decide) _ _ _).trans ?_
    generalize c.regFld (uMc n) 0 0x1044 3 3 = x at hon
    interval_cases x <;> rfl
  · rw [Chip.spareSet, Chip.modMc_self]
    simp only [h, decide_true, if_true, hrank]
    exact spare_not_mem_logicalRanks _ _ _ _

/-- An accepted write of MC_SPARE_CFG is stored before it has its effect. -/
theorem Chip.put32_spareCfg {src : Src} {v : Word} (hn : n < 12) (h : c.takes src (uMc n) 0x1044 v = true) :
    ∃ d : Chip, c.put32 src (uMc n) 0x1044 v.toNat = d.spareSet n ∧ d.spareRank n = fld v 2 0 ∧
      d.regFld (uMc n) 0 0x1044 3 3 = fld v 3 3 := by
  have hv : BitVec.ofNat 32 v.toNat = v := BitVec.ofNat_toNat 32 v
  obtain ⟨r, hr, hput⟩ := Chip.takes_put32 (n := v.toNat) (by rwa [hv])
  have hfields := spareCfg_fields hn hr
  have hapart : FieldsApart r.fields := hfields ▸ spareCfgFields_apart
  rw [hv, Chip.regEffect_spareCfg hn, Chip.regStore_uMc hn (by decide) (by rw [RegDef.bits, hfields]; decide)] at hput
  have hmerge {f : Fld} (hf : f ∈ spareCfgFields) (hacc : f.acc = .rw) :
      fld (r.merge (c.reg (uMc n) 0 0x1044) v) f.hi f.lo = fld v f.hi f.lo := by
    rw [RegDef.fld_merge hapart (hfields ▸ hf) (by simp [hacc]) (by simp [hacc]), if_pos hacc]
  refine ⟨_, hput, ?_, ?_⟩
  · exact (Chip.regFld_setReg_self _ _ _ _ _ _ _).trans (hmerge (f := { hi := 2, lo := 0, acc := .rw }) (by decide) rfl)
  · exact (Chip.regFld_setReg_self _ _ _ _ _ _ _).trans (hmerge (f := { hi := 3, lo := 3, acc := .rw, en := true }) (by decide) rfl)

theorem Chip.put32_spareCfg_sets {src : Src} {v : Word} (hn : n < 12) (h : c.takes src (uMc n) 0x1044 v = true) :
    (c.put32 src (uMc n) 0x1044 v.toNat).spareRank n = fld v 2 0 ∧ (c.put32 src (uMc n) 0x1044 v.toNat).spareState n = fld v 3 3 ∧
      (fld v 3 3 = 1 → fld v 2 0 ∉ ((c.put32 src (uMc n) 0x1044 v.toNat).mc n).logical) := by
  obtain ⟨d, hput, hspare, hon⟩ := Chip.put32_spareCfg hn h
  rw [hput, ← hspare, ← hon]
  exact d.spareSet_sets n

/-! The copy begins (R250, R252). -/

/-- From `c` to `d` channel `n` has begun to copy rank `rank` from its first line. -/
structure Chip.CopyBegins (c d : Chip) (n rank : Nat) : Prop where
  state : d.spareState n = 2
  source : d.spareSource n = rank
  cp : (d.mc n).cp = 0
  logical : (d.mc n).logical = (c.mc n).logical

/-- MC_SPARE_CTL as the copy begins. -/
def copyWord (w : Word) (rank : Nat) (cause : RetCause) : Word := setFld (setFld (setFld w 1 0 2) 6 4 rank) 10 8 (retCauseCode cause)

theorem copyWord_state (w : Word) (rank : Nat) (cause : RetCause) : fld (copyWord w rank cause) 1 0 = 2 := by
  rw [copyWord, fld_setFld_ne _ _ _ _ _ _ (by decide) (by decide), fld_setFld_ne _ _ _ _ _ _ (by decide) (by decide),
    fld_setFld_self _ _ _ _ (by decide)]
  rfl

theorem copyWord_source (w : Word) (hr : rank < 8) (cause : RetCause) : fld (copyWord w rank cause) 6 4 = rank := by
  rw [copyWord, fld_setFld_ne _ _ _ _ _ _ (by decide) (by decide), fld_setFld_self _ _ _ _ (by decide)]
  exact Nat.mod_eq_of_lt hr

/-- A controller whose copy is at its first line. -/
def Mc.copyStart (m : Mc) : Mc := { m with cp := 0, poisoned := 0, trig := [] }

theorem Chip.retireRank_eq (hready : c.spareState n = 1) (hact : rank ∈ c.activeRanks n) (cause : RetCause) :
    ∃ d : Chip, c.retireRank n rank cause = d.logErr (uMc n) { cls := .corrected, struct := 0x0F, indexB := rank } ∧
      d.ctl = (c.setReg (uMc n) 0 0x1048 (copyWord (c.reg (uMc n) 0 0x1048) rank cause)).ctl ∧
      d.mcs = (c.modMc n Mc.copyStart).mcs := by
  rw [Chip.retireRank, if_pos ⟨hready, hact⟩]
  exact ⟨_, rfl, rfl, rfl⟩

theorem Chip.retireRank_begins (hready : c.spareState n = 1) (hact : rank ∈ c.activeRanks n) (hr : rank < 8) (cause : RetCause) :
    c.CopyBegins (c.retireRank n rank cause) n rank := by
  obtain ⟨d, hd, hctl, hmcs⟩ := Chip.retireRank_eq hready hact cause
  have hcls : ErrClass.corrected ≠ .fatal := by decide
  have hfld (hi lo : Nat) : (c.retireRank n rank cause).regFld (uMc n) 0 0x1048 hi lo =
      fld (copyWord (c.reg (uMc n) 0 0x1048) rank cause) hi lo := by
    rw [hd, Chip.regFld_of_ctl ((Chip.logErr_ctl d (uMc n) hcls).trans hctl), Chip.regFld_setReg_self]
  have hmc : (c.retireRank n rank cause).mc n = (c.mc n).copyStart := by
    rw [hd, Chip.mc_of_mcs ((Chip.logErr_mcs d (uMc n) hcls).trans hmcs), Chip.modMc_self]
  exact ⟨(hfld 1 0).trans (copyWord_state _ _ _), (hfld 6 4).trans (copyWord_source _ hr _), by rw [hmc]; rfl, by rw [hmc]; rfl⟩

/-- The trigger on the lowest rank of those that are due begins it. -/
theorem Chip.rankRetirement_due {cause : RetCause} (hdue : (rank, cause) ∈ (c.mc n).trig) (hlow : ∀ t ∈ (c.mc n).trig, rank ≤ t.1) :
    c.rankRetirement n rank cause = c.retireRank n rank cause := by
  have hall : ((c.mc n).trig.all fun t => decide (rank ≤ t.1)) = true := by simpa using hlow
  rw [Chip.rankRetirement, List.contains_iff_mem.mpr hdue, hall]
  rfl

/-- The word that FORCE is written with. -/
def forceWord (rank : Nat) : Nat := rank * 2 ^ 16 + 2 ^ 19

theorem forceWord_force (hr : rank < 8) : (BitVec.ofNat 32 (forceWord rank)).getLsbD 19 = true := by
  interval_cases rank <;> rfl

theorem fld_forceWord (hr : rank < 8) : fld (BitVec.ofNat 32 (forceWord rank)) 18 16 = rank := by
  interval_cases rank <;> rfl

/-- An accepted write passes the last two checks of R514. -/
theorem Chip.regCheck_none {src : Src} {r : RegDef} {v : Word} (h : c.regCheck src u o r v = none) :
    c.busyFor src u o v (c.view src u o) = false ∧ c.badFor src u o v (c.view src u o) = false := by
  unfold Chip.regCheck at h
  extract_lets old at h
  have hbusy : ¬ c.busyFor src u o v old = true := fun hb => by
    rw [if_pos hb] at h
    split_ifs at h
  have hbad : ¬ c.badFor src u o v old = true := fun hb => by
    rw [hb, Bool.or_true, if_pos rfl] at h
    split_ifs at h
  exact ⟨Bool.eq_false_of_not_eq_true hbusy, Bool.eq_false_of_not_eq_true hbad⟩

/-- FORCE is accepted in READY alone, for an active rank. -/
theorem Chip.force_ready {src : Src} {r : RegDef} {v : Word} (hn : n < 12) (hforce : v.getLsbD 19 = true)
    (h : c.regCheck src (uMc n) 0x1048 r v = none) : c.spareState n = 1 ∧ fld v 18 16 ∈ c.activeRanks n := by
  have hu : uMc n - 5 = n := Nat.add_sub_cancel_left 5 n
  obtain ⟨hbusy, hbad⟩ := Chip.regCheck_none h
  constructor
  · simpa [Chip.busyFor, kindOf_uMc hn, hu, hforce] using hbusy
  · simpa [Chip.badFor, kindOf_uMc hn, hu, hforce] using hbad

/-- Storing MC_SPARE_CTL keeps its state, and the ranks in service with it. -/
theorem Chip.regStore_spareCtl {src : Src} {r : RegDef} (hn : n < 12) (hr : regAt (kindOf (uMc n)) 0x1048 = some r) (v : Word) :
    (c.regStore src (uMc n) 0x1048 r v).spareState n = c.spareState n ∧
      (c.regStore src (uMc n) 0x1048 r v).activeRanks n = c.activeRanks n ∧
      (c.regStore src (uMc n) 0x1048 r v).mcs = c.mcs := by
  have hfields := spareCtl_fields hn hr
  have hapart : FieldsApart r.fields := hfields ▸ spareCtlFields_apart
  rw [Chip.regStore_uMc hn (by decide) (by rw [RegDef.bits, hfields]; decide)]
  refine ⟨?_, ?_, rfl⟩
  · have hkept := RegDef.fld_merge hapart (f := { hi := 1, lo := 0, acc := .ro }) (hfields ▸ by decide) (by decide) (by decide)
      (c.reg (uMc n) 0 0x1048) v
    exact (Chip.regFld_setReg_self _ _ _ _ _ _ _).trans hkept
  · have htype (w : Word) : (c.setReg (uMc n) 0 0x1048 w).mrdimm n = c.mrdimm n := by
      rw [Chip.mrdimm, Chip.regFld_setReg_ne (by decide), Chip.mrdimm]
    exact if_congr (Bool.coe_iff_coe.mpr (htype _)) rfl rfl

/-- An accepted FORCE begins the copy. -/
theorem Chip.put32_force {src : Src} (hn : n < 12) (hr : rank < 8)
    (h : c.takes src (uMc n) 0x1048 (BitVec.ofNat 32 (forceWord rank)) = true) :
    c.CopyBegins (c.put32 src (uMc n) 0x1048 (forceWord rank)) n rank := by
  obtain ⟨r, hreg, hput⟩ := Chip.takes_put32 h
  have hcheck : c.regCheck src (uMc n) 0x1048 r (BitVec.ofNat 32 (forceWord rank)) = none := by
    rw [Chip.takes, hreg] at h
    simp only [Bool.and_eq_true, Option.isNone_iff_eq_none] at h
    exact h.2.2
  obtain ⟨hready, hact⟩ := Chip.force_ready hn (forceWord_force hr) hcheck
  obtain ⟨hstate, hranks, hmcs⟩ := Chip.regStore_spareCtl (c := c) (src := src) hn hreg (BitVec.ofNat 32 (forceWord rank))
  rw [fld_forceWord hr] at hact
  rw [hput, Chip.regEffect_force hn (forceWord_force hr), fld_forceWord hr]
  obtain ⟨hs, hsrc, hcp, hlog⟩ := Chip.retireRank_begins (hstate.trans hready) (hranks ▸ hact) hr .software
  exact ⟨hs, hsrc, hcp, hlog.trans (by rw [Chip.mc_of_mcs hmcs])⟩

end Sys2Proof.Machine
end

section
/-! Accesses of DRAM (R226, R237, R238, R246-R248): what an ACT leaves of its controller, and with it a read of a line without errors, a
read that is served, a patrol read, a drain of a write buffer and a CA parity alert. -/

namespace Sys2Proof.Machine

variable {c d : Chip} {n : Nat}

/-! Lines of memory (R226, R228). -/

theorem leNat_leBytes (x n : Nat) : leNat (leBytes x n) = x % 256 ^ n := by
  induction n generalizing x with
  | zero => rw [Nat.pow_zero, Nat.mod_one]; rfl
  | succ n ih =>
    rw [leBytes, leNat, ih, BitVec.toNat_ofNat, Nat.pow_succ' (m := 256), Nat.mod_mul (a := 256)]

theorem lineOf_lineBytes (x : Line) : lineOf (lineBytes x) = x := by
  have hlt : x.toNat < 256 ^ 64 := by
    rw [show 256 = 2 ^ 8 from rfl, ← Nat.pow_mul, show 8 * 64 = 512 from rfl]
    exact x.isLt
  rw [lineOf, lineBytes, leNat_leBytes, Nat.mod_eq_of_lt hlt, BitVec.ofNat_toNat, BitVec.setWidth_eq]

/-- Bytes apart from those written read as before. -/
theorem Memory.read_write_apart {m : Memory} (h : m.wf = true) {a x k : Nat} (bs : List Byte) (hx : x + k ≤ a ∨ a + bs.length ≤ x) :
    (m.write a bs).read x k = m.read x k := by
  induction k generalizing x with
  | zero => rfl
  | succ k ih => rw [Memory.read, Memory.get_write_outside h bs (by omega), ih (by omega), Memory.read]

theorem NatSet.mem_insert_iff {m : NatSet} {k j : Nat} : j ∈ NatSet.insert m k ↔ j = k ∨ j ∈ m := by
  induction m with
  | nil => simp [NatSet.insert]
  | cons i t ih =>
    unfold NatSet.insert
    split_ifs with h1 h2
    · simp
    · simp [h2]
    · simp only [List.mem_cons, ih]
      tauto

theorem NatSet.mem_erase_iff {m : NatSet} {k j : Nat} : j ∈ NatSet.erase m k ↔ j ≠ k ∧ j ∈ m := by
  simp [NatSet.erase, and_comm]

/-- A line reads as it was stored. -/
theorem Chip.rawLine_storeLine_self (h : c.mem.wf = true) (key : Nat) (x : Line) (p : Bool) :
    (c.storeLine key x p).rawLine key = (x, p) := by
  have hmem : (c.mem.write key (lineBytes x)).read key 64 = lineBytes x := by
    have hread := Memory.read_write h key (lineBytes x)
    rwa [lineBytes, leBytes_length] at hread
  have hpoison : (if p then NatSet.insert c.poison key else NatSet.erase c.poison key).contains key = p := by
    cases p with
    | true => simpa using NatSet.mem_insert c.poison key
    | false => simp [NatSet.mem_erase_iff]
  rw [Chip.storeLine, Chip.rawLine]
  simp only [hmem, lineOf_lineBytes, hpoison]

/-- A line apart from the one stored reads as before. -/
theorem Chip.rawLine_storeLine_apart (h : c.mem.wf = true) {key k : Nat} (hk : k + 64 ≤ key ∨ key + 64 ≤ k) (x : Line) (p : Bool) :
    (c.storeLine key x p).rawLine k = c.rawLine k := by
  have hmem : (c.mem.write key (lineBytes x)).read k 64 = c.mem.read k 64 :=
    Memory.read_write_apart h _ (by rw [lineBytes, leBytes_length]; exact hk)
  have hpoison : (if p then NatSet.insert c.poison key else NatSet.erase c.poison key).contains k = c.poison.contains k := by
    have hne : k ≠ key := by omega
    rw [Bool.eq_iff_iff, List.contains_iff_mem, List.contains_iff_mem]
    cases p with
    | true => simp [NatSet.mem_insert_iff, hne]
    | false => simp [NatSet.mem_erase_iff, hne]
  rw [Chip.storeLine, Chip.rawLine]
  simp only [hmem, hpoison]
  rfl

theorem Chip.storeLine_mem (c : Chip) (key : Nat) (x : Line) (p : Bool) :
    (c.storeLine key x p).mem = c.mem.write key (lineBytes x) := by
  rw [Chip.storeLine]

theorem Chip.storeLine_mc (c : Chip) (key : Nat) (x : Line) (p : Bool) (k : Nat) : (c.storeLine key x p).mc k = c.mc k := by
  rw [Chip.storeLine, Chip.mc, Chip.mc]

theorem Chip.rawLine_modMc (c : Chip) (n : Nat) (f : Mc → Mc) (key : Nat) : (c.modMc n f).rawLine key = c.rawLine key := rfl

theorem Chip.storeLine_wf (h : c.mem.wf = true) (key : Nat) (x : Line) (p : Bool) : (c.storeLine key x p).mem.wf = true := by
  rw [Chip.storeLine_mem]
  exact Memory.write_wf h key (lineBytes x)

/-- Lines of ranks are apart or the same. -/
theorem memKey_apart {chan rank idx chan' rank' idx' : Nat} (h : memKey chan rank idx ≠ memKey chan' rank' idx') :
    memKey chan rank idx + 64 ≤ memKey chan' rank' idx' ∨ memKey chan' rank' idx' + 64 ≤ memKey chan rank idx := by
  unfold memKey at *
  omega

/-! One ACT (R237, R241, R242). -/

/-- A controller but for what an ACT changes: samples, DRFM, counts and the last bank. -/
def Mc.still (m : Mc) : Mc := { m with sampled := [], drfm := 0, drfmBrc := 0, acts := 0, ranks := [], lastA := 0, lastB := 0 }

/-- From `c` to `d` channel `n` has done one ACT, and nothing else has changed but free values. -/
structure Activates (c d : Chip) (n : Nat) : Prop where
  aside : { d with mcs := c.mcs, fresh := c.fresh } = c
  still : (d.mc n).still = (c.mc n).still
  acts : (d.mc n).acts = (c.mc n).acts + 1

namespace Activates

variable (h : Activates c d n)
include h

theorem fresh (k : Nat) : Activates c { d with fresh := k } n := ⟨h.aside, h.still, h.acts⟩

theorem mem : d.mem = c.mem := by have e := congrArg Chip.mem h.aside; exact e
theorem poison : d.poison = c.poison := by have e := congrArg Chip.poison h.aside; exact e
theorem errs : d.errs = c.errs := by have e := congrArg Chip.errs h.aside; exact e
theorem ctl : d.ctl = c.ctl := by have e := congrArg Chip.ctl h.aside; exact e
theorem mesh : d.mesh = c.mesh := by have e := congrArg Chip.mesh h.aside; exact e
theorem queue : (d.mc n).queue = (c.mc n).queue := by have e := congrArg Mc.queue h.still; exact e
theorem adm : (d.mc n).adm = (c.mc n).adm := by have e := congrArg Mc.adm h.still; exact e
theorem wbufB : (d.mc n).wbufB = (c.mc n).wbufB := by have e := congrArg Mc.wbufB h.still; exact e

theorem rawLine (key : Nat) : d.rawLine key = c.rawLine key := by
  rw [Chip.rawLine, h.mem, h.poison, Chip.rawLine]

end Activates

/-- Whether a sample was pending, which subchannel the bank is of and whether the ACT is sampled makes no difference. -/
theorem Chip.activate_activates (c : Chip) (n : Nat) (co : Coord) : Activates c (c.activate n co) n := by
  unfold Chip.activate
  dsimp only [Chip.pick]
  split_ifs <;> exact ⟨rfl, by simp [Mc.still, Chip.mc, Chip.modMc], by simp [Chip.mc, Chip.modMc]⟩

/-! Reads (R227, R228, R247). -/

/-- A line without errors is read with one ACT. -/
theorem Chip.readDram_clean {co : Coord} (hbad : Sparse.at (c.mc n).bad [] (memKey n co.rank co.idx) = []) (l : Nat) (by_ : ReadBy) :
    ∃ d, Activates c d n ∧ c.readDram n l co [] by_ =
      ((c.rawLine (memKey n co.rank co.idx)).1, (c.rawLine (memKey n co.rank co.idx)).2, false, d) := by
  have hact := c.activate_activates n co
  have hkept : ((c.activate n co).mc n).bad = (c.mc n).bad := by have e := congrArg Mc.bad hact.still; exact e
  have hclean (ch : Bool) : decodeBurst (Sparse.at (({ c.activate n co with fresh := (c.activate n co).fresh + 1 } : Chip).mc n).bad []
      (memKey n co.rank co.idx)) ch = .clean := by
    change decodeBurst (Sparse.at ((c.activate n co).mc n).bad [] (memKey n co.rank co.idx)) ch = .clean
    rw [hkept, hbad]
    rfl
  refine ⟨_, hact.fresh ((c.activate n co).fresh + 1), ?_⟩
  unfold Chip.readDram
  simp only [hact.rawLine, List.nil_append, hclean]

/-- Where a channel-local line is stored. -/
def Chip.lineKey (c : Chip) (n l : Nat) : Nat := memKey n (c.coord n l).rank (c.coord n l).idx

/-- A read of line `l` goes to the devices and finds no error: the channel copies no rank, and no write buffer holds the line. -/
structure Chip.ReadsClean (c : Chip) (n l : Nat) : Prop where
  state : c.spareState n ≠ 2
  unbuffered : (c.mc n).buffered (c.coord n l).rank (c.coord n l).idx = none
  good : Sparse.at (c.mc n).bad [] (c.lineKey n l) = []

theorem Chip.chanRead_clean {l : Nat} (h : c.ReadsClean n l) (by_ : ReadBy) :
    ∃ d, Activates c d n ∧ c.chanRead n l [] by_ = ((c.rawLine (c.lineKey n l)).1, (c.rawLine (c.lineKey n l)).2, d) := by
  obtain ⟨d, hact, hread⟩ := Chip.readDram_clean h.good l by_
  have hrank : c.servingRank n (c.coord n l) = (c.coord n l).rank := if_neg fun hcopy => h.state hcopy.1
  refine ⟨d, hact, ?_⟩
  unfold Chip.chanRead
  simp only [hrank, Chip.rankRead, h.unbuffered, hread, Bool.false_and, Bool.false_eq_true, if_false]
  rfl

/-! A read that is served (R236, R237). -/

theorem Chip.promote_empty (h : (c.mc n).adm = []) : c.promote n = c := by
  rw [Chip.promote, h]
  rfl

/-- The bank of a waiting read is the one picked. -/
theorem Chip.bankPick_read {sub bank : Nat} {r : McReq} (hpause : (c.mc n).pause = none) (hr : r ∈ (c.mc n).queue)
    (hbank : c.reqBank n r = (sub, bank)) : c.bankPick n sub bank = some bank := by
  have hwaits : c.bankWaits n sub bank = true := by
    have hany : ((c.mc n).queue.any fun q => decide (c.reqBank n q = (sub, bank))) = true :=
      List.any_eq_true.mpr ⟨r, hr, decide_eq_true hbank⟩
    simp [Chip.bankWaits, hpause, hany]
  rw [Chip.bankPick, hwaits, if_pos rfl]

/-- A controller without one of its waiting reads. -/
def Mc.served (m : Mc) (r : McReq) : Mc := { m with queue := m.queue.erase r }

/-- The Data that answers a read (R156, R162). -/
def readData (n : Nat) (m : Msg) (e : Line × Bool) : Msg :=
  { kind := .data, src := .mc n, dst := m.req, line := m.line, grant := m.grant, waitCmp := m.waitCmp, data := e.1, poison := e.2,
    ifetch := m.ifetch, once := m.once }

theorem Chip.serveRead_clean {r : McReq} (herrs : r.errs = []) (h : c.ReadsClean n r.loc) :
    ∃ d, Activates c d n ∧ c.serveRead n r = d.send (readData n r.msg (c.rawLine (c.lineKey n r.loc))) := by
  obtain ⟨d, hact, hread⟩ := Chip.chanRead_clean h (.demand (r.msg.line * 64))
  refine ⟨d, hact, ?_⟩
  rw [Chip.serveRead, herrs, hread]
  rfl

theorem Chip.served_coord (c : Chip) (n : Nat) (r : McReq) (l : Nat) : (c.modMc n (·.served r)).coord n l = c.coord n l := by
  unfold Chip.coord
  rw [Chip.modMc_self]
  rfl

theorem Chip.served_lineKey (c : Chip) (n : Nat) (r : McReq) (l : Nat) : (c.modMc n (·.served r)).lineKey n l = c.lineKey n l := by
  rw [Chip.lineKey, Chip.served_coord, Chip.lineKey]

theorem Chip.ReadsClean.served {l : Nat} (h : c.ReadsClean n l) (r : McReq) : (c.modMc n (·.served r)).ReadsClean n l where
  state := h.state
  unbuffered := by
    rw [Chip.served_coord, Chip.modMc_self]
    exact h.unbuffered
  good := by
    rw [Chip.served_lineKey, Chip.modMc_self]
    exact h.good

section reading
variable {sub rank bank : Nat} {r : McReq} (hpause : (c.mc n).pause = none)
  (hdrain : (if sub = 0 then (c.mc n).drainA else (c.mc n).drainB) = false)
  (hr : ((c.mc n).queue.find? fun q => decide (c.reqBank n q = (sub, 32 * rank + bank))) = some r)
include hpause hdrain hr

/-- The oldest read of its bank, outside a drain. -/
theorem Chip.bankActivate_read :
    c.bankActivate n sub rank bank = ((c.modMc n (·.served r)).serveRead n r).promote n := by
  have hbank : c.reqBank n r = (sub, 32 * rank + bank) := of_decide_eq_true (List.find?_some hr :)
  unfold Chip.bankActivate
  rw [Chip.bankPick_read hpause (List.mem_of_find?_eq_some hr) hbank]
  simp only [hr, hdrain]
  generalize (if sub = 0 then (c.mc n).wbufA else (c.mc n).wbufB).find? _ = w
  cases w <;> rfl

theorem Chip.bankActivate_eq (hadm : (c.mc n).adm = []) (herrs : r.errs = []) (h : c.ReadsClean n r.loc) :
    ∃ d, Activates (c.modMc n (·.served r)) d n ∧
      c.bankActivate n sub rank bank = d.send (readData n r.msg (c.rawLine (c.lineKey n r.loc))) := by
  obtain ⟨d, hact, hread⟩ := Chip.serveRead_clean herrs (h.served r)
  have hempty (x : Msg) : ((d.send x).mc n).adm = [] := by
    change (d.mc n).adm = []
    rw [hact.adm, Chip.modMc_self]
    exact hadm
  refine ⟨d, hact, ?_⟩
  rw [Chip.bankActivate_read hpause hdrain hr, hread, Chip.promote_empty (hempty _), Chip.served_lineKey, Chip.rawLine_modMc]

/-- A waiting read leaves its queue with its data, by one ACT. -/
theorem Chip.bankActivate_serves (hadm : (c.mc n).adm = []) (herrs : r.errs = []) (h : c.ReadsClean n r.loc) :
    let d := c.bankActivate n sub rank bank
    (d.mc n).queue = (c.mc n).queue.erase r ∧ (d.mc n).acts = (c.mc n).acts + 1 ∧ d.mem = c.mem ∧
      ∃ k, d.mesh = c.mesh ++ [{ readData n r.msg (c.rawLine (c.lineKey n r.loc)) with birth := k }] := by
  obtain ⟨d, hact, hd⟩ := Chip.bankActivate_eq hpause hdrain hr hadm herrs h
  have hqueue : (d.mc n).queue = (c.mc n).queue.erase r := by rw [hact.queue, Chip.modMc_self]; rfl
  have hacts : (d.mc n).acts = (c.mc n).acts + 1 := by rw [hact.acts, Chip.modMc_self]; rfl
  rw [hd]
  exact ⟨hqueue, hacts, hact.mem, d.mt / 32, by rw [Chip.send_mesh, hact.mesh, Chip.modMc_mesh]⟩

end reading

/-! Patrol (R248). -/

/-- The patrol reads the line that is its turn, on an active rank, and goes on to the next. -/
theorem Chip.patrolRead_moves (htrained : c.trained n = true) (hen : c.regFld (uMc n) 0 0x1054 8 8 = 1)
    (hfault : c.faulty (uMc n) 0 0x1054 = false) (hstate : c.spareState n ≠ 2)
    (hleft : (c.mc n).patrol + 1 < (c.mc n).logical.length * c.rankLines n)
    (hbad : Sparse.at (c.mc n).bad [] (c.lineKey n (c.mc n).patrol) = []) :
    ∃ d, Activates c d n ∧ c.patrolRead n [] = d.modMc n fun m => { m with patrol := (c.mc n).patrol + 1 } := by
  obtain ⟨d, hact, hread⟩ := Chip.readDram_clean hbad (c.mc n).patrol (.patrol (c.mc n).patrol)
  refine ⟨d, hact, ?_⟩
  unfold Chip.patrolRead
  rw [if_neg (by simp [htrained, hen, hfault])]
  extract_lets act total l co0 co skip c1 c2
  have hactive : l + 1 < act := hleft
  have htotal : l + 1 < total := Nat.lt_add_right _ hleft
  have hco : co = c.coord n l := if_pos (Nat.lt_of_succ_lt hactive)
  have hskip : skip = false := by simp [skip, hstate]
  have hc1 : c1 = d := by
    simp only [c1, hskip, hco]
    rw [show c.readDram n l (c.coord n l) [] (.patrol l) = _ from hread]
    rfl
  rw [if_neg (by omega), if_neg (by omega)]
  exact congrArg (fun e : Chip => e.modMc n fun m => { m with patrol := l + 1 }) hc1

/-! Drains (R238). -/

/-- A write that leaves its buffer. -/
theorem Chip.commitWr_eq (c : Chip) (n : Nat) (w : McWr) : ∃ d, Activates c d n ∧ c.commitWr n w =
    (d.storeLine (memKey n w.rank w.idx) w.data w.poison).modMc n fun m => { m with bad := Sparse.del m.bad (memKey n w.rank w.idx) } :=
  ⟨_, c.activate_activates n _, rfl⟩

theorem Chip.commitWr_wf (h : c.mem.wf = true) (n : Nat) (w : McWr) : (c.commitWr n w).mem.wf = true := by
  obtain ⟨d, hact, hd⟩ := c.commitWr_eq n w
  have hwf : d.mem.wf = true := by rwa [hact.mem]
  rw [hd, Chip.modMc_mem]
  exact Chip.storeLine_wf hwf _ _ _

theorem Chip.commitWr_wbufB (c : Chip) (n : Nat) (w : McWr) : ((c.commitWr n w).mc n).wbufB = (c.mc n).wbufB := by
  obtain ⟨d, hact, hd⟩ := c.commitWr_eq n w
  rw [hd, Chip.modMc_self, Chip.storeLine_mc]
  exact hact.wbufB

/-- The line written reads back; the others read as before. -/
theorem Chip.rawLine_commitWr (h : c.mem.wf = true) (n : Nat) (v : McWr) (rank idx : Nat) :
    (c.commitWr n v).rawLine (memKey n rank idx) =
      if memKey n v.rank v.idx = memKey n rank idx then (v.data, v.poison) else c.rawLine (memKey n rank idx) := by
  obtain ⟨d, hact, hd⟩ := c.commitWr_eq n v
  have hwf : d.mem.wf = true := by rwa [hact.mem]
  rw [hd, Chip.rawLine_modMc]
  by_cases hk : memKey n v.rank v.idx = memKey n rank idx
  · rw [if_pos hk, ← hk, Chip.rawLine_storeLine_self hwf]
  · rw [if_neg hk, Chip.rawLine_storeLine_apart hwf (memKey_apart (Ne.symm hk)), hact.rawLine]

/-- Writes in their order: a line that one of them alone is of reads as that one has it. -/
theorem Chip.rawLine_commitWrs {w : McWr} (ws : List McWr)
    (hone : ∀ v ∈ ws, memKey n v.rank v.idx = memKey n w.rank w.idx → v = w) {c : Chip} (hwf : c.mem.wf = true)
    (h : w ∈ ws ∨ c.rawLine (memKey n w.rank w.idx) = (w.data, w.poison)) :
    (ws.foldl (fun e v => e.commitWr n v) c).rawLine (memKey n w.rank w.idx) = (w.data, w.poison) := by
  induction ws generalizing c with
  | nil => exact h.resolve_left List.not_mem_nil
  | cons v ws ih =>
    refine ih (fun u hu => hone u (List.mem_cons_of_mem _ hu)) (Chip.commitWr_wf hwf n v) ?_
    rw [Chip.rawLine_commitWr hwf]
    by_cases hk : memKey n v.rank v.idx = memKey n w.rank w.idx
    · rw [if_pos hk, hone v List.mem_cons_self hk]
      exact .inr rfl
    · rw [if_neg hk]
      exact h.imp_left fun hw => (List.mem_cons.mp hw).resolve_left fun e => hk (by rw [e])

theorem Chip.commitWrs_wbufB (c : Chip) (n : Nat) (ws : List McWr) :
    ((ws.foldl (fun e v => e.commitWr n v) c).mc n).wbufB = (c.mc n).wbufB :=
  List.foldlRecOn (motive := fun e : Chip => (e.mc n).wbufB = (c.mc n).wbufB) ws _ rfl fun e h v _ => (e.commitWr_wbufB n v).trans h

/-- WRITE_DRAIN of subchannel A, once its buffer drains. -/
theorem Chip.writeDrain_A (h : (c.mc n).drainA = true) : c.writeDrain n 0 =
    (((c.mc n).wbufA.take ((c.mc n).wbufA.length - 16)).foldl (fun e v => e.commitWr n v) c).modMc n fun m =>
      { m with wbufA := (c.mc n).wbufA.drop ((c.mc n).wbufA.length - 16), drainA := false } := by
  simp only [Chip.writeDrain, h, if_true, Chip.drainBuf]

/-! CA parity alerts (R246). -/

/-- A table with a function of number and record applied throughout. -/
theorem Sparse.find_mapKeyed {α : Type} (f : Nat → α → α) (m : Sparse α) (k : Nat) :
    Sparse.find (m.map fun (e : Nat × α) => (e.1, f e.1 e.2)) k = (Sparse.find m k).map (f k) := by
  induction m with
  | nil => rfl
  | cons e t ih =>
    obtain ⟨j, v⟩ := e
    by_cases hk : k = j
    · simp [Sparse.find, hk]
    · simp [Sparse.find, hk, ← ih]

/-- The counts of rank `k` once rank `rank` has seen an alert. -/
def alertCount (rank k : Nat) (r : RankCnt) : RankCnt := { r with cap := if k = rank then r.cap + 1 else 0 }

/-- The counts of a channel's ranks once one of them has seen an alert. -/
def alertCounts (m : Sparse RankCnt) (rank : Nat) : Sparse RankCnt :=
  (Sparse.upd m {} rank fun r => r).map fun (e : Nat × RankCnt) => (e.1, alertCount rank e.1 e.2)

theorem alertCounts_self (m : Sparse RankCnt) (rank : Nat) :
    (Sparse.at (alertCounts m rank) {} rank).cap = (Sparse.at m {} rank).cap + 1 := by
  rw [alertCounts, Sparse.at, Sparse.find_mapKeyed, Sparse.upd, Sparse.find_put_self]
  simp [alertCount]

theorem alertCounts_ne (m : Sparse RankCnt) {rank q : Nat} (h : q ≠ rank) : (Sparse.at (alertCounts m rank) {} q).cap = 0 := by
  rw [alertCounts, Sparse.at, Sparse.find_mapKeyed]
  cases Sparse.find (Sparse.upd m {} rank fun r => r) q with
  | none => rfl
  | some r => simp [alertCount, h]

/-- An alert before the third in a row is logged and counted. -/
theorem Chip.caParity_eq {rank : Nat} (h : (Sparse.at (c.mc n).ranks {} rank).cap < 2) :
    c.caParity n rank = (c.logErr (uMc n) { cls := .corrected, struct := 0x10, indexB := rank }).modMc n fun m =>
      { m with ranks := alertCounts m.ranks rank } := by
  have hmc : (c.logErr (uMc n) { cls := .corrected, struct := 0x10, indexB := rank }).mc n = c.mc n :=
    Chip.mc_of_mcs (Chip.logErr_mcs c (uMc n) (show ErrClass.corrected ≠ .fatal by decide)) n
  unfold Chip.caParity
  extract_lets c1 c2
  have hcap : (Sparse.at (c2.mc n).ranks {} rank).cap < 3 := by
    rw [show c2.mc n = _ from Chip.modMc_self _ _ _, hmc]
    change (Sparse.at (alertCounts (c.mc n).ranks rank) {} rank).cap < 3
    rw [alertCounts_self]
    omega
  rw [if_pos hcap]
  rfl

theorem Chip.caParity_counts {rank : Nat} (h : (Sparse.at (c.mc n).ranks {} rank).cap < 2) :
    let d := c.caParity n rank
    (Sparse.at (d.mc n).ranks {} rank).cap = (Sparse.at (c.mc n).ranks {} rank).cap + 1 ∧
      (∀ q, q ≠ rank → (Sparse.at (d.mc n).ranks {} q).cap = 0) ∧ (d.mc n).queue = (c.mc n).queue ∧ d.mesh = c.mesh := by
  have hcls : ErrClass.corrected ≠ .fatal := by decide
  intro d
  rw [show d = _ from Chip.caParity_eq h, Chip.modMc_self, Chip.mc_of_mcs (Chip.logErr_mcs c (uMc n) hcls)]
  exact ⟨alertCounts_self _ _, fun q hq => alertCounts_ne _ hq, rfl, (c.logErr_keepsMesh (uMc n) hcls).mesh⟩

end Sys2Proof.Machine
end

section
/-! Refresh, MR4 and pauses of a channel (R240, R245), the operations of a copy and its end (R252, R253, R255), and from all the events
of a channel the statement. -/

namespace Sys2Proof.Machine

variable {c d : Chip} {n rank : Nat}

/-! Refresh, MR4 and pauses. -/

theorem Chip.refreshSb_turn {idx : Nat} (htrained : c.trained n = true) (hidx : idx < 4) (hdue : Sparse.at (c.mc n).refIdx 0 rank = idx) :
    Sparse.at ((c.refreshSb n rank idx).mc n).refIdx 0 rank = (idx + 1) % 4 := by
  rw [Chip.refreshSb, if_pos ⟨htrained, hdue, hidx⟩, Chip.modMc_self]
  exact Sparse.at_put_self _ _ _ _

theorem Chip.mr4Poll_rate (htrained : c.trained n = true) (hot : Bool) :
    (c.mr4Poll n hot).regFld (uMc n) 0 0x1058 1 1 = bit hot ∧ (c.mr4Poll n hot).trained n = true := by
  rw [Chip.mr4Poll, if_pos htrained]
  constructor
  · rw [Chip.regFld_setRegFld_self (by decide)]
    cases hot <;> rfl
  · rw [Chip.trained, Chip.regFld_setRegFld_apart (by decide) (by decide)]
    exact htrained

theorem pauseLimit_le (speed : Nat) : pauseLimit speed ≤ 770 := by
  have hall : ∀ d ∈ [420, 490, 560, 700, 770], d ≤ 770 := by decide
  unfold pauseLimit
  rw [List.getD_eq_getElem?_getD]
  cases hd : [420, 490, 560, 700, 770][speed]? with
  | none => exact Nat.le_refl 770
  | some d => exact hall d (List.mem_of_getElem? hd)

/-- What a pause of a present rank leaves in the registers and in its controller. -/
theorem Chip.retrainPause_shows (htrained : c.trained n = true) (hpres : c.ranksPresent n / 2 ^ rank % 2 = 1) (dur : Nat) :
    let speed := c.regFld (uMc n) 0 0x1040 4 2
    let pause := min dur (pauseLimit speed)
    let d := c.retrainPause n rank dur
    d.regFld (uMc n) 0 0x105C 15 0 = max pause (c.regFld (uMc n) 0 0x105C 15 0) ∧ d.regFld (uMc n) 0 0x1058 2 2 = 1 ∧
      (d.mc n).pause = some (rank, c.mtime.toNat + pauseTicks speed pause) := by
  intro speed pause d
  have hlong : max pause (c.regFld (uMc n) 0 0x105C 15 0) < 2 ^ 16 := by
    have hpause : pause ≤ 770 := (Nat.min_le_right _ _).trans (pauseLimit_le speed)
    have hold : c.regFld (uMc n) 0 0x105C 15 0 < 2 ^ 16 := fld_lt _ 15 0
    omega
  let c1 := c.setRegFld (uMc n) 0 0x105C 15 0 (max pause (c.regFld (uMc n) 0 0x105C 15 0))
  have hd : d.ctl = (c1.setRegFld (uMc n) 0 0x1058 2 2 1).ctl ∧
      (d.mc n).pause = some (rank, c.mtime.toNat + pauseTicks speed pause) := by
    simp only [d, Chip.retrainPause, if_pos (And.intro htrained hpres)]
    exact ⟨rfl, congrArg Mc.pause (Chip.modMc_self _ _ _)⟩
  obtain ⟨hctl, hpause⟩ := hd
  refine ⟨?_, ?_, hpause⟩
  · rw [Chip.regFld_of_ctl hctl, Chip.setRegFld, Chip.regFld_setReg_ne (by decide), Chip.regFld_setRegFld_self (by decide)]
    exact Nat.mod_eq_of_lt hlong
  · rw [Chip.regFld_of_ctl hctl, Chip.regFld_setRegFld_self (by decide)]
    rfl

/-! One operation of a copy (R252, R253). -/

theorem Chip.mem_pushWr (c : Chip) (n sub : Nat) (w : McWr) : w ∈ ((c.pushWr n sub w).mc n).wbufA ++ ((c.pushWr n sub w).mc n).wbufB := by
  rw [Chip.pushWr, Chip.modMc_self]
  split <;> simp

/-- A controller whose copy has gone on to line `cp`. -/
def Mc.copiedTo (m : Mc) (cp : Nat) : Mc := { m with cp := cp }

/-- The line that a copy is at, in the channel. -/
def Chip.copyLine (c : Chip) (n : Nat) : Nat :=
  ((c.mc n).logical.findIdx? (· = c.spareSource n)).getD 0 * c.rankLines n + (c.mc n).cp

/-- Where the rank that is copied stores that line. -/
def Chip.copyKey (c : Chip) (n : Nat) : Nat := memKey n (c.spareSource n) (c.coord n (c.copyLine n)).idx

/-- A line without errors or poison, of which no notice is due. -/
theorem Chip.copyOp_copies (hstate : c.spareState n = 2) (hleft : (c.mc n).cp < c.rankLines n)
    (hbuf : (c.mc n).buffered (c.spareSource n) (c.coord n (c.copyLine n)).idx = none)
    (hbad : Sparse.at (c.mc n).bad [] (c.copyKey n) = []) (hclean : (c.rawLine (c.copyKey n)).2 = false)
    (hroom : c.wrUsed n ((c.mc n).cp % 2) < 64) (hquiet : ((c.mc n).cp + 1) % 2 ^ 20 ≠ 0) :
    ∃ d, Activates c d n ∧ c.copyOp n [] =
      (d.pushWr n (c.coord n (c.copyLine n)).sub ⟨c.spareRank n, (c.mc n).cp, (c.rawLine (c.copyKey n)).1, false⟩).modMc n
        (·.copiedTo ((c.mc n).cp + 1)) := by
  let co : Coord := { c.coord n (c.copyLine n) with rank := c.spareSource n }
  obtain ⟨d, hact, hread⟩ := Chip.readDram_clean (co := co) hbad (c.copyLine n) (.copy (c.copyLine n))
  refine ⟨d, hact, ?_⟩
  have hspare : d.spareRank n = c.spareRank n := Chip.regFld_of_ctl hact.ctl _ _ _ _ _
  have hrank : c.rankRead n (c.copyLine n) co [] (.copy (c.copyLine n)) = ((c.rawLine (c.copyKey n)).1, false, false, d) := by
    rw [Chip.rankRead, show (c.mc n).buffered co.rank co.idx = none from hbuf]
    exact hread.trans (by rw [← hclean]; rfl)
  unfold Chip.copyOp
  extract_lets i src lr l co'
  rw [if_neg (by simp only [not_or, not_not, not_le]; exact ⟨hstate, hleft, hroom⟩)]
  rw [show c.rankRead n l { co' with rank := src } [] (.copy l) = _ from hrank]
  dsimp only
  rw [if_neg Bool.false_ne_true, if_neg hquiet, hspare]
  rfl

/-! The end of a copy (R252). -/

theorem Chip.copyNotice_mc (c : Chip) (n : Nat) : (c.copyNotice n).mc n = { c.mc n with notices := (c.mc n).notices + 1 } :=
  (Chip.mc_of_mcs (c := c.modMc n fun m => { m with notices := m.notices + 1 }) rfl n).trans (Chip.modMc_self _ _ _)

theorem Chip.copyNotice_ctl (c : Chip) (n : Nat) : (c.copyNotice n).ctl = c.ctl := rfl

/-- A controller in which rank `spare` has taken the place of rank `src`. -/
def Mc.sparedBy (m : Mc) (src spare : Nat) : Mc :=
  { m with
    logical := m.logical.map fun r => if r = src then spare else r
    wbufA := m.wbufA.filter fun w => !decide (w.rank = src), wbufB := m.wbufB.filter fun w => !decide (w.rank = src) }

/-- The registers at the end of a copy. -/
def Chip.copyEndRegs (c : Chip) (n : Nat) : Chip :=
  (c.setRegFld (uMc n) 0 0x1048 1 0 3).orReg (uMc n) 0 0x1058 (BitVec.ofNat 32 (2 ^ (8 + c.spareSource n)))

theorem Chip.copyEndRegs_state (c : Chip) (n : Nat) : (c.copyEndRegs n).spareState n = 3 :=
  (Chip.regFld_setReg_ne (by decide) _ _ _ _).trans (Chip.regFld_setRegFld_self (by decide) _ _ _)

theorem Chip.copyEndRegs_rank (c : Chip) (n : Nat) : (c.copyEndRegs n).spareRank n = c.spareRank n :=
  (Chip.regFld_setReg_ne (by decide) _ _ _ _).trans (Chip.regFld_setReg_ne (by decide) _ _ _ _)

theorem Chip.copyEndRegs_retired (hsrc : c.spareSource n < 8) :
    ((c.copyEndRegs n).reg (uMc n) 0 0x1058).getLsbD (8 + c.spareSource n) = true := by
  rw [Chip.copyEndRegs, Chip.orReg, Chip.reg_setReg_self, BitVec.getLsbD_or]
  generalize c.spareSource n = k at hsrc
  interval_cases k <;> simp

theorem Chip.copyDone_eq (hstate : c.spareState n = 2) (hall : c.rankLines n ≤ (c.mc n).cp) :
    ∃ d : Chip, c.copyDone n = d.copyNotice n ∧ d.ctl = (c.copyEndRegs n).ctl ∧
      d.mcs = (c.modMc n (·.sparedBy (c.spareSource n) ((c.copyEndRegs n).spareRank n))).mcs := by
  unfold Chip.copyDone
  rw [if_neg (by simp only [not_or, not_not, not_lt]; exact ⟨hstate, hall⟩)]
  exact ⟨_, rfl, rfl, rfl⟩

theorem Chip.copyDone_retires (hstate : c.spareState n = 2) (hall : c.rankLines n ≤ (c.mc n).cp) (hsrc : c.spareSource n < 8) :
    (c.copyDone n).spareState n = 3 ∧
      ((c.copyDone n).mc n).logical = ((c.mc n).logical.map fun r => if r = c.spareSource n then c.spareRank n else r) ∧
      ((c.copyDone n).reg (uMc n) 0 0x1058).getLsbD (8 + c.spareSource n) = true ∧
      ((c.copyDone n).mc n).notices = (c.mc n).notices + 1 := by
  obtain ⟨d, hd, hctl, hmcs⟩ := Chip.copyDone_eq hstate hall
  have hctl' : (c.copyDone n).ctl = (c.copyEndRegs n).ctl := by rw [hd, Chip.copyNotice_ctl, hctl]
  have hmc : d.mc n = (c.mc n).sparedBy (c.spareSource n) (c.spareRank n) := by
    rw [Chip.mc_of_mcs hmcs, Chip.modMc_self, Chip.copyEndRegs_rank]
  refine ⟨?_, ?_, ?_, ?_⟩
  · exact (Chip.regFld_of_ctl hctl' _ _ _ _ _).trans (c.copyEndRegs_state n)
  · rw [hd, Chip.copyNotice_mc, hmc]
    rfl
  · rw [Chip.reg_of_ctl hctl']
    exact Chip.copyEndRegs_retired hsrc
  · rw [hd, Chip.copyNotice_mc, hmc]
    rfl

/-! The statement. -/

/-- Settles O31: each event by the lemma of what it leaves. -/
theorem memoryChannelsServeAndSpare : Obligations.MemoryChannelsServeAndSpare := by
  constructor
  · intro s n rank idx dur hot r c m co k key pause
    refine ⟨?_, ?_, ?_, ?_, ?_, ?_, ?_⟩
    · intro hpause hadm hdrain hr herrs hbuf hstate hbad
      have hbank : co.bankNo = 32 * co.rank + (4 * co.bg + co.ba) := Nat.add_assoc _ _ _
      rw [hbank] at hr
      obtain ⟨hqueue, hacts, hmem, k, hmesh⟩ := Chip.bankActivate_serves hpause hdrain hr hadm herrs ⟨hstate, hbuf, hbad⟩
      refine RunsTo.of_fuseless (·.bankActivate n co.sub co.rank (4 * co.bg + co.ba)) rfl ?_ fun _ _ hd => hd
      exact ⟨hqueue, hacts, hmem, _, hmesh, rfl, rfl, rfl, rfl⟩
    · intro hdrain hwf
      refine RunsTo.of_fuseless (·.writeDrain n 0) rfl ?_ fun _ _ hd => hd
      rw [show s.chip.writeDrain n 0 = _ from Chip.writeDrain_A hdrain, Chip.modMc_self]
      exact ⟨rfl, rfl, Chip.commitWrs_wbufB c n _, fun w hw hone => Chip.rawLine_commitWrs _ hone hwf (.inl hw)⟩
    · intro htrained hidx hdue
      exact RunsTo.of_fuseless (·.refreshSb n rank idx) rfl (Chip.refreshSb_turn htrained hidx hdue) fun _ _ hd => hd
    · intro htrained
      exact RunsTo.of_fuseless (·.mr4Poll n hot) rfl (Chip.mr4Poll_rate htrained hot) fun _ _ hd => hd
    · intro htrained hpres
      exact RunsTo.of_fuseless (·.retrainPause n rank dur) rfl (Chip.retrainPause_shows htrained hpres dur) fun _ _ hd => hd
    · intro hcap
      exact RunsTo.of_fuseless (·.caParity n rank) rfl (Chip.caParity_counts hcap) fun _ _ hd => hd
    · intro htrained hen hfault hstate hleft hbad
      obtain ⟨d, hact, hread⟩ := Chip.patrolRead_moves htrained hen hfault hstate hleft hbad
      refine RunsTo.of_fuseless (·.patrolRead n []) rfl ?_ fun _ _ hd => hd
      rw [show s.chip.patrolRead n [] = _ from hread, Chip.modMc_self]
      exact ⟨rfl, hact.mem, hact.poison, hact.errs⟩
  · intro s src n rank v c m copying lr co hn hrank
    have hcopying {d : Chip} (h : c.CopyBegins d n rank) : copying d := ⟨h.state, h.source, h.cp, h.logical⟩
    refine ⟨?_, ?_, ?_, ?_, ?_⟩
    · intro ht
      exact RunsTo.of_fuseless (·.put32 src (uMc n) 0x1044 v.toNat) rfl (Chip.put32_spareCfg_sets hn ht) fun _ _ hd => hd
    · intro cause hready hact hdue hlow
      refine RunsTo.of_fuseless (·.rankRetirement n rank cause) rfl (hcopying ?_) fun _ _ hd => hd
      rw [show s.chip.rankRetirement n rank cause = _ from Chip.rankRetirement_due hdue hlow]
      exact Chip.retireRank_begins hready hact hrank cause
    · intro ht
      exact RunsTo.of_fuseless (·.put32 src (uMc n) 0x1048 (forceWord rank)) rfl (hcopying (Chip.put32_force hn hrank ht))
        fun _ _ hd => hd
    · intro hstate hleft hbuf hbad hclean hroom hquiet
      obtain ⟨d, hact, hcopied⟩ := Chip.copyOp_copies hstate hleft hbuf hbad hclean hroom hquiet
      refine RunsTo.of_fuseless (·.copyOp n []) rfl ?_ fun _ _ hd => hd
      rw [show s.chip.copyOp n [] = _ from hcopied, Chip.modMc_self]
      exact ⟨rfl, d.mem_pushWr n _ _, hact.mem⟩
    · intro hstate hall hsrc
      exact RunsTo.of_fuseless (·.copyDone n) rfl (Chip.copyDone_retires hstate hall hsrc) fun _ _ hd => hd

end Sys2Proof.Machine
end

section
/-! Q_CTL through a device's read (R279, R285, R302): whatever the translation and the read of a transfer change, no register Q_CTL is
among it, so that a queue stays with its port and its MAC. -/

namespace Sys2Proof.Machine

/-- Every queue's Q_CTL is as before. -/
def KeepsQCtl (c d : Chip) : Prop := ∀ q, d.reg uFlow q 0x1098 = c.reg uFlow q 0x1098

namespace KeepsQCtl

variable {a c d : Chip}

theorem refl (c : Chip) : KeepsQCtl c c := fun _ => rfl

theorem trans (h : KeepsQCtl a c) (g : KeepsQCtl c d) : KeepsQCtl a d := fun q => (g q).trans (h q)

theorem of_ctl (h : d.ctl = c.ctl) : KeepsQCtl c d := fun q => Chip.reg_of_ctl h uFlow q 0x1098

/-- A change beside the registers does not show. -/
theorem beside (h : KeepsQCtl a c) (hctl : d.ctl = c.ctl) : KeepsQCtl a d := h.trans (of_ctl hctl)

/-- A write of a register at another offset. -/
theorem setReg (h : KeepsQCtl a c) {u b o : Nat} (hlt : o < 2 ^ 28) (hne : o ≠ 0x1098) (w : Word) : KeepsQCtl a (c.setReg u b o w) :=
  h.trans fun q => Chip.reg_setReg_ne (by unfold regKey; omega) c w

theorem logErr (h : KeepsQCtl a c) (u : Nat) {e : ErrInfo} (he : e.cls ≠ .fatal) : KeepsQCtl a (c.logErr u e) :=
  h.beside (Chip.logErr_ctl c u he)

theorem foldl {β : Type} {f : Chip → β → Chip} (hf : ∀ c b, KeepsQCtl c (f c b)) (l : List β) (c : Chip) : KeepsQCtl c (l.foldl f c) :=
  List.foldlRecOn (motive := KeepsQCtl c) l f (refl c) fun d hd b _ => hd.trans (hf d b)

/-- The two branches of a choice. -/
theorem ite {p : Prop} [Decidable p] (hc : KeepsQCtl a c) (hd : KeepsQCtl a d) : KeepsQCtl a (if p then c else d) := by
  split
  · exact hc
  · exact hd

/-- The two branches of a choice of an answer and a device. -/
theorem iteSnd {β : Type} {p : Prop} [Decidable p] {x y : β × Chip} (hx : KeepsQCtl a x.2) (hy : KeepsQCtl a y.2) :
    KeepsQCtl a (if p then x else y).2 := by
  split
  · exact hx
  · exact hy

end KeepsQCtl

open KeepsQCtl (of_ctl refl)

/-! Lines of the L3 and of the pens. -/

theorem Chip.sendAll_ctl (c : Chip) (ms : List Msg) : (c.sendAll ms).ctl = c.ctl :=
  List.foldlRecOn (motive := fun d => d.ctl = c.ctl) ms Chip.send rfl fun d hd m _ =>
    (rfl : (d.send m).ctl = d.ctl).trans hd

theorem Chip.sendMwr_ctl (c : Chip) (i : Nat) : (c.sendMwr i).ctl = c.ctl := by
  unfold Chip.sendMwr
  exact Chip.sendAll_ctl _ _

theorem Chip.memPut_ctl (c : Chip) (i line : Nat) (x : Line) (p : Bool) : (c.memPut i line x p).ctl = c.ctl := by
  unfold Chip.memPut
  split
  · rfl
  · exact Chip.sendMwr_ctl _ _

theorem Chip.l3Way_ctl {c d : Chip} {i set clos w : Nat} (h : c.l3Way i set clos = some (w, d)) : d.ctl = c.ctl := by
  unfold Chip.l3Way at h
  dsimp only at h
  split at h
  · cases h
    rfl
  · split at h
    · cases h
    · split at h
      · cases h
        split
        · exact Chip.memPut_ctl _ _ _ _ _
        · rfl
      · cases h
        rfl

theorem Chip.l3Fill_ctl (c : Chip) (i line : Nat) (x : Line) (p dirty : Bool) (clos : Nat) :
    (c.l3Fill i line x p dirty clos).ctl = c.ctl := by
  unfold Chip.l3Fill
  split
  · rfl
  · split
    next w d hway =>
      have hctl := Chip.l3Way_ctl hway
      exact hctl
    · split
      · exact Chip.memPut_ctl _ _ _ _ _
      · rfl

theorem Chip.closeWith_qctl (c : Chip) (i : Nat) (p : Pen) (by_ : CloseBy) : KeepsQCtl c (c.closeWith i p by_) := by
  have hfilled : KeepsQCtl c ((c.modHome i (·.penGone p.line)).l3Fill i p.line p.result.1 p.poison true p.clos) :=
    of_ctl (Chip.l3Fill_ctl _ _ _ _ _ _ _)
  have hflags (w : Word) := hfilled.setReg (u := uSlice i) (b := 0) (o := 0x1104) (by decide) (by decide) w
  have hclosed : KeepsQCtl c (c.closedPen i p by_) := by
    cases by_ with
    | access => exact (hflags _).setReg (by decide) (by decide) _
    | early => exact ((hflags _).setReg (by decide) (by decide) _).logErr _ (show ErrClass.corrected ≠ .fatal by decide)
    | rclose => exact hflags _
    | otherMode => exact hflags _
    | drain => exact hflags _
  rw [Chip.closeWith_eq]
  exact .ite (hclosed.setReg (by decide) (by decide) _) hclosed

theorem Chip.closePen_qctl (c : Chip) (i line : Nat) (by_ : CloseBy) : KeepsQCtl c (c.closePen i line by_) := by
  unfold Chip.closePen
  split
  · exact .ite (refl c) (c.closeWith_qctl _ _ _)
  · exact refl c

theorem Chip.joined_ctl (c : Chip) (i : Nat) (p : Pen) (w : Nat × Bool) : (c.joined i p w).2.ctl = c.ctl := by
  unfold Chip.joined
  dsimp only
  split
  · exact Chip.logErr_ctl c _ (show ErrClass.deferred ≠ .fatal by decide)
  · rfl

/-- A line that comes back from its slot and closes. -/
theorem Chip.joined_closeWith_qctl (c : Chip) (i : Nat) (p : Pen) (w : Nat × Bool) (by_ : CloseBy) :
    KeepsQCtl c ((c.joined i p w).2.closeWith i (c.joined i p w).1 by_) :=
  (of_ctl (c.joined_ctl i p w)).trans (Chip.closeWith_qctl _ _ _ _)

theorem Chip.closeAtOnce_qctl (c : Chip) (i line : Nat) : KeepsQCtl c (c.closeAtOnce i line) := by
  have hmod (f : Home → Home) : KeepsQCtl c (c.modHome i f) := refl c
  unfold Chip.closeAtOnce
  extract_lets slot
  clear_value slot
  split
  · split
    · exact c.joined_closeWith_qctl _ _ _ _
    · exact c.closePen_qctl _ _ _
  · split
    · exact (hmod _).trans (Chip.closeWith_qctl _ _ _ _)
    · exact c.joined_closeWith_qctl _ _ _ _
    · exact c.joined_closeWith_qctl _ _ _ _
    · exact (hmod _).trans (Chip.closePen_qctl _ _ _ _)
    · exact refl c

/-! Lines read and written by devices (R169). -/

theorem Chip.memRead_ctl {c d : Chip} {line : Nat} {x : Line} {p : Bool} (h : c.memRead line = some (x, p, d)) : d.ctl = c.ctl := by
  unfold Chip.memRead at h
  split at h
  · cases h
  · injection h with h
    have hd : d = (c.cxlRead _ _).2.2 := (congrArg (·.2.2) h).symm
    rw [hd]
    unfold Chip.cxlRead
    dsimp only
    split
    · rfl
    · exact Chip.logErr_ctl c _ (show ErrClass.deferred ≠ .fatal by decide)
  · injection h with h
    have hd : d = (c.chanRead _ _ _ _).2.2 := (congrArg (·.2.2) h).symm
    rw [hd]
    exact (c.chanRead_keepsMesh _ _ _ _).ctl

theorem Chip.homeRead_ctl (c : Chip) (i line : Nat) : (c.homeRead i line).2.2.ctl = c.ctl := by
  unfold Chip.homeRead
  split
  · rfl
  · cases hread : c.memRead line with
    | none => rfl
    | some r => exact Chip.memRead_ctl hread

theorem Chip.devRead_qctl {c d : Chip} {line : Nat} {x : Line} {p : Bool} (h : c.devRead line = some (x, p, d)) : KeepsQCtl c d := by
  have hclosed := c.closeAtOnce_qctl (homeSlice line) line
  have hread := hclosed.beside (Chip.homeRead_ctl (c.closeAtOnce (homeSlice line) line) (homeSlice line) line)
  unfold Chip.devRead at h
  dsimp only at h
  split at h
  · cases h
  · split at h
    · split at h
      · cases h
        exact hclosed
      · split at h
        · cases h
          exact hclosed
        · split at h
          · cases h
            exact hclosed
          · injection h with h
            rw [h] at hread
            exact hread
    · injection h with h
      rw [h] at hread
      exact hread

theorem Chip.devReadBytes_go_qctl {d : Chip} {bs : List Byte} {p : Bool} (fuel : Nat) {c : Chip} {a left : Nat} {acc : List Byte} {q : Bool}
    (h : Chip.devReadBytes.go c a left fuel acc q = some (bs, p, d)) : KeepsQCtl c d := by
  induction fuel generalizing c a left acc q with
  | zero =>
    cases h
    exact refl _
  | succ fuel ih =>
    rw [Chip.devReadBytes.go] at h
    split at h
    · cases h
      exact refl _
    · dsimp only at h
      split at h
      · cases h
      next hread => exact (Chip.devRead_qctl hread).trans (ih h)

theorem Chip.devReadBytes_qctl {c d : Chip} {pa n : Nat} {bs : List Byte} {p : Bool} (h : c.devReadBytes pa n = some (bs, p, d)) :
    KeepsQCtl c d := Chip.devReadBytes_go_qctl _ h

theorem Chip.dropResv_ctl (c : Chip) (x line : Nat) : (c.dropResv x line).ctl = c.ctl := by
  unfold Chip.dropResv
  split <;> rfl

/-- A device's write of a line that it stashes nowhere (R169). -/
theorem Chip.devWrite_qctl (c : Chip) (line : Nat) (x : Line) (mask : BitVec 64) (poison : Bool) (clos : Nat) :
    KeepsQCtl c (c.devWrite line x mask poison clos none) := by
  have hdrop {d : Chip} (l : List Nat) : KeepsQCtl d (l.foldl (fun (c : Chip) x => c.dropResv x line) d) :=
    .foldl (fun c x => of_ctl (c.dropResv_ctl x line)) l d
  have hgone {d : Chip} (l : List Nat) : KeepsQCtl d
      (l.foldl (fun (c : Chip) x => (c.modCore x fun k => k.setLine line fun _ => none).dropResv x line) d) :=
    .foldl (fun c x => of_ctl (Chip.dropResv_ctl (c.modCore x _) x line)) l d
  unfold Chip.devWrite
  dsimp only
  split
  · exact refl c
  · split
    · exact refl c
    next o op d hread =>
      have hd := Chip.devRead_qctl hread
      split
      · exact (hd.trans (hdrop _)).beside (Chip.l3Fill_ctl _ _ _ _ _ _ _)
      · refine KeepsQCtl.beside ?_ (Chip.l3Fill_ctl _ _ _ _ _ _ _)
        split
        · exact hd.trans (hgone _)
        · exact hd

theorem Chip.devWriteBytes_go_qctl (poison : Bool) (clos fuel : Nat) (c : Chip) (a : Nat) (bs : List Byte) :
    KeepsQCtl c (Chip.devWriteBytes.go poison clos (fun _ => none) c a bs fuel) := by
  induction fuel generalizing c a bs with
  | zero => exact refl c
  | succ fuel ih =>
    rw [Chip.devWriteBytes.go]
    split
    · exact refl c
    · exact (c.devWrite_qctl _ _ _ _ _).trans (ih _ _ _)

theorem Chip.devWriteBytes_qctl (c : Chip) (pa : Nat) (bs : List Byte) (poison : Bool) (clos : Nat) :
    KeepsQCtl c (c.devWriteBytes pa bs poison clos fun _ => none) := Chip.devWriteBytes_go_qctl _ _ _ c pa bs

/-! Translation (R383-R386). -/

theorem Chip.imsicSet_ctl (c : Chip) (h page id : Nat) : (c.imsicSet h page id).ctl = c.ctl := by
  unfold Chip.imsicSet
  split <;> rfl

theorem Chip.msiDeliver_qctl (c : Chip) (pa data : Nat) : KeepsQCtl c (c.msiDeliver pa data) := by
  unfold Chip.msiDeliver
  split
  · exact .ite (of_ctl (c.imsicSet_ctl _ _ _)) (refl c)
  · exact c.devWriteBytes_qctl _ _ _ _
  · exact refl c

theorem Chip.iommuInt_qctl (c : Chip) (bitNo vecLo : Nat) : KeepsQCtl c (c.iommuInt bitNo vecLo) := by
  have hpending (w : Word) : KeepsQCtl c (c.setIo32 0x54 w) := refl c
  unfold Chip.iommuInt
  exact .ite (refl c) (.ite (hpending _) ((hpending _).trans (Chip.msiDeliver_qctl _ _ _)))

theorem Chip.fqInt_qctl (c : Chip) : KeepsQCtl c c.fqInt := .ite (c.iommuInt_qctl _ _) (refl c)

/-- The queue's condition set, or its tail moved, and its interrupt. -/
theorem KeepsQCtl.fqInt {a c : Chip} (h : KeepsQCtl a c) (off : Nat) (w : Word) : KeepsQCtl a (c.setIo32 off w).fqInt :=
  (h.beside (d := c.setIo32 off w) rfl).trans (Chip.fqInt_qctl _)

theorem Chip.iommuFault_qctl (c : Chip) (cause dev : Nat) (pasid : Option Nat) (write : Bool) (iova iova2 : Nat) :
    KeepsQCtl c (c.iommuFault cause dev pasid write iova iova2) := by
  unfold Chip.iommuFault
  exact .ite (refl c) (.ite ((refl c).fqInt _ _) (.ite ((refl c).fqInt _ _) ((c.devWriteBytes_qctl _ _ _ _).fqInt _ _)))

theorem Chip.ioRead_qctl {c d : Chip} {pa n : Nat} {ws : List Nat} {p : Bool} (h : c.ioRead pa n = some (ws, p, d)) : KeepsQCtl c d := by
  unfold Chip.ioRead at h
  split at h
  next hread =>
    cases h
    exact Chip.devReadBytes_qctl hread
  · cases h

theorem Chip.deviceContext_go_qctl (ix : Nat → Nat) (lvl : Nat) (c : Chip) (table : Nat) :
    KeepsQCtl c (Chip.deviceContext.go ix c table lvl).2 := by
  induction lvl generalizing c table with
  | zero =>
    rw [Chip.deviceContext.go]
    split
    next hread =>
      have hd := Chip.ioRead_qctl hread
      split_ifs <;> exact hd
    · exact refl c
  | succ l ih =>
    rw [Chip.deviceContext.go]
    split
    next hread =>
      have hd := Chip.ioRead_qctl hread
      dsimp only
      split_ifs
      · exact hd
      · exact hd
      · exact hd.trans (ih _ _)
      · exact hd
    · exact refl c

theorem Chip.deviceContext_qctl (c : Chip) (dev : Nat) : KeepsQCtl c (c.deviceContext dev).2 := by
  unfold Chip.deviceContext
  dsimp only
  split
  · exact refl c
  · exact Chip.deviceContext_go_qctl _ _ _ _

theorem Chip.heldContext_qctl (c : Chip) (agent dev : Nat) : KeepsQCtl c (c.heldContext agent dev).2 := by
  have hwalk := c.deviceContext_qctl dev
  unfold Chip.heldContext
  split
  · exact refl c
  · split
    next hctx =>
      rw [hctx] at hwalk
      exact hwalk.beside rfl
    · exact hwalk

/-- A walk whose reads, caches and tables' translations keep them keeps them. -/
structure WalkBy.KeepsQCtl (by_ : WalkBy) : Prop where
  read {c d : Chip} {a va : Nat} {x : DWord} {p : Bool} : by_.read c a va = some (x, p, d) → Machine.KeepsQCtl c d
  keep (c : Chip) (pa va cover : Nat) (x : DWord) : Machine.KeepsQCtl c (by_.keep c pa va cover x)
  phys (c : Chip) (a : Nat) (write : Bool) : Machine.KeepsQCtl c (by_.phys c a write).2

theorem Chip.walkStage_go_qctl {by_ : WalkBy} (hby : by_.KeepsQCtl) (levels top va : Nat) (store wrong adue pb : Bool)
    (leafOk : DWord → Bool) (lvl : Nat) (c : Chip) (table : Nat) :
    KeepsQCtl c (Chip.walkStage.go by_ levels top va store wrong adue pb leafOk c table lvl).2 := by
  induction lvl using Nat.strongRecOn generalizing c table with
  | ind lvl ih =>
    rw [Chip.walkStage.go.eq_def]
    dsimp only
    generalize table + 8 * (va / 2 ^ (12 + 9 * lvl) % 2 ^ (9 + if lvl + 1 = levels then top else 0)) = at_
    have htable := hby.phys c at_ false
    split
    next d hphys =>
      rw [hphys] at htable
      split
      · exact htable
      next pte pois e hread =>
        have he := htable.trans (hby.read hread)
        refine .iteSnd he (.iteSnd he (.iteSnd (.iteSnd he (.iteSnd (.iteSnd he (.iteSnd ?_ he)) he)) (.iteSnd he ?_)))
        · have hset := hby.phys e at_ true
          split
          next f hphys' =>
            rw [hphys'] at hset
            exact .iteSnd ((he.trans hset).trans (Chip.devWriteBytes_qctl _ _ _ _ _)) (he.trans hset)
          next f _ hphys' =>
            rw [hphys'] at hset
            exact he.trans hset
        · split
          · exact he
          · exact (he.trans (hby.keep _ _ _ _ _)).trans (ih _ (Nat.lt_succ_self _) _ _)
    next d _ hphys =>
      rw [hphys] at htable
      exact htable

theorem ioWalkBy_qctl {phys : Chip → Nat → Bool → Walked × Chip} (h : ∀ c a w, KeepsQCtl c (phys c a w).2) : (ioWalkBy phys).KeepsQCtl where
  read {c d a va x p} hread := by
    change (match c.ioRead a 1 with | some (ws, p, c) => some (BitVec.ofNat 64 (ws.getD 0 0), p, c) | none => none) = _ at hread
    split at hread
    next hio =>
      cases hread
      exact Chip.ioRead_qctl hio
    · cases hread
  keep c _ _ _ _ := refl c
  phys := h

theorem Chip.ioWalk_qctl {phys : Chip → Nat → Bool → Walked × Chip} (h : ∀ c a w, KeepsQCtl c (phys c a w).2) (c : Chip)
    (mode root top va : Nat) (write ad : Bool) : KeepsQCtl c (c.ioWalk mode root top va write ad phys).2 :=
  Chip.walkStage_go_qctl (ioWalkBy_qctl h) _ _ _ _ _ _ _ _ _ c root

theorem Chip.ioSecond_qctl (c : Chip) (dc : List Nat) (gpa : Nat) (write : Bool) : KeepsQCtl c (c.ioSecond dc gpa write).2 := by
  have hsame (c : Chip) (a : Nat) (w : Bool) : KeepsQCtl c (samePhys c a w).2 := refl c
  unfold Chip.ioSecond
  exact .iteSnd (refl c) (.iteSnd (refl c) (c.ioWalk_qctl hsame _ _ _ _ _ _))

section firstStage
variable {entry : Chip → Nat → Nat → Except Nat (List Nat) × Chip}

theorem Chip.firstStage_go_qctl (h : ∀ c a n, KeepsQCtl c (entry c a n).2) (root : Nat → Option (Nat × Nat)) (p lvl : Nat) (c : Chip)
    (table : Nat) : KeepsQCtl c (Chip.firstStage.go root p entry c table lvl).2 := by
  induction lvl generalizing c table with
  | zero =>
    have hentry := h c (table + 16 * (p % 256)) 2
    rw [Chip.firstStage.go]
    split
    next heq =>
      rw [heq] at hentry
      exact hentry
    next heq =>
      rw [heq] at hentry
      exact .iteSnd hentry hentry
  | succ l ih =>
    have hentry := h c (table + 8 * (p / 2 ^ (8 + 9 * l) % 512)) 1
    rw [Chip.firstStage.go]
    split
    next heq =>
      rw [heq] at hentry
      exact hentry
    next heq =>
      rw [heq] at hentry
      exact .iteSnd (hentry.trans (ih _ _)) hentry

end firstStage

theorem Chip.firstStage_qctl {phys : Chip → Nat → Bool → Walked × Chip} (h : ∀ c a w, KeepsQCtl c (phys c a w).2) (c : Chip)
    (dc : List Nat) (pasid : Option Nat) : KeepsQCtl c (c.firstStage dc pasid phys).2 := by
  unfold Chip.firstStage
  extract_lets tc fsc root pid mode entry
  have hentry (c : Chip) (a n : Nat) : KeepsQCtl c (entry c a n).2 := by
    have hphys := h c a false
    dsimp only [entry]
    split
    · exact hphys
    · split
      next hio => exact hphys.trans (Chip.ioRead_qctl hio)
      · exact hphys
  clear_value pid entry
  refine .iteSnd (.iteSnd (refl c) (refl c)) ?_
  cases pid with
  | none => exact refl c
  | some p =>
    exact .iteSnd (.iteSnd (refl c) (refl c)) (.iteSnd (refl c) (Chip.firstStage_go_qctl hentry _ _ _ _ _))

theorem Chip.heldStage_qctl {phys : Chip → Nat → Bool → Walked × Chip} (h : ∀ c a w, KeepsQCtl c (phys c a w).2) (c : Chip)
    (agent dev : Nat) (dc : List Nat) (pasid : Option Nat) : KeepsQCtl c (c.heldStage agent dev dc pasid phys).2 := by
  have hfirst := c.firstStage_qctl h dc pasid
  unfold Chip.heldStage
  refine .iteSnd hfirst ?_
  split
  · exact refl c
  · split
    next heq =>
      rw [heq] at hfirst
      exact hfirst.beside rfl
    · exact hfirst

theorem Chip.msiTable_qctl {c d : Chip} {dc : List Nat} {gpa : Nat} {x : Except Nat Nat} (h : c.msiTable dc gpa = some (x, d)) :
    KeepsQCtl c d := by
  unfold Chip.msiTable at h
  dsimp only at h
  split at h
  · cases h
  · split at h
    next hio =>
      have hread := Chip.ioRead_qctl hio
      split_ifs at h <;> (cases h; exact hread)
    · cases h
      exact refl _

theorem Chip.ioTranslate_qctl (c : Chip) (agent dev : Nat) (pasid : Option Nat) (iova : Nat) (write : Bool) :
    KeepsQCtl c (c.ioTranslate agent dev pasid iova write).2 := by
  have hpoison {a d : Chip} {q : Prop} [Decidable q] (h : KeepsQCtl a d) :
      KeepsQCtl a (if q then d.logErr 0 { cls := .uncorrected, struct := 0x1D, addr := iova } else d) :=
    .ite (h.logErr _ (show ErrClass.uncorrected ≠ .fatal by decide)) h
  have hfault {a d : Chip} {cause iova2 : Nat} (h : KeepsQCtl a d) :
      KeepsQCtl a (d.iommuFault cause dev pasid write iova iova2) := h.trans (d.iommuFault_qctl _ _ _ _ _ _)
  have hfail {a d : Chip} {quiet : Bool} {cause iova2 : Nat} (h : KeepsQCtl a d) :
      KeepsQCtl a (if quiet then d else d.iommuFault cause dev pasid write iova iova2) := .ite h (hfault h)
  unfold Chip.ioTranslate
  extract_lets mode fail poisoned
  refine .iteSnd (refl c) (.iteSnd (hfault (refl c)) ?_)
  split
  · exact refl c
  · have hctx := c.heldContext_qctl agent dev
    split
    next heq =>
      rw [heq] at hctx
      exact hfault (hpoison hctx)
    next dc d heq =>
      rw [heq] at hctx
      replace hctx : KeepsQCtl c d := hctx
      extract_lets quiet fail' stop phys
      have hphys (c : Chip) (a : Nat) (w : Bool) : KeepsQCtl c (phys c a w).2 := c.ioSecond_qctl dc a w
      have hstop {e : Chip} (h : KeepsQCtl c e) (w : Walked) (f g : Nat) : KeepsQCtl c (stop w e f g).2 := by
        cases w with
        | access => exact hfail h
        | poison _ => exact hfail (h.logErr _ (show ErrClass.uncorrected ≠ .fatal by decide))
        | guest _ _ => exact hfail h
        | leaf _ _ _ => exact hfail h
        | fault => exact hfail h
        | quit => exact hfail h
      have hstage := d.heldStage_qctl hphys agent dev dc pasid
      split
      next heq =>
        rw [heq] at hstage
        exact hfail (hpoison (hctx.trans hstage))
      next fs e heq =>
        rw [heq] at hstage
        replace hstage : KeepsQCtl c e := hctx.trans hstage
        extract_lets first
        have hfirst : KeepsQCtl c first.2 := by
          dsimp only [first]
          split
          · exact hstage
          · exact .iteSnd hstage (hstage.trans (Chip.ioWalk_qctl hphys _ _ _ _ _ _ _))
        clear_value first stop
        split
        next base size pte f =>
          have hsecond := f.ioSecond_qctl dc (base + iova % 2 ^ size) write
          have htable {e : Chip} {x : Except Nat Nat} (h : (if write then f.msiTable dc (base + iova % 2 ^ size) else none) = some (x, e)) :
              KeepsQCtl c e := by
            split at h
            · exact hfirst.trans (Chip.msiTable_qctl h)
            · cases h
          dsimp only
          split
          next hmsi => exact htable hmsi
          next hmsi => exact hfail (hpoison (htable hmsi))
          · split
            next heq =>
              rw [heq] at hsecond
              exact (hfirst.trans hsecond).beside rfl
            next heq =>
              rw [heq] at hsecond
              exact hstop (hfirst.trans hsecond) _ _ _
        next x f _ => exact hstop hfirst _ _ _

/-! Reads on behalf of a ring's owner (R73, R371-R374). -/

theorem Chip.aerLog_ctl (c : Chip) (p bitNo : Nat) : (c.aerLog p bitNo).ctl = c.ctl := by
  unfold Chip.aerLog
  split <;> rfl

theorem Chip.reportCto_qctl (c : Chip) (p s tag : Nat) : KeepsQCtl c (c.reportCto p s tag) := by
  have hcto : KeepsQCtl c ((c.pxErr p 0).logErr (uPx p) { cls := .uncorrected, struct := 0x17 }) :=
    ((refl c).setReg (by decide) (by decide) _).logErr _ (show ErrClass.uncorrected ≠ .fatal by decide)
  exact (hcto.beside (Chip.aerLog_ctl _ p 14)).beside rfl

theorem Chip.portRead_qctl (c : Chip) (p : Nat) (t : TlpOut) : KeepsQCtl c (c.portRead p t).2 := by
  unfold Chip.portRead
  extract_lets x tag d
  have hd : KeepsQCtl c d := refl c
  refine .iteSnd (refl c) ?_
  dsimp only [Chip.pick]
  split
  · exact hd.beside rfl
  · have hep : KeepsQCtl c (({ d with fresh := d.fresh + 1 + t.len } : Chip).pxErr p 2) :=
      (hd.beside (d := { d with fresh := d.fresh + 1 + t.len }) rfl).setReg (by decide) (by decide) _
    exact hep.beside rfl
  · exact hd.beside rfl
  · exact (hd.beside (d := { d with fresh := d.fresh + 1 }) rfl).trans (Chip.reportCto_qctl _ _ _ _)

theorem Chip.busRead_qctl (c : Chip) (pa n : Nat) : KeepsQCtl c (c.busRead pa n).2 := by
  unfold Chip.busRead
  split
  · split
    next hread => exact Chip.devReadBytes_qctl hread
    · exact refl c
  · split
    · exact .iteSnd (c.portRead_qctl _ _) (refl c)
    · exact refl c
  · exact refl c

theorem Chip.instRead_go_qctl (dev : Nat) (pasid : Option Nat) (fuel : Nat) (c : Chip) (a left : Nat) (acc : List Byte) (p : Bool) :
    KeepsQCtl c (Chip.instRead.go dev pasid c a left fuel acc p).2 := by
  induction fuel generalizing c a left acc p with
  | zero => exact refl c
  | succ fuel ih =>
    have hplace := c.ioTranslate_qctl 4 dev pasid a false
    rw [Chip.instRead.go]
    refine .iteSnd (refl c) ?_
    dsimp only
    split
    next heq =>
      rw [heq] at hplace
      exact hplace
    next pa d heq =>
      rw [heq] at hplace
      have hread := hplace.trans (d.busRead_qctl pa (min left (4096 - a % 4096)))
      split
      next heq =>
        rw [heq] at hread
        exact hread.trans (ih _ _ _ _ _)
      next heq =>
        rw [heq] at hread
        exact hread

theorem Chip.instRead_qctl (c : Chip) (iid iova n : Nat) : KeepsQCtl c (c.instRead iid iova n).2 := by
  unfold Chip.instRead
  split
  · exact c.portRead_qctl _ _
  · exact Chip.instRead_go_qctl _ _ _ _ _ _ _ _

theorem Chip.readBuf_go_qctl (iid fuel : Nat) (c : Chip) (a left : Nat) (acc : List Byte) (p : Bool) :
    KeepsQCtl c (Chip.readBuf.go iid c a left acc p fuel).2.2.2 := by
  induction fuel generalizing c a left acc p with
  | zero => exact refl c
  | succ fuel ih =>
    have hread := c.instRead_qctl iid a (min left (4096 - a % 4096))
    rw [Chip.readBuf.go]
    split
    · exact refl c
    · dsimp only
      split
      next heq =>
        rw [heq] at hread
        exact hread.trans (ih _ _ _ _ _)
      next heq =>
        rw [heq] at hread
        exact hread

/-- A buffer read leaves every Q_CTL (R302). -/
theorem Chip.readBuf_qctl {c d : Chip} {iid iova n st : Nat} {bs : List Byte} {p : Bool} (h : c.readBuf iid iova n = (bs, p, st, d)) :
    KeepsQCtl c d := by
  have hread := Chip.readBuf_go_qctl iid (n / 4096 + 2) c iova n [] false
  rw [show Chip.readBuf.go iid c iova n [] false (n / 4096 + 2) = _ from h] at hread
  exact hread

end Sys2Proof.Machine
end

section
/-! Admin descriptors (R275-R278, R392, R399, R414): what the next one in the order of fetch makes of the flow table and of the RSS
contexts, and from these the statement. -/

namespace Sys2Proof.Machine

/-! Tables. -/

theorem FlowTab.unrefSlot_ents (t : FlowTab) (n : Nat) : (t.unrefSlot n).ents = t.ents := by
  unfold FlowTab.unrefSlot
  split <;> rfl

/-- A dropped entry is gone (R277). -/
theorem FlowTab.drop_find (t : FlowTab) (i : Nat) : Sparse.find (t.drop i).ents i = none := by
  unfold FlowTab.drop
  split
  · rw [FlowTab.unrefSlot_ents, FlowTab.unrefSlot_ents]
    exact (Sparse.find_del _ i i).trans (if_pos rfl)
  next hnone => exact hnone

/-- RSS entries written from a place on, in order (R275). -/
def FlowTab.rssPut (t : FlowTab) (place : Nat) (entry : Nat → Nat) (n : Nat) : FlowTab :=
  (List.range n).foldl (fun (t : FlowTab) i => { t with rss := Sparse.put t.rss (place + i) (entry i) }) t

theorem FlowTab.rssPut_succ (t : FlowTab) (place : Nat) (entry : Nat → Nat) (n : Nat) :
    t.rssPut place entry (n + 1) =
      { t.rssPut place entry n with rss := Sparse.put (t.rssPut place entry n).rss (place + n) (entry n) } := by
  rw [FlowTab.rssPut, List.range_succ, List.foldl_append]
  rfl

/-- They are all that changes, and each reads as written. -/
theorem FlowTab.rssPut_keeps (t : FlowTab) (place : Nat) (entry : Nat → Nat) (n : Nat) :
    (t.rssPut place entry n).ents = t.ents ∧ ∀ j, j < n → Sparse.at (t.rssPut place entry n).rss 0 (place + j) = entry j := by
  induction n with
  | zero => exact ⟨rfl, fun j hj => absurd hj (Nat.not_lt_zero j)⟩
  | succ n ih =>
    obtain ⟨hents, hrss⟩ := ih
    rw [FlowTab.rssPut_succ]
    refine ⟨hents, fun j hj => ?_⟩
    rcases Nat.lt_succ_iff_lt_or_eq.mp hj with hlt | rfl
    · rw [← hrss j hlt]
      exact Sparse.at_put_ne (by omega) _ _ _
    · exact Sparse.at_put_self _ _ _ _

/-! The next descriptor (R277). -/

section admin
variable {c c1 : Chip} {iid op i k q : Nat} {d : Desc} {bs : List Byte} {x : FlowRec} {e : FlowEnt}

/-- The descriptor of an admin ring that is next in the order of fetch, of an opcode. -/
def Chip.AdminTurn (c : Chip) (iid op : Nat) (d : Desc) : Prop :=
  c.startable (.adm iid) = some d ∧ d.opcode = op ∧ c.flow.order.head? = some (iid, d.idx)

theorem Chip.AdminTurn.next (h : c.AdminTurn iid op d) : c.adminNext (.adm iid) op = some (iid, d) := by
  obtain ⟨hstart, hop, hhead⟩ := h
  simp only [Chip.adminNext, hstart, hop, hhead, and_self, if_true]

/-- The entry of a record's key, which the ring's owner may change (R277, R414). -/
def FlowTab.Owned (t : FlowTab) (iid : Nat) (x : FlowRec) (k i : Nat) (e : FlowEnt) : Prop :=
  t.keyOf x.v6 x.src x.dst x.vni x.udp x.sport x.dport = some k ∧ t.find k = some (i, e) ∧ (iid = 0 ∨ e.owner = iid)

theorem FlowTab.Owned.allowed {t : FlowTab} (h : t.Owned iid x k i e) : ¬ (iid ≠ 0 ∧ e.owner ≠ iid) := by
  obtain ⟨-, -, hown⟩ := h
  rintro ⟨hpf, hother⟩
  exact hown.elim hpf hother

/-- The record that is read decides what a descriptor comes to. -/
theorem Chip.withFlowRec_record {del : Bool} {f : Chip → FlowRec → (Nat × Nat) × Chip} {st info : Nat} {c2 : Chip}
    (hread : c.instRead iid (d.fld 8 8) 64 = (.ok bs false, c1)) (hrec : flowRec bs del = some x) (hf : f c1 x = ((st, info), c2)) :
    c.withFlowRec (.adm iid) iid d del f = c2.adminDone (.adm iid) d.idx st info := by
  simp only [Chip.withFlowRec, hread, hrec, hf, Bool.false_eq_true, if_false]

/-- A record with an undefined field (R276). -/
theorem Chip.withFlowRec_bad {del : Bool} {f : Chip → FlowRec → (Nat × Nat) × Chip}
    (hread : c.instRead iid (d.fld 8 8) 64 = (.ok bs false, c1)) (hrec : flowRec bs del = none) :
    c.withFlowRec (.adm iid) iid d del f = c1.adminDone (.adm iid) d.idx 0x0B 0 := by
  simp only [Chip.withFlowRec, hread, hrec, Bool.false_eq_true, if_false]

theorem Chip.flowInsert_owned (h : c.flow.Owned iid x k i e) (action : Nat) :
    c.flowInsert iid x.v6 x.src x.dst x.vni x.udp x.sport x.dport action =
      ((0, 1), { c with flow := { c.flow with ents := Sparse.put c.flow.ents i { e with action := action } } }) := by
  have hallowed := h.allowed
  obtain ⟨hkey, hfind, -⟩ := h
  simp only [Chip.flowInsert, hkey, hfind, if_neg hallowed]

theorem Chip.flowSet_replaces (h : c.AdminTurn iid 1 d) (hread : c.instRead iid (d.fld 8 8) 64 = (.ok bs false, c1))
    (hrec : flowRec bs false = some x) (hq : c1.queueGlobal iid (x.action / 4 % 8192) = some q) (hown : c1.flow.Owned iid x k i e) :
    c.flowSet (.adm iid) = ({ c1 with flow := { c1.flow with
      ents := Sparse.put c1.flow.ents i { e with action := actionQueue x.action q } } } : Chip).adminDone (.adm iid) d.idx 0 1 := by
  rw [Chip.flowSet, h.next]
  refine Chip.withFlowRec_record hread hrec ?_
  rw [hq]
  exact Chip.flowInsert_owned hown _

theorem Chip.flowSet_bad (h : c.AdminTurn iid 1 d) (hread : c.instRead iid (d.fld 8 8) 64 = (.ok bs false, c1))
    (hrec : flowRec bs false = none) : c.flowSet (.adm iid) = c1.adminDone (.adm iid) d.idx 0x0B 0 := by
  rw [Chip.flowSet, h.next]
  exact Chip.withFlowRec_bad hread hrec

theorem Chip.flowDelete_drops (h : c.AdminTurn iid 2 d) (hread : c.instRead iid (d.fld 8 8) 64 = (.ok bs false, c1))
    (hrec : flowRec bs true = some x) (hown : c1.flow.Owned iid x k i e) :
    c.flowDelete (.adm iid) = ({ c1 with flow := c1.flow.drop i } : Chip).adminDone (.adm iid) d.idx 0 1 := by
  have hallowed := hown.allowed
  obtain ⟨hkey, hfind, -⟩ := hown
  rw [Chip.flowDelete, h.next]
  refine Chip.withFlowRec_record hread hrec ?_
  simp only [hkey, hfind, if_neg hallowed]

theorem Chip.rssSet_writes (h : c.AdminTurn iid 3 d) :
    c.rssSet (.adm iid) = ({ c with
      flow := c.flow.rssPut (512 * (d.fld 8 1 % 16) + d.fld 10 2) (fun j => d.fld (12 + 2 * j) 2 % 8192) 8 } : Chip).adminDone
        (.adm iid) d.idx 0 0 := by
  rw [Chip.rssSet, h.next]
  rfl

end admin

/-- Settles O34: each descriptor by what it comes to. -/
theorem adminDescriptorsChangeSteering : Obligations.AdminDescriptorsChangeSteering := by
  intro s iid i k q d bs c1 x e c r next read found done
  refine ⟨?_, ?_, ?_, ?_⟩
  · intro hnext hread hrec hq hfound
    refine RunsTo.of_fuseless (·.flowSet r) rfl ?_ fun _ _ hd => hd
    rw [show s.chip.flowSet r = _ from Chip.flowSet_replaces hnext hread hrec hq hfound]
    exact ⟨rfl, rfl⟩
  · intro hnext hread hrec
    refine RunsTo.of_fuseless (·.flowSet r) rfl ?_ fun _ _ hd => hd
    rw [show s.chip.flowSet r = _ from Chip.flowSet_bad hnext hread hrec]
    exact ⟨rfl, rfl⟩
  · intro hnext hread hrec hfound
    refine RunsTo.of_fuseless (·.flowDelete r) rfl ?_ fun _ _ hd => hd
    rw [show s.chip.flowDelete r = _ from Chip.flowDelete_drops hnext hread hrec hfound]
    exact ⟨⟨rfl, rfl⟩, c1.flow.drop_find i⟩
  · intro hnext
    obtain ⟨hents, hrss⟩ := c.flow.rssPut_keeps (512 * (d.fld 8 1 % 16) + d.fld 10 2) (fun j => d.fld (12 + 2 * j) 2 % 8192) 8
    refine RunsTo.of_fuseless (·.rssSet r) rfl ?_ fun _ _ hd => hd
    rw [show s.chip.rssSet r = _ from Chip.rssSet_writes hnext]
    exact ⟨rfl, hents, hrss⟩

end Sys2Proof.Machine
end

section
/-! Links and pause frames of an Ethernet port (R260, R290, R291, R293): the MACs of a port, what each event leaves of its link
register, of its pauses and of its wire, and from these the statement. -/

namespace Sys2Proof.Machine

/-! The MACs of a port. -/

section mac
variable {c : Chip} {p m : Nat}

@[simp] theorem Chip.mac_modMac_self (c : Chip) (p m : Nat) (f : EthMac → EthMac) : (c.modMac p m f).mac p m = f (c.mac p m) := by
  rw [Chip.mac, Chip.modMac, Chip.modEth_self]
  exact Sparse.at_upd_self _ _ _ _

theorem Chip.mac_modMac_ne {k : Nat} (h : k ≠ m) (c : Chip) (p : Nat) (f : EthMac → EthMac) : (c.modMac p m f).mac p k = c.mac p k := by
  rw [Chip.mac, Chip.modMac, Chip.modEth_self]
  exact Sparse.at_upd_ne h _ _ _

@[simp] theorem Chip.modMac_ctl (c : Chip) (p m : Nat) (f : EthMac → EthMac) : (c.modMac p m f).ctl = c.ctl := rfl

@[simp] theorem Chip.modMac_xoff (c : Chip) (p m : Nat) (f : EthMac → EthMac) : ((c.modMac p m f).eth p).xoff = (c.eth p).xoff := by
  rw [Chip.modMac, Chip.modEth_self]

/-- A change of a port beside its MACs. -/
theorem Chip.mac_modEth {f : EthPort → EthPort} (h : (f (c.eth p)).macs = (c.eth p).macs) (m : Nat) :
    (c.modEth p f).mac p m = c.mac p m := by
  rw [Chip.mac, Chip.modEth_self, h, Chip.mac]

@[simp] theorem Chip.ethCount_ctl (c : Chip) (p m item place n : Nat) : (c.ethCount p m item place n).ctl = c.ctl := rfl

/-- A count changes nothing of a MAC but its counts (R301). -/
theorem Chip.ethCount_mac (c : Chip) (p m item place n k : Nat) :
    ∃ l, (c.ethCount p m item place n).mac p k = { c.mac p k with cnt := l } := by
  rcases eq_or_ne k m with rfl | hk
  · exact ⟨_, Chip.mac_modMac_self _ _ _ _⟩
  · exact ⟨_, Chip.mac_modMac_ne hk _ _ _⟩

@[simp] theorem Chip.ethCount_paused (c : Chip) (p m item place n k : Nat) :
    ((c.ethCount p m item place n).mac p k).paused = (c.mac p k).paused := by
  obtain ⟨l, h⟩ := c.ethCount_mac p m item place n k
  rw [h]

@[simp] theorem Chip.ethCount_wire (c : Chip) (p m item place n k : Nat) :
    ((c.ethCount p m item place n).mac p k).wire = (c.mac p k).wire := by
  obtain ⟨l, h⟩ := c.ethCount_mac p m item place n k
  rw [h]

theorem Chip.macUp_of_ctl {d : Chip} (h : d.ctl = c.ctl) (p m : Nat) : d.macUp p m = c.macUp p m := by
  rw [Chip.macUp, Chip.reg_of_ctl h, Chip.macUp]

/-- A turn of each MAC of a list that changes its own MAC and no register: what a part of one MAC becomes. -/
structure MacTurns {β : Type} (f : Chip → Nat → Chip) (k : Ctl) (p : Nat) (part : EthMac → β) (g : Nat → β → β) : Prop where
  ctl (d : Chip) (j : Nat) : (f d j).ctl = d.ctl
  self (d : Chip) (j : Nat) : d.ctl = k → part ((f d j).mac p j) = g j (part (d.mac p j))
  others (d : Chip) {j n : Nat} : n ≠ j → (f d j).mac p n = d.mac p n

theorem MacTurns.foldl_others {β : Type} {f : Chip → Nat → Chip} {k : Ctl} {part : EthMac → β} {g : Nat → β → β}
    (h : MacTurns f k p part g) {l : List Nat} (hm : m ∉ l) (c : Chip) : (l.foldl f c).mac p m = c.mac p m := by
  induction l generalizing c with
  | nil => rfl
  | cons j t ih =>
    exact (ih (fun ht => hm (List.mem_cons_of_mem j ht)) _).trans (h.others c (List.ne_of_not_mem_cons hm))

theorem MacTurns.foldl_self {β : Type} {f : Chip → Nat → Chip} {k : Ctl} {part : EthMac → β} {g : Nat → β → β}
    (h : MacTurns f k p part g) {l : List Nat} (hl : l.Nodup) (hm : m ∈ l) (hc : c.ctl = k) :
    part ((l.foldl f c).mac p m) = g m (part (c.mac p m)) := by
  induction l generalizing c with
  | nil => exact absurd hm List.not_mem_nil
  | cons j t ih =>
    obtain ⟨hj, ht⟩ := List.nodup_cons.mp hl
    rcases eq_or_ne m j with rfl | hne
    · exact (congrArg part (h.foldl_others hj _)).trans (h.self c m hc)
    · refine (ih ht ((List.mem_cons.mp hm).resolve_left hne) ((h.ctl c j).trans hc)).trans ?_
      rw [h.others c hne]

end mac

/-! Links (R260, R291). -/

section link
variable {c : Chip} {p m k : Nat}

/-- The bits of a MAC in ETH_LINK: UP and FAULT's companion, one in each byte. -/
theorem linkBits_getLsbD : ∀ m < 8, ∀ k < 32,
    (BitVec.ofNat 32 (2 ^ m + 2 ^ (8 + m))).getLsbD k = (decide (k = m) || decide (k = 8 + m)) := by decide

theorem Chip.ethLinkUp_link (hrun : c.unitRuns (uEth p) = true) (hen : (c.reg (uEth p) 0 0x1044).getLsbD m = true)
    (hm : m < c.macCount p) (h8 : m < 8) (hk : k < 32) :
    ((c.ethLinkUp p m).reg (uEth p) 0 0x1048).getLsbD k =
      ((c.reg (uEth p) 0 0x1048).getLsbD k || (decide (k = m) || decide (k = 8 + m))) := by
  have hup : c.ethLinkUp p m = c.orReg (uEth p) 0 0x1048 (BitVec.ofNat 32 (2 ^ m + 2 ^ (8 + m))) := by
    rw [Chip.ethLinkUp, hrun, hen, decide_eq_true hm]
    rfl
  rw [hup, Chip.orReg, Chip.reg_setReg_self, BitVec.getLsbD_or, linkBits_getLsbD m h8 k hk]

/-- What a link that goes down leaves of one ring (R291). -/
def Chip.loseRing (p m : Nat) (c : Chip) (n : Nat) : Chip :=
  let lost (d : Desc) : Bool := d.started && d.fin.isNone
  let q := n - 2 ^ 16
  if 2 ^ 16 ≤ n ∧ q < 8192 ∧ c.txPort q = p ∧ c.txMac q = m then
    (c.ethCount p m 6 0 (((c.ring (.tx q)).descs.filter lost).map fun d => d.left.length).sum).modRing (.tx q) fun x =>
      { x with descs := x.descs.map fun (d : Desc) =>
          if lost d then { d with fin := some (if d.poison then 0x0A else 0), info := 0, left := [] } else d }
  else c

theorem Chip.linkLoss_eq (c : Chip) (p m : Nat) : c.linkLoss p m = (c.rings.map (·.1)).foldl (Chip.loseRing p m) c := rfl

@[simp] theorem Chip.loseRing_ctl (c : Chip) (p m n : Nat) : (c.loseRing p m n).ctl = c.ctl := by
  unfold Chip.loseRing
  dsimp only
  split <;> rfl

theorem Chip.foldl_loseRing_ctl (c : Chip) (p m : Nat) (l : List Nat) : (l.foldl (Chip.loseRing p m) c).ctl = c.ctl :=
  List.foldlRecOn (motive := fun d => d.ctl = c.ctl) l (Chip.loseRing p m) rfl fun d hd n _ => (d.loseRing_ctl p m n).trans hd

theorem Chip.ethLinkDown_link (h8 : m < 8) (hk : k < 32) :
    ((c.ethLinkDown p m).reg (uEth p) 0 0x1048).getLsbD k =
      ((c.reg (uEth p) 0 0x1048).getLsbD k && !(decide (k = m) || decide (k = 8 + m))) := by
  have hreg : (c.linkLoss p m).reg (uEth p) 0 0x1048 = c.reg (uEth p) 0 0x1048 :=
    Chip.reg_of_ctl (c.foldl_loseRing_ctl p m _) _ _ _
  have hbit (x : Word) (b : Nat) : (setFld x b b 0).getLsbD k = (x.getLsbD k && !decide (k = b)) := by
    rw [setFld_getLsbD x b b 0 k hk, Nat.zero_testBit]
    rcases eq_or_ne k b with rfl | hne
    · simp
    · rw [if_neg (by omega)]
      simp [hne]
  rw [Chip.ethLinkDown, if_pos h8, Chip.setRegFld, Chip.setRegFld, Chip.reg_setReg_self, Chip.reg_setReg_self, hreg, hbit, hbit,
    Bool.not_or, Bool.and_assoc]

end link

/-! Pauses (R290). -/

section pause
variable {c : Chip} {p m prio : Nat}

/-- The paused priorities after those below `n` that a frame names, and the port obeys, have stopped or resumed. -/
def pausedBy (obeyed on : Nat → Bool) (n : Nat) (v : BitVec 8) : BitVec 8 :=
  (List.range n).foldl (fun (v : BitVec 8) i =>
    if obeyed i then (if on i then v ||| BitVec.twoPow 8 i else v &&& ~~~ BitVec.twoPow 8 i) else v) v

theorem bitSet_getLsbD (v : BitVec 8) (n : Nat) {i : Nat} (hi : i < 8) :
    (v ||| BitVec.twoPow 8 n).getLsbD i = (v.getLsbD i || decide (i = n)) := by
  rw [BitVec.getLsbD_or, BitVec.getLsbD_twoPow]
  rcases eq_or_ne i n with rfl | hne
  · rw [decide_eq_true hi, decide_eq_true rfl, Bool.true_and]
  · rw [decide_eq_false hne, decide_eq_false hne.symm, Bool.and_false]

theorem bitClear_getLsbD (v : BitVec 8) (n : Nat) {i : Nat} (hi : i < 8) :
    (v &&& ~~~ BitVec.twoPow 8 n).getLsbD i = (v.getLsbD i && !decide (i = n)) := by
  rw [BitVec.getLsbD_and, BitVec.getLsbD_not, BitVec.getLsbD_twoPow, decide_eq_true hi, Bool.true_and]
  rcases eq_or_ne i n with rfl | hne
  · rw [decide_eq_true hi, decide_eq_true rfl, Bool.true_and]
  · rw [decide_eq_false hne, decide_eq_false hne.symm, Bool.and_false]

theorem pausedBy_succ (obeyed on : Nat → Bool) (n : Nat) (v : BitVec 8) :
    pausedBy obeyed on (n + 1) v = if obeyed n then
      (if on n then pausedBy obeyed on n v ||| BitVec.twoPow 8 n else pausedBy obeyed on n v &&& ~~~ BitVec.twoPow 8 n)
      else pausedBy obeyed on n v := by
  rw [pausedBy, List.range_succ, List.foldl_append]
  rfl

theorem pausedBy_getLsbD (obeyed on : Nat → Bool) (v : BitVec 8) {i : Nat} (hi : i < 8) (n : Nat) :
    (pausedBy obeyed on n v).getLsbD i = if i < n ∧ obeyed i = true then on i else v.getLsbD i := by
  induction n with
  | zero => simp [pausedBy]
  | succ n ih =>
    have hstep : (pausedBy obeyed on (n + 1) v).getLsbD i =
        if i = n ∧ obeyed n = true then on n else (pausedBy obeyed on n v).getLsbD i := by
      rw [pausedBy_succ]
      split
      next hob =>
        split
        next hon => rw [bitSet_getLsbD _ _ hi, hob, hon]; grind
        next hon => rw [bitClear_getLsbD _ _ hi, hob, Bool.eq_false_iff.mpr hon]; grind
      next hob => rw [if_neg fun h => hob h.2]
    rw [hstep, ih]
    rcases eq_or_ne i n with rfl | hne
    · simp
    · simp [hne, show i < n + 1 ↔ i < n by omega]

theorem obeyed_getLsbD (w : Word) {i : Nat} (hi : i < 8) : (BitVec.ofNat 8 (fld w 7 0)).getLsbD i = w.getLsbD i := by
  rw [BitVec.getLsbD_ofNat, fld_testBit, Nat.zero_add, decide_eq_true hi, Bool.true_and, Bool.true_and]

/-- A PFC frame (R290). -/
theorem Chip.pauseReceive_pfc (hup : c.macUp p m = true) (hpfc : c.regFld (uEth p) 0 0x1050 16 16 = 0) (prios : BitVec 8)
    (quanta : List Nat) {i : Nat} (hi : i < 8) :
    ((c.pauseReceive p m prios quanta).mac p m).paused.getLsbD i =
      if prios.getLsbD i = true ∧ (c.reg (uEth p) 0 0x1050).getLsbD i = true then decide (quanta.getD i 0 ≠ 0)
      else (c.mac p m).paused.getLsbD i := by
  have hregs : (c.ethCount p m 4 0).regFld (uEth p) 0 0x1050 = c.regFld (uEth p) 0 0x1050 := rfl
  have hframe : ((c.pauseReceive p m prios quanta).mac p m).paused =
      pausedBy (fun i => prios.getLsbD i && (BitVec.ofNat 8 (c.regFld (uEth p) 0 0x1050 7 0)).getLsbD i)
        (fun i => decide (quanta.getD i 0 ≠ 0)) 8 (c.mac p m).paused := by
    rw [Chip.pauseReceive, hup, Bool.not_true, if_neg Bool.false_ne_true]
    dsimp only
    rw [hregs, if_neg (by omega), Chip.mac_modMac_self, Chip.ethCount_paused]
    rfl
  rw [hframe, pausedBy_getLsbD _ _ _ hi, Chip.regFld, obeyed_getLsbD _ hi]
  simp only [hi, true_and, Bool.and_eq_true]

/-- A PAUSE frame (R290). -/
theorem Chip.pauseReceive_pause (hup : c.macUp p m = true) (hpause : c.regFld (uEth p) 0 0x1050 16 16 = 1) (prios : BitVec 8)
    (quanta : List Nat) :
    ((c.pauseReceive p m prios quanta).mac p m).paused = if quanta.getD 0 0 ≠ 0 then 0xFF else 0 := by
  have hregs : (c.ethCount p m 4 0).regFld (uEth p) 0 0x1050 = c.regFld (uEth p) 0 0x1050 := rfl
  rw [Chip.pauseReceive, hup, Bool.not_true, if_neg Bool.false_ne_true]
  dsimp only
  rw [hregs, if_pos hpause, Chip.mac_modMac_self]
  simp only [decide_eq_true_eq]

/-- The pause time of a priority ends on each MAC (R290). -/
theorem Chip.pauseExpiry_paused (hpfc : c.regFld (uEth p) 0 0x1050 16 16 = 0) (h8 : m < 8) (prio : Nat) :
    ((c.pauseExpiry p prio).mac p m).paused = (c.mac p m).paused &&& ~~~ BitVec.twoPow 8 prio := by
  have hturns : MacTurns (fun (c : Chip) m => c.modMac p m fun x =>
      { x with paused := if c.regFld (uEth p) 0 0x1050 16 16 = 1 then 0 else x.paused &&& ~~~ BitVec.twoPow 8 prio })
      c.ctl p EthMac.paused fun _ v => v &&& ~~~ BitVec.twoPow 8 prio :=
    { ctl := fun _ _ => rfl
      self := fun d j hd => by
        rw [Chip.mac_modMac_self, Chip.regFld_of_ctl hd, if_neg (by omega)]
      others := fun d j n hne => Chip.mac_modMac_ne hne d p _ }
  exact hturns.foldl_self List.nodup_range (List.mem_range.mpr h8) rfl

end pause

/-! XON (R293). -/

section xon
variable {c : Chip} {p m : Nat}

/-- A MAC's turn when its port sends a pause frame. -/
def Chip.macPause (p : Nat) (prios : BitVec 8) (xoff : Bool) (c : Chip) (m : Nat) : Chip :=
  if c.macUp p m then (c.modMac p m fun x => { x with wire := x.wire ++ [.pause prios xoff] }).ethCount p m 4 1 else c

theorem Chip.sendPause_eq (c : Chip) (p : Nat) (prios : BitVec 8) (xoff : Bool) :
    c.sendPause p prios xoff = (List.range (c.macCount p)).foldl (Chip.macPause p prios xoff) c := rfl

theorem Chip.sendPause_xoff (c : Chip) (p : Nat) (prios : BitVec 8) (xoff : Bool) :
    ((c.sendPause p prios xoff).eth p).xoff = (c.eth p).xoff := by
  refine List.foldlRecOn (motive := fun d : Chip => (d.eth p).xoff = (c.eth p).xoff) _ (Chip.macPause p prios xoff) rfl fun d hd j _ => ?_
  unfold Chip.macPause
  split
  · rw [Chip.ethCount, Chip.modMac_xoff, Chip.modMac_xoff, hd]
  · exact hd

theorem Chip.sendPause_wire (hm : m < c.macCount p) (hup : c.macUp p m = true) (prios : BitVec 8) (xoff : Bool) :
    ((c.sendPause p prios xoff).mac p m).wire = (c.mac p m).wire ++ [.pause prios xoff] := by
  have hturns : MacTurns (Chip.macPause p prios xoff) c.ctl p EthMac.wire
      fun j l => if c.macUp p j then l ++ [.pause prios xoff] else l :=
    { ctl := fun d j => by
        unfold Chip.macPause
        split <;> rfl
      self := fun d j hd => by
        rw [Chip.macPause, Chip.macUp_of_ctl hd]
        split
        · rw [Chip.ethCount_wire, Chip.mac_modMac_self]
        · rfl
      others := fun d j n hne => by
        unfold Chip.macPause
        split
        · rw [Chip.ethCount, Chip.mac_modMac_ne hne, Chip.mac_modMac_ne hne]
        · rfl }
  rw [Chip.sendPause_eq, hturns.foldl_self List.nodup_range (List.mem_range.mpr hm) rfl, hup, if_pos rfl]

/-- A priority resumed below the threshold. -/
theorem Chip.ethXon_resumes {prio : Nat} (hprio : prio < 8) (hpfc : c.regFld (uEth p) 0 0x1050 16 16 = 0)
    (hoff : (c.eth p).xoff.getLsbD prio = true) (hlow : (c.eth p).occupancy (some prio) < c.regFld (uEth p) 0 0x1054 26 16 * 1024) :
    c.ethXon p prio =
      (c.modEth p fun x => { x with xoff := x.xoff &&& ~~~ BitVec.twoPow 8 prio }).sendPause p (BitVec.twoPow 8 prio) false := by
  rw [Chip.ethXon, if_neg (by omega), if_pos ⟨hprio, hoff, hlow⟩]

end xon

/-- Settles O32: the link's bits, the pauses of each kind of frame and their end, and the resumed priority. -/
theorem ethernetLinksAndPauses : Obligations.EthernetLinksAndPauses := by
  intro s p m prio prios quanta c u pfc hp hm hprio
  refine ⟨?_, ?_, ?_, ?_, ?_, ?_⟩
  · intro hrun hen hcount
    refine RunsTo.of_fuseless (·.ethLinkUp p m) rfl ?_ fun _ _ hd => hd
    have hlink {k : Nat} (hk : k < 32) := Chip.ethLinkUp_link hrun hen hcount hm hk
    refine ⟨(hlink (by omega)).trans (by simp), (hlink (by omega)).trans (by simp), fun k hk hne hne8 => ?_⟩
    exact (hlink hk).trans (by simp [hne, hne8, u])
  · refine RunsTo.of_fuseless (·.ethLinkDown p m) rfl ?_ fun _ _ hd => hd
    have hlink {k : Nat} (hk : k < 32) := Chip.ethLinkDown_link (c := c) (p := p) hm hk
    refine ⟨(hlink (by omega)).trans (by simp), fun k hk hne hne8 => ?_⟩
    exact (hlink hk).trans (by simp [hne, hne8, u])
  · intro hup hpfc
    exact RunsTo.of_fuseless (·.pauseReceive p m prios quanta) rfl (fun i hi => Chip.pauseReceive_pfc hup hpfc prios quanta hi)
      fun _ _ hd => hd
  · intro hup hpause
    have hone : c.regFld u 0 0x1050 16 16 = 1 := by
      have hlt : c.regFld u 0 0x1050 16 16 < 2 := fld_lt _ 16 16
      have hne : c.regFld u 0 0x1050 16 16 ≠ 0 := hpause
      omega
    exact RunsTo.of_fuseless (·.pauseReceive p m prios quanta) rfl (Chip.pauseReceive_pause hup hone prios quanta) fun _ _ hd => hd
  · intro hpfc
    refine RunsTo.of_fuseless (·.pauseExpiry p prio) rfl ?_ fun _ _ hd => hd
    rw [Chip.pauseExpiry_paused hpfc hm]
    refine ⟨by simp [bitClear_getLsbD _ _ hprio], fun i hne => ?_⟩
    by_cases hi : i < 8
    · rw [bitClear_getLsbD _ _ hi, decide_eq_false hne, Bool.not_false, Bool.and_true]
    · rw [BitVec.getLsbD_of_ge _ _ (by omega), BitVec.getLsbD_of_ge _ _ (by omega)]
  · intro hpfc hoff hlow
    refine RunsTo.of_fuseless (·.ethXon p prio) rfl ?_ fun _ _ hd => hd
    rw [show s.chip.ethXon p prio = _ from Chip.ethXon_resumes hprio hpfc hoff hlow, Chip.sendPause_xoff, Chip.modEth_self]
    refine ⟨rfl, fun hcount hup => ?_⟩
    exact (Chip.sendPause_wire (by exact hcount) (by exact hup) _ _).trans (by rw [Chip.mac_modEth rfl])

end Sys2Proof.Machine
end

section
/-! Transmit queues (R285, R290, R291): what a turn of a queue leaves of its MAC's wire and of its ring, the turn that starts a
descriptor and the one that goes on with it, and the link that goes down; from these the statement. -/

namespace Sys2Proof.Machine

/-! Frames handed to a MAC (R291). -/

section hand
variable {c : Chip} {p m q : Nat} {d : Desc} {fs : List (List Byte)} {bad : Bool}

@[simp] theorem Chip.handFrames_ring (c : Chip) (p m : Nat) (fs : List (List Byte)) (bad : Bool) (r : RingId) :
    (c.handFrames p m fs bad).ring r = c.ring r := by
  rw [Chip.handFrames]
  exact List.foldlRecOn (motive := fun d : Chip => d.ring r = c.ring r) fs _ rfl fun d hd f _ => hd

theorem Chip.handFrames_wire (c : Chip) (p m : Nat) (fs : List (List Byte)) (bad : Bool) :
    ((c.handFrames p m fs bad).mac p m).wire = (c.mac p m).wire ++ fs.map fun f => .frame (pad60 f) bad := by
  induction fs generalizing c with
  | nil => exact (List.append_nil _).symm
  | cons f t ih =>
    rw [Chip.handFrames, List.foldl_cons, ← Chip.handFrames, ih, Chip.ethCount_wire, Chip.ethCount_wire, Chip.mac_modMac_self,
      List.append_assoc, List.map_cons, List.singleton_append]

/-- What a turn of a queue's descriptor hands to the MAC and takes from the deficit and the limiter (R290, R416). -/
def Chip.paidFrames (c : Chip) (q : Nat) (fs : List (List Byte)) (bad : Bool) : Chip :=
  let p := c.txPort q
  let m := c.txMac q
  let sent := (fs.map fun f => max 60 f.length).sum
  let e := (c.handFrames p m fs bad).modMac p m fun x => { x with deficit := Sparse.upd x.deficit 0 q fun v => v - (sent : Nat) }
  match c.limiterOf q with
  | some l => { e with limiters := Sparse.put e.limiters l { tokens := e.limiterTokens l - ((8 * sent : Nat) : Int), last := e.mtime.toNat } }
  | none => e

theorem Chip.paidFrames_ring (c : Chip) (q : Nat) (fs : List (List Byte)) (bad : Bool) (r : RingId) :
    (c.paidFrames q fs bad).ring r = c.ring r := by
  unfold Chip.paidFrames
  dsimp only
  split <;> exact c.handFrames_ring _ _ fs bad r

theorem Chip.paidFrames_wire (c : Chip) (q : Nat) (fs : List (List Byte)) (bad : Bool) :
    ((c.paidFrames q fs bad).mac (c.txPort q) (c.txMac q)).wire =
      (c.mac (c.txPort q) (c.txMac q)).wire ++ fs.map fun f => .frame (pad60 f) bad := by
  have hpaid (g : EthMac → Sparse Int) :
      (((c.handFrames (c.txPort q) (c.txMac q) fs bad).modMac (c.txPort q) (c.txMac q) fun x => { x with deficit := g x }).mac
        (c.txPort q) (c.txMac q)).wire = _ := (congrArg EthMac.wire (Chip.mac_modMac_self _ _ _ _)).trans (c.handFrames_wire _ _ fs bad)
  unfold Chip.paidFrames
  dsimp only
  split <;> exact hpaid _

end hand

/-! A turn of a queue (R290, R291). -/

section turn
variable {c : Chip} {p m q op : Nat} {d : Desc} {df : Sparse Int} {parts : Desc → List (Nat × Nat)} {inline : Desc → List Byte}

/-- The frames that the deficit and the limiter of a queue let its MAC take. -/
def Chip.txTakes (c : Chip) (p m q : Nat) (l : List (List Byte)) : Nat :=
  drrTake (Sparse.at (c.mac p m).deficit 0 q) ((c.limiterOf q).map c.limiterTokens) l

/-- A queue's descriptor after a turn in which its MAC took `n` frames. -/
def Desc.afterTurn (d : Desc) (n : Nat) (e : Desc) : Desc :=
  if n < d.left.length then { e with left := d.left.drop n, produced := d.produced + n }
  else { e with started := true, fin := some (if d.poison then 0x0A else 0), consumed := d.consumed, produced := d.produced + n,
                info := 0, left := [] }

theorem Desc.afterTurn_of_lt {n : Nat} (h : n < d.left.length) :
    d.afterTurn n = fun e => { e with left := d.left.drop n, produced := d.produced + n } := funext fun _ => if_pos h

theorem Desc.afterTurn_of_not_lt {n : Nat} (h : ¬ n < d.left.length) :
    d.afterTurn n = fun e => { e with started := true, fin := some (if d.poison then 0x0A else 0), consumed := d.consumed,
                                      produced := d.produced + n, info := 0, left := [] } := funext fun _ => if_neg h

/-- A ring one of whose descriptors changed. -/
def Ring.modDesc (x : Ring) (idx : Nat) (f : Desc → Desc) : Ring :=
  { x with descs := x.descs.map fun (d : Desc) => if d.idx = idx then f d else d }

@[simp] theorem Chip.ring_modDesc_self (c : Chip) (r : RingId) (idx : Nat) (f : Desc → Desc) :
    (c.modDesc r idx f).ring r = (c.ring r).modDesc idx f := Chip.ring_modRing_self c r _

/-- Two changes of one descriptor, the first of which keeps its index. -/
theorem Ring.modDesc_modDesc {f : Desc → Desc} {idx : Nat} (hf : ∀ e, e.idx = idx → (f e).idx = idx) (x : Ring) (g : Desc → Desc) :
    (x.modDesc idx f).modDesc idx g = x.modDesc idx fun e => g (f e) := by
  have hone (e : Desc) : (if (if e.idx = idx then f e else e).idx = idx then g (if e.idx = idx then f e else e)
      else (if e.idx = idx then f e else e)) = if e.idx = idx then g (f e) else e := by
    by_cases he : e.idx = idx
    · rw [if_pos he, if_pos (hf e he), if_pos he]
    · rw [if_neg he, if_neg he, if_neg he]
  simp only [Ring.modDesc, List.map_map, Function.comp_def, hone]

theorem Chip.txTurn_eq (c : Chip) (q : Nat) (d : Desc) :
    c.txTurn q d =
      let n := c.txTakes (c.txPort q) (c.txMac q) q d.left
      let e := c.paidFrames q (d.left.take n) d.poison
      if n < d.left.length then e.modDesc (.tx q) d.idx fun x => { x with left := d.left.drop n, produced := d.produced + n }
      else (e.modDesc (.tx q) d.idx fun x => { x with left := [] }).finish (.tx q) d.idx (if d.poison then 0x0A else 0) d.consumed
        (d.produced + n) 0 := by
  unfold Chip.txTurn Chip.txTakes Chip.paidFrames
  generalize c.limiterOf q = lim
  rfl

theorem Chip.mac_modDesc (c : Chip) (r : RingId) (idx : Nat) (f : Desc → Desc) (p m : Nat) : (c.modDesc r idx f).mac p m = c.mac p m := rfl

theorem Chip.mac_finish (c : Chip) (r : RingId) (idx st ln n info p m : Nat) : (c.finish r idx st ln n info).mac p m = c.mac p m := rfl

theorem Chip.txTurn_wire (c : Chip) (q : Nat) (d : Desc) :
    ((c.txTurn q d).mac (c.txPort q) (c.txMac q)).wire = (c.mac (c.txPort q) (c.txMac q)).wire ++
      (d.left.take (c.txTakes (c.txPort q) (c.txMac q) q d.left)).map fun f => .frame (pad60 f) d.poison := by
  rw [Chip.txTurn_eq]
  dsimp only
  split
  · rw [Chip.mac_modDesc, Chip.paidFrames_wire]
  · rw [Chip.mac_finish, Chip.mac_modDesc, Chip.paidFrames_wire]

theorem Chip.txTurn_ring (c : Chip) (q : Nat) (d : Desc) :
    (c.txTurn q d).ring (.tx q) =
      (c.ring (.tx q)).modDesc d.idx (d.afterTurn (c.txTakes (c.txPort q) (c.txMac q) q d.left)) := by
  rw [Chip.txTurn_eq]
  dsimp only
  split
  next hn =>
    rw [Chip.ring_modDesc_self, Chip.paidFrames_ring, Desc.afterTurn_of_lt hn]
  next hn =>
    rw [Chip.finish, Chip.ring_modDesc_self, Chip.ring_modDesc_self, Chip.paidFrames_ring, Ring.modDesc_modDesc (by exact fun _ he => he),
      Desc.afterTurn_of_not_lt hn]

/-- The round robin of a queue's MAC serves the queue, with a descriptor of an opcode (R290). -/
structure Chip.Serves (c : Chip) (q op : Nat) (d : Desc) (df : Sparse Int) : Prop where
  opcode : d.opcode = op
  up : c.macUp (c.txPort q) (c.txMac q) = true
  pick : drrPick (fun q => 1024 * c.regFld uFlow (8192 + q) 0x1098 31 24) (c.txReadyOf (c.txPort q) (c.txMac q))
    (c.mac (c.txPort q) (c.txMac q)).cur (c.mac (c.txPort q) (c.txMac q)).deficit = some (q, df)

/-- The round robin's new place. -/
def Chip.served (c : Chip) (q : Nat) (df : Sparse Int) : Chip :=
  c.modMac (c.txPort q) (c.txMac q) fun x => { x with cur := q, deficit := df }

/-- A descriptor that goes on. -/
theorem Chip.txRun_goes (hs : c.Serves q op d df) (hd : c.txStarted q = some d) (hstarted : d.started = true) :
    c.txRun (.tx q) op parts inline = (c.served q df).txTurn q d := by
  have hnext : (c.txStarted q <|> c.startable (.tx q)) = some d := by rw [hd]; rfl
  rw [Chip.txRun, hnext]
  dsimp only
  rw [hs.pick, if_neg (by simp [hs.opcode, hs.up]), if_pos hstarted]
  rfl

/-- One part of what a transmit descriptor sends, read after the parts before it (R285). -/
def readPart (iid : Nat) (s : List Byte × Bool × Nat × Chip) (part : Nat × Nat) : List Byte × Bool × Nat × Chip :=
  if s.2.2.1 = 0 then
    let (b, pz, st, c) := s.2.2.2.readBuf iid part.1 part.2
    (s.1 ++ b, s.2.1 || pz, st, c)
  else s

theorem readPart_read {c d : Chip} {iid iova n st : Nat} {bs : List Byte} {p : Bool} (h : c.readBuf iid iova n = (bs, p, st, d))
    (acc : List Byte) : readPart iid (acc, false, 0, c) (iova, n) = (acc ++ bs, p, st, d) := by
  rw [readPart, if_pos rfl]
  dsimp only
  rw [h]
  simp only [Bool.false_or]

/-- What the bytes of a descriptor that starts make of it: frames, or an error (R285-R289). -/
def Chip.txBegin (q : Nat) (d : Desc) (got : List Byte × Bool × Nat × Chip) (p : Nat) : Chip :=
  let (bs, poison, st, c) := got
  if st ≠ 0 then c.finish (.tx q) d.idx st bs.length 0 0
  else match txFrames d (c.maxFrame p) bs with
    | none => c.finish (.tx q) d.idx 0x05 bs.length 0 0
    | some fs =>
      let x : Desc := { d with started := true, consumed := bs.length, produced := 0, poison := poison, left := fs }
      (c.modDesc (.tx q) d.idx fun _ => x).txTurn q x

/-- A descriptor that has its turn and has not started begins with what its parts hold. -/
theorem Chip.txRun_begins (hs : c.Serves q op d df) (hnone : c.txStarted q = none) (hd : c.startable (.tx q) = some d)
    (hidle : d.started = false) :
    c.txRun (.tx q) op parts inline =
      Chip.txBegin q d ((parts d).foldl (readPart (c.ringOwner (.tx q))) (inline d, false, 0, c.served q df)) (c.txPort q) := by
  have hnext : (c.txStarted q <|> c.startable (.tx q)) = some d := by rw [hnone, hd]; rfl
  rw [Chip.txRun, hnext]
  dsimp only
  rw [hs.pick, if_neg (by simp [hs.opcode, hs.up]), if_neg (by simp [hidle])]
  rfl

theorem Chip.txBegin_frames {bs : List Byte} {fs : List (List Byte)} (hfs : txFrames d (c.maxFrame p) bs = some fs) :
    Chip.txBegin q d (bs, false, 0, c) p =
      let x := { d with started := true, consumed := bs.length, produced := 0, poison := false, left := fs }
      (c.modDesc (.tx q) d.idx fun _ => x).txTurn q x := by
  rw [Chip.txBegin]
  dsimp only
  rw [if_neg (by simp), hfs]

/-- The descriptor that a start and its first turn leave. -/
def Desc.begun (d : Desc) (taken : Nat) (fs : List (List Byte)) (n : Nat) : Desc :=
  let e := { d with started := true, consumed := taken, produced := n, poison := false, left := fs.drop n }
  if n < fs.length then e else { e with fin := some 0, info := 0, left := [] }

theorem Desc.afterTurn_begun (d : Desc) (taken : Nat) (fs : List (List Byte)) (n : Nat) (x : Desc)
    (hx : x = { d with started := true, consumed := taken, produced := 0, poison := false, left := fs }) :
    x.afterTurn n x = d.begun taken fs n := by
  subst hx
  simp only [Desc.afterTurn, Desc.begun, Nat.zero_add, Bool.false_eq_true, if_false]

theorem Chip.txBegin_wire {bs : List Byte} {fs : List (List Byte)} (hp : c.txPort q = p) (hm : c.txMac q = m)
    (hfs : txFrames d (c.maxFrame p) bs = some fs) :
    ((Chip.txBegin q d (bs, false, 0, c) p).mac p m).wire =
      (c.mac p m).wire ++ (fs.take (c.txTakes p m q fs)).map fun f => .frame (pad60 f) false := by
  subst hp hm
  rw [Chip.txBegin_frames hfs]
  exact Chip.txTurn_wire _ q _

theorem Chip.txBegin_ring {bs : List Byte} {fs : List (List Byte)} (hp : c.txPort q = p) (hm : c.txMac q = m)
    (hfs : txFrames d (c.maxFrame p) bs = some fs) :
    (Chip.txBegin q d (bs, false, 0, c) p).ring (.tx q) =
      (c.ring (.tx q)).modDesc d.idx fun _ => d.begun bs.length fs (c.txTakes p m q fs) := by
  subst hp hm
  rw [Chip.txBegin_frames hfs]
  dsimp only
  rw [Chip.txTurn_ring, Chip.ring_modDesc_self, Ring.modDesc_modDesc (by exact fun _ _ => rfl)]
  exact congrArg _ (funext fun _ => Desc.afterTurn_begun d _ fs _ _ rfl)

end turn

/-! A link that goes down (R291). -/

section linkDown
variable {c : Chip} {p m q : Nat}

/-- Every started descriptor of a list has ended. -/
def Ended (l : List Desc) : Prop := ∀ e ∈ l, e.started = true → e.fin.isSome = true

/-- A descriptor that meets link loss. -/
def Desc.lost (d : Desc) : Desc :=
  if d.started && d.fin.isNone then { d with fin := some (if d.poison then 0x0A else 0), info := 0, left := [] } else d

theorem Desc.lost_ended (d : Desc) (h : d.lost.started = true) : d.lost.fin.isSome = true := by
  unfold Desc.lost at h ⊢
  split
  · rfl
  next hgoes =>
    rw [if_neg hgoes] at h
    simpa [h, Option.isSome_iff_ne_none] using hgoes

theorem ended_map_lost (l : List Desc) : Ended (l.map Desc.lost) := by
  intro e he
  obtain ⟨d, -, rfl⟩ := List.mem_map.mp he
  exact d.lost_ended

theorem Chip.ring_modRing_ne {r x : RingId} (h : ringKey x ≠ ringKey r) (c : Chip) (f : Ring → Ring) : (c.modRing r f).ring x = c.ring x :=
  Sparse.at_upd_ne h _ _ _

/-- The turn of the queue's own ring. -/
theorem Chip.loseRing_self (hq : q < 8192) (hp : c.txPort q = p) (hm : c.txMac q = m) :
    ((c.loseRing p m (2 ^ 16 + q)).ring (.tx q)).descs = (c.ring (.tx q)).descs.map Desc.lost := by
  rw [Chip.loseRing]
  dsimp only
  rw [Nat.add_sub_cancel_left, if_pos ⟨Nat.le_add_right _ _, hq, hp, hm⟩, Chip.ring_modRing_self]
  rfl

/-- The turn of any ring ends descriptors, never starts one. -/
theorem Chip.loseRing_ended (h : Ended (c.ring (.tx q)).descs) (n : Nat) : Ended ((c.loseRing p m n).ring (.tx q)).descs := by
  rw [Chip.loseRing]
  dsimp only
  split
  · rcases eq_or_ne (n - 2 ^ 16) q with rfl | hne
    · rw [Chip.ring_modRing_self]
      exact ended_map_lost _
    · rw [Chip.ring_modRing_ne (by simp only [ringKey]; omega)]
      exact h
  · exact h

theorem Chip.txPort_of_ctl {d : Chip} (h : d.ctl = c.ctl) (q : Nat) : d.txPort q = c.txPort q := Chip.regFld_of_ctl h _ _ _ _ _

theorem Chip.txMac_of_ctl {d : Chip} (h : d.ctl = c.ctl) (q : Nat) : d.txMac q = c.txMac q := Chip.regFld_of_ctl h _ _ _ _ _

theorem Chip.foldl_loseRing_ended {l : List Nat} (hl : 2 ^ 16 + q ∈ l) (hq : q < 8192) (hp : c.txPort q = p) (hm : c.txMac q = m) :
    Ended ((l.foldl (Chip.loseRing p m) c).ring (.tx q)).descs := by
  induction l generalizing c with
  | nil => exact absurd hl List.not_mem_nil
  | cons n t ih =>
    rcases List.mem_cons.mp hl with rfl | ht
    · have hself : Ended ((c.loseRing p m (2 ^ 16 + q)).ring (.tx q)).descs := by
        rw [Chip.loseRing_self hq hp hm]
        exact ended_map_lost _
      exact List.foldlRecOn (motive := fun d : Chip => Ended (d.ring (.tx q)).descs) t (Chip.loseRing p m) hself
        fun d hd n _ => d.loseRing_ended hd n
    · have hctl := c.loseRing_ctl p m n
      exact ih ht ((Chip.txPort_of_ctl hctl q).trans hp) ((Chip.txMac_of_ctl hctl q).trans hm)

theorem Chip.ethLinkDown_ended (hq : q < 8192) (h8 : m < 8) (hp : c.txPort q = p) (hm : c.txMac q = m)
    (hring : (Sparse.find c.rings (ringKey (.tx q))).isSome = true) : Ended ((c.ethLinkDown p m).ring (.tx q)).descs := by
  obtain ⟨x, hx⟩ := Option.isSome_iff_exists.mp hring
  have hkey : 2 ^ 16 + q ∈ c.rings.map (·.1) := List.mem_map.mpr ⟨_, Sparse.mem_of_find hx, rfl⟩
  rw [Chip.ethLinkDown, if_pos h8]
  exact (Chip.foldl_loseRing_ended hkey hq hp hm :)

end linkDown

/-- Settles O35: each opcode's start and its further turns, and the link that goes down. -/
theorem transmitHandsFramesToItsMac : Obligations.TransmitHandsFramesToItsMac := by
  intro s q d a b c1 c2 fs df c r p m c0 turn starts goes takes desc sent on inl
  have hserves {op : Nat} (h : turn op) : c.Serves q op d df := by
    obtain ⟨hop, hup, hpick⟩ := h
    exact ⟨hop, hup, hpick⟩
  have hsent {op : Nat} {parts : Desc → List (Nat × Nat)} {inline : Desc → List Byte} {x : Chip} {bs : List Byte} (h : starts op)
      (hread : (parts d).foldl (readPart (c.ringOwner r)) (inline d, false, 0, c0) = (bs, false, 0, x)) (hkeep : KeepsQCtl c0 x)
      (hfs : txFrames d (x.maxFrame p) bs = some fs) : sent x bs (c.txRun r op parts inline) := by
    obtain ⟨hnone, hd, hidle, hturn⟩ := h
    have hp : x.txPort q = p := congrArg (fld · 0 0) (hkeep (8192 + q))
    have hm : x.txMac q = m := congrArg (fld · 3 1) (hkeep (8192 + q))
    have hrun : c.txRun r op parts inline = Chip.txBegin q d (bs, false, 0, x) p :=
      (Chip.txRun_begins (hserves hturn) hnone hd hidle).trans (congrArg (Chip.txBegin q d · p) hread)
    rw [hrun]
    exact ⟨Chip.txBegin_wire hp hm hfs, Chip.txBegin_ring hp hm hfs⟩
  have hgoes {op : Nat} {parts : Desc → List (Nat × Nat)} {inline : Desc → List Byte} (h : goes op) :
      on (c.txRun r op parts inline) := by
    obtain ⟨hd, hstarted, hturn⟩ := h
    have hwire : (c0.mac p m).wire = (c.mac p m).wire := (congrArg EthMac.wire (Chip.mac_modMac_self c p m fun x => { x with cur := q, deficit := df }) :)
    rw [Chip.txRun_goes (hserves hturn) hd hstarted]
    refine ⟨(Chip.txTurn_wire c0 q d).trans (congrArg (· ++ _) hwire), (Chip.txTurn_ring c0 q d).trans ?_⟩
    simp only [ite_not]
    rfl
  refine ⟨?_, ?_, ?_, ?_, ?_, ?_, ?_⟩
  · intro hstarts hread hfs
    refine RunsTo.of_fuseless (·.txFrame r) rfl (hsent hstarts ?_ (Chip.readBuf_qctl hread) hfs) fun _ _ hd => hd
    exact readPart_read hread []
  · intro hstarts hread hread' hfs
    refine RunsTo.of_fuseless (·.txGather r) rfl
      (hsent hstarts ?_ ((Chip.readBuf_qctl hread).trans (Chip.readBuf_qctl hread')) hfs) fun _ _ hd => hd
    rw [List.foldl_cons, List.foldl_cons, List.foldl_nil, readPart_read hread, readPart_read hread']
    rfl
  · intro hstarts hfs
    exact RunsTo.of_fuseless (·.txInline r) rfl (hsent hstarts rfl (KeepsQCtl.refl c0) hfs) fun _ _ hd => hd
  · exact fun h => RunsTo.of_fuseless (·.txFrame r) rfl (hgoes h) fun _ _ hd => hd
  · exact fun h => RunsTo.of_fuseless (·.txGather r) rfl (hgoes h) fun _ _ hd => hd
  · exact fun h => RunsTo.of_fuseless (·.txInline r) rfl (hgoes h) fun _ _ hd => hd
  · intro hq _ hm hring
    exact RunsTo.of_fuseless (·.ethLinkDown p m) rfl (Chip.ethLinkDown_ended hq hm rfl rfl hring) fun _ _ hd => hd

end Sys2Proof.Machine
end

section
/-! Rings enabled, disabled and quiesced (R274, R302, R331, R351, R395, R407): the register that enables each ring, what an
accepted write of it does to its ring, the hart that a queue serves; from these the statement. -/

namespace Sys2Proof.Machine

section store
variable {c : Chip} {src : Src} {u off b o : Nat} {r : RegDef} {v : Word}

/-- Storing of a register that is no view of another leaves the registers at other offsets. -/
theorem Chip.reg_regStore_ne (hft : ftAdmin u off = false) (hne : o ≠ off) (hlt : o < 2 ^ 28) (hoff : off < 2 ^ 28) (w : Nat) :
    (c.regStore src u off r v).reg w b o = c.reg w b o := by
  have hplace : c.place src u off = (u, c.bankOf u off, off) := by rw [Chip.place, hft, if_neg Bool.false_ne_true]
  have hset (x : Word) : (c.setReg u (c.bankOf u off) off x).reg w b o = c.reg w b o :=
    Chip.reg_setReg_ne (by unfold regKey; omega) c x
  unfold Chip.regStore
  simp only [hplace]
  split
  · rfl
  · exact hset _

theorem Chip.regFld_regStore_ne (hft : ftAdmin u off = false) (hne : o ≠ off) (hlt : o < 2 ^ 28) (hoff : off < 2 ^ 28) (w hi lo : Nat) :
    (c.regStore src u off r v).regFld w b o hi lo = c.regFld w b o hi lo := by
  rw [Chip.regFld, Chip.reg_regStore_ne hft hne hlt hoff, Chip.regFld]

end store

/-! The enable register of a ring (R302, R331, R351, R395, R415). -/

section enable
variable {c : Chip} {src : Src} {r : RingId} {x : RegDef} {v : Word}

/-- The block and the offset of the register with a ring's EN. -/
def enReg : RingId → Nat × Nat
  | .rx _ => (uFlow, 0x109C)
  | .tx _ => (uFlow, 0x109C)
  | .sh e _ => (uShears e, 0x1058)
  | .dv d _ => (uDrover d, 0x1064)
  | .adm _ => (uIm, 0x109C)

/-- The ring is of one of the two engines or the two clusters, if of an engine or a cluster. -/
def InUnit (r : RingId) : Prop := ∀ e n, (r = .sh e n ∨ r = .dv e n) → e < 2

theorem InUnit.kindOf_sh {e n : Nat} (h : InUnit (.sh e n)) : kindOf (uShears e) = .shears := kindOf_uShears (h e n (.inl rfl))

theorem InUnit.kindOf_dv {d n : Nat} (h : InUnit (.dv d n)) : kindOf (uDrover d) = .droverCluster := kindOf_uDrover (h d n (.inr rfl))

theorem kindOf_uFlow : kindOf uFlow = .flowTable := rfl

theorem kindOf_uIm : kindOf uIm = .instMgmt := rfl

theorem ftAdmin_enReg (r : RingId) : ftAdmin (enReg r).1 (enReg r).2 = false := by
  cases r <;> simp [enReg, ftAdmin, uIm, uFlow]

/-- An enable register, and no selector of a ring. -/
theorem enReg_off (r : RingId) : (enReg r).2 < 2 ^ 28 ∧ 0x1054 < (enReg r).2 ∧ (enReg r).2 ≠ 0x1094 := by
  cases r <;> simp [enReg]

/-- The selector of a ring's registers is not the enable register, so that a write of the latter leaves it. -/
theorem Chip.bankOf_regStore_enReg (hr : InUnit r) :
    (c.regStore src (enReg r).1 (enReg r).2 x v).bankOf (enReg r).1 (enReg r).2 = c.bankOf (enReg r).1 (enReg r).2 := by
  have hsel {o : Nat} (ho : o ≤ 0x1054 ∨ o = 0x1094) (w hi lo : Nat) :
      (c.regStore src (enReg r).1 (enReg r).2 x v).regFld w 0 o hi lo = c.regFld w 0 o hi lo := by
    obtain ⟨hlt, hlow, hne⟩ := enReg_off r
    exact Chip.regFld_regStore_ne (ftAdmin_enReg r) (by omega) (by omega) hlt w hi lo
  generalize c.regStore src (enReg r).1 (enReg r).2 x v = d at hsel
  cases r with
  | rx _ => simp [enReg, Chip.bankOf, kindOf_uFlow, hsel]
  | tx _ => simp [enReg, Chip.bankOf, kindOf_uFlow, hsel]
  | sh _ _ => simp [enReg, Chip.bankOf, hr.kindOf_sh, hsel]
  | dv _ _ => simp [enReg, Chip.bankOf, hr.kindOf_dv, hsel]
  | adm _ => simp [enReg, Chip.bankOf, kindOf_uIm, hsel]

/-- The ring of a register depends on the place where its value is stored. (The definition is unfolded as a function: the kernel
would compute with the register's key in an applied one.) -/
theorem Chip.ringAt_of_place {d : Chip} {u off : Nat} (h : d.place src u off = c.place src u off) :
    d.ringAt src u off = c.ringAt src u off := by
  have hbody (f : Chip → Src → Nat → Nat → Option RingId) (hf : f = Chip.ringAt) : f d src u off = f c src u off := by
    delta Chip.ringAt at hf
    rw [hf]
    dsimp only
    rw [h]
  exact hbody _ rfl

/-- What a write of an enable register does to its ring. -/
theorem Chip.regEffect_ringEnOff {u off : Nat} (hen : ringEnOff u off = true) (hat : c.ringAt src u off = some r) (old : Word) :
    c.regEffect src u off v old = c.ringSwitch r (v.getLsbD 0) := by
  unfold Chip.regEffect
  simp only [hat, hen, if_true]
  unfold ringEnOff at hen
  split at hen
  next hk =>
    obtain rfl := of_decide_eq_true hen
    simp [hk]
  next hk =>
    obtain rfl := of_decide_eq_true hen
    simp [hk]
  next hk =>
    obtain rfl := of_decide_eq_true hen
    simp [hk]
  next hk =>
    obtain rfl := of_decide_eq_true hen
    simp [hk]
  · exact absurd hen Bool.false_ne_true

theorem ringEnOff_enReg (hr : InUnit r) : ringEnOff (enReg r).1 (enReg r).2 = true := by
  cases r with
  | rx _ => rfl
  | tx _ => rfl
  | sh _ _ => simp [enReg, ringEnOff, hr.kindOf_sh]
  | dv _ _ => simp [enReg, ringEnOff, hr.kindOf_dv]
  | adm _ => rfl

theorem ofNat_bit_zero (on : Bool) : (BitVec.ofNat 32 (bit on)).getLsbD 0 = on := by
  cases on <;> rfl

/-- An accepted write of a ring's EN (R407). -/
theorem Chip.put32_enReg {on : Bool} (hr : InUnit r) (hat : c.ringAt src (enReg r).1 (enReg r).2 = some r)
    (h : c.takes src (enReg r).1 (enReg r).2 (BitVec.ofNat 32 (bit on)) = true) :
    ∃ k, c.put32 src (enReg r).1 (enReg r).2 (bit on) = (c.withCtl k).ringSwitch r on := by
  obtain ⟨x, -, hput⟩ := Chip.takes_put32 h
  have hat' : (c.regStore src (enReg r).1 (enReg r).2 x (BitVec.ofNat 32 (bit on))).ringAt src (enReg r).1 (enReg r).2 = some r :=
    (Chip.ringAt_of_place (by rw [Chip.place, Chip.place, Chip.bankOf_regStore_enReg hr])).trans hat
  rw [Chip.regEffect_ringEnOff (ringEnOff_enReg hr) hat', ofNat_bit_zero] at hput
  obtain ⟨l, k, hstore⟩ := c.regStore_eq src (enReg r).1 (enReg r).2 x (BitVec.ofNat 32 (bit on))
  exact ⟨_, hput.trans (by rw [hstore]; rfl)⟩

/-- FT_CTL.ADMIN_EN written beside the register's other bits (R395). -/
theorem adminEn_written (w : Word) (on : Bool) : (BitVec.ofNat 32 ((w &&& 0xFFFFFFFD#32).toNat + 2 * bit on)).getLsbD 1 = on := by
  have hclear : (w &&& 0xFFFFFFFD#32).toNat.testBit 1 = false := by
    rw [BitVec.testBit_toNat, BitVec.getLsbD_and]
    exact Bool.and_false _
  rw [BitVec.getLsbD_ofNat]
  rw [Nat.testBit_eq_decide_div_mod_eq] at hclear ⊢
  cases on <;> simp [bit] at hclear ⊢ <;> omega

/-- An accepted write of the admin ring's enable (R395). -/
theorem Chip.put32_adminEn {on : Bool} {w : Word}
    (h : c.takes src uFlow 0x1040 (BitVec.ofNat 32 ((w &&& 0xFFFFFFFD#32).toNat + 2 * bit on)) = true) :
    ∃ k, c.put32 src uFlow 0x1040 ((w &&& 0xFFFFFFFD#32).toNat + 2 * bit on) = (c.withCtl k).ringSwitch (.adm (admInst src)) on := by
  obtain ⟨k, old, hput⟩ := Chip.put32_stored h
  have heffect (d : Chip) (v : Word) : d.regEffect src uFlow 0x1040 v old = d.ringSwitch (.adm (admInst src)) (v.getLsbD 1) := rfl
  rw [heffect, adminEn_written] at hput
  exact ⟨k, hput⟩

end enable

/-! What an enable and a disable leave (R407). -/

section switch
variable {c : Chip} {src : Src} {r : RingId}

/-- A ring that is disabled: what has not started completes with ABORTED_DISABLED. -/
def Ring.stopped (x : Ring) : Ring :=
  { x with en := false, descs := x.descs.map fun (d : Desc) => if d.idle then { d with fin := some 0x08 } else d }

theorem Chip.ringSwitch_enables (hen : (c.ring r).en = false) : (c.ringSwitch r true).ring r = { en := true, quiesced := false } := by
  rw [Chip.ringSwitch, hen, if_pos (by decide), Chip.ringEnable, Chip.ring_modRing_self]

theorem Chip.ringSwitch_disables (hen : (c.ring r).en = true) : (c.ringSwitch r false).ring r = (c.ring r).stopped := by
  rw [Chip.ringSwitch, hen, if_neg (by decide), if_pos (by decide)]
  cases r <;> exact Chip.ring_modRing_self _ _ _

/-- The write that enables or disables a ring: of a source's own admin ring through ADMIN_EN, of any other through its selector. -/
theorem Chip.ringEnWrite_own (src : Src) (c : Chip) (on : Bool) : c.ringEnWrite src (.adm (admInst src)) on =
    c.put32 src uFlow 0x1040 (((c.view src uFlow 0x1040) &&& 0xFFFFFFFD#32).toNat + 2 * bit on) := if_pos rfl

theorem Chip.ringEnWrite_other (hown : r ≠ .adm (admInst src)) (c : Chip) (on : Bool) :
    c.ringEnWrite src r on = (c.selectRing src r).put32 src (enReg r).1 (enReg r).2 (bit on) := by
  rw [Chip.ringEnWrite, if_neg hown]
  cases r <;> rfl

theorem Chip.ringQuiesce_empty (hen : (c.ring r).en = false) (hdescs : (c.ring r).descs = []) (hheld : (c.ring r).held = []) :
    c.ringQuiesce r = c.modRing r fun x => { x with quiesced := true } := by
  simp only [Chip.ringQuiesce, hen, hdescs, hheld, Bool.not_false, List.isEmpty_nil, Bool.and_self, if_true]

end switch

/-! The hart of a queue (R274). -/

section hart
variable {c : Chip} {src : Src} {q : Nat} {v : Word}

/-- The fields of Q_HART. -/
def qHartFields : List Fld := [{ hi := 15, lo := 0, acc := .rw }, { hi := 31, lo := 16, acc := .rsv }]

theorem qHartFields_apart : FieldsApart qHartFields := by unfold FieldsApart; decide

theorem qHart_fields {r : RegDef} (h : regAt (kindOf uFlow) 0x10B0 = some r) : r.fields = qHartFields := by
  cases h
  rfl

theorem Chip.regEffect_qHart (c : Chip) (src : Src) (v old : Word) : c.regEffect src uFlow 0x10B0 v old = c := by
  unfold Chip.regEffect
  extract_lets rises switch
  have hswitch : switch = c := by
    dsimp only [switch]
    split
    · exact if_neg (by decide)
    · rfl
  simp [kindOf_uFlow, hswitch]

/-- An accepted write of Q_HART. -/
theorem Chip.put32_qHart (hbank : c.bankOf uFlow 0x10B0 = q) (h : c.takes src uFlow 0x10B0 v = true) :
    (c.put32 src uFlow 0x10B0 v.toNat).regFld uFlow q 0x10B0 15 0 = fld v 15 0 := by
  have hv : BitVec.ofNat 32 v.toNat = v := BitVec.ofNat_toNat 32 v
  obtain ⟨r, hr, hput⟩ := Chip.takes_put32 (n := v.toNat) (by rwa [hv])
  have hfields := qHart_fields hr
  have hmerge : fld (r.merge (c.reg uFlow q 0x10B0) v) 15 0 = fld v 15 0 :=
    RegDef.fld_merge (f := { hi := 15, lo := 0, acc := .rw }) (hfields ▸ qHartFields_apart) (hfields ▸ List.mem_cons_self)
      (by decide) (by decide) _ v
  rw [hv, Chip.regEffect_qHart, Chip.regStore_own rfl (by decide) (by rw [RegDef.bits, hfields]; decide), hbank] at hput
  rw [hput]
  exact (Chip.regFld_setReg_self _ _ _ _ _ _ _).trans hmerge

end hart

/-- Settles O36: the two ways of a ring's enable bit, each set and cleared, QUIESCED, and a queue's hart. -/
theorem queuesEnableDisableAndQuiesce : Obligations.QueuesEnableDisableAndQuiesce := by
  intro s src r q v c c1 en own stopped hunit
  have hunit' : InUnit r := hunit
  have hen : en = enReg r := by cases r <;> rfl
  refine ⟨?_, ?_, ?_, ?_, ?_⟩
  · intro hother hat
    rw [hen] at hat ⊢
    have hwrite {on : Bool} (htakes : c1.takes src (enReg r).1 (enReg r).2 (BitVec.ofNat 32 (bit on)) = true) :
        ∃ k, c.ringEnWrite src r on = (c1.withCtl k).ringSwitch r on := by
      rw [Chip.ringEnWrite_other hother]
      exact Chip.put32_enReg hunit' hat htakes
    refine ⟨fun htakes hoff => ?_, fun htakes hon => ?_⟩
    · obtain ⟨k, hrun⟩ := hwrite (on := true) htakes
      exact RunsTo.of_fuseless (·.ringEnWrite src r true) rfl
        ((congrArg (Chip.ring · r) hrun).trans (Chip.ringSwitch_enables hoff)) fun _ _ hd => hd
    · obtain ⟨k, hrun⟩ := hwrite (on := false) htakes
      exact RunsTo.of_fuseless (·.ringEnWrite src r false) rfl
        ((congrArg (Chip.ring · r) hrun).trans (Chip.ringSwitch_disables hon)) fun _ _ hd => hd
  · rintro rfl hoff htakes
    obtain ⟨k, hrun⟩ := Chip.put32_adminEn (on := true) htakes
    refine RunsTo.of_fuseless (·.ringEnWrite src _ true) rfl ?_ fun _ _ hd => hd
    exact (congrArg (Chip.ring · _) ((c.ringEnWrite_own src true).trans hrun)).trans (Chip.ringSwitch_enables hoff)
  · rintro rfl hon htakes
    obtain ⟨k, hrun⟩ := Chip.put32_adminEn (on := false) htakes
    refine RunsTo.of_fuseless (·.ringEnWrite src _ false) rfl ?_ fun _ _ hd => hd
    exact (congrArg (Chip.ring · _) ((c.ringEnWrite_own src false).trans hrun)).trans (Chip.ringSwitch_disables hon)
  · intro hoff hdescs hheld
    exact Runs.keep (·.ringQuiesce r) rfl rfl (Chip.ringQuiesce_empty hoff hdescs hheld)
  · rintro rfl hbank htakes
    exact RunsTo.of_fuseless (fun c => (c.selectRing src (.rx q)).put32 src uFlow 0x10B0 v.toNat) rfl
      (Chip.put32_qHart hbank htakes) fun _ _ hd => hd

end Sys2Proof.Machine
end

section
/-! The lanes of a Shears engine (R307, R310, R311, R326, R330, R436): the job that a lane runs, what each move of data comes
to, the dispatch of the next work item, the faults of a lane; from these the statement. -/

namespace Sys2Proof.Machine

/-! Jobs (R404). -/

section job
variable {c c1 c2 : Chip} {e n : Nat} {d : Desc} {a b : List Byte}

/-- The job of a ring that a test selects, the ring's owner being in service. -/
def Chip.LaneRuns (c : Chip) (e n : Nat) (p : Desc → Bool) (d : Desc) : Prop :=
  c.laneJob e n p = some d ∧ (c.inst (c.ringOwner (.sh e n))).st ≠ .resetting ∧ (c.inst (c.ringOwner (.sh e n))).st ≠ .stopped

theorem Chip.LaneRuns.withJob {p : Desc → Bool} (h : c.LaneRuns e n p d) (f : Chip → Nat → Nat → Nat → Desc → Chip) :
    c.withJob (.sh e n) p f = f c e n (c.ringOwner (.sh e n)) d := by
  obtain ⟨hjob, hresetting, hstopped⟩ := h
  simp only [Chip.withJob, hjob, Chip.stopping, decide_eq_false hresetting, Bool.false_eq_true, if_false, if_neg hstopped]

/-! Data movement (R311, R326). -/

theorem Chip.shCopy_copies (h : c.LaneRuns e n (fun y => y.opcode = 1) d)
    (hcopy : c.copyChunks (c.ringOwner (.sh e n)) (d.fld 8 8) (d.fld 16 8) (d.fld 24 4) = (d.fld 24 4, d.fld 24 4, false, 0, c1)) :
    c.shCopy (.sh e n) = c1.shDone e n d.idx 0 (d.fld 24 4) (d.fld 24 4) 0 (d.fld 24 4) (d.fld 24 4) := by
  rw [Chip.shCopy, h.withJob, hcopy]
  rfl

/-- The pattern of a FILL from an address on. -/
def Desc.pattern (d : Desc) : List Byte := (List.range (d.fld 24 4)).map fun i => d.bytes.getD (8 + (d.fld 16 8 + i) % 8) 0

theorem Desc.pattern_length (d : Desc) : d.pattern.length = d.fld 24 4 := by
  rw [Desc.pattern, List.length_map, List.length_range]

theorem Chip.shFill_fills (h : c.LaneRuns e n (fun y => y.opcode = 2) d)
    (hwrite : c.writeLines (c.ringOwner (.sh e n)) (d.fld 16 8) d.pattern false (fun _ => none) = (d.fld 24 4, c1)) :
    c.shFill (.sh e n) = c1.shDone e n d.idx 0 0 (d.fld 24 4) 0 0 (d.fld 24 4) := by
  have hwhole : ¬ d.fld 24 4 < d.pattern.length := d.pattern_length ▸ Nat.lt_irrefl _
  rw [Chip.shFill, h.withJob]
  change (match c.writeLines (c.ringOwner (.sh e n)) (d.fld 16 8) d.pattern false (fun _ => none) with
    | (w, x) => x.shDone e n d.idx (if w < d.pattern.length then 0x03 else 0) 0 w 0 0 w) = _
  rw [hwrite]
  exact congrArg (c1.shDone e n d.idx · 0 (d.fld 24 4) 0 0 (d.fld 24 4)) (if_neg hwhole)

/-- The sum that a CRC descriptor asks for. -/
def Desc.sum (d : Desc) (a : List Byte) : Nat := crcOf (if d.bflag 11 then poly32 else polyC) (d.fld 16 4) a

/-- The descriptor asks for another sum (CHECK). -/
def Desc.sumDiffers (d : Desc) (a : List Byte) : Bool := d.bflag 12 && decide (d.sum a ≠ d.fld 20 4)

theorem Desc.sumDiffers_iff (d : Desc) (a : List Byte) : d.sumDiffers a = true ↔ d.bflag 12 = true ∧ d.sum a ≠ d.fld 20 4 := by
  rw [Desc.sumDiffers, Bool.and_eq_true, decide_eq_true_eq]

/-- A CRC of bytes that are read without poison: its status is the outcome of the check that it asks for. -/
theorem Chip.shCrc_sums (h : c.LaneRuns e n (fun y => y.opcode = 3) d)
    (hread : c.readBuf (c.ringOwner (.sh e n)) (d.fld 8 8) (d.fld 24 4) = (a, false, 0, c1)) :
    c.shCrc (.sh e n) = c1.shDone e n d.idx (if d.sumDiffers a then 0x07 else 0) a.length 0
      (d.sum a) a.length 0 := by
  rw [Chip.shCrc, h.withJob, hread]
  rfl

/-- Both buffers of a COMPARE are read whole and without poison. -/
def Chip.ReadsBoth (c : Chip) (iid : Nat) (d : Desc) (a b : List Byte) (c2 : Chip) : Prop :=
  ∃ c1, c.readBuf iid (d.fld 8 8) (d.fld 24 4) = (a, false, 0, c1) ∧ c1.readBuf iid (d.fld 16 8) a.length = (b, false, 0, c2) ∧
    a.length = b.length

/-- A COMPARE of bytes that are read whole: its INFO and its status are those of the first difference. -/
theorem Chip.shCompare_compares (h : c.LaneRuns e n (fun y => y.opcode = 4) d)
    (hboth : c.ReadsBoth (c.ringOwner (.sh e n)) d a b c2) :
    c.shCompare (.sh e n) = c2.shDone e n d.idx (if firstDiff a b 0 ≠ 0xFFFFFFFF then 0x07 else 0) a.length 0
      (firstDiff a b 0) (2 * a.length) 0 := by
  obtain ⟨c1, hreadA, hreadB, hlen⟩ := hboth
  have hmin : min a.length b.length = a.length := by rw [← hlen, Nat.min_self]
  have htake : b.take a.length = b := by rw [hlen, List.take_length]
  rw [Chip.shCompare, h.withJob, hreadA]
  dsimp only
  rw [hreadB]
  dsimp only
  rw [hmin, List.take_length, htake]
  rfl

end job

/-! The first difference (R326). -/

theorem firstDiff_self (a : List Byte) (i : Nat) : firstDiff a a i = 0xFFFFFFFF := by
  induction a generalizing i with
  | nil => rfl
  | cons x a ih => exact (if_pos rfl).trans (ih (i + 1))

/-- Buffers of one length that agree below a place and differ there. -/
theorem firstDiff_first {a b : List Byte} {k : Nat} (hlen : a.length = b.length) (hk : k < a.length)
    (hsame : ∀ i, i < k → a[i]? = b[i]?) (hdiff : a[k]? ≠ b[k]?) (i : Nat) : firstDiff a b i = i + k := by
  induction a generalizing b k i with
  | nil => exact absurd hk (Nat.not_lt_zero k)
  | cons x a ih =>
    cases b with
    | nil => cases hlen
    | cons y b =>
      cases k with
      | zero => exact if_neg fun hxy => hdiff (congrArg some hxy)
      | succ k =>
        have hxy : x = y := Option.some.inj (hsame 0 k.succ_pos)
        have hrest := ih (Nat.succ.inj hlen) (Nat.lt_of_succ_lt_succ hk) (fun j hj => hsame (j + 1) (Nat.succ_lt_succ hj)) hdiff
          (i + 1)
        rw [firstDiff, if_pos hxy, hrest]
        omega

/-! Lanes (R307). -/

section lane
variable {c x : Chip} {e l : Nat}

@[simp] theorem Chip.engine_modEngine_self (c : Chip) (e : Nat) (f : Engine → Engine) : (c.modEngine e f).engine e = f (c.engine e) :=
  Sparse.at_upd_self ..

@[simp] theorem Chip.engine_modDesc (c : Chip) (r : RingId) (idx : Nat) (f : Desc → Desc) (e : Nat) :
    (c.modDesc r idx f).engine e = c.engine e := rfl

@[simp] theorem Chip.lane_modLane_self (c : Chip) (e l : Nat) (f : Lane → Lane) :
    ((c.modLane e l f).engine e).lane l = f ((c.engine e).lane l) := by
  rw [Chip.modLane, Chip.engine_modEngine_self]
  exact Sparse.at_upd_self ..

theorem Chip.lane_modLane_ne {k : Nat} (h : k ≠ l) (c : Chip) (e : Nat) (f : Lane → Lane) :
    ((c.modLane e l f).engine e).lane k = (c.engine e).lane k := by
  rw [Chip.modLane, Chip.engine_modEngine_self]
  exact Sparse.at_upd_ne h ..

@[simp] theorem Chip.credit_modLane (c : Chip) (e l : Nat) (f : Lane → Lane) :
    ((c.modLane e l f).engine e).credit = (c.engine e).credit := by
  rw [Chip.modLane, Chip.engine_modEngine_self]

/-- Which lane is free follows from the registers and the engines. -/
theorem Chip.freeLane_of_engines (hctl : x.ctl = c.ctl) (heng : x.engines = c.engines) (e : Nat) : x.freeLane e = c.freeLane e := by
  simp only [Chip.freeLane, Chip.lanesOn, Chip.regFld_of_ctl hctl, Chip.engine, heng]

/-- A lane that takes a ring's work item, with the credit that the ring keeps. -/
def Chip.laneTakes (c : Chip) (e n l idx credit : Nat) : Chip :=
  ((c.modEngine e fun x => { x with cur := n, credit := credit }).modLane e l fun y =>
    { y with job := some (n, idx), items := (y.items + 1) % 2 ^ 64, faulted := false }).modDesc (.sh e n) idx
      fun d => { d with started := true }

/-- The ring whose turn it is, with credit left, has its next work item dispatched (R307). -/
theorem Chip.laneDispatch_takes {n cr : Nat} {d : Desc} (hon : c.regFld (uShears e) 0 0x1040 0 0 = 1)
    (hheld : c.held (uShears e) = false) (hrun : c.unitRuns (uShears e) = true) (hfree : c.freeLane e = some l)
    (hcur : (c.engine e).cur = n) (hcredit : (c.engine e).credit = cr + 1) (hwork : n ∈ c.ringsWithWork e)
    (hstart : c.startable (.sh e n) = some d) : c.laneDispatch e = c.laneTakes e n l d.idx cr := by
  have hserves : ¬ (c.regFld (uShears e) 0 0x1040 0 0 = 0 ∨ c.held (uShears e) ∨ c.unitRuns (uShears e) = false) := by
    simp [hon, hheld, hrun]
  have hturn : ((c.ringsWithWork e).contains n && decide (0 < cr + 1)) = true := by simpa using hwork
  rw [Chip.laneDispatch, if_neg hserves, hfree]
  simp only [hcur, hcredit, hturn, if_true, hstart, Nat.add_sub_cancel]
  rfl

/-- The lane that takes a work item runs it; its descriptor has started. -/
theorem Chip.laneTakes_takes (c : Chip) (e n l idx credit : Nat) :
    (((c.laneTakes e n l idx credit).engine e).lane l).job = some (n, idx) ∧
      (((c.laneTakes e n l idx credit).engine e).lane l).items = (((c.engine e).lane l).items + 1) % 2 ^ 64 ∧
      ((c.laneTakes e n l idx credit).engine e).credit = credit ∧
      (c.laneTakes e n l idx credit).ring (.sh e n) = (c.ring (.sh e n)).modDesc idx fun y => { y with started := true } := by
  have hlane := Chip.lane_modLane_self (c.modEngine e fun x => { x with cur := n, credit := credit }) e l fun y =>
    { y with job := some (n, idx), items := (y.items + 1) % 2 ^ 64, faulted := false }
  rw [Chip.engine_modEngine_self] at hlane
  refine ⟨congrArg Lane.job hlane, congrArg Lane.items hlane, ?_, Chip.ring_modDesc_self _ _ _ _⟩
  rw [Chip.laneTakes, Chip.engine_modDesc, Chip.credit_modLane, Chip.engine_modEngine_self]

end lane

/-! Lane faults (R436). -/

section fault
variable {c x : Chip} {e l w : Nat}

theorem OnlyRecords.ctl (h : OnlyRecords c x) : x.ctl = c.ctl := (congrArg Chip.ctl h :)

theorem OnlyRecords.engines (h : OnlyRecords c x) : x.engines = c.engines := (congrArg Chip.engines h :)

theorem OnlyRecords.engine (h : OnlyRecords c x) (e : Nat) : x.engine e = c.engine e :=
  congrArg (fun m : Sparse Engine => m.at {} e) h.engines

/-- Which lane is free is the same after a log entry. -/
theorem OnlyRecords.freeLane_modLane (h : OnlyRecords c x) (e l : Nat) (f : Lane → Lane) :
    (x.modLane e l f).freeLane e = (c.modLane e l f).freeLane e :=
  Chip.freeLane_of_engines (c := c.modLane e l f) (x := x.modLane e l f) h.ctl
    (congrArg (fun m : Sparse Engine => m.upd {} e fun x => { x with lanes := x.lanes.upd {} l f }) h.engines) e

/-- The first fault of a lane's work, logged, has the lane rerun. -/
theorem Chip.laneFault_reruns (hin : ((c.engine e).lane l).retired = false) :
    ∃ x, OnlyRecords c x ∧ c.laneFault e l false = x.modLane e l fun y => { y with faulted := true } :=
  ⟨_, c.logErr_onlyRecords _ (by simp), if_neg (by simp [hin])⟩

/-- A fault of the rerun, logged, retires the lane, and a free one takes its work. -/
theorem Chip.laneFault_moves {j : Nat × Nat} (hin : ((c.engine e).lane l).retired = false)
    (hagain : ((c.engine e).lane l).faulted = true) (hjob : ((c.engine e).lane l).job = some j)
    (hfree : (c.modLane e l fun y => { y with job := none, retired := true }).freeLane e = some w) :
    ∃ x, OnlyRecords c x ∧ c.laneFault e l true =
      (x.modLane e l fun y => { y with job := none, retired := true }).modLane e w fun z => { z with job := some j, faulted := false } := by
  have hlog := c.logErr_onlyRecords (uShears e) (e := { cls := .corrected, struct := 0x11, indexA := l, owner := j.1 }) (by simp)
  refine ⟨_, hlog, ?_⟩
  rw [Chip.laneFault, if_neg (by simp [hin])]
  simp only [hjob, hagain, Option.map_some, Option.getD_some, Bool.and_self, if_true, (hlog.freeLane_modLane e l _).trans hfree]

end fault

/-- Settles O37: the moves of data by what each comes to, the dispatch, and the two faults of a lane. -/
theorem shearsLanesMoveData : Obligations.ShearsLanesMoveData := by
  intro s e n l k w cr d a b c1 c2 c r iid job len ln v pat both
  have hboth (h : both) : c.ReadsBoth iid d a b c2 := ⟨c1, h⟩
  refine ⟨?_, ?_, ?_, ?_, ?_, ?_, ?_, ?_, ?_⟩
  · intro hjob hcopy
    exact Runs.of (f := (·.shCopy r)) rfl (congrArg (·.withFuse c.fuse) (Chip.shCopy_copies hjob hcopy))
  · intro hjob hwrite
    exact Runs.of (f := (·.shFill r)) rfl (congrArg (·.withFuse c.fuse) (Chip.shFill_fills hjob hwrite))
  · intro hjob hread hcheck
    have hsum := Chip.shCrc_sums hjob hread
    have hsame : d.sumDiffers a ≠ true := fun hdiffers => by
      obtain ⟨hasks, hother⟩ := (d.sumDiffers_iff a).mp hdiffers
      exact hcheck.elim (fun hno => Bool.false_ne_true (hno.symm.trans hasks)) hother
    rw [if_neg hsame] at hsum
    exact Runs.of (f := (·.shCrc r)) rfl (congrArg (·.withFuse c.fuse) hsum)
  · intro hjob hread hcheck hne
    have hsum := Chip.shCrc_sums hjob hread
    rw [if_pos ((d.sumDiffers_iff a).mpr ⟨hcheck, hne⟩)] at hsum
    exact Runs.of (f := (·.shCrc r)) rfl (congrArg (·.withFuse c.fuse) hsum)
  · intro hjob h hsame
    have hdone := Chip.shCompare_compares hjob (hboth h)
    rw [hsame, firstDiff_self, ← hsame] at hdone
    exact Runs.of (f := (·.shCompare r)) rfl (congrArg (·.withFuse c.fuse) hdone)
  · intro hjob h hk hsmall hsame hdiff
    have hdone := Chip.shCompare_compares hjob (hboth h)
    obtain ⟨-, -, hlen⟩ := h
    rw [firstDiff_first hlen hk hsame hdiff, Nat.zero_add, if_pos (by omega)] at hdone
    exact Runs.of (f := (·.shCompare r)) rfl (congrArg (·.withFuse c.fuse) hdone)
  · intro _ hon hheld hrun hfree hcur hcredit hwork hstart
    refine RunsTo.of_fuseless (·.laneDispatch e) rfl ?_ fun _ _ hd => hd
    rw [show s.chip.laneDispatch e = _ from Chip.laneDispatch_takes hon hheld hrun hfree hcur hcredit hwork hstart]
    exact c.laneTakes_takes e n l d.idx cr
  · intro hin
    obtain ⟨x, hlog, hfault⟩ := Chip.laneFault_reruns hin
    refine RunsTo.of_fuseless (·.laneFault e l false) rfl ?_ fun _ _ hd => hd
    rw [show s.chip.laneFault e l false = _ from hfault, Chip.lane_modLane_self, hlog.engine]
    exact ⟨rfl, rfl, hin⟩
  · intro j hin hagain hjob hother _ hfree
    obtain ⟨x, hlog, hfault⟩ := Chip.laneFault_moves hin hagain hjob hfree
    refine RunsTo.of_fuseless (·.laneFault e l true) rfl ?_ fun _ _ hd => hd
    rw [show s.chip.laneFault e l true = _ from hfault, Chip.lane_modLane_ne hother.symm,
      Chip.lane_modLane_self, Chip.lane_modLane_self]
    exact ⟨rfl, rfl, rfl⟩

end Sys2Proof.Machine
end

section
/-! A container block written in a ring that holds two descriptors of one fetch index (R318): the model moves both of them on, each
from its own count of blocks. The statement about compression jobs gives both the count of the job that is found, so it fails. -/

namespace Sys2Proof.Machine

/-- A container COMPRESS of two blocks of one byte, read from 0, written from 0x1000, with its index at 0x2000. -/
def twinJobBytes : List Byte :=
  leBytes 0x10 8 ++ leBytes 0 8 ++ leBytes 0x1000 8 ++ leBytes 2 4 ++ leBytes 4096 4 ++ leBytes 0 8 ++ leBytes 0x2000 8 ++
    leBytes 4 8 ++ leBytes 0 8

/-- The job, its blocks ready to be written, none of them written yet. -/
def twinJob : Desc := { idx := 0, slots := 2, bytes := twinJobBytes, started := true, ready := true }

/-- Lane 0 of engine 0 runs the job, which ring 0 holds before another descriptor of the same fetch index, five of whose
blocks are written; interleave set 0 maps memory from 0 on, the channel samples no
ACT, and the IOMMU is Bare. -/
def twinChip : Chip :=
  { (((Chip.reset.setReg 0 0 0x2008 64).setReg 0 0 0x2010 1).setReg 5 0 0x1050 0).setIo32 0x10 1 with
    mem := [(0, 7)]
    rings := [(ringKey (.sh 0 0), { descs := [twinJob, { twinJob with info := 5 }] })]
    engines := [(0, { lanes := [(0, { job := some (0, 0) })] })] }

/-- The device after the read of the first block. -/
def twinRead : Chip := (twinChip.readBuf 0 0 1).2.2.2

/-- The first block, as it is written. -/
def twinBlock : List Byte := containerBlock false 0 0 [7]

/-- The device after the write of the block, and after that of its index entry. -/
def twinOut : Chip := (twinRead.writeLines 0 0x1000 twinBlock false fun _ => none).2
def twinIndexed : Chip :=
  (twinOut.writeLines 0 0x2000 (leBytes 0 8 ++ leBytes 0 4 ++ leBytes twinBlock.length 4) false fun _ => none).2

/-- The counts of blocks of a ring's descriptors in the state that a command answers. -/
def ringInfos (r : RingId) : Answer → List Nat
  | .next t => (t.chip.ring r).descs.map (·.info)
  | _ => []

/-- The model counts one more block for each of the two. -/
theorem containerBlockWrite_counts_each :
    ringInfos (.sh 0 0) (exec (.containerBlockWrite (.sh 0 0)) { pending := [], chip := twinChip }) = [1, 6] := by
  decide

/-- Refutes O38: where a ring holds two descriptors of the fetch index of its job, a container block that is written counts
one more block for each of them, but the last clause of the statement gives both the count of the job. -/
theorem not_compressionJobsComplete : ¬ Obligations.CompressionJobsComplete := by
  intro h
  obtain ⟨-, -, -, -, -, -, -, hblock⟩ := h { pending := [], chip := twinChip } 0 0 twinJob
    ⟨0, 0, true, 0, 0, 0, 0, 0, 0, [], 0, 0, [], false⟩ [7] [] 0 twinRead twinOut twinChip twinIndexed
  obtain ⟨hmore, -⟩ := hblock (by decide) (by decide) (by decide +kernel) rfl (by decide)
    (by decide +kernel) (by decide +kernel) (by decide)
  have hruns := hmore (by decide) (by decide) (by decide)
  have hcounts := containerBlockWrite_counts_each
  rw [hruns] at hcounts
  exact absurd hcounts (by decide)

end Sys2Proof.Machine
end

section
/-! MSI-X (R374, R375, R382): what an event on a vector and the clearing of a vector's masks leave of the function's pending bits and
of PX0, and from these the statement. -/

namespace Sys2Proof.Machine

/-! TLPs handed to a sub-link (R374, R375). -/

/-- The sub-link is up and not in L1: what is handed to it leaves at once. -/
def Sub.Awake (y : Sub) : Prop := y.up = true ∧ y.l1 = 0

theorem Px.put_awake {x : Px} {t : TlpOut} (h : (x.subAt t.sub).Awake) : x.put t = { x with sent := x.sent ++ [t] } := if_pos h

/-- A TLP for a sub-link that is down or in L1 waits. -/
theorem Px.put_asleep {x : Px} {t : TlpOut} (h : ¬ (x.subAt t.sub).Awake) :
    (x.put t).sent = x.sent ∧ ((x.put t).subAt t.sub).waiting = (x.subAt t.sub).waiting ++ [t] := by
  have hput : x.put t = { x with subs := Sparse.put x.subs t.sub { x.subAt t.sub with waiting := (x.subAt t.sub).waiting ++ [t] } } :=
    if_neg h
  rw [hput]
  exact ⟨rfl, congrArg Sub.waiting (Sparse.at_put_self _ _ _ _)⟩

/-! One vector (R382). -/

section vector
variable {c : Chip} {iid f v rid : Nat}

/-- The message of an entry, as PX0 sends it upstream for a function. -/
def MsixEnt.tlp (e : MsixEnt) (rid : Nat) : TlpOut :=
  { sub := 0, kind := .memWrite, addr := e.addr.toNat, bytes := leBytes e.data.toNat 4, rid := rid }

/-- Vector v of a function. -/
def Func.vector (x : Func) (v : Nat) : MsixEnt := Sparse.at x.table {} v

/-- No mask holds back the messages of vector v. -/
def Func.sends (x : Func) (v : Nat) : Bool := x.msixEn && !x.fmask && !(x.vector v).mask

theorem Func.sends_iff {x : Func} : x.sends v = true ↔ x.msixEn = true ∧ x.fmask = false ∧ (x.vector v).mask = false := by
  simp [Func.sends, and_assoc]

/-- A function whose accesses go to the external host sends its messages through PX0. -/
theorem Chip.msixSend_host (hdma : c.dmaOf f = .host rid) : c.msixSend f v = c.pxPut 0 (((c.func f).vector v).tlp rid) := by
  rw [Chip.msixSend]
  simp only [hdma]
  rfl

/-- An event on a vector sends its message or makes it pending. -/
theorem Chip.msixFunc_eq (c : Chip) (f v : Nat) (stopped : Bool) :
    c.msixFunc f v stopped = if (c.func f).sends v && !stopped then c.msixSend f v
      else c.modFunc f fun x => { x with pba := NatSet.insert x.pba v } := rfl

theorem Chip.msixEvent_sends (hf : c.vecFunc iid = f) (hst : (c.inst iid).st ≠ .stopped) (hsends : (c.func f).sends v = true) :
    c.msixEvent iid v = c.msixSend f v := by
  rw [Chip.msixEvent, hf, Chip.msixFunc_eq, if_pos (by simp [hsends, hst])]

theorem Chip.msixEvent_masked (hf : c.vecFunc iid = f) (hmasked : (c.func f).sends v = false) :
    c.msixEvent iid v = c.modFunc f fun x => { x with pba := NatSet.insert x.pba v } := by
  rw [Chip.msixEvent, hf, Chip.msixFunc_eq, if_neg (by simp [hmasked])]

/-- A function with MSI-X enabled, Function Mask and the mask of vector v clear. -/
def Func.unmasked (x : Func) (v : Nat) : Func :=
  { x with msixEn := true, fmask := false, table := Sparse.upd x.table {} v fun e => { e with mask := false } }

theorem Func.unmasked_vector (x : Func) (v : Nat) : (x.unmasked v).vector v = { x.vector v with mask := false } :=
  Sparse.at_upd_self x.table {} v fun e => { e with mask := false }

/-- The message of a vector does not depend on its masks. -/
theorem Func.unmasked_tlp (x : Func) (v rid : Nat) : ((x.unmasked v).vector v).tlp rid = (x.vector v).tlp rid := by
  rw [Func.unmasked_vector]
  rfl

theorem Func.unmasked_sends (x : Func) (v : Nat) : (x.unmasked v).sends v = true :=
  Func.sends_iff.mpr ⟨rfl, rfl, congrArg MsixEnt.mask (x.unmasked_vector v)⟩

/-- A pending vector whose masks are clear sends its message, and its bit clears. -/
theorem Chip.msixFlush_eq (c : Chip) (f v : Nat) :
    c.msixFlush f v = if (c.func f).sends v && (c.func f).pba.contains v && !decide ((c.inst f).st = .stopped) then
      (c.modFunc f fun x => { x with pba := NatSet.erase x.pba v }).msixSend f v else c := rfl

/-- The masks of a vector that is not pending are cleared, and no more. -/
theorem Chip.msixUnmask_quiet (hpba : (c.func f).pba.contains v = false) : c.msixUnmask f v = c.modFunc f (·.unmasked v) := by
  have hquiet : ((c.func f).unmasked v).pba.contains v = false := hpba
  change (c.modFunc f (·.unmasked v)).msixFlush f v = _
  rw [Chip.msixFlush_eq, Chip.modFunc_self, hquiet, Bool.and_false, Bool.false_and, if_neg Bool.false_ne_true]

/-- The masks of a pending vector are cleared: its bit clears, and its message is sent. -/
theorem Chip.msixUnmask_pending (hpba : (c.func f).pba.contains v = true) (hst : (c.inst f).st ≠ .stopped)
    (hdma : c.dmaOf f = .host rid) :
    c.msixUnmask f v = ((c.modFunc f (·.unmasked v)).modFunc f fun x => { x with pba := NatSet.erase x.pba v }).pxPut 0
      (((c.func f).vector v).tlp rid) := by
  have hpend : ((c.func f).unmasked v).pba.contains v = true := hpba
  have hst' : decide (((c.modFunc f (·.unmasked v)).inst f).st = .stopped) = false := decide_eq_false hst
  have hdma' : ((c.modFunc f (·.unmasked v)).modFunc f fun x => { x with pba := NatSet.erase x.pba v }).dmaOf f = .host rid := hdma
  change (c.modFunc f (·.unmasked v)).msixFlush f v = _
  rw [Chip.msixFlush_eq, Chip.modFunc_self, Func.unmasked_sends, hpend, hst', Bool.and_self, Bool.not_false, Bool.and_self, if_pos rfl,
    Chip.msixSend_host hdma', Chip.modFunc_self, Chip.modFunc_self]
  exact congrArg (Chip.pxPut _ 0) ((c.func f).unmasked_tlp v rid)

end vector

/-- Settles O24: the event on a vector that is open or masked, with PX0's link awake or not, then the clearing of the masks. -/
theorem msixSendsOrPends : Obligations.MsixSendsOrPends := by
  intro s iid v f c x e open_ awake sent hf hst
  refine ⟨?_, ?_, ?_, ?_, ?_⟩
  · intro rid hopen hdma hawake
    refine Runs.keep (·.msixEvent iid v) rfl rfl ?_
    rw [Chip.msixEvent_sends hf hst (Func.sends_iff.mpr hopen), Chip.msixSend_host hdma]
    exact congrArg (fun y => ({ c with pxs := Sparse.put c.pxs 0 y } : Chip)) (Px.put_awake (t := sent rid) hawake)
  · intro rid hopen hdma hasleep
    refine RunsTo.of_fuseless (·.msixEvent iid v) rfl ?_ fun _ _ hd => hd
    rw [Chip.msixEvent_sends hf hst (Func.sends_iff.mpr hopen), Chip.msixSend_host hdma, Chip.pxPut, Chip.modPx_self]
    exact Px.put_asleep (t := sent rid) hasleep
  · intro hclosed
    refine RunsTo.of_fuseless (·.msixEvent iid v) rfl ?_ fun _ _ hd => hd
    rw [Chip.msixEvent_masked hf (Bool.eq_false_iff.mpr fun hsends => hclosed (Func.sends_iff.mp hsends))]
    exact ⟨Chip.modFunc_self _ _ _, fun k hk => Chip.modFunc_ne hk _ _⟩
  · intro rid hpba hstf hdma hawake
    refine RunsTo.of_fuseless (·.msixUnmask f v) rfl ?_ fun _ _ hd => hd
    rw [Chip.msixUnmask_pending hpba hstf hdma, Chip.pxPut, Chip.modPx_self]
    have hfunc : ((c.modFunc f (·.unmasked v)).modFunc f fun x => { x with pba := NatSet.erase x.pba v }).func f =
        { x.unmasked v with pba := NatSet.erase x.pba v } := by
      rw [Chip.modFunc_self, Chip.modFunc_self]
      rfl
    exact ⟨congrArg Func.pba hfunc, congrArg Func.msixEn hfunc, congrArg Func.fmask hfunc,
      congrArg Px.sent (Px.put_awake (t := sent rid) hawake)⟩
  · intro hpba
    refine RunsTo.of_fuseless (·.msixUnmask f v) rfl ?_ fun _ _ hd => hd
    rw [Chip.msixUnmask_quiet hpba, Chip.modFunc_self]
    exact ⟨rfl, rfl, congrArg MsixEnt.mask (Func.unmasked_vector x v)⟩

end Sys2Proof.Machine
end

section
/-! Links of a bus port (R361, R362, R368, R369, R374-R376, R387, R504): what PX_WCOMMIT and PX_LINK_CTL leave of a port, what each
event of a sub-link leaves of the sub-link and of PX_LINK, and from these the statement. -/

namespace Sys2Proof.Machine

/-! The sub-links of a port. -/

@[simp] theorem Px.subAt_modSub_self (x : Px) (s : Nat) (f : Sub → Sub) : (x.modSub s f).subAt s = f (x.subAt s) :=
  Sparse.at_upd_self _ _ _ _

theorem Px.subAt_modSub_ne {s k : Nat} (h : k ≠ s) (x : Px) (f : Sub → Sub) : (x.modSub s f).subAt k = x.subAt k :=
  Sparse.at_upd_ne h _ _ _

@[simp] theorem Px.modSub_np (x : Px) (s : Nat) (f : Sub → Sub) : (x.modSub s f).np = x.np := rfl
@[simp] theorem Px.modSub_sent (x : Px) (s : Nat) (f : Sub → Sub) : (x.modSub s f).sent = x.sent := rfl

@[simp] theorem Chip.modSub_px (c : Chip) (p s : Nat) (f : Sub → Sub) : (c.modSub p s f).px p = (c.px p).modSub s f :=
  Chip.modPx_self _ _ _

@[simp] theorem Chip.setRegFld_px (c : Chip) (u b o hi lo v p : Nat) : (c.setRegFld u b o hi lo v).px p = c.px p := rfl
@[simp] theorem Chip.orReg_px (c : Chip) (u b o : Nat) (m : Word) (p : Nat) : (c.orReg u b o m).px p = c.px p := rfl

/-- A bit that the device sets reads 1 (R203). -/
theorem Chip.orReg_sets {i : Nat} (hi : i < 32) (c : Chip) (u b o : Nat) :
    ((c.orReg u b o (BitVec.ofNat 32 (2 ^ i))).reg u b o).getLsbD i = true := by
  rw [Chip.orReg, Chip.reg_setReg_self, BitVec.getLsbD_or, BitVec.getLsbD_ofNat, Nat.testBit_two_pow_self, decide_eq_true hi,
    Bool.and_self, Bool.or_true]

/-! Registers of a port. -/

section registers
variable {c : Chip} {src : Src} {p off : Nat} {r : RegDef} {v : Word}

theorem ftAdmin_uPx (hp : p < 4) (off : Nat) : ftAdmin (uPx p) off = false := by
  have hu : uPx p ≠ uFlow := by unfold uPx uFlow; omega
  simp [ftAdmin, hu]

/-- A port has no doorbell region. -/
theorem Chip.regionOff_uPx (hp : p < 4) (c : Chip) (off : Nat) : c.regionOff (uPx p) off = none := by
  have hsize : dbSize (uPx p) = 0 := by rw [dbSize, kindOf_uPx hp]
  rw [Chip.regionOff, hsize]
  exact if_neg (by omega)

/-- The only sources that reach a port's registers are harts and the controller (R48). -/
theorem Chip.ne_pf1_of_opens_uPx (hp : p < 4) (ho : c.opens src (uPx p) = true) : src ≠ .pf1 := by
  rintro rfl
  obtain ⟨-, hsee, -⟩ := Chip.opens_iff.mp ho
  simp [Chip.seesBlock, kindOf_uPx hp] at hsee

/-- The lanes of the sub-links follow PX_CFG (R362), and those of PX0 its role. -/
theorem Chip.sublinks_of_cfg {d : Chip} (h : ∀ u hi lo, d.regFld u 0 0x1040 hi lo = c.regFld u 0 0x1040 hi lo) (p : Nat) :
    d.sublinks p = c.sublinks p := by
  rw [Chip.sublinks, Chip.endpoint, h, h, Chip.sublinks, Chip.endpoint]

/-! Windows (R366, R368, R369). -/

/-- The shadow of a window is in the registers PX_WS_. -/
theorem Chip.shadow_of_regs {d : Chip} {w : Nat}
    (h : ∀ o, 0x105C ≤ o → o ≤ 0x1074 → d.reg (uPx p) w o = c.reg (uPx p) w o) : d.shadow p w = c.shadow p w := by
  unfold Chip.shadow
  simp (disch := decide) only [h]

/-- A value committed in a port's block is the number of a window, whose shadow becomes active. -/
theorem Chip.pairStore_uPx (hp : p < 4) (c : Chip) (b o : Nat) (v : Word) :
    c.pairStore (uPx p) b o v = ((c.setReg (uPx p) b o v).clearFault (uPx p) b o).windowSet p (fld v 3 0) := by
  have hu : uPx p - 17 = p := Nat.add_sub_cancel_left 17 p
  rw [Chip.pairStore, hu]
  exact if_pos (kindOf_uPx hp)

theorem Chip.windowSet_px (c : Chip) (p w : Nat) :
    (c.windowSet p w).px p = { c.px p with wins := Sparse.put (c.px p).wins w (c.shadow p w) } :=
  Chip.modPx_self _ _ _

theorem windowCommit_role (hp : p < 4) (hr : regAt (kindOf (uPx p)) 0x107C = some r) : r.role = .xCpl := by
  rw [kindOf_uPx hp] at hr
  cases hr
  rfl

/-- A commit that nothing rejects makes the shadow of the window that it names active, and no other (R368). -/
theorem Chip.put32_windowCommit (hp : p < 4) (hr : regAt (kindOf (uPx p)) 0x107C = some r) (ho : c.opens src (uPx p) = true)
    (hok : (c.pairCommit src (uPx p) (c.bankOf (uPx p) 0x107C) 0x107C r v).1 = none) :
    (c.put32 src (uPx p) 0x107C v.toNat).px p =
      { c.px p with wins := Sparse.put (c.px p).wins (fld (~~~ v) 3 0) (c.shadow p (fld (~~~ v) 3 0)) } := by
  have hm : c.mapped (uPx p) 0x107C = true :=
    Chip.mapped_iff.mpr ⟨by decide, by decide, Chip.regionOff_uPx hp _ _, by omega, by rw [dvWindow, kindOf_uPx hp]; rfl⟩
  have hrole := windowCommit_role hp hr
  rw [Chip.put32_mapped ho hm, Chip.regWrite_commit ho hr (fun h => Chip.ne_pf1_of_opens_uPx hp ho h.1) (.inl hrole) (by simp)
    (Chip.pairCommit_x hrole hok)]
  dsimp only
  rw [Chip.pairStore_uPx hp, Chip.windowSet_px]
  refine congrArg (fun x => ({ c.px p with wins := Sparse.put (c.px p).wins _ x } : Px)) (Chip.shadow_of_regs fun o _ hlast => ?_)
  exact Chip.reg_setReg_ne (by unfold regKey; omega) (c.dropPending _ _ _) _

/-! PX_LINK_CTL (R387). -/

/-- The fields of PX_LINK_CTL: EN, RETRAIN. -/
def linkCtlFields : List Fld :=
  [{ hi := 0, lo := 0, acc := .rw, en := true }, { hi := 1, lo := 1, acc := .wo }, { hi := 31, lo := 2, acc := .rsv }]

theorem linkCtlFields_apart : FieldsApart linkCtlFields := by unfold FieldsApart; decide

theorem linkCtl_fields (hp : p < 4) (h : regAt (kindOf (uPx p)) 0x1044 = some r) : r.fields = linkCtlFields := by
  rw [kindOf_uPx hp] at h
  cases h
  rfl

theorem Chip.bankOf_linkCtl (hp : p < 4) (c : Chip) : c.bankOf (uPx p) 0x1044 = 0 := by
  rw [Chip.bankOf, kindOf_uPx hp]
  rfl

theorem Chip.view_linkCtl (hp : p < 4) (c : Chip) (src : Src) : c.view src (uPx p) 0x1044 = c.reg (uPx p) 0 0x1044 := by
  unfold Chip.view
  simp [Chip.place, ftAdmin_uPx hp, Chip.bankOf_linkCtl hp, kindOf_uPx hp]

theorem Chip.regEffect_linkCtl (hp : p < 4) (c : Chip) (src : Src) (v old : Word) :
    c.regEffect src (uPx p) 0x1044 v old = c.linkCtl p v old := by
  have hu : uPx p - 17 = p := Nat.add_sub_cancel_left 17 p
  unfold Chip.regEffect
  extract_lets rises sw
  simp [kindOf_uPx hp, hu]

theorem keptElsewhere_linkCtl (hp : p < 4) : keptElsewhere (uPx p) 0x1044 = 0 := by
  simp [keptElsewhere, ringEnOff, kindOf_uPx hp]

/-- From `c` to `d` a write of v has been stored in PX_LINK_CTL of port p. -/
structure Chip.StoresLinkCtl (c d : Chip) (p : Nat) (v : Word) : Prop where
  pxs : d.pxs = c.pxs
  en : d.regFld (uPx p) 0 0x1044 0 0 = fld v 0 0
  cfg (u hi lo : Nat) : d.regFld u 0 0x1040 hi lo = c.regFld u 0 0x1040 hi lo

/-- An accepted write of PX_LINK_CTL is stored before it has its effect. -/
theorem Chip.put32_linkCtl (hp : p < 4) (h : c.takes src (uPx p) 0x1044 v = true) :
    ∃ d : Chip, c.put32 src (uPx p) 0x1044 v.toNat = d.linkCtl p v (c.reg (uPx p) 0 0x1044) ∧ c.StoresLinkCtl d p v := by
  have hv : BitVec.ofNat 32 v.toNat = v := BitVec.ofNat_toNat 32 v
  obtain ⟨r, hr, hput⟩ := Chip.takes_put32 (n := v.toNat) (by rwa [hv])
  have hfields := linkCtl_fields hp hr
  have hstore := Chip.regStore_own (c := c) (src := src) (v := v) (ftAdmin_uPx hp 0x1044) (keptElsewhere_linkCtl hp) (r := r)
    (by rw [RegDef.bits, hfields]; decide)
  rw [hv, Chip.regEffect_linkCtl hp, Chip.view_linkCtl hp] at hput
  refine ⟨_, hput, ?_, ?_, fun u hi lo => Chip.regFld_regStore_ne (ftAdmin_uPx hp _) (by decide) (by decide) (by decide) u hi lo⟩
  · rw [hstore]
    rfl
  · rw [hstore, Chip.bankOf_linkCtl hp]
    exact (Chip.regFld_setReg_self _ _ _ _ _ _ _).trans
      (RegDef.fld_merge (hfields ▸ linkCtlFields_apart) (f := { hi := 0, lo := 0, acc := .rw, en := true })
        (by rw [hfields]; decide) (by decide) (by decide) _ _)

theorem fld_pair_eq_zero {w : Word} (h : fld w 1 0 = 0) : w.getLsbD 0 = false ∧ w.getLsbD 1 = false := by
  have hbit (i : Nat) (hi : i < 2) : w.getLsbD i = false := by
    have hzero : (fld w 1 0).testBit i = false := by rw [h, Nat.zero_testBit]
    rw [fld_testBit, Nat.zero_add, decide_eq_true (by omega), Bool.true_and] at hzero
    exact hzero
  exact ⟨hbit 0 (by decide), hbit 1 (by decide)⟩

/-- EN set releases the PERST lands of the port's sub-links (R504). -/
theorem Chip.linkCtl_enables {old : Word} (hen : v.getLsbD 0 = true) (hold : old.getLsbD 0 = false) (hre : v.getLsbD 1 = false) :
    c.linkCtl p v old = { c with pwr := { c.pwr with
      perstUp := (List.range (c.sublinks p).length).foldl (fun l s => NatSet.insert l (4 * p + s)) c.pwr.perstUp } } := by
  simp only [Chip.linkCtl, hen, hold, hre, Bool.not_false, Bool.and_self, Bool.false_eq_true, if_true, if_false]

/-- RETRAIN brings every sub-link out of L1 (log 39). -/
theorem Chip.linkCtl_retrains {old : Word} (hen : v.getLsbD 0 = old.getLsbD 0) (hre : v.getLsbD 1 = true) :
    c.linkCtl p v old = (List.range (c.sublinks p).length).foldl (fun (c : Chip) s => c.l1Leave p s) c := by
  simp only [Chip.linkCtl, hen, hre, Bool.and_not_self, Bool.not_and_self, Bool.false_eq_true, if_true, if_false]

end registers

/-- A number inserted into a set of numbers on the way is a member in the end. -/
theorem NatSet.mem_foldl_insert (f : Nat → Nat) {l : List Nat} {k : Nat} (hk : k ∈ l) (m : NatSet) :
    f k ∈ l.foldl (fun m s => NatSet.insert m (f s)) m := by
  have hkeeps (l : List Nat) (m : NatSet) (h : f k ∈ m) : f k ∈ l.foldl (fun m s => NatSet.insert m (f s)) m :=
    List.foldlRecOn l _ h fun m h _ _ => NatSet.mem_insert_iff.mpr (.inr h)
  induction l generalizing m with
  | nil => cases hk
  | cons j t ih =>
    rcases List.mem_cons.mp hk with rfl | ht
    · exact hkeeps t _ (NatSet.mem_insert m _)
    · exact ih ht _

/-! L1 (R375). -/

section sleep
variable {c : Chip} {p s : Nat}

@[simp] theorem Chip.setL1_px (c : Chip) (p s level : Nat) :
    (c.setL1 p s level).px p = (c.px p).modSub s fun y => { y with l1 := level } := by
  unfold Chip.setL1
  dsimp only
  split <;> simp

/-- PX_LINK.L1 follows sub-link 0. -/
theorem Chip.setL1_link (c : Chip) (p level : Nat) :
    (c.setL1 p 0 level).regFld (uPx p) 0 0x1048 13 13 = if level = 0 then 0 else 1 := by
  rw [Chip.setL1, if_pos rfl, Chip.regFld_setRegFld_self (by decide)]
  split <;> rfl

@[simp] theorem Chip.flushSub_px (c : Chip) (p s : Nat) : (c.flushSub p s).px p =
    { (c.px p).modSub s fun y => { y with waiting := [] } with sent := (c.px p).sent ++ ((c.px p).subAt s).waiting } := by
  simp [Chip.flushSub]

@[simp] theorem Chip.flushSub_regFld (c : Chip) (p s u b o hi lo : Nat) :
    (c.flushSub p s).regFld u b o hi lo = c.regFld u b o hi lo := rfl

theorem Chip.subAt_flushSub_self (c : Chip) (p s : Nat) :
    ((c.flushSub p s).px p).subAt s = { (c.px p).subAt s with waiting := [] } := by
  rw [Chip.flushSub_px]
  exact Px.subAt_modSub_self (c.px p) s fun y => { y with waiting := [] }

theorem Chip.subAt_flushSub_ne {k : Nat} (hk : k ≠ s) (c : Chip) (p : Nat) :
    ((c.flushSub p s).px p).subAt k = (c.px p).subAt k := by
  rw [Chip.flushSub_px]
  exact Px.subAt_modSub_ne hk (c.px p) fun y => { y with waiting := [] }

/-- L1 ends, and what waited for the sub-link is sent. -/
theorem Chip.l1Leave_wakes (h : ((c.px p).subAt s).l1 ≠ 0) : c.l1Leave p s = (c.setL1 p s 0).flushSub p s := if_neg h

theorem Chip.l1Leave_subAt (h : ((c.px p).subAt s).l1 ≠ 0) :
    ((c.l1Leave p s).px p).subAt s = { (c.px p).subAt s with l1 := 0, waiting := [] } := by
  rw [Chip.l1Leave_wakes h, Chip.subAt_flushSub_self, Chip.setL1_px, Px.subAt_modSub_self]

theorem Chip.l1Leave_sent (h : ((c.px p).subAt s).l1 ≠ 0) :
    ((c.l1Leave p s).px p).sent = (c.px p).sent ++ ((c.px p).subAt s).waiting := by
  rw [Chip.l1Leave_wakes h, Chip.flushSub_px, Chip.setL1_px, Px.subAt_modSub_self]
  rfl

theorem Chip.l1Leave_link (h : ((c.px p).subAt 0).l1 ≠ 0) : (c.l1Leave p 0).regFld (uPx p) 0 0x1048 13 13 = 0 := by
  rw [Chip.l1Leave_wakes h, Chip.flushSub_regFld, Chip.setL1_link, if_pos rfl]

theorem Chip.l1Leave_awake (h : ((c.px p).subAt s).l1 = 0) : c.l1Leave p s = c := if_pos h

/-- Where L1 ends or was not, the sub-link is up or down as before. -/
theorem Chip.l1Leave_subAt_self (c : Chip) (p s : Nat) :
    (((c.l1Leave p s).px p).subAt s).l1 = 0 ∧ (((c.l1Leave p s).px p).subAt s).up = ((c.px p).subAt s).up := by
  by_cases h : ((c.px p).subAt s).l1 = 0
  · rw [Chip.l1Leave_awake h]
    exact ⟨h, rfl⟩
  · rw [Chip.l1Leave_subAt h]
    exact ⟨rfl, rfl⟩

theorem Chip.l1Leave_subAt_ne {k : Nat} (hk : k ≠ s) (c : Chip) (p : Nat) : ((c.l1Leave p s).px p).subAt k = (c.px p).subAt k := by
  by_cases h : ((c.px p).subAt s).l1 = 0
  · rw [Chip.l1Leave_awake h]
  · rw [Chip.l1Leave_wakes h, Chip.subAt_flushSub_ne hk, Chip.setL1_px, Px.subAt_modSub_ne hk]

/-- L1 ends on the sub-links of a list, and each of the port stays up or down. -/
theorem Chip.foldl_l1Leave_subAt {k : Nat} (l : List Nat) (c : Chip) (p : Nat) (hk : k ∈ l ∨ ((c.px p).subAt k).l1 = 0) :
    (((l.foldl (fun (c : Chip) s => c.l1Leave p s) c).px p).subAt k).l1 = 0 ∧
      (((l.foldl (fun (c : Chip) s => c.l1Leave p s) c).px p).subAt k).up = ((c.px p).subAt k).up := by
  induction l generalizing c with
  | nil => exact ⟨hk.resolve_left List.not_mem_nil, rfl⟩
  | cons s t ih =>
    rw [List.foldl_cons]
    by_cases hks : k = s
    · subst hks
      obtain ⟨hl1, hup⟩ := c.l1Leave_subAt_self p k
      obtain ⟨hl1', hup'⟩ := ih (c.l1Leave p k) (.inr hl1)
      exact ⟨hl1', hup'.trans hup⟩
    · have hsame := Chip.l1Leave_subAt_ne hks c p
      rw [← hsame]
      refine ih _ (hk.imp (fun h => (List.mem_cons.mp h).resolve_left hks) fun h => ?_)
      rwa [hsame]

/-- A sub-link may enter L1 or a substate (R375): it is up, L1 and the level are enabled, it is in the state before, and nothing
needs it. -/
structure Chip.MayEnter (c : Chip) (p s level : Nat) : Prop where
  up : ((c.px p).subAt s).up = true
  l1 : fld (c.reg (uPx p) 0 0x1050) 8 8 = 1
  level : level = 1 ∧ ((c.px p).subAt s).l1 = 0 ∨
    (level = 2 ∧ fld (c.reg (uPx p) 0 0x1050) 9 9 = 1 ∨ level = 3 ∧ fld (c.reg (uPx p) 0 0x1050) 10 10 = 1) ∧
      ((c.px p).subAt s).l1 = 1
  waiting : ((c.px p).subAt s).waiting = []
  np : ∀ q ∈ (c.px p).np, q.sub ≠ s
  cxl : ¬ (s = 0 ∧ c.regFld (uPx p) 0 0x1048 4 4 = 1 ∧ c.setNames p = true)

theorem Chip.l1Enter_enters {level : Nat} (h : c.MayEnter p s level) : c.l1Enter p s level =
    (c.modSub p s fun y =>
      { y with l1Count := min (2 ^ 32 - 1) (if level = 1 then y.l1Count + 1 else y.l1Count) }).setL1 p s level := by
  obtain ⟨hup, hl1, hlevel, hwait, hnp, hcxl⟩ := h
  have hidle : ((c.px p).np.any fun q => decide (q.sub = s)) = false := by simpa using hnp
  have hcxl' : (decide (s = 0) && decide (c.regFld (uPx p) 0 0x1048 4 4 = 1) && c.setNames p) = false := by
    rw [Bool.eq_false_iff]
    simpa [and_assoc] using hcxl
  unfold Chip.l1Enter
  rcases hlevel with ⟨rfl, hl⟩ | ⟨⟨rfl, hen⟩ | ⟨rfl, hen⟩, hl⟩
  · simp [hup, hl1, hl, hwait, hidle, hcxl']
  · simp [hup, hl1, hl, hwait, hidle, hcxl', hen]
  · simp [hup, hl1, hl, hwait, hidle, hcxl', hen]

theorem Chip.l1Enter_subAt {level : Nat} (h : c.MayEnter p s level) : (((c.l1Enter p s level).px p).subAt s) =
    { (c.px p).subAt s with
      l1 := level
      l1Count := min (2 ^ 32 - 1) (if level = 1 then ((c.px p).subAt s).l1Count + 1 else ((c.px p).subAt s).l1Count) } := by
  rw [Chip.l1Enter_enters h, Chip.setL1_px, Px.subAt_modSub_self, Chip.modSub_px, Px.subAt_modSub_self]

theorem Chip.l1Enter_link {level : Nat} (h : c.MayEnter p 0 level) (hlevel : level ≠ 0) :
    (c.l1Enter p 0 level).regFld (uPx p) 0 0x1048 13 13 = 1 := by
  rw [Chip.l1Enter_enters h, Chip.setL1_link, if_neg hlevel]

end sleep

/-! Links that go up and down (R361, R362, R374, R376). -/

section link
variable {c : Chip} {p s : Nat}

/-- A sub-link may train to a width and a speed (R361, R362, R387, R494). -/
structure Chip.MayTrain (c : Chip) (p s width speed : Nat) : Prop where
  runs : c.unitRuns (uPx p) = true
  en : c.regFld (uPx p) 0 0x1044 0 0 = 1
  width_pos : 0 < width
  width_le : width ≤ (c.sublinks p).getD s 0
  speed_le : speed ≤ c.regFld (uPx p) 0 0x1040 5 3
  perst : ¬ (p = 0 ∧ c.endpoint = true ∧ c.pwr.perst0 = true)

/-- A device whose sub-link has trained, with what waits for it still there. -/
def Chip.trainedSub (c : Chip) (p s width speed : Nat) : Chip :=
  let d := (c.modSub p s fun y => { y with up := true, width := width, speed := speed, l1 := 0 }).orReg (uPx p) 0 0x1048
    (BitVec.ofNat 32 (2 ^ s))
  if s = 0 then (d.setRegFld (uPx p) 0 0x1048 7 5 speed).setRegFld (uPx p) 0 0x1048 12 8 width else d

theorem Chip.linkUp_trains {width speed : Nat} (h : c.MayTrain p s width speed) :
    c.linkUp p s width speed = (c.trainedSub p s width speed).flushSub p s := by
  obtain ⟨hrun, hen, hpos, hle, hspeed, hperst⟩ := h
  refine if_neg ?_
  rintro (hoff | ⟨hdis, -⟩ | hnone | hwide | hzero | hfast | hlow)
  · simp [hrun] at hoff
  · omega
  · omega
  · omega
  · omega
  · omega
  · exact hperst hlow

theorem Chip.trainedSub_px (c : Chip) (p s width speed : Nat) : (c.trainedSub p s width speed).px p =
    (c.px p).modSub s fun y => { y with up := true, width := width, speed := speed, l1 := 0 } := by
  unfold Chip.trainedSub
  dsimp only
  split <;> simp

/-- PX_LINK shows the sub-link up, and the speed and width of sub-link 0 (R387). -/
theorem Chip.trainedSub_link (hs : s < 4) (c : Chip) (p width speed : Nat) :
    (c.trainedSub p s width speed).regFld (uPx p) 0 0x1048 s s = 1 := by
  have hor : ((c.modSub p s fun y => { y with up := true, width := width, speed := speed, l1 := 0 }).orReg (uPx p) 0 0x1048
      (BitVec.ofNat 32 (2 ^ s))).regFld (uPx p) 0 0x1048 s s = 1 :=
    fld_single_eq_one.mpr (Chip.orReg_sets (by omega) _ _ _ _)
  unfold Chip.trainedSub
  dsimp only
  split
  · rwa [Chip.regFld_setRegFld_apart (by omega) (by omega), Chip.regFld_setRegFld_apart (by omega) (by omega)]
  · exact hor

theorem Chip.trainedSub_first {width speed : Nat} (hspeed : speed < 8) (hwidth : width < 32) (c : Chip) (p : Nat) :
    (c.trainedSub p 0 width speed).regFld (uPx p) 0 0x1048 7 5 = speed ∧
      (c.trainedSub p 0 width speed).regFld (uPx p) 0 0x1048 12 8 = width := by
  unfold Chip.trainedSub
  dsimp only
  rw [if_pos rfl]
  constructor
  · rw [Chip.regFld_setRegFld_apart (by decide) (by decide), Chip.regFld_setRegFld_self (by decide)]
    exact Nat.mod_eq_of_lt hspeed
  · rw [Chip.regFld_setRegFld_self (by decide)]
    exact Nat.mod_eq_of_lt hwidth

section up
variable {width speed : Nat} (h : c.MayTrain p s width speed)
include h

theorem Chip.linkUp_subAt : ((c.linkUp p s width speed).px p).subAt s =
    { (c.px p).subAt s with up := true, width := width, speed := speed, l1 := 0, waiting := [] } := by
  rw [Chip.linkUp_trains h, Chip.subAt_flushSub_self, Chip.trainedSub_px, Px.subAt_modSub_self]

/-- What waited for the sub-link leaves. -/
theorem Chip.linkUp_sent : ((c.linkUp p s width speed).px p).sent = (c.px p).sent ++ ((c.px p).subAt s).waiting := by
  rw [Chip.linkUp_trains h, Chip.flushSub_px, Chip.trainedSub_px, Px.subAt_modSub_self]
  rfl

theorem Chip.linkUp_link (hs : s < 4) : (c.linkUp p s width speed).regFld (uPx p) 0 0x1048 s s = 1 := by
  rw [Chip.linkUp_trains h, Chip.flushSub_regFld, Chip.trainedSub_link hs]

theorem Chip.linkUp_first (hs : s = 0) (hspeed : speed < 8) (hwidth : width < 32) :
    (c.linkUp p s width speed).regFld (uPx p) 0 0x1048 7 5 = speed ∧
      (c.linkUp p s width speed).regFld (uPx p) 0 0x1048 12 8 = width := by
  subst hs
  rw [Chip.linkUp_trains h, Chip.flushSub_regFld, Chip.flushSub_regFld]
  exact Chip.trainedSub_first hspeed hwidth _ _

end up

/-- A sub-link that is down: what waited for it is discarded and counted. -/
def Sub.downed (y : Sub) : Sub :=
  { y with up := false, discard := min (2 ^ 32 - 1) (y.discard + y.waiting.length), waiting := [] }

/-- A device whose sub-link is down, in PX_LINK too, with its requests still to expire. -/
def Chip.downedSub (c : Chip) (p s : Nat) : Chip :=
  let d := (c.modSub p s Sub.downed).setL1 p s 0
  let d := if s < 4 then d.setRegFld (uPx p) 0 0x1048 s s 0 else d
  if s = 0 then d.setRegFld (uPx p) 0 0x1048 4 4 0 else d

theorem Chip.downedSub_px (c : Chip) (p s : Nat) :
    (c.downedSub p s).px p = ((c.px p).modSub s Sub.downed).modSub s fun y => { y with l1 := 0 } := by
  unfold Chip.downedSub
  dsimp only
  split_ifs <;> simp

theorem Chip.downedSub_link (hs : s < 4) (c : Chip) (p : Nat) : (c.downedSub p s).regFld (uPx p) 0 0x1048 s s = 0 := by
  unfold Chip.downedSub
  dsimp only
  rw [if_pos hs]
  split
  · rw [Chip.regFld_setRegFld_apart (by omega) (by omega), Chip.regFld_setRegFld_self (by omega), Nat.zero_mod]
  · rw [Chip.regFld_setRegFld_self (by omega), Nat.zero_mod]

theorem Chip.pxErr_sets {i : Nat} (hi : i < 32) (c : Chip) (p : Nat) : ((c.pxErr p i).reg (uPx p) 0 0x1054).getLsbD i = true :=
  Chip.orReg_sets hi _ _ _ _

theorem Chip.pxErr_regFld {o : Nat} (ho : o ≠ 0x1054) (c : Chip) (p i hi lo : Nat) :
    (c.pxErr p i).regFld (uPx p) 0 o hi lo = c.regFld (uPx p) 0 o hi lo :=
  Chip.regFld_setReg_ne ho _ _ _ _

/-- A sub-link that no request waits on goes down. -/
theorem Chip.linkDown_quiet (hup : ((c.px p).subAt s).up = true) (hnp : ∀ q ∈ (c.px p).np, q.sub ≠ s) :
    c.linkDown p s = (c.downedSub p s).pxErr p 4 := by
  have hnone : ((c.downedSub p s).px p).np.filter (fun r => decide (r.sub = s)) = [] := by
    rw [Chip.downedSub_px]
    simpa using hnp
  rw [Chip.linkDown]
  refine (if_neg (by simp [hup])).trans ?_
  change ((((c.downedSub p s).px p).np.filter fun r => decide (r.sub = s)).foldl (fun (c : Chip) r => c.expire p r)
    (c.downedSub p s)).pxErr p 4 = _
  rw [hnone]
  rfl

section down
variable (hup : ((c.px p).subAt s).up = true) (hnp : ∀ q ∈ (c.px p).np, q.sub ≠ s)
include hup hnp

theorem Chip.linkDown_px : (c.linkDown p s).px p = ((c.px p).modSub s Sub.downed).modSub s fun y => { y with l1 := 0 } := by
  rw [Chip.linkDown_quiet hup hnp, Chip.pxErr, Chip.orReg_px, Chip.downedSub_px]

theorem Chip.linkDown_subAt : ((c.linkDown p s).px p).subAt s = { ((c.px p).subAt s).downed with l1 := 0 } := by
  rw [Chip.linkDown_px hup hnp, Px.subAt_modSub_self, Px.subAt_modSub_self]

theorem Chip.linkDown_np : ((c.linkDown p s).px p).np = (c.px p).np := by
  rw [Chip.linkDown_px hup hnp, Px.modSub_np, Px.modSub_np]

theorem Chip.linkDown_link (hs : s < 4) : (c.linkDown p s).regFld (uPx p) 0 0x1048 s s = 0 := by
  rw [Chip.linkDown_quiet hup hnp, Chip.pxErr_regFld (by decide), Chip.downedSub_link hs]

theorem Chip.linkDown_errstat : ((c.linkDown p s).reg (uPx p) 0 0x1054).getLsbD 4 = true := by
  rw [Chip.linkDown_quiet hup hnp]
  exact Chip.pxErr_sets (by decide) _ _

end down

/-- A root port's sub-link goes down by itself; PX0's in the ENDPOINT role resets the functions (R374). -/
theorem Chip.subLinkDown_root (h : ¬ (p = 0 ∧ c.endpoint = true)) : c.subLinkDown p s = c.linkDown p s := if_neg h

theorem Chip.subLinkDown_endpoint (hend : c.endpoint = true) (hup : ((c.px 0).subAt 0).up = true) :
    c.subLinkDown 0 0 = c.endpointReset := (if_pos ⟨rfl, hend⟩).trans (if_pos ⟨rfl, hup⟩)

theorem Chip.endpointReset_endpoint (hend : c.endpoint = true) : c.endpointReset = (c.linkDown 0 0).flr 0 := if_pos hend

/-- CXL.mem becomes active on a root port whose sub-link 0 is up and wide enough, with CXL enabled (R376). -/
theorem Chip.cxlActive_sets (hup : c.cxlUp p = true) (hen : c.regFld (uPx p) 0 0x1040 6 6 = 1) (hroot : ¬ (p = 0 ∧ c.endpoint = true))
    (hwide : 8 ≤ (c.sublinks p).getD 0 0) (cap : Nat) :
    c.cxlActive p cap = (c.setRegFld (uPx p) 0 0x1048 4 4 1).modPx p fun x => { x with cap := cap } := by
  have hroot' : (decide (p = 0) && c.endpoint) = false := by
    rw [Bool.eq_false_iff]
    simpa using hroot
  exact if_pos (by simp only [hup, hen, hroot', hwide, decide_true, Bool.not_false, Bool.and_self])

end link

/-- An accepted write of EN to a port that is off releases the PERST lands of its sub-links (R387, R504). -/
theorem Chip.put32_enables {c : Chip} {src : Src} {p sub : Nat} (hp : p < 4)
    (h : c.takes src (uPx p) 0x1044 (c.reg (uPx p) 0 0x1044 ||| 1) = true) (hoff : c.regFld (uPx p) 0 0x1044 1 0 = 0)
    (hsub : sub < (c.sublinks p).length) :
    (c.put32 src (uPx p) 0x1044 (c.reg (uPx p) 0 0x1044 ||| 1).toNat).regFld (uPx p) 0 0x1044 0 0 = 1 ∧
      4 * p + sub ∈ (c.put32 src (uPx p) 0x1044 (c.reg (uPx p) 0 0x1044 ||| 1).toNat).pwr.perstUp := by
  obtain ⟨d, hput, hstored⟩ := Chip.put32_linkCtl hp h
  obtain ⟨hen, hre⟩ := fld_pair_eq_zero hoff
  rw [hput, Chip.linkCtl_enables (by simp) hen (by simpa using hre), Chip.sublinks_of_cfg hstored.cfg]
  refine ⟨hstored.en.trans (fld_single_eq_one.mpr (by simp)), ?_⟩
  exact NatSet.mem_foldl_insert (4 * p + ·) (List.mem_range.mpr hsub) _

/-- An accepted write of RETRAIN brings the port's sub-links out of L1, each up or down as before. -/
theorem Chip.put32_retrains {c : Chip} {src : Src} {p sub : Nat} (hp : p < 4)
    (h : c.takes src (uPx p) 0x1044 (c.reg (uPx p) 0 0x1044 ||| 2) = true) (hsub : sub < (c.sublinks p).length) :
    (((c.put32 src (uPx p) 0x1044 (c.reg (uPx p) 0 0x1044 ||| 2).toNat).px p).subAt sub).l1 = 0 ∧
      (((c.put32 src (uPx p) 0x1044 (c.reg (uPx p) 0 0x1044 ||| 2).toNat).px p).subAt sub).up = ((c.px p).subAt sub).up := by
  obtain ⟨d, hput, hstored⟩ := Chip.put32_linkCtl hp h
  have hpx : d.px p = c.px p := congrArg (fun m : Sparse Px => m.at {} p) hstored.pxs
  rw [hput, Chip.linkCtl_retrains (by simp) (by simp), Chip.sublinks_of_cfg hstored.cfg, ← hpx]
  exact Chip.foldl_l1Leave_subAt _ d p (.inl (List.mem_range.mpr hsub))

/-- Settles O44: the two registers, then each event of a sub-link, the ENDPOINT role last. -/
theorem linksTrainAndSleep : Obligations.LinksTrainAndSleep := by
  intro s src port sub width speed level cap v r c u x y lanes bits hport hsub
  refine ⟨?_, ?_, ?_, ?_, ?_, ?_, ?_, ?_, ?_, ?_⟩
  · intro hr ho hok
    have hpx := Chip.put32_windowCommit hport hr ho hok
    exact RunsTo.of_fuseless (·.put32 src u 0x107C v.toNat) rfl ⟨congrArg Px.wins hpx, (congrArg Px.subs hpx :)⟩ fun _ _ hd => hd
  · intro htakes hoff hlist
    exact RunsTo.of_fuseless (fun c => c.put32 src (uPx port) 0x1044 (c.reg (uPx port) 0 0x1044 ||| 1).toNat) rfl
      (Chip.put32_enables hport htakes hoff hlist) fun _ _ hd => hd
  · intro htakes hlist
    exact RunsTo.of_fuseless (fun c => c.put32 src (uPx port) 0x1044 (c.reg (uPx port) 0 0x1044 ||| 2).toNat) rfl
      (Chip.put32_retrains hport htakes hlist) fun _ _ hd => hd
  · intro hrun hen hpos hle hspeed hperst h8 h32
    have htrain : c.MayTrain port sub width speed := ⟨hrun, hen, hpos, hle, hspeed, hperst⟩
    exact RunsTo.of_fuseless (·.linkUp port sub width speed) rfl
      ⟨Chip.linkUp_subAt htrain, Chip.linkUp_sent htrain, Chip.linkUp_link htrain hsub,
        fun hs => Chip.linkUp_first htrain hs h8 h32⟩ fun _ _ hd => hd
  · intro hroot hup hnp
    refine RunsTo.of_fuseless (·.subLinkDown port sub) rfl ?_ fun _ _ hd => hd
    have hsubAt := Chip.linkDown_subAt hup hnp
    rw [show s.chip.subLinkDown port sub = _ from Chip.subLinkDown_root hroot]
    exact ⟨congrArg Sub.up hsubAt, congrArg Sub.waiting hsubAt, congrArg Sub.discard hsubAt, Chip.linkDown_link hup hnp hsub,
      Chip.linkDown_errstat hup hnp, Chip.linkDown_np hup hnp⟩
  · intro hup hl1 hwait hnp hcxl
    refine ⟨fun hlevel hawake => ?_, fun hlevel hin => ?_⟩
    · subst hlevel
      have henter : c.MayEnter port sub 1 := ⟨hup, hl1, .inl ⟨rfl, hawake⟩, hwait, hnp, hcxl⟩
      have hsubAt := Chip.l1Enter_subAt henter
      refine RunsTo.of_fuseless (·.l1Enter port sub 1) rfl
        ⟨congrArg Sub.l1 hsubAt, congrArg Sub.l1Count hsubAt, fun hs => ?_⟩ fun _ _ hd => hd
      subst hs
      exact Chip.l1Enter_link henter (by decide)
    · have henter : c.MayEnter port sub level := ⟨hup, hl1, .inr ⟨hlevel, hin⟩, hwait, hnp, hcxl⟩
      exact RunsTo.of_fuseless (·.l1Enter port sub level) rfl (congrArg Sub.l1 (Chip.l1Enter_subAt henter)) fun _ _ hd => hd
  · intro hin
    refine RunsTo.of_fuseless (·.l1Leave port sub) rfl ⟨Chip.l1Leave_subAt hin, Chip.l1Leave_sent hin, fun hs => ?_⟩ fun _ _ hd => hd
    subst hs
    exact Chip.l1Leave_link hin
  · intro hup hen hroot hwide
    refine RunsTo.of_fuseless (·.cxlActive port cap) rfl ?_ fun _ _ hd => hd
    rw [show s.chip.cxlActive port cap = _ from Chip.cxlActive_sets hup hen hroot hwide cap, Chip.modPx_self]
    exact ⟨Chip.regFld_setRegFld_self (by decide) _ _ _, rfl⟩
  · intro hend
    have hreset := Chip.endpointReset_endpoint hend
    refine ⟨Runs.of (f := (·.endpointReset)) rfl (congrArg (·.withFuse c.fuse) hreset), fun hup => ?_⟩
    have hdown := (Chip.subLinkDown_endpoint hend hup).trans hreset
    exact Runs.of (f := (·.subLinkDown 0 0)) rfl (congrArg (·.withFuse c.fuse) hdown)
  · exact Runs.keep (·.perst0Off) rfl rfl rfl

end Sys2Proof.Machine
end
